-- ==== Sys2Proof/Word.lean ====
section
/-! DEFINITION. The word and byte types of the Taride and the names of its kinds of element. -/

namespace Sys2Proof

/-- A payload, register or memory word: 64 bits (R56, R365). -/
abbrev Word := BitVec 64

/-- A byte of memory (R3). -/
abbrev Byte := BitVec 8

end Sys2Proof
end

