-- ==== Sys2Proof/Config.lean ====
section
/-! DEFINITION. What the spec leaves open and an implementation or a run decides. None of these has a body: a
statement holds whatever their values are (log 3, 5, 9, 12, 15, 18, 19, 20, 24, 43, 44, 68, 70). A Nat argument is the
counter State.freeCount, unless the constant says otherwise. -/

namespace Sys2Proof.Config

/-- Element clocks an access, request or command waits beyond the figure that holds with no waits (R275, R321, R345,
R351, R360, R413). -/
opaque wait : Nat → Nat

/-- Whether one of several words that a unit may read or write in a clock is read or written in it (R286): the counter and
the word's number. -/
opaque part : Nat → Nat → Bool

/-- Whether a walker uses a descriptor it keeps rather than the word now in memory (R254). -/
opaque useCache : Nat → Bool

/-- The detail of a trap or a FAULT token for which the spec states none (R368, R381, R427). -/
opaque detail : Nat → Word

/-- dv.INCARN after a loss of board power (R404). -/
opaque incarn : Nat → BitVec 32

/-- The value of LINK while a record is owned (R336). -/
opaque link : Nat → Word

/-- Information of a BADSTATE status of DRRECV and DRCLOSE, where no state is numbered (R354, R424). -/
opaque info : Nat → Nat

/-- The rounding mode, modulo 6, of a BX4 block of a MAX reduction whose greatest elements no one block holds, by the
blocks combined (R89, R417). -/
opaque maxRound : List Word → Nat

/-- The rounding mode, modulo 6, of an element whose RMODE an EWR has set to this reserved code (R47, R378). -/
opaque reservedRound : Nat → Nat

/-- Link clocks that a port counts in one element clock (R401): the counter and the port. -/
opaque linkTick : Nat → Nat → Nat

/-- Whether the firmware image passes its check at boot (R461). -/
opaque firmwareOk : Nat → Bool

/-- SHAKE256 digest of the running firmware, by the boot that read it (R461), fuse identifier, digest of the identity public
key (R463). -/
opaque firmwareDigest : Nat → List Word

opaque fuseId : List Word
opaque identityDigest : List Word

/-- The port, 0 to 17, by which the messages of a remote host's package come (R459): the package's number. -/
opaque ownerPort : Nat → Nat

/-- The Falcon-1024 signature over a digest (R462, R463). -/
opaque signature : List Byte → List Word

/-- The status of a RESP for which the spec states none: of a WR or RD with a word that could not be written or read
(R339, R451, R455), and of the parts of a report before the last (R463). -/
opaque respStatus : Nat → Nat

/-- The word that an RD returns for a word with an uncorrectable error (R248). -/
opaque badWord : Nat → Word

end Sys2Proof.Config
end

