-- ==== Sys2Proof/Machine/Bits.lean ====
section
/-! DEFINITION. Bit fields, lanes, byte order and residues: the helpers that every layout of the spec uses (R3, R8, R43, R60). -/

namespace Sys2Proof.Machine

/-- Bits [lo+n-1 : lo] of a number. -/
def fldN (w lo n : Nat) : Nat := w / 2 ^ lo % 2 ^ n

/-- Bits [lo+n-1 : lo] of a 64-bit word, as a number. -/
def fld (w : Word) (lo n : Nat) : Nat := fldN w.toNat lo n

/-- Bit k of a word. -/
def bitAt (w : Word) (k : Nat) : Bool := w.getLsbD k

/-- Bit k of a number. -/
def bitN (w k : Nat) : Bool := w.testBit k

/-- Replace bits [lo+n-1 : lo] of a number by v. -/
def setFldN (w lo n v : Nat) : Nat :=
  w - fldN w lo n * 2 ^ lo + v % 2 ^ n * 2 ^ lo

/-- Replace a field of a 64-bit word. -/
def setFld (w : Word) (lo n v : Nat) : Word := BitVec.ofNat 64 (setFldN w.toNat lo n v)

def boolN (b : Bool) : Nat := if b then 1 else 0

/-- The signed reading of an n-bit number (two's complement, R8). -/
def sgn (n x : Nat) : Int :=
  let y := x % 2 ^ n
  if y < 2 ^ (n - 1) then (y : Int) else (y : Int) - (2 ^ n : Nat)

/-- The low n bits of an integer (R8). -/
def wrapN (n : Nat) (x : Int) : Nat := (x % ((2 ^ n : Nat) : Int)).toNat

/-- Saturation to the signed range of n bits, as the n-bit pattern (R78). -/
def satS (n : Nat) (x : Int) : Nat :=
  let hi : Int := (2 ^ (n - 1) : Nat) - 1
  let lo : Int := -((2 ^ (n - 1) : Nat) : Int)
  wrapN n (if x > hi then hi else if x < lo then lo else x)

/-- Lane k of width w of a 64-bit word (R43). -/
def laneN (w k : Nat) (x : Word) : Nat := fldN x.toNat (w * k) w

def foldlRange {α : Type} (f : α → Nat → α) : Nat → α → α
  | 0, a => a
  | n + 1, a => f (foldlRange f n a) n

/-- A word from its lanes of width w, lane 0 lowest. -/
def packLanes (w : Nat) (ls : List Nat) : Nat :=
  match ls with
  | [] => 0
  | l :: rest => l % 2 ^ w + 2 ^ w * packLanes w rest

def packW (w : Nat) (ls : List Nat) : Word := BitVec.ofNat 64 (packLanes w ls)

/-- All lanes of width w of a word, lane 0 first. -/
def lanes (w : Nat) (x : Word) : List Nat := (List.range (64 / w)).map fun k => laneN w k x

/-- Apply an operation lane by lane. -/
def map2Lanes (w : Nat) (f : Nat → Nat → Nat) (a b : Word) : Word :=
  packW w ((List.range (64 / w)).map fun k => f (laneN w k a) (laneN w k b))

def map1Lanes (w : Nat) (f : Nat → Nat) (a : Word) : Word :=
  packW w ((List.range (64 / w)).map fun k => f (laneN w k a))

/-- The residue of a payload modulo 15 (R60). -/
def residue (x : Word) : BitVec 4 := BitVec.ofNat 4 (x.toNat % 15)

/-- Bytes of a number, lowest address first (R3). -/
def bytesOf : Nat → Nat → List Byte
  | 0, _ => []
  | n + 1, x => BitVec.ofNat 8 x :: bytesOf n (x / 256)

/-- A number from its bytes, lowest address first (R3). -/
def ofBytes : List Byte → Nat
  | [] => 0
  | b :: bs => b.toNat + 256 * ofBytes bs

/-- Number of one bits among the low n bits. -/
def popN : Nat → Nat → Nat
  | 0, _ => 0
  | n + 1, x => x % 2 + popN n (x / 2)

/-- Position of the lowest one bit among the low n bits, n when there is none. -/
def ctzN : Nat → Nat → Nat
  | 0, _ => 0
  | n + 1, x => if x % 2 = 1 then 0 else 1 + ctzN n (x / 2)

/-- Integer square root (floor), by k bits from the top. -/
def isqrtAux (n : Nat) : Nat → Nat → Nat
  | 0, r => r
  | k + 1, r =>
    let c := r + 2 ^ k
    isqrtAux n k (if c * c ≤ n then c else r)

def isqrt (n : Nat) : Nat := isqrtAux n (n.log2 / 2 + 1) 0

def ceilDiv (a b : Nat) : Nat := (a + b - 1) / b

/-- Indexes below n at which a bit of x is set, in increasing order. -/
def setBits (n x : Nat) : List Nat := (List.range n).filter fun k => x.testBit k

/-- Register k of a list of registers set to a; registers that the list does not reach read as d. -/
def putAt {α : Type} (d : α) : List α → Nat → α → List α
  | [], 0, a => [a]
  | [], k + 1, a => d :: putAt d [] k a
  | _ :: r, 0, a => a :: r
  | x :: r, k + 1, a => x :: putAt d r k a

end Sys2Proof.Machine
end

