-- ==== Sys2Proof/Machine/Types.lean ====
section
/-! DEFINITION. The data that instructions and events carry: slot fields, names of elements and fabric loads,
messages, packets and remote requests. -/

namespace Sys2Proof.Machine

/-- The kinds of element; codes CE 0, SPE 1, MXE 2, MPE 3 (R16). -/
inductive Kind where
  | ce | spe | mxe | mpe
deriving DecidableEq, Repr

def Kind.code : Kind → Nat
  | .ce => 0 | .spe => 1 | .mxe => 2 | .mpe => 3

def Kind.ofCode (n : Nat) : Kind :=
  match n with
  | 0 => .ce | 1 => .spe | 2 => .mxe | _ => .mpe

/-- The fields of a 64-bit slot: trigger word (R37) and operation word less its opcode (R39). -/
structure SlotF where
  pcare : BitVec 8
  pval : BitVec 8
  irdy : BitVec 4
  ospc : BitVec 4
  ten : BitVec 1
  tch : BitVec 2
  tval : BitVec 3
  grp : BitVec 2
  lane : BitVec 2
  dst : BitVec 4
  srca : BitVec 4
  srcb : BitVec 4
  deq : BitVec 4
  pidx : BitVec 3
  pmode : BitVec 2
  otag : BitVec 2
deriving DecidableEq, Repr

/-- The slot whose words are all zero but for the opcode. -/
def SlotF.zero : SlotF := ⟨0, 0, 0, 0, 0, 0, 0, 0, 0, 0, 0, 0, 0, 0, 0, 0⟩

/-- An element of a fabric load: die, fabric number, logical tile number, logical site (R96, R378). -/
structure ElemRef where
  die : Nat
  fab : Nat
  lt : Nat
  site : Nat
deriving DecidableEq, Repr

/-- A fabric load: die and fabric number (R349). -/
structure LoadRef where
  die : Nat
  fab : Nat
deriving DecidableEq, Repr

def ElemRef.load (r : ElemRef) : LoadRef := ⟨r.die, r.fab⟩

/-- A master, its kind stamped by the port of arrival (R458). -/
inductive Master where
  | host | board | remote (pkg : Nat)
deriving DecidableEq, Repr

/-- A message: header word, data words, trailer word (R454). -/
structure Msg where
  master : Master
  header : Word
  data : List Word
  trailer : Word
deriving DecidableEq, Repr

def Msg.type (m : Msg) : Nat := fld m.header 60 4
def Msg.tag (m : Msg) : Nat := fld m.header 52 8
def Msg.len (m : Msg) : Nat := fld m.header 47 5
def Msg.addr (m : Msg) : Nat := fld m.header 0 44

/-- What a remote request does at its target (R406, R355, R405). -/
inductive RemOp where
  | read (n : Nat)
  | write
  | atomic (op lane : Nat)
  | probe
deriving DecidableEq, Repr

/-- A request of one package to another (R406); cls is the class of the page in the run it was issued under
(log 34). -/
structure RemReq where
  src : Nat
  dest : Nat
  tag : Nat
  inc : Nat
  op : RemOp
  addr : Nat
  cls : Nat
  data : Word
deriving DecidableEq, Repr

/-- A reply to a remote request: a cause (0 for none) and the words read, with their residues (R409). -/
structure RemRep where
  dest : Nat
  tag : Nat
  cause : Nat
  words : List (Word × BitVec 4)
deriving DecidableEq, Repr

/-- A reduction packet (R416); payload words travel with their residues. -/
structure Packet where
  kind : Nat
  dir : Nat
  op : Nat
  fmt : Nat
  lenm1 : Nat
  seq : Nat
  group : Nat
  node : Nat
  ver : Nat
  mbase : Nat
  mspan : Nat
  count : Nat
  payload : List (Word × BitVec 4)
  bitmap : Nat
deriving DecidableEq, Repr

end Sys2Proof.Machine
end

