-- ==== Sys2Proof/Syntax.lean ====
section
/-! DEFINITION. The instructions: one constructor for each row of the opcode table. A slot instruction carries the
fields of its slot (R37, R39) and a sequencer word its fields (R62). The other rows are steps of the device that have
no encoding: the object such a step acts on is the actor of State. -/

namespace Sys2Proof

open Sys2Proof.Machine

/-- One row of the opcode table each. -/
inductive Instr where
  /-- Fires with result 0 and outcome false, used to dequeue tokens and change a predicate. (R123) -/
  | nop (f : SlotF)
  /-- Copies the value of SRCA to the destination. (R124) -/
  | mov (f : SlotF)
  /-- Copies SRCA to the destination with the format tag given raw in SRCB. (R125) -/
  | emit (f : SlotF)
  /-- Combines two predicates by AND, OR or XOR into a 0 or 1 result. (R126) -/
  | plog (f : SlotF)
  /-- Returns the control tag and format tag of an input's head token. (R127) -/
  | tagrd (f : SlotF)
  /-- Dequeues the named inputs and emits one ORDER token of the given scope on the named outputs. (R362) -/
  | join (f : SlotF)
  /-- Counts dequeued tokens in a data register and emits an ORDER token each time the count reaches N. (R363) -/
  | joinc (f : SlotF)
  /-- Fires with outcome false, stops the element and traps its tile sequencer with USER_TRAP and code n. (R129) -/
  | trap (f : SlotF)
  /-- Reads a slot's performance counter or balance weight, optionally clearing the counter. (R130) -/
  | perf (f : SlotF)
  /-- Selects SRCA or SRCB according to predicate Pk. (R128) -/
  | sel (f : SlotF)
  /-- Adds the signed lanes of two sources, keeping the low w bits. (R137) -/
  | add (f : SlotF)
  /-- Subtracts the signed lanes of two sources, keeping the low w bits. (R137) -/
  | sub (f : SlotF)
  /-- Adds signed lanes with saturation to the lane range. (R137) -/
  | adds (f : SlotF)
  /-- Subtracts signed lanes with saturation to the lane range. (R137) -/
  | subs (f : SlotF)
  /-- Multiplies lanes, keeping the low w bits of the product. (R137) -/
  | mul (f : SlotF)
  /-- Gives the high w bits of the signed lane product. (R137) -/
  | mulh (f : SlotF)
  /-- Gives the high w bits of the unsigned lane product. (R137) -/
  | mulhu (f : SlotF)
  /-- Adds the lane products of two sources into the accumulator register Dn, wrapping. (R139) -/
  | mac (f : SlotF)
  /-- Gives the lesser signed lane. (R137) -/
  | min (f : SlotF)
  /-- Gives the lesser unsigned lane. (R137) -/
  | minu (f : SlotF)
  /-- Gives the greater signed lane. (R137) -/
  | max (f : SlotF)
  /-- Gives the greater unsigned lane. (R137) -/
  | maxu (f : SlotF)
  /-- Gives the absolute value of each signed lane. (R137) -/
  | abs (f : SlotF)
  /-- Negates each signed lane. (R137) -/
  | neg (f : SlotF)
  /-- Sets each lane to all ones where the lanes are equal. (R137) -/
  | cmpeq (f : SlotF)
  /-- Sets each lane to all ones where the signed lane of a is less than that of b. (R137) -/
  | cmplt (f : SlotF)
  /-- Sets each lane to all ones where the unsigned lane of a is less than that of b. (R137) -/
  | cmpltu (f : SlotF)
  /-- Sets each lane to all ones where the signed lane of a is at most that of b. (R137) -/
  | cmple (f : SlotF)
  /-- Bitwise AND of two sources. (R137) -/
  | and (f : SlotF)
  /-- Bitwise OR of two sources. (R137) -/
  | or (f : SlotF)
  /-- Bitwise XOR of two sources. (R137) -/
  | xor (f : SlotF)
  /-- Bitwise a AND NOT b. (R137) -/
  | andn (f : SlotF)
  /-- Shifts each lane left by sh. (R137) -/
  | shl (f : SlotF)
  /-- Shifts each lane right logically by sh. (R137) -/
  | shr (f : SlotF)
  /-- Shifts each lane right arithmetically by sh. (R137) -/
  | sar (f : SlotF)
  /-- Rotates each lane left by sh. (R137) -/
  | rotl (f : SlotF)
  /-- Rounding arithmetic right shift of each lane, ties toward plus infinity. (R137) -/
  | rshr (f : SlotF)
  /-- Saturates each signed lane to an n-bit signed range. (R138) -/
  | satn (f : SlotF)
  /-- Counts the leading zero bits of each lane. (R137) -/
  | clz (f : SlotF)
  /-- Counts the one bits of each lane. (R137) -/
  | popc (f : SlotF)
  /-- Counts the one bits of each lane below position sh. (R137) -/
  | ppopc (f : SlotF)
  /-- Computes two exact four-term 8-bit dot products into 32-bit lanes. (R140) -/
  | dot4 (f : SlotF)
  /-- Narrows lanes of two sources into one result, keeping low bits. (R141) -/
  | pack (f : SlotF)
  /-- Widens the low half of the source lanes with sign or zero extension. (R141) -/
  | unpkl (f : SlotF)
  /-- Widens the high half of the source lanes with sign or zero extension. (R141) -/
  | unpkh (f : SlotF)
  /-- Builds the result bytewise from SRCA under eight control nibbles of SRCB. (R142) -/
  | shuf (f : SlotF)
  /-- Copies lane k of SRCA to every lane. (R143) -/
  | bcast (f : SlotF)
  /-- Sums all signed lanes exactly into an I64. (R143) -/
  | lanesum (f : SlotF)
  /-- Replaces lane k of Dn with lane 0 of SRCA. (R143) -/
  | ins (f : SlotF)
  /-- Extracts lane k of SRCA, zero-extended. (R143) -/
  | extr (f : SlotF)
  /-- Adds floating lanes, rounded once. (R145) -/
  | fadd (f : SlotF)
  /-- Subtracts floating lanes, rounded once. (R145) -/
  | fsub (f : SlotF)
  /-- Multiplies floating lanes, rounded once. (R145) -/
  | fmul (f : SlotF)
  /-- Fused multiply-add of two sources into Dn, rounded once. (R145) -/
  | fma (f : SlotF)
  /-- Gives the lesser floating lane with the manual's NaN and zero rules. (R146) -/
  | fmin (f : SlotF)
  /-- Gives the greater floating lane with the manual's NaN and zero rules. (R146) -/
  | fmax (f : SlotF)
  /-- Sets a mask lane where a is less than b. (R146) -/
  | fcmplt (f : SlotF)
  /-- Sets a mask lane where a equals b. (R146) -/
  | fcmpeq (f : SlotF)
  /-- Clears the sign bit of each floating lane. (R147) -/
  | fabs (f : SlotF)
  /-- Inverts the sign bit of each floating lane. (R147) -/
  | fneg (f : SlotF)
  /-- Computes the reciprocal of each lane, rounded with RNE. (R148) -/
  | frcp (f : SlotF)
  /-- Computes the reciprocal square root of each lane, rounded with RNE. (R148) -/
  | frsq (f : SlotF)
  /-- Computes two to the power of each lane, rounded with RNE. (R148) -/
  | fexp2 (f : SlotF)
  /-- Computes the base-2 logarithm of each lane, rounded with RNE. (R148) -/
  | flog2 (f : SlotF)
  /-- Converts SRCA to another format, non-saturating, rounded once. (R149) -/
  | cvt (f : SlotF)
  /-- Converts SRCA to another format, saturating, rounded once. (R149) -/
  | cvts (f : SlotF)
  /-- Encodes one BX block from sixteen values in data registers, to the result or the pack buffer. (R150) -/
  | bxenc (f : SlotF)
  /-- Emits the oldest complete word of the pack buffer as a BX part token. (R150) -/
  | bxencFlush (f : SlotF)
  /-- Decodes part of a BX4 block to F32, BF16 or F16 lanes. (R152) -/
  | bxdec (f : SlotF)
  /-- Clears a fibre register. (R165) -/
  | fopen (f : SlotF)
  /-- Takes a DATA head of a fibre and advances the fibre register's position. (R165) -/
  | fadv (f : SlotF)
  /-- Tests whether the head closes a fibre of at least rank r, without dequeuing. (R165) -/
  | fend (f : SlotF)
  /-- Takes an END head and updates the fibre counts of the fibre register. (R165) -/
  | fclose (f : SlotF)
  /-- Reads the position or a fibre count of a fibre register. (R165) -/
  | fpos (f : SlotF)
  /-- Builds a COORD payload from a coordinate and a value. (R166) -/
  | cpair (f : SlotF)
  /-- Extracts the coordinate of a COORD payload. (R166) -/
  | csplitC (f : SlotF)
  /-- Extracts the value of a COORD payload with a given format tag. (R166) -/
  | csplitV (f : SlotF)
  /-- Emits one COORD token per set bit of a bitmap word, one bit per firing. (R167) -/
  | bmexp (f : SlotF)
  /-- Emits one COORD token per set bit of the AND of two bitmap words, one bit per firing. (R167) -/
  | bmand (f : SlotF)
  /-- Merges two coordinate streams by one step, combining equal coordinates per the form. (R168) -/
  | cmerge (f : SlotF)
  /-- Inserts a COORD entry into the element's top-k list if it ranks high enough. (R169) -/
  | topk (f : SlotF)
  /-- Emits and removes the first-ranked top-k entry, or END0 when the list is empty. (R170) -/
  | topkrd (f : SlotF)
  /-- Reads a bank word at the own port. (R201) -/
  | srd (f : SlotF)
  /-- Writes a bank word at the own port. (R201) -/
  | swr (f : SlotF)
  /-- Adds a value into a bank word lane by lane and returns the old word. (R201) -/
  | sadd (f : SlotF)
  /-- Stores the greater of a bank word and a value per lane and returns the old word. (R201) -/
  | smax (f : SlotF)
  /-- Stores the lesser of a bank word and a value per lane and returns the old word. (R201) -/
  | smin (f : SlotF)
  /-- Exchanges a value with a bank word. (R201) -/
  | sxch (f : SlotF)
  /-- Reads the word at offset RD + k, or RD + k times STRIDE, of a circular buffer. (R205) -/
  | cbrd (f : SlotF)
  /-- Reads the word at RD of a circular buffer and releases it. (R205) -/
  | cbrdPop (f : SlotF)
  /-- Writes a word at WR of a circular buffer and advances WR. (R205) -/
  | cbwr (f : SlotF)
  /-- Advances the read offset of a circular buffer by c words. (R205) -/
  | cbadvr (f : SlotF)
  /-- Reserves c words by advancing the write offset without writing. (R205) -/
  | cbadvw (f : SlotF)
  /-- Sets a circular-buffer handle from a descriptor and clears its offsets. (R204) -/
  | cbset (f : SlotF)
  /-- Writes an absent presence word and serves its deferred reads, or faults PRESENCE_REWRITE. (R206) -/
  | pwr (f : SlotF)
  /-- Reads a present presence word, or takes a deferral entry for an absent one. (R206) -/
  | prd (f : SlotF)
  /-- Clears a presence word's presence and value and returns the old value. (R206) -/
  | pclr (f : SlotF)
  /-- Latches a microprogram descriptor and scale and starts the port microprogram. (R216) -/
  | mpgo (f : SlotF)
  /-- Reads the microprogram status. (R219) -/
  | mpst (f : SlotF)
  /-- Reads the status and requests suspension of the microprogram. (R219) -/
  | mpstSusp (f : SlotF)
  /-- Reads the status and resumes a microprogram that MPST suspended. (R219) -/
  | mpstRes (f : SlotF)
  /-- Reads a word of any SPE of the fabric load through its cross port. (R208) -/
  | xrd (f : SlotF)
  /-- Reads a presence word through a cross port, deferring at the target when absent. (R208) -/
  | xrdP (f : SlotF)
  /-- Writes a word of any SPE of the fabric load through its cross port. (R208) -/
  | xwr (f : SlotF)
  /-- Writes a presence word through a cross port as PWR does. (R208) -/
  | xwrP (f : SlotF)
  /-- Sets the shape and format of a tile register and makes it EMPTY. (R225) -/
  | tcfg (f : SlotF)
  /-- Stores 8 bytes of a token into a tile register by row or column fill. (R227) -/
  | tfill (f : SlotF)
  /-- Zeroes an accumulator and sets its kind. (R230) -/
  | tzero (f : SlotF)
  /-- Starts or queues a matrix product of two tile registers into an accumulator on the array. (R232) -/
  | tmma (f : SlotF)
  /-- Starts the drain port converting an accumulator into row-structured tokens. (R237) -/
  | tdrain (f : SlotF)
  /-- Makes a tile register EMPTY while keeping its shape. (R231) -/
  | trel (f : SlotF)
  /-- Reads the status of a tile register or accumulator. (R240) -/
  | tstat (f : SlotF)
  /-- Sets the scale and exponent override of a tile register. (R235) -/
  | tscale (f : SlotF)
  /-- Adds a matrix held in a tile register to an accumulator on the array. (R236) -/
  | tacc (f : SlotF)
  /-- Reads one 8-byte word from memory. (R276) -/
  | ld (f : SlotF)
  /-- Reads n + 1 consecutive words with a first-fault mask. (R277) -/
  | ldf (f : SlotF)
  /-- Writes one word to memory and emits nothing. (R278) -/
  | st (f : SlotF)
  /-- Writes zero to a PRESENCE word and clears its presence, emitting nothing. (R278) -/
  | stClr (f : SlotF)
  /-- Writes one word and emits an ORDER token when it is performed. (R278) -/
  | sto (f : SlotF)
  /-- Clears a PRESENCE word and emits an ORDER token when performed. (R278) -/
  | stoClr (f : SlotF)
  /-- Reads a word of a task's parameter window. (R273) -/
  | pld (f : SlotF)
  /-- Reads 2^n consecutive words from WEIGHT pages through the weight-store port. (R279) -/
  | wld (f : SlotF)
  /-- Issues a gather of rows by index through the gather-deduplicate engine. (R172) -/
  | gld (f : SlotF)
  /-- Scatters the 32-bit value of a COORD token to BASE plus four times its coordinate. (R176) -/
  | sst (f : SlotF)
  /-- Starts a read stream of an address generator over its loop nest. (R282) -/
  | astrm (f : SlotF)
  /-- Writes a payload to the next address of an address generator's write pass. (R283) -/
  | astwr (f : SlotF)
  /-- Writes one field of an address generator. (R281) -/
  | agcfg (f : SlotF)
  /-- Emits an ORDER token of the named scope once every earlier access of the MPE is performed at it. (R280) -/
  | fence (f : SlotF)
  /-- Atomic lane-wise add at memory. (R355) -/
  | aadd (f : SlotF)
  /-- Atomic lane-wise signed minimum at memory. (R355) -/
  | amin (f : SlotF)
  /-- Atomic lane-wise signed maximum at memory. (R355) -/
  | amax (f : SlotF)
  /-- Atomic AND at memory. (R355) -/
  | aand (f : SlotF)
  /-- Atomic OR at memory. (R355) -/
  | aor (f : SlotF)
  /-- Atomic exchange at memory. (R355) -/
  | axch (f : SlotF)
  /-- Atomic compare-and-swap of one 32-bit half at memory. (R355) -/
  | acas (f : SlotF)
  /-- Atomic F32 lane add at memory, rounded with RNE. (R355) -/
  | afadd (f : SlotF)
  /-- Requests admission of a task record to its home SYE. (R356) -/
  | tken (f : SlotF)
  /-- Requests a decrease of a record's dependence count by k. (R357) -/
  | tkdec (f : SlotF)
  /-- Retires k thread tokens of the task in a slot by decreasing its PEND. (R357) -/
  | tkdecRet (f : SlotF)
  /-- Appends a payload to an entry queue and increases the task's PEND. (R358) -/
  | qput (f : SlotF)
  /-- Reads a record's state and dependence count. (R359) -/
  | tkst (f : SlotF)
  /-- Clears the error of a HELD record and moves it on. (R359) -/
  | tkstClr (f : SlotF)
  /-- Abandons a WAITING or HELD record and passes the error on. (R359) -/
  | tkstAbn (f : SlotF)
  /-- Reads the value of a coordinate of an arbor. (R323) -/
  | ald (f : SlotF)
  /-- Inserts, updates or deletes a coordinate's entry in an arbor. (R323) -/
  | ast (f : SlotF)
  /-- Atomically adds to a coordinate's value in an arbor. (R323) -/
  | aaddc (f : SlotF)
  /-- Starts a traversal of an arbor's keys within a range. (R326) -/
  | aiter (f : SlotF)
  /-- Counts the keys an AITER over the same range would emit. (R329) -/
  | acnt (f : SlotF)
  /-- Returns the header's NFREE and NENT. (R329) -/
  | acntH (f : SlotF)
  /-- Issues a copy command to the die's copy queue. (R388) -/
  | cpy (f : SlotF)
  /-- Issues a conversion command to the FCE queue. (R393) -/
  | cve (f : SlotF)
  /-- Issues a quiescent densifying copy of an arbor key range. (R397) -/
  | densQ (f : SlotF)
  /-- Issues a snapshot densifying copy of an arbor key range. (R397) -/
  | densS (f : SlotF)
  /-- Reads n + 1 words from memory of another package. (R409) -/
  | rld (f : SlotF)
  /-- Writes a word at another package and emits nothing. (R410) -/
  | rst (f : SlotF)
  /-- Writes a word at another package and emits an ORDER token on acknowledgement. (R410) -/
  | rstAck (f : SlotF)
  /-- Contributes a vector to a deadline reduction instance. (R423) -/
  | dred (f : SlotF)
  /-- Arms a rescaling receive place for a reduction instance. (R424) -/
  | drrecvR (f : SlotF)
  /-- Arms a waiting receive place for a reduction instance. (R424) -/
  | drrecvW (f : SlotF)
  /-- Finalises an armed receive at once with the latest value held. (R425) -/
  | drclose (f : SlotF)
  /-- Withdraws this package's member from a reduction instance. (R425) -/
  | drcloseW (f : SlotF)
  /-- Sequencer add of two registers. (R369) -/
  | seqAdd (d : BitVec 5) (a : BitVec 5) (b : BitVec 5)
  /-- Sequencer subtract of two registers. (R369) -/
  | seqSub (d : BitVec 5) (a : BitVec 5) (b : BitVec 5)
  /-- Sequencer bitwise AND. (R369) -/
  | seqAnd (d : BitVec 5) (a : BitVec 5) (b : BitVec 5)
  /-- Sequencer bitwise OR. (R369) -/
  | seqOr (d : BitVec 5) (a : BitVec 5) (b : BitVec 5)
  /-- Sequencer bitwise XOR. (R369) -/
  | seqXor (d : BitVec 5) (a : BitVec 5) (b : BitVec 5)
  /-- Shifts a register left by b[5:0]. (R369) -/
  | sll (d : BitVec 5) (a : BitVec 5) (b : BitVec 5)
  /-- Shifts a register right logically by b[5:0]. (R369) -/
  | srl (d : BitVec 5) (a : BitVec 5) (b : BitVec 5)
  /-- Shifts a register right arithmetically by b[5:0]. (R369) -/
  | sra (d : BitVec 5) (a : BitVec 5) (b : BitVec 5)
  /-- Sets 1 when a is less than b as s64. (R369) -/
  | slt (d : BitVec 5) (a : BitVec 5) (b : BitVec 5)
  /-- Sets 1 when a is less than b as u64. (R369) -/
  | sltu (d : BitVec 5) (a : BitVec 5) (b : BitVec 5)
  /-- Low 64 bits of the product. (R369) -/
  | seqMul (d : BitVec 5) (a : BitVec 5) (b : BitVec 5)
  /-- High 64 bits of the signed 128-bit product. (R369) -/
  | seqMulh (d : BitVec 5) (a : BitVec 5) (b : BitVec 5)
  /-- Unsigned division. (R369) -/
  | divu (d : BitVec 5) (a : BitVec 5) (b : BitVec 5)
  /-- Unsigned remainder. (R369) -/
  | remu (d : BitVec 5) (a : BitVec 5) (b : BitVec 5)
  /-- Adds a sign-extended immediate. (R369) -/
  | addi (d : BitVec 5) (a : BitVec 5) (i : BitVec 16)
  /-- ANDs a zero-extended immediate. (R369) -/
  | andi (d : BitVec 5) (a : BitVec 5) (i : BitVec 16)
  /-- ORs a zero-extended immediate. (R369) -/
  | ori (d : BitVec 5) (a : BitVec 5) (i : BitVec 16)
  /-- XORs a zero-extended immediate. (R369) -/
  | xori (d : BitVec 5) (a : BitVec 5) (i : BitVec 16)
  /-- Shifts left by an immediate amount. (R369) -/
  | slli (d : BitVec 5) (a : BitVec 5) (s : BitVec 6)
  /-- Shifts right logically by an immediate amount. (R369) -/
  | srli (d : BitVec 5) (a : BitVec 5) (s : BitVec 6)
  /-- Shifts right arithmetically by an immediate amount. (R369) -/
  | srai (d : BitVec 5) (a : BitVec 5) (s : BitVec 6)
  /-- Sets 1 when a is less than the sign-extended immediate. (R369) -/
  | slti (d : BitVec 5) (a : BitVec 5) (i : BitVec 16)
  /-- Loads a sign-extended immediate shifted left by 16. (R369) -/
  | lui (d : BitVec 5) (i : BitVec 16)
  /-- Loads one byte, zero-extended. (R369) -/
  | ldb (d : BitVec 5) (a : BitVec 5) (i : BitVec 16)
  /-- Loads two bytes, zero-extended. (R369) -/
  | ldh (d : BitVec 5) (a : BitVec 5) (i : BitVec 16)
  /-- Loads four bytes, zero-extended. (R369) -/
  | ldw (d : BitVec 5) (a : BitVec 5) (i : BitVec 16)
  /-- Loads eight bytes. (R369) -/
  | ldd (d : BitVec 5) (a : BitVec 5) (i : BitVec 16)
  /-- Stores one byte. (R369) -/
  | stb (d : BitVec 5) (a : BitVec 5) (i : BitVec 16)
  /-- Stores two bytes. (R369) -/
  | sth (d : BitVec 5) (a : BitVec 5) (i : BitVec 16)
  /-- Stores four bytes. (R369) -/
  | stw (d : BitVec 5) (a : BitVec 5) (i : BitVec 16)
  /-- Stores eight bytes. (R369) -/
  | std (d : BitVec 5) (a : BitVec 5) (i : BitVec 16)
  /-- Branches when the registers are equal. (R369) -/
  | beq (d : BitVec 5) (a : BitVec 5) (i : BitVec 16)
  /-- Branches when the registers differ. (R369) -/
  | bne (d : BitVec 5) (a : BitVec 5) (i : BitVec 16)
  /-- Branches when d is less than a as s64. (R369) -/
  | blt (d : BitVec 5) (a : BitVec 5) (i : BitVec 16)
  /-- Branches when d is at least a as s64. (R369) -/
  | bge (d : BitVec 5) (a : BitVec 5) (i : BitVec 16)
  /-- Branches when d is less than a as u64. (R369) -/
  | bltu (d : BitVec 5) (a : BitVec 5) (i : BitVec 16)
  /-- Branches when d is at least a as u64. (R369) -/
  | bgeu (d : BitVec 5) (a : BitVec 5) (i : BitVec 16)
  /-- Jumps by a word offset and links. (R369) -/
  | jal (d : BitVec 5) (o : BitVec 21)
  /-- Jumps to a register plus offset and links. (R369) -/
  | jalr (d : BitVec 5) (a : BitVec 5) (i : BitVec 16)
  /-- Reads a sequencer control register. (R370) -/
  | scrr (d : BitVec 5) (a : BitVec 5) (n : BitVec 14)
  /-- Writes a sequencer control register and returns the old value. (R370) -/
  | scrw (d : BitVec 5) (a : BitVec 5) (n : BitVec 14)
  /-- Sets bits of a sequencer control register and returns the old value. (R370) -/
  | scrs (d : BitVec 5) (a : BitVec 5) (n : BitVec 14)
  /-- Clears bits of a sequencer control register and returns the old value. (R370) -/
  | scrc (d : BitVec 5) (a : BitVec 5) (n : BitVec 14)
  /-- Starts the install of a configuration image on the die. (R373) -/
  | instWord (a : BitVec 5) (b : BitVec 5)
  /-- Begins retirement of a fabric load, or abandons an install, and returns a code. (R376) -/
  | abnd (d : BitVec 5) (a : BitVec 5)
  /-- Reads one item of element state of the resident fabric load. (R378) -/
  | erd (d : BitVec 5) (a : BitVec 5) (f : BitVec 11)
  /-- Writes one item of state of a halted element. (R378) -/
  | ewr (a : BitVec 5) (b : BitVec 5) (f : BitVec 11)
  /-- Reads the occupancy of a logical site. (R379) -/
  | occr (d : BitVec 5) (a : BitVec 5)
  /-- Invalidates translations over a range, marks runs absent and places DRAIN tokens. (R261) -/
  | tinv (a : BitVec 5) (b : BitVec 5)
  /-- Writes a compressed stream of an SPE bank's dirty runs to memory. (R380) -/
  | savec (d : BitVec 5) (a : BitVec 5) (b : BitVec 5)
  /-- Returns from a trap and disposes of an element or load trap by sq.CAUSE. (R383) -/
  | tret
  /-- Waits until a selected event bit is pending, then returns and clears the bits. (R372) -/
  | wev (d : BitVec 5) (a : BitVec 5)
  /-- Reads a system value, or traps SYSCALL for FN 8 and above. (R381) -/
  | sysr (d : BitVec 5) (a : BitVec 5) (f : BitVec 11)
  /-- Holds later sequencer loads and stores until earlier ones are performed at the scope. (R303) -/
  | seqFence (s : BitVec 4)
  /-- In each element clock the escapement evaluates triggers and readiness of all sixteen slots and fires at most one slot, or none. (R110) -/
  | escapement
  /-- After 256 firings of a balanced group's members, its weights are recomputed from the occupancy sums and the sums and credits are cleared. (R115) -/
  | balanceReweight
  /-- In each element clock every channel stage passes at most one token to the next stage, oldest first, and output registers pass tokens into their switch boxes. (R179) -/
  | stageAdvance
  /-- A deferred local PRD reply enters the output of its slot once the word is written and space allows. (R207) -/
  | deferredReply
  /-- The microprogram performs the reads and write of one word step in reserved sub-bank slots. (R217) -/
  | microprogramStep
  /-- After the last write, the microprogram places its completion ORDER or FAULT token in DST once space allows and becomes idle. (R216) -/
  | microprogramCompletion
  /-- The microprogram suspends at the next row boundary after a request, trap or pre-emption. (R218) -/
  | microprogramSuspend
  /-- Each element clock the bank holds reserved slots, serves the own port and cross head, and makes reservations for the next clock. (R212) -/
  | bankClock
  /-- When the wait count reaches 4 the microprogram reserves no read for the next clock. (R213) -/
  | yieldClock
  /-- After the cross head has waited 8 clocks it reserves its sub-bank slot. (R214) -/
  | crossReservation
  /-- A cross request at the head of a target's arrival queue is performed at the bank. (R210) -/
  | crossRequest
  /-- A cross reply enters DST in firing order and returns its cross credit. (R209) -/
  | crossReply
  /-- An accepted TMMA or TACC starts on the array in the clock after the firing in progress ends. (R233) -/
  | arrayStart
  /-- At the end of clock E + 4 a firing's results, or poison, enter the accumulator. (R233) -/
  | arrayComplete
  /-- The drain port places the next token of a drain in its outputs as space allows. (R238) -/
  | drainPortToken
  /-- A reading address generator issues its next address in a clock in which read credits allow. (R282) -/
  | addressGeneratorIssue
  /-- An MPE issues an access in the clock after its firing, or when credits allow. (R275) -/
  | accessIssue
  /-- An access arrives at its home memory edge and is performed, held or deferred there. (R275) -/
  | memoryEdgeAccess
  /-- The weight-store refresh moves to the next group's 512-clock window, releasing reads held on the previous group. (R269) -/
  | weightRefreshWindow
  /-- A reply, ORDER, status or FAULT token of an earlier firing enters DST in firing order, returning credits and applying deferred PMODE. (R275) -/
  | memoryReply
  /-- When an entry's row returns, the GDE delivers a copy to each requester in join order and frees the entry. (R175) -/
  | gdeDelivery
  /-- The home SYE performs an atomic's read and write indivisibly and replies with the old value and an ORDER token. (R355) -/
  | atomicPerform
  /-- The SYE removes one TKEN, TKDEC, QPUT or TKST request from the admission queue every 2 clocks and acts on it. (R360) -/
  | admissionRequest
  /-- A predecessor or engine decrement arrives at the record's home SYE and lowers DEP, possibly making it READY or dropping. (R342) -/
  | depDecrement
  /-- Once PEND is 0 and all accesses are performed, the SYE frees the slot, writes the final state and decrements the successors. (R341) -/
  | taskCompletion
  /-- The HTS chooses a dispatchable ready task, translates its extents, writes extent tables and copies its windows. (R345) -/
  | dispatch
  /-- The HTS writes the next thread-token payload into an entry queue while it has space. (R350) -/
  | threadTokenWrite
  /-- The configuration scheduler chooses the candidate configuration with the highest aged priority and raises CSREQ. (R346) -/
  | configurationChoice
  /-- The entry MPE issues a read request for up to 8 queue payloads when buffer places allow. (R351) -/
  | refillRequest
  /-- A refill request returns its payloads into the refill buffer, freeing their ring places. (R351) -/
  | refillReturn
  /-- The oldest buffered payload enters the entry output register as a thread token. (R351) -/
  | entryEmit
  /-- The arbor walker performs one arbor operation indivisibly at its point. (R322) -/
  | arborPoint
  /-- When the traversal buffer has room, one step emits up to 8 entries at its point and possibly the closing END. (R326) -/
  | traversalStep
  /-- The MPE reads and checks a command block and queues the command or replies with a fault or status. (R386) -/
  | commandBlockCheck
  /-- A queued command that holds its scoreboard entries and overlaps no accepted command is accepted and replies OK. (R387) -/
  | commandAcceptance
  /-- A copy engine reads and writes the next 256-byte chunk of a copy. (R390) -/
  | copyChunk
  /-- The FCE performs the next phase of a conversion output, each performed at PACKAGE before the next. (R396) -/
  | conversionPhase
  /-- A densifying copy writes the next chunk of key values from the walker. (R397) -/
  | densChunk
  /-- A command ends, decrementing or erroring its completion record, lowering PEND and releasing its scoreboard entries. (R391) -/
  | commandEnd
  /-- A remote request arrives at its target, which checks incarnation, range and class and performs it. (R406) -/
  | remoteRequest
  /-- A remote reply or acknowledgement reaches the issuing MPE, or a plain RST failure is written into the task. (R410) -/
  | remoteReply
  /-- A remote request or probe reaches its time limit and fails. (R412) -/
  | remoteTimeout
  /-- The link router accepts the next reduction command from the queue and replies OK. (R421) -/
  | reductionAcceptance
  /-- When a DRED packet enters the link router, RESULT is written, the record decremented and PEND lowered. (R423) -/
  | contributionSent
  /-- A reduction packet reaches a node, which keeps, combines, corrects, accounts or discards it. (R418) -/
  | reductionPacket
  /-- A node's deadline D expires and it sends PARTIAL over the children that have values. (R418) -/
  | deadlineExpiry
  /-- A node's close deadline DC expires and it sends CLOSE and releases the instance record. (R418) -/
  | closeDeadlineExpiry
  /-- A result packet reaches a receive place or an unclaimed place and may finalise the receive. (R424) -/
  | receivePacket
  /-- A port that cannot deliver a flit after 64 retransmissions goes down. (R400) -/
  | portDown
  /-- Fetching an undefined sequencer word traps with no effect. (R64) -/
  | illegal
  /-- At its next fetch, a sequencer not in a routine takes the oldest pending element or load trap and vectors to sq.TVEC. (R368) -/
  | trapEntry
  /-- Install step 2 places the logical tiles through the caliber cache or the mapper. (R377) -/
  | installPlacement
  /-- Install step 3 wakes the used elements and switch boxes. (R373) -/
  | installWake
  /-- Install step 4 streams tile sections, checks every word, hashes the image and clears SPE banks. (R373) -/
  | installStream
  /-- Install step 5 grants delay-match depths or refuses with INSTALL_DEPTH. (R187) -/
  | installDepthGrant
  /-- Install step 6 compares the identifier, assigns the fabric number, sets initial state and commits. (R373) -/
  | installCommit
  /-- An install is abandoned within 64 element clocks after ABND or a pre-emption needing its tiles. (R440) -/
  | installAbandon
  /-- When bound engines have drained and remote stores completed, the reconfiguration token passes and tiles are returned. (R376) -/
  | reconfigurationTokenPass
  /-- A DRAIN token reaches its memory edge after all earlier accesses, cancelling deferral entries in the range. (R263) -/
  | drainArrival
  /-- A pre-emption request stops entry refill and every element of the fabric load, or becomes a kill without a frame. (R433) -/
  | preempt
  /-- When the last outstanding access, array firing, command and remote store has ended, every tile's sequencer is made to trap PREEMPT. (R434) -/
  | preemptDrainEnd
  /-- After the last TRET, dispatched tasks become SAVED, the load retires and the frame owner becomes READY or a page request is posted. (R434) -/
  | preemptCommit
  /-- The frame owner's handle is posted to dv.PGREQ when a queue place is free. (R443) -/
  | pageRequestPost
  /-- When every tile has returned, the HTS retranslates and refills the saved tasks, replays accesses and releases every element. (R439) -/
  | restoreCompletion
  /-- A vote compares execution signatures, decides which stands and logs the outcome. (R446) -/
  | voteClose
  /-- The regulator's firmware fences sites or tiles by writing the fence maps. (R450) -/
  | quarantine
  /-- A message reads consecutive words or registers. (R455) -/
  | hostRd
  /-- A message writes consecutive words or registers and replies once they are performed. (R455) -/
  | hostWr
  /-- A message compares and swaps dv.CLAIM under the ownership rules. (R459) -/
  | hostCas
  /-- The host form of TKEN admits a task record. (R455) -/
  | hostTken
  /-- Returns a signed attestation report in consecutive RESP messages. (R463) -/
  | attest
  /-- A WR to a device register without behaviour of its own writes its writable fields. (R457) -/
  | registerWrite
  /-- A read of dv.PGREQ returns a page request and, for the owner, removes it. (R443) -/
  | pgreqRead
  /-- Writing a SAVED frame owner's handle to dv.PGDONE makes it READY. (R443) -/
  | pgdone
  /-- A read of dv.SELOG returns an error-log entry and, for the owner, removes it. (R449) -/
  | selogRead
  /-- Writing 1 to DROP of dv.SYESTAT clears DROP, COUNT and HANDLE. (R457) -/
  | syestatClear
  /-- Writing V = 1 to dv.BOOTVA sets every sq.TVEC and releases the sequencers. (R461) -/
  | bootva
  /-- The board reset signal or a write of RESET to dv.PSTATE resets the whole package. (R465) -/
  | reset
  /-- The regulator enters the deepest power state whose wake time and entry condition allow. (R464) -/
  | powerStateEntry
  /-- A message, remote request or board wake signal wakes the package, and exit from state 3 restarts it. (R464) -/
  | wake
  /-- The owner's port goes down or its incarnation changes, so the regulator clears the owner. (R459) -/
  | ownerLoss
  /-- The regulator's firmware brings a Taride Link port that is down up again. (R400) -/
  | portUp
  /-- System software writes a reduction group-table entry at a node through the management path, reserving its instance records. (R415) -/
  | groupTableWrite
  /-- Board power returns after a loss, and the regulator draws the first incarnation number from its hardware random source. (R404) -/
  | boardPowerUp
  /-- A thermal or current sensor trip lowers the element clock without firmware action. (R460) -/
  | hardwareTrip
deriving DecidableEq, Repr

end Sys2Proof
end

