-- ==== Sys2Proof/Machine/Fields.lean ====
section
/-! DEFINITION. The encoding table of the slot instructions: kind, opcode and field use of every row (R41, R50, R122,
R136, R164, R172, R176, R199, R224, R274, R318, R352, R362, R363, R385, R408, R421). Decoder, encoder, field limits
and implicit readiness all read it. -/

namespace Sys2Proof.Machine

open Sys2Proof

/-- How an instruction uses DST (R40, R136): a field it does not use, any code, D0 to D7, an output O0 to O3, the
same or 15, every output code, the same or 15, or 15 alone. -/
inductive DUse where
  | zero | any | dn | one | oneNil | outs | outsNil | nil
deriving DecidableEq, Repr

/-- How an instruction uses SRCA or SRCB (R40, R41): unused, a source, an input, a data register, a constant, or a
raw number in a range or of a list. -/
inductive SUse where
  | zero | src | inp | dreg | const
  | raw (lo hi : Nat)
  | rawIn (l : List Nat)
deriving DecidableEq, Repr

/-- What an instruction asks of OTAG. -/
inductive OUse where
  | any | data
deriving DecidableEq, Repr

/-- What an instruction asks of DEQ: anything, none, at least one input, the input of SRCA, not that input, or one
order input that it does not read (R352). -/
inductive QUse where
  | any | none | some | nameA | notA | order
deriving DecidableEq, Repr

/-- A row of the encoding table; kind is none for the ten opcodes of every kind. -/
structure Entry where
  kind : Option Kind
  opc : Nat
  lanes : List Nat
  dst : DUse
  a : SUse
  b : SUse
  otag : OUse
  deq : QUse
deriving DecidableEq, Repr

def DUse.ok (u : DUse) (c : Nat) : Bool :=
  match u with
  | .zero => c == 0
  | .any => true
  | .dn => 4 ≤ c && c ≤ 11
  | .one => c ≤ 3
  | .oneNil => c ≤ 3 || c == 15
  | .outs => c ≤ 3 || (12 ≤ c && c ≤ 14)
  | .outsNil => c ≤ 3 || 12 ≤ c
  | .nil => c == 15

def SUse.ok (u : SUse) (c : Nat) : Bool :=
  match u with
  | .zero => c == 0
  | .src => true
  | .inp => c ≤ 3
  | .dreg => 4 ≤ c && c ≤ 11
  | .const => 12 ≤ c
  | .raw lo hi => lo ≤ c && c ≤ hi
  | .rawIn l => l.contains c

/-- Whether the field names a source the instruction reads (R41, R42). -/
def SUse.reads (u : SUse) : Bool :=
  match u with
  | .src => true
  | .inp => true
  | _ => false

/-- Whether the instruction writes DST at all (a token, a register, or a result dropped). -/
def DUse.used (u : DUse) : Bool :=
  match u with
  | .zero => false
  | _ => true

/-- The row of a slot instruction; none for sequencer words and steps. -/
def entry (i : Instr) : Option Entry :=
  match i with
  | .nop _ => some ⟨none, 0x00, [0], .zero, .zero, .zero, .any, .any⟩
  | .mov _ => some ⟨none, 0x01, [0], .any, .src, .zero, .any, .any⟩
  | .emit _ => some ⟨none, 0x02, [0], .any, .src, (.raw 0 14), .any, .any⟩
  | .plog _ => some ⟨none, 0x03, [0, 1, 2], .any, (.raw 0 15), (.raw 0 15), .any, .any⟩
  | .tagrd _ => some ⟨none, 0x04, [0], .any, .inp, .zero, .any, .any⟩
  | .join _ => some ⟨none, 0x05, [0], .outs, (.rawIn [0, 1, 2, 3, 4, 8, 9, 10, 11, 12, 13, 14, 15]), .zero, .any, .some⟩
  | .joinc _ => some ⟨none, 0x06, [0], .outs, .dreg, .const, .any, .some⟩
  | .trap _ => some ⟨none, 0x07, [0], .zero, (.raw 0 15), (.raw 0 15), .any, .any⟩
  | .perf _ => some ⟨none, 0x08, [0, 1], .any, (.raw 0 15), (.raw 0 4), .any, .any⟩
  | .sel _ => some ⟨none, 0x09, [0, 1, 2, 3], .any, .src, .src, .any, .any⟩
  | .add _ => some ⟨(some .ce), 0x10, [0, 1, 2, 3], .any, .src, .src, .any, .any⟩
  | .sub _ => some ⟨(some .ce), 0x11, [0, 1, 2, 3], .any, .src, .src, .any, .any⟩
  | .adds _ => some ⟨(some .ce), 0x12, [0, 1, 2, 3], .any, .src, .src, .any, .any⟩
  | .subs _ => some ⟨(some .ce), 0x13, [0, 1, 2, 3], .any, .src, .src, .any, .any⟩
  | .mul _ => some ⟨(some .ce), 0x14, [0, 1, 2, 3], .any, .src, .src, .any, .any⟩
  | .mulh _ => some ⟨(some .ce), 0x15, [0, 1, 2, 3], .any, .src, .src, .any, .any⟩
  | .mulhu _ => some ⟨(some .ce), 0x16, [0, 1, 2, 3], .any, .src, .src, .any, .any⟩
  | .mac _ => some ⟨(some .ce), 0x17, [0, 1, 2, 3], .dn, .src, .src, .any, .any⟩
  | .min _ => some ⟨(some .ce), 0x18, [0, 1, 2, 3], .any, .src, .src, .any, .any⟩
  | .minu _ => some ⟨(some .ce), 0x19, [0, 1, 2, 3], .any, .src, .src, .any, .any⟩
  | .max _ => some ⟨(some .ce), 0x1A, [0, 1, 2, 3], .any, .src, .src, .any, .any⟩
  | .maxu _ => some ⟨(some .ce), 0x1B, [0, 1, 2, 3], .any, .src, .src, .any, .any⟩
  | .abs _ => some ⟨(some .ce), 0x1C, [0, 1, 2, 3], .any, .src, .zero, .any, .any⟩
  | .neg _ => some ⟨(some .ce), 0x1D, [0, 1, 2, 3], .any, .src, .zero, .any, .any⟩
  | .cmpeq _ => some ⟨(some .ce), 0x1E, [0, 1, 2, 3], .any, .src, .src, .any, .any⟩
  | .cmplt _ => some ⟨(some .ce), 0x1F, [0, 1, 2, 3], .any, .src, .src, .any, .any⟩
  | .cmpltu _ => some ⟨(some .ce), 0x20, [0, 1, 2, 3], .any, .src, .src, .any, .any⟩
  | .cmple _ => some ⟨(some .ce), 0x21, [0, 1, 2, 3], .any, .src, .src, .any, .any⟩
  | .and _ => some ⟨(some .ce), 0x22, [0, 1, 2, 3], .any, .src, .src, .any, .any⟩
  | .or _ => some ⟨(some .ce), 0x23, [0, 1, 2, 3], .any, .src, .src, .any, .any⟩
  | .xor _ => some ⟨(some .ce), 0x24, [0, 1, 2, 3], .any, .src, .src, .any, .any⟩
  | .andn _ => some ⟨(some .ce), 0x25, [0, 1, 2, 3], .any, .src, .src, .any, .any⟩
  | .shl _ => some ⟨(some .ce), 0x26, [0, 1, 2, 3], .any, .src, .src, .any, .any⟩
  | .shr _ => some ⟨(some .ce), 0x27, [0, 1, 2, 3], .any, .src, .src, .any, .any⟩
  | .sar _ => some ⟨(some .ce), 0x28, [0, 1, 2, 3], .any, .src, .src, .any, .any⟩
  | .rotl _ => some ⟨(some .ce), 0x29, [0, 1, 2, 3], .any, .src, .src, .any, .any⟩
  | .rshr _ => some ⟨(some .ce), 0x2A, [0, 1, 2, 3], .any, .src, .src, .any, .any⟩
  | .satn _ => some ⟨(some .ce), 0x2B, [0, 1, 2, 3], .any, .src, (.raw 0 15), .any, .any⟩
  | .clz _ => some ⟨(some .ce), 0x2C, [0, 1, 2, 3], .any, .src, .zero, .any, .any⟩
  | .popc _ => some ⟨(some .ce), 0x2D, [0, 1, 2, 3], .any, .src, .zero, .any, .any⟩
  | .ppopc _ => some ⟨(some .ce), 0x2E, [0, 1, 2, 3], .any, .src, .src, .any, .any⟩
  | .dot4 _ => some ⟨(some .ce), 0x2F, [0, 1, 2], .any, .src, .src, .any, .any⟩
  | .pack _ => some ⟨(some .ce), 0x30, [0, 1, 2, 3], .any, .src, .src, .any, .any⟩
  | .unpkl _ => some ⟨(some .ce), 0x31, [0, 1, 2, 3], .any, .src, (.raw 0 1), .any, .any⟩
  | .unpkh _ => some ⟨(some .ce), 0x32, [0, 1, 2, 3], .any, .src, (.raw 0 1), .any, .any⟩
  | .shuf _ => some ⟨(some .ce), 0x33, [0], .any, .src, .src, .any, .any⟩
  | .bcast _ => some ⟨(some .ce), 0x34, [1, 2, 3], .any, .src, (.raw 0 15), .any, .any⟩
  | .lanesum _ => some ⟨(some .ce), 0x35, [1, 2, 3], .any, .src, .zero, .any, .any⟩
  | .ins _ => some ⟨(some .ce), 0x36, [1, 2, 3], .dn, .src, (.raw 0 15), .any, .any⟩
  | .extr _ => some ⟨(some .ce), 0x37, [1, 2, 3], .any, .src, (.raw 0 15), .any, .any⟩
  | .fadd _ => some ⟨(some .ce), 0x38, [0, 1, 2], .any, .src, .src, .any, .any⟩
  | .fsub _ => some ⟨(some .ce), 0x39, [0, 1, 2], .any, .src, .src, .any, .any⟩
  | .fmul _ => some ⟨(some .ce), 0x3A, [0, 1, 2], .any, .src, .src, .any, .any⟩
  | .fma _ => some ⟨(some .ce), 0x3B, [0, 1, 2], .dn, .src, .src, .any, .any⟩
  | .fmin _ => some ⟨(some .ce), 0x3C, [0, 1, 2], .any, .src, .src, .any, .any⟩
  | .fmax _ => some ⟨(some .ce), 0x3D, [0, 1, 2], .any, .src, .src, .any, .any⟩
  | .fcmplt _ => some ⟨(some .ce), 0x3E, [0, 1, 2], .any, .src, .src, .any, .any⟩
  | .fcmpeq _ => some ⟨(some .ce), 0x3F, [0, 1, 2], .any, .src, .src, .any, .any⟩
  | .fabs _ => some ⟨(some .ce), 0x40, [0, 1, 2], .any, .src, .zero, .any, .any⟩
  | .fneg _ => some ⟨(some .ce), 0x41, [0, 1, 2], .any, .src, .zero, .any, .any⟩
  | .frcp _ => some ⟨(some .ce), 0x42, [0, 1], .any, .src, .zero, .any, .any⟩
  | .frsq _ => some ⟨(some .ce), 0x43, [0, 1], .any, .src, .zero, .any, .any⟩
  | .fexp2 _ => some ⟨(some .ce), 0x44, [0, 1], .any, .src, .zero, .any, .any⟩
  | .flog2 _ => some ⟨(some .ce), 0x45, [0, 1], .any, .src, .zero, .any, .any⟩
  | .cvt _ => some ⟨(some .ce), 0x46, [0, 1, 2, 3], .any, .src, (.raw 0 10), .any, .any⟩
  | .cvts _ => some ⟨(some .ce), 0x47, [0, 1, 2, 3], .any, .src, (.raw 0 10), .any, .any⟩
  | .bxenc _ => some ⟨(some .ce), 0x48, [0, 1, 2, 3], .any, (.raw 0 6), (.raw 0 2), .any, .any⟩
  | .bxencFlush _ => some ⟨(some .ce), 0x48, [0], .outs, .zero, (.raw 4 4), .any, .any⟩
  | .bxdec _ => some ⟨(some .ce), 0x49, [0, 1, 2], .any, .src, (.raw 0 7), .any, .any⟩
  | .fopen _ => some ⟨(some .ce), 0x50, [0], .zero, .zero, (.raw 0 3), .any, .any⟩
  | .fadv _ => some ⟨(some .ce), 0x51, [0], .any, .inp, (.raw 0 3), .any, .nameA⟩
  | .fend _ => some ⟨(some .ce), 0x52, [0, 1, 2, 3], .any, .inp, (.raw 0 3), .any, .notA⟩
  | .fclose _ => some ⟨(some .ce), 0x53, [0], .any, .inp, (.raw 0 3), .any, .nameA⟩
  | .fpos _ => some ⟨(some .ce), 0x54, [0], .any, (.raw 0 4), (.raw 0 3), .any, .any⟩
  | .cpair _ => some ⟨(some .ce), 0x55, [0, 1], .any, .src, .src, .any, .any⟩
  | .csplitC _ => some ⟨(some .ce), 0x56, [0], .any, .src, .zero, .any, .any⟩
  | .csplitV _ => some ⟨(some .ce), 0x56, [1], .any, .src, (.rawIn [1, 4]), .any, .any⟩
  | .bmexp _ => some ⟨(some .ce), 0x57, [0], .any, .inp, (.raw 0 3), .any, .none⟩
  | .bmand _ => some ⟨(some .ce), 0x58, [0, 1, 2, 3], .any, .inp, .inp, .any, .none⟩
  | .cmerge _ => some ⟨(some .ce), 0x59, [0, 1, 2, 3], .any, .inp, .inp, .data, .none⟩
  | .topk _ => some ⟨(some .ce), 0x5A, [0, 1, 2], .zero, .src, (.raw 0 15), .data, .any⟩
  | .topkrd _ => some ⟨(some .ce), 0x5B, [0], .outs, .zero, .zero, .data, .any⟩
  | .srd _ => some ⟨(some .spe), 0x10, [0], .any, .src, .zero, .any, .any⟩
  | .swr _ => some ⟨(some .spe), 0x11, [0], .zero, .src, .src, .any, .any⟩
  | .sadd _ => some ⟨(some .spe), 0x12, [0, 1, 2, 3], .any, .src, .src, .any, .any⟩
  | .smax _ => some ⟨(some .spe), 0x13, [0, 1, 2, 3], .any, .src, .src, .any, .any⟩
  | .smin _ => some ⟨(some .spe), 0x14, [0, 1, 2, 3], .any, .src, .src, .any, .any⟩
  | .sxch _ => some ⟨(some .spe), 0x15, [0], .any, .src, .src, .any, .any⟩
  | .cbrd _ => some ⟨(some .spe), 0x16, [0, 1], .any, (.raw 0 7), (.raw 0 15), .any, .any⟩
  | .cbrdPop _ => some ⟨(some .spe), 0x16, [2], .any, (.raw 0 7), (.raw 0 0), .any, .any⟩
  | .cbwr _ => some ⟨(some .spe), 0x17, [0], .zero, (.raw 0 7), .src, .any, .any⟩
  | .cbadvr _ => some ⟨(some .spe), 0x18, [0, 1], .any, (.raw 0 7), (.raw 0 15), .any, .any⟩
  | .cbadvw _ => some ⟨(some .spe), 0x19, [0, 1], .any, (.raw 0 7), (.raw 0 15), .any, .any⟩
  | .cbset _ => some ⟨(some .spe), 0x1A, [0], .zero, .src, (.raw 0 7), .any, .any⟩
  | .pwr _ => some ⟨(some .spe), 0x1B, [0], .oneNil, .src, .src, .any, .any⟩
  | .prd _ => some ⟨(some .spe), 0x1C, [0], .one, .src, .zero, .any, .any⟩
  | .pclr _ => some ⟨(some .spe), 0x1D, [0], .any, .src, .zero, .any, .any⟩
  | .mpgo _ => some ⟨(some .spe), 0x1E, [0], .oneNil, .src, .src, .any, .any⟩
  | .mpst _ => some ⟨(some .spe), 0x1F, [0], .any, .zero, .zero, .any, .any⟩
  | .mpstSusp _ => some ⟨(some .spe), 0x1F, [1], .any, .zero, .zero, .any, .any⟩
  | .mpstRes _ => some ⟨(some .spe), 0x1F, [2], .any, .zero, .zero, .any, .any⟩
  | .xrd _ => some ⟨(some .spe), 0x20, [0], .one, .src, .zero, .any, .any⟩
  | .xrdP _ => some ⟨(some .spe), 0x20, [1], .one, .src, .zero, .any, .any⟩
  | .xwr _ => some ⟨(some .spe), 0x21, [0], .oneNil, .src, .src, .any, .any⟩
  | .xwrP _ => some ⟨(some .spe), 0x21, [1], .oneNil, .src, .src, .any, .any⟩
  | .tcfg _ => some ⟨(some .mxe), 0x10, [0], .zero, .src, (.raw 0 7), .data, .any⟩
  | .tfill _ => some ⟨(some .mxe), 0x11, [0], .zero, .src, (.raw 0 7), .data, .any⟩
  | .tzero _ => some ⟨(some .mxe), 0x12, [0, 1, 2, 3], .zero, (.raw 0 1), .zero, .data, .any⟩
  | .tmma _ => some ⟨(some .mxe), 0x13, [0, 1, 2, 3], .zero, (.raw 0 7), (.raw 0 7), .data, .any⟩
  | .tdrain _ => some ⟨(some .mxe), 0x14, [0, 1, 2, 3], .outs, (.raw 0 3), (.rawIn [1, 3, 4, 5, 6, 7, 8, 9, 11, 12, 13]), .data, .any⟩
  | .trel _ => some ⟨(some .mxe), 0x15, [0], .zero, .zero, (.raw 0 7), .data, .any⟩
  | .tstat _ => some ⟨(some .mxe), 0x16, [0], .any, (.raw 0 11), .zero, .any, .any⟩
  | .tscale _ => some ⟨(some .mxe), 0x17, [0], .zero, .src, (.raw 0 7), .data, .any⟩
  | .tacc _ => some ⟨(some .mxe), 0x18, [0, 1, 2, 3], .zero, .zero, (.raw 0 7), .data, .any⟩
  | .ld _ => some ⟨(some .mpe), 0x10, [0], .outs, .src, .zero, .data, .any⟩
  | .ldf _ => some ⟨(some .mpe), 0x11, [0], .outs, .src, (.raw 0 15), .data, .any⟩
  | .st _ => some ⟨(some .mpe), 0x12, [0], .nil, .src, .src, .data, .any⟩
  | .stClr _ => some ⟨(some .mpe), 0x12, [1], .nil, .src, .zero, .data, .any⟩
  | .sto _ => some ⟨(some .mpe), 0x13, [0], .outs, .src, .src, .data, .any⟩
  | .stoClr _ => some ⟨(some .mpe), 0x13, [1], .outs, .src, .zero, .data, .any⟩
  | .pld _ => some ⟨(some .mpe), 0x14, [0], .outs, .src, (.raw 0 3), .data, .any⟩
  | .wld _ => some ⟨(some .mpe), 0x15, [0], .outs, .src, (.raw 0 6), .data, .any⟩
  | .gld _ => some ⟨(some .mpe), 0x16, [0, 1, 2, 3], .one, .src, .src, .data, .any⟩
  | .sst _ => some ⟨(some .mpe), 0x17, [0], .oneNil, .src, .src, .data, .any⟩
  | .astrm _ => some ⟨(some .mpe), 0x18, [0], .outs, (.raw 0 1), .zero, .data, .any⟩
  | .astwr _ => some ⟨(some .mpe), 0x19, [0], .outsNil, .src, (.raw 0 1), .data, .any⟩
  | .agcfg _ => some ⟨(some .mpe), 0x1A, [0], .zero, .src, (.rawIn [0, 1, 2, 3, 4, 5, 8, 9, 10, 11, 12, 13]), .data, .any⟩
  | .fence _ => some ⟨(some .mpe), 0x1B, [0], .outs, (.rawIn [0, 1, 2, 3, 4, 8, 9, 10, 11, 12, 13, 14, 15]), .zero, .data, .any⟩
  | .aadd _ => some ⟨(some .mpe), 0x20, [0, 1, 2, 3], .outsNil, .src, .src, .data, .order⟩
  | .amin _ => some ⟨(some .mpe), 0x21, [0, 1, 2, 3], .outsNil, .src, .src, .data, .order⟩
  | .amax _ => some ⟨(some .mpe), 0x22, [0, 1, 2, 3], .outsNil, .src, .src, .data, .order⟩
  | .aand _ => some ⟨(some .mpe), 0x23, [0], .outsNil, .src, .src, .data, .order⟩
  | .aor _ => some ⟨(some .mpe), 0x24, [0], .outsNil, .src, .src, .data, .order⟩
  | .axch _ => some ⟨(some .mpe), 0x25, [0], .outs, .src, .src, .data, .order⟩
  | .acas _ => some ⟨(some .mpe), 0x26, [1, 2], .outs, .src, .src, .data, .order⟩
  | .afadd _ => some ⟨(some .mpe), 0x27, [0], .outsNil, .src, .src, .data, .order⟩
  | .tken _ => some ⟨(some .mpe), 0x28, [0], .outs, .src, .zero, .data, .order⟩
  | .tkdec _ => some ⟨(some .mpe), 0x29, [0], .outs, .src, (.raw 1 15), .data, .order⟩
  | .tkdecRet _ => some ⟨(some .mpe), 0x29, [1], .outs, .src, (.raw 1 15), .data, .order⟩
  | .qput _ => some ⟨(some .mpe), 0x2A, [0], .outs, .src, (.raw 0 15), .data, .order⟩
  | .tkst _ => some ⟨(some .mpe), 0x2B, [0], .outs, .src, .zero, .data, .order⟩
  | .tkstClr _ => some ⟨(some .mpe), 0x2B, [1], .outs, .src, .zero, .data, .order⟩
  | .tkstAbn _ => some ⟨(some .mpe), 0x2B, [2], .outs, .src, .zero, .data, .order⟩
  | .ald _ => some ⟨(some .mpe), 0x30, [0, 1], .outs, .src, .src, .data, .any⟩
  | .ast _ => some ⟨(some .mpe), 0x31, [0], .outsNil, .src, .src, .data, .any⟩
  | .aaddc _ => some ⟨(some .mpe), 0x32, [0], .outs, .src, .src, .data, .order⟩
  | .aiter _ => some ⟨(some .mpe), 0x33, [0, 1], .outs, .src, .src, .data, .any⟩
  | .acnt _ => some ⟨(some .mpe), 0x34, [0], .outs, .src, .src, .data, .any⟩
  | .acntH _ => some ⟨(some .mpe), 0x34, [1], .outs, .src, .zero, .data, .any⟩
  | .cpy _ => some ⟨(some .mpe), 0x38, [0], .outs, .src, .src, .data, .order⟩
  | .cve _ => some ⟨(some .mpe), 0x39, [0], .outs, .src, .src, .data, .order⟩
  | .densQ _ => some ⟨(some .mpe), 0x3A, [0], .outs, .src, .src, .data, .order⟩
  | .densS _ => some ⟨(some .mpe), 0x3A, [1], .outs, .src, .src, .data, .order⟩
  | .rld _ => some ⟨(some .mpe), 0x40, [0], .outs, .src, (.raw 0 7), .data, .any⟩
  | .rst _ => some ⟨(some .mpe), 0x41, [0], .nil, .src, .src, .data, .any⟩
  | .rstAck _ => some ⟨(some .mpe), 0x41, [1], .outs, .src, .src, .data, .any⟩
  | .dred _ => some ⟨(some .mpe), 0x42, [0], .outs, .src, .src, .data, .order⟩
  | .drrecvR _ => some ⟨(some .mpe), 0x43, [0], .outs, .src, .src, .data, .order⟩
  | .drrecvW _ => some ⟨(some .mpe), 0x43, [1], .outs, .src, .src, .data, .order⟩
  | .drclose _ => some ⟨(some .mpe), 0x44, [0], .outs, .src, .zero, .data, .order⟩
  | .drcloseW _ => some ⟨(some .mpe), 0x44, [1], .outs, .src, .zero, .data, .order⟩
  | _ => none

/-- The fields of a slot instruction. -/
def slotF (i : Instr) : Option SlotF :=
  match i with
  | .nop f => some f
  | .mov f => some f
  | .emit f => some f
  | .plog f => some f
  | .tagrd f => some f
  | .join f => some f
  | .joinc f => some f
  | .trap f => some f
  | .perf f => some f
  | .sel f => some f
  | .add f => some f
  | .sub f => some f
  | .adds f => some f
  | .subs f => some f
  | .mul f => some f
  | .mulh f => some f
  | .mulhu f => some f
  | .mac f => some f
  | .min f => some f
  | .minu f => some f
  | .max f => some f
  | .maxu f => some f
  | .abs f => some f
  | .neg f => some f
  | .cmpeq f => some f
  | .cmplt f => some f
  | .cmpltu f => some f
  | .cmple f => some f
  | .and f => some f
  | .or f => some f
  | .xor f => some f
  | .andn f => some f
  | .shl f => some f
  | .shr f => some f
  | .sar f => some f
  | .rotl f => some f
  | .rshr f => some f
  | .satn f => some f
  | .clz f => some f
  | .popc f => some f
  | .ppopc f => some f
  | .dot4 f => some f
  | .pack f => some f
  | .unpkl f => some f
  | .unpkh f => some f
  | .shuf f => some f
  | .bcast f => some f
  | .lanesum f => some f
  | .ins f => some f
  | .extr f => some f
  | .fadd f => some f
  | .fsub f => some f
  | .fmul f => some f
  | .fma f => some f
  | .fmin f => some f
  | .fmax f => some f
  | .fcmplt f => some f
  | .fcmpeq f => some f
  | .fabs f => some f
  | .fneg f => some f
  | .frcp f => some f
  | .frsq f => some f
  | .fexp2 f => some f
  | .flog2 f => some f
  | .cvt f => some f
  | .cvts f => some f
  | .bxenc f => some f
  | .bxencFlush f => some f
  | .bxdec f => some f
  | .fopen f => some f
  | .fadv f => some f
  | .fend f => some f
  | .fclose f => some f
  | .fpos f => some f
  | .cpair f => some f
  | .csplitC f => some f
  | .csplitV f => some f
  | .bmexp f => some f
  | .bmand f => some f
  | .cmerge f => some f
  | .topk f => some f
  | .topkrd f => some f
  | .srd f => some f
  | .swr f => some f
  | .sadd f => some f
  | .smax f => some f
  | .smin f => some f
  | .sxch f => some f
  | .cbrd f => some f
  | .cbrdPop f => some f
  | .cbwr f => some f
  | .cbadvr f => some f
  | .cbadvw f => some f
  | .cbset f => some f
  | .pwr f => some f
  | .prd f => some f
  | .pclr f => some f
  | .mpgo f => some f
  | .mpst f => some f
  | .mpstSusp f => some f
  | .mpstRes f => some f
  | .xrd f => some f
  | .xrdP f => some f
  | .xwr f => some f
  | .xwrP f => some f
  | .tcfg f => some f
  | .tfill f => some f
  | .tzero f => some f
  | .tmma f => some f
  | .tdrain f => some f
  | .trel f => some f
  | .tstat f => some f
  | .tscale f => some f
  | .tacc f => some f
  | .ld f => some f
  | .ldf f => some f
  | .st f => some f
  | .stClr f => some f
  | .sto f => some f
  | .stoClr f => some f
  | .pld f => some f
  | .wld f => some f
  | .gld f => some f
  | .sst f => some f
  | .astrm f => some f
  | .astwr f => some f
  | .agcfg f => some f
  | .fence f => some f
  | .aadd f => some f
  | .amin f => some f
  | .amax f => some f
  | .aand f => some f
  | .aor f => some f
  | .axch f => some f
  | .acas f => some f
  | .afadd f => some f
  | .tken f => some f
  | .tkdec f => some f
  | .tkdecRet f => some f
  | .qput f => some f
  | .tkst f => some f
  | .tkstClr f => some f
  | .tkstAbn f => some f
  | .ald f => some f
  | .ast f => some f
  | .aaddc f => some f
  | .aiter f => some f
  | .acnt f => some f
  | .acntH f => some f
  | .cpy f => some f
  | .cve f => some f
  | .densQ f => some f
  | .densS f => some f
  | .rld f => some f
  | .rst f => some f
  | .rstAck f => some f
  | .dred f => some f
  | .drrecvR f => some f
  | .drrecvW f => some f
  | .drclose f => some f
  | .drcloseW f => some f
  | _ => none

/-- Bit k of DEQ, IRDY or OSPC. -/
def nib (x : BitVec 4) (k : Nat) : Bool := x.getLsbD k

/-- The inputs a slot reads as sources (R42). -/
def readInputs (e : Entry) (f : SlotF) : List Nat :=
  (if e.a.reads && decide (f.srca.toNat ≤ 3) then [f.srca.toNat] else []) ++
  (if e.b.reads && decide (f.srcb.toNat ≤ 3) then [f.srcb.toNat] else [])

/-- The inputs DEQ names. -/
def deqInputs (f : SlotF) : List Nat := (List.range 4).filter fun k => nib f.deq k

/-- The order input of a slot: the one input that DEQ names and the slot does not read (R352). -/
def orderInput (e : Entry) (f : SlotF) : Option Nat :=
  match (deqInputs f).filter fun k => !(readInputs e f).contains k with
  | [k] => some k
  | _ => none

/-- The limits of every trigger and operation word (R37, R44, R45). -/
def commonOk (e : Entry) (f : SlotF) : Bool :=
  (f.pval &&& ~~~f.pcare == 0) &&
  (f.ten == 1 || (f.tch == 0 && f.tval == 0)) &&
  (f.pmode != 0 || f.pidx == 0) &&
  (f.otag != 3) &&
  (f.otag != 1 || (e.a.reads && decide (f.srca.toNat ≤ 3)))

/-- The limits of the instruction's own entry on LANE, DST, SRCA, SRCB, OTAG and DEQ (R41). -/
def usesOk (e : Entry) (f : SlotF) : Bool :=
  e.lanes.contains f.lane.toNat && e.dst.ok f.dst.toNat && e.a.ok f.srca.toNat && e.b.ok f.srcb.toNat &&
  (e.otag == .any || f.otag == 0) &&
  match e.deq with
  | .any => true
  | .none => f.deq == 0
  | .some => f.deq != 0
  | .nameA => nib f.deq f.srca.toNat
  | .notA => !nib f.deq f.srca.toNat
  | .order => (orderInput e f).isSome

/-- Lane width of LANE 00 to 11 (R39). -/
def laneW (lane : BitVec 2) : Nat := 64 / 2 ^ lane.toNat

/-- The limits that join two fields (R138, R143, R150, R152, R164, R130). -/
def extraOk (i : Instr) : Bool :=
  match i with
  | .satn f => decide (f.srcb.toNat + 1 < laneW f.lane)
  | .bcast f => decide (f.srcb.toNat < 64 / laneW f.lane)
  | .ins f => decide (f.srcb.toNat < 64 / laneW f.lane)
  | .extr f => decide (f.srcb.toNat < 64 / laneW f.lane)
  | .bxdec f => f.lane == 0 || decide (f.srcb.toNat ≤ 3)
  | .bxenc f =>
    (f.srcb == 0 || f.dst == 15) &&
    (match f.lane.toNat with
     | 0 => f.srca == 0
     | 1 => decide (f.srca.toNat ≤ 4)
     | 2 => decide (f.srca.toNat ≤ 4)
     | _ => decide (f.srca.toNat ≤ 6))
  | .bmand f => f.srca != f.srcb
  | .cmerge f => f.srca != f.srcb
  | .perf f => (f.srcb != 3 || f.srca == 0) && (f.srcb != 4 || f.lane == 0)
  | _ => true

/-- Every field limit of a slot that its own words show (R52, cause INSTALL_BADFIELD). -/
def slotOk (i : Instr) : Bool :=
  match entry i, slotF i with
  | some e, some f => commonOk e f && usesOk e f && extraOk i
  | _, _ => true

end Sys2Proof.Machine
end

