-- ==== Sys2Proof/WellFormed.lean ====
section
/-! DEFINITION. Well-formed instructions: a slot whose fields keep every limit that install checks on the slot's own
words (R52), a sequencer word that is not undefined (R64), any step. -/

namespace Sys2Proof

open Sys2Proof.Machine

/-- Field limits of the trigger word and of fields every operation word has (R37, R44, R45). -/
def Instr.commonWF (i : Instr) : Bool :=
  match entry i, slotF i with
  | some e, some f => commonOk e f
  | _, _ => true

/-- Field limits of the instruction's entry (R41, R122, R136, R164, R199, R224, R274, R318, R352, R385, R421). -/
def Instr.usesWF (i : Instr) : Bool :=
  match entry i, slotF i with
  | some e, some f => usesOk e f
  | _, _ => true

/-- Limits that join two fields (R130, R138, R143, R150, R152, R164). -/
def Instr.extraWF (i : Instr) : Bool := extraOk i

/-- A sequencer FENCE names no reserved scope (R64). -/
def Instr.scopeWF (i : Instr) : Bool :=
  match i with
  | .seqFence s => !(5 ≤ s.toNat && s.toNat ≤ 7)
  | _ => true

/-- A well-formed instruction. -/
def Instr.wf (i : Instr) : Bool := i.commonWF && i.usesWF && i.extraWF && i.scopeWF

end Sys2Proof
end

