-- ==== Sys2Proof/Decode.lean ====
section
/-! DEFINITION. The decoder of sequencer words (R62 to R64) and of slots (R35 to R39, R50), total on any word and
rejecting by name, and after it the encoder. -/

namespace Sys2Proof

open Sys2Proof.Machine

/-- Why a word is not an instruction. -/
inductive Undef where
  /-- MAJ is reserved (R64) -/
  | reservedMaj
  /-- MAJ 0x01 with FN 14 to 2047, or a shift of IMM16[7:6] = 11 (R63, R64) -/
  | badFn
  /-- a FENCE of scope 5 to 7 (R64) -/
  | badScope
  /-- a field that must be zero is not (R63, R64) -/
  | notZero
  /-- an opcode that R50 does not assign to the kind (R51) -/
  | badOpcode
  /-- a LANE or form bit that selects no row of the opcode -/
  | badForm
deriving DecidableEq, Repr

/-! ### Slots -/

/-- The trigger word and the low 25 bits of the operation word of a slot (R35, R37, R39). -/
def fieldsOf (x : Nat) : SlotF :=
  { pcare := BitVec.ofNat 8 (x / 2 ^ 24), pval := BitVec.ofNat 8 (x / 2 ^ 16), irdy := BitVec.ofNat 4 (x / 2 ^ 12),
    ospc := BitVec.ofNat 4 (x / 2 ^ 8), ten := BitVec.ofNat 1 (x / 2 ^ 7), tch := BitVec.ofNat 2 (x / 2 ^ 5),
    tval := BitVec.ofNat 3 (x / 2 ^ 2), grp := BitVec.ofNat 2 x, lane := BitVec.ofNat 2 (x / 2 ^ 55),
    dst := BitVec.ofNat 4 (x / 2 ^ 51), srca := BitVec.ofNat 4 (x / 2 ^ 47), srcb := BitVec.ofNat 4 (x / 2 ^ 43),
    deq := BitVec.ofNat 4 (x / 2 ^ 39), pidx := BitVec.ofNat 3 (x / 2 ^ 36), pmode := BitVec.ofNat 2 (x / 2 ^ 34),
    otag := BitVec.ofNat 2 (x / 2 ^ 32) }

/-- OPC of a slot. -/
def opcOf (x : Nat) : Nat := x / 2 ^ 57 % 128

/-- The ten opcodes of every kind (R50, R122). -/
def decodeCommon (opc : Nat) (f : SlotF) : Except Undef Instr :=
  match opc with
  | 0 => .ok (.nop f)
  | 1 => .ok (.mov f)
  | 2 => .ok (.emit f)
  | 3 => .ok (.plog f)
  | 4 => .ok (.tagrd f)
  | 5 => .ok (.join f)
  | 6 => .ok (.joinc f)
  | 7 => .ok (.trap f)
  | 8 => .ok (.perf f)
  | 9 => .ok (.sel f)
  | _ => .error .badOpcode

/-- The CE map (R50). -/
def decodeCe (opc : Nat) (f : SlotF) : Except Undef Instr :=
  match opc with
  | 16 => .ok (.add f)
  | 17 => .ok (.sub f)
  | 18 => .ok (.adds f)
  | 19 => .ok (.subs f)
  | 20 => .ok (.mul f)
  | 21 => .ok (.mulh f)
  | 22 => .ok (.mulhu f)
  | 23 => .ok (.mac f)
  | 24 => .ok (.min f)
  | 25 => .ok (.minu f)
  | 26 => .ok (.max f)
  | 27 => .ok (.maxu f)
  | 28 => .ok (.abs f)
  | 29 => .ok (.neg f)
  | 30 => .ok (.cmpeq f)
  | 31 => .ok (.cmplt f)
  | 32 => .ok (.cmpltu f)
  | 33 => .ok (.cmple f)
  | 34 => .ok (.and f)
  | 35 => .ok (.or f)
  | 36 => .ok (.xor f)
  | 37 => .ok (.andn f)
  | 38 => .ok (.shl f)
  | 39 => .ok (.shr f)
  | 40 => .ok (.sar f)
  | 41 => .ok (.rotl f)
  | 42 => .ok (.rshr f)
  | 43 => .ok (.satn f)
  | 44 => .ok (.clz f)
  | 45 => .ok (.popc f)
  | 46 => .ok (.ppopc f)
  | 47 => .ok (.dot4 f)
  | 48 => .ok (.pack f)
  | 49 => .ok (.unpkl f)
  | 50 => .ok (.unpkh f)
  | 51 => .ok (.shuf f)
  | 52 => .ok (.bcast f)
  | 53 => .ok (.lanesum f)
  | 54 => .ok (.ins f)
  | 55 => .ok (.extr f)
  | 56 => .ok (.fadd f)
  | 57 => .ok (.fsub f)
  | 58 => .ok (.fmul f)
  | 59 => .ok (.fma f)
  | 60 => .ok (.fmin f)
  | 61 => .ok (.fmax f)
  | 62 => .ok (.fcmplt f)
  | 63 => .ok (.fcmpeq f)
  | 64 => .ok (.fabs f)
  | 65 => .ok (.fneg f)
  | 66 => .ok (.frcp f)
  | 67 => .ok (.frsq f)
  | 68 => .ok (.fexp2 f)
  | 69 => .ok (.flog2 f)
  | 70 => .ok (.cvt f)
  | 71 => .ok (.cvts f)
  | 72 => if f.srcb.getLsbD 2 then .ok (.bxencFlush f) else .ok (.bxenc f)
  | 73 => .ok (.bxdec f)
  | 80 => .ok (.fopen f)
  | 81 => .ok (.fadv f)
  | 82 => .ok (.fend f)
  | 83 => .ok (.fclose f)
  | 84 => .ok (.fpos f)
  | 85 => .ok (.cpair f)
  | 86 =>
    match f.lane.toNat with
    | 0 => .ok (.csplitC f)
    | 1 => .ok (.csplitV f)
    | _ => .error .badForm
  | 87 => .ok (.bmexp f)
  | 88 => .ok (.bmand f)
  | 89 => .ok (.cmerge f)
  | 90 => .ok (.topk f)
  | 91 => .ok (.topkrd f)
  | _ => .error .badOpcode

/-- The SPE map (R50). -/
def decodeSpe (opc : Nat) (f : SlotF) : Except Undef Instr :=
  match opc with
  | 16 => .ok (.srd f)
  | 17 => .ok (.swr f)
  | 18 => .ok (.sadd f)
  | 19 => .ok (.smax f)
  | 20 => .ok (.smin f)
  | 21 => .ok (.sxch f)
  | 22 =>
    match f.lane.toNat with
    | 0 => .ok (.cbrd f)
    | 1 => .ok (.cbrd f)
    | 2 => .ok (.cbrdPop f)
    | _ => .error .badForm
  | 23 => .ok (.cbwr f)
  | 24 => .ok (.cbadvr f)
  | 25 => .ok (.cbadvw f)
  | 26 => .ok (.cbset f)
  | 27 => .ok (.pwr f)
  | 28 => .ok (.prd f)
  | 29 => .ok (.pclr f)
  | 30 => .ok (.mpgo f)
  | 31 =>
    match f.lane.toNat with
    | 0 => .ok (.mpst f)
    | 1 => .ok (.mpstSusp f)
    | 2 => .ok (.mpstRes f)
    | _ => .error .badForm
  | 32 =>
    match f.lane.toNat with
    | 0 => .ok (.xrd f)
    | 1 => .ok (.xrdP f)
    | _ => .error .badForm
  | 33 =>
    match f.lane.toNat with
    | 0 => .ok (.xwr f)
    | 1 => .ok (.xwrP f)
    | _ => .error .badForm
  | _ => .error .badOpcode

/-- The MXE map (R50). -/
def decodeMxe (opc : Nat) (f : SlotF) : Except Undef Instr :=
  match opc with
  | 16 => .ok (.tcfg f)
  | 17 => .ok (.tfill f)
  | 18 => .ok (.tzero f)
  | 19 => .ok (.tmma f)
  | 20 => .ok (.tdrain f)
  | 21 => .ok (.trel f)
  | 22 => .ok (.tstat f)
  | 23 => .ok (.tscale f)
  | 24 => .ok (.tacc f)
  | _ => .error .badOpcode

/-- The MPE map (R50). -/
def decodeMpe (opc : Nat) (f : SlotF) : Except Undef Instr :=
  match opc with
  | 16 => .ok (.ld f)
  | 17 => .ok (.ldf f)
  | 18 =>
    match f.lane.toNat with
    | 0 => .ok (.st f)
    | 1 => .ok (.stClr f)
    | _ => .error .badForm
  | 19 =>
    match f.lane.toNat with
    | 0 => .ok (.sto f)
    | 1 => .ok (.stoClr f)
    | _ => .error .badForm
  | 20 => .ok (.pld f)
  | 21 => .ok (.wld f)
  | 22 => .ok (.gld f)
  | 23 => .ok (.sst f)
  | 24 => .ok (.astrm f)
  | 25 => .ok (.astwr f)
  | 26 => .ok (.agcfg f)
  | 27 => .ok (.fence f)
  | 32 => .ok (.aadd f)
  | 33 => .ok (.amin f)
  | 34 => .ok (.amax f)
  | 35 => .ok (.aand f)
  | 36 => .ok (.aor f)
  | 37 => .ok (.axch f)
  | 38 => .ok (.acas f)
  | 39 => .ok (.afadd f)
  | 40 => .ok (.tken f)
  | 41 =>
    match f.lane.toNat with
    | 0 => .ok (.tkdec f)
    | 1 => .ok (.tkdecRet f)
    | _ => .error .badForm
  | 42 => .ok (.qput f)
  | 43 =>
    match f.lane.toNat with
    | 0 => .ok (.tkst f)
    | 1 => .ok (.tkstClr f)
    | 2 => .ok (.tkstAbn f)
    | _ => .error .badForm
  | 48 => .ok (.ald f)
  | 49 => .ok (.ast f)
  | 50 => .ok (.aaddc f)
  | 51 => .ok (.aiter f)
  | 52 =>
    match f.lane.toNat with
    | 0 => .ok (.acnt f)
    | 1 => .ok (.acntH f)
    | _ => .error .badForm
  | 56 => .ok (.cpy f)
  | 57 => .ok (.cve f)
  | 58 =>
    match f.lane.toNat with
    | 0 => .ok (.densQ f)
    | 1 => .ok (.densS f)
    | _ => .error .badForm
  | 64 => .ok (.rld f)
  | 65 =>
    match f.lane.toNat with
    | 0 => .ok (.rst f)
    | 1 => .ok (.rstAck f)
    | _ => .error .badForm
  | 66 => .ok (.dred f)
  | 67 =>
    match f.lane.toNat with
    | 0 => .ok (.drrecvR f)
    | 1 => .ok (.drrecvW f)
    | _ => .error .badForm
  | 68 =>
    match f.lane.toNat with
    | 0 => .ok (.drclose f)
    | 1 => .ok (.drcloseW f)
    | _ => .error .badForm
  | _ => .error .badOpcode

/-- The instruction of a slot word in an element of a kind (R50, R51). -/
def decodeSlot (k : Kind) (x : Word) : Except Undef Instr :=
  let f := fieldsOf x.toNat
  let opc := opcOf x.toNat
  if opc < 16 then decodeCommon opc f
  else match k with
    | .ce => decodeCe opc f
    | .spe => decodeSpe opc f
    | .mxe => decodeMxe opc f
    | .mpe => decodeMpe opc f

/-! ### Sequencer words -/

/-- The instruction of a sequencer word (R62, R63), or why it is undefined (R64). -/
def decodeSeq (x : BitVec 32) : Except Undef Instr :=
  let n := x.toNat
  let d : BitVec 5 := BitVec.ofNat 5 (n / 2 ^ 21)
  let a : BitVec 5 := BitVec.ofNat 5 (n / 2 ^ 16)
  let b : BitVec 5 := BitVec.ofNat 5 (n / 2 ^ 11)
  let fn : BitVec 11 := BitVec.ofNat 11 n
  let i : BitVec 16 := BitVec.ofNat 16 n
  let o : BitVec 21 := BitVec.ofNat 21 n
  let num : BitVec 14 := BitVec.ofNat 14 n
  match n / 2 ^ 26 with
  | 0x01 =>
    match n % 2 ^ 11 with
    | 0 => .ok (.seqAdd d a b)
    | 1 => .ok (.seqSub d a b)
    | 2 => .ok (.seqAnd d a b)
    | 3 => .ok (.seqOr d a b)
    | 4 => .ok (.seqXor d a b)
    | 5 => .ok (.sll d a b)
    | 6 => .ok (.srl d a b)
    | 7 => .ok (.sra d a b)
    | 8 => .ok (.slt d a b)
    | 9 => .ok (.sltu d a b)
    | 10 => .ok (.seqMul d a b)
    | 11 => .ok (.seqMulh d a b)
    | 12 => .ok (.divu d a b)
    | 13 => .ok (.remu d a b)
    | _ => .error .badFn
  | 0x02 => .ok (.addi d a i)
  | 0x03 => .ok (.andi d a i)
  | 0x04 => .ok (.ori d a i)
  | 0x05 => .ok (.xori d a i)
  | 0x06 =>
    match n / 2 ^ 6 % 2 ^ 10 with
    | 0 => .ok (.slli d a (BitVec.ofNat 6 n))
    | 1 => .ok (.srli d a (BitVec.ofNat 6 n))
    | 2 => .ok (.srai d a (BitVec.ofNat 6 n))
    | 3 => .error .badFn
    | _ => .error .notZero
  | 0x07 => .ok (.slti d a i)
  | 0x08 => if a = 0 then .ok (.lui d i) else .error .notZero
  | 0x09 => .ok (.ldb d a i)
  | 0x0A => .ok (.ldh d a i)
  | 0x0B => .ok (.ldw d a i)
  | 0x0C => .ok (.ldd d a i)
  | 0x0D => .ok (.stb d a i)
  | 0x0E => .ok (.sth d a i)
  | 0x0F => .ok (.stw d a i)
  | 0x10 => .ok (.std d a i)
  | 0x11 => .ok (.beq d a i)
  | 0x12 => .ok (.bne d a i)
  | 0x13 => .ok (.blt d a i)
  | 0x14 => .ok (.bge d a i)
  | 0x15 => .ok (.bltu d a i)
  | 0x16 => .ok (.bgeu d a i)
  | 0x17 => .ok (.jal d o)
  | 0x18 => .ok (.jalr d a i)
  | 0x20 =>
    match n / 2 ^ 14 % 4 with
    | 0 => .ok (.scrr d a num)
    | 1 => .ok (.scrw d a num)
    | 2 => .ok (.scrs d a num)
    | _ => .ok (.scrc d a num)
  | 0x21 => if d = 0 ∧ fn = 0 then .ok (.instWord a b) else .error .notZero
  | 0x22 => if b = 0 ∧ fn = 0 then .ok (.abnd d a) else .error .notZero
  | 0x23 => if b = 0 then .ok (.erd d a fn) else .error .notZero
  | 0x24 => if d = 0 then .ok (.ewr a b fn) else .error .notZero
  | 0x25 => if b = 0 ∧ fn = 0 then .ok (.occr d a) else .error .notZero
  | 0x26 => if d = 0 ∧ fn = 0 then .ok (.tinv a b) else .error .notZero
  | 0x27 => if fn = 0 then .ok (.savec d a b) else .error .notZero
  | 0x28 => if n % 2 ^ 26 = 0 then .ok .tret else .error .notZero
  | 0x29 => if b = 0 ∧ fn = 0 then .ok (.wev d a) else .error .notZero
  | 0x2A => if b = 0 then .ok (.sysr d a fn) else .error .notZero
  | 0x2B =>
    if n / 2 ^ 4 % 2 ^ 22 ≠ 0 then .error .notZero
    else if 5 ≤ n % 16 ∧ n % 16 ≤ 7 then .error .badScope
    else .ok (.seqFence (BitVec.ofNat 4 n))
  | _ => .error .reservedMaj

/-- The instruction a row's word stands for (its 32 bits in the order the table numbers them): the rows with bits
are the sequencer words; a slot's row has none in the table, since its element's kind is not among its bits. -/
def decodeTableWord (nbits w : Nat) : Option Instr :=
  if nbits = 32 then
    match decodeSeq (BitVec.ofNat 32 w) with
    | .ok i => some i
    | .error _ => none
  else none

/-! ### The encoder -/

/-- The 64 bits of a slot (R35, R37, R39). -/
def slotNat (opc : Nat) (f : SlotF) : Nat :=
  f.grp.toNat + f.tval.toNat * 2 ^ 2 + f.tch.toNat * 2 ^ 5 + f.ten.toNat * 2 ^ 7 + f.ospc.toNat * 2 ^ 8 +
  f.irdy.toNat * 2 ^ 12 + f.pval.toNat * 2 ^ 16 + f.pcare.toNat * 2 ^ 24 + f.otag.toNat * 2 ^ 32 +
  f.pmode.toNat * 2 ^ 34 + f.pidx.toNat * 2 ^ 36 + f.deq.toNat * 2 ^ 39 + f.srcb.toNat * 2 ^ 43 +
  f.srca.toNat * 2 ^ 47 + f.dst.toNat * 2 ^ 51 + f.lane.toNat * 2 ^ 55 + opc * 2 ^ 57

/-- The slot word of a slot instruction. -/
def encodeSlot (i : Instr) : Option Word :=
  match entry i, slotF i with
  | some e, some f => some (BitVec.ofNat 64 (slotNat e.opc f))
  | _, _ => none

/-- Form R and the forms that share its places (R62): MAJ, GD, GA, GB, FN. -/
def formR (maj d a b fn : Nat) : Nat := maj * 2 ^ 26 + d * 2 ^ 21 + a * 2 ^ 16 + b * 2 ^ 11 + fn

/-- Forms I, B, S and C: MAJ, GD, GA and the low 16 bits (R62). -/
def formI (maj d a i : Nat) : Nat := maj * 2 ^ 26 + d * 2 ^ 21 + a * 2 ^ 16 + i

/-- Form J (R62). -/
def formJ (maj d o : Nat) : Nat := maj * 2 ^ 26 + d * 2 ^ 21 + o

/-- The word of a sequencer instruction. -/
def encodeSeqN (i : Instr) : Option Nat :=
  match i with
  | .seqAdd d a b => some (formR 0x01 d.toNat a.toNat b.toNat 0)
  | .seqSub d a b => some (formR 0x01 d.toNat a.toNat b.toNat 1)
  | .seqAnd d a b => some (formR 0x01 d.toNat a.toNat b.toNat 2)
  | .seqOr d a b => some (formR 0x01 d.toNat a.toNat b.toNat 3)
  | .seqXor d a b => some (formR 0x01 d.toNat a.toNat b.toNat 4)
  | .sll d a b => some (formR 0x01 d.toNat a.toNat b.toNat 5)
  | .srl d a b => some (formR 0x01 d.toNat a.toNat b.toNat 6)
  | .sra d a b => some (formR 0x01 d.toNat a.toNat b.toNat 7)
  | .slt d a b => some (formR 0x01 d.toNat a.toNat b.toNat 8)
  | .sltu d a b => some (formR 0x01 d.toNat a.toNat b.toNat 9)
  | .seqMul d a b => some (formR 0x01 d.toNat a.toNat b.toNat 10)
  | .seqMulh d a b => some (formR 0x01 d.toNat a.toNat b.toNat 11)
  | .divu d a b => some (formR 0x01 d.toNat a.toNat b.toNat 12)
  | .remu d a b => some (formR 0x01 d.toNat a.toNat b.toNat 13)
  | .addi d a i => some (formI 0x02 d.toNat a.toNat i.toNat)
  | .andi d a i => some (formI 0x03 d.toNat a.toNat i.toNat)
  | .ori d a i => some (formI 0x04 d.toNat a.toNat i.toNat)
  | .xori d a i => some (formI 0x05 d.toNat a.toNat i.toNat)
  | .slli d a s => some (formI 0x06 d.toNat a.toNat (0 * 2 ^ 6 + s.toNat))
  | .srli d a s => some (formI 0x06 d.toNat a.toNat (1 * 2 ^ 6 + s.toNat))
  | .srai d a s => some (formI 0x06 d.toNat a.toNat (2 * 2 ^ 6 + s.toNat))
  | .slti d a i => some (formI 0x07 d.toNat a.toNat i.toNat)
  | .lui d i => some (formI 0x08 d.toNat 0 i.toNat)
  | .ldb d a i => some (formI 0x09 d.toNat a.toNat i.toNat)
  | .ldh d a i => some (formI 0x0A d.toNat a.toNat i.toNat)
  | .ldw d a i => some (formI 0x0B d.toNat a.toNat i.toNat)
  | .ldd d a i => some (formI 0x0C d.toNat a.toNat i.toNat)
  | .stb d a i => some (formI 0x0D d.toNat a.toNat i.toNat)
  | .sth d a i => some (formI 0x0E d.toNat a.toNat i.toNat)
  | .stw d a i => some (formI 0x0F d.toNat a.toNat i.toNat)
  | .std d a i => some (formI 0x10 d.toNat a.toNat i.toNat)
  | .beq d a i => some (formI 0x11 d.toNat a.toNat i.toNat)
  | .bne d a i => some (formI 0x12 d.toNat a.toNat i.toNat)
  | .blt d a i => some (formI 0x13 d.toNat a.toNat i.toNat)
  | .bge d a i => some (formI 0x14 d.toNat a.toNat i.toNat)
  | .bltu d a i => some (formI 0x15 d.toNat a.toNat i.toNat)
  | .bgeu d a i => some (formI 0x16 d.toNat a.toNat i.toNat)
  | .jal d o => some (formJ 0x17 d.toNat o.toNat)
  | .jalr d a i => some (formI 0x18 d.toNat a.toNat i.toNat)
  | .scrr d a n => some (formI 0x20 d.toNat a.toNat (0 * 2 ^ 14 + n.toNat))
  | .scrw d a n => some (formI 0x20 d.toNat a.toNat (1 * 2 ^ 14 + n.toNat))
  | .scrs d a n => some (formI 0x20 d.toNat a.toNat (2 * 2 ^ 14 + n.toNat))
  | .scrc d a n => some (formI 0x20 d.toNat a.toNat (3 * 2 ^ 14 + n.toNat))
  | .instWord a b => some (formR 0x21 0 a.toNat b.toNat 0)
  | .abnd d a => some (formR 0x22 d.toNat a.toNat 0 0)
  | .erd d a f => some (formR 0x23 d.toNat a.toNat 0 f.toNat)
  | .ewr a b f => some (formR 0x24 0 a.toNat b.toNat f.toNat)
  | .occr d a => some (formR 0x25 d.toNat a.toNat 0 0)
  | .tinv a b => some (formR 0x26 0 a.toNat b.toNat 0)
  | .savec d a b => some (formR 0x27 d.toNat a.toNat b.toNat 0)
  | .tret => some (formR 0x28 0 0 0 0)
  | .wev d a => some (formR 0x29 d.toNat a.toNat 0 0)
  | .sysr d a f => some (formR 0x2A d.toNat a.toNat 0 f.toNat)
  | .seqFence s => some (formR 0x2B 0 0 0 s.toNat)
  | _ => none

def encodeSeq (i : Instr) : Option (BitVec 32) := (encodeSeqN i).map (BitVec.ofNat 32)

/-- The words of an instruction: how many bits it has and their number; none for a step, which has no encoding. -/
def encode (i : Instr) : Option (Nat × Nat) :=
  match encodeSeq i, encodeSlot i with
  | some x, _ => some (32, x.toNat)
  | _, some x => some (64, x.toNat)
  | _, _ => none

end Sys2Proof
end

