-- ==== Sys2Proof/Machine/Causes.lean ====
section
/-! DEFINITION. Cause codes (R427), status codes (R354, R455) and control and format tag codes (R56, R57). -/

namespace Sys2Proof.Machine.Cause

def badop : Nat := 0x0101
def badkind : Nat := 0x0102
def badfield : Nat := 0x0103
def badroute : Nat := 0x0104
def badid : Nat := 0x0105
def depth : Nat := 0x0106
def noplace : Nat := 0x0107
def busy : Nat := 0x0108
def faultUnconsumed : Nat := 0x0201
def route : Nat := 0x0202
def residue : Nat := 0x0203
def fmtMismatch : Nat := 0x0204
def userTrap : Nat := 0x0205
def paramUnbound : Nat := 0x0206
def gdesc : Nat := 0x0207
def cbunset : Nat := 0x0208
def cbdesc : Nat := 0x0209
def mpdesc : Nat := 0x020A
def mxdesc : Nat := 0x020B
def mxstate : Nat := 0x020C
def mxshape : Nat := 0x020D
def agdesc : Nat := 0x020E
def bxpart : Nat := 0x0301
def streamOrder : Nat := 0x0302
def presenceRewrite : Nat := 0x0303
def deferFull : Nat := 0x0304
def xaddr : Nat := 0x0305
def uncorrectable : Nat := 0x0306
def paramBound : Nat := 0x0307
def noslot : Nat := 0x0401
def align : Nat := 0x0402
def extent : Nat := 0x0403
def page : Nat := 0x0404
def remote : Nat := 0x0405
def cls : Nat := 0x0406
def perm : Nat := 0x0407
def geom : Nat := 0x0408
def badpa : Nat := 0x0409
def baddesc : Nat := 0x040A
def extruns : Nat := 0x040B
def weightBusy : Nat := 0x040C
def recordBusy : Nat := 0x040D
def eqarea : Nat := 0x040E
def arborHdr : Nat := 0x0501
def arborOrder : Nat := 0x0502
def arborFull : Nat := 0x0503
def badentry : Nat := 0x0601
def predAbandoned : Nat := 0x0602
def depUnderflow : Nat := 0x0603
def retireUnderflow : Nat := 0x0604
def abandoned : Nat := 0x0605
def csrInvalid : Nat := 0x0606
def csrOrder : Nat := 0x0607
def csrFull : Nat := 0x0608
def remoteGone : Nat := 0x0701
def remoteTimeout : Nat := 0x0702
def drNovalue : Nat := 0x0703
def illegal : Nat := 0x0801
def privilege : Nat := 0x0802
def syscall : Nat := 0x0803
def elemsel : Nat := 0x0804
def elemlive : Nat := 0x0805
def preempt : Nat := 0x0901
def restore : Nat := 0x0902
def voteFail : Nat := 0x0903
def saveNoframe : Nat := 0x0904

end Sys2Proof.Machine.Cause

namespace Sys2Proof.Machine.Ctag

def data : BitVec 3 := 0
def order : BitVec 3 := 5
def fault : BitVec 3 := 6
def drain : BitVec 3 := 7

end Sys2Proof.Machine.Ctag
end

