-- ==== Sys2Proof/Machine/Num.lean ====
section
/-! DEFINITION. Number formats, rounding and conversion (03_numbers.md, R77 to R104): exact values, one rounding
each, saturation, special values, BX blocks and the stochastic rounding key. -/

namespace Sys2Proof.Machine

/-- A floating value read exactly: (-1)^neg * m * 2^e, an infinity or NaN (R79 to R84). m = 0 is a signed zero. -/
inductive FVal where
  | nan
  | inf (neg : Bool)
  | fin (neg : Bool) (m : Nat) (e : Int)
deriving DecidableEq, Repr

/-- How a format marks infinities and NaN: IEEE (F32, BF16, F16, E5M2), E4M3 (NaN only), E2M1 (neither). -/
inductive FSpec where
  | ieee | e4m3 | e2m1
deriving DecidableEq, Repr

/-- A floating format: exponent bits, fraction bits, bias (R79, R82). -/
structure FFmt where
  eb : Nat
  fb : Nat
  bias : Nat
  spec : FSpec
deriving DecidableEq, Repr

def fF32 : FFmt := ⟨8, 23, 127, .ieee⟩
def fBF16 : FFmt := ⟨8, 7, 127, .ieee⟩
def fF16 : FFmt := ⟨5, 10, 15, .ieee⟩
def fE4M3 : FFmt := ⟨4, 3, 7, .e4m3⟩
def fE5M2 : FFmt := ⟨5, 2, 15, .ieee⟩
def fE2M1 : FFmt := ⟨2, 1, 1, .e2m1⟩

def FFmt.width (f : FFmt) : Nat := 1 + f.eb + f.fb
def FFmt.signBit (f : FFmt) : Nat := 2 ^ (f.eb + f.fb)
/-- Exponent of the quantum of subnormals: 1 - bias - fb. -/
def FFmt.qmin (f : FFmt) : Int := 1 - (f.bias : Int) - f.fb
/-- Magnitude bits of the largest finite value (R79, R82). -/
def FFmt.maxBits (f : FFmt) : Nat :=
  match f.spec with
  | .ieee => (2 ^ f.eb - 1) * 2 ^ f.fb - 1
  | .e4m3 => 2 ^ (f.eb + f.fb) - 2
  | .e2m1 => 2 ^ (f.eb + f.fb) - 1
def FFmt.infBits (f : FFmt) : Nat := (2 ^ f.eb - 1) * 2 ^ f.fb
/-- The canonical NaN (R81, R82); E2M1 has none and gives +0 (R100). -/
def FFmt.nanBits (f : FFmt) : Nat :=
  match f.spec with
  | .ieee => if f.eb = 5 ∧ f.fb = 2 then 0x7E else f.infBits + 2 ^ (f.fb - 1)
  | .e4m3 => 0x7F
  | .e2m1 => 0

/-- The value of a bit pattern (R79, R80, R82, R83). -/
def FFmt.dec (f : FFmt) (bits : Nat) : FVal :=
  let x := bits % 2 ^ f.width
  let neg := decide (x ≥ f.signBit)
  let mag := x % f.signBit
  let ex := mag / 2 ^ f.fb
  let fr := mag % 2 ^ f.fb
  if f.spec = .ieee ∧ ex = 2 ^ f.eb - 1 then (if fr = 0 then .inf neg else .nan)
  else if f.spec = .e4m3 ∧ mag = 0x7F then .nan
  else if ex = 0 then .fin neg fr f.qmin
  else .fin neg (2 ^ f.fb + fr) (f.qmin + (ex - 1 : Nat))

/-- Rounding modes of RMODE (R91). -/
inductive RMode where
  | rne | rtz | rup | rdn | rna | sr
deriving DecidableEq, Repr

def RMode.known (n : Nat) : RMode :=
  match n with
  | 1 => .rtz | 2 => .rup | 3 => .rdn | 4 => .rna | 5 => .sr | _ => .rne

/-- The mode of an RMODE code. Install refuses the reserved codes 6 and 7; the mode of an element in which an EWR has
written one is a free choice (log 12). -/
def RMode.ofCode (n : Nat) : RMode := if n ≤ 5 then RMode.known n else RMode.known (Config.reservedRound n % 6)

/-- Whether the magnitude N/D, not an integer when N % D is not 0, goes up from its floor (R91, R94). -/
def roundUp (m : RMode) (rnd : Nat) (neg : Bool) (N D : Nat) : Bool :=
  let r := N % D
  match m with
  | .rne => decide (2 * r > D ∨ (2 * r = D ∧ N / D % 2 = 1))
  | .rtz => false
  | .rup => decide (r ≠ 0) && !neg
  | .rdn => decide (r ≠ 0) && neg
  | .rna => decide (2 * r ≥ D)
  | .sr => decide (r ≠ 0 ∧ r * 2 ^ 24 / D + rnd ≥ 2 ^ 24)

/-- The integer magnitude nearest N/D under the mode. -/
def roundMag (m : RMode) (rnd : Nat) (neg : Bool) (N D : Nat) : Nat :=
  N / D + if roundUp m rnd neg N D then 1 else 0

/-- n/d * 2^e as a fraction of naturals. -/
def fracOf (n d : Nat) (e : Int) : Nat × Nat :=
  match e with
  | .ofNat k => (n * 2 ^ k, d)
  | .negSucc k => (n, d * 2 ^ (k + 1))

/-- floor(log2 (n/d)) for n, d > 0. -/
def flog2 (n d : Nat) : Int :=
  let k : Int := (n.log2 : Int) - d.log2
  let (a, b) := fracOf n d (-k)
  if a ≥ b then k else k - 1

/-- What a magnitude beyond the largest finite value becomes (R93). -/
def overflowBits (f : FFmt) (m : RMode) (sat neg : Bool) : Nat :=
  let s := if neg then f.signBit else 0
  let big := s + f.maxBits
  let top := match f.spec with
    | .ieee => s + f.infBits
    | .e4m3 => f.nanBits
    | .e2m1 => big
  if sat then big
  else match m with
    | .rtz => big
    | .rup => if neg then big else top
    | .rdn => if neg then top else big
    | _ => top

/-- Round the exact magnitude n/d * 2^e, d > 0, with its sign to a format (R91 to R94). -/
def roundRat (f : FFmt) (m : RMode) (sat : Bool) (rnd : Nat) (neg : Bool) (n d : Nat) (e : Int) : Nat :=
  let s := if neg then f.signBit else 0
  if n = 0 then s
  else
    let lg := flog2 n d + e
    let q : Int := max (lg - f.fb) f.qmin
    let (N, D) := fracOf n d (e - q)
    let r := roundMag m rnd neg N D
    let (r, q) := if r = 2 ^ (f.fb + 1) then (2 ^ f.fb, q + 1) else (r, q)
    let mag := if r < 2 ^ f.fb then r else (q - f.qmin).toNat * 2 ^ f.fb + r
    if mag > f.maxBits then overflowBits f m sat neg else s + mag

/-- Round an exact value to a format; special values as R93 and R100 give. -/
def roundF (f : FFmt) (m : RMode) (sat : Bool) (rnd : Nat) (v : FVal) : Nat :=
  match v with
  | .nan => f.nanBits
  | .inf neg =>
    let s := if neg then f.signBit else 0
    match f.spec with
    | .ieee => if sat then s + f.maxBits else s + f.infBits
    | .e4m3 => if sat then s + f.maxBits else f.nanBits
    | .e2m1 => s + f.maxBits
  | .fin neg mm e => roundRat f m sat rnd neg mm 1 e

/-- Round an exact value to an integer and saturate to n signed bits (R100, R101). -/
def roundIntSat (n : Nat) (m : RMode) (rnd : Nat) (v : FVal) : Nat :=
  match v with
  | .nan => 0
  | .inf neg => satS n (if neg then -((2 ^ n : Nat) : Int) else ((2 ^ n : Nat) : Int))
  | .fin neg mm e =>
    let (N, D) := fracOf mm 1 e
    let r : Int := roundMag m rnd neg N D
    satS n (if neg then -r else r)

/-- An integer as an exact value. -/
def FVal.ofInt (x : Int) : FVal := .fin (decide (x < 0)) x.natAbs 0

/-- m * 2^e as an integer multiple of 2^q, q ≤ e. -/
def scaleTo (neg : Bool) (m : Nat) (e q : Int) : Int :=
  let x : Int := ((m * 2 ^ (e - q).toNat : Nat) : Int)
  if neg then -x else x

def FVal.neg : FVal → FVal
  | .nan => .nan
  | .inf n => .inf !n
  | .fin n m e => .fin (!n) m e

/-- The exact sum; the sign of an exact zero follows R81. -/
def FVal.add (rm : RMode) (a b : FVal) : FVal :=
  match a, b with
  | .nan, _ => .nan
  | _, .nan => .nan
  | .inf x, .inf y => if x = y then .inf x else .nan
  | .inf x, .fin _ _ _ => .inf x
  | .fin _ _ _, .inf y => .inf y
  | .fin x m e, .fin y k g =>
    let q := min e g
    let s := scaleTo x m e q + scaleTo y k g q
    if s = 0 then .fin (if m = 0 ∧ k = 0 ∧ x = y then x else decide (rm = .rdn)) 0 0
    else .fin (decide (s < 0)) s.natAbs q

/-- The exact product (R145). -/
def FVal.mul (a b : FVal) : FVal :=
  match a, b with
  | .nan, _ => .nan
  | _, .nan => .nan
  | .inf x, .inf y => .inf (x != y)
  | .inf x, .fin y m _ => if m = 0 then .nan else .inf (x != y)
  | .fin x m _, .inf y => if m = 0 then .nan else .inf (x != y)
  | .fin x m e, .fin y k g => .fin (x != y) (m * k) (e + g)

/-- The exact sum of a list of values, used for the chunk sums of R102 and R103: an exact zero is +0, but the sum of
addends that are all -0 is -0 (R81). -/
def FVal.sumList (vs : List FVal) : FVal :=
  match vs with
  | [] => .fin false 0 0
  | x :: xs => xs.foldl (FVal.add .rne) x

/-- a < b for values that are not NaN; +0 and -0 are equal (R146). -/
def FVal.lt (a b : FVal) : Bool :=
  match a, b with
  | .nan, _ => false
  | _, .nan => false
  | .inf x, .inf y => x && !y
  | .inf x, .fin _ _ _ => x
  | .fin _ _ _, .inf y => !y
  | .fin x m e, .fin y k g =>
    let q := min e g
    decide (scaleTo x m e q < scaleTo y k g q)

def FVal.feq (a b : FVal) : Bool :=
  match a, b with
  | .nan, _ => false
  | _, .nan => false
  | _, _ => !(FVal.lt a b) && !(FVal.lt b a)

def FVal.isNaN : FVal → Bool
  | .nan => true
  | _ => false

def FVal.sign : FVal → Bool
  | .nan => false
  | .inf n => n
  | .fin n _ _ => n

/-- Order with -0 below +0, for FMIN, FMAX and reductions (R146, R417). -/
def FVal.ltz (a b : FVal) : Bool :=
  FVal.lt a b || (FVal.feq a b && a.sign && !b.sign)

/-- rne_f32 of an exact value, as bits. -/
def rneF32 (v : FVal) : Nat := roundF fF32 .rne false 0 v

/-- rne_f32(a + b) of two F32 patterns (R232, R323, R355). -/
def addF32 (a b : Nat) : Nat := rneF32 (FVal.add .rne (fF32.dec a) (fF32.dec b))

/-! ### Stochastic rounding (R95) -/

def u32 (x : Nat) : Nat := x % 2 ^ 32

/-- The 24-bit number rnd of R95. -/
def srRnd (rank step index : Nat) : Nat :=
  let x := u32 (rank * 0x9E3779B1)
  let x := x ^^^ u32 step
  let x := u32 (x * 0x85EBCA77)
  let x := x ^^^ (x >>> 15)
  let x := x ^^^ u32 index
  let x := u32 (x * 0xC2B2AE3D)
  let x := x ^^^ (x >>> 13)
  let x := u32 (x * 0x27D4EB2F)
  let x := x ^^^ (x >>> 16)
  x / 256

/-! ### Reciprocal, roots, powers and logarithms (R148), each rounded once with RNE -/

/-- Round a value known to lie strictly between lo/2^k and hi/2^k, when both ends round alike. -/
def roundBetween (f : FFmt) (neg : Bool) (lo hi k : Nat) (e : Int) : Option Nat :=
  let a := roundRat f .rne false 0 neg (4 * lo + 1) 1 (e - k - 2)
  let b := roundRat f .rne false 0 neg (4 * hi - 1) 1 (e - k - 2)
  if a = b then some a else none

def frcp (f : FFmt) (v : FVal) : Nat :=
  match v with
  | .nan => f.nanBits
  | .inf n => if n then f.signBit else 0
  | .fin n m e =>
    let s := if n then f.signBit else 0
    if m = 0 then s + f.infBits else roundRat f .rne false 0 n 1 m (-e)

def frsq (f : FFmt) (v : FVal) : Nat :=
  match v with
  | .nan => f.nanBits
  | .inf n => if n then f.nanBits else 0
  | .fin n m e =>
    if m = 0 then (if n then f.signBit else 0) + f.infBits
    else if n then f.nanBits
    else
      let (m, e) := if e % 2 = 0 then (m, e) else (2 * m, e - 1)
      let h : Int := -(e / 2)
      let r := isqrt m
      if r * r = m then roundRat f .rne false 0 false 1 r h
      else
        let k : Nat := 80
        let y := isqrt (2 ^ (2 * k) / m)
        roundRat f .rne false 0 false (2 * y + 1) 1 (h - k - 1)

/-- Bounds of 2^(fr / 2^n) in units of 2^-p for fr < 2^n, by repeated square roots of 2. -/
def exp2Aux (p fr n : Nat) : Nat → Nat → Nat → Nat → Nat → Nat × Nat
  | 0, _, _, lo, hi =>
    -- what the bits beyond the ones used can still add is a factor below 1 + 2^-(steps taken)
    (lo, hi)
  | k + 1, rl, rh, lo, hi =>
    let rl' := isqrt (rl * 2 ^ p)
    let rh' := isqrt (rh * 2 ^ p) + 1
    let i := p + 1 - (k + 1)
    let b := if n ≥ i + 1 then fr.testBit (n - i - 1) else false
    let lo' := if b then lo * rl' / 2 ^ p else lo
    let hi' := if b then hi * rh' / 2 ^ p + 1 else hi
    exp2Aux p fr n k rl' rh' lo' hi'

/-- Bounds of 2^(fr / 2^n), 0 ≤ fr < 2^n, in units of 2^-p. -/
def exp2Frac (p fr n : Nat) : Nat × Nat :=
  let (lo, hi) := exp2Aux p fr n (p + 1) (2 ^ (p + 1)) (2 ^ (p + 1)) (2 ^ p) (2 ^ p)
  (lo, hi + hi / 2 ^ p + 2)

def exp2Try (f : FFmt) (ip : Int) (fr n : Nat) : Nat → Nat → Nat
  | 0, p => let (lo, _) := exp2Frac p fr n; roundRat f .rne false 0 false lo 1 (ip - p)
  | k + 1, p =>
    let (lo, hi) := exp2Frac p fr n
    match roundBetween f false lo hi p ip with
    | some r => r
    | none => exp2Try f ip fr n k (2 * p)

/-- 2^x (R148). An integer x is exact before the one rounding; the others are irrational and never a tie. -/
def fexp2 (f : FFmt) (v : FVal) : Nat :=
  match v with
  | .nan => f.nanBits
  | .inf n => if n then 0 else f.infBits
  | .fin neg m e =>
    if m = 0 then roundRat f .rne false 0 false 1 1 0
    else if flog2 m 1 + e ≥ 12 then (if neg then 0 else f.infBits)
    else
      match e with
      | .ofNat k =>
        let x : Int := ((m * 2 ^ k : Nat) : Int)
        roundRat f .rne false 0 false 1 1 (if neg then -x else x)
      | .negSucc k =>
        let n := k + 1
        let x : Int := if neg then -(m : Int) else m
        let ip := x / ((2 ^ n : Nat) : Int)
        let fr := (x % ((2 ^ n : Nat) : Int)).toNat
        if fr = 0 then roundRat f .rne false 0 false 1 1 ip
        else exp2Try f ip fr n 4 64

/-- Digits of log2 of a number in [1, 2) held between lo and hi in units of 2^-p: the bits that both bounds
agree on, as (value, count). -/
def log2Aux (p : Nat) : Nat → Nat → Nat → Nat → Nat → Nat × Nat
  | 0, _, _, acc, n => (acc, n)
  | k + 1, lo, hi, acc, n =>
    let lo2 := lo * lo / 2 ^ p
    let hi2 := hi * hi / 2 ^ p + 1
    if lo2 ≥ 2 ^ (p + 1) then log2Aux p k (lo2 / 2) (hi2 / 2 + 1) (2 * acc + 1) (n + 1)
    else if hi2 < 2 ^ (p + 1) then log2Aux p k lo2 hi2 (2 * acc) (n + 1)
    else (acc, n)

def log2Try (f : FFmt) (ex : Int) (m lg : Nat) : Nat → Nat → Nat
  | 0, p =>
    let (a, n) := log2Aux p (p / 2) (m * 2 ^ p / 2 ^ lg) (m * 2 ^ p / 2 ^ lg + 1) 0 0
    let t : Int := ex * (2 ^ n : Nat) + a
    roundRat f .rne false 0 (decide (t < 0)) t.natAbs 1 (-n)
  | k + 1, p =>
    let lo := m * 2 ^ p / 2 ^ lg
    let hi := if m * 2 ^ p % 2 ^ lg = 0 then lo else lo + 1
    let (a, n) := log2Aux p (p / 2) lo hi 0 0
    let t : Int := ex * (2 ^ n : Nat) + a
    let res := if t ≥ 0 then roundBetween f false t.natAbs (t.natAbs + 1) n 0
      else roundBetween f true (t.natAbs - 1) t.natAbs n 0
    match res with
    | some r => r
    | none => log2Try f ex m lg k (2 * p)

/-- log2 x (R148). A power of two is exact; every other result is irrational. -/
def flog2F (f : FFmt) (v : FVal) : Nat :=
  match v with
  | .nan => f.nanBits
  | .inf n => if n then f.nanBits else f.infBits
  | .fin neg m e =>
    if m = 0 then f.signBit + f.infBits
    else if neg then f.nanBits
    else
      let lg := m.log2
      let ex := (lg : Int) + e
      if m = 2 ^ lg then roundRat f .rne false 0 (decide (ex < 0)) ex.natAbs 1 0
      else log2Try f ex m lg 4 160

/-! ### BX blocks (R84 to R89) -/

/-- Magnitude bits of a BX format by its FTAG 11, 12, 13. -/
def bxMb (ftag : Nat) : Nat := if ftag = 11 then 2 else if ftag = 12 then 4 else 7
/-- Block bits (R85). -/
def bxBits (ftag : Nat) : Nat := if ftag = 11 then 64 else if ftag = 12 then 96 else 144
/-- Blocks and words of a token group (R87). -/
def bxGroupBlocks (ftag : Nat) : Nat := if ftag = 11 then 1 else if ftag = 12 then 2 else 4
def bxGroupWords (ftag : Nat) : Nat := if ftag = 11 then 1 else if ftag = 12 then 3 else 9

/-- The exponent field E of a block. -/
def bxE (ftag blk : Nat) : Nat := fldN blk (bxBits ftag - 8) 8

/-- Element i of a block, read with exponent E (R84, R86). -/
def bxElem (ftag blk E i : Nat) : FVal :=
  let mb := bxMb ftag
  if E = 0xFF then .nan
  else
    let mu := fldN blk (bxBits ftag - 16 + 2 * (i / 4)) 2
    let x := fldN blk ((mb + 1) * i) (mb + 1)
    .fin (x.testBit mb) (x % 2 ^ mb) ((E : Int) - 127 - mu - (mb - 1 : Nat))

/-- floor(log2 |x|) of a finite value that is not zero. -/
def FVal.lg : FVal → Option Int
  | .fin _ m e => if m = 0 then none else some (m.log2 + e)
  | _ => none

def FVal.isFin : FVal → Bool
  | .fin _ _ _ => true
  | _ => false

def maxLg (vs : List FVal) : Option Int :=
  vs.foldl (fun acc v => match acc, v.lg with
    | none, x => x
    | x, none => x
    | some a, some b => some (max a b)) none

def clampI (x lo hi : Int) : Int := if x < lo then lo else if x > hi then hi else x

/-- Encode sixteen exact values into one block (R89). rnd i is the stochastic number of element i. -/
def bxEncode (ftag : Nat) (rm : RMode) (rnd : Nat → Nat) (xs : List FVal) : Nat :=
  let mb := bxMb ftag
  if xs.any (fun v => !v.isFin) then 0xFF * 2 ^ (bxBits ftag - 8)
  else
    let E : Int := match maxLg xs with
      | none => 0
      | some l => clampI (l + 127) 0 254
    let mus := (List.range 4).map fun q =>
      match maxLg ((xs.drop (4 * q)).take 4) with
      | none => (0 : Int)
      | some l => clampI (E - 127 - l) 0 3
    let els := (List.range 16).map fun i =>
      match xs.getD i (.fin false 0 0) with
      | .fin s m e =>
        let mu := mus.getD (i / 4) 0
        let (N, D) := fracOf m 1 (e + (mb - 1 : Nat) - (E - 127 - mu))
        let r := min (roundMag rm (rnd i) s N D) (2 ^ mb - 1)
        (if s then 2 ^ mb else 0) + r
      | _ => 0
    packLanes (mb + 1) els
      + packLanes 2 (mus.map Int.toNat) * 2 ^ (bxBits ftag - 16)
      + E.toNat * 2 ^ (bxBits ftag - 8)

/-! ### Formats by their tag (R57, R77) -/

/-- Lane width of a lane format by FTAG 0 to 10 (R77, R79, R82). -/
def tagWidth (t : Nat) : Nat :=
  match t with
  | 0 => 64 | 1 => 32 | 4 => 32 | 2 => 16 | 5 => 16 | 6 => 16 | 3 => 8 | 7 => 8 | 8 => 8 | _ => 4

/-- The floating format of a tag, none for an integer format. -/
def tagF (t : Nat) : Option FFmt :=
  match t with
  | 4 => some fF32 | 5 => some fBF16 | 6 => some fF16 | 7 => some fE4M3 | 8 => some fE5M2 | 9 => some fE2M1
  | _ => none

/-- The exact value of one lane in the format of a tag; integer lanes are signed (R77, R149). -/
def tagDec (t x : Nat) : FVal :=
  match tagF t with
  | some f => f.dec x
  | none => FVal.ofInt (sgn (tagWidth t) x)

/-- One conversion of R99 to R101 of a lane from format tag t to format tag u. -/
def convLane (t u : Nat) (rm : RMode) (sat : Bool) (rnd x : Nat) : Nat :=
  match tagF u with
  | some f => roundF f rm sat rnd (tagDec t x)
  | none =>
    match tagF t with
    | some f => roundIntSat (tagWidth u) rm rnd (f.dec x)
    | none =>
      let v := sgn (tagWidth t) x
      if sat then satS (tagWidth u) v else wrapN (tagWidth u) v

/-- Whether the destination format holds every value of the source format, so that a firing never rounds (R96). -/
def convExact (t u : Nat) : Bool :=
  match tagF t, tagF u with
  | none, none => true
  | some _, none => false
  | none, some f => decide (tagWidth t - 1 ≤ f.fb + 1 ∧ f.spec = .ieee ∧ tagWidth t ≤ f.bias + 1)
      || (decide (tagWidth t = 4 ∧ f.spec = .e4m3))
  | some a, some b =>
    decide (a = b) || decide (b = fF32)
      || (decide (b = fBF16 ∧ (a = fE4M3 ∨ a = fE5M2 ∨ a = fE2M1)))
      || (decide (b = fF16 ∧ (a = fE4M3 ∨ a = fE5M2 ∨ a = fE2M1)))
      || (decide (a = fE2M1))

end Sys2Proof.Machine
end

