-- ==== Sys2Proof/Machine/Sparse.lean ====
section
/-! DEFINITION. Sparse contents in one canonical form: pairs of an address and a value, addresses strictly rising,
none holding the value that an unlisted address reads as. Memory, scratchpad banks, tile registers and accumulators
are held so. -/

namespace Sys2Proof.Machine

/-- The value at an address; d is what an unlisted address reads as. -/
def sget {α : Type} (d : α) : List (Nat × α) → Nat → α
  | [], _ => d
  | (k, v) :: r, a => if a = k then v else if a < k then d else sget d r a

/-- Write a value; writing d removes the pair. -/
def sset {α : Type} [DecidableEq α] (d : α) : List (Nat × α) → Nat → α → List (Nat × α)
  | [], a, v => if v = d then [] else [(a, v)]
  | (k, w) :: r, a, v =>
    if a < k then (if v = d then (k, w) :: r else (a, v) :: (k, w) :: r)
    else if a = k then (if v = d then r else (a, v) :: r)
    else (k, w) :: sset d r a v

/-- Every address of the list is above a. -/
def sabove {α : Type} (a : Nat) : List (Nat × α) → Bool
  | [] => true
  | (k, _) :: r => decide (a < k) && sabove a r

/-- The canonical form. -/
def swf {α : Type} [DecidableEq α] (d : α) : List (Nat × α) → Bool
  | [] => true
  | (k, v) :: r => decide (v ≠ d) && sabove k r && swf d r

/-- Write a list of values at rising addresses. -/
def ssetList {α : Type} [DecidableEq α] (d : α) (m : List (Nat × α)) (a : Nat) : List α → List (Nat × α)
  | [] => m
  | v :: vs => ssetList d (sset d m a v) (a + 1) vs

/-- Values at n rising addresses. -/
def sgetList {α : Type} (d : α) (m : List (Nat × α)) (a n : Nat) : List α :=
  (List.range n).map fun k => sget d m (a + k)

/-! Sets of addresses: strictly rising lists. -/

def setHas : List Nat → Nat → Bool
  | [], _ => false
  | k :: r, a => if a = k then true else if a < k then false else setHas r a

def setAdd : List Nat → Nat → List Nat
  | [], a => [a]
  | k :: r, a => if a < k then a :: k :: r else if a = k then k :: r else k :: setAdd r a

def setDel : List Nat → Nat → List Nat
  | [], _ => []
  | k :: r, a => if a < k then k :: r else if a = k then r else k :: setDel r a

/-- Strictly rising. -/
def setWf : List Nat → Bool
  | [] => true
  | k :: r => r.all (fun x => decide (k < x)) && setWf r

end Sys2Proof.Machine
end

