-- ==== Sys2Proof/Machine/ElemState.lean ====
section
/-! DEFINITION. The state of elements: tokens, data registers, queues, balance state, counters, and what each kind
holds besides (R56, R105, R151, R163, R169, R195 to R219, R220 to R238). -/

namespace Sys2Proof.Machine

/-- A token: the 80-bit link word (R56). -/
structure Tok where
  ctag : BitVec 3
  ftag : BitVec 4
  res : BitVec 4
  rid : BitVec 5
  pay : Word
deriving DecidableEq, Repr

/-- A token in an output register with the element clock in which it was placed: it may leave later (R108). -/
structure OutTok where
  tok : Tok
  born : Nat
deriving DecidableEq, Repr

/-- A data register: value, format tag, presence and the residue programs cannot see (R105, R134). -/
structure DReg where
  val : Word
  tag : BitVec 4
  pres : Bool
  res : BitVec 4
deriving DecidableEq, Repr

def DReg.zero : DReg := ⟨0, 0, false, 0⟩

/-- A constant and its hidden residue (R105, R134). -/
structure CReg where
  val : Word
  res : BitVec 4
deriving DecidableEq, Repr

/-- Balance state of one slot: weight, credit, occupancy sum, loss count (R114, R115). -/
structure Bal where
  w : Nat
  c : Int
  o : Nat
  l : Nat
deriving DecidableEq, Repr

/-- The three counters of a slot (R121). -/
structure Counters where
  fired : Nat
  stall : Nat
  starve : Nat
deriving DecidableEq, Repr

/-- A trap raised by an element or a switch box: its cause, sq.DETAIL (R430), and what a release acts on: the
source code whose residue failed (R431). -/
structure ETrap where
  cause : Nat
  detail : Nat
  operand : Option Nat
deriving DecidableEq, Repr

/-! ### CE -/

/-- A fibre register (R163). -/
structure Fib where
  bit : Nat
  fib0 : Nat
  fib1 : Nat
  fib2 : Nat
  fib3 : Nat
  pos : Nat
deriving DecidableEq, Repr

def Fib.zero : Fib := ⟨0, 0, 0, 0, 0, 0⟩

/-- The pack buffer (R151): the bits held (oldest lowest), their number, the format tag of the open group (0 for
none), its blocks encoded and its words emitted. -/
structure Pack where
  bits : Nat
  held : Nat
  fmt : Nat
  enc : Nat
  sent : Nat
deriving DecidableEq, Repr

def Pack.empty : Pack := ⟨0, 0, 0, 0, 0⟩

/-- The order check of one input: last coordinate and discard flag (R156). -/
structure Chk where
  last : Option Nat
  discard : Bool
deriving DecidableEq, Repr

structure CeState where
  fib : List Fib
  pack : Pack
  topk : List Word
  topType : Option Nat
  chk : List Chk
  sord : List Bool
  /-- inputs that are checked, fixed at install (R156) -/
  checked : List Bool
deriving DecidableEq, Repr

def CeState.init : CeState :=
  ⟨List.replicate 4 Fib.zero, Pack.empty, [], none, List.replicate 4 ⟨none, false⟩, List.replicate 4 false,
    List.replicate 4 false⟩

/-! ### SPE -/

/-- A word of a scratchpad bank (R195). -/
structure BWord where
  val : Word
  tag : BitVec 4
  res : BitVec 4
  pres : Bool
deriving DecidableEq, Repr

def BWord.zero : BWord := ⟨0, 0, 0, false⟩

/-- A circular-buffer handle (R203). -/
structure Handle where
  base : Nat
  size : Nat
  stride : Nat
  rd : Nat
  wr : Nat
  fill : Nat
deriving DecidableEq, Repr

def Handle.zero : Handle := ⟨0, 0, 0, 0, 0, 0⟩

/-- Who waits on a presence word: a local PRD with its output and the control tag of its token (R45), or a cross request
of an element (R207). -/
inductive Waiter where
  | own (dst : Nat) (ctag : BitVec 3)
  | cross (r : ElemRef) (cell : Nat)
deriving DecidableEq, Repr

/-- A deferral entry of a bank (R207). -/
structure Defer where
  word : Nat
  who : Waiter
deriving DecidableEq, Repr

/-- The four forms of a cross request (R208). -/
inductive CrossOp where
  | rd | rdP | wr | wrP
deriving DecidableEq, Repr

/-- A cross request on its way to, or in, a target's arrival queue (R208, R211). -/
structure CrossReq where
  src : ElemRef
  cell : Nat
  op : CrossOp
  word : Nat
  val : Word
  tag : BitVec 4
  res : BitVec 4
  due : Nat
deriving DecidableEq, Repr

/-- A cross reply owed to its issuer: the control tag that OTAG gives a word (R45), what enters DST, or the trap raised
with DST 15, and when (R208, R209). -/
structure CrossCell where
  cell : Nat
  dst : Nat
  isWrite : Bool
  ctag : BitVec 3
  credit : Bool
  reply : Option Tok
  fault : Option ETrap
  due : Nat
deriving DecidableEq, Repr

/-- Phases of a running microprogram (R217): reading the word of a step (second read still to come when the two
words share a sub-bank), writing it, and writing the sums. -/
inductive MpPhase where
  | read | read2 (x : BWord) | sums
deriving DecidableEq, Repr

/-- A write the microprogram has computed and not yet performed (R217); the presence of val is not written (R216). -/
structure MpWrite where
  word : Nat
  val : BWord
deriving DecidableEq, Repr

/-- The port microprogram (R215 to R219); state 0 idle, 1 running, 2 suspending, 3 suspended. -/
structure MicroProg where
  st : Nat
  byprog : Bool
  desc : Word
  scale : Word
  row : Nat
  word : Nat
  phase : MpPhase
  write : Option MpWrite
  acc : List Word
  dst : Nat
  done : Option Tok
deriving DecidableEq, Repr

def MicroProg.idle : MicroProg :=
  ⟨0, false, 0, 0, 0, 0, .read, none, List.replicate 64 0, 15, none⟩

/-- Reservations of sub-bank slots for one clock, one bit for each sub-bank (R212, R214). -/
structure Resv where
  mpRead : Nat
  mpWrite : Nat
  xRead : Nat
  xWrite : Nat
deriving DecidableEq, Repr

def Resv.none : Resv := ⟨0, 0, 0, 0⟩

structure SpeState where
  bank : List (Nat × BWord)
  dirty : Nat
  /-- words written in this clock, as they stood at its start (R211) -/
  old : List (Nat × BWord)
  bad : List Nat
  handles : List Handle
  defers : List Defer
  replies : List (Nat × Tok)
  crossIn : List CrossReq
  headWait : Nat
  credits : Nat
  owed : List CrossCell
  mp : MicroProg
  wait : Nat
  resv : Resv
  /-- slots used by the own port in this clock, and whether the microprogram alone held an own slot or the head -/
  used : Resv
  blocked : Bool
deriving DecidableEq, Repr

def SpeState.init : SpeState :=
  ⟨[], 0, [], [], List.replicate 8 Handle.zero, [], [], [], 0, 8, [], MicroProg.idle, 0, Resv.none, Resv.none,
    false⟩

/-! ### MXE -/

/-- A tile register (R221); data words are listed where they are not zero. -/
structure TReg where
  data : List (Nat × Word)
  st : Nat
  fmt : Nat
  rows : Nat
  cb : Nat
  col : Bool
  fill : Nat
  sigma : Nat
  ovr : Bool
  eovr : Nat
  dirty : Bool
  cause : Nat
deriving DecidableEq, Repr

def TReg.unset : TReg := ⟨[], 0, 0, 1, 8, false, 0, 0, false, 0, false, 0⟩

/-- An accumulator (R223); words 32r + c are listed where they are not zero. kind: false F32, true S32. -/
structure Acc where
  words : List (Nat × Nat)
  st : Nat
  kind : Bool
  m : Nat
  n : Nat
  cause : Nat
deriving DecidableEq, Repr

def Acc.zero : Acc := ⟨[], 0, false, 0, 0, 0⟩

/-- A firing of the array: TMMA of ta and tb, or TACC of ta (tb none), started in clock start, b clocks long
(R233). -/
structure ArrJob where
  acc : Nat
  ta : Nat
  tb : Option Nat
  start : Nat
  b : Nat
  poison : Option Nat
  /-- the operands as the array read them, once its clocks are over -/
  ops : List TReg
deriving DecidableEq, Repr

/-- The drain port (R237, R238): the tokens still to place are those of row and pos on. -/
structure Drain where
  acc : Nat
  fmt : Nat
  sat : Bool
  clr : Bool
  dst : Nat
  row : Nat
  pos : Nat
  start : Nat
deriving DecidableEq, Repr

structure MxeState where
  t : List TReg
  a : List Acc
  run : Option ArrJob
  next : Option ArrJob
  ending : List ArrJob
  drain : Option Drain
  /-- parts of the open BX group taken from each input, and the register that took them (R87, R88) -/
  parts : List (Nat × Nat)
  /-- tile registers and accumulators with an uncorrectable error (environment, R220) -/
  badT : List Nat
  badA : List Nat
deriving DecidableEq, Repr

def MxeState.init : MxeState :=
  ⟨List.replicate 8 TReg.unset, List.replicate 4 Acc.zero, none, none, [], none, List.replicate 4 (0, 0), [], []⟩

/-! ### MPE -/

/-- What an MPE firing asks for, one name for each MPE row that issues (R274, R352, R318, R385, R408, R421). -/
inductive MOp where
  | ld | ldf | st | stClr | sto | stoClr | pld | wld | gld | sst | astrm | astwr | fence
  | aadd | amin | amax | aand | aor | axch | acas | afadd
  | tken | tkdec | tkdecRet | qput | tkst | tkstClr | tkstAbn
  | ald | ast | aaddc | aiter | acnt | acntH
  | cpy | cve | densQ | densS
  | rld | rst | rstAck | dred | drrecvR | drrecvW | drclose | drcloseW
deriving DecidableEq, Repr

/-- A firing whose accesses are not issued yet: the values it read and its raw number and LANE (R275). -/
structure Issue where
  gid : Nat
  op : MOp
  lane : Nat
  n : Nat
  a : Word
  b : Word
  born : Nat
  /-- ASTWR: the firing writes the last address of the nest (R283) -/
  last : Bool
  /-- words of a command block that have been read, each an access of its own (R286): number, cause of its failure, value -/
  got : List (Nat × Nat × Word)
deriving DecidableEq, Repr

/-- What a reply cell holds: nothing yet, a token, nothing to emit, or a cause for the element to trap with. -/
inductive Reply where
  | wait
  | tok (t : Tok)
  | silent
  | trap (cause detail : Nat)
deriving DecidableEq, Repr

/-- One reply of a group, the credit it returns (0 none, 1 read, 2 lane, 3 write, 4 remote; 5 none, the ORDER of a
pass) and the first clock in which it may enter DST. -/
structure Cell where
  id : Nat
  r : Reply
  credit : Nat
  due : Nat
deriving DecidableEq, Repr

/-- The replies owed to one firing, in order (R275), with what it asked for. pass is the pass of an ASTWR, and the cell of
word 0 of an LDF. pred holds
PIDX and PMODE of a pending update (R353); outc the outcome to apply. opened: more cells may follow. -/
structure RGroup where
  gid : Nat
  op : MOp
  dst : Nat
  lane : Nat
  n : Nat
  a : Word
  b : Word
  pass : Nat
  slot : Nat
  cells : List Cell
  opened : Bool
  owes : Bool
  pred : Option (Nat × Nat)
  outc : Bool
deriving DecidableEq, Repr

/-- An address generator (R281): st 0 IDLE, 1 READING, 2 WRITING; idx the loop indexes; gid its stream or pass; more
whether it issues further addresses, from the clock after born. -/
structure AddrGen where
  c : List Nat
  s : List Int
  base : Word
  nl : Nat
  st : Nat
  idx : List Nat
  gid : Nat
  more : Bool
  born : Nat
deriving DecidableEq, Repr

def AddrGen.init : AddrGen := ⟨List.replicate 4 1, List.replicate 4 0, 0, 1, 0, List.replicate 4 0, 0, false, 0⟩

/-- A traversal in progress (R326, R329, R330): form 0 aiter, 1 aiter.s, 2 acnt. -/
structure Trav where
  gid : Nat
  cell : Nat
  a : Word
  hdr : Nat
  size : Nat
  lo : Nat
  hi : Nat
  last : Option Nat
  form : Nat
  started : Bool
  count : Nat
  due : Nat
  va : Nat
  /-- the walker has accepted its first step (R321) -/
  taken : Bool
deriving DecidableEq, Repr

/-- A replay entry (R441): the access, the extent-table slot of its task, the output its reply stood in, bits [47:0] of
the FAULT token, and whether a save found that token unconsumed (R442). -/
structure Replay where
  gid : Nat
  op : MOp
  a : Word
  b : Word
  n : Nat
  lane : Nat
  slot : Nat
  dst : Nat
  detail : Nat
  standing : Bool
deriving DecidableEq, Repr

/-- A read that a pre-emption cancelled, recorded for reissue (R434): its firing's request and the cells it owes. -/
structure Reissue where
  gid : Nat
  op : MOp
  a : Word
  b : Word
  n : Nat
  lane : Nat
  cells : List Nat
deriving DecidableEq, Repr

structure MpeState where
  rdCred : Nat
  wrCred : Nat
  laneCred : Nat
  remCred : Nat
  issueQ : List Issue
  groups : List RGroup
  ag : List AddrGen
  travs : List Trav
  replay : List Replay
  /-- FAULT tokens of cause PAGE that found no replay entry free: slot and bits [47:0] (R441) -/
  lost : List (Nat × Nat)
  reissue : List Reissue
  reemit : List (Nat × Word)
deriving DecidableEq, Repr

def MpeState.init : MpeState :=
  ⟨32, 16, 16, 32, [], [], List.replicate 2 AddrGen.init, [], [], [], [], []⟩

/-! ### The element -/

/-- An element of a fabric load (R105), at physical tile ptile of its die and physical site psite. -/
structure Elem where
  ref : ElemRef
  ptile : Nat
  psite : Nat
  slots : List Word
  ecw : Word
  p : List Bool
  d : List DReg
  c : List CReg
  ins : List (List Tok)
  /-- the BXPART token that each input shows before its queue, in place of a group that was broken (R88; log 10) -/
  broken : List (Option Tok)
  outs : List (List OutTok)
  rot : List Nat
  bal : List Bal
  balFired : List Nat
  step : Nat
  /-- sq.RNDRANK of the tile at install (R96, R97) -/
  rank : Nat
  counters : List Counters
  clk : Nat
  /-- the escapement has had this element clock, which CLK counts at its end unless a trap halts the element by then (R121) -/
  ticking : Bool
  trap : Option ETrap
  stopped : Bool
  lastTrans : Option Nat
  /-- the comparison that checks the next result of a CE fails (R133; environment, log 8) -/
  upset : Bool
  /-- words that an EWR wrote to places above a queue's count since they last held a token, and to item 0x131 (R378): FN,
  index, word -/
  shadow : List (Nat × Nat × Word)
  ce : CeState
  spe : SpeState
  mxe : MxeState
  mpe : MpeState
deriving DecidableEq, Repr

end Sys2Proof.Machine
end

