-- ==== Sys2Proof/Machine/SysState.lean ====
section
/-! DEFINITION. The state outside the elements: switch boxes, fabric loads, tile sequencers, the blocks of a die, the
accesses and commands in flight, the domain and the host link. -/

namespace Sys2Proof.Machine

/-! ### Routes -/

/-- The stage of one switch word (R178, R185, R189, R191). toks: the tokens of a pass, fan, delay-match or
width-adapt word, oldest first. bankA is the corner-turn bank that fills, bankB the one that drains, in the order in
which it drains; after holds a token other than DATA, which a corner turn takes when it is empty. The string IS of a
width adapter is the payloads of its DATA tokens without the isOff bits that have left it; osBits and osN are OS, and
osRids the identifiers of the tokens whose bits it holds, oldest first, each with its number of bits (R183). held is a
token that failed its route check (R184); xing the one-token stage of a tile crossing. -/
structure Stage where
  toks : List Tok
  bankA : List Tok
  bankB : List Tok
  after : List Tok
  isOff : Nat
  osBits : Nat
  osN : Nat
  osRids : List (Nat × BitVec 5)
  held : Option Tok
  xing : List Tok
deriving DecidableEq, Repr

def Stage.empty : Stage := ⟨[], [], [], [], 0, 0, 0, [], none, []⟩

/-- A switch box of a tile of a fabric load, at logical tile lt and site (R17, R53, R55); depth holds the granted depths
of its words (R187). -/
structure Box where
  load : LoadRef
  lt : Nat
  site : Nat
  words : List (BitVec 16)
  rids : Word
  depth : List Nat
  stages : List Stage
  /-- words that an EWR wrote to places above a stage's count (R378): index, word -/
  shadow : List (Nat × Word)
deriving DecidableEq, Repr

/-! ### Fabric loads -/

/-- A run of an extent-table slot (R257), with the incarnation of a remote target (R405) and the declared W of its
extent (R389). -/
structure Run where
  vbase : Nat
  n : Nat
  ext : Nat
  p : Bool
  r : Bool
  w : Bool
  cls : Nat
  fmt : Nat
  geom : Nat
  pkg : Nat
  ppn : Nat
  declW : Bool
  inc : Nat
  /-- page sizes, SZ of R251: each with the first granule from which it holds -/
  psz : List (Nat × Nat)
deriving DecidableEq, Repr

/-- A dispatched task in an extent-table slot (R24, R257, R272, R407, R447). -/
structure SlotX where
  handle : Nat
  runs : List Run
  wins : List (Option Nat)
  entry : Nat
  count : Nat
  written : Nat
  gone : List Nat
  sig : Word
  dispAt : Nat
  frame : Nat
  /-- step counters of the fabric load when the execution began: logical tile, site, value (R98) -/
  steps : List (Nat × Nat × Nat)
deriving DecidableEq, Repr

/-- An entry of a fabric load with its queue and refill buffer (R349, R351). head and count: the ring in SYE SRAM;
asked: payloads requested and not yet returned, with the clocks the requests return and how many each fetches. -/
structure EntryQ where
  lt : Nat
  site : Nat
  port : Nat
  head : Nat
  count : Nat
  reqs : List (Nat × Nat)
  buf : List Word
  /-- the slot whose thread token was written last (R350) -/
  turn : Nat
deriving DecidableEq, Repr

/-- A logical tile's place (R377), its scope-group mask (R74, R289). -/
structure TilePlace where
  lt : Nat
  pt : Nat
  groups : Nat
deriving DecidableEq, Repr

/-- Where a fabric load stands: resident, retiring (R376), stopping and draining (R434 phases 1 and 2), saving
(phases 3 to 5), restoring (R439). -/
inductive LPhase where
  | resident | retiring | draining | saving | restoring
deriving DecidableEq, Repr

/-- A probe for the runs of a slot that a restore translates again (R405): whether its reply or its failure has come, and
the incarnation that the target gave. -/
structure Probe where
  slot : Nat
  pkg : Nat
  answered : Bool
  inc : Option Nat
  /-- the tag of its request -/
  tag : Nat
deriving DecidableEq, Repr

/-- A disposition returned by TRET (R431, R432): 3 kill, 2 save with page request, 1 save, 0 release. -/
structure Disp where
  level : Nat
  cause : Nat
  vahi : Nat
deriving DecidableEq, Repr

structure Load where
  ref : LoadRef
  cfgid : Word
  tiles : List TilePlace
  entries : List EntryQ
  slots : List (Option SlotX)
  since : Nat
  lastDisp : Nat
  phase : LPhase
  reason : Nat
  disp : Option Disp
  /-- tiles whose PREEMPT or RESTORE routine has returned -/
  returned : List Nat
  /-- tiles whose RETIRE event is to be set (R376) -/
  retireFor : List Nat
  /-- frame reserved for a restore: owner's handle (R439) -/
  restoreOf : Option Nat
  /-- a new request held until a restore ends (R440) -/
  heldReq : Option Nat
  /-- probes of the translation of a restore (R405) -/
  probes : List Probe
  phaseAt : Nat
deriving DecidableEq, Repr

/-! ### Tile sequencers -/

/-- What a trap came from, which decides what TRET does (R368, R383, R431). -/
inductive TrapSrc where
  | word
  | sys (gd : Nat)
  | elem (r : ElemRef)
  | box (l : LoadRef) (lt site word : Nat)
  | preempt (l : LoadRef)
  | restore (l : LoadRef)
deriving DecidableEq, Repr

/-- A trap that is pending or has been taken, with the clock and the site it was raised at (R429). -/
structure PTrap where
  src : TrapSrc
  cause : Nat
  detail : Word
  born : Nat
  site : Nat
deriving DecidableEq, Repr

/-- A descriptor kept by a walker: level, virtual index and the word read (R254). -/
structure CDesc where
  level : Nat
  vidx : Nat
  d : Word
deriving DecidableEq, Repr

structure Seq where
  tile : Nat
  regs : List Word
  pc : BitVec 57
  status : Word
  epc : Word
  cause : Word
  detail : Word
  /-- the bits of sq.DETAIL that the layout of the trap last taken does not reserve (R6, R430, R435; log 90) -/
  dmask : Word
  tvec : Word
  sysret : Word
  evpend : BitVec 4
  rndrank : BitVec 32
  rndstep : BitVec 32
  tinvseq : BitVec 40
  tinvdone : BitVec 40
  instst : Word
  fmap : List Word
  held : Bool
  /-- the WEV word that waits: its GD and GA (R372) -/
  wev : Option (BitVec 5 × BitVec 5)
  pend : List PTrap
  taken : List PTrap
  tc : List CDesc
  /-- the clock from which another word may start (R369) -/
  busy : Nat
  /-- for each general register, the clock from which a word may read it (R369) -/
  late : List Nat
  /-- loads in flight whose register no later word has written: register and access (R369) -/
  loads : List (Nat × Nat)
  /-- TINV sequences issued and not complete, with their DRAIN tokens still to arrive (R261) -/
  tinvs : List (Nat × Nat)
deriving DecidableEq, Repr

/-! ### Accesses in flight -/

/-- A node that an arbor walker has changed and not written back: its local address, the die of the walker, which is that of
its arbor's header (R309, R317), and the 32 words that HBM still holds. -/
structure DirtyNode where
  pa : Nat
  die : Nat
  words : List Word
deriving DecidableEq, Repr


/-- What an access does at its home (R275, R323, R355, R263, R369): the last two are a sequencer's load of n bytes into a
register and its store of n bytes. -/
inductive MemOp where
  | read
  | write (v : Word)
  | clear
  | write32 (v : BitVec 32)
  | atomic (op : MOp) (lane : Nat) (b : Word)
  | arbor (op : MOp) (key val size : Nat)
  | drain (seq lo hi : Nat)
  | seqRead (reg n : Nat)
  | seqWrite (n v : Nat)
deriving DecidableEq, Repr

def MemOp.isDrain (o : MemOp) : Bool :=
  match o with
  | .drain _ _ _ => true
  | _ => false

/-- An access issued and not performed. tile is the package tile that issued it. pa is a local address; due the first
clock it may be performed; back the clocks its reply takes; ownAt, tileAt and dieAt the clocks from which a write is
performed at ELEMENT, at TILE and, when it has another home die, at DIE (R288). -/
structure Access where
  id : Nat
  ref : ElemRef
  tile : Nat
  gid : Nat
  cell : Nat
  op : MemOp
  pa : Nat
  va : Nat
  fmt : Nat
  cls : Nat
  slot : Nat
  due : Nat
  back : Nat
  ownAt : Nat
  tileAt : Nat
  dieAt : Nat
  /-- a read that holds a deferral entry (R267) -/
  deferred : Bool
  /-- a read that waits for the end of a refresh window (R269) -/
  held : Bool
  /-- an arbor operation that the walker has accepted (R321) -/
  taken : Bool
deriving DecidableEq, Repr

/-- A requester of a gather entry: element, group, its reply cells in order, and the FMT of the page that it named
(R172, R175). -/
structure GReq where
  ref : ElemRef
  gid : Nat
  cells : List Nat
  idx : Nat
  lane : Nat
  slot : Nat
  fmt : Nat
deriving DecidableEq, Repr

/-- A word of a read of several words, each an access of its own (R286): not read yet, held by a deferral entry (R267),
or fixed. -/
inductive RWord where
  | todo
  | deferred
  | fixed (w : Word)
deriving DecidableEq, Repr

/-- An entry of a GDE's window (R175), with the words of its row as they stand. -/
structure GdeEntry where
  id : Nat
  pa : Nat
  sz : Nat
  cls : Nat
  reqs : List GReq
  due : Nat
  got : List RWord
  cause : Nat
deriving DecidableEq, Repr

/-- A lane request that waits for a place in a full GDE window (R175). -/
structure GdeWait where
  pa : Nat
  sz : Nat
  cls : Nat
  req : GReq
deriving DecidableEq, Repr

/-- A decrement on its way to a record (R341, R342, R391): fromTkdec excluded; err set first when not 0. -/
structure DecMsg where
  id : Nat
  handle : Nat
  err : Nat
  due : Nat
deriving DecidableEq, Repr

/-- Who asked for an admission (R356, R360). -/
inductive Asker where
  | mpe (ref : ElemRef) (gid cell : Nat)
  | host (m : Master) (tag : Nat)
deriving DecidableEq, Repr

/-- A request in an admission queue (R360). -/
structure AdmReq where
  id : Nat
  op : MOp
  who : Asker
  handle : Nat
  k : Nat
  payload : Word
  va : Nat
  due : Nat
  back : Nat
  /-- it has taken its place in the queue -/
  queued : Bool
deriving DecidableEq, Repr

/-! ### Engines -/

/-- A physical range of a command, in local addresses (R284). -/
structure Range where
  pa : Nat
  len : Nat
deriving DecidableEq, Repr

/-- A word of a chunk that a copy has started (R390): its chunk, the local addresses that the check of P gave, the value
once it is read, and whether it is written. -/
structure CopyWord where
  chunk : Nat
  srcVa : Nat
  src : Nat
  dstVa : Nat
  dst : Nat
  val : Option Word
  done : Bool
deriving DecidableEq, Repr

/-- A source word that an engine has read: the cause of its failure, 0 for none, and its value. -/
structure SnapWord where
  va : Nat
  cause : Nat
  val : Word
deriving DecidableEq, Repr

/-- An engine or reduction command (R384, R421). st: 0 queued, 1 accepted, 2 over and to be ended. blkVa is the
operand of its block; srcs and dsts its ranges in memory (R284), those of the value and the bitmap for a receive; done
the bytes delivered. hdr and size are the arbor of a densifying copy and what its run holds from there. words are the
chunks that a copy has started, next the first chunk that it has not, and fail the chunk that failed with its cause
(R390). snap holds the source words that a conversion or a contribution has read; ents the entries that a densifying copy
has passed and key the next key of its traversal, none once that has ended (R334); planned that a conversion has its plan,
or a densifying copy its next chunk; spots where the words of that chunk lie, as its check of runs found them (R390), and
phases what is still to be written, by phase: virtual addresses and values. -/
structure Cmd where
  id : Nat
  die : Nat
  op : MOp
  ref : ElemRef
  gid : Nat
  cell : Nat
  slot : Nat
  task : Nat
  handle : Nat
  blk : List Word
  blkVa : Word
  blkPa : Nat
  st : Nat
  srcs : List Range
  dsts : List Range
  len : Nat
  done : Nat
  cause : Nat
  due : Nat
  hdr : Nat
  size : Nat
  words : List CopyWord
  next : Nat
  fail : Option (Nat × Nat)
  snap : List SnapWord
  ents : List (Nat × Nat)
  key : Option Nat
  planned : Bool
  spots : List (Nat × Nat)
  phases : List (List (Nat × Word))
deriving DecidableEq, Repr

/-! ### Blocks of a die -/

/-- A place of a ready queue (R344). -/
structure ReadyEnt where
  handle : Nat
  since : Nat
  prio : Nat
  vote : Nat
  excl : List Nat
deriving DecidableEq, Repr

/-- A dispatch in progress (R345): probes hold the packages still to answer, each with the tag of its request. -/
structure Dispatch where
  handle : Nat
  load : LoadRef
  slot : Nat
  due : Nat
  probes : List (Nat × Nat)
  x : SlotX
deriving DecidableEq, Repr

/-- A switch box as a placement changes it: logical tile, site, table and route identifiers. -/
structure BoxExt where
  lt : Nat
  site : Nat
  words : List (BitVec 16)
  rids : Word
deriving DecidableEq, Repr

/-- A placement (R377): physical tile of each logical tile, element substitutions (logical tile, site, new site), and
the boxes whose words extend routes. -/
structure Placing where
  tiles : List (Nat × Nat)
  subs : List (Nat × Nat × Nat)
  ext : List BoxExt
deriving DecidableEq, Repr

/-- A place of the caliber cache: key (CFGID, origin, fence maps) and placement (R377). -/
structure Caliber where
  cfgid : Word
  origin : Nat
  fences : List Word
  pl : Placing
deriving DecidableEq, Repr

/-- An install in progress (R373): the step that runs and the clock in which it ends, the words of the header and entry
table once step 1 has read them, the placement with its origin once there is one, and what step 4 has made of the tile
sections. abandon is the clock in which it is abandoned (R376, R440). -/
structure Install where
  tile : Nat
  va : Nat
  allowed : Nat
  step : Nat
  due : Nat
  hdr : List Word
  pl : Option Placing
  origin : Nat
  /-- the fence maps under which the placement was found (R377) -/
  fences : List Word
  elems : List Elem
  boxes : List Box
  groups : List Nat
  hash : Word
  abandon : Option Nat
deriving DecidableEq, Repr

/-- A vote on a task (R446): the exclusion set, in package tiles; signatures; the tiles of E2; the execution that runs
or is to run (1, 2 or 3); whether a detection has voided it, whether it has been run again for that, and whether the
vote has failed; and the step counters at the start of E1 (R98). -/
structure Vote where
  handle : Nat
  excl : List Nat
  s1 : Option Word
  s2 : Option Word
  s3 : Option Word
  e2tiles : List Nat
  stage : Nat
  void : Bool
  retried : Bool
  fail : Bool
  steps : List (Nat × Nat × Nat)
deriving DecidableEq, Repr

structure Die where
  n : Nat
  adm : List AdmReq
  admFree : Nat
  ready : List ReadyEnt
  owned : List Nat
  disp : Option Dispatch
  hcache : List CDesc
  csreq : Word
  csAt : Nat
  csDue : Bool
  /-- the configurations that were candidates when they were last looked at (R346) -/
  cands : List Word
  /-- frame owners that wait for the fabric load reserved for their restore (R439) -/
  csRestore : List Nat
  /-- the clock from which the SYE may perform an atomic, a decrement or an engine completion (R360) -/
  opFree : Nat
  /-- the clock in which the arbor walker last accepted operations, and how many in it (R321) -/
  walkAt : Nat
  walkN : Nat
  inst : Option Install
  caliber : List Caliber
  copyQ : List Nat
  fceQ : List Nat
  redQ : List Nat
  gde : List GdeEntry
  gdeWait : List GdeWait
  votes : List Vote
  trip : Bool
deriving DecidableEq, Repr

/-! ### The domain -/

/-- What a remote request of this package was for (R408 to R412, R405, R355). -/
inductive RemFor where
  | rld (cells : List Nat)
  | rst (cell : Nat)
  | atomic (cell : Nat)
  | probe (die : Nat)
  /-- a probe of a restore (R405) -/
  | reprobe (l : LoadRef) (slot : Nat)
deriving DecidableEq, Repr

/-- A remote request outstanding (R412). addr is its address at the target and cls the class of its run. From ownAt,
tileAt, dieAt and packAt on, a store counts as performed at ELEMENT, at TILE, at DIE and at PACKAGE (R288; log 94). -/
structure Remote where
  tag : Nat
  ref : ElemRef
  tile : Nat
  addr : Nat
  cls : Nat
  ownAt : Nat
  tileAt : Nat
  dieAt : Nat
  packAt : Nat
  gid : Nat
  slot : Nat
  dest : Nat
  what : RemFor
  va : Nat
  fmt : Nat
  limit : Nat
deriving DecidableEq, Repr

/-- A read from another package at this target, with its words as they stand (R286, R409). -/
structure RemDefer where
  req : RemReq
  got : List RWord
deriving DecidableEq, Repr

/-- A child of a reduction node (R415). -/
structure Child where
  node : Nat
  mbase : Nat
  mspan : Nat
  port : Nat
deriving DecidableEq, Repr

/-- A group-table entry (R415), the two words whole and the child list. -/
structure GroupEnt where
  group : Nat
  w0 : Word
  w1 : Word
  kids : List Child
deriving DecidableEq, Repr

/-- What an instance holds of one child: latest value, contributors and missing members, as bitmaps from the child's
MBASE. -/
structure KidVal where
  val : Option (List Word)
  bits : Nat
  miss : Nat
deriving DecidableEq, Repr

/-- An instance record (R415, R418). start: the link clock of its first packet; sent: the VER of the last value sent;
a released record keeps the name of its instance until it is used again (log 36). -/
structure Inst where
  group : Nat
  seq : Nat
  op : Nat
  fmt : Nat
  lenm1 : Nat
  start : Nat
  kids : List KidVal
  sent : Option Nat
  expired : Bool
  released : Bool
deriving DecidableEq, Repr

/-- A receive place (R424): st 0 never armed, 1 armed, 2 finalised tag, 3 finalising; form true for `.w`. dst, map and res are
local
addresses; m is the number of members. -/
structure Place where
  st : Nat
  group : Nat
  seq : Nat
  form : Bool
  handle : Nat
  dst : List Range
  map : List Range
  res : Nat
  m : Nat
  fmt : Nat
  op : Nat
  lenm1 : Nat
  finAt : Nat
  val : Option Packet
  close : Option Packet
  /-- words that its finalisation has still to write, each an access of its own (R286) -/
  todo : List (Nat × Word)
  /-- the cause that its finalisation ends with, 0 for none -/
  cause : Nat
deriving DecidableEq, Repr

def Place.free : Place := ⟨0, 0, 0, false, 0, [], [], 0, 0, 0, 0, 0, 0, none, none, [], 0⟩

/-- An unclaimed place (R424). -/
structure Unclaimed where
  group : Nat
  seq : Nat
  val : Option Packet
  close : Option Packet
deriving DecidableEq, Repr

/-! ### Saved fabric loads, registers, the outside -/

/-- What an SPE or MXE owes at a save and no item of R438 holds (log 39): deferral entries, deferred and cross replies
without output space, cross credits, parts of open BX groups and what stands for a broken one. -/
structure Kept where
  lt : Nat
  site : Nat
  defers : List Defer
  replies : List (Nat × Tok)
  owed : List CrossCell
  credits : Nat
  parts : List (Nat × Nat)
  broken : List (Option Tok)
deriving DecidableEq, Repr

/-- A fabric load saved in a frame (R434, R268): its owner, its tasks by slot with the runs they hold, whether a page
request goes with it, and what no item holds: of elements, and of the stages that hold something (logical tile, site,
word). -/
structure Saved where
  die : Nat
  owner : Nat
  cfgid : Word
  frame : Nat
  tasks : List (Option SlotX)
  page : Bool
  kept : List Kept
  held : List (Nat × Nat × Nat × Stage)
deriving DecidableEq, Repr

/-- An entry of dv.SELOG (R449). -/
structure SeLog where
  kind : Nat
  ptile : Nat
  site : Nat
  handle : Nat
deriving DecidableEq, Repr

/-- The device registers (R456). -/
structure Dv where
  claim : Word
  ptbase : Word
  syeovf : List Word
  csage : List Word
  pkgnum : Nat
  incarn : BitVec 32
  bootva : Word
  rtimeout : Word
  drbad : Nat
  drlate : Nat
  syestat : Word
  sepol : Word
  ltol : Word
  bootfail : Bool
  pstate : Nat
deriving DecidableEq, Repr

/-- What leaves the package. -/
inductive OutItem where
  | msg (m : Master) (header : Word) (data : List Word) (crc : Word)
  | req (q : RemReq)
  | rep (p : RemRep)
  /-- the words of a reduction packet with their residues (R416) -/
  | packet (port : Nat) (ws : List (Word × BitVec 4))
  /-- a packet that the route tables take to a package (R419) -/
  | routed (pkg : Nat) (ws : List (Word × BitVec 4))
deriving DecidableEq, Repr

end Sys2Proof.Machine
end

