-- ==== Sys2Proof/Machine/State.lean ====
section
/-! DEFINITION. The state of the package: plain data, everything the spec gives the machine, and what the step keeps
besides (who moves now and next, what the outside sends). -/

namespace Sys2Proof.Machine

/-- Why a step can stop. -/
inductive Fault where
  /-- Raised by every meaning when State.actor is not of the kind that performs the instruction, or names an element
  or sequencer that State does not hold. Safe: the device has no such step, and no step of the model makes such an
  actor. -/
  | noActor
deriving DecidableEq, Repr

/-- Why a step can be refused. -/
inductive Refusal where
  /-- Raised by an arm of exec whose instruction has no meaning in the model yet. Safe. -/
  | notModelled (mnemonic : String)
deriving DecidableEq, Repr

/-- Who performs the instruction that exec is given, or the object of the step. -/
inductive Actor where
  | none
  /-- the sequencer of a package tile -/
  | seq (tile : Nat)
  /-- slot n of an element, with the slots stalled and starved in the clock (R112) -/
  | slot (r : ElemRef) (n stall starve : Nat)
  | elem (r : ElemRef)
  /-- an element and a generator, group or reply group of it -/
  | elemN (r : ElemRef) (n : Nat)
  | load (l : LoadRef)
  /-- a fabric load and an entry, slot or reason -/
  | loadN (l : LoadRef) (n : Nat)
  | die (d : Nat)
  | dieN (d n : Nat)
  /-- an access, command, decrement, request, port or state number -/
  | id (n : Nat)
  | inst (group seq : Nat)
  | msg (m : Msg)
  | req (q : RemReq)
  | rep (p : RemRep)
  | packet (p : Packet)
  /-- the words of a packet that arrives (R416): by the tree of its group, or routed to this package alone (R419) -/
  | flits (routed : Bool) (ws : List (Word × BitVec 4))
  /-- whether the owner reads (R456) -/
  | owner (b : Bool)
  /-- a register number (and tile, for the fence maps) with the value written -/
  | reg (tile n : Nat) (v : Word)
  | table (group : Nat) (ws : List Word)
  /-- a WR message whose writes are performed: its master and tag -/
  | done (m : Master) (tag : Nat)
deriving DecidableEq, Repr

/-- Whose step comes next (log 2): a part of the element clock whose steps are then listed, a sequencer's next
word, the firing of a slot that the escapement chose, or a step of another block. -/
inductive Turn where
  | phase (k : Nat)
  | seq (tile : Nat)
  | fire (r : ElemRef) (slot stall starve : Nat)
  | event (i : Instr) (a : Actor)
deriving DecidableEq, Repr

structure State where
  /-- element clocks since reset (sq.CLK, R366) -/
  clock : Nat
  actor : Actor
  agenda : List Turn
  /-- what the outside does, with the clock in which it arrives -/
  inputs : List (Nat × Instr × Actor)
  out : List OutItem
  /-- the model's own: next free value and next name (log 3) -/
  freeCount : Nat
  nextId : Nat
  /-- the package's memory: bytes that are not zero, by local address (R246) -/
  mem : List Host.Cell
  /-- local word addresses whose presence bit is set (R248, R266), rising -/
  presence : List Nat
  /-- local word addresses with an uncorrectable error (R248), rising: environment -/
  bad : List Nat
  /-- nodes that the arbor walkers have changed and not written back, oldest first (R30, R317) -/
  unwritten : List DirtyNode
  seqs : List Seq
  dies : List Die
  loads : List Load
  elems : List Elem
  boxes : List Box
  accs : List Access
  decs : List DecMsg
  cmds : List Cmd
  dv : Dv
  pgreq : List Nat
  pgpend : List Nat
  selog : List SeLog
  selogLost : Nat
  saved : List Saved
  /-- messages whose RESP is not sent: master and tag (R455) -/
  tags : List (Master × Nat)
  /-- ports that are up (R400) -/
  ports : List Nat
  linkClk : List Nat
  remotes : List Remote
  remDefers : List RemDefer
  groups : List GroupEnt
  insts : List Inst
  places : List Place
  unclaimed : List Unclaimed
  /-- whether the sequencers have been released since reset (R461) -/
  released : Bool
  /-- the model's own: the free value that numbers the boot which read the firmware (R461, R463; log 19) -/
  boot : Nat
deriving DecidableEq, Repr

def Seq.atReset (tile : Nat) : Seq :=
  { tile := tile, regs := List.replicate 32 0, pc := 0, status := 1, epc := 0, cause := 0, detail := 0,
    dmask := BitVec.allOnes 64, tvec := 0,
    sysret := 0, evpend := 0, rndrank := 0, rndstep := 0, tinvseq := 0, tinvdone := 0, instst := 0,
    fmap := List.replicate 4 0, held := true, wev := none, pend := [], taken := [], tc := [], busy := 0,
    late := List.replicate 32 0, loads := [], tinvs := [] }

def Die.atReset (n : Nat) : Die :=
  { n := n, adm := [], admFree := 0, ready := [], owned := [], disp := none, hcache := [], csreq := 0, csAt := 0,
    csDue := false, cands := [], csRestore := [], opFree := 0, walkAt := 0, walkN := 0, inst := none, caliber := [], copyQ := [],
      fceQ := [],
    redQ := [], gde := [], gdeWait := [], votes := [], trip := false }

/-- The device registers at reset (R249, R338, R347, R402, R404, R412, R445, R457, R459, R461, R464). dv.INCARN is
the value a first power-up draws, which the spec leaves to a random source: log 5. -/
def Dv.atReset (incarn : BitVec 32) : Dv :=
  { claim := 0, ptbase := 0, syeovf := List.replicate 4 0, csage := List.replicate 4 (BitVec.ofNat 64 0x4000040),
    pkgnum := 0x1FFF, incarn := incarn, bootva := 0, rtimeout := 0x1000000, drbad := 0, drlate := 0, syestat := 0,
    sepol := 0x1001, ltol := 0, bootfail := false, pstate := 0 }

/-- The machine right after reset (R465, R461): nothing is resident, every sequencer is held. -/
def State.reset : State :=
  { clock := 0, actor := .none, agenda := [], inputs := [], out := [], freeCount := 0, nextId := 0, mem := [],
    presence := [], bad := [], unwritten := [], seqs := (List.range 192).map Seq.atReset,
    dies := (List.range 4).map Die.atReset, loads := [], elems := [], boxes := [], accs := [], decs := [], cmds := [],
      dv := Dv.atReset 0, pgreq := [],
    pgpend := [], selog := [], selogLost := 0, saved := [], tags := [], ports := [],
    linkClk := List.replicate 18 0, remotes := [], remDefers := [], groups := [], insts := [],
    places := List.replicate 64 Place.free, unclaimed := [], released := false, boot := 0 }

end Sys2Proof.Machine
end

