-- ==== Sys2Proof/Machine/Ops.lean ====
section
/-! DEFINITION. The named operations over memory, registers and the blocks of State, taking a trap and returning from
one, and the page walk. -/

namespace Sys2Proof.Machine

open Sys2Proof

abbrev Out := Host.Outcome State Fault Refusal

/-! ### Lists in an order -/

/-- Place x in a list before the first entry that it comes before. -/
def insertBy {α : Type} (le : α → α → Bool) (x : α) : List α → List α
  | [] => [x]
  | y :: ys => if le x y then x :: y :: ys else y :: insertBy le x ys

/-- The list in order; entries that come before each other keep theirs. -/
def sortBy {α : Type} (le : α → α → Bool) (xs : List α) : List α := xs.foldr (insertBy le) []

/-! ### Memory: bytes, words, presence, errors -/

/-- The byte at a local address. -/
def State.byte (s : State) (a : Nat) : Byte := sget 0 s.mem a

/-- n bytes from a, lowest address first (R3). -/
def State.bytes (s : State) (a n : Nat) : List Byte := sgetList 0 s.mem a n

/-- The number held by n bytes (R3). -/
def State.readN (s : State) (a n : Nat) : Nat := ofBytes (s.bytes a n)

/-- The 64-bit word at a. -/
def State.word (s : State) (a : Nat) : Word := BitVec.ofNat 64 (s.readN a 8)

/-- Write bytes from a upward. -/
def State.setBytes (s : State) (a : Nat) (bs : List Byte) : State := { s with mem := ssetList 0 s.mem a bs }

/-- Write the low n bytes of v at a. -/
def State.writeN (s : State) (a n v : Nat) : State := s.setBytes a (bytesOf n v)

def State.setWord (s : State) (a : Nat) (v : Word) : State := s.writeN a 8 v.toNat

/-- The canonical form of memory. -/
def Memory.wf (m : List Host.Cell) : Bool := swf 0 m

def State.present (s : State) (a : Nat) : Bool := setHas s.presence a
def State.setPresent (s : State) (a : Nat) : State := { s with presence := setAdd s.presence a }
def State.clearPresent (s : State) (a : Nat) : State := { s with presence := setDel s.presence a }

/-- A word with an uncorrectable error (R248). -/
def State.isBad (s : State) (a : Nat) : Bool := setHas s.bad a

/-! ### The local address map (R246, R247) -/

inductive Region where
  | hbm | weight | tile (die t : Nat) | sye (die : Nat) | none
deriving DecidableEq, Repr

def tileStoreBase (die t : Nat) : Nat := 0x20000000000 + die * 0x10000000 + t * 0x400000
def paramBase (die t : Nat) : Nat := tileStoreBase die t + 0x3FC000
def syeBase (die : Nat) : Nat := 0x30000000000 + die * 0x1000000

/-- The resource that a run of n bytes at local address a lies wholly in; none when any byte is reserved. -/
def regionOf (a n : Nat) : Region :=
  if a + n ≤ 0x6000000000 then .hbm
  else if 0x10000000000 ≤ a ∧ a + n ≤ 0x10100000000 then .weight
  else if 0x20000000000 ≤ a ∧ a < 0x20040000000 then
    let d := (a - 0x20000000000) / 0x10000000
    let t := (a - 0x20000000000) % 0x10000000 / 0x400000
    if t < 48 ∧ a + n ≤ paramBase d t then .tile d t else .none
  else if 0x30000000000 ≤ a ∧ a < 0x30004000000 then
    let d := (a - 0x30000000000) / 0x1000000
    if a + n ≤ syeBase d + 0x800000 then .sye d else .none
  else .none

/-- Whether a class is allowed in a resource (R246): 0 DENSE, 1 PRESENCE, 2 ARBOR, 3 WEIGHT. -/
def Region.allows (r : Region) (cls : Nat) : Bool :=
  match r with
  | .hbm => cls ≤ 2
  | .weight => cls == 3
  | .tile _ _ => cls == 0
  | .sye _ => cls == 0
  | .none => false

/-- Home die of a local address (R246, R247). -/
def homeDie (a : Nat) : Nat :=
  if a < 0x6000000000 then a / 0x1800000000
  else if a < 0x20000000000 then a / 2 ^ 30 % 4
  else if a < 0x30000000000 then a / 2 ^ 28 % 4
  else a / 2 ^ 24 % 4

/-- The package's own number (R402). -/
def State.ownPkg (s : State) : Nat := s.dv.pkgnum

/-! ### Free values and names (log 3) -/

/-- The next free value index, and the state that has used it. -/
def State.tick (s : State) : State := { s with freeCount := s.freeCount + 1 }

/-- Clocks a step waits beyond its figure. -/
def State.waitNow (s : State) : Nat := Config.wait s.freeCount

/-! ### Lookup and update by key -/

def State.elem? (s : State) (r : ElemRef) : Option Elem := s.elems.find? fun e => decide (e.ref = r)
def State.seq? (s : State) (t : Nat) : Option Seq := s.seqs.find? fun q => decide (q.tile = t)
def State.load? (s : State) (l : LoadRef) : Option Load := s.loads.find? fun x => decide (x.ref = l)
def State.die? (s : State) (n : Nat) : Option Die := s.dies.find? fun d => decide (d.n = n)
def State.box? (s : State) (l : LoadRef) (lt site : Nat) : Option Box :=
  s.boxes.find? fun b => decide (b.load = l ∧ b.lt = lt ∧ b.site = site)
def State.cmd? (s : State) (id : Nat) : Option Cmd := s.cmds.find? fun c => decide (c.id = id)
def State.acc? (s : State) (id : Nat) : Option Access := s.accs.find? fun a => decide (a.id = id)

def State.modElem (s : State) (r : ElemRef) (f : Elem → Elem) : State :=
  { s with elems := s.elems.map fun e => if e.ref = r then f e else e }
def State.modSeq (s : State) (t : Nat) (f : Seq → Seq) : State :=
  { s with seqs := s.seqs.map fun q => if q.tile = t then f q else q }
def State.modLoad (s : State) (l : LoadRef) (f : Load → Load) : State :=
  { s with loads := s.loads.map fun x => if x.ref = l then f x else x }
def State.modDie (s : State) (n : Nat) (f : Die → Die) : State :=
  { s with dies := s.dies.map fun d => if d.n = n then f d else d }
def State.modBox (s : State) (l : LoadRef) (lt site : Nat) (f : Box → Box) : State :=
  { s with boxes := s.boxes.map fun b => if b.load = l ∧ b.lt = lt ∧ b.site = site then f b else b }
def State.modCmd (s : State) (id : Nat) (f : Cmd → Cmd) : State :=
  { s with cmds := s.cmds.map fun c => if c.id = id then f c else c }
def State.modAcc (s : State) (id : Nat) (f : Access → Access) : State :=
  { s with accs := s.accs.map fun a => if a.id = id then f a else a }
def State.dropAcc (s : State) (id : Nat) : State :=
  { s with accs := s.accs.filter fun a => decide (a.id ≠ id) }

/-- Turns that follow the step in progress, before what stood on the agenda. -/
def State.push (s : State) (ts : List Turn) : State := { s with agenda := ts ++ s.agenda }

/-- A fabric load's tile: physical tile of a logical tile. -/
def Load.pt? (l : Load) (lt : Nat) : Option Nat := (l.tiles.find? fun t => decide (t.lt = lt)).map (·.pt)

/-- Package tile number of a die's tile. -/
def pkgTile (die t : Nat) : Nat := die * 48 + t

/-- The fabric load resident on a package tile, with the logical tile (R21, R367). -/
def State.residentOn (s : State) (tile : Nat) : Option (Load × Nat) :=
  s.loads.findSome? fun l =>
    if l.ref.die = tile / 48 then
      (l.tiles.find? fun t => decide (t.pt = tile % 48)).map fun t => (l, t.lt)
    else none

/-- Distance in tiles, columns plus rows (R209, R275). -/
def tileDist (a b : Nat) : Nat :=
  let ca := a % 8; let cb := b % 8; let ra := a / 8; let rb := b / 8
  (if ca ≤ cb then cb - ca else ca - cb) + (if ra ≤ rb then rb - ra else ra - rb)

/-- The kind of the element at a site (R16). -/
def kindAt (site : Nat) : Kind :=
  let r := site / 16
  let c := site % 16
  if r = 0 ∨ r = 11 then (if c % 2 = 0 then .mpe else .spe)
  else if c = 2 ∨ c = 5 ∨ c = 10 ∨ c = 13 then
    if r = 2 ∨ r = 4 ∨ r = 7 ∨ r = 9 then .mxe
    else if r = 3 ∨ r = 5 ∨ r = 6 ∨ r = 8 then .spe
    else .ce
  else .ce

/-! ### The element control word and an element's parts (R47) -/

def Elem.kind (e : Elem) : Kind := Kind.ofCode (fld e.ecw 62 2)
def Elem.mirror (e : Elem) : Bool := bitAt e.ecw 61
def Elem.rmode (e : Elem) : RMode := RMode.ofCode (fld e.ecw 58 3)
def Elem.imode (e : Elem) : Nat := fld e.ecw 56 2
def Elem.isel (e : Elem) : Nat := fld e.ecw 55 1
def Elem.gmode (e : Elem) (g : Nat) : Nat := fld e.ecw (46 + 2 * g) 2
def Elem.sen (e : Elem) (n : Nat) : Bool := bitAt e.ecw (32 + n)
def Elem.slotWord (e : Elem) (n : Nat) : Word := e.slots.getD n 0

/-- A predicate as it reads (R109). -/
def Elem.pred (e : Elem) (k : Nat) : Bool :=
  if e.mirror && decide (4 ≤ k) then (e.d.getD (k - 4) DReg.zero).pres else e.p.getD k false

/-! ### Tokens -/

def Tok.zero : Tok := ⟨0, 0, 0, 0, 0⟩

/-- A token with a newly computed residue (R60); ORDER, FAULT and DRAIN tokens carry FTAG 0 (R498). -/
def mkTok (ctag : BitVec 3) (ftag : BitVec 4) (pay : Word) : Tok :=
  ⟨ctag, if ctag = 5 ∨ ctag = 6 ∨ ctag = 7 then 0 else ftag, residue pay, 0, pay⟩

/-- The format tag a token carries under a control tag (R498). -/
def ftagFor (ctag : BitVec 3) (ftag : BitVec 4) : BitVec 4 := if ctag = 5 ∨ ctag = 6 ∨ ctag = 7 then 0 else ftag

def faultTok (cause detail : Nat) : Tok :=
  mkTok Ctag.fault 0 (BitVec.ofNat 64 (cause % 2 ^ 16 * 2 ^ 48 + detail % 2 ^ 48))
def orderTok (scope : Nat) : Tok := mkTok Ctag.order 0 (BitVec.ofNat 64 scope)
/-- An END token as instructions and engines produce it (R155). -/
def endTok (rank : Nat) : Tok := mkTok (BitVec.ofNat 3 (rank + 1)) 0 0
def dataTok (ftag : BitVec 4) (pay : Word) : Tok := mkTok Ctag.data ftag pay

def Tok.isData (t : Tok) : Bool := t.ctag == 0
def Tok.isEnd (t : Tok) : Bool := decide (1 ≤ t.ctag.toNat ∧ t.ctag.toNat ≤ 4)
def Tok.rank (t : Tok) : Nat := t.ctag.toNat - 1
def Tok.isOrder (t : Tok) : Bool := t.ctag == 5
def Tok.isFault (t : Tok) : Bool := t.ctag == 6
def Tok.isDrain (t : Tok) : Bool := t.ctag == 7
def Tok.causeOf (t : Tok) : Nat := fld t.pay 48 16
/-- Coordinate and value of a COORD payload (R90). -/
def coordOf (x : Word) : Nat := fld x 32 32
def valueOf (x : Word) : Nat := fld x 0 32

/-! ### Outputs (R40, R55, R105, R108) -/

/-- The outputs a DST code names. -/
def outsOf (dst : Nat) : List Nat :=
  match dst with
  | 0 => [0] | 1 => [1] | 2 => [2] | 3 => [3]
  | 12 => [0, 1] | 13 => [2, 3] | 14 => [0, 1, 2, 3]
  | _ => []

def Elem.out (e : Elem) (k : Nat) : List OutTok := e.outs.getD k []
def Elem.space (e : Elem) (k : Nat) : Bool := decide ((e.out k).length < 2)
def Elem.spaceFor (e : Elem) (dst : Nat) : Bool := (outsOf dst).all e.space
def Elem.inq (e : Elem) (k : Nat) : List Tok := e.ins.getD k []
/-- The BXPART token that stands before the queue of an input (R88; log 10). -/
def Elem.brokenAt (e : Elem) (k : Nat) : Option Tok := e.broken.getD k none
/-- The head of an input. -/
def Elem.front (e : Elem) (k : Nat) : Option Tok := (e.brokenAt k).or (e.inq k).head?

/-- DEST and SOURCE of a switch word (R53). -/
def swDest (w : BitVec 16) : Nat := w.toNat / 2 ^ 12
def swSource (w : BitVec 16) : Nat := w.toNat / 2 ^ 8 % 16
def swReg (w : BitVec 16) : Bool := w.getLsbD 7
def swMode (w : BitVec 16) : Nat := w.toNat / 2 ^ 4 % 8
def swParam (w : BitVec 16) : Nat := w.toNat % 16
def ridAt (rids : Word) (dest : Nat) : BitVec 5 := BitVec.ofNat 5 (fld rids (5 * dest) 5)

/-- The identifier that output k of an element stamps: that of the destination fed by the word whose SOURCE is Ok
in the box of its site (R55). -/
def State.outRid (s : State) (e : Elem) (k : Nat) : BitVec 5 :=
  match s.box? e.ref.load e.ref.lt e.psite with
  | some b =>
    match b.words.find? fun w => decide (w ≠ 0 ∧ swSource w = 4 + k) with
    | some w => ridAt b.rids (swDest w)
    | none => 0
  | none => 0

/-- Place a token in every output of dst, stamped and marked with the clock (R55, R108). -/
def Elem.put (e : Elem) (clock : Nat) (rid : Nat → BitVec 5) (dst : Nat) (t : Tok) : Elem :=
  { e with outs := (List.range 4).map fun k =>
      if (outsOf dst).contains k then e.out k ++ [⟨{ t with rid := rid k }, clock⟩] else e.out k }

/-- Place a token of an element from outside a firing. -/
def State.putTok (s : State) (e : Elem) (dst : Nat) (t : Tok) : Elem := e.put s.clock (s.outRid e) dst t

/-! ### Traps (R368, R383, R429, R430) -/

/-- sq.DETAIL of an element trap (R430). -/
def eDetail (site slot info : Nat) : Nat := site % 256 * 2 ^ 56 + slot % 16 * 2 ^ 52 + info % 2 ^ 48

/-- Add a trap to a tile's pending list: in the order raised, traps of one clock by site (R429, R452). -/
def addPend (p : PTrap) : List PTrap → List PTrap
  | [] => [p]
  | q :: qs => if q.born = p.born ∧ p.site < q.site then p :: q :: qs else q :: addPend p qs

/-- An element halts with a trap, which its tile's sequencer will take (R429). An element that already holds one
keeps it. -/
def State.trapElem (s : State) (r : ElemRef) (t : ETrap) : State :=
  match s.elem? r with
  | none => s
  | some e =>
    if e.trap.isSome then s
    else
      (s.modElem r fun e => { e with trap := some t, ticking := false }).modSeq (pkgTile r.die e.ptile) fun q =>
        { q with pend := addPend ⟨.elem r, t.cause, BitVec.ofNat 64 t.detail, s.clock, r.site⟩ q.pend }

/-- Bits of sq.STATUS (R367). -/
def Seq.priv (q : Seq) : Bool := bitAt q.status 0
def Seq.pPriv (q : Seq) : Bool := bitAt q.status 1
def Seq.inTrap (q : Seq) : Bool := bitAt q.status 2
def Seq.pInTrap (q : Seq) : Bool := bitAt q.status 3

def mkStatus (priv pPriv inTrap pInTrap : Bool) : Word :=
  BitVec.ofNat 64 (boolN priv + 2 * boolN pPriv + 4 * boolN inTrap + 8 * boolN pInTrap)

/-- The bits of sq.DETAIL that the layout of a trap does not reserve: of an element trap (R430), of PREEMPT and RESTORE
(R435), and all where the spec lays out none (log 90). -/
def PTrap.detailBits (p : PTrap) : Word :=
  match p.src with
  | .elem _ | .box _ _ _ _ => 0xFFF0FFFFFFFFFFFF
  | .preempt _ | .restore _ => 0xFFF00FFFFFFFF000
  | .word | .sys _ => BitVec.allOnes 64

/-- Take a trap at the boundary of the word at PC (R368). -/
def Seq.enter (q : Seq) (p : PTrap) : Seq :=
  { q with
    epc := BitVec.zeroExtend 64 q.pc
    cause := BitVec.ofNat 64 (p.cause % 2 ^ 16 * 2 ^ 48)
    detail := p.detail &&& p.detailBits
    dmask := p.detailBits
    status := mkStatus true q.priv true q.inTrap
    pc := BitVec.truncate 57 q.tvec
    wev := none
    taken := p :: q.taken }

/-- A trap raised by the sequencer's own word (kind Q of R427): taken at once. -/
def State.trapSeq (s : State) (tile : Nat) (src : TrapSrc) (cause : Nat) (detail : Word) : State :=
  s.modSeq tile fun q => q.enter ⟨src, cause, detail, s.clock, 0⟩

/-- Return from a trap (R383): PC, PRIV and INTRAP as the trap saved them. A SYSCALL word completes instead. -/
def Seq.leave (q : Seq) : Seq :=
  { q with
    pc := BitVec.ofNat 57 (q.epc.toNat / 4 * 4)
    status := mkStatus q.pPriv false q.pInTrap false
    taken := q.taken.drop 1 }

/-! ### General registers and PC of a sequencer (R365) -/

def Seq.reg (q : Seq) (n : BitVec 5) : Word := if n = 0 then 0 else q.regs.getD n.toNat 0
def Seq.setReg (q : Seq) (n : BitVec 5) (v : Word) : Seq :=
  if n = 0 then q
  else
    { q with
      regs := putAt 0 q.regs n.toNat v, late := putAt 0 q.late n.toNat 0
      loads := q.loads.filter fun x => decide (x.1 ≠ n.toNat) }
def Seq.next (q : Seq) : Seq := { q with pc := q.pc + 4 }

/-- Set an event bit of a tile (R371). -/
def State.setEvent (s : State) (tile bit : Nat) : State :=
  s.modSeq tile fun q => { q with evpend := q.evpend ||| BitVec.ofNat 4 (2 ^ bit) }

/-- The installer tile of a die: the lowest-numbered one that is not fenced (R367). -/
def State.installer (s : State) (die : Nat) : Option Nat :=
  (List.range 48).map (pkgTile die) |>.find? fun t =>
    match s.seq? t with
    | some q => !bitAt (q.fmap.getD 3 0) 0
    | none => false

/-! ### The page walk (R249 to R254) -/

/-- Fields of a page descriptor (R251). -/
def pdV (d : Word) : Bool := bitAt d 63
def pdR (d : Word) : Bool := bitAt d 62
def pdW (d : Word) : Bool := bitAt d 61
def pdX (d : Word) : Bool := bitAt d 60
def pdCls (d : Word) : Nat := fld d 58 2
def pdFmt (d : Word) : Nat := fld d 54 4
def pdGeom (d : Word) : Nat := fld d 48 6
def pdSz (d : Word) : Nat := fld d 46 2
def pdRsv (d : Word) : Nat := fld d 41 5
def pdPkg (d : Word) : Nat := fld d 28 13
def pdPpn (d : Word) : Nat := fld d 0 28

def pageSize (sz : Nat) : Nat := if sz = 0 then 0x10000 else if sz = 1 then 0x200000 else 0x20000000

def geomOk (geom fmt : Nat) : Bool :=
  geom == 0 || (geom == 0x10 && (fmt == 12 || fmt == 13))

/-- Why a descriptor read at a level ends a walk (R252); 0 when it does not. -/
def descFault (own level : Nat) (d : Word) : Nat :=
  if !pdV d then Cause.page
  else if pdSz d = 3 then
    if !(regionOf (pdPpn d * 0x10000) 0x10000).allows (pdCls d) then Cause.badpa
    else if level = 0 ∨ pdR d ∨ pdW d ∨ pdX d ∨ pdCls d ≠ 0 ∨ pdFmt d ≠ 0 ∨ pdGeom d ≠ 0 ∨ pdPkg d ≠ 0 ∨
        pdRsv d ≠ 0 then Cause.baddesc
    else 0
  else if pdPkg d = own ∧ !(regionOf (pdPpn d * 0x10000) (pageSize (pdSz d))).allows (pdCls d) then Cause.badpa
  else if (pdSz d = 2 ∧ level ≠ 1) ∨ (pdSz d < 2 ∧ level ≠ 0) ∨ (pdSz d = 1 ∧ pdPpn d % 32 ≠ 0) ∨
      (pdSz d = 2 ∧ pdPpn d % 2 ^ 13 ≠ 0) ∨ pdFmt d = 15 ∨ pdRsv d ≠ 0 ∨ !geomOk (pdGeom d) (pdFmt d) ∨
      (2 ≤ pdCls d ∧ pdSz d = 0) ∨ (pdX d ∧ pdCls d ≠ 0) then Cause.baddesc
  else 0

/-- Index of a level (R250) and the virtual index that names a descriptor. -/
def lvlShift (level : Nat) : Nat := if level = 2 then 42 else if level = 1 then 29 else 16
def lvlIndex (level va : Nat) : Nat := if level = 2 then fldN va 42 15 else if level = 1 then fldN va 29 13 else fldN va 16 13

/-- Whether a kept descriptor serves the index v of a level: its own, or another of the 32 of one 2 MiB page (R250). -/
def CDesc.serves (c : CDesc) (level v : Nat) : Bool :=
  c.level == level && (c.vidx == v || (level == 0 && pdSz c.d == 1 && c.vidx / 32 == v / 32))

/-- What reading a descriptor gives: the word, the cache, the free-value counter, whether the read went to memory, and
whether it met an uncorrectable error there (R248). -/
structure DescRead where
  d : Word
  tc : List CDesc
  fc : Nat
  mem : Bool
  bad : Bool

/-- Read a descriptor through a cache of descriptors (R254): a kept one may be used instead of the word in memory. -/
def State.readDesc (s : State) (tc : List CDesc) (fc level va addr : Nat) : DescRead :=
  let v := va / 2 ^ lvlShift level
  let m := s.word addr
  let fresh (fc : Nat) : DescRead :=
    if s.isBad addr then ⟨m, tc, fc, true, true⟩
    else ⟨m, ⟨level, v, m⟩ :: tc.filter (fun c => !c.serves level v), fc, true, false⟩
  match tc.find? fun c => c.serves level v with
  | none => fresh fc
  | some c =>
    if c.d = m ∧ ¬ s.isBad addr then ⟨m, tc, fc, false, false⟩
    else if Config.useCache fc then ⟨c.d, tc, fc + 1, false, false⟩
    else fresh (fc + 1)

/-- How a walk ends: a cause, or a leaf descriptor. -/
structure Walk where
  cause : Nat
  d : Word
  tc : List CDesc
  fc : Nat
  /-- addresses of the descriptors read from memory -/
  reads : List Nat
deriving DecidableEq, Repr

/-- A walk one descriptor further (R248, R252). -/
def Walk.read (w : Walk) (own level addr : Nat) (x : DescRead) : Walk :=
  ⟨if x.bad then Cause.uncorrectable else descFault own level x.d, x.d, x.tc, x.fc,
   if x.mem then addr :: w.reads else w.reads⟩

def State.walkFrom (s : State) (va : Nat) : Nat → Nat → Walk → Walk
  | 0, base, w =>
    let addr := base + 8 * lvlIndex 0 va
    w.read s.ownPkg 0 addr (s.readDesc w.tc w.fc 0 va addr)
  | n + 1, base, w =>
    let addr := base + 8 * lvlIndex (n + 1) va
    let w' := w.read s.ownPkg (n + 1) addr (s.readDesc w.tc w.fc (n + 1) va addr)
    if w'.cause ≠ 0 then w'
    else if pdSz w'.d = 3 then s.walkFrom va n (pdPpn w'.d * 0x10000) w'
    else w'

/-- Walk the tables for a virtual address (R250), through a cache of descriptors. -/
def State.walk (s : State) (tc : List CDesc) (fc va : Nat) : Walk :=
  s.walkFrom va 2 (fld s.dv.ptbase 18 26 * 2 ^ 18) ⟨0, 0, tc, fc, []⟩

/-- Local address bits [43:16] of the 64 KiB granule of va under a leaf descriptor. -/
def granPpn (d : Word) (va : Nat) : Nat :=
  pdPpn d + va % pageSize (pdSz d) / 0x10000

end Sys2Proof.Machine
end

