-- ==== Sys2Proof/Machine/Flags.lean ====
section
/-! DEFINITION. Outcomes and predicates: what makes an outcome true (R46), how PMODE applies it (R39, R44), and the
lane masks of comparisons (R137, R146). -/

namespace Sys2Proof.Machine

/-- The outcome of an instruction that names no other: the 64-bit result is not zero (R46). -/
def outNz (x : Word) : Bool := x != 0

/-- The outcome of a comparison: the truth of lane 0 (R46). -/
def outLane0 (w : Nat) (x : Word) : Bool := decide (laneN w 0 x ≠ 0)

/-- A predicate after PMODE: 00 none, 01 outcome, 10 toggled, 11 outcome inverted (R39). -/
def applyPmode (mode : Nat) (old outcome : Bool) : Bool :=
  match mode with
  | 1 => outcome
  | 2 => !old
  | 3 => !outcome
  | _ => old

/-- All ones in w bits, or zero (R137). -/
def mask (w : Nat) (b : Bool) : Nat := if b then 2 ^ w - 1 else 0

/-- Update P(PIDX) of an element with an outcome (R116 step 6). -/
def Elem.setPred (e : Elem) (idx mode : Nat) (outcome : Bool) : Elem :=
  { e with p := putAt false e.p idx (applyPmode mode (e.p.getD idx false) outcome) }

/-- A 32-bit counter that saturates (R115, R121). -/
def sat32 (n : Nat) : Nat := min n 0xFFFFFFFF

end Sys2Proof.Machine
end

