-- ==== Sys2Proof/Machine/Home.lean ====
section
/-! DEFINITION. What stands at the home of an address: task records and their ownership (R337 to R339), the entry-queue
area, errors that reach the log (R449, R451), and latencies (R275). -/

namespace Sys2Proof.Machine

open Sys2Proof

/-! ### Task records (R336, R337) -/

def handleDie (h : Nat) : Nat := h / 2 ^ 30 % 4
def handleIdx (h : Nat) : Nat := h % 2 ^ 30

/-- NGRAN and BASE of dv.SYEOVFd (R338). -/
def State.ovfGran (s : State) (d : Nat) : Nat := fld (s.dv.syeovf.getD d 0) 44 11
def State.ovfBase (s : State) (d : Nat) : Nat := fld (s.dv.syeovf.getD d 0) 16 28 * 0x10000

/-- Address of the record a handle names; none for index 0 and out of range (R337). -/
def State.recAddr (s : State) (h : Nat) : Option Nat :=
  let d := handleDie h
  let i := handleIdx h
  if i = 0 then none
  else if i < 40960 then some (syeBase d + 0x300000 + 128 * i)
  else if i < 40960 + 512 * s.ovfGran d then some (s.ovfBase d + 128 * (i - 40960))
  else none

/-- The record position that holds a local address: die and index (R337). -/
def State.recAt (s : State) (a : Nat) : Option (Nat × Nat) :=
  if 0x30000000000 ≤ a ∧ a < 0x30004000000 then
    let d := (a - 0x30000000000) / 0x1000000
    let o := (a - 0x30000000000) % 0x1000000
    if 0x300000 ≤ o ∧ o < 0x800000 then some (d, (o - 0x300000) / 128) else none
  else
    (List.range 4).findSome? fun d =>
      if s.ovfBase d ≤ a ∧ a < s.ovfBase d + s.ovfGran d * 0x10000 then
        some (d, 40960 + (a - s.ovfBase d) / 128)
      else none

/-- The SYE's ownership bit of a record (R339). -/
def State.owns (s : State) (d i : Nat) : Bool :=
  match s.die? d with
  | some x => setHas x.owned i
  | none => false

/-- Why a write of any requester but the SYE is not performed at a local address; 0 when it is (R339). -/
def State.storeCause (s : State) (a : Nat) : Nat :=
  if 0x30000000000 ≤ a ∧ a < 0x30004000000 ∧ (a - 0x30000000000) % 0x1000000 < 0x300000 then Cause.eqarea
  else
    match s.recAt a with
    | some (d, i) => if s.owns d i then Cause.recordBusy else 0
    | none => 0

/-- Write a whole word: an error that stood there is gone (R248). -/
def State.putWord (s : State) (a : Nat) (v : Word) : State :=
  { s.setWord a v with bad := setDel s.bad a }

/-- Perform a sequencer's store of n bytes at a local address: a whole word leaves no error behind (R248). -/
def State.storeN (s : State) (pa n v : Nat) : State :=
  let s1 := s.writeN pa n v
  if n = 8 then { s1 with bad := setDel s.bad pa } else s1

/-- The aligned word of an address. -/
def wordOf (a : Nat) : Nat := a / 8 * 8

/-! ### Fields of a record (R336) -/

def State.recField (s : State) (h off lo n : Nat) : Nat :=
  match s.recAddr h with
  | some a => fld (s.word (a + off)) lo n
  | none => 0

def State.setRecField (s : State) (h off lo n v : Nat) : State :=
  match s.recAddr h with
  | some a => s.setWord (a + off) (setFld (s.word (a + off)) lo n v)
  | none => s

def State.trErr (s : State) (h : Nat) : Nat := s.recField h 0x00 48 16
def State.trState (s : State) (h : Nat) : Nat := s.recField h 0x00 44 4
def State.trPrio (s : State) (h : Nat) : Nat := s.recField h 0x00 37 3
def State.trEntry (s : State) (h : Nat) : Nat := s.recField h 0x00 32 4
def State.trCount (s : State) (h : Nat) : Nat := s.recField h 0x00 0 32
def State.trDep (s : State) (h : Nat) : Nat := s.recField h 0x08 32 32
def State.trPend (s : State) (h : Nat) : Nat := s.recField h 0x08 0 32
def State.trCfgid (s : State) (h : Nat) : Word := BitVec.ofNat 64 (s.recField h 0x10 0 64)
def State.trExt (s : State) (h k : Nat) : Word := BitVec.ofNat 64 (s.recField h (0x28 + 8 * k) 0 64)
def State.trWin (s : State) (h k : Nat) : Word := BitVec.ofNat 64 (s.recField h (0x48 + 8 * k) 0 64)
/-- tr.FRAME: local address of the frame, 0 for none. -/
def State.trFrame (s : State) (h : Nat) : Nat := s.recField h 0x68 12 32 * 4096
def State.trSucc (s : State) (h k : Nat) : Nat := s.recField h (0x18 + 8 * (k / 2)) (k % 2 * 32) 32

def State.setErr (s : State) (h c : Nat) : State := s.setRecField h 0x00 48 16 c
/-- tr.ERR keeps the first error. -/
def State.addErr (s : State) (h c : Nat) : State := if s.trErr h = 0 then s.setErr h c else s

/-! ### The silent-error log (R449, R451) -/

/-- Append an entry to dv.SELOG, or count it when the log is full. -/
def State.logSe (s : State) (kind ptile site handle : Nat) : State :=
  if s.selog.length < 64 then { s with selog := s.selog ++ [⟨kind, ptile, site, handle⟩] }
  else { s with selogLost := s.selogLost + 1 }

/-- The task that an error of a fabric load is logged for: that of the lowest occupied slot (R449; log 32). -/
def State.loadTask (s : State) (l : LoadRef) : Nat :=
  match s.load? l with
  | some x => (x.slots.findSome? fun y => y.map (·.handle)).getD 0
  | none => 0

/-- Log an uncorrectable error that an element met (R451). -/
def State.logElem (s : State) (e : Elem) : State :=
  s.logSe 6 (pkgTile e.ref.die e.ptile) e.psite (s.loadTask e.ref.load)

/-- Change the task of a slot. -/
def State.modSlot (s : State) (l : LoadRef) (slot : Nat) (f : SlotX → SlotX) : State :=
  s.modLoad l fun x => { x with slots := x.slots.mapIdx fun k y => if k = slot then y.map f else y }

/-- The term of a write in the signature of an execution (R447). -/
def sigTerm (va : Nat) (v : Word) : Word := (BitVec.ofNat 64 (va / 8) * 0x9E3779B97F4A7C15) ^^^ v

/-- Count a write of the task of a slot (R447). -/
def State.addSig (s : State) (l : LoadRef) (slot va : Nat) (v : Word) : State :=
  s.modSlot l slot fun x => { x with sig := x.sig + sigTerm va v }

/-- The value that a write counts with (R447). -/
def MemOp.sigValue (o : MemOp) : Word :=
  match o with
  | .write v => v
  | .write32 v => BitVec.zeroExtend 64 v
  | .atomic _ _ b => b
  | _ => 0

/-- What names the sequencer of a tile where an access names its issuer: 63 names no fabric load (R367). -/
def seqRef (t : Nat) : ElemRef := ⟨t / 48, 63, t % 48, 0⟩

/-! ### Latency (R275) -/

/-- Clocks from issue to reply, with no waits, for an access of a tile to a local address. -/
def memLat (die pt a : Nat) : Nat :=
  let own := homeDie a = die
  let base :=
    match regionOf a 1 with
    | .tile _ t => 10 + 2 * tileDist pt t
    | .weight => 36
    | .sye _ => 18
    | _ => 110
  if own then base else base + 24

/-! ### Writes seen before they are written at home (R288, R290, R294; log 4) -/

/-- Whether a range rounded out to 64 bytes meets n bytes at a (R284). -/
def Range.hits (r : Range) (a n : Nat) : Bool :=
  decide (0 < r.len ∧ r.pa / 64 * 64 < a + n ∧ a < ceilDiv (r.pa + r.len) 64 * 64)

/-- Whether an accepted copy holds an MPE access: every one but WLD (R284). -/
def State.sbHeld (s : State) (a n : Nat) (write : Bool) : Bool :=
  s.cmds.any fun c => c.st == 1 && (c.dsts.any (·.hits a n) || (write && c.srcs.any (·.hits a n)))

/-- Who reads or writes: a die's engines, a tile's sequencer, or an element. -/
structure Observer where
  die : Nat
  tile : Option Nat
  elem : Option ElemRef
deriving DecidableEq, Repr

/-- A store of an element or a sequencer, in any form. -/
def MemOp.isStore (o : MemOp) : Bool :=
  match o with
  | .write _ => true
  | .write32 _ => true
  | .clear => true
  | .seqWrite _ _ => true
  | _ => false

/-- An access of a sequencer, which no copy holds (R284). -/
def MemOp.ofSeq (o : MemOp) : Bool :=
  match o with
  | .seqRead _ _ => true
  | .seqWrite _ _ => true
  | _ => false

/-- Whether a write of an address can fail at its home (R339). -/
def State.mayFail (s : State) (a : Nat) : Bool :=
  (s.recAt a).isSome || (match regionOf a 1 with | .sye _ => true | _ => false)

/-- A write in flight whose value observers in its scope may obtain: a DENSE word that cannot fail at its home. For any
other, a read in its scope waits for the write. -/
def State.earlyWrite (s : State) (w : Access) : Bool :=
  (match w.op with
   | .write _ => true
   | .write32 _ => true
   | .seqWrite _ _ => true
   | _ => false) && w.cls == 0 && !s.mayFail w.pa

/-- The package tile of an element. -/
def State.tileOf (s : State) (r : ElemRef) : Option Nat := (s.elem? r).map fun e => pkgTile r.die e.ptile

/-- Whether an address lies in the tile store of the tile that issued an access. -/
def Access.inOwnStore (w : Access) : Bool :=
  match regionOf w.pa 1 with
  | .tile d t => w.tile == pkgTile d t
  | _ => false

/-- Whether a write in flight is performed at TILE: it has left the tile's write queue, unless it is to be written in the
tile's own store. -/
def State.atTile (s : State) (w : Access) : Bool := decide (w.tileAt ≤ s.clock) && !w.inOwnStore

/-- Whether a write in flight is performed at DIE: it has entered its home die, which is another one, and no copy holds it
there: one that a copy holds stands behind the copy's acceptance (R284, R304; log 95). -/
def State.atDie (s : State) (w : Access) : Bool :=
  decide (w.dieAt ≤ s.clock) && homeDie w.pa != w.ref.die && (w.op.ofSeq || !s.sbHeld (wordOf w.pa) 8 true)

/-- Whether a store of a sequencer stands behind an earlier load of it from its word, which cannot obtain it: it is
performed for no observer yet (R292; log 16). -/
def State.behindLoad (s : State) (w : Access) : Bool :=
  w.op.ofSeq && s.accs.any fun x =>
    x.op.ofSeq && !x.op.isStore && decide (x.tile = w.tile ∧ x.id < w.id ∧ wordOf x.pa = wordOf w.pa)

/-- Whether a write in flight is performed at a scope that holds an observer. -/
def State.reaches (s : State) (o : Observer) (w : Access) : Bool :=
  w.op.isStore && !s.behindLoad w &&
  ((o.elem == some w.ref && decide (w.ownAt ≤ s.clock)) ||
   (o.tile.isSome && o.tile == some w.tile && s.atTile w) || (o.die == w.ref.die && s.atDie w))

/-- The writes in flight to the word of an address that are performed for an observer. -/
def State.reached (s : State) (o : Observer) (a : Nat) : List Access :=
  s.accs.filter fun w => decide (wordOf w.pa = wordOf a) && s.reaches o w

/-- Those that it obtains before they are written at home. -/
def State.seenWrites (s : State) (o : Observer) (a : Nat) : List Access := (s.reached o a).filter s.earlyWrite

/-- Replace n bytes of the word that holds an address. -/
def setPart (w : Word) (a n v : Nat) : Word := setFld w (a % 8 * 8) (8 * n) v

/-- Replace the half word at an address. -/
def setHalf (w : Word) (a : Nat) (v : BitVec 32) : Word := setPart w a 4 v.toNat

/-- What a read of the word of an address obtains for an observer: home, and over it the writes in flight that the observer
obtains, in the order in which they will be performed (R288). -/
def State.valueFor (s : State) (o : Observer) (a : Nat) : Word :=
  let ws := sortBy (fun x y => decide (x.due ≤ y.due)) (s.seenWrites o a)
  ws.foldl (fun v x => match x.op with
    | .write y => y
    | .write32 y => setHalf v x.pa y
    | .seqWrite n y => setPart v x.pa n y
    | _ => v) (s.word (wordOf a))

/-- Whether an observer waits for a write in flight to the word of an address. -/
def State.readHeld (s : State) (o : Observer) (a : Nat) : Bool := (s.reached o a).any fun w => !s.earlyWrite w

/-- The issuer of an access as an observer. -/
def Access.obs (w : Access) : Observer := ⟨w.ref.die, some w.tile, some w.ref⟩
def Elem.obs (e : Elem) : Observer := ⟨e.ref.die, some (pkgTile e.ref.die e.ptile), some e.ref⟩
def State.obsOf (s : State) (r : ElemRef) : Observer := ⟨r.die, s.tileOf r, some r⟩
/-- The engines of a die. -/
def dieObs (d : Nat) : Observer := ⟨d, none, none⟩

/-- Whether the SYE of a die has performed an atomic, a decrement or an engine completion in this clock (R360). -/
def State.opBusy (s : State) (d : Nat) : Bool :=
  match s.die? d with
  | some x => decide (s.clock < x.opFree)
  | none => false

/-- The SYE of a die performs one of them: the next one comes in the next clock. -/
def State.useOp (s : State) (d : Nat) : State := s.modDie d fun x => { x with opFree := s.clock + 1 }

/-- Whether a word of several that a unit may act on is acted on now (R286). -/
def State.partNow (s : State) (k : Nat) : Bool := Config.part s.freeCount k

/-- Of n words that an engine may act on, those it acts on now: one at least and 32 at most (R286, R384). -/
def State.actNow (s : State) (n : Nat) : List Nat :=
  let ks := (List.range n).filter s.partNow
  if ks.isEmpty then List.range (min 1 n) else ks.take 32

/-- The first clock in which a write may be performed: behind every write to its word that is performed for its issuer
already, and so may stand before it in an arc (R290, R292, R295; log 4). -/
def State.behind (s : State) (o : Observer) (a due : Nat) : Nat :=
  ((s.reached o a).map fun w => w.due + 1).foldl max due

/-- Whether a write in flight counts as performed at a scope (R288). GROUPg is DIE, since a member tile's store lies on the
issuing die. -/
def State.writtenAt (s : State) (w : Access) (scope : Nat) : Bool :=
  w.op.isStore &&
    (match scope with
     | 0 => decide (w.ownAt ≤ s.clock)
     | 1 => s.atTile w
     | n => (n == 2 || decide (8 ≤ n)) && s.atDie w)

/-! ### Accesses of a sequencer (R286, R292, R303) -/

/-- The accesses of a tile's sequencer that are not performed. -/
def State.seqAccs (s : State) (t : Nat) : List Access := s.accs.filter fun w => w.op.ofSeq && w.tile == t

/-- Bytes of an access of a sequencer. -/
def MemOp.bytes (o : MemOp) : Nat :=
  match o with
  | .seqRead _ n => n
  | .seqWrite n _ => n
  | _ => 8

/-- Whether an access of a sequencer waits for an earlier one to a byte of its own (R292): a read goes on over a store that
its sequencer obtains already. -/
def State.seqBehind (s : State) (w : Access) : Bool :=
  (s.seqAccs w.tile).any fun x =>
    decide (x.id < w.id ∧ x.pa < w.pa + w.op.bytes ∧ w.pa < x.pa + x.op.bytes) &&
    (w.op.isStore || !x.op.isStore || !s.reaches w.obs x)

/-- A sequencer's load gives its register, unless a later word has written it (R369). -/
def Seq.loaded (q : Seq) (reg id ready : Nat) (v : Word) : Seq :=
  if q.loads.contains (reg, id) then
    let q1 := q.setReg (BitVec.ofNat 5 reg) v
    { q1 with late := putAt 0 q1.late reg ready }
  else q

/-! ### Sequencer words that trap (R427) -/

/-- A trap of the sequencer's own word for which the spec states no detail: sq.DETAIL is a free value (log 20). -/
def State.trapQ (s : State) (tile cause : Nat) : State :=
  s.tick.trapSeq tile .word cause (Config.detail s.freeCount)

/-- The sequencer a meaning acts for. -/
def withSeq (s : State) (g : Nat → Seq → State) : Out :=
  match s.actor with
  | .seq t =>
    match s.seq? t with
    | some q => .next (g t q)
    | none => .fault .noActor
  | _ => .fault .noActor

/-- Write gd, go to the next word, and be busy for the latency of the word (R369). -/
def State.seqDone (s : State) (t : Nat) (d : BitVec 5) (v : Word) (lat : Nat) : State :=
  s.modSeq t fun q => { (q.setReg d v).next with busy := s.clock + lat }

/-- Write gd and go to the next word in one clock; a word that reads gd waits for the latency of this one (R369). -/
def State.seqLate (s : State) (t : Nat) (d : BitVec 5) (v : Word) (lat : Nat) : State :=
  s.modSeq t fun q =>
    let q1 := q.setReg d v
    { q1.next with busy := s.clock + 1, late := if d = 0 then q1.late else putAt 0 q1.late d.toNat (s.clock + lat) }

end Sys2Proof.Machine
end

