-- ==== Sys2Proof/Machine/Operands.lean ====
section
/-! DEFINITION. What a slot reads and writes: the views of the inputs (R159, R160), sources with their classes and
residues (R40, R131 to R134), and a firing as one atomic step (R116). -/

namespace Sys2Proof.Machine

open Sys2Proof

/-! ### Views (R159 to R162) -/

/-- The inputs A and B of the intersection unit. -/
def Elem.pairA (e : Elem) : Nat := 2 * e.isel
def Elem.pairB (e : Elem) : Nat := 2 * e.isel + 1

/-- What the unit shows of its pair, and the input it discards the head of. -/
structure Views where
  a : Option Tok
  b : Option Tok
  discard : Option Nat
deriving DecidableEq, Repr

def Tok.outside (t : Tok) : Bool := t.isOrder || t.isFault || t.isDrain

/-- The table of R160. The last real token of an input, whose identifier a synthetic END carries, is the one at its
head (log 79). -/
def unitViews (union : Bool) (ia ib : Nat) (a b : Option Tok) : Views :=
  match a, b with
  | some x, some y =>
    if x.outside || y.outside then
      ⟨if x.outside then some x else none, if y.outside then some y else none, none⟩
    else if x.isData && y.isData then
      if coordOf x.pay = coordOf y.pay then ⟨some x, some y, none⟩
      else if coordOf x.pay < coordOf y.pay then
        if union then ⟨some x, some (dataTok 14 (BitVec.ofNat 64 (coordOf x.pay * 2 ^ 32))), none⟩
        else ⟨none, none, some ia⟩
      else
        if union then ⟨some (dataTok 14 (BitVec.ofNat 64 (coordOf y.pay * 2 ^ 32))), some y, none⟩
        else ⟨none, none, some ib⟩
    else if x.isData then
      if union then ⟨some x, some (dataTok 14 (BitVec.ofNat 64 (coordOf x.pay * 2 ^ 32))), none⟩
      else ⟨none, none, some ia⟩
    else if y.isData then
      if union then ⟨some (dataTok 14 (BitVec.ofNat 64 (coordOf y.pay * 2 ^ 32))), some y, none⟩
      else ⟨none, none, some ib⟩
    else if x.rank = y.rank then ⟨some x, some y, none⟩
    else if x.rank < y.rank then ⟨some x, some { endTok x.rank with rid := y.rid }, none⟩
    else ⟨some { endTok y.rank with rid := x.rid }, some y, none⟩
  | some x, none => ⟨if x.outside then some x else none, none, none⟩
  | none, some y => ⟨none, if y.outside then some y else none, none⟩
  | none, none => ⟨none, none, none⟩

/-- The views of an element's pair; nothing when the unit is off (R47). An IMODE of 3, which is reserved and which an EWR may
write, is taken as off (DESIGN CHOICE, log 107). -/
def Elem.views (e : Elem) : Option Views :=
  if e.imode = 1 ∨ e.imode = 2 then
    some (unitViews (decide (e.imode = 2)) e.pairA e.pairB (e.inq e.pairA).head? (e.inq e.pairB).head?)
  else none

/-- The token an input shows: its head, or the unit's view of it (R159). -/
def Elem.view (e : Elem) (k : Nat) : Option Tok :=
  match e.views with
  | none => e.front k
  | some v => if k = e.pairA then v.a else if k = e.pairB then v.b else e.front k

/-- Whether a dequeue of the input removes its real head (R161). -/
def Elem.viewReal (e : Elem) (k : Nat) : Bool :=
  match e.view k, e.front k with
  | some t, some h =>
    -- in union mode a DATA token beside an equal synthetic one cannot occur: a view is synthetic exactly when the
    -- real head of that input is another token
    decide (t = h)
  | _, _ => false

/-- Remove the heads that a firing dequeues (R116 step 3, R161). -/
def Elem.dequeue (e : Elem) (ks : List Nat) : Elem :=
  { e with
    ins := (List.range 4).map fun k =>
      if ks.contains k && e.viewReal k && (e.brokenAt k).isNone then (e.inq k).drop 1 else e.inq k
    broken := (List.range 4).map fun k => if ks.contains k then none else e.brokenAt k }

/-! ### Sources (R40, R106, R107, R131, R134) -/

/-- A source's value, format tag, residue and control tag. -/
structure Src where
  val : Word
  tag : BitVec 4
  res : BitVec 4
  ctag : BitVec 3
deriving DecidableEq, Repr

def Src.zero : Src := ⟨0, 0, 0, 0⟩

def Elem.dreg (e : Elem) (k : Nat) : DReg := e.d.getD k DReg.zero

/-- The source a code names (R40). -/
def Elem.source (e : Elem) (code : Nat) : Src :=
  if code ≤ 3 then
    match e.view code with
    | some t => ⟨t.pay, t.ftag, t.res, t.ctag⟩
    | none => Src.zero
  else if code ≤ 11 then
    let d := e.dreg (code - 4)
    ⟨d.val, d.tag, d.res, 0⟩
  else
    let c := e.c.getD (code - 12) ⟨0, 0⟩
    ⟨c.val, 0, c.res, 0⟩

/-- Source classes (R131); fp holds the format tag that LANE selects. -/
inductive Cls where
  | none | int | any | fp (t : Nat) | cvt | bxd | coord
deriving DecidableEq, Repr

/-- Whether a class accepts a format tag (R131, R164). -/
def Cls.accepts (c : Cls) (tag : BitVec 4) : Bool :=
  let t := tag.toNat
  match c with
  | .none => true
  | .int => t ≤ 3 || t == 10 || t == 14
  | .any => t ≤ 10 || t == 14
  | .fp k => t == 0 || t == k
  | .cvt => t ≤ 10
  | .bxd => t == 0 || t == 11
  | .coord => t == 14

/-- What a firing is given: the machine and the element at the start of the clock, the slot's number and fields. -/
structure Ctx where
  s : State
  e : Elem
  n : Nat
  f : SlotF

/-- The trap of a chosen slot that does not fire (R430). -/
def Ctx.trap (c : Ctx) (cause info : Nat) : ETrap := ⟨cause, eDetail c.e.ref.site c.n info, none⟩

/-- FMT_MISMATCH on a source (R132, R430). -/
def Ctx.fmt (c : Ctx) (code : Nat) (tag : BitVec 4) : ETrap :=
  c.trap Cause.fmtMismatch (code * 2 ^ 8 + tag.toNat)

/-- The residue check of a source (R134). -/
def Ctx.checkRes (c : Ctx) (code : Nat) : Except ETrap Unit :=
  let x := c.e.source code
  if x.res = residue x.val then .ok ()
  else .error ⟨Cause.residue, eDetail c.e.ref.site c.n 0, some code⟩

/-- The class check of a source (R132). -/
def Ctx.checkCls (c : Ctx) (code : Nat) (k : Cls) : Except ETrap Unit :=
  let x := c.e.source code
  if k.accepts x.tag then .ok () else .error (c.fmt code x.tag)

/-- Read one source: its residue, then its class. -/
def Ctx.read1 (c : Ctx) (a : Nat) (ka : Cls) : Except ETrap Src := do
  c.checkRes a
  c.checkCls a ka
  return c.e.source a

/-- Read two sources: both residues, then both classes (log 17). -/
def Ctx.read2 (c : Ctx) (a : Nat) (ka : Cls) (b : Nat) (kb : Cls) : Except ETrap (Src × Src) := do
  c.checkRes a
  c.checkRes b
  c.checkCls a ka
  c.checkCls b kb
  return (c.e.source a, c.e.source b)

/-- Read a data register or source as a third operand. -/
def Ctx.read3 (c : Ctx) (a : Nat) (ka : Cls) (b : Nat) (kb : Cls) (d : Nat) (kd : Cls) :
    Except ETrap (Src × Src × Src) := do
  c.checkRes a
  c.checkRes b
  c.checkRes d
  c.checkCls a ka
  c.checkCls b kb
  c.checkCls d kd
  return (c.e.source a, c.e.source b, c.e.source d)

/-! ### A firing (R116) -/

/-- What a firing writes to DST: nothing; the result, under OTAG; or a token of its own control tag. -/
inductive DstAct where
  | none
  | result
  | token (ctag : BitVec 3)
deriving DecidableEq, Repr

/-- A firing as its instruction computes it: the element with the effects of the instruction's own kind, the result
with its format tag and (when passed unchanged) residue, and what R116 then does. -/
structure Fired where
  e : Elem
  result : Word
  tag : BitVec 4
  res : Option (BitVec 4)
  outcome : Bool
  dst : DstAct
  deq : List Nat
  /-- a data register written beside DST, with format tag 0 (R363) -/
  also : Option (Nat × Word)
  /-- the firing rounds under SR (R96) -/
  rounds : Bool
  /-- PMODE is applied later (R353) -/
  predLater : Bool
  /-- a trap that the firing raises after it has fired (R129, R200) -/
  after : Option ETrap
  /-- cross requests sent to their targets (R208) -/
  cross : List (ElemRef × CrossReq)
  /-- names taken from State.nextId, and free values taken from State.freeCount -/
  ids : Nat
  free : Nat
  /-- the firing met an uncorrectable error, which is logged (R451) -/
  uncorr : Bool

/-- An ordinary firing: a result and its tag, DST written under OTAG, DEQ as the slot names. -/
def Ctx.result (c : Ctx) (v : Word) (tag : BitVec 4) (outcome : Bool) : Fired :=
  { e := c.e, result := v, tag := tag, res := none, outcome := outcome, dst := .result, deq := deqInputs c.f,
    also := none, rounds := false, predLater := false, after := none, cross := [], ids := 0,
    free := 0, uncorr := false }

/-- The token that leaves as an END carries FTAG 0 and payload 0 (R155). -/
def Ctx.endWord (c : Ctx) (x : Fired) : Fired :=
  let t := (c.e.source c.f.srca.toNat).ctag.toNat
  if c.f.otag = 1 ∧ 1 ≤ t ∧ t ≤ 4 ∧ ¬(4 ≤ c.f.dst.toNat ∧ c.f.dst.toNat ≤ 11) then
    { x with result := 0, tag := 0, res := none }
  else x

/-- A firing that writes nothing to DST. -/
def Ctx.silent (c : Ctx) (outcome : Bool) : Fired :=
  { c.result 0 0 outcome with dst := .none }

/-- The control tag OTAG gives (R45). -/
def otagCtag (f : SlotF) (a : Src) : BitVec 3 :=
  if f.otag = 1 then a.ctag else if f.otag = 2 then Ctag.order else Ctag.data

/-- Clear the presence that the trigger consumes (R109). -/
def Elem.consume (e : Elem) (f : SlotF) : Elem :=
  if e.mirror then
    { e with d := (List.range 8).map fun k =>
        let d := e.dreg k
        if decide (k < 4) && f.pcare.getLsbD (k + 4) && f.pval.getLsbD (k + 4) then { d with pres := false } else d }
  else e

/-- Write a data register from a firing (R106). -/
def Elem.writeD (e : Elem) (k : Nat) (v : Word) (tag : BitVec 4) (res : BitVec 4) : Elem :=
  { e with d := putAt DReg.zero e.d k ⟨v, tag, true, res⟩ }

/-- Write the register that a firing writes beside DST. -/
def Elem.writeAlso (e : Elem) (a : Option (Nat × Word)) : Elem :=
  match a with
  | some (k, v) => e.writeD k v 0 (residue v)
  | none => e

/-- Write DST: a data register, the named outputs, or nothing (R40, R116 step 5). -/
def Elem.writeDst (e : Elem) (clock : Nat) (rid : Nat → BitVec 5) (dst : Nat) (ctag : BitVec 3) (v : Word)
    (tag res : BitVec 4) : Elem :=
  if 4 ≤ dst ∧ dst ≤ 11 then e.writeD (dst - 4) v tag res
  else e.put clock rid dst ⟨ctag, ftagFor ctag tag, res, 0, v⟩

/-- The slots of a group (GRP of the slot words), enabled. -/
def Elem.members (e : Elem) (g : Nat) : List Nat :=
  (List.range 16).filter fun n => e.sen n && decide (fld (e.slotWord n) 0 2 = g)

/-- The rotation pointer after slot n of group g fired: the next enabled member above, wrapping (R113). -/
def Elem.rotNext (e : Elem) (g n : Nat) : Nat :=
  match (e.members g).find? (fun m => decide (n < m)) with
  | some m => m
  | none => (e.members g).headD 0

/-- Pointer and firing count of the slot's group (R113, R115). -/
def Elem.groupFired (e : Elem) (n : Nat) : Elem :=
  let g := fld (e.slotWord n) 0 2
  if g = 0 then e
  else if e.gmode g = 1 then { e with balFired := putAt 0 e.balFired g (e.balFired.getD g 0 + 1) }
  else { e with rot := putAt 0 e.rot g (e.rotNext g n) }

/-- Counters of a clock in which slot n fired, or none did (R121). -/
def Elem.count (e : Elem) (n : Option Nat) (stall starve : Nat) : Elem :=
  { e with
    counters := (List.range 16).map fun k =>
      let c := e.counters.getD k ⟨0, 0, 0⟩
      ⟨sat32 (c.fired + boolN (n == some k)), sat32 (c.stall + boolN (stall.testBit k)),
        sat32 (c.starve + boolN (starve.testBit k))⟩
    ticking := true }

/-- CLK at the end of an element clock (R121). -/
def Elem.tock (e : Elem) : Elem :=
  { e with clk := if e.ticking then sat32 (e.clk + 1) else e.clk, ticking := false }

/-- The queues, the presence consumed and DST after a firing: steps 3 to 5 of R116. -/
def Elem.firedDst (e0 : Elem) (clock : Nat) (rid : Nat → BitVec 5) (f : SlotF) (x : Fired) : Elem :=
  let e1 := e0.dequeue x.deq
  let e2 := (Elem.consume { x.e with ins := e1.ins, broken := e1.broken } f).writeAlso x.also
  let res := x.res.getD (residue x.result)
  match x.dst with
  | .none => e2
  | .result =>
    e2.writeDst clock rid f.dst.toNat (otagCtag f (e0.source f.srca.toNat)) x.result x.tag res
  | .token ct => e2.writeDst clock rid f.dst.toNat ct x.result x.tag res

/-- The predicate after a firing, unless PMODE is applied later (R116 step 6, R353). -/
def Elem.firedPred (e : Elem) (f : SlotF) (x : Fired) : Elem :=
  if x.predLater then e else e.setPred f.pidx.toNat f.pmode.toNat x.outcome

/-- The step counter after a firing (R96). -/
def Elem.firedStep (e : Elem) (x : Fired) : Elem :=
  { e with step := if x.rounds then (e.step + 1) % 2 ^ 32 else e.step }

/-- The element after a firing: the order of R116. -/
def Elem.fired (e0 : Elem) (clock : Nat) (rid : Nat → BitVec 5) (n : Nat) (f : SlotF) (stall starve : Nat)
    (x : Fired) : Elem :=
  ((((e0.firedDst clock rid f x).firedPred f x).count (some n) stall starve).firedStep x).groupFired n

/-- A cross request takes its place in an arrival queue: behind those that arrive no later (R210). -/
def addCross (q : CrossReq) : List CrossReq → List CrossReq
  | [] => [q]
  | x :: xs => if q.due < x.due then q :: x :: xs else x :: addCross q xs

/-- Put a firing's effects into the machine. -/
def commit (s : State) (e0 : Elem) (n : Nat) (f : SlotF) (stall starve : Nat) (x : Fired) : State :=
  let r := e0.ref
  let e' := e0.fired s.clock (s.outRid e0) n f stall starve x
  let s1 := (s.modElem r fun _ => e')
  let s1 := if x.uncorr then s1.logElem e0 else s1
  let s2 := { s1 with nextId := s1.nextId + x.ids, freeCount := s1.freeCount + x.free }
  let s3 := x.cross.foldl (fun s (t, q) =>
    s.modElem t fun e => { e with spe := { e.spe with crossIn := addCross q e.spe.crossIn } }) s2
  let s4 := match x.after with
    | some t => s3.trapElem r t
    | none => s3
  let g := fld (e0.slotWord n) 0 2
  if g ≠ 0 ∧ e0.gmode g = 1 ∧ e'.balFired.getD g 0 ≥ 256 then
    s4.push [.event .balanceReweight (.elemN r g)]
  else s4

/-- The operand of a trap for something that stands nowhere in the element: a word of a remote reply (R410), a result that
failed its check (R133). -/
def replyOperand : Nat := 2 ^ 32

/-- Whether a result is one that a method of R133 checks, in an element whose check fails. The firings of BXENC that give no
result are not checked: that of BX6 and BX9 blocks the check falls on the flush is the model's choice (DESIGN CHOICE,
log 8). -/
def Elem.upsets (e : Elem) (x : Fired) : Bool := e.upset && e.kind == .ce && x.res.isNone && x.dst != .none

/-- Fire the slot that the actor names with the instruction's own computation; a chosen slot whose computation ends
in a trap, or whose result fails its check, does not fire (R132, R134). -/
def fireSlot (s : State) (f : SlotF) (body : Ctx → Except ETrap Fired) : Out :=
  match s.actor with
  | .slot r n stall starve =>
    match s.elem? r with
    | none => .fault .noActor
    | some e =>
      match body ⟨s, e, n, f⟩ with
      | .error t => .next (s.trapElem r t)
      | .ok x =>
        if e.upsets x then
          .next ((s.modElem r fun e => { e with upset := false }).trapElem r
            ⟨Cause.residue, eDetail r.site n 0, some replyOperand⟩)
        else .next (commit s e n f stall starve x)
  | _ => .fault .noActor

end Sys2Proof.Machine
end

