-- ==== Sys2Proof/Machine/CeFloat.lean ====
section
/-! DEFINITION. CE floating-point arithmetic, conversion and BX blocks (R144 to R152). -/

namespace Sys2Proof.Machine

open Sys2Proof

/-- The stochastic number of position v of an element's firing (R95, R96). -/
def Elem.rnd (e : Elem) (v : Nat) : Nat :=
  srRnd e.rank e.step (e.ref.lt * 2 ^ 16 + e.ref.site * 2 ^ 6 + v)

/-- Whether the element rounds stochastically (R96). -/
def Elem.isSr (e : Elem) : Bool := e.rmode == .sr

/-- The floating format LANE selects: 00 F32, 01 BF16, 10 F16 (R136). -/
def laneFmt (lane : BitVec 2) : FFmt :=
  match lane.toNat with
  | 0 => fF32
  | 1 => fBF16
  | _ => fF16

def laneFTag (lane : BitVec 2) : BitVec 4 := 4 + BitVec.zeroExtend 4 lane

def fpCls (lane : BitVec 2) : Cls := .fp (4 + lane.toNat)

/-- Round one exact lane value under the element's mode (R92, R144). -/
def Elem.round (e : Elem) (f : FFmt) (v : Nat) (x : FVal) : Nat := roundF f e.rmode false (e.rnd v) x

/-- A rounding instruction of two sources (R144, R145). -/
def fpOp2 (g : RMode → FVal → FVal → FVal) (c : Ctx) : Except ETrap Fired := do
  let f := laneFmt c.f.lane
  let w := f.width
  let (a, b) ← c.read2 c.f.srca.toNat (fpCls c.f.lane) c.f.srcb.toNat (fpCls c.f.lane)
  let r := packW w ((List.range (64 / w)).map fun k =>
    c.e.round f k (g c.e.rmode (f.dec (laneN w k a.val)) (f.dec (laneN w k b.val))))
  return { c.result r (laneFTag c.f.lane) (outNz r) with rounds := c.e.isSr }

def bodyFadd (c : Ctx) : Except ETrap Fired := fpOp2 FVal.add c
def bodyFsub (c : Ctx) : Except ETrap Fired := fpOp2 (fun m a b => FVal.add m a b.neg) c
def bodyFmul (c : Ctx) : Except ETrap Fired := fpOp2 (fun _ a b => FVal.mul a b) c

/-- FMA: a × b + Dn, the product not rounded (R145). -/
def bodyFma (c : Ctx) : Except ETrap Fired := do
  let f := laneFmt c.f.lane
  let w := f.width
  let k := fpCls c.f.lane
  let (a, b, d) ← c.read3 c.f.srca.toNat k c.f.srcb.toNat k c.f.dst.toNat k
  let r := packW w ((List.range (64 / w)).map fun k =>
    c.e.round f k (FVal.add c.e.rmode (FVal.mul (f.dec (laneN w k a.val)) (f.dec (laneN w k b.val)))
      (f.dec (laneN w k d.val))))
  return { c.result r (laneFTag c.f.lane) (outNz r) with rounds := c.e.isSr }

def execFadd (f : SlotF) (s : State) : Out := fireSlot s f bodyFadd
def execFsub (f : SlotF) (s : State) : Out := fireSlot s f bodyFsub
def execFmul (f : SlotF) (s : State) : Out := fireSlot s f bodyFmul
def execFma (f : SlotF) (s : State) : Out := fireSlot s f bodyFma

/-- The lesser (least = true) or greater of two lanes, bit for bit (R146). -/
def fPick (f : FFmt) (least : Bool) (x y : Nat) : Nat :=
  let a := f.dec x
  let b := f.dec y
  if a.isNaN && b.isNaN then f.nanBits
  else if a.isNaN then y
  else if b.isNaN then x
  else if FVal.ltz b a then (if least then y else x)
  else if least then x else y

/-- An exact instruction of two sources lane by lane. -/
def fpExact2 (g : FFmt → Nat → Nat → Nat) (c : Ctx) : Except ETrap Fired := do
  let f := laneFmt c.f.lane
  let (a, b) ← c.read2 c.f.srca.toNat (fpCls c.f.lane) c.f.srcb.toNat (fpCls c.f.lane)
  let r := map2Lanes f.width (g f) a.val b.val
  return c.result r (laneFTag c.f.lane) (outNz r)

def bodyFmin (c : Ctx) : Except ETrap Fired := fpExact2 (fun f x y => fPick f true x y) c
def bodyFmax (c : Ctx) : Except ETrap Fired := fpExact2 (fun f x y => fPick f false x y) c

/-- A comparison: mask lanes of the format's width, FTAG 1 for F32 and 2 for BF16 and F16 (R136, R146). -/
def fpCmp (g : FVal → FVal → Bool) (c : Ctx) : Except ETrap Fired := do
  let f := laneFmt c.f.lane
  let (a, b) ← c.read2 c.f.srca.toNat (fpCls c.f.lane) c.f.srcb.toNat (fpCls c.f.lane)
  let r := map2Lanes f.width (fun x y => mask f.width (g (f.dec x) (f.dec y))) a.val b.val
  return c.result r (if c.f.lane = 0 then 1 else 2) (outLane0 f.width r)

def bodyFcmplt (c : Ctx) : Except ETrap Fired := fpCmp FVal.lt c
def bodyFcmpeq (c : Ctx) : Except ETrap Fired := fpCmp FVal.feq c

/-- An instruction of one source lane by lane. -/
def fpOp1 (g : FFmt → Nat → Nat) (c : Ctx) : Except ETrap Fired := do
  let f := laneFmt c.f.lane
  let a ← c.read1 c.f.srca.toNat (fpCls c.f.lane)
  let r := map1Lanes f.width (g f) a.val
  return c.result r (laneFTag c.f.lane) (outNz r)

/-- FABS and FNEG of a lane: the sign cleared or inverted; NaN gives the canonical NaN (R147). -/
def lFabs (f : FFmt) (x : Nat) : Nat := if (f.dec x).isNaN then f.nanBits else x % f.signBit
def lFneg (f : FFmt) (x : Nat) : Nat :=
  if (f.dec x).isNaN then f.nanBits else if x ≥ f.signBit then x - f.signBit else x + f.signBit

def bodyFabs (c : Ctx) : Except ETrap Fired := fpOp1 lFabs c
def bodyFneg (c : Ctx) : Except ETrap Fired := fpOp1 lFneg c

/-- FRCP, FRSQ, FEXP2, FLOG2 also mark the clock, for R135. -/
def fpTrans (g : FFmt → FVal → Nat) (c : Ctx) : Except ETrap Fired := do
  let x ← fpOp1 (fun f b => g f (f.dec b)) c
  return { x with e := { x.e with lastTrans := some c.s.clock } }

def bodyFrcp (c : Ctx) : Except ETrap Fired := fpTrans frcp c
def bodyFrsq (c : Ctx) : Except ETrap Fired := fpTrans frsq c
def bodyFexp2 (c : Ctx) : Except ETrap Fired := fpTrans fexp2 c
def bodyFlog2 (c : Ctx) : Except ETrap Fired := fpTrans flog2F c

def execFmin (f : SlotF) (s : State) : Out := fireSlot s f bodyFmin
def execFmax (f : SlotF) (s : State) : Out := fireSlot s f bodyFmax
def execFcmplt (f : SlotF) (s : State) : Out := fireSlot s f bodyFcmplt
def execFcmpeq (f : SlotF) (s : State) : Out := fireSlot s f bodyFcmpeq
def execFabs (f : SlotF) (s : State) : Out := fireSlot s f bodyFabs
def execFneg (f : SlotF) (s : State) : Out := fireSlot s f bodyFneg
def execFrcp (f : SlotF) (s : State) : Out := fireSlot s f bodyFrcp
def execFrsq (f : SlotF) (s : State) : Out := fireSlot s f bodyFrsq
def execFexp2 (f : SlotF) (s : State) : Out := fireSlot s f bodyFexp2
def execFlog2 (f : SlotF) (s : State) : Out := fireSlot s f bodyFlog2

/-! ### Conversion (R149) -/

/-- CVT and CVTS: the lane mapping of R149. A merge tests SRCA and the condition on g before the residue of Dn (DEDUCED,
log 17). -/
def convert (sat : Bool) (c : Ctx) : Except ETrap Fired := do
  let a ← c.read1 c.f.srca.toNat .cvt
  let t := a.tag.toNat
  let u := c.f.srcb.toNat
  let ws := tagWidth t
  let wd := tagWidth u
  let ns := 64 / ws
  let nd := 64 / wd
  let g := c.f.lane.toNat
  let bad : Except ETrap Fired := .error (c.fmt c.f.srca.toNat a.tag)
  let conv := fun (k v : Nat) => convLane t u c.e.rmode sat (c.e.rnd v) (laneN ws k a.val)
  let rounds := c.e.isSr && !convExact t u
  if ns > nd then
    if g * nd ≥ ns then bad
    else
      let r := packW wd ((List.range nd).map fun k => conv (g * nd + k) k)
      return { c.result r c.f.srcb (outNz r) with rounds := rounds }
  else if g ≠ 0 then bad
  else if ns = nd then
    let r := packW wd ((List.range ns).map fun k => conv k k)
    return { c.result r c.f.srcb (outNz r) with rounds := rounds }
  else if 4 ≤ c.f.dst.toNat ∧ c.f.dst.toNat ≤ 11 then
    let d ← c.read1 c.f.dst.toNat .cvt
    let x := packLanes wd ((List.range ns).map fun k => conv k (nd - ns + k))
    let r : Word := BitVec.ofNat 64 (d.val.toNat / 2 ^ (ns * wd) + x * 2 ^ (64 - ns * wd))
    return { c.result r c.f.srcb (outNz r) with rounds := rounds }
  else
    let r := packW wd ((List.range ns).map fun k => conv k k)
    return { c.result r c.f.srcb (outNz r) with rounds := rounds }

def bodyCvt (c : Ctx) : Except ETrap Fired := convert false c
def bodyCvts (c : Ctx) : Except ETrap Fired := convert true c
def execCvt (f : SlotF) (s : State) : Out := fireSlot s f bodyCvt
def execCvts (f : SlotF) (s : State) : Out := fireSlot s f bodyCvts

/-! ### BX blocks (R150 to R152) -/

/-- Format tag of the block that SRCB[1:0] names. -/
def bxTagOf (srcb : BitVec 4) : Nat := 11 + srcb.toNat % 4

/-- Source format tag of BXENC by LANE, and lanes of each register (R150). -/
def bxencFmt (lane : BitVec 2) : Nat := 4 + lane.toNat

/-- Check the registers D(n) on: all residues, then all tags (R131, R134). -/
def Ctx.readRegs (c : Ctx) (codes : List Nat) (k : Cls) : Except ETrap Unit := do
  codes.forM fun i => c.checkRes i
  codes.forM fun i => c.checkCls i k

/-- Append a block to the pack buffer (R151). -/
def Pack.append (p : Pack) (ftag blk : Nat) : Pack :=
  ⟨p.bits + blk * 2 ^ p.held, p.held + bxBits ftag, ftag, p.enc + 1, p.sent⟩

/-- Remove the oldest complete word; the group closes with its last one (R151). A block encoded beyond the group's last
one opens the next group. -/
def Pack.flush (p : Pack) : Pack :=
  if p.sent + 1 = bxGroupWords p.fmt then
    if p.held ≤ 64 then Pack.empty else ⟨p.bits / 2 ^ 64, p.held - 64, p.fmt, p.enc - bxGroupBlocks p.fmt, 0⟩
  else { p with bits := p.bits / 2 ^ 64, held := p.held - 64, sent := p.sent + 1 }

/-- BXENC, encode form (R150). The residues and tags of its registers are tested before the format of the open group
(DEDUCED, log 17). -/
def bodyBxenc (c : Ctx) : Except ETrap Fired := do
  let t := bxencFmt c.f.lane
  let w := tagWidth t
  let L := 64 / w
  let n := c.f.srca.toNat
  let u := bxTagOf c.f.srcb
  let p := c.e.ce.pack
  c.readRegs ((List.range (16 / L)).map fun i => 4 + n + i) (.fp t)
  if u ≠ 11 ∧ p.fmt ≠ 0 ∧ p.fmt ≠ u then .error (c.trap Cause.fmtMismatch 0)
  else
    let xs := (List.range 16).map fun i => tagDec t (laneN w (i % L) (c.e.dreg (n + i / L)).val)
    let b := if u = 11 then 0 else p.enc % bxGroupBlocks u
    let blk := bxEncode u c.e.rmode (fun i => c.e.rnd (16 * b + i)) xs
    if u = 11 then
      let r : Word := BitVec.ofNat 64 blk
      return { c.result r 11 (outNz r) with rounds := c.e.isSr }
    else
      let p' := p.append u blk
      return { c.silent (decide (64 ≤ p'.held)) with
        e := { c.e with ce := { c.e.ce with pack := p' } }, rounds := c.e.isSr }

def execBxenc (f : SlotF) (s : State) : Out := fireSlot s f bodyBxenc

/-- BXENC, flush form: the oldest complete word as a part token (R150). -/
def bodyBxencFlush (c : Ctx) : Except ETrap Fired :=
  let p := c.e.ce.pack
  let r : Word := BitVec.ofNat 64 p.bits
  .ok { c.result r (BitVec.ofNat 4 p.fmt) (outNz r) with
    e := { c.e with ce := { c.e.ce with pack := p.flush } } }

def execBxencFlush (f : SlotF) (s : State) : Out := fireSlot s f bodyBxencFlush

/-- BXDEC: part of a BX4 block as exact values, each rounded once (R152). -/
def bodyBxdec (c : Ctx) : Except ETrap Fired := do
  let f := laneFmt c.f.lane
  let w := f.width
  let n := 64 / w
  let a ← c.read1 c.f.srca.toNat .bxd
  let blk := a.val.toNat
  let r := packW w ((List.range n).map fun k =>
    c.e.round f k (bxElem 11 blk (bxE 11 blk) (n * c.f.srcb.toNat + k)))
  return { c.result r (laneFTag c.f.lane) (outNz r) with rounds := c.e.isSr && c.f.lane != 0 }

def execBxdec (f : SlotF) (s : State) : Out := fireSlot s f bodyBxdec

end Sys2Proof.Machine
end

