-- ==== Sys2Proof/Machine/Spe.lean ====
section
/-! DEFINITION. The firings of scratchpad elements: port accesses, circular buffers, presence words, microprogram
control and cross requests (R195 to R219). -/

namespace Sys2Proof.Machine

open Sys2Proof

/-! ### The bank (R195, R196, R211) -/

/-- A word as it stood at the start of the clock (R211). -/
def SpeState.read (p : SpeState) (x : Nat) : BWord :=
  match p.old.find? fun o => decide (o.1 = x) with
  | some o => o.2
  | none => sget BWord.zero p.bank x

/-- A word as it stands now. -/
def SpeState.now (p : SpeState) (x : Nat) : BWord := sget BWord.zero p.bank x

/-- Write a word: its run is dirty, an error there is gone, and readers of this clock still see what stood there. -/
def SpeState.write (p : SpeState) (x : Nat) (w : BWord) : SpeState :=
  { p with
    old := if p.old.any (fun o => decide (o.1 = x)) then p.old else (x, p.now x) :: p.old
    bank := sset BWord.zero p.bank x w
    bad := setDel p.bad x
    dirty := p.dirty ||| 2 ^ (x / 64) }

/-- The bit of a word's sub-bank (R195). -/
def subBit (x : Nat) : Nat := 2 ^ (x % 8)

/-- Count an access against the sub-bank slots of the clock (R195). -/
def SpeState.useR (p : SpeState) (x : Nat) : SpeState :=
  { p with used := { p.used with xRead := p.used.xRead ||| subBit x } }
def SpeState.useW (p : SpeState) (x : Nat) : SpeState :=
  { p with used := { p.used with xWrite := p.used.xWrite ||| subBit x } }

def Elem.setSpe (e : Elem) (p : SpeState) : Elem := { e with spe := p }

/-- The word index of a local address (R197). -/
def localWord (a : Word) : Nat := fld a 0 13

/-- A free detail for a FAULT token whose detail the spec does not state (log 24). -/
def freeDetail (s : State) : Nat := (Config.detail s.freeCount).toNat % 2 ^ 48

/-! ### Reads at the own port (R200) -/

/-- Check the stored residue of a word that is read; it stands under the operand number 16 + x (R200, R431). -/
def Ctx.checkWord (c : Ctx) (x : Nat) : Except ETrap BWord :=
  let w := c.e.spe.read x
  if w.res = residue w.val then .ok w
  else .error ⟨Cause.residue, eDetail c.e.ref.site c.n 0, some (16 + x)⟩

/-- Whether a DST code names outputs. -/
def isOut (dst : Nat) : Bool := !(outsOf dst).isEmpty

/-- A firing whose read met an uncorrectable error: a FAULT token in place of the value, or a trap (R200; log 25).
p is the element's own state after the accesses that still take place. -/
def Ctx.badRead (c : Ctx) (p : SpeState) : Fired :=
  let e := c.e.setSpe p
  if isOut c.f.dst.toNat then
    { c.result (faultTok Cause.uncorrectable (freeDetail c.s)).pay 0 false with
      e := e, dst := .token Ctag.fault, uncorr := true, free := 1 }
  else
    { c.silent false with e := e, uncorr := true, after := some (c.trap Cause.uncorrectable 0) }

/-- A firing that reads word x: its value, tag and residue, and what it leaves behind. A word with an uncorrectable
error leaves p (nothing written) instead. -/
def Ctx.readWord (c : Ctx) (x : Nat) (p pbad : SpeState) : Except ETrap Fired :=
  if setHas c.e.spe.bad x then .ok (c.badRead pbad)
  else do
    let w ← c.checkWord x
    return { c.result w.val w.tag (outNz w.val) with e := c.e.setSpe p, res := some w.res }

/-- SRD (R201). -/
def bodySrd (c : Ctx) : Except ETrap Fired := do
  let a ← c.read1 c.f.srca.toNat .int
  let x := localWord a.val
  let p := c.e.spe.useR x
  c.readWord x p p

def execSrd (f : SlotF) (s : State) : Out := fireSlot s f bodySrd

/-- A word with a new value and the presence it had (R206). -/
def keepPres (w : BWord) (v : Word) (tag res : BitVec 4) : BWord := ⟨v, tag, res, w.pres⟩

/-- SWR: its result serves the outcome only (R201). -/
def bodySwr (c : Ctx) : Except ETrap Fired := do
  let (a, b) ← c.read2 c.f.srca.toNat .int c.f.srcb.toNat .none
  let x := localWord a.val
  let p := (c.e.spe.write x (keepPres (c.e.spe.read x) b.val b.tag b.res)).useW x
  return { c.silent (outNz b.val) with e := c.e.setSpe p }

def execSwr (f : SlotF) (s : State) : Out := fireSlot s f bodySwr

/-- SXCH (R201). -/
def bodySxch (c : Ctx) : Except ETrap Fired := do
  let (a, b) ← c.read2 c.f.srca.toNat .int c.f.srcb.toNat .none
  let x := localWord a.val
  let p0 := (c.e.spe.useR x).useW x
  c.readWord x (p0.write x (keepPres (c.e.spe.read x) b.val b.tag b.res)) p0

def execSxch (f : SlotF) (s : State) : Out := fireSlot s f bodySxch

/-- SADD, SMAX, SMIN: the stored tag is checked under INT (R201). -/
def bodyPortOp (g : Nat → Nat → Nat → Nat) (c : Ctx) : Except ETrap Fired := do
  let w := laneW c.f.lane
  let (a, b) ← c.read2 c.f.srca.toNat .int c.f.srcb.toNat .int
  let x := localWord a.val
  let old := c.e.spe.read x
  let p0 := (c.e.spe.useR x).useW x
  let v := map2Lanes w (g w) old.val b.val
  let go ← c.readWord x (p0.write x (keepPres old v (BitVec.zeroExtend 4 c.f.lane) (residue v))) p0
  if !setHas c.e.spe.bad x && !Cls.int.accepts old.tag then throw (c.trap Cause.fmtMismatch 0)
  else return go

def pAdd (w a b : Nat) : Nat := wrapN w (sgn w a + sgn w b)
def pMax (w a b : Nat) : Nat := if sgn w a ≤ sgn w b then b else a
def pMin (w a b : Nat) : Nat := if sgn w a ≤ sgn w b then a else b

def bodySadd (c : Ctx) : Except ETrap Fired := bodyPortOp pAdd c
def execSadd (f : SlotF) (s : State) : Out := fireSlot s f bodySadd
def bodySmax (c : Ctx) : Except ETrap Fired := bodyPortOp pMax c
def execSmax (f : SlotF) (s : State) : Out := fireSlot s f bodySmax
def bodySmin (c : Ctx) : Except ETrap Fired := bodyPortOp pMin c
def execSmin (f : SlotF) (s : State) : Out := fireSlot s f bodySmin

/-! ### Circular buffers (R203 to R205) -/

def SpeState.handle (p : SpeState) (n : Nat) : Handle := p.handles.getD n Handle.zero
def SpeState.setHandle (p : SpeState) (n : Nat) (h : Handle) : SpeState := { p with handles := putAt Handle.zero p.handles n h }

/-- The word at an offset of a handle. -/
def Handle.word (h : Handle) (o : Nat) : Nat := (h.base + o % h.size) % 8192

/-- A chosen instruction that names an unset handle traps (R203). -/
def Ctx.setHandleOr (c : Ctx) (n : Nat) : Except ETrap Handle :=
  let h := c.e.spe.handle n
  if h.size = 0 then .error (c.trap Cause.cbunset 0) else .ok h

/-- Words between the offsets a .s form and a plain form name (R205). -/
def Handle.scaled (h : Handle) (s : Bool) (k : Nat) : Nat := if s then k * h.stride else k

/-- CBRD and CBRD.s. -/
def bodyCbrd (c : Ctx) : Except ETrap Fired := do
  let h ← c.setHandleOr c.f.srca.toNat
  let x := h.word (h.rd + h.scaled (c.f.lane == 1) c.f.srcb.toNat)
  let p := c.e.spe.useR x
  c.readWord x p p

def execCbrd (f : SlotF) (s : State) : Out := fireSlot s f bodyCbrd

/-- CBRD.pop. -/
def bodyCbrdPop (c : Ctx) : Except ETrap Fired := do
  let n := c.f.srca.toNat
  let h ← c.setHandleOr n
  let x := h.word h.rd
  let p := (c.e.spe.useR x).setHandle n { h with rd := (h.rd + 1) % h.size, fill := h.fill - 1 }
  c.readWord x p p

def execCbrdPop (f : SlotF) (s : State) : Out := fireSlot s f bodyCbrdPop

/-- CBWR. -/
def bodyCbwr (c : Ctx) : Except ETrap Fired := do
  let n := c.f.srca.toNat
  let h ← c.setHandleOr n
  let b ← c.read1 c.f.srcb.toNat .none
  let x := h.word h.wr
  let p := (c.e.spe.write x (keepPres (c.e.spe.read x) b.val b.tag b.res)).useW x
  return { c.silent (outNz b.val) with
    e := c.e.setSpe (p.setHandle n { h with wr := (h.wr + 1) % h.size, fill := h.fill + 1 }) }

def execCbwr (f : SlotF) (s : State) : Out := fireSlot s f bodyCbwr

/-- FILL and SIZE − FILL as CBADVR and CBADVW give them. -/
def Handle.levels (h : Handle) : Word := BitVec.ofNat 64 (h.fill + (h.size - h.fill) * 2 ^ 32)

/-- Words that an advance moves by: k + 1, or (k + 1) × STRIDE. -/
def Handle.advance (h : Handle) (f : SlotF) : Nat := h.scaled (f.lane == 1) (f.srcb.toNat + 1)

/-- CBADVR. -/
def bodyCbadvr (c : Ctx) : Except ETrap Fired := do
  let n := c.f.srca.toNat
  let h ← c.setHandleOr n
  let k := h.advance c.f
  let h' := { h with rd := (h.rd + k) % h.size, fill := h.fill - k }
  return { c.result h'.levels 0 (h'.fill != 0) with e := c.e.setSpe (c.e.spe.setHandle n h') }

def execCbadvr (f : SlotF) (s : State) : Out := fireSlot s f bodyCbadvr

/-- CBADVW. -/
def bodyCbadvw (c : Ctx) : Except ETrap Fired := do
  let n := c.f.srca.toNat
  let h ← c.setHandleOr n
  let k := h.advance c.f
  let h' := { h with wr := (h.wr + k) % h.size, fill := h.fill + k }
  return { c.result h'.levels 0 (h'.size - h'.fill != 0) with e := c.e.setSpe (c.e.spe.setHandle n h') }

def execCbadvw (f : SlotF) (s : State) : Out := fireSlot s f bodyCbadvw

/-- CBSET: the handle of a descriptor; a bad one traps (R204). -/
def bodyCbset (c : Ctx) : Except ETrap Fired := do
  let a ← c.read1 c.f.srca.toNat .int
  let base := fld a.val 0 13
  let size := fld a.val 13 13 + 1
  if fld a.val 39 25 ≠ 0 ∨ 8191 < base + size - 1 then throw (c.trap Cause.cbdesc 0)
  else
    return { c.silent false with
      e := c.e.setSpe (c.e.spe.setHandle c.f.srcb.toNat ⟨base, size, fld a.val 26 13, 0, 0, 0⟩) }

def execCbset (f : SlotF) (s : State) : Out := fireSlot s f bodyCbset

/-! ### Presence words (R206, R207) -/

/-- The token a word gives under a control tag (R45, R498). -/
def BWord.tok (w : BWord) (ctag : BitVec 3) : Tok := ⟨ctag, ftagFor ctag w.tag, w.res, 0, w.val⟩

/-- Clocks of half a cross access between two tiles (R209; log 26). -/
def crossHalf (s : State) (a b : ElemRef) : Nat :=
  match s.load? a.load with
  | some l => 4 + 2 * tileDist ((l.pt? a.lt).getD 0) ((l.pt? b.lt).getD 0)
  | none => 4

/-- Serve the deferral entries of a word with the word just written, in the order they were taken (R207): own PRDs
through the reply list, others as replies to their issuers. -/
def State.serveWord (s : State) (r : ElemRef) (x : Nat) (w : BWord) : State :=
  match s.elem? r with
  | none => s
  | some e =>
    let mine := e.spe.defers.filter fun d => decide (d.word = x)
    let s1 := s.modElem r fun e => e.setSpe { e.spe with
      defers := e.spe.defers.filter fun d => decide (d.word ≠ x)
      replies := e.spe.replies ++ mine.filterMap fun d =>
        match d.who with
        | .own dst ct => some (dst, w.tok ct)
        | .cross _ _ => none }
    mine.foldl (fun s d =>
      match d.who with
      | .own _ _ => s
      | .cross src cell =>
        s.modElem src fun e => e.setSpe { e.spe with
          owed := e.spe.owed.map fun c =>
            if c.cell = cell then { c with reply := some (w.tok c.ctag), due := s.clock + crossHalf s r src } else c }) s1

/-- PWR (R206): the reads it serves are served by the firing's own commit. -/
def bodyPwr (c : Ctx) : Except ETrap Fired := do
  let (a, b) ← c.read2 c.f.srca.toNat .int c.f.srcb.toNat .none
  let x := localWord a.val
  if (c.e.spe.read x).pres then
    let e := c.e.setSpe (c.e.spe.useW x)
    if c.f.dst = 15 then
      return { c.silent false with e := e, after := some (c.trap Cause.presenceRewrite 0) }
    else
      return { c.result (faultTok Cause.presenceRewrite (freeDetail c.s)).pay 0 false with
        e := e, dst := .token Ctag.fault, free := 1 }
  else
    return { c.silent true with e := c.e.setSpe ((c.e.spe.write x ⟨b.val, b.tag, b.res, true⟩).useW x) }

/-- The word a presence write of this slot sets, when it sets one. -/
def pwrWord (s : State) (f : SlotF) : Option (ElemRef × Nat) :=
  match s.actor with
  | .slot r _ _ _ =>
    match s.elem? r with
    | none => none
    | some e =>
      let x := localWord (e.source f.srca.toNat).val
      if (e.spe.read x).pres then none else some (r, x)
  | _ => none

def execPwr (f : SlotF) (s : State) : Out :=
  match fireSlot s f bodyPwr with
  | .next s' =>
    match pwrWord s f with
    | some (r, x) =>
      match s'.elem? r with
      | some e => if (e.spe.now x).pres then .next (s'.serveWord r x (e.spe.now x)) else .next s'
      | none => .next s'
    | none => .next s'
  | o => o

/-- PRD: the word, or a deferral entry (R206). -/
def bodyPrd (c : Ctx) : Except ETrap Fired := do
  let a ← c.read1 c.f.srca.toNat .int
  let x := localWord a.val
  let p := c.e.spe.useR x
  if (c.e.spe.read x).pres ∨ setHas c.e.spe.bad x then
    let g ← c.readWord x p p
    return { g with outcome := !setHas c.e.spe.bad x }
  else
    return { c.silent false with
      e := c.e.setSpe { p with defers := p.defers ++ [⟨x, .own c.f.dst.toNat (otagCtag c.f a)⟩] } }

def execPrd (f : SlotF) (s : State) : Out := fireSlot s f bodyPrd

/-- PCLR (R206). -/
def bodyPclr (c : Ctx) : Except ETrap Fired := do
  let a ← c.read1 c.f.srca.toNat .int
  let x := localWord a.val
  let p0 := (c.e.spe.useR x).useW x
  let w := c.e.spe.read x
  let p := if w.pres then p0.write x BWord.zero else p0
  let g ← c.readWord x p p
  return { g with outcome := w.pres && !setHas c.e.spe.bad x }

def execPclr (f : SlotF) (s : State) : Out := fireSlot s f bodyPclr

/-! ### Microprogram control (R215, R216, R219) -/

/-- Fields of a microprogram descriptor (R215). -/
def mpOp (d : Word) : Nat := fld d 62 2
def mpFmt (d : Word) : Nat := fld d 60 2
def mpLen (d : Word) : Nat := fld d 54 6 + 1
def mpRows (d : Word) : Nat := fld d 48 6 + 1
def mpPitch (d : Word) : Nat := fld d 26 13
def mpDst (d : Word) : Nat := fld d 13 13
def mpSrc (d : Word) : Nat := fld d 0 13

/-- First words of the destination rows: sum writes one row. -/
def mpDstRows (d : Word) : List Nat :=
  if mpOp d = 2 then [mpDst d] else (List.range (mpRows d)).map fun r => mpDst d + r * mpPitch d
def mpSrcRows (d : Word) : List Nat := (List.range (mpRows d)).map fun r => mpSrc d + r * mpPitch d

/-- Whether two rows of LEN words share a word. -/
def rowsMeet (len a b : Nat) : Bool := decide (a < b + len ∧ b < a + len)

/-- Whether a descriptor is in breach (R215). -/
def mpBad (d : Word) : Bool :=
  let len := mpLen d
  mpOp d == 3 || decide (2 ≤ mpFmt d) || fld d 39 9 != 0 ||
  (mpSrcRows d).any (fun a => decide (8191 < a + len - 1)) ||
  (mpDstRows d).any (fun a => decide (8191 < a + len - 1)) ||
  (if mpDst d = mpSrc d then mpOp d != 1
   else (mpSrcRows d).any fun a => (mpDstRows d).any fun b => rowsMeet len a b)

/-- MPGO (R216). -/
def bodyMpgo (c : Ctx) : Except ETrap Fired := do
  let k : Cls := if mpOp (c.e.source c.f.srca.toNat).val = 1 then
      (if mpFmt (c.e.source c.f.srca.toNat).val = 0 then .int else .fp 4) else .none
  let (a, b) ← c.read2 c.f.srca.toNat .int c.f.srcb.toNat k
  if mpBad a.val then throw (c.trap Cause.mpdesc 0)
  else
    return { c.silent true with
      e := c.e.setSpe { c.e.spe with
        mp := { MicroProg.idle with
          st := 1, desc := a.val, scale := BitVec.ofNat 64 (valueOf b.val), dst := c.f.dst.toNat
          acc := c.e.spe.mp.acc } } }

def execMpgo (f : SlotF) (s : State) : Out := fireSlot s f bodyMpgo

/-- Rows completed (R219): the last row read is complete once its last write is performed. -/
def MicroProg.rowsDone (m : MicroProg) : Nat :=
  if m.write.isSome ∧ m.word = 0 ∧ mpOp m.desc ≠ 2 then m.row - 1 else m.row

/-- The status word of MPST (R219). -/
def MicroProg.status (m : MicroProg) : Word :=
  BitVec.ofNat 64 (m.st + m.rowsDone * 4 + boolN (m.byprog && m.st == 3) * 512)

/-- MPST and its requests, on the status at the start of the clock (R219). -/
def mpst (g : MicroProg → MicroProg) (c : Ctx) : Except ETrap Fired :=
  let m := c.e.spe.mp
  .ok { c.result m.status 0 (m.st != 0) with e := c.e.setSpe { c.e.spe with mp := g m } }

def bodyMpst (c : Ctx) : Except ETrap Fired := mpst (fun m => m) c
def execMpst (f : SlotF) (s : State) : Out := fireSlot s f bodyMpst

def bodyMpstSusp (c : Ctx) : Except ETrap Fired :=
  mpst (fun m => if m.st = 1 then { m with st := 2, byprog := true } else m) c
def execMpstSusp (f : SlotF) (s : State) : Out := fireSlot s f bodyMpstSusp

def bodyMpstRes (c : Ctx) : Except ETrap Fired :=
  mpst (fun m => if m.st = 3 ∧ m.byprog then { m with st := 1, byprog := false } else m) c
def execMpstRes (f : SlotF) (s : State) : Out := fireSlot s f bodyMpstRes

/-! ### Cross requests (R198, R208, R209) -/

/-- Logical site of an SPE index (R198). -/
def speSite (k : Nat) : Nat :=
  if k < 8 then 2 * k + 1
  else if k < 24 then
    let row := match (k - 8) / 4 with | 0 => 3 | 1 => 5 | 2 => 6 | _ => 8
    let col := match (k - 8) % 4 with | 0 => 2 | 1 => 5 | 2 => 10 | _ => 13
    16 * row + col
  else 176 + 2 * (k - 24) + 1

/-- The SPE a cross address reaches; none for an invalid address (R198). Every SPE of a fabric load is in State.elems,
used or not (log 27). -/
def State.crossTarget (s : State) (r : ElemRef) (a : Word) : Option ElemRef :=
  if fld a 24 40 ≠ 0 then none
  else
    match s.load? r.load with
    | none => none
    | some l =>
      let t : ElemRef := ⟨r.die, r.fab, fld a 18 6, speSite (fld a 13 5)⟩
      if l.tiles.any (fun p => decide (p.lt = t.lt)) then some t else none

/-- A cross request of the slot: it takes a credit and a name, and travels to its target (R208, R209). -/
def crossFire (c : Ctx) (a : Src) (op : CrossOp) (b : Src) : Fired :=
  let isW := decide (op = .wr ∨ op = .wrP)
  let cell : CrossCell := ⟨c.s.nextId, c.f.dst.toNat, isW, otagCtag c.f a, true, none, none, 0⟩
  let p := { c.e.spe with credits := c.e.spe.credits - 1 }
  match c.s.crossTarget c.e.ref a.val with
  | none =>
    let t := faultTok Cause.xaddr (fld a.val 0 24)
    let cell := { cell with
      reply := some t
      fault := if c.f.dst = 15 then some (c.trap Cause.xaddr 0) else none
      due := c.s.clock + 8 }
    { c.silent false with e := c.e.setSpe { p with owed := p.owed ++ [cell] }, ids := 1 }
  | some t =>
    { c.silent true with
      e := c.e.setSpe { p with owed := p.owed ++ [cell] }
      ids := 1
      cross := [(t, ⟨c.e.ref, cell.cell, op, localWord a.val, b.val, b.tag, b.res,
        c.s.clock + crossHalf c.s c.e.ref t⟩)] }

def crossRd (op : CrossOp) (c : Ctx) : Except ETrap Fired := do
  let a ← c.read1 c.f.srca.toNat .int
  return crossFire c a op Src.zero

def crossWr (op : CrossOp) (c : Ctx) : Except ETrap Fired := do
  let (a, b) ← c.read2 c.f.srca.toNat .int c.f.srcb.toNat .none
  return crossFire c a op b

def bodyXrd (c : Ctx) : Except ETrap Fired := crossRd .rd c
def execXrd (f : SlotF) (s : State) : Out := fireSlot s f bodyXrd
def bodyXrdP (c : Ctx) : Except ETrap Fired := crossRd .rdP c
def execXrdP (f : SlotF) (s : State) : Out := fireSlot s f bodyXrdP
def bodyXwr (c : Ctx) : Except ETrap Fired := crossWr .wr c
def execXwr (f : SlotF) (s : State) : Out := fireSlot s f bodyXwr
def bodyXwrP (c : Ctx) : Except ETrap Fired := crossWr .wrP c
def execXwrP (f : SlotF) (s : State) : Out := fireSlot s f bodyXwrP

end Sys2Proof.Machine
end

