-- ==== Sys2Proof/Machine/SpeBank.lean ====
section
/-! DEFINITION. The port of a scratchpad bank: cross requests and replies, deferred replies, the microprogram, and the
reservations at the end of each clock (R207 to R218). -/

namespace Sys2Proof.Machine

open Sys2Proof

/-- The element an actor names, for an event of that element. -/
def withElem (s : State) (g : ElemRef → Elem → State) : Out :=
  match s.actor with
  | .elem r =>
    match s.elem? r with
    | some e => .next (g r e)
    | none => .fault .noActor
  | _ => .fault .noActor

/-- The same for an event with a number. -/
def withElemN (s : State) (g : ElemRef → Nat → Elem → State) : Out :=
  match s.actor with
  | .elemN r n =>
    match s.elem? r with
    | some e => .next (g r n e)
    | none => .fault .noActor
  | _ => .fault .noActor

def State.modSpe (s : State) (r : ElemRef) (f : SpeState → SpeState) : State :=
  s.modElem r fun e => e.setSpe (f e.spe)

/-! ### Cross requests at the target (R208, R211, R212) -/

/-- Slots the own port, the microprogram and, but for its head, the cross reservation hold in this clock. -/
def SpeState.readBusy (p : SpeState) (x : Nat) : Bool :=
  (p.used.xRead ||| p.resv.mpRead).testBit (x % 8)
def SpeState.writeBusy (p : SpeState) (x : Nat) : Bool :=
  (p.used.xWrite ||| p.resv.mpWrite).testBit (x % 8)

def CrossOp.writes (o : CrossOp) : Bool :=
  match o with
  | .wr => true | .wrP => true | _ => false

/-- Whether the head of the cross queue finds its slot free (R212). -/
def SpeState.crossFree (p : SpeState) (q : CrossReq) : Bool :=
  if q.op.writes then !p.writeBusy q.word else !p.readBusy q.word

/-- Whether the microprogram alone holds the head's slot (R213). -/
def SpeState.crossHeldByMp (p : SpeState) (q : CrossReq) : Bool :=
  if q.op.writes then p.resv.mpWrite.testBit (q.word % 8) && !p.used.xWrite.testBit (q.word % 8)
  else p.resv.mpRead.testBit (q.word % 8) && !p.used.xRead.testBit (q.word % 8)

/-- Answer a cross request: its reply travels back; with DST 15 the credit returns now, and only a fault is kept
(R208, R209). -/
def State.crossAnswer (s : State) (r : ElemRef) (q : CrossReq) (rep : Tok) : State :=
  s.modSpe q.src fun p =>
    match p.owed.find? fun c => decide (c.cell = q.cell) with
    | none => p
    | some c =>
      if c.dst = 15 ∧ !rep.isFault then
        { p with owed := p.owed.filter (fun c => decide (c.cell ≠ q.cell)), credits := p.credits + 1 }
      else
        { p with owed := p.owed.map fun c =>
            if c.cell = q.cell then
              { c with
                reply := some rep
                due := s.clock + crossHalf s r q.src
                fault := if c.dst = 15 then some ⟨rep.causeOf, eDetail q.src.site 0 0, none⟩ else none }
            else c }

/-- A cross read delivers word x: its stored residue is checked at the bank, where a failure halts the element with
RESIDUE and the word goes on with its residue made anew (R200; log 85). -/
def State.crossWord (s : State) (r : ElemRef) (q : CrossReq) (x : Nat) (w : BWord) : State :=
  let ct := match (s.elem? q.src).bind fun e => e.spe.owed.find? fun c => decide (c.cell = q.cell) with
    | some c => c.ctag
    | none => Ctag.data
  let good := { w with res := residue w.val }
  let s1 := s.crossAnswer r q (good.tok ct)
  if w.res = good.res then s1
  else
    (s1.modSpe r fun p => { p with bank := sset BWord.zero p.bank x { p.now x with res := residue (p.now x).val } }
      ).trapElem r ⟨Cause.residue, eDetail r.site 0 0, some (16 + x)⟩

/-- Perform a cross request at bank r (R208). -/
def State.crossPerform (s : State) (r : ElemRef) (e : Elem) (q : CrossReq) : State :=
  let p := e.spe
  let w := p.read q.word
  let orderT := orderTok (if q.src.lt = r.lt then 1 else 2)
  match q.op with
  | .rd =>
    if setHas p.bad q.word then
      (((s.logElem e).tick).crossAnswer r q
        (faultTok Cause.uncorrectable (freeDetail s)))
    else s.crossWord r q q.word w
  | .rdP =>
    if setHas p.bad q.word then
      (((s.logElem e).tick).crossAnswer r q
        (faultTok Cause.uncorrectable (freeDetail s)))
    else if w.pres then s.crossWord r q q.word w
    else if 16 ≤ p.defers.length then s.tick.crossAnswer r q (faultTok Cause.deferFull (freeDetail s))
    -- deferred, and served by the PWR of its own clock
    else if (p.now q.word).pres then s.crossWord r q q.word (p.now q.word)
    else s.modSpe r fun p => { p with defers := p.defers ++ [⟨q.word, .cross q.src q.cell⟩] }
  | .wr =>
    (s.modSpe r fun p => p.write q.word (keepPres w q.val q.tag q.res)).crossAnswer r q orderT
  | .wrP =>
    if w.pres then s.tick.crossAnswer r q (faultTok Cause.presenceRewrite (freeDetail s))
    else
      let b : BWord := ⟨q.val, q.tag, q.res, true⟩
      ((s.modSpe r fun p => p.write q.word b).serveWord r q.word b).crossAnswer r q orderT

/-- CROSS_REQUEST: the head of the arrival queue is performed if its slot is free, else it waits (R211, R212). -/
def execCrossRequest (s : State) : Out :=
  withElem s fun r e =>
    match e.spe.crossIn with
    | [] => s
    | q :: rest =>
      if s.clock < q.due then s
      else if e.spe.crossFree q then
        let s1 := s.modSpe r fun p =>
          let p := { p with crossIn := rest, headWait := 0, resv := { p.resv with xRead := 0, xWrite := 0 } }
          if q.op.writes then p.useW q.word else p.useR q.word
        match s1.elem? r with
        | some e1 => s1.crossPerform r e1 q
        | none => s1
      else
        s.modSpe r fun p =>
          { p with headWait := p.headWait + 1, blocked := p.blocked || p.crossHeldByMp q }

/-! ### Replies that enter outputs (R207, R209) -/

/-- Whether a cross request is the oldest of its output that is still owed a reply: replies leave DST in firing order
(R209); with DST 15 nothing leaves. -/
def SpeState.crossTurn (p : SpeState) (c : CrossCell) : Bool :=
  c.dst == 15 || (p.owed.find? fun x => decide (x.dst = c.dst)).map (·.cell) == some c.cell

/-- CROSS_REPLY: the reply of a cross request enters DST in firing order, or traps when DST is 15 (R208, R209). The
number names the request. -/
def execCrossReply (s : State) : Out :=
  withElemN s fun r n e =>
    match e.spe.owed.find? fun c => decide (c.cell = n) with
    | none => s
    | some c =>
      match c.reply with
      | none => s
      | some t =>
        let p := { e.spe with
          owed := e.spe.owed.filter (fun c => decide (c.cell ≠ n)), credits := e.spe.credits + 1 }
        if s.clock < c.due ∨ ¬ e.spe.crossTurn c then s
        else
        match c.fault with
        | some f => (s.modElem r fun e => e.setSpe p).trapElem r f
        | none =>
          if ¬ e.spaceFor c.dst then s
          else s.modElem r fun _ => (s.putTok e c.dst t).setSpe p

/-- DEFERRED_REPLY: the oldest deferred local reply of an output enters it (R207). -/
def execDeferredReply (s : State) : Out :=
  withElemN s fun r dst e =>
    match e.spe.replies.find? fun d => decide (d.1 = dst) with
    | none => s
    | some (_, t) =>
      if e.spaceFor dst then
        s.modElem r fun _ =>
          (s.putTok e dst t).setSpe { e.spe with replies := e.spe.replies.eraseP fun d => decide (d.1 = dst) }
      else s

/-! ### The microprogram (R216 to R218) -/

def MicroProg.src (m : MicroProg) : Nat := mpSrc m.desc + m.row * mpPitch m.desc + m.word
def MicroProg.dstW (m : MicroProg) : Nat := mpDst m.desc + m.row * mpPitch m.desc + m.word

/-- Whether the two words of a scale-and-add step share a sub-bank (R217). -/
def MicroProg.shares (m : MicroProg) : Bool := decide (m.src % 8 = m.dstW % 8)

/-- Go to the next word, or the next row; after the last row of a sum the sums are written. -/
def MicroProg.advance (m : MicroProg) : MicroProg :=
  if m.word + 1 < mpLen m.desc then { m with word := m.word + 1, phase := .read }
  else { m with word := 0, row := m.row + 1, phase := .read }

/-- One lane of a scale-and-add or a sum (R216). -/
def mpLane (fmt : Nat) (s x y : Nat) : Nat :=
  if fmt = 0 then wrapN 32 (sgn 32 y + sgn 32 s * sgn 32 x)
  else rneF32 (FVal.add .rne (fF32.dec y) (FVal.mul (fF32.dec s) (fF32.dec x)))
def sumLane (fmt a x : Nat) : Nat :=
  if fmt = 0 then wrapN 32 (sgn 32 a + sgn 32 x) else addF32 a x

/-- Format tag of an arithmetic microprogram's results. -/
def MicroProg.tag (m : MicroProg) : BitVec 4 := if mpFmt m.desc = 0 then 1 else 4

/-- A word whose class the operation does not accept (R216). -/
def MicroProg.rejects (m : MicroProg) (w : BWord) : Bool :=
  mpOp m.desc != 0 && !(if mpFmt m.desc = 0 then Cls.int else Cls.fp 4).accepts w.tag

/-- A word to be written: value, format tag and residue (R216). -/
def mpPut (x : Nat) (v : Word) (tag res : BitVec 4) : MpWrite := ⟨x, ⟨v, tag, res, false⟩⟩

/-- The first write of the sums, if every row has been read, the microprogram runs and the sums are not written yet (R216,
R218). -/
def MicroProg.sumsFrom (m : MicroProg) : MicroProg :=
  if m.st = 1 ∧ mpOp m.desc = 2 ∧ m.row = mpRows m.desc ∧ m.phase = .read ∧ m.done.isNone then
    let a := m.acc.getD 0 0
    { m with phase := .sums, word := 0, write := some (mpPut (mpDst m.desc) a m.tag (residue a)) }
  else m

/-- The step whose reads are done: what it writes and where it goes on. y is the destination word of scale-and-add. -/
def MicroProg.mpDo (m : MicroProg) (x y : BWord) : MicroProg :=
  let fmt := mpFmt m.desc
  match mpOp m.desc with
  | 0 => { m.advance with write := some (mpPut m.dstW x.val x.tag x.res) }
  | 1 =>
    let v := map2Lanes 32 (fun a b => mpLane fmt (valueOf m.scale) a b) x.val y.val
    { m.advance with write := some (mpPut m.dstW v m.tag (residue v)) }
  | _ =>
    let a : Word := if m.row = 0 then 0 else m.acc.getD m.word 0
    let v := map2Lanes 32 (sumLane fmt) a x.val
    { m.advance with acc := m.acc.set m.word v }

/-- Stop with a FAULT completion; the rows completed stay counted (R219). -/
def MicroProg.stop (m : MicroProg) (t : Tok) : MicroProg :=
  { m with write := none, done := some t, word := 0, phase := .sums }

/-- What a step's reads came to: how the microprogram goes on, whether an uncorrectable error was met, and the word
whose residue failed (R200). -/
structure MpReads where
  m : MicroProg
  uncorr : Bool
  badRes : Option Nat

/-- The reads performed in a clock (R217). -/
def SpeState.mpReads (p : SpeState) (m : MicroProg) (detail : Nat) : MpReads :=
  let err (x : Nat) (w : BWord) (go : Unit → MicroProg) : MpReads :=
    if setHas p.bad x then ⟨m.stop (faultTok Cause.uncorrectable detail), true, none⟩
    else if m.rejects w then ⟨m.stop (faultTok Cause.fmtMismatch x), false, none⟩
    else ⟨go (), false, if w.res = residue w.val then none else some x⟩
  match m.phase with
  | .read =>
    let x := m.src
    let w := p.read x
    if mpOp m.desc = 1 then
      if m.shares then err x w fun _ => { m with phase := .read2 w }
      else
        let y := m.dstW
        let a := err x w fun _ => m
        if a.m.done.isSome then a
        else
          let b := err y (p.read y) fun _ => m.mpDo w (p.read y)
          { b with badRes := match a.badRes with | some k => some k | none => b.badRes }
    else err x w fun _ => m.mpDo w BWord.zero
  | .read2 w => err m.dstW (p.read m.dstW) fun _ => m.mpDo w (p.read m.dstW)
  | .sums => ⟨m, false, none⟩

/-- After the write of a clock: the next sum, or nothing. -/
def MicroProg.nextSum (m : MicroProg) : MicroProg :=
  if m.phase = .sums ∧ m.done.isNone then
    if m.word + 1 < mpLen m.desc then
      let i := m.word + 1
      let a := m.acc.getD i 0
      { m with word := i, write := some (mpPut (mpDst m.desc + i) a m.tag (residue a)) }
    else { m with write := none, word := 0 }
  else { m with write := none }

/-- Whether every write has been performed, so that the completion token may be placed. -/
def MicroProg.finished (m : MicroProg) : Bool :=
  m.write.isNone && m.done.isNone &&
  (if mpOp m.desc = 2 then m.phase == .sums else m.row == mpRows m.desc && m.phase == .read)

/-- MICROPROGRAM_STEP: the reads and the write reserved for this clock are performed (R212, R217); a write leaves the
presence of its word as it stands (R216). -/
def execMicroprogramStep (s : State) : Out :=
  withElem s fun r e =>
    let p := e.spe
    let m := p.mp
    let p1 := if p.resv.mpWrite ≠ 0 then
        match m.write with
        | some w => p.write w.word { w.val with pres := (p.now w.word).pres }
        | none => p
      else p
    let m1 := if p.resv.mpWrite ≠ 0 then m.nextSum else m
    let g : MpReads := if p.resv.mpRead ≠ 0 then p.mpReads m1 (freeDetail s) else ⟨m1, false, none⟩
    let m2 := if g.m.finished then { g.m with done := some (orderTok 2) } else g.m
    let p2 := { p1 with mp := m2, resv := { p1.resv with mpRead := 0, mpWrite := 0 } }
    let s1 := s.modElem r fun e => e.setSpe p2
    let s2 := if g.uncorr then (s1.logElem e).tick else s1
    match g.badRes with
    | some x =>
      ((s2.modSpe r fun p => { p with bank := sset BWord.zero p.bank x { p.now x with res := residue (p.now x).val } })
        ).trapElem r ⟨Cause.residue, eDetail r.site 0 0, some (16 + x)⟩
    | none => s2

/-- Whether the microprogram stands at a row boundary (R218). -/
def MicroProg.atBoundary (m : MicroProg) : Bool :=
  m.write.isNone && (m.done.isSome || (m.word == 0 && m.phase == .read && decide (0 < m.row)))

/-- MICROPROGRAM_SUSPEND: a microprogram asked to suspend does so at a row boundary (R218). -/
def execMicroprogramSuspend (s : State) : Out :=
  withElem s fun r e =>
    let m := e.spe.mp
    if m.st = 2 ∧ m.atBoundary then s.modSpe r fun p => { p with mp := { m with st := 3 } } else s

/-- MICROPROGRAM_COMPLETION: the completion token enters DST, or nothing with DST 15, and the state becomes idle
(R216). A read that met an uncorrectable error traps with DST 15 (R200). -/
def execMicroprogramCompletion (s : State) : Out :=
  withElem s fun r e =>
    let m := e.spe.mp
    if m.st ≠ 1 then s
    else
      match m.done with
      | none => s
      | some t =>
        let e1 := e.setSpe { e.spe with mp := { m with st := 0, done := none } }
        if m.dst = 15 then
          let s1 := s.modElem r fun _ => e1
          if t.isFault ∧ t.causeOf = Cause.uncorrectable then
            s1.trapElem r ⟨Cause.uncorrectable, eDetail r.site 0 0, none⟩
          else s1
        else if e.spaceFor m.dst then s.modElem r fun _ => s.putTok e1 m.dst t
        else s

/-! ### The end of the clock (R212 to R214) -/

/-- Words that the microprogram reads next, if it is to read; a word its pending write changes is read after that
write (R216; log 28). -/
def MicroProg.wants (m : MicroProg) : List Nat :=
  if (m.st = 1 ∨ (m.st = 2 ∧ ¬ m.atBoundary)) ∧ m.done.isNone then
    let ws := match m.phase with
      | .read =>
        if m.row < mpRows m.desc ∧ ¬ (m.st = 2 ∧ m.word = 0 ∧ 0 < m.row) then
          if mpOp m.desc = 1 ∧ ¬ m.shares then [m.src, m.dstW] else [m.src]
        else []
      | .read2 _ => [m.dstW]
      | .sums => []
    match m.write with
    | some w => if ws.contains w.word then [] else ws
    | none => ws
  else []

def subBits (ws : List Nat) : Nat := ws.foldl (fun b x => b ||| subBit x) 0

/-- CROSS_RESERVATION: a head that has waited 8 clocks reserves its slot, behind the microprogram's write (R214). -/
def execCrossReservation (s : State) : Out :=
  withElem s fun r e =>
    match e.spe.crossIn with
    | [] => s
    | q :: _ =>
      let wbits := match e.spe.mp.write with
        | some w => subBit w.word
        | none => 0
      if q.op.writes then
        if wbits.testBit (q.word % 8) then s
        else s.modSpe r fun p => { p with resv := { p.resv with xWrite := subBit q.word } }
      else s.modSpe r fun p => { p with resv := { p.resv with xRead := subBit q.word } }

/-- YIELD_CLOCK: the wait count has reached 4, so the microprogram reserves no read for the next clock (R213). -/
def execYieldClock (s : State) : Out :=
  withElem s fun r _ => s.modSpe r fun p => { p with wait := 4 }

/-- Whether the sequencer of an element's tile is in a trap or has one pending. -/
def State.tileTraps (s : State) (e : Elem) : Bool :=
  match s.seq? (pkgTile e.ref.die e.ptile) with
  | some q => q.inTrap || !q.pend.isEmpty
  | none => false

/-- The microprogram of an element that is halted, or whose tile traps, is asked to suspend, and goes on when the element
fires again (R218; log 29). -/
def Elem.mpFollow (e : Elem) (tile : Bool) : MicroProg :=
  let m := e.spe.mp
  let halted := e.trap.isSome || e.stopped || tile
  if halted && m.st == 1 then { m with st := 2, byprog := false }
  else if !halted && (m.st == 2 || m.st == 3) && !m.byprog then { m with st := 1 }
  else m

/-- BANK_CLOCK: the reservations for the next clock: the write of the step whose reads were performed, then the reads
of the next step, unless a yield is due (R212). -/
def execBankClock (s : State) : Out :=
  withElem s fun r e =>
    let p := e.spe
    let m := (e.mpFollow (s.tileTraps e)).sumsFrom
    let yields := decide (4 ≤ p.wait)
    let w := match m.write with
      | some w => subBit w.word
      | none => 0
    let rd := if yields then 0 else subBits m.wants
    let rd := if rd &&& p.resv.xRead ≠ 0 then 0 else rd
    s.modElem r fun e => e.setSpe { p with
      mp := m
      old := []
      used := Resv.none
      blocked := false
      wait := if yields then 0 else p.wait + boolN p.blocked
      resv := { p.resv with mpRead := rd, mpWrite := w } }

end Sys2Proof.Machine
end

