-- ==== Sys2Proof/Machine/MemCheck.lean ====
section
/-! DEFINITION. The extent table and the checks that an MPE makes of every access it issues (R244, R253, R255 to R260,
R499). -/

namespace Sys2Proof.Machine

open Sys2Proof

/-- SLOT and VA of an R244 operand. -/
def opSlot (a : Word) : Nat := fld a 61 3
def opVa (a : Word) : Nat := fld a 0 57

/-- The dispatched task in a slot of a fabric load (R257). -/
def State.slotTask (s : State) (l : LoadRef) (slot : Nat) : Option SlotX :=
  match s.load? l with
  | some x => (x.slots.getD slot none)
  | none => none

/-- The run that holds a virtual address, of one declared extent or of any (R257). -/
def findRun (runs : List Run) (va : Nat) (ext : Option Nat) : Option Run :=
  runs.find? fun r => decide (r.vbase ≤ va / 0x10000 ∧ va / 0x10000 < r.vbase + r.n) &&
    (match ext with | some k => r.ext == k | none => true)

/-- Local address of a virtual address in a run. -/
def Run.pa (r : Run) (va : Nat) : Nat := (r.ppn + (va / 0x10000 - r.vbase)) * 0x10000 + va % 0x10000

/-- A fill run: a WEIGHT run of an extent whose declared W is 1; an MPE treats it as neither readable nor writable
(R389). -/
def Run.isFill (r : Run) : Bool := r.p && r.cls == 3 && r.declW

/-- What an instruction asks of the run it touches. -/
structure Need where
  /-- operand bits [60:57] are checked (R171 has none) -/
  rsv : Bool
  align : Nat
  ext : Option Nat
  remoteOk : Bool
  /-- classes allowed (R259); the class of a remote page is checked at its target -/
  classes : List Nat
  r : Bool
  w : Bool
  /-- bytes of the read range that begins here, 0 where geometry is not checked (R499) -/
  range : Nat

def needRead (bytes : Nat) : Need := ⟨true, 8, none, false, [0, 1, 3], true, false, bytes⟩
def needWrite : Need := ⟨true, 8, none, false, [0, 1], false, true, 0⟩

/-- SZ of the page that holds an address of a run (R251). -/
def Run.pageSz (r : Run) (va : Nat) : Nat :=
  r.psz.foldl (fun z p => if p.1 ≤ va / 0x10000 then p.2 else z) 0

/-- Whether a run lies on grouped pages (R253). -/
def Run.grouped (r : Run) : Bool := r.p && r.geom == 0x10

/-- Whether a read range breaks R253 on the page that holds its first word (R499). -/
def geomBreaks (r : Run) (va bytes : Nat) : Bool :=
  if r.geom = 0x10 ∧ bytes ≠ 0 then
    let g := if r.fmt = 12 then 24 else 72
    decide (va % pageSize (r.pageSz va) % g ≠ 0 ∨ bytes % g ≠ 0)
  else false

/-- A checked access: the cause it fails with (0 for none), its run and its local address. -/
structure Checked where
  cause : Nat
  run : Run
  pa : Nat

def Run.none : Run := ⟨0, 0, 0, false, false, false, 0, 0, 0, 0, 0, false, 0, []⟩

def failed (c : Nat) : Checked := ⟨c, Run.none, 0⟩

/-- Steps 3 to 8 of R258 on a task's runs. -/
def checkRuns (own : Nat) (runs : List Run) (va : Nat) (k : Need) : Checked :=
  match findRun runs va k.ext with
  | none => failed Cause.extent
  | some r =>
    let c :=
      if !r.p then Cause.page
      else if r.pkg ≠ own ∧ !k.remoteOk then Cause.remote
      else if !(k.classes.contains r.cls || (k.remoteOk && r.pkg != own)) then Cause.cls
      else if (k.r && !(r.r && !r.isFill)) || (k.w && !r.w) then Cause.perm
      else if geomBreaks r va k.range then Cause.geom
      else 0
    ⟨c, r, r.pa va⟩

/-- The checks of R258, in order. -/
def State.check (s : State) (l : LoadRef) (a : Word) (k : Need) : Checked :=
  match s.slotTask l (opSlot a) with
  | none => failed Cause.noslot
  | some x =>
    if k.rsv ∧ fld a 57 4 ≠ 0 then failed Cause.noslot
    else if opVa a % k.align ≠ 0 then failed Cause.align
    else checkRuns s.ownPkg x.runs (opVa a) k

/-- The operand 8k bytes further on. -/
def addVa (a : Word) (k : Nat) : Word := setFld a 0 57 (opVa a + k)

/-- Detail of a FAULT token of an access: VA bits [56:9] (R260). -/
def vaDetail (va : Nat) : Nat := va % 2 ^ 57 / 2 ^ 9

/-- The FAULT token of an access at an operand. -/
def accFault (cause : Nat) (a : Word) : Tok := faultTok cause (vaDetail (opVa a))

/-- The format of the grouped page that an operand lies on; none on any other page. -/
def State.groupFmt (s : State) (l : LoadRef) (a : Word) : Option Nat :=
  ((s.slotTask l (opSlot a)).bind fun x => findRun x.runs (opVa a) none).bind fun r =>
    if r.grouped then some r.fmt else none

/-- Bytes of the read range that begins at an operand, where n words of the firing are left (R499): the words from there on
that lie on grouped pages of one format. No range begins at an ungrouped page, or where the firing's word before lies on
pages of the same format. -/
def State.rangeAt (s : State) (l : LoadRef) (a : Word) (first : Bool) (n : Nat) : Nat :=
  match s.groupFmt l a with
  | none => 0
  | some t =>
    if !first && s.groupFmt l (setFld a 0 57 (opVa a - 8)) == some t then 0
    else 8 * ((List.range n).takeWhile fun i => s.groupFmt l (addVa a (8 * i)) == some t).length

/-- Checks of n consecutive words, each read range for geometry at its first word. -/
def State.checkWords (s : State) (l : LoadRef) (a : Word) (n : Nat) (k : Need) : List Checked :=
  (List.range n).map fun i =>
    let b := addVa a (8 * i)
    s.check l b { k with range := s.rangeAt l b (i == 0) (n - i) }

/-- Words before the first that fails. -/
def okPrefix (cs : List Checked) : Nat := (cs.takeWhile fun c => decide (c.cause = 0)).length

/-! ### Gathers (R171, R173) -/

/-- Fields of a gather descriptor. -/
def gSlot (d : Word) : Nat := fld d 61 3
def gSz (d : Word) : Nat := fld d 57 4
def gBase (d : Word) : Nat := fld d 2 55 * 4
def gExt (d : Word) : Nat := fld d 0 2

/-- Whether a descriptor is in breach, for a range of SZ. -/
def gdescBad (lo hi : Nat) (d : Word) : Bool :=
  decide (gSz d < lo ∨ hi < gSz d) || gBase d % 2 ^ gSz d != 0

/-- Row address of an index. -/
def gRow (d : Word) (i : Nat) : Nat := (gBase d + i * 2 ^ gSz d) % 2 ^ 57

/-- The operand that names a row under its descriptor's slot. -/
def gOperand (d : Word) (va : Nat) : Word := BitVec.ofNat 64 (gSlot d * 2 ^ 61 + va)

/-- The checks of one lane (R171). A row beyond the address space lies in no run. -/
def State.checkLane (s : State) (l : LoadRef) (d : Word) (i : Nat) (w : Bool) : Checked :=
  let va := gBase d + i * 2 ^ gSz d
  if 2 ^ 57 ≤ va ∧ (s.slotTask l (gSlot d)).isSome then failed Cause.extent
  else
    s.check l (gOperand d va)
      ⟨false, 2 ^ gSz d, some (gExt d), false, if w then [0, 1] else [0, 1, 3], !w, w, if w then 0 else 2 ^ gSz d⟩

/-- Index width and lanes of GLD (R172). -/
def gldWidth (lane : Nat) : Nat := if lane < 2 then 32 else 16

/-- Active lanes with their indexes, in lane order. -/
def gldLanes (lane : Nat) (idx : Word) : List (Nat × Nat) :=
  let w := gldWidth lane
  ((lanes w idx).mapIdx fun k x => (k, x)).filter fun p => decide (p.2 ≠ 2 ^ w - 1)

end Sys2Proof.Machine
end

