-- ==== Sys2Proof/Machine/Mpe.lean ====
section
/-! DEFINITION. The firings of memory port elements: each takes its credits, opens a reply group and leaves an access
to be issued in the next clock (R172, R176, R274 to R283, R318, R352, R385, R408, R421). -/

namespace Sys2Proof.Machine

open Sys2Proof

/-- Which credits a firing takes. -/
inductive Cred where
  | none | rd (n : Nat) | wr | lane (n : Nat) | rem
deriving DecidableEq, Repr

/-- Take credits. -/
def MpeState.take (m : MpeState) (c : Cred) : MpeState :=
  match c with
  | .none => m
  | .rd n => { m with rdCred := m.rdCred - n }
  | .wr => { m with wrCred := m.wrCred - 1 }
  | .lane n => { m with laneCred := m.laneCred - n }
  | .rem => { m with remCred := m.remCred - 1 }

def Elem.setMpe (e : Elem) (m : MpeState) : Elem := { e with mpe := m }

/-- A firing that asks for op: its group and its issue, named by State.nextId. pass is the pass of an ASTWR. -/
def Ctx.ask (c : Ctx) (op : MOp) (n : Nat) (a b : Word) (cred : Cred) (outcome later : Bool)
    (last : Bool := false) (pass : Nat := 0) : Fired :=
  let gid := c.s.nextId
  let dst := c.f.dst.toNat
  let g : RGroup :=
    { gid := gid, op := op, dst := dst, lane := c.f.lane.toNat, n := n, a := a, b := b, pass := pass, slot := c.n,
      cells := [], opened := true, owes := isOut dst && (op != .astwr || last),
      pred := if later then some (c.f.pidx.toNat, c.f.pmode.toNat) else none, outc := false }
  let i : Issue :=
    { gid := gid, op := op, lane := c.f.lane.toNat, n := n, a := a, b := b, born := c.s.clock, last := last, got := [] }
  let m := c.e.mpe.take cred
  { c.silent outcome with
    e := c.e.setMpe { m with issueQ := m.issueQ ++ [i], groups := m.groups ++ [g] }
    ids := 1
    predLater := later }

/-- An instruction of one address source. -/
def ask1 (op : MOp) (cred : SlotF → Cred) (outc : Ctx → Word → Bool) (c : Ctx) : Except ETrap Fired := do
  let a ← c.read1 c.f.srca.toNat .int
  return c.ask op c.f.srcb.toNat a.val 0 (cred c.f) (outc c a.val) false

/-- An instruction of an address and a value. -/
def ask2 (op : MOp) (kb : Cls) (cred : Cred) (later : Bool) (c : Ctx) : Except ETrap Fired := do
  let (a, b) ← c.read2 c.f.srca.toNat .int c.f.srcb.toNat kb
  return c.ask op 0 a.val b.val cred true later

/-! ### Loads and stores (R276 to R280) -/

def bodyLd (c : Ctx) : Except ETrap Fired := ask1 .ld (fun _ => .rd 1) (fun _ a => outNz a) c
def execLd (f : SlotF) (s : State) : Out := fireSlot s f bodyLd

/-- LDF: the outcome is that of the checks as they stand at the firing (R277, R258; log 33). -/
def ldfOutcome (c : Ctx) (a : Word) : Bool :=
  let n := c.f.srcb.toNat + 1
  okPrefix (c.s.checkWords c.e.ref.load a n (needRead 0)) == n

def bodyLdf (c : Ctx) : Except ETrap Fired := ask1 .ldf (fun f => .rd (f.srcb.toNat + 1)) ldfOutcome c
def execLdf (f : SlotF) (s : State) : Out := fireSlot s f bodyLdf

def bodySt (c : Ctx) : Except ETrap Fired := ask2 .st .none .wr false c
def execSt (f : SlotF) (s : State) : Out := fireSlot s f bodySt
def bodyStClr (c : Ctx) : Except ETrap Fired := ask1 .stClr (fun _ => .wr) (fun _ _ => true) c
def execStClr (f : SlotF) (s : State) : Out := fireSlot s f bodyStClr
def bodySto (c : Ctx) : Except ETrap Fired := ask2 .sto .none .wr false c
def execSto (f : SlotF) (s : State) : Out := fireSlot s f bodySto
def bodyStoClr (c : Ctx) : Except ETrap Fired := ask1 .stoClr (fun _ => .wr) (fun _ _ => true) c
def execStoClr (f : SlotF) (s : State) : Out := fireSlot s f bodyStoClr

/-- PLD: an unbound window of a dispatched task traps (R273). -/
def bodyPld (c : Ctx) : Except ETrap Fired := do
  let a ← c.read1 c.f.srca.toNat .int
  let k := c.f.srcb.toNat
  match c.s.slotTask c.e.ref.load (opSlot a.val) with
  | some x =>
    if (x.wins.getD k none).isNone then throw (c.trap Cause.paramUnbound 0)
    else return c.ask .pld k a.val 0 .none true false
  | none => return c.ask .pld k a.val 0 .none true false

def execPld (f : SlotF) (s : State) : Out := fireSlot s f bodyPld

/-- What WLD asks of its pages (R259, R279). -/
def needWld : Need := ⟨true, 8, none, false, [3], true, false, 0⟩

/-- WLD: true when every word is in bounds, by the checks as they stand at the firing (R279; log 33). -/
def wldOutcome (c : Ctx) (a : Word) : Bool :=
  let n := 2 ^ c.f.srcb.toNat
  okPrefix (c.s.checkWords c.e.ref.load a n needWld) == n

def bodyWld (c : Ctx) : Except ETrap Fired := ask1 .wld (fun f => .rd (2 ^ f.srcb.toNat)) wldOutcome c
def execWld (f : SlotF) (s : State) : Out := fireSlot s f bodyWld

def bodyFence (c : Ctx) : Except ETrap Fired := .ok (c.ask .fence c.f.srca.toNat 0 0 .none true false)
def execFence (f : SlotF) (s : State) : Out := fireSlot s f bodyFence

/-! ### Gathers and scatters (R171 to R176) -/

/-- GLD: a bad descriptor traps, after the residue and class of SRCA (DEDUCED, log 17); the outcome is mask complete, by
the checks as they stand at the firing. -/
def bodyGld (c : Ctx) : Except ETrap Fired := do
  let (a, b) ← c.read2 c.f.srca.toNat .int c.f.srcb.toNat .none
  if gdescBad 3 11 b.val then throw (c.trap Cause.gdesc 0)
  else
    let ls := gldLanes c.f.lane.toNat a.val
    let good := ls.all fun p => (c.s.checkLane c.e.ref.load b.val p.2 false).cause == 0
    return c.ask .gld 0 a.val b.val (.lane ls.length) good false

def execGld (f : SlotF) (s : State) : Out := fireSlot s f bodyGld

/-- SST. -/
def bodySst (c : Ctx) : Except ETrap Fired := do
  let (a, b) ← c.read2 c.f.srca.toNat .coord c.f.srcb.toNat .none
  if gdescBad 2 2 b.val then throw (c.trap Cause.gdesc 0)
  else
    let good := (c.s.checkLane c.e.ref.load b.val (coordOf a.val) true).cause == 0
    return c.ask .sst 0 a.val b.val (.lane 1) good false

def execSst (f : SlotF) (s : State) : Out := fireSlot s f bodySst

/-! ### Address generators (R281 to R283) -/

def MpeState.gen (m : MpeState) (g : Nat) : AddrGen := m.ag.getD g AddrGen.init
def MpeState.setGen (m : MpeState) (g : Nat) (x : AddrGen) : MpeState := { m with ag := putAt AddrGen.init m.ag g x }

/-- The address of the present indexes (R282): sums wrap at 64 bits. -/
def AddrGen.addr (g : AddrGen) : Word :=
  BitVec.ofInt 64 ((g.base.toNat : Int) +
    ((List.range 4).foldl (fun t k => t + (g.idx.getD k 0 : Int) * g.s.getD k 0) 0))

/-- Levels that close at the present indexes, counted from level j on. -/
def AddrGen.closes (g : AddrGen) : Nat → Nat → Nat
  | 0, j => j
  | n + 1, j => if j < g.nl ∧ g.idx.getD j 0 + 1 = g.c.getD j 1 then g.closes n (j + 1) else j

/-- The generator after one address, and the number of levels that closed; all NL closed ends the nest (R282). -/
def AddrGen.step (g : AddrGen) : AddrGen × Nat :=
  let j := g.closes 4 0
  let idx := g.idx.mapIdx fun k x => if k < j then 0 else if k = j ∧ j < g.nl then x + 1 else x
  ({ g with idx := idx }, j)

/-- AGCFG: writes one field; a bad value traps (R281). -/
def bodyAgcfg (c : Ctx) : Except ETrap Fired := do
  let a ← c.read1 c.f.srca.toNat .int
  let gi := c.f.srcb.toNat / 8
  let k := c.f.srcb.toNat % 8
  let g := c.e.mpe.gen gi
  let put (x : AddrGen) : Fired := { c.silent true with e := c.e.setMpe (c.e.mpe.setGen gi x) }
  if k ≤ 3 then
    let cnt := fld a.val 0 32
    let str := sgn 32 (fld a.val 32 32)
    if cnt = 0 ∨ str % 8 ≠ 0 then throw (c.trap Cause.agdesc 0)
    else return put { g with c := putAt 1 g.c k cnt, s := putAt 0 g.s k str }
  else if k = 4 then return put { g with base := a.val }
  else
    if fld a.val 2 62 ≠ 0 then throw (c.trap Cause.agdesc 0)
    else return put { g with nl := fld a.val 0 2 + 1 }

def execAgcfg (f : SlotF) (s : State) : Out := fireSlot s f bodyAgcfg

/-- ASTRM: the generator reads from its first address on (R282). -/
def bodyAstrm (c : Ctx) : Except ETrap Fired :=
  let gi := c.f.srca.toNat
  let x := c.ask .astrm gi 0 0 .none true false
  let m := x.e.mpe
  let g := { m.gen gi with st := 1, idx := List.replicate 4 0, gid := c.s.nextId, more := true, born := c.s.clock }
  .ok { x with e := x.e.setMpe { m.setGen gi g with issueQ := c.e.mpe.issueQ } }

def execAstrm (f : SlotF) (s : State) : Out := fireSlot s f bodyAstrm

/-- ASTWR: the firing takes the next address of the nest; the last one ends the pass (R283). -/
def bodyAstwr (c : Ctx) : Except ETrap Fired := do
  let a ← c.read1 c.f.srca.toNat .none
  let gi := c.f.srcb.toNat
  let g0 := c.e.mpe.gen gi
  let g := if g0.st = 0 then { g0 with st := 2, idx := List.replicate 4 0, gid := c.s.nextId } else g0
  let (g', j) := g.step
  let last := decide (j = g.nl)
  let x := c.ask .astwr gi g.addr a.val .wr true false last g.gid
  return { x with e := x.e.setMpe (x.e.mpe.setGen gi (if last then { g' with st := 0 } else g')) }

def execAstwr (f : SlotF) (s : State) : Out := fireSlot s f bodyAstwr

/-! ### Atomics at memory and task requests (R352, R353) -/

def bodyAadd (c : Ctx) : Except ETrap Fired := ask2 .aadd .int .wr true c
def execAadd (f : SlotF) (s : State) : Out := fireSlot s f bodyAadd
def bodyAmin (c : Ctx) : Except ETrap Fired := ask2 .amin .int .wr true c
def execAmin (f : SlotF) (s : State) : Out := fireSlot s f bodyAmin
def bodyAmax (c : Ctx) : Except ETrap Fired := ask2 .amax .int .wr true c
def execAmax (f : SlotF) (s : State) : Out := fireSlot s f bodyAmax
def bodyAand (c : Ctx) : Except ETrap Fired := ask2 .aand .int .wr true c
def execAand (f : SlotF) (s : State) : Out := fireSlot s f bodyAand
def bodyAor (c : Ctx) : Except ETrap Fired := ask2 .aor .int .wr true c
def execAor (f : SlotF) (s : State) : Out := fireSlot s f bodyAor
def bodyAxch (c : Ctx) : Except ETrap Fired := ask2 .axch .none .wr true c
def execAxch (f : SlotF) (s : State) : Out := fireSlot s f bodyAxch
def bodyAcas (c : Ctx) : Except ETrap Fired := ask2 .acas .int .wr true c
def execAcas (f : SlotF) (s : State) : Out := fireSlot s f bodyAcas
def bodyAfadd (c : Ctx) : Except ETrap Fired := ask2 .afadd (.fp 4) .wr true c
def execAfadd (f : SlotF) (s : State) : Out := fireSlot s f bodyAfadd

/-- TKEN, TKDEC, QPUT and TKST: the request of one source and a raw number. -/
def askTask (op : MOp) (ka : Cls) (c : Ctx) : Except ETrap Fired := do
  let a ← c.read1 c.f.srca.toNat ka
  return c.ask op c.f.srcb.toNat a.val 0 .wr true true

def bodyTken (c : Ctx) : Except ETrap Fired := askTask .tken .int c
def execTken (f : SlotF) (s : State) : Out := fireSlot s f bodyTken
def bodyTkdec (c : Ctx) : Except ETrap Fired := askTask .tkdec .int c
def execTkdec (f : SlotF) (s : State) : Out := fireSlot s f bodyTkdec
def bodyTkdecRet (c : Ctx) : Except ETrap Fired := askTask .tkdecRet .int c
def execTkdecRet (f : SlotF) (s : State) : Out := fireSlot s f bodyTkdecRet
def bodyQput (c : Ctx) : Except ETrap Fired := askTask .qput .none c
def execQput (f : SlotF) (s : State) : Out := fireSlot s f bodyQput
def bodyTkst (c : Ctx) : Except ETrap Fired := askTask .tkst .int c
def execTkst (f : SlotF) (s : State) : Out := fireSlot s f bodyTkst
def bodyTkstClr (c : Ctx) : Except ETrap Fired := askTask .tkstClr .int c
def execTkstClr (f : SlotF) (s : State) : Out := fireSlot s f bodyTkstClr
def bodyTkstAbn (c : Ctx) : Except ETrap Fired := askTask .tkstAbn .int c
def execTkstAbn (f : SlotF) (s : State) : Out := fireSlot s f bodyTkstAbn

/-! ### Arbor operations (R318, R319) -/

def bodyAld (c : Ctx) : Except ETrap Fired := ask2 .ald .int (.rd 1) false c
def execAld (f : SlotF) (s : State) : Out := fireSlot s f bodyAld
def bodyAst (c : Ctx) : Except ETrap Fired := ask2 .ast .coord .wr false c
def execAst (f : SlotF) (s : State) : Out := fireSlot s f bodyAst
def bodyAaddc (c : Ctx) : Except ETrap Fired := ask2 .aaddc .coord .wr false c
def execAaddc (f : SlotF) (s : State) : Out := fireSlot s f bodyAaddc
def bodyAiter (c : Ctx) : Except ETrap Fired := ask2 .aiter .int (.rd 1) false c
def execAiter (f : SlotF) (s : State) : Out := fireSlot s f bodyAiter
def bodyAcnt (c : Ctx) : Except ETrap Fired := ask2 .acnt .int (.rd 1) false c
def execAcnt (f : SlotF) (s : State) : Out := fireSlot s f bodyAcnt
def bodyAcntH (c : Ctx) : Except ETrap Fired := ask1 .acntH (fun _ => .rd 1) (fun _ _ => true) c
def execAcntH (f : SlotF) (s : State) : Out := fireSlot s f bodyAcntH

/-! ### Engine and reduction commands (R385, R421) -/

def bodyCpy (c : Ctx) : Except ETrap Fired := ask2 .cpy .int .wr true c
def execCpy (f : SlotF) (s : State) : Out := fireSlot s f bodyCpy
def bodyCve (c : Ctx) : Except ETrap Fired := ask2 .cve .int .wr true c
def execCve (f : SlotF) (s : State) : Out := fireSlot s f bodyCve
def bodyDensQ (c : Ctx) : Except ETrap Fired := ask2 .densQ .int .wr true c
def execDensQ (f : SlotF) (s : State) : Out := fireSlot s f bodyDensQ
def bodyDensS (c : Ctx) : Except ETrap Fired := ask2 .densS .int .wr true c
def execDensS (f : SlotF) (s : State) : Out := fireSlot s f bodyDensS
def bodyDred (c : Ctx) : Except ETrap Fired := ask2 .dred .int .wr true c
def execDred (f : SlotF) (s : State) : Out := fireSlot s f bodyDred
def bodyDrrecvR (c : Ctx) : Except ETrap Fired := ask2 .drrecvR .int .wr true c
def execDrrecvR (f : SlotF) (s : State) : Out := fireSlot s f bodyDrrecvR
def bodyDrrecvW (c : Ctx) : Except ETrap Fired := ask2 .drrecvW .int .wr true c
def execDrrecvW (f : SlotF) (s : State) : Out := fireSlot s f bodyDrrecvW

/-- DRCLOSE has one source and the order input (R421). -/
def askClose (op : MOp) (c : Ctx) : Except ETrap Fired := do
  let a ← c.read1 c.f.srca.toNat .int
  return c.ask op 0 a.val 0 .wr true true

def bodyDrclose (c : Ctx) : Except ETrap Fired := askClose .drclose c
def execDrclose (f : SlotF) (s : State) : Out := fireSlot s f bodyDrclose
def bodyDrcloseW (c : Ctx) : Except ETrap Fired := askClose .drcloseW c
def execDrcloseW (f : SlotF) (s : State) : Out := fireSlot s f bodyDrcloseW

/-! ### Remote loads and stores (R408 to R411) -/

def bodyRld (c : Ctx) : Except ETrap Fired := ask1 .rld (fun f => .rd (f.srcb.toNat + 1)) (fun _ _ => true) c
def execRld (f : SlotF) (s : State) : Out := fireSlot s f bodyRld
def bodyRst (c : Ctx) : Except ETrap Fired := ask2 .rst .none .rem false c
def execRst (f : SlotF) (s : State) : Out := fireSlot s f bodyRst
def bodyRstAck (c : Ctx) : Except ETrap Fired := ask2 .rstAck .none .rem false c
def execRstAck (f : SlotF) (s : State) : Out := fireSlot s f bodyRstAck

end Sys2Proof.Machine
end

