-- ==== Sys2Proof/Machine/Issue.lean ====
section
/-! DEFINITION. The issue of memory accesses in the clock after their firing, and the reply groups they fill (R171 to
R176, R260, R273 to R283). -/

namespace Sys2Proof.Machine

open Sys2Proof

/-! ### Reply groups (R275) -/

def State.modMpe (s : State) (r : ElemRef) (f : MpeState → MpeState) : State :=
  s.modElem r fun e => e.setMpe (f e.mpe)

def MpeState.group? (m : MpeState) (gid : Nat) : Option RGroup := m.groups.find? fun g => decide (g.gid = gid)

def MpeState.modGroup (m : MpeState) (gid : Nat) (f : RGroup → RGroup) : MpeState :=
  { m with groups := m.groups.map fun g => if g.gid = gid then f g else g }

def State.modGroup (s : State) (r : ElemRef) (gid : Nat) (f : RGroup → RGroup) : State :=
  s.modMpe r fun m => m.modGroup gid f

/-- Give credits back: 1 read, 2 lane, 3 write, 4 remote (R275, R174, R410). -/
def MpeState.credit (m : MpeState) (kind n : Nat) : MpeState :=
  match kind with
  | 1 => { m with rdCred := m.rdCred + n }
  | 2 => { m with laneCred := m.laneCred + n }
  | 3 => { m with wrCred := m.wrCred + n }
  | 4 => { m with remCred := m.remCred + n }
  | _ => m

def State.giveCredit (s : State) (r : ElemRef) (kind n : Nat) : State := s.modMpe r fun m => m.credit kind n

/-- Append a cell under a new name. -/
def State.addCell (s : State) (r : ElemRef) (gid : Nat) (rep : Reply) (credit due : Nat) : State :=
  { s.modGroup r gid (fun g => { g with cells := g.cells ++ [⟨s.nextId, rep, credit, due⟩] }) with
    nextId := s.nextId + 1 }

/-- No more cells follow. -/
def State.closeGroup (s : State) (r : ElemRef) (gid : Nat) : State :=
  s.modGroup r gid fun g => { g with opened := false }

/-- Whether a reply is a failure. -/
def Reply.fails (x : Reply) : Bool :=
  match x with
  | .tok t => t.isFault
  | .trap _ _ => true
  | _ => false

/-- Fill a cell, which may enter DST from clock due on. A failure replaces the whole reply of an RLD (R409). -/
def State.reply (s : State) (r : ElemRef) (gid cell : Nat) (rep : Reply) (due : Nat) : State :=
  s.modGroup r gid fun g =>
    if g.op = .rld ∧ rep.fails then
      { g with cells := g.cells.mapIdx fun k c => { c with r := if k = 0 then rep else .silent, due := due } }
    else
      { g with cells := g.cells.map fun c => if c.id = cell ∧ c.r = .wait then { c with r := rep, due := due } else c }

/-- The outcome that PMODE applies with the first reply (R353). -/
def State.setOutc (s : State) (r : ElemRef) (gid : Nat) (b : Bool) : State :=
  s.modGroup r gid fun g => { g with outc := b }

/-- What a failure becomes: a FAULT token, or the element's trap when the firing has DST 15 (R260); nothing for a plain
RST (R410). -/
def RGroup.faultReply (g : RGroup) (site cause detail : Nat) : Reply :=
  if g.op = .rst then .silent
  else if g.dst = 15 then .trap cause (eDetail site g.slot 0) else .tok (faultTok cause detail)

def State.group? (s : State) (r : ElemRef) (gid : Nat) : Option RGroup :=
  match s.elem? r with
  | some e => e.mpe.group? gid
  | none => none

/-- DST of a group. -/
def State.groupDst (s : State) (r : ElemRef) (gid : Nat) : Nat :=
  match s.group? r gid with
  | some g => g.dst
  | none => 15

/-- The reply of a failure of an access at an address. -/
def State.failReply (s : State) (r : ElemRef) (gid cause va : Nat) : Reply :=
  match s.group? r gid with
  | some g => g.faultReply r.site cause (vaDetail va)
  | none => .silent

/-- An operand: SLOT and a virtual address. -/
def slotVa (slot va : Nat) : Word := BitVec.ofNat 64 (slot * 2 ^ 61 + va)

/-- The operand of the access of a stream that failed, for its replay entry (R441). -/
def State.failAt (s : State) (r : ElemRef) (gid : Nat) (a : Word) : State :=
  s.modGroup r gid fun g => if g.op = .astrm then { g with a := a } else g

/-- A check that failed at issue: its reply enters 3 clocks later (R260). -/
def State.failCell (s : State) (r : ElemRef) (gid cause va credit : Nat) : State :=
  s.addCell r gid (s.failReply r gid cause va) credit (s.clock + 3)

/-! ### Accesses (R275, R288) -/

def MemOp.isWrite (o : MemOp) : Bool :=
  match o with
  | .write _ => true
  | .write32 _ => true
  | .clear => true
  | .atomic _ _ _ => true
  | _ => false

/-- Clocks of an access with no waits: an atomic takes those of the word it acts on and 20 of the SYE, 20 in all for a
word of the SYE window (R355, R275). -/
def accLat (op : MemOp) (die pt a : Nat) : Nat :=
  match op with
  | .atomic _ _ _ => (match regionOf a 1 with | .sye _ => 2 | _ => 20) + memLat die pt a
  | _ => memLat die pt a

/-- Issue an access, whose reply is a new cell of its group. -/
def State.issueAcc (s : State) (e : Elem) (gid : Nat) (op : MemOp) (slot va : Nat) (c : Checked) (credit : Nat) :
    State :=
  let r := e.ref
  let lat := accLat op r.die e.ptile c.pa
  let due0 := s.clock + lat / 2 + s.waitNow
  let due := if op.isWrite then s.behind e.obs c.pa due0 else due0
  let own := min due (s.clock + Config.wait (s.freeCount + 1))
  let tile := min due (own + Config.wait (s.freeCount + 2))
  let a : Access :=
    { id := s.nextId, ref := r, tile := pkgTile r.die e.ptile, gid := gid, cell := s.nextId, op := op, pa := c.pa, va := va,
      fmt := c.run.fmt,
      cls := c.run.cls, slot := slot, due := due, back := lat - lat / 2,
      ownAt := own, tileAt := tile, dieAt := min due (tile + Config.wait (s.freeCount + 3)), deferred := false,
      held := false, taken := false }
  let s1 := s.addCell r gid .wait credit 0
  { s1 with accs := s1.accs ++ [a], freeCount := s1.freeCount + 4 }

/-- One access of an operand: its checks, then its issue or its failure. -/
def State.issueOne (s : State) (e : Elem) (gid : Nat) (op : MemOp) (a : Word) (k : Need) (credit : Nat) : State × Bool :=
  let c := s.check e.ref.load a k
  if c.cause = 0 then (s.issueAcc e gid op (opSlot a) (opVa a) c credit, true)
  else (s.failCell e.ref gid c.cause (opVa a) credit, false)

/-- Consecutive words from an operand, already checked. -/
def State.issueWords (s : State) (e : Elem) (gid : Nat) (a : Word) (credit : Nat) : List Checked → Nat → State
  | [], _ => s
  | c :: cs, k =>
    (s.issueAcc e gid .read (opSlot a) (opVa (addVa a (8 * k))) c credit).issueWords e gid a credit cs (k + 1)

/-! ### Loads (R276, R277, R279, R273) -/

def issueLd (s : State) (e : Elem) (i : Issue) : State :=
  ((s.issueOne e i.gid .read i.a (needRead 8) 1).1).closeGroup e.ref i.gid

/-- LDF: the mask token, then the valid words, or the FAULT token of word 0 (R277). -/
def issueLdf (s : State) (e : Elem) (i : Issue) : State :=
  let n := i.n + 1
  let cs := s.checkWords e.ref.load i.a n (needRead 0)
  let k := okPrefix cs
  let m : Word := BitVec.ofNat 64 (2 ^ k - 1 + (2 ^ n - 1) * 2 ^ 16)
  let s0 := s.addCell e.ref i.gid (.tok (dataTok 0 m)) 0 (s.clock + 3)
  let s1 := s0.modGroup e.ref i.gid fun g => { g with pass := s0.nextId }
  let s2 :=
    if k = 0 then
      (s1.failCell e.ref i.gid (match cs.head? with | some c => c.cause | none => 0) (opVa i.a) 1).giveCredit
        e.ref 1 (n - 1)
    else (s1.issueWords e i.gid i.a 1 (cs.take k) 0).giveCredit e.ref 1 (n - k)
  s2.closeGroup e.ref i.gid

def issueWld (s : State) (e : Elem) (i : Issue) : State :=
  let n := 2 ^ i.n
  let cs := s.checkWords e.ref.load i.a n needWld
  let k := okPrefix cs
  let s1 :=
    if k = n then s.issueWords e i.gid i.a 1 cs 0
    else
      (s.failCell e.ref i.gid (match cs[k]? with | some c => c.cause | none => 0) (opVa (addVa i.a (8 * k))) 1).giveCredit
        e.ref 1 (n - 1)
  s1.closeGroup e.ref i.gid

/-- Address of word i of window k of a slot in a tile's parameter buffer (R272). -/
def paramAddr (die pt slot k i : Nat) : Nat := paramBase die pt + slot * 2048 + k * 512 + 8 * i

/-- PLD: the reply enters 4 clocks after issue (R273). -/
def issuePld (s : State) (e : Elem) (i : Issue) : State :=
  let idx := fld i.a 0 61
  let t := match s.slotTask e.ref.load (opSlot i.a) with
    | none => accFault Cause.noslot i.a
    | some x =>
      match x.wins.getD i.n none with
      | none => accFault Cause.noslot i.a
      | some m =>
        if m < idx then faultTok Cause.paramBound idx
        else dataTok 0 (s.word (paramAddr e.ref.die e.ptile (opSlot i.a) i.n idx))
  (s.addCell e.ref i.gid (.tok t) 0 (s.clock + 4)).closeGroup e.ref i.gid

/-! ### Stores (R278) -/

/-- A store: one that fails its checks returns its credit at once. -/
def State.issueStore (s : State) (e : Elem) (gid : Nat) (op : MemOp) (a : Word) (k : Need) : State × Bool :=
  let (s1, ok) := s.issueOne e gid op a k 0
  (if ok then s1 else s1.giveCredit e.ref 3 1, ok)

def issueSt (s : State) (e : Elem) (i : Issue) : State :=
  ((s.issueStore e i.gid (.write i.b) i.a needWrite).1).closeGroup e.ref i.gid

/-- The .clr forms reach PRESENCE pages only (R278). -/
def issueClr (s : State) (e : Elem) (i : Issue) : State :=
  ((s.issueStore e i.gid .clear i.a { needWrite with classes := [1] }).1).closeGroup e.ref i.gid

/-! ### FENCE (R280) -/

/-- A FENCE is issued: its token waits. -/
def issueFence (s : State) (e : Elem) (i : Issue) : State :=
  (s.addCell e.ref i.gid .wait 0 (s.clock + 1)).closeGroup e.ref i.gid

/-- Whether an access of the MPE counts as performed at a scope for a FENCE (R280, R288): a read that holds its deferral
entry; a write by the scope. A DRAIN token is no access (R308). -/
def State.performedAt (s : State) (w : Access) (scope : Nat) : Bool :=
  w.deferred || w.op.isDrain || s.writtenAt w scope

/-- Whether a remote request counts as performed at a scope narrower than DOMAIN before its reply (R280, R288; log 94): a
store by the scope, and a read that its target may defer by the clock its request may have reached it. -/
def Remote.performedAt (x : Remote) (clock scope : Nat) : Bool :=
  match x.what with
  | .rst _ =>
    decide ((match scope with
      | 0 => x.ownAt
      | 1 => x.tileAt
      | 3 => x.packAt
      | _ => x.dieAt) ≤ clock) && scope != 4
  | .rld _ => x.cls == 1 && decide (x.packAt ≤ clock)
  | _ => false

/-- Whether the words of a gather entry count as performed: each is fixed or holds its deferral entry. -/
def GdeEntry.read (g : GdeEntry) : Bool := g.got.all fun x => x != .todo

/-- Whether everything the MPE issued before the FENCE is performed at its scope; a traversal counts until its last
step, and a firing whose request still waits to leave counts too. -/
def State.fenceDone (s : State) (r : ElemRef) (gid cell scope : Nat) : Bool :=
  (s.accs.all fun w => w.ref != r || decide (cell ≤ w.id) || s.performedAt w scope) &&
  (s.remotes.all fun x => x.ref != r || decide (gid < x.gid) || x.performedAt s.clock scope) &&
  (s.dies.all fun d =>
    (d.gde.all fun g => g.read || g.reqs.all fun q => q.ref != r || decide (gid < q.gid)) &&
    (d.gdeWait.all fun w => w.req.ref != r || decide (gid < w.req.gid))) &&
  (match s.elem? r with
   | some e => e.mpe.travs.all (fun t => decide (gid < t.gid)) && e.mpe.issueQ.all fun i => decide (gid < i.gid)
   | none => true)

/-! ### Gathers and scatters (R172 to R176) -/

/-- The FAULT token of a lane (R172). -/
def laneFault (cause lane idx : Nat) : Tok := faultTok cause (lane * 2 ^ 32 + idx % 2 ^ 32)

/-- Cells of one lane performed: one for each token of its row; the last returns the lane credit. -/
def State.laneCells (s : State) (r : ElemRef) (gid : Nat) : Nat → State × List Nat
  | 0 => (s, [])
  | n + 1 =>
    let id := s.nextId
    let (s2, ids) := (s.addCell r gid .wait (if n = 0 then 2 else 0) 0).laneCells r gid n
    (s2, id :: ids)

/-- An entry that a request may join: the same key, none of its words read yet (R175). -/
def gdeJoins (pa sz : Nat) (x : GdeEntry) : Bool := decide (x.pa = pa ∧ x.sz = sz) && x.got.all fun y => y == .todo

/-- Clocks from a lane request to its read. -/
def State.gdeLat (s : State) (q : GReq) (pa : Nat) : Nat :=
  match s.elem? q.ref with
  | some e => memLat q.ref.die e.ptile pa
  | none => 0

/-- Whether a GDE takes a request at once: it joins an open entry, or a place is free (R175). -/
def Die.gdeTakes (d : Die) (pa sz : Nat) : Bool := d.gde.any (gdeJoins pa sz) || decide (d.gde.length < 256)

/-- A request that joins an entry or opens one, which is then named id and read from clock due on. -/
def Die.gdeEnter (d : Die) (id due : Nat) (w : GdeWait) : Die :=
  if d.gde.any (gdeJoins w.pa w.sz) then
    { d with gde := d.gde.map fun x => if gdeJoins w.pa w.sz x then { x with reqs := x.reqs ++ [w.req] } else x }
  else
    { d with gde := d.gde ++ [{ id := id, pa := w.pa, sz := w.sz, cls := w.cls, reqs := [w.req], due := due,
                                got := List.replicate (2 ^ (w.sz - 3)) .todo, cause := 0 }] }

/-- A request enters the window of the die d. -/
def State.gdeOpen (s : State) (d : Nat) (w : GdeWait) : State :=
  let due := s.clock + s.gdeLat w.req w.pa / 2 + s.waitNow
  { s.tick.modDie d (fun x => x.gdeEnter s.nextId due w) with nextId := s.nextId + 1 }

/-- A lane request reaches the GDE of the row's home die: it joins an entry, opens one, or waits (R175). -/
def State.gdeRequest (s : State) (w : GdeWait) : State :=
  let d := homeDie w.pa
  match s.die? d with
  | none => s
  | some x =>
    if x.gdeTakes w.pa w.sz then s.gdeOpen d w else s.modDie d fun x => { x with gdeWait := x.gdeWait ++ [w] }

/-- Requests that waited enter a window in arrival order: all that it takes. -/
def State.gdeAdmit (s : State) (d : Nat) (ws : List GdeWait) : State :=
  ws.foldl (fun s w => s.gdeRequest w) (s.modDie d fun x => { x with gdeWait := [] })

/-- Admit what waits at a die. -/
def State.gdeDrain (s : State) (d : Nat) : State :=
  match s.die? d with
  | none => s
  | some x => s.gdeAdmit d x.gdeWait

/-- One lane: its row's cells and its request, or its FAULT token. -/
def State.issueLane (s : State) (e : Elem) (i : Issue) (p : Nat × Nat) : State :=
  let c := s.checkLane e.ref.load i.b p.2 false
  if c.cause ≠ 0 then s.addCell e.ref i.gid (.tok (laneFault c.cause p.1 p.2)) 2 (s.clock + 3)
  else
    let (s1, ids) := s.laneCells e.ref i.gid (2 ^ (gSz i.b - 3))
    s1.gdeRequest ⟨c.pa, gSz i.b, c.run.cls, ⟨e.ref, i.gid, ids, p.2, p.1, gSlot i.b, c.run.fmt⟩⟩

/-- GLD: the checks of the active lanes, and the requests of those performed (R172, R173). The credits of first-fault lanes
that are not performed return here (DESIGN CHOICE, log 109). -/
def issueGld (s : State) (e : Elem) (i : Issue) : State :=
  let ls := gldLanes i.lane i.a
  let s1 :=
    if i.lane % 2 = 0 ∨ ls.isEmpty then ls.foldl (fun s p => s.issueLane e i p) s
    else
      -- first-fault (R173)
      let good := ls.takeWhile fun p => decide ((s.checkLane e.ref.load i.b p.2 false).cause = 0)
      let bits (x : List (Nat × Nat)) : Nat := (x.map fun p => 2 ^ p.1).foldl (· + ·) 0
      let m : Word := BitVec.ofNat 64 (bits good + bits ls * 16)
      let s0 := s.addCell e.ref i.gid (.tok (dataTok 0 m)) 0 (s.clock + 3)
      let run := if good.isEmpty then ls.take 1 else good
      (run.foldl (fun s p => s.issueLane e i p) s0).giveCredit e.ref 2 (ls.length - run.length)
  s1.closeGroup e.ref i.gid

/-- SST: the 32-bit value at BASE + 4c (R176). The credit of one that fails its check returns here (DESIGN CHOICE, log 109). -/
def issueSst (s : State) (e : Elem) (i : Issue) : State :=
  let k := coordOf i.a
  let c := s.checkLane e.ref.load i.b k true
  let va := gRow i.b k
  let s1 :=
    if c.cause = 0 then s.issueAcc e i.gid (.write32 (BitVec.ofNat 32 (valueOf i.a))) (gSlot i.b) va c 0
    else (s.failCell e.ref i.gid c.cause va 0).giveCredit e.ref 2 1
  s1.closeGroup e.ref i.gid

/-! ### Generators (R282, R283) -/

/-- Bytes of the read range that begins at a generator's address: a fibre of level 0 is one range only when its stride is 8
(R499). -/
def State.fibreRange (s : State) (l : LoadRef) (g : AddrGen) : Nat :=
  let i := g.idx.getD 0 0
  if g.s.getD 0 0 = 8 then s.rangeAt l g.addr (i == 0) (g.c.getD 0 1 - i) else s.rangeAt l g.addr true 1

/-- ADDRESS_GENERATOR_ISSUE: the next address of a stream, with the END that its closing levels give (R282). -/
def execAddressGeneratorIssue (s : State) : Out :=
  withElemN s fun r n e =>
    let g := e.mpe.gen n
    if g.st ≠ 1 ∨ ¬ g.more ∨ s.clock ≤ g.born ∨ e.mpe.rdCred = 0 then s
    else
      let s0 := s.modMpe r fun m => { m with rdCred := m.rdCred - 1 }
      let (s1, ok) := s0.issueOne e g.gid .read g.addr (needRead (s.fibreRange r.load g)) 1
      let (g', j) := g.step
      let last := !ok || decide (j = g.nl)
      let s1 := if ok then s1 else s1.failAt r g.gid g.addr
      let s2 := if ok && decide (0 < j) then s1.addCell r g.gid (.tok (endTok (j - 1))) 0 0 else s1
      let s3 := if last then s2.closeGroup r g.gid else s2
      s3.modMpe r fun m => m.setGen n { g' with more := !last }

/-- ASTWR: a write of a pass. One that fails its checks ends the pass; the last one carries the pass's ORDER
(R283). -/
def issueAstwr (s : State) (e : Elem) (i : Issue) : State :=
  let pass := match e.mpe.group? i.gid with
    | some g => g.pass
    | none => 0
  let (s1, ok) := s.issueStore e i.gid (.write i.b) i.a needWrite
  let dst := s.groupDst e.ref i.gid
  let s2 :=
    if ok then (if i.last ∧ dst ≠ 15 then s1.addCell e.ref i.gid .wait 5 0 else s1)
    else
      s1.modMpe e.ref fun m =>
        let g := m.gen i.n
        if g.gid = pass ∧ g.st = 2 then m.setGen i.n { g with st := 0 } else m
  s2.closeGroup e.ref i.gid

end Sys2Proof.Machine
end

