-- ==== Sys2Proof/Machine/MemEdge.lean ====
section
/-! DEFINITION. The memory edges: accesses performed at their home, deferral entries, gather windows, atomics, and the
replies that enter the outputs of an MPE (R175, R263, R266, R267, R269, R275, R284, R353, R355). -/

namespace Sys2Proof.Machine

open Sys2Proof

/-! ### Deferral entries (R267) -/

/-- HBM stack of a local address (R247). -/
def stackOf (a : Nat) : Nat := 2 * (a / 0x1800000000) + a / 256 % 2

/-- Addresses of the words of a list that hold deferral entries, from an address up. -/
def deferredAt (a : Nat) (ws : List RWord) : List Nat :=
  ((List.range ws.length).filter fun k => ws.getD k .todo == .deferred).map fun k => a + 8 * k

def RemDefer.open (d : RemDefer) : List Nat := deferredAt d.req.addr d.got
def GdeEntry.open (g : GdeEntry) : List Nat := deferredAt g.pa g.got

/-- Words that hold a deferral entry of a stack. -/
def State.deferred (s : State) (st : Nat) : Nat :=
  let own := (s.accs.filter fun w => w.deferred).map (·.pa)
  let rem := s.remDefers.flatMap RemDefer.open
  let gde := s.dies.flatMap fun d => d.gde.flatMap GdeEntry.open
  ((own ++ rem ++ gde).filter fun a => decide (stackOf a = st)).length

/-! ### Replies of an access -/

/-- A performed access: it leaves the list and its reply travels back. -/
def State.accReply (s : State) (w : Access) (r : Reply) : State :=
  (s.dropAcc w.id).reply w.ref w.gid w.cell r (s.clock + w.back)

/-- A failure of a plain RST goes to the ERR of its task (R410). -/
def State.taskErr (s : State) (l : LoadRef) (slot cause : Nat) : State :=
  match s.slotTask l slot with
  | some x => s.addErr x.handle cause
  | none => s

/-- A performed access that failed (R260, R410). -/
def State.accFail (s : State) (w : Access) (cause : Nat) : State :=
  let s1 := match s.group? w.ref w.gid with
    | some g => if g.op = MOp.rst then s.taskErr w.ref.load w.slot cause else s.failAt w.ref w.gid (slotVa w.slot w.va)
    | none => s
  s1.accReply w (s.failReply w.ref w.gid cause w.va)

/-- Log an uncorrectable error for the element of an access (R451). -/
def State.logRef (s : State) (r : ElemRef) : State :=
  match s.elem? r with
  | some e => s.logElem e
  | none => s

/-- The value of a word that is fixed. -/
def RWord.val (x : RWord) : Word :=
  match x with
  | .fixed w => w
  | _ => 0

def RWord.isFixed (x : RWord) : Bool :=
  match x with
  | .fixed _ => true
  | _ => false

/-- Words of which that at an address a is served with a value. -/
def serveWords (base a : Nat) (v : Word) (ws : List RWord) : List RWord :=
  ws.mapIdx fun k w => if w = .deferred ∧ base + 8 * k = a then .fixed v else w

/-- Reply of a remote read once every word is fixed (R409). -/
def RemDefer.reply (d : RemDefer) : RemRep := ⟨d.req.src, d.req.tag, 0, d.got.map fun w => (w.val, residue w.val)⟩

/-- Answer the remote reads whose words are all fixed. -/
def State.answerReads (s : State) : State :=
  let done := s.remDefers.filter fun d => d.got.all RWord.isFixed
  { s with remDefers := s.remDefers.filter (fun d => !d.got.all RWord.isFixed)
           out := s.out ++ done.map fun d => .rep d.reply }

/-- Fix a word in the remote reads that wait for it, and answer those that wait no more. -/
def State.serveRemote (s : State) (a : Nat) (v : Word) : State :=
  let s1 : State := { s with remDefers := s.remDefers.map fun d => { d with got := serveWords d.req.addr a v d.got } }
  s1.answerReads

/-- Fix a word in the gather entries that wait for it. -/
def State.serveGde (s : State) (a : Nat) (v : Word) : State :=
  { s with dies := s.dies.map fun d => { d with gde := d.gde.map fun g => { g with got := serveWords g.pa a v g.got } } }

/-- Serve every deferral entry on a word that has been written, oldest first (R267). -/
def State.serve (s : State) (a : Nat) (v : Word) : State :=
  let ws := s.accs.filter fun w => w.deferred && w.pa == a
  let s1 := ws.foldl (fun s w => s.accReply w (.tok (dataTok (BitVec.ofNat 4 w.fmt) v))) s
  (s1.serveRemote a v).serveGde a v

/-- Write a word at home under its page's class; a cause when it is not performed (R266, R339). -/
def State.homeWrite (s : State) (a cls : Nat) (v : Word) : State × Nat :=
  if s.storeCause a ≠ 0 then (s, s.storeCause a)
  else if cls = 1 then
    if s.present a then (s, Cause.presenceRewrite)
    else (((s.putWord a v).setPresent a).serve a v, 0)
  else (s.putWord a v, 0)

/-- Store zero and clear presence (R266). -/
def State.homeClear (s : State) (a : Nat) : State × Nat :=
  if s.storeCause a ≠ 0 then (s, s.storeCause a) else ((s.putWord a 0).clearPresent a, 0)

/-! ### The writes of a pass (R283) -/

/-- The pass of an ASTWR firing. -/
def State.passOf (s : State) (r : ElemRef) (gid : Nat) : Option Nat :=
  match s.group? r gid with
  | some g => if g.op = .astwr then some g.pass else none
  | none => none

/-- After a write of a pass: its ORDER token, when no other write of the pass is outstanding. -/
def State.passOrder (s : State) (r : ElemRef) (pass due : Nat) : State :=
  if s.accs.any fun w => w.ref == r && s.passOf r w.gid == some pass then s
  else
    s.modMpe r fun m => { m with groups := m.groups.map fun g =>
      if g.op = .astwr ∧ g.pass = pass then
        { g with cells := g.cells.map fun c => if c.credit = 5 then { c with r := .tok (orderTok 3), due := due } else c }
      else g }

/-- A write performed: its credit returns, and its reply is an ORDER token or nothing (R275, R278, R283, R176). -/
def State.writeDone (s : State) (w : Access) (cause : Nat) : State :=
  let op : Option (MOp × Nat) := (s.group? w.ref w.gid).map fun g => (g.op, g.dst)
  let emits := match op with
    | some (o, d) => (o == MOp.sto || o == MOp.stoClr || o == MOp.sst || o == MOp.rstAck) && d != 15
    | none => false
  let kind := match op with
    | some (.sst, _) => 2
    | some (.rst, _) => 4
    | some (.rstAck, _) => 4
    | _ => 3
  let scope := match op with
    | some (.rstAck, _) => 4
    | _ => 3
  let s1 := if cause ≠ 0 then s.accFail w cause
    else (s.addSig w.ref.load w.slot w.va w.op.sigValue).accReply w (if emits then .tok (orderTok scope) else .silent)
  let s2 := s1.giveCredit w.ref kind 1
  match s.passOf w.ref w.gid with
  | some p => s2.passOrder w.ref p (s.clock + w.back)
  | none => s2

/-! ### MEMORY_EDGE_ACCESS -/

/-- The refresh group of a weight-store address, and the group refreshed now (R269). -/
def refreshing (clock a : Nat) : Bool :=
  match regionOf a 1 with
  | .weight => decide (a / 2 ^ 27 % 8 = clock % 4096 / 512)
  | _ => false

/-- A read at its home (R267, R269, R275). -/
def State.performRead (s : State) (w : Access) : State :=
  if refreshing s.clock w.pa then s.modAcc w.id fun w => { w with held := true }
  else if s.isBad w.pa then (s.accFail w Cause.uncorrectable).logRef w.ref
  else if w.cls = 1 ∧ ¬ s.present w.pa then
    if s.deferred (stackOf w.pa) < 2048 then
      { s.dropAcc w.id with accs := (s.dropAcc w.id).accs ++ [{ w with deferred := true }] }
    else s.accFail w Cause.deferFull
  else s.accReply w (.tok (dataTok (BitVec.ofNat 4 w.fmt) (s.valueFor w.obs w.pa)))

/-- A write of any form at its home. -/
def State.performWrite (s : State) (w : Access) (v : Word) : State :=
  let (s1, c) := s.homeWrite w.pa w.cls v
  s1.writeDone w c

/-- A half-word write keeps the other half: one to a word with an uncorrectable error is not performed, and fails with it
(R248, R451; log 96). -/
def State.performHalf (s : State) (w : Access) (v : BitVec 32) : State :=
  let a := wordOf w.pa
  if s.storeCause a = 0 ∧ s.isBad a then (s.writeDone w Cause.uncorrectable).logRef w.ref
  else
    let (s1, c) := s.homeWrite a w.cls (setHalf (s.word a) w.pa v)
    s1.writeDone w c

/-- A sequencer's load or store is performed; the value of a load enters its register (R369). -/
def State.performSeq (s : State) (w : Access) : State :=
  match w.op with
  | .seqRead reg n =>
    let v := fld (s.valueFor w.obs w.pa) (w.pa % 8 * 8) (8 * n)
    (s.dropAcc w.id).modSeq w.tile fun q => q.loaded reg w.id (s.clock + w.back) (BitVec.ofNat 64 v)
  | .seqWrite n v => (s.dropAcc w.id).storeN w.pa n v
  | _ => s

/-- Whether an access is one of a WLD, which no copy holds (R284). -/
def State.ofWld (s : State) (w : Access) : Bool :=
  match s.group? w.ref w.gid with
  | some g => g.op == .wld
  | none => false

/-- An access arrives at its home and is performed, held or deferred. -/
def State.perform (s : State) (w : Access) : State :=
  if w.deferred ∨ w.held ∨ s.clock < w.due then s
  else if w.op.ofSeq then
    if s.seqBehind w ∨ (¬ w.op.isStore ∧ s.readHeld w.obs w.pa) then s else s.performSeq w
  else if ¬ s.ofWld w ∧ s.sbHeld (wordOf w.pa) 8 w.op.isWrite then s
  else if w.op = .read ∧ s.readHeld w.obs w.pa then s
  else
    match w.op with
    | .read => s.performRead w
    | .write v => s.performWrite w v
    | .clear => let (s1, c) := s.homeClear w.pa; s1.writeDone w c
    | .write32 v => s.performHalf w v
    | _ => s

/-- What a word of several reads as at its home (R248, R267): a cause, or the word fixed or deferred. -/
def State.readWord (s : State) (cls a : Nat) : Except Nat RWord :=
  if s.isBad a then .error Cause.uncorrectable
  else if cls = 1 ∧ ¬ s.present a then
    if s.deferred (stackOf a) < 2048 then .ok .deferred else .error Cause.deferFull
  else .ok (.fixed (s.word a))

/-- Whether a word of a row is read later: in a refresh window (R269), over the destination of a copy (R284), or a write
in flight that a requester obtains (log 4). -/
def State.rowHeld (s : State) (g : GdeEntry) (a : Nat) : Bool :=
  refreshing s.clock a || s.sbHeld a 8 false ||
  g.reqs.any fun q => !(s.reached (s.obsOf q.ref) a).isEmpty

def State.modGde (s : State) (d id : Nat) (f : GdeEntry → GdeEntry) : State :=
  s.modDie d fun d => { d with gde := d.gde.map fun y => if y.id = id then f y else y }

/-- Read word k of a row, unless an error has stopped the row; an error is logged for one requester (R175, R451). -/
def State.rowWord (s : State) (d id k : Nat) : State :=
  match (s.die? d).bind fun x => x.gde.find? fun g => decide (g.id = id) with
  | none => s
  | some g =>
    let a := g.pa + 8 * k
    if g.cause ≠ 0 ∨ g.got.getD k .deferred ≠ .todo ∨ s.rowHeld g a then s
    else
      match s.readWord g.cls a with
      | .ok x => s.modGde d id fun g => { g with got := g.got.set k x }
      | .error c =>
        let s1 := if c = Cause.uncorrectable then (g.reqs.take 1).foldl (fun s q => s.logRef q.ref) s else s
        s1.modGde d id fun g => { g with cause := c, got := g.got.map fun _ => .fixed 0 }

/-- The words of a row that are read now: each is an access of its own (R286). -/
def State.performRow (s : State) (d : Nat) (g : GdeEntry) : State :=
  let todo := (List.range g.got.length).filter fun k => g.got.getD k .deferred == .todo
  (((s.actNow todo.length).filterMap fun k => todo[k]?).foldl (fun s k => s.rowWord d g.id k) s).tick

/-- MEMORY_EDGE_ACCESS: of an access by its name, or of a gather entry by its die and name. -/
def execMemoryEdgeAccess (s : State) : Out :=
  match s.actor with
  | .id n =>
    match s.acc? n with
    | some w => .next (s.perform w)
    | none => .next s
  | .dieN d n =>
    match s.die? d with
    | none => .fault .noActor
    | some x =>
      match x.gde.find? fun g => decide (g.id = n) with
      | none => .next s
      | some g => if g.due ≤ s.clock then .next (s.performRow d g) else .next s
  | _ => .fault .noActor

/-- WEIGHT_REFRESH_WINDOW: the next group's window begins, and the reads held on the group before go on (R269). -/
def execWeightRefreshWindow (s : State) : Out :=
  .next { s with accs := s.accs.map fun w => if w.held ∧ ¬ refreshing s.clock w.pa then { w with held := false } else w }

/-! ### GDE_DELIVERY (R175) -/

/-- A copy of the row, or the lane's FAULT, for one requester. The detail of that FAULT is the lane and its index, as a failed
check has it (DESIGN CHOICE, log 108). -/
def State.deliverRow (s : State) (g : GdeEntry) (q : GReq) : State :=
  let lat := s.gdeLat q g.pa
  let due := s.clock + (lat - lat / 2)
  if g.cause ≠ 0 then
    match q.cells with
    | [] => s
    | c :: rest =>
      let s1 := s.reply q.ref q.gid c (.tok (laneFault g.cause q.lane q.idx)) due
      rest.foldl (fun s c => s.reply q.ref q.gid c .silent due) s1
  else
    (q.cells.zip g.got).foldl (fun s p =>
      s.reply q.ref q.gid p.1 (.tok (dataTok (BitVec.ofNat 4 q.fmt) p.2.val)) due) s

/-- Free an entry of a window, and admit what waits. -/
def State.freeGde (s : State) (d n : Nat) : State :=
  (s.modDie d fun y => { y with gde := y.gde.filter fun z => decide (z.id ≠ n) }).gdeDrain d

/-- GDE_DELIVERY: every requester of an entry whose row has returned is given a copy, and the entry is freed. -/
def execGdeDelivery (s : State) : Out :=
  match s.actor with
  | .dieN d n =>
    match s.die? d with
    | none => .fault .noActor
    | some x =>
      match x.gde.find? fun g => decide (g.id = n) with
      | none => .next s
      | some g =>
        if ¬ g.got.all RWord.isFixed then .next s
        else .next ((g.reqs.foldl (fun s q => s.deliverRow g q) s).freeGde d n)
  | _ => .fault .noActor

/-! ### ATOMIC_PERFORM (R355) -/

/-- What an atomic computes from the old word: the new word (none when nothing is written) and its outcome. -/
def atomicNew (op : MOp) (lane : Nat) (old b : Word) : Option Word × Bool :=
  let w := laneW (BitVec.ofNat 2 lane)
  let o := outNz old
  match op with
  | .aadd => (some (map2Lanes w (fun x y => (x + y) % 2 ^ w) old b), o)
  | .amin => (some (map2Lanes w (fun x y => if sgn w y < sgn w x then y else x) old b), o)
  | .amax => (some (map2Lanes w (fun x y => if sgn w x < sgn w y then y else x) old b), o)
  | .aand => (some (old &&& b), o)
  | .aor => (some (old ||| b), o)
  | .axch => (some b, o)
  | .afadd => (some (map2Lanes 32 addF32 old b), o)
  | .acas =>
    let lo := if lane = 1 then 0 else 32
    if fld old lo 32 = fld b 0 32 then (some (setFld old lo 32 (fld b 32 32)), true) else (none, false)
  | _ => (none, false)

/-- The replies of an atomic: old, then an ORDER token; a FAULT token, then an ORDER token that carries the arc. With
DST 15 nothing, or a trap. The last reply returns the credit. -/
def State.atomicReply (s : State) (r : ElemRef) (gid cell : Nat) (t : Except Reply Tok) (outcome : Bool)
    (scope due credit : Nat) : State :=
  let dst := s.groupDst r gid
  let s1 := s.setOutc r gid outcome
  let s2 := s1.modGroup r gid fun g =>
    { g with
      opened := false
      cells := g.cells.flatMap fun c =>
        if c.id = cell then
          match t with
          | .ok t => if dst = 15 then [{ c with r := .silent, due := due, credit := credit }]
              else [{ c with r := .tok t, due := due }, ⟨s.nextId, .tok (orderTok scope), credit, due⟩]
          | .error x => if dst = 15 then [{ c with r := x, due := due, credit := credit }]
              else [{ c with r := x, due := due }, ⟨s.nextId, .tok (orderTok scope), credit, due⟩]
        else [c] }
  { s2 with nextId := s2.nextId + 1 }

/-- What an atomic came to at the word's home SYE: the machine, the cause it fails with, the old word, its outcome, and
whether it wrote. -/
structure AtomicDone where
  s : State
  cause : Nat
  old : Word
  outcome : Bool
  wrote : Bool

/-- Perform an atomic at the word's home SYE: one that writes nothing, an ACAS that does not match, is a read only, which
an owned record does not turn away (R339, R355). -/
def State.atomicAt (s : State) (a : Nat) (op : MOp) (lane : Nat) (b : Word) : AtomicDone :=
  if s.isBad a then ⟨s, Cause.uncorrectable, 0, false, false⟩
  else
    let old := s.word a
    match atomicNew op lane old b with
    | (some v, o) =>
      if s.storeCause a ≠ 0 then ⟨s, s.storeCause a, 0, false, false⟩ else ⟨s.putWord a v, 0, old, o, true⟩
    | (none, o) => ⟨s, 0, old, o, false⟩

/-- ATOMIC_PERFORM: the atomic of an access by its name; a SYE performs one in a clock (R360). -/
def execAtomicPerform (s : State) : Out :=
  match s.actor with
  | .id n =>
    match s.acc? n with
    | none => .next s
    | some w =>
      match w.op with
      | .atomic op lane b =>
        let held := s.clock < w.due ∨ s.opBusy (homeDie w.pa) ∨ s.sbHeld w.pa 8 true ∨
          ¬ (s.reached w.obs w.pa).isEmpty
        if held then .next s
        else
          let x := (s.useOp (homeDie w.pa)).atomicAt w.pa op lane b
          let s2 := if x.cause = Cause.uncorrectable then x.s.logRef w.ref
            else if x.wrote then x.s.addSig w.ref.load w.slot w.va b else x.s
          let t : Except Reply Tok :=
            if x.cause ≠ 0 then .error (s.failReply w.ref w.gid x.cause w.va) else .ok (dataTok (BitVec.ofNat 4 w.fmt) x.old)
          .next ((s2.dropAcc n).atomicReply w.ref w.gid w.cell t (x.cause == 0 && x.outcome) 3 (s.clock + w.back) 3)
      | _ => .next s
  | _ => .fault .noActor

/-! ### MEMORY_REPLY (R275, R282, R353) -/

/-- A cell as it stands: the token of a FENCE appears when its condition holds (R280). -/
def State.cellNow (s : State) (r : ElemRef) (g : RGroup) (c : Cell) : Reply :=
  if g.op = .fence ∧ c.r = .wait ∧ s.fenceDone r g.gid c.id g.n then .tok (orderTok g.n) else c.r

/-- Whether a cell may be taken: of an RLD once its whole reply is there (R409). -/
def State.cellReady (s : State) (r : ElemRef) (g : RGroup) (c : Cell) : Bool :=
  decide (c.due ≤ s.clock) && s.cellNow r g c != .wait && (g.op != .rld || g.cells.all fun c => c.r != .wait)

/-- Apply a pending predicate update (R353). -/
def Elem.applyPred (e : Elem) (g : RGroup) (failed : Bool) : Elem :=
  match g.pred with
  | some (idx, mode) => e.setPred idx mode (!failed && g.outc)
  | none => e

/-- Take the first cell of a group: the element after its credit and any predicate update. -/
def Elem.takeCell (e : Elem) (g : RGroup) (c : Cell) (failed : Bool) : Elem :=
  let e1 := e.applyPred g failed
  e1.setMpe ((e1.mpe.credit (if c.credit = 5 then 0 else c.credit) 1).modGroup g.gid fun g =>
    { g with cells := g.cells.drop 1, pred := none })

/-- Remove a group that has nothing left; its stream's generator becomes IDLE (R282). -/
def MpeState.endGroup (m : MpeState) (gid : Nat) : MpeState :=
  match m.group? gid with
  | some g =>
    if g.cells.isEmpty ∧ ¬ g.opened then
      { m with
        groups := m.groups.filter fun x => decide (x.gid ≠ gid)
        ag := if g.op = .astrm then m.ag.map (fun a => if a.gid = gid ∧ a.st = 1 then { a with st := 0, more := false } else a)
              else m.ag }
    else m
  | none => m

/-- A stream that emitted a FAULT token stops: later tokens are not emitted, and their credits return (R282). -/
def MpeState.stopStream (m : MpeState) (gid : Nat) : MpeState :=
  match m.group? gid with
  | some g =>
    if g.op = .astrm then
      { (m.credit 1 (g.cells.filter fun c => c.credit == 1).length).modGroup gid
          (fun g => { g with cells := [], opened := false }) with
        ag := m.ag.map fun a => if a.gid = gid then { a with more := false } else a }
    else m
  | none => m

/-- Pass over the silent replies at the front of a group. -/
def State.skipSilent (s : State) (r : ElemRef) (gid : Nat) : Nat → State
  | 0 => s
  | n + 1 =>
    match s.elem? r with
    | none => s
    | some e =>
      match e.mpe.group? gid with
      | none => s
      | some g =>
        match g.cells with
        | c :: _ =>
          if c.r = .silent ∧ c.due ≤ s.clock then
            (s.modElem r fun e => e.takeCell g c false).skipSilent r gid n
          else s
        | [] => s

/-- Whether a FAULT token of cause PAGE that leaves a cell of this firing takes a replay entry (R441): of an LDF, that of
word 0. -/
def RGroup.replays (g : RGroup) (c : Cell) (t : Tok) : Bool :=
  t.isFault && t.causeOf == Cause.page &&
  (g.op == .ld || g.op == .wld || g.op == .astrm || g.op == .gld || g.op == .rld || (g.op == .ldf && c.id == g.pass))

/-- Record a replay entry, or the token as not replayable when none of the 16 is free (R441). A replay that fails again has
its entry still. -/
def MpeState.record (m : MpeState) (g : RGroup) (c : Cell) (t : Tok) : MpeState :=
  if g.replays c t then
    let slot := if g.op = .gld then gSlot g.b else opSlot g.a
    let d := fld t.pay 0 48
    if m.replay.any fun x => x.gid == g.gid && x.detail == d then m
    else if m.replay.length < 16 then
      { m with replay := m.replay ++ [⟨g.gid, g.op, g.a, g.b, g.n, g.lane, slot, g.dst, d, false⟩] }
    else { m with lost := m.lost ++ [(slot, d)] }
  else m

/-- Emit the token at the front of a group, or raise its trap. -/
def State.emitCell (s : State) (r : ElemRef) (gid : Nat) : State :=
  match s.elem? r with
  | none => s
  | some e =>
    match e.mpe.group? gid with
    | none => s
    | some g =>
      match g.cells with
      | [] => s
      | c :: _ =>
        if ¬ s.cellReady r g c then s
        else
          match s.cellNow r g c with
          | .tok t =>
            if e.spaceFor g.dst then
              let e1 := (s.putTok e g.dst t).takeCell g c t.isFault
              s.modElem r fun _ => if t.isFault then e1.setMpe ((e1.mpe.stopStream gid).record g c t) else e1
            else s
          | .trap cause detail => (s.modElem r fun e => e.takeCell g c true).trapElem r ⟨cause, detail, none⟩
          | _ => s

/-- MEMORY_REPLY: the group that the actor names gives its next token, with the silent replies around it. -/
def execMemoryReply (s : State) : Out :=
  withElemN s fun r gid e =>
    let n := match e.mpe.group? gid with
      | some g => g.cells.length
      | none => 0
    ((((s.skipSilent r gid n).emitCell r gid).skipSilent r gid n).modMpe r fun m => m.endGroup gid)

end Sys2Proof.Machine
end

