-- ==== Sys2Proof/Machine/Arbor.lean ====
section
/-! DEFINITION. The arbor walker: nodes and their checks, search, insertion, deletion and traversal (R309 to R335). -/

namespace Sys2Proof.Machine

open Sys2Proof

/-! ### Nodes (R312, R313) -/

/-- A node as read: kind, COUNT is the length of ents, LEVEL, NEXT; entries (key, value) or (separator, child). -/
structure ANode where
  kind : Nat
  level : Nat
  next : Nat
  ents : List (Nat × Nat)
deriving DecidableEq, Repr

/-- How an arbor operation fails: cause and detail (R314, R320). -/
structure AErr where
  cause : Nat
  detail : Nat
deriving DecidableEq, Repr

/-- An arbor under an operation: its header, and the nodes the operation has written, newest first. size is what the
run holds from the header on. -/
structure Arb where
  s : State
  hdr : Nat
  vfmt : Nat
  ndim : Nat
  ws : List Nat
  nn : Nat
  height : Nat
  root : Nat
  free : Nat
  nfree : Nat
  nent : Nat
  version : Nat
  nodes : List (Nat × ANode)
  /-- a node was taken, freed or rebalanced -/
  struct : Bool

def arborWord (s : State) (hdr i w : Nat) : Word := s.word (hdr + 256 * i + 8 * w)

/-- The header, checked (R312, R315). -/
def readArb (s : State) (hdr size : Nat) : Except AErr Arb := do
  if (List.range 32).any fun w => s.isBad (hdr + 8 * w) then throw ⟨Cause.uncorrectable, 0⟩
  let w0 := arborWord s hdr 0 0
  let w1 := arborWord s hdr 0 1
  let w2 := arborWord s hdr 0 2
  let nd := fld w0 56 2 + 1
  let ws := [fld w0 32 6, fld w0 38 6, fld w0 44 6, fld w0 50 6]
  let used := ws.take nd
  let nn := fld w0 0 24
  let good := fld w0 62 2 == 3 && (fld w0 58 4 == 1 || fld w0 58 4 == 4) && used.all (fun w => decide (1 ≤ w)) &&
    (ws.drop nd).all (fun w => w == 0) && decide (used.foldl (· + ·) 0 ≤ 32) && decide (2 ≤ nn) &&
    decide (1 ≤ fld w0 24 8) && decide (1 ≤ fld w1 32 32 ∧ fld w1 32 32 < nn) && decide (fld w1 0 32 < nn) &&
    ((List.range 28).all fun k => arborWord s hdr 0 (k + 4) == 0) && decide (256 * nn ≤ size)
  if !good then throw ⟨Cause.arborHdr, 0⟩
  return { s := s, hdr := hdr, vfmt := fld w0 58 4, ndim := nd, ws := ws, nn := nn, height := fld w0 24 8,
           root := fld w1 32 32, free := fld w1 0 32, nfree := fld w2 32 32, nent := fld w2 0 32,
           version := (arborWord s hdr 0 3).toNat, nodes := [], struct := false }

/-- Strictly rising numbers. -/
def rising : List Nat → Bool
  | a :: b :: r => decide (a < b) && rising (b :: r)
  | _ => true

/-- The entry or child in a word. -/
def pairOf (w : Word) : Nat × Nat := (fld w 32 32, fld w 0 32)

/-- Read a node that stands at a level with keys in [lo, hi), and check it (R314). -/
def Arb.node (t : Arb) (i level lo hi : Nat) : Except AErr ANode := do
  -- a node that the operation has written stands in another place already
  match t.nodes.find? fun p => p.1 == i with
  | some _ => throw ⟨Cause.arborOrder, i⟩
  | none =>
    if i = 0 ∨ t.nn ≤ i then throw ⟨Cause.arborOrder, i⟩
    if (List.range 32).any fun w => t.s.isBad (t.hdr + 256 * i + 8 * w) then throw ⟨Cause.uncorrectable, i⟩
    let at_ := arborWord t.s t.hdr i
    let w0 := at_ 0
    let n := fld w0 48 8
    let first := if level = 0 then 2 else 1
    let ents := (List.range n).map fun k => pairOf (at_ (first + k))
    let rest := (List.range 32).drop (first + n)
    let keys := ents.map (·.1)
    let good := fld w0 62 2 == (if level = 0 then 1 else 2) && fld w0 40 8 == level && fld w0 56 6 == 0 &&
      fld w0 0 40 == 0 && rest.all (fun w => at_ w == 0) && rising keys && keys.all (fun k => decide (k < hi)) &&
      (if level = 0 then
        decide (n ≤ 30) && decide ((at_ 1).toNat < t.nn) && keys.all (fun k => decide (lo ≤ k))
      else
        decide (2 ≤ n ∧ n ≤ 31) && keys.headD 1 == 0 && (keys.drop 1).all (fun k => decide (lo < k)) &&
        ents.all (fun p => decide (1 ≤ p.2 ∧ p.2 < t.nn)))
    if good then return ⟨fld w0 62 2, level, if level = 0 then (at_ 1).toNat else 0, ents⟩
    else throw ⟨Cause.arborOrder, i⟩

/-- Write a node. -/
def Arb.put (t : Arb) (i : Nat) (n : ANode) : Arb :=
  { t with nodes := (i, n) :: t.nodes.filter fun p => p.1 != i }

/-! ### Search (R313) -/

/-- A step of a descent: an interior node, the child taken, and the node's bounds. -/
structure AStep where
  i : Nat
  n : ANode
  pos : Nat
  lo : Nat
  hi : Nat

/-- The child that a key belongs to: the last whose separator is at most k, or the first. -/
def childPos (ents : List (Nat × Nat)) (k : Nat) : Nat := ((ents.drop 1).takeWhile fun p => decide (p.1 ≤ k)).length

/-- Bounds of a child. -/
def childLo (st : AStep) (pos : Nat) : Nat := if pos = 0 then st.lo else (st.n.ents.getD pos (0, 0)).1
def childHi (st : AStep) (pos : Nat) : Nat :=
  match st.n.ents[pos + 1]? with
  | some p => p.1
  | none => st.hi

/-- Where a search ends: the interior nodes passed, lowest first, and the leaf with its bounds. -/
structure AFound where
  path : List AStep
  i : Nat
  leaf : ANode
  lo : Nat
  hi : Nat

def Arb.descend (t : Arb) (k : Nat) : Nat → Nat → Nat → Nat → List AStep → Except AErr AFound
  | 0, i, lo, hi, path => do
    let n ← t.node i 0 lo hi
    return ⟨path, i, n, lo, hi⟩
  | level + 1, i, lo, hi, path => do
    let n ← t.node i (level + 1) lo hi
    let st : AStep := ⟨i, n, childPos n.ents k, lo, hi⟩
    t.descend k level (n.ents.getD st.pos (0, 0)).2 (childLo st st.pos) (childHi st st.pos) (st :: path)

def Arb.find (t : Arb) (k : Nat) : Except AErr AFound := t.descend k (t.height - 1) t.root 0 (2 ^ 32) []

/-- The value of a key; zero when it is absent (R311). -/
def AFound.value (f : AFound) (k : Nat) : Nat :=
  match f.leaf.ents.find? fun p => p.1 == k with
  | some p => p.2
  | none => 0

def AFound.has (f : AFound) (k : Nat) : Bool := f.leaf.ents.any fun p => p.1 == k

/-- Numerically zero in VFMT (R311). -/
def Arb.isZero (t : Arb) (v : Nat) : Bool := if t.vfmt = 4 then v % 2 ^ 31 == 0 else v % 2 ^ 32 == 0

/-! ### Nodes taken and freed (R331, R333) -/

/-- Take the node at the head of the free list, checked against R313; one that the operation has taken or written is no
free node. -/
def Arb.alloc (t : Arb) : Except AErr (Arb × Nat) := do
  let i := t.free
  if i = 0 ∨ t.nn ≤ i ∨ t.nodes.any (fun p => p.1 == i) then throw ⟨Cause.arborOrder, i⟩
  let at_ := arborWord t.s t.hdr i
  if (List.range 32).any fun w => t.s.isBad (t.hdr + 256 * i + 8 * w) then throw ⟨Cause.uncorrectable, i⟩
  if at_ 0 != 0 || ((List.range 32).drop 2).any (fun w => at_ w != 0) || decide (t.nn ≤ (at_ 1).toNat) then
    throw ⟨Cause.arborOrder, i⟩
  return ({ t with free := (at_ 1).toNat, nfree := t.nfree - 1, version := t.version + 1, struct := true }, i)

/-- Free a node: it becomes the head of the free list. -/
def Arb.release (t : Arb) (i : Nat) : Arb :=
  { t.put i ⟨0, 0, t.free, []⟩ with free := i, nfree := t.nfree + 1, version := t.version + 1, struct := true }

/-! ### Insertion (R331, R332) -/

/-- Entries with one added in key order. -/
def insertKey (k v : Nat) : List (Nat × Nat) → List (Nat × Nat)
  | [] => [(k, v)]
  | p :: r => if k < p.1 then (k, v) :: p :: r else p :: insertKey k v r

/-- Nodes an insertion into a full leaf takes: the leaf, one for each full ancestor in a row, one for a root that
splits. -/
def splitNeed : List AStep → Nat
  | [] => 2
  | st :: r => if st.n.ents.length < 31 then 1 else 1 + splitNeed r

/-- Place a new child behind the child taken, splitting parents up the path. -/
def Arb.addChild (t : Arb) (sep child old level : Nat) : List AStep → Except AErr Arb
  | [] => do
    let (t1, r) ← t.alloc
    return { t1.put r ⟨2, level + 1, 0, [(0, old), (sep, child)]⟩ with root := r, height := t1.height + 1 }
  | st :: up => do
    let es := st.n.ents.take (st.pos + 1) ++ (sep, child) :: st.n.ents.drop (st.pos + 1)
    if es.length ≤ 31 then return t.put st.i { st.n with ents := es }
    else
      let (t1, x) ← t.alloc
      let moved := es.drop 16
      let t2 := (t1.put st.i { st.n with ents := es.take 16 }).put x
        { st.n with ents := (0, (moved.headD (0, 0)).2) :: moved.drop 1 }
      t2.addChild (moved.headD (0, 0)).1 x st.i st.n.level up

def Arb.insert (t : Arb) (f : AFound) (k v : Nat) : Except AErr Arb := do
  let es := insertKey k v f.leaf.ents
  let t0 := { t with nent := t.nent + 1 }
  if es.length ≤ 30 then return t0.put f.i { f.leaf with ents := es }
  else if t.nfree < splitNeed f.path then throw ⟨Cause.arborFull, k⟩
  else
    let (t1, x) ← t0.alloc
    let hi := es.drop 16
    let t2 := (t1.put f.i { f.leaf with ents := es.take 16, next := x }).put x { f.leaf with ents := hi }
    t2.addChild (hi.headD (0, 0)).1 x f.i 0 f.path

/-! ### Deletion (R333) -/

/-- Remove a child; the first separator of a node is zero. -/
def dropChild (es : List (Nat × Nat)) (pos : Nat) : List (Nat × Nat) :=
  match es.eraseIdx pos with
  | [] => []
  | p :: r => (0, p.2) :: r

/-- The last leaf below a node. -/
def Arb.lastLeaf (t : Arb) : Nat → Nat → Nat → Nat → Except AErr (Nat × ANode)
  | 0, i, lo, hi => do
    let n ← t.node i 0 lo hi
    return (i, n)
  | level + 1, i, lo, hi => do
    let n ← t.node i (level + 1) lo hi
    let q := n.ents.length - 1
    t.lastLeaf level (n.ents.getD q (0, 0)).2 (if q = 0 then lo else (n.ents.getD q (0, 0)).1) hi

/-- The leaf before the leaf at the end of a path; none for the first leaf. -/
def Arb.prevLeaf (t : Arb) : List AStep → Except AErr (Option (Nat × ANode))
  | [] => return none
  | st :: up =>
    if st.pos = 0 then t.prevLeaf up
    else do
      let p := st.pos - 1
      let x ← t.lastLeaf (st.n.level - 1) (st.n.ents.getD p (0, 0)).2 (childLo st p) (childHi st p)
      return some x

/-- The children of two nodes of one parent in one (R333): the first child moved takes the parent's separator for the later
node, or zero when it is the first of all (R313). -/
def joinKids (ee : List (Nat × Nat)) (sep : Nat) (le : List (Nat × Nat)) : List (Nat × Nat) :=
  match ee, le with
  | _, [] => ee
  | [], _ => le
  | _, x :: r => ee ++ (sep, x.2) :: r

/-- Steps 3 and 4: the node at the front of the path has the children es now. -/
def Arb.rebalance (t : Arb) (es : List (Nat × Nat)) : List AStep → Except AErr Arb
  | [] => return t
  | [st] =>
    if es.length = 1 then
      return { (t.put st.i { st.n with ents := es }).release st.i with
        root := (es.headD (0, 0)).2, height := t.height - 1 }
    else return t.put st.i { st.n with ents := es }
  | st :: up :: rest => do
    let t1 := t.put st.i { st.n with ents := es }
    if 2 ≤ es.length then return t1
    else
      let ups := up.n.ents
      let nxt := decide (up.pos + 1 < ups.length)
      let sp := if nxt then up.pos + 1 else up.pos - 1
      let si := (ups.getD sp (0, 0)).2
      let sib ← t1.node si st.n.level (childLo up sp) (childHi up sp)
      if es.length + sib.ents.length ≤ 31 then
        let (ei, ee, li, le, lp) :=
          if nxt then (st.i, es, si, sib.ents, sp) else (si, sib.ents, st.i, es, up.pos)
        let joined := joinKids ee (ups.getD lp (0, 0)).1 le
        let t2 := (t1.put ei { st.n with ents := joined }).release li
        t2.rebalance (ups.eraseIdx lp) (up :: rest)
      else
        let t0 := { t1 with version := t1.version + 1, struct := true }
        if nxt then
          let sep := (ups.getD sp (0, 0)).1
          let moved := (sib.ents.headD (0, 0)).2
          let left := sib.ents.drop 1
          let t2 := (t0.put st.i { st.n with ents := es ++ [(sep, moved)] }).put si
            { sib with ents := (0, (left.headD (0, 0)).2) :: left.drop 1 }
          t2.rebalance (ups.set sp ((left.headD (0, 0)).1, si)) (up :: rest)
        else
          let sep := (ups.getD up.pos (0, 0)).1
          let moved := sib.ents.getLastD (0, 0)
          let t2 := (t0.put st.i { st.n with ents := (0, moved.2) :: (sep, (es.headD (0, 0)).2) :: es.drop 1 }).put si
            { sib with ents := sib.ents.dropLast }
          t2.rebalance (ups.set up.pos (moved.1, st.i)) (up :: rest)

/-- Step 2: the empty leaf i, the child at st.pos, leaves the NEXT chain and its parent, whose children are ch. When the
parent is the root and has no other child, step 4 makes the leaf the root instead (log 86). -/
def Arb.unlink (t : Arb) (i next : Nat) (st : AStep) (up : List AStep) (ch : List (Nat × Nat)) : Except AErr Arb := do
  if up.isEmpty ∧ ch.length = 1 then t.rebalance ch (st :: up)
  else
    let t1 ← match ← t.prevLeaf (st :: up) with
      | some (j, n) => pure (t.put j { n with next := next })
      | none => pure t
    (t1.release i).rebalance (dropChild ch st.pos) (st :: up)

/-- Step 1 for leaves e and l, next to each other in one parent, l at place p of its children ch: the entries of l move
into e and l goes; a leaf left empty goes too. -/
def Arb.merge (t : Arb) (ei : Nat) (e : ANode) (li : Nat) (l : ANode) (p : Nat) (st : AStep) (up : List AStep) :
    Except AErr Arb :=
  let t1 := (t.put ei { e with ents := e.ents ++ l.ents, next := l.next }).release li
  let ch := st.n.ents.eraseIdx p
  if (e.ents ++ l.ents).isEmpty then t1.unlink ei l.next { st with pos := p - 1 } up ch else t1.rebalance ch (st :: up)

/-- The leaf f without a key: steps 1 and 2, then the parents. -/
def Arb.delete (t : Arb) (f : AFound) (k : Nat) : Except AErr Arb := do
  let leaf := { f.leaf with ents := f.leaf.ents.filter fun p => p.1 != k }
  let t0 := ({ t with nent := t.nent - 1 } : Arb).put f.i leaf
  match f.path with
  | [] => return t0
  | st :: up =>
    let ch := st.n.ents
    let last := decide (ch.length ≤ st.pos + 1)
    let sp := if last then st.pos - 1 else st.pos + 1
    let si := (ch.getD sp (0, 0)).2
    let sib ← t0.node si 0 (childLo st sp) (childHi st sp)
    if leaf.ents.length + sib.ents.length ≤ 15 then
      if last then t0.merge si sib f.i leaf st.pos st up else t0.merge f.i leaf si sib sp st up
    else if leaf.ents.isEmpty then t0.unlink f.i leaf.next st up ch
    else return t0

/-- Store a value: insert, update or delete (R323). -/
def Arb.store (t : Arb) (k v : Nat) : Except AErr Arb := do
  let f ← t.find k
  if t.isZero v then (if f.has k then t.delete f k else return t)
  else if f.has k then
    return t.put f.i { f.leaf with ents := f.leaf.ents.map fun p => if p.1 = k then (k, v) else p }
  else t.insert f k v

/-! ### Writing back -/

/-- The 32 words of a node. -/
def ANode.words (n : ANode) : List Word :=
  let w0 : Word := BitVec.ofNat 64 (if n.kind = 0 then 0 else n.kind * 2 ^ 62 + n.ents.length * 2 ^ 48 + n.level * 2 ^ 40)
  let body := n.ents.map fun p => BitVec.ofNat 64 (p.1 * 2 ^ 32 + p.2)
  let ws := if n.kind = 2 then w0 :: body else w0 :: BitVec.ofNat 64 n.next :: body
  (ws ++ List.replicate 32 0).take 32

/-- Write words from an address up. -/
def State.putWords (s : State) (a : Nat) : List Word → State
  | [] => s
  | w :: ws => (s.putWord a w).putWords (a + 8) ws

/-- The header words that an operation changes. -/
def Arb.header (t : Arb) : List Word :=
  [setFld (arborWord t.s t.hdr 0 0) 24 8 t.height, BitVec.ofNat 64 (t.root * 2 ^ 32 + t.free),
   BitVec.ofNat 64 (t.nfree * 2 ^ 32 + t.nent), BitVec.ofNat 64 t.version]

/-- The 32 words of a node as they stand. -/
def State.nodeAt (s : State) (a : Nat) : List Word := (List.range 32).map fun k => s.word (a + 8 * k)

/-- The walker of a die is to change nodes: HBM keeps what it holds of each until it is written back (R317). -/
def State.holdNodes (s : State) (die : Nat) (as : List Nat) : State :=
  { s with unwritten := as.foldl (fun us a =>
      if us.any fun p => p.pa == a then us else us ++ [⟨a, die, s.nodeAt a⟩]) s.unwritten }

/-- Nodes are written back: those whose address a test takes. -/
def State.writeBack (s : State) (p : Nat → Bool) : State := { s with unwritten := s.unwritten.filter fun x => !p x.pa }

/-- The oldest nodes beyond the 8,192 of a walker are written back, and others at any time (R317; log 76). -/
def State.writeBackSome (s : State) : State :=
  let spare (x : DirtyNode) (k : Nat) : Bool :=
    s.partNow k || decide (8192 ≤ ((s.unwritten.drop (k + 1)).filter fun y => y.die == x.die).length)
  { s with unwritten := ((s.unwritten.zip (List.range s.unwritten.length)).filter fun p => !spare p.1 p.2).map (·.1),
           freeCount := s.freeCount + 1 }

/-- What HBM holds of a word of memory: a changed node that is not written back is not there (R317). -/
def State.hbmWord (s : State) (a : Nat) : Word :=
  match s.unwritten.find? fun p => decide (p.pa ≤ a ∧ a < p.pa + 256) with
  | some p => p.words.getD ((a - p.pa) / 8) 0
  | none => s.word a

/-- The machine with the nodes of an operation written. -/
def Arb.write (t : Arb) : State :=
  (t.nodes.foldl (fun s p => s.putWords (t.hdr + 256 * p.1) p.2.words) t.s).putWords t.hdr t.header

/-- The machine after the operation: its nodes stand in the walker's cache. -/
def Arb.commit (t : Arb) : State :=
  let s1 : State :=
    { t.write with unwritten := (t.s.holdNodes (homeDie t.hdr) (t.hdr :: t.nodes.map fun p => t.hdr + 256 * p.1)).unwritten }
  s1.writeBackSome

/-- Nodes that the operation writes (R321). -/
def Arb.cost (t : Arb) : Nat := if t.struct then 8 * t.nodes.length else 0

/-! ### Steps of a traversal (R326, R327) -/

/-- The leaf after the one at the end of a path, by the tree: its path, index and bounds. -/
def Arb.nextPlace (t : Arb) : List AStep → Except AErr (Option AFound)
  | [] => return none
  | st :: up =>
    if st.pos + 1 < st.n.ents.length then do
      let p := st.pos + 1
      let x ← t.descend 0 (st.n.level - 1) (st.n.ents.getD p (0, 0)).2 (childLo st p) (childHi st p)
        ({ st with pos := p } :: up)
      return some x
    else t.nextPlace up

/-- The first leaf from a leaf on that holds a key of k or above: along NEXT, where each leaf must have its place in the
tree (R314, R326). -/
def Arb.seek (t : Arb) (k : Nat) : Nat → AFound → Except AErr (Option ANode)
  | 0, _ => return none
  | fuel + 1, f =>
    if f.leaf.ents.any fun p => decide (k ≤ p.1) then return some f.leaf
    else if f.leaf.next = 0 then return none
    else do
      match ← t.nextPlace f.path with
      | none => throw ⟨Cause.arborOrder, f.leaf.next⟩
      | some g => if g.i = f.leaf.next then t.seek k fuel g else throw ⟨Cause.arborOrder, f.leaf.next⟩

/-- What a step finds: the entries to emit, and whether it closes the traversal. -/
def Arb.step (t : Arb) (k hi : Nat) : Except AErr (List (Nat × Nat) × Bool) := do
  if 2 ^ 32 ≤ k ∨ hi < k then return ([], true)
  let f ← t.find k
  match ← t.seek k t.nn f with
  | none => return ([], true)
  | some n =>
    let here := n.ents.filter fun p => decide (k ≤ p.1)
    let es := (here.filter fun p => decide (p.1 ≤ hi)).take 8
    if es.isEmpty then return ([], true)
    let after := here.drop es.length
    return (es, match after.head? with | some p => decide (hi < p.1) | none => n.next == 0)

/-- The components of a key (R310). -/
def Arb.parts (t : Arb) (k : Nat) : List Nat :=
  (List.range t.ndim).map fun d => fldN k ((t.ws.take d).foldl (· + ·) 0) (t.ws.getD d 0)

/-- The highest dimension in which two keys differ; 0 when none above it does. -/
def Arb.topDim (t : Arb) (a b : Nat) : Nat :=
  let pa := t.parts a
  let pb := t.parts b
  ((List.range t.ndim).filter fun d => decide (pa.getD d 0 ≠ pb.getD d 0)).getLastD 0

def coordTok (k v : Nat) : Tok := dataTok 14 (BitVec.ofNat 64 (k * 2 ^ 32 + v))

/-- The tokens of a step's entries, with the END tokens between fibres of the .s form (R327). -/
def Arb.tokens (t : Arb) (byFibre : Bool) : Option Nat → List (Nat × Nat) → List Tok
  | _, [] => []
  | last, (k, v) :: r =>
    let d := match last with
      | some l => t.topDim l k
      | none => 0
    let rest := t.tokens byFibre (some k) r
    if byFibre ∧ 0 < d then endTok (d - 1) :: coordTok k v :: rest else coordTok k v :: rest

/-! ### ARBOR_POINT (R322, R323, R325) -/

/-- Whether an operation writes its arbor. -/
def writesArbor (op : MOp) : Bool := op == .ast || op == .aaddc

/-- A write to the arbor is held while a quiescent copy of it runs (R334), and while one stands at the head of its queue, so
that its acceptance comes. -/
def State.arborHeld (s : State) (hdr : Nat) (op : MOp) : Bool :=
  writesArbor op && s.cmds.any fun c => c.op == .densQ && c.hdr == hdr &&
    (c.st == 1 || (c.st == 0 && s.dies.any fun d => d.copyQ.head? == some c.id))

def MemOp.isArbor (o : MemOp) : Bool :=
  match o with
  | .arbor _ _ _ _ => true
  | _ => false

/-- Operations in progress in the walker of a die: those that it has accepted and not performed, and the traversals whose
first step it has (R321). -/
def State.walking (s : State) (d : Nat) : Nat :=
  (s.accs.filter fun w => w.op.isArbor && w.taken && homeDie w.pa == d).length +
  (s.elems.map fun e => (e.mpe.travs.filter fun t => t.taken && !t.started && homeDie t.hdr == d).length).foldl (· + ·) 0

/-- Whether the walker of a die accepts an operation now: two in a clock and 64 in progress (R321). -/
def State.walkerFree (s : State) (d : Nat) : Bool :=
  decide (s.walking d < 64) &&
  match s.die? d with
  | some x => x.walkAt != s.clock || decide (x.walkN < 2)
  | none => false

/-- The walker of a die accepts an operation. -/
def State.useWalker (s : State) (d : Nat) : State :=
  s.modDie d fun x => { x with walkAt := s.clock, walkN := if x.walkAt = s.clock then x.walkN + 1 else 1 }

/-- Whether an accepted command holds an operation on the region of an arbor, as it does an access of the MPE (R284). -/
def State.arborBusy (s : State) (hdr : Nat) (write : Bool) : Bool :=
  s.sbHeld hdr (256 * max 1 (fld (s.word hdr) 0 24)) write

/-- The sum under VFMT (R323). -/
def Arb.add (t : Arb) (old v : Nat) : Nat := if t.vfmt = 1 then (old + v) % 2 ^ 32 else addF32 old v

/-- What an operation answers: the machine, its reply token, and clocks beyond its figure. -/
structure ADone where
  s : State
  tok : Tok
  cost : Nat

def arborDo (s : State) (op : MOp) (hdr size k v : Nat) : Except AErr ADone := do
  let t ← readArb s hdr size
  match op with
  | .ald =>
    let f ← t.find k
    return ⟨s, coordTok k (f.value k), 0⟩
  | .acntH => return ⟨s, dataTok 0 (BitVec.ofNat 64 (t.nfree * 2 ^ 32 + t.nent)), 0⟩
  | .ast =>
    let t1 ← t.store k v
    return ⟨t1.commit, orderTok 3, t1.cost⟩
  | _ =>
    let f ← t.find k
    let old := f.value k
    let t1 ← t.store k (t.add old v)
    return ⟨t1.commit, coordTok k old, t1.cost⟩

/-- Reply of a failed arbor operation (R320). -/
def State.arborFail (s : State) (r : ElemRef) (gid : Nat) (x : AErr) : Reply :=
  match s.group? r gid with
  | some g => g.faultReply r.site x.cause x.detail
  | none => .silent

/-- Element clocks from issue to reply with every node cached (R321). -/
def arborLat (s : State) (die : Nat) (op : MOp) (pa : Nat) : Nat :=
  let h := fld (s.word pa) 24 8
  let root := pa + 256 * fld (s.word (pa + 8)) 32 32
  (match op with
   | .ast => 18 + 4 * h
   | .aaddc => 18 + 4 * h
   | .acntH => 14
   | _ => 14 + 4 * h) + (if homeDie root = die then 0 else 24)

/-- The walker accepts an operation, unless it holds it: its point comes half its latency later (R321, R334). -/
def State.acceptArbor (s : State) (w : Access) (op : MOp) : State :=
  if s.arborHeld w.pa op ∨ s.arborBusy w.pa (writesArbor op) ∨ ¬ s.walkerFree (homeDie w.pa) then s
  else
    let lat := arborLat s w.ref.die op w.pa
    ((s.useWalker (homeDie w.pa)).modAcc w.id fun w =>
      { w with taken := true, due := s.clock + lat / 2 + s.waitNow, back := lat - lat / 2 }).tick

/-- ARBOR_POINT: the walker accepts the operation of an access, by its name, or performs it at its point. -/
def execArborPoint (s : State) : Out :=
  match s.actor with
  | .id n =>
    match s.acc? n with
    | none => .next s
    | some w =>
      match w.op with
      | .arbor op k v size =>
        if s.clock < w.due then .next s
        else if ¬ w.taken then .next (s.acceptArbor w op)
        else if s.arborBusy w.pa (writesArbor op) then .next s
        else
          let due := s.clock + w.back
          match arborDo s op w.pa size k v with
          | .error x =>
            let s1 := if x.cause = Cause.uncorrectable then s.logRef w.ref else s
            let rep := s1.arborFail w.ref w.gid x
            if op = .aaddc then
              .next (((s1.dropAcc n).atomicReply w.ref w.gid w.cell (.error rep) false 3 due 0).giveCredit w.ref 3 1)
            else if op = .ast then .next ((s1.accReply w rep).giveCredit w.ref 3 1)
            else .next (s1.accReply w rep)
          | .ok d =>
            let due := due + d.cost
            let d := if op = .ast ∨ op = .aaddc then
                { d with s := d.s.addSig w.ref.load w.slot w.va (BitVec.ofNat 64 (k * 2 ^ 32 + v)) }
              else d
            if op = .aaddc then
              .next (((d.s.dropAcc n).atomicReply w.ref w.gid w.cell (.ok d.tok) true 3 due 0).giveCredit w.ref 3 1)
            else if op = .ast then
              let rep : Reply := if d.s.groupDst w.ref w.gid = 15 then .silent else .tok d.tok
              .next (((d.s.dropAcc n).reply w.ref w.gid w.cell rep due).giveCredit w.ref 3 1)
            else .next ((d.s.dropAcc n).reply w.ref w.gid w.cell (.tok d.tok) due)
      | _ => .next s
  | _ => .fault .noActor

/-! ### TRAVERSAL_STEP (R326 to R330) -/

def MpeState.trav? (m : MpeState) (gid : Nat) : Option Trav := m.travs.find? fun x => decide (x.gid = gid)

def State.modTrav (s : State) (r : ElemRef) (gid : Nat) (f : Trav → Trav) : State :=
  s.modMpe r fun m => { m with travs := m.travs.map fun x => if x.gid = gid then f x else x }

/-- A traversal ends: its last token returns the read credit. -/
def State.endTrav (s : State) (r : ElemRef) (x : Trav) (rep : Reply) : State :=
  let s1 := s.modMpe r fun m => { m with travs := m.travs.filter fun y => decide (y.gid ≠ x.gid) }
  if x.form = 2 then s1.reply r x.gid x.cell rep s.clock
  else (s1.addCell r x.gid rep 1 s.clock).closeGroup r x.gid

/-- TRAVERSAL_STEP: one step of a traversal at its point, when its buffer is empty. Each step is an operation that the
walker accepts: the first its latency before its point, a later one in the clock of its point (R321, R322; log 97). -/
def execTraversalStep (s : State) : Out :=
  withElemN s fun r gid e =>
    match e.mpe.trav? gid with
    | none => s
    | some x =>
      let room := match e.mpe.group? gid with
        | some g => x.form == 2 || g.cells.isEmpty
        | none => false
      if s.clock < x.due ∨ !room ∨ s.arborBusy x.hdr false ∨ ((x.started ∨ ¬ x.taken) ∧ ¬ s.walkerFree (homeDie x.hdr)) then s
      else if ¬ x.taken then
        let lat := arborLat s r.die .aiter x.hdr
        ((s.useWalker (homeDie x.hdr)).modTrav r gid fun x =>
          { x with taken := true, due := s.clock + lat - 1 + s.waitNow }).tick
      else
        let s := if x.started then s.useWalker (homeDie x.hdr) else s
        let k := match x.last with
          | some l => l + 1
          | none => x.lo
        let got : Except AErr (Arb × List (Nat × Nat) × Bool) := do
          let t ← readArb s x.hdr x.size
          let (es, stop) ← t.step k x.hi
          return (t, es, stop)
        match got with
        | .error err =>
          let s1 := if err.cause = Cause.uncorrectable then s.logElem e else s
          s1.endTrav r x (.tok (faultTok err.cause err.detail))
        | .ok (t, es, stop) =>
          let x' := { x with
            last := match es.getLast? with
              | some p => some p.1
              | none => x.last
            started := true, count := x.count + es.length, due := s.clock + 1 }
          let s1 := s.modTrav r gid fun _ => x'
          let toks := if x.form = 2 then [] else t.tokens (x.form == 1) x.last es
          let s2 := toks.foldl (fun s t => s.addCell r gid (.tok t) 0 s.clock) s1
          if stop then
            s2.endTrav r x' (.tok (if x.form = 2 then dataTok 0 (BitVec.ofNat 64 x'.count)
              else if x.form = 1 then endTok (t.ndim - 1) else endTok 0))
          else s2

/-! ### Issue of arbor operations (R318, R319) -/

/-- Checks of an arbor operation. -/
def needArbor (op : MOp) : Need :=
  { rsv := true, align := 256, ext := none, remoteOk := false, classes := [2],
    r := op != .ast, w := op == .ast || op == .aaddc, range := 0 }

/-- Bytes of the run from a local address on. -/
def Run.rest (r : Run) (pa : Nat) : Nat := (r.ppn + r.n) * 0x10000 - pa

/-- An operation at one point. -/
def State.issuePoint (s : State) (e : Elem) (i : Issue) (k v credit : Nat) : State :=
  let c := s.check e.ref.load i.a (needArbor i.op)
  if c.cause ≠ 0 then
    if i.op = .aaddc then
      let s1 := s.addCell e.ref i.gid .wait 0 0
      (s1.atomicReply e.ref i.gid s.nextId (.error (s.failReply e.ref i.gid c.cause (opVa i.a))) false 3
        (s.clock + 3) 0).giveCredit e.ref 3 1
    else
      let s1 := (s.failCell e.ref i.gid c.cause (opVa i.a) credit).closeGroup e.ref i.gid
      if i.op = .ast then s1.giveCredit e.ref 3 1 else s1
  else
    let s1 := s.issueAcc e i.gid (.arbor i.op k v (c.run.rest c.pa)) (opSlot i.a) (opVa i.a) c credit
    (s1.modAcc s.nextId fun w => { w with due := s.clock }).closeGroup e.ref i.gid

/-- AITER and ACNT: a traversal in steps. -/
def State.issueTrav (s : State) (e : Elem) (i : Issue) (form : Nat) : State :=
  let c := s.check e.ref.load i.a (needArbor i.op)
  if c.cause ≠ 0 then (s.failCell e.ref i.gid c.cause (opVa i.a) 1).closeGroup e.ref i.gid
  else
    let x : Trav := { gid := i.gid, cell := s.nextId, a := i.a, hdr := c.pa, size := c.run.rest c.pa, lo := fld i.b 0 32,
                      hi := fld i.b 32 32, last := none, form := form, started := false, count := 0,
                      due := s.clock, va := opVa i.a, taken := false }
    let s1 := if form = 2 then (s.addCell e.ref i.gid .wait 1 0).closeGroup e.ref i.gid else s
    s1.tick.modMpe e.ref fun m => { m with travs := m.travs ++ [x] }

def issueArbor (s : State) (e : Elem) (i : Issue) : State :=
  match i.op with
  | .ald => s.issuePoint e i (if i.lane = 1 then fld i.b 32 32 else fld i.b 0 32) 0 1
  | .ast => s.issuePoint e i (coordOf i.b) (valueOf i.b) 0
  | .aaddc => s.issuePoint e i (coordOf i.b) (valueOf i.b) 0
  | .acntH => s.issuePoint e i 0 0 1
  | .aiter => s.issueTrav e i (if i.lane = 1 then 1 else 0)
  | _ => s.issueTrav e i 2

end Sys2Proof.Machine
end

