-- ==== Sys2Proof/Machine/Message.lean ====
section
/-! DEFINITION. Messages as they leave the package: the CRC of the trailer and the RESP (R454, R455). -/

namespace Sys2Proof.Machine

open Sys2Proof

/-- One bit of the CRC-32 of IEEE 802.3, reflected. -/
def crcBit (c : BitVec 32) : BitVec 32 := if c.getLsbD 0 then (c >>> 1) ^^^ 0xEDB88320 else c >>> 1

def crcByte (c : BitVec 32) (b : Byte) : BitVec 32 :=
  (List.range 8).foldl (fun x _ => crcBit x) (c ^^^ BitVec.zeroExtend 32 b)

/-- CRC-32 of words, each lowest byte first (R3, R454). -/
def crc32 (ws : List Word) : BitVec 32 :=
  ((ws.flatMap fun w => bytesOf 8 w.toNat).foldl crcByte (BitVec.allOnes 32)) ^^^ BitVec.allOnes 32

/-- The header of a RESP. -/
def respHeader (tag len status : Nat) : Word :=
  BitVec.ofNat 64 (6 * 2 ^ 60 + tag % 2 ^ 8 * 2 ^ 52 + len % 2 ^ 5 * 2 ^ 47 + status % 2 ^ 16)

/-- Send one RESP message. -/
def State.sendResp (s : State) (m : Master) (tag status : Nat) (data : List Word) : State :=
  let h := respHeader tag data.length status
  { s with out := s.out ++ [.msg m h data (BitVec.zeroExtend 64 (crc32 (h :: data)))] }

/-- Answer a message: its tag is outstanding no more (R455). -/
def State.respond (s : State) (m : Master) (tag status : Nat) (data : List Word) : State :=
  { s.sendResp m tag status data with tags := s.tags.filter fun x => decide (x ≠ (m, tag)) }

/-- Status codes of a RESP beyond those of R354 (R455). -/
def stNotOwner : Nat := 5
def stBadMsg : Nat := 6
def stReadOnly : Nat := 7

end Sys2Proof.Machine
end

