-- ==== Sys2Proof/Machine/Remote.lean ====
section
/-! DEFINITION. Remote requests as they leave the package (R405 to R412). -/

namespace Sys2Proof.Machine

open Sys2Proof

def RemFor.isProbe (w : RemFor) : Bool :=
  match w with
  | .probe _ => true
  | .reprobe _ _ => true
  | _ => false

/-- The limit of dv.RTIMEOUT; 0 is read as 1 (R412). -/
def State.rtimeout (s : State) : Nat := max 1 (fld s.dv.rtimeout 0 32)

/-- Whether a request can leave: some port is up (R407). -/
def State.routed (s : State) : Bool := !s.ports.isEmpty

/-- Whether a slot has had REMOTE_GONE from a package (R407). -/
def State.isGone (s : State) (l : LoadRef) (slot pkg : Nat) : Bool :=
  match s.slotTask l slot with
  | some x => x.gone.contains pkg
  | none => false

/-- What a probe keeps until its reply (R405). -/
def probeOf (ref : ElemRef) (slot dest : Nat) (what : RemFor) : Remote :=
  { tag := 0, ref := ref, tile := 0, addr := 0, cls := 0, ownAt := 0, tileAt := 0, dieAt := 0, packAt := 0, gid := 0,
    slot := slot, dest := dest, what := what, va := 0, fmt := 0, limit := 0 }

/-- Send a request; the entry keeps what its reply is for. -/
def State.sendRemote (s : State) (x : Remote) (op : RemOp) (addr cls inc : Nat) (data : Word) : State :=
  let tag := s.nextId
  { s with
    remotes := s.remotes ++ [{ x with tag := tag, limit := s.clock + s.rtimeout }]
    nextId := tag + 1
    out := s.out ++ [.req ⟨s.ownPkg, x.dest, tag, inc, op, addr, cls, data⟩] }

/-- Mark a package as gone for a slot (R407). -/
def State.markGone (s : State) (l : LoadRef) (slot pkg : Nat) : State :=
  s.modSlot l slot fun t => { t with gone := pkg :: t.gone.filter fun q => decide (q ≠ pkg) }

end Sys2Proof.Machine
end

