-- ==== Sys2Proof/Machine/Tasks.lean ====
section
/-! DEFINITION. The synchronisation engine: admission, dependence counts, retirement and completion of task records, and
the admission queue (R336 to R344, R354 to R361). -/

namespace Sys2Proof.Machine

open Sys2Proof

/-! ### States of a record (R340) -/

/-- Fields the SYE writes. -/
def State.setTrState (s : State) (h st : Nat) : State := s.setRecField h 0x00 44 4 st
def State.setDep (s : State) (h n : Nat) : State := s.setRecField h 0x08 32 32 n
def State.setPend (s : State) (h n : Nat) : State := s.setRecField h 0x08 0 32 n
def State.setLink (s : State) (h : Nat) (v : Word) : State := s.setRecField h 0x70 0 64 v.toNat

def State.setOwned (s : State) (h : Nat) (b : Bool) : State :=
  s.modDie (handleDie h) fun d =>
    { d with owned := if b then setAdd d.owned (handleIdx h) else setDel d.owned (handleIdx h) }

def State.ownsH (s : State) (h : Nat) : Bool := s.owns (handleDie h) (handleIdx h)

/-- The state of a record: what stands in it, and WAITING to SAVED or HELD only while the SYE owns it. -/
def State.recState (s : State) (h : Nat) : Nat :=
  let st := s.trState h
  if s.ownsH h then st else if st = 5 ∨ st = 7 then st else 0

/-- Words of a record with an uncorrectable error (R451). -/
def State.recBad (s : State) (h : Nat) : Bool :=
  match s.recAddr h with
  | some a => (List.range 16).any fun k => s.isBad (a + 8 * k)
  | none => false

/-- Whether the successor fields can be read. -/
def State.succBad (s : State) (h : Nat) : Bool :=
  match s.recAddr h with
  | some a => s.isBad (a + 0x18) || s.isBad (a + 0x20)
  | none => false

/-- Count a dropped decrement or failure in dv.SYESTAT (R342, R457). -/
def State.dropDec (s : State) (h : Nat) : State :=
  let n := min 0xFFFF (fld s.dv.syestat 16 16 + 1)
  { s with dv := { s.dv with syestat := BitVec.ofNat 64 (h % 2 ^ 32 * 2 ^ 32 + n * 2 ^ 16 + 1) } }

/-- A scheduler choice falls due (R346). -/
def State.wantChoice (s : State) (d : Nat) : State := s.modDie d fun x => { x with csDue := true }

/-- Send a decrement to a successor: 24 clocks or more when it has another home die (R341). -/
def State.sendDec (s : State) (src h err : Nat) : State :=
  let far := if handleDie h = src then 1 else 24
  { s with
    decs := s.decs ++ [⟨s.nextId, h, err, s.clock + far + s.waitNow⟩]
    nextId := s.nextId + 1
    freeCount := s.freeCount + 1 }

/-- Send one decrement to each successor, SUCC0 first (R341, R343). -/
def State.sendDecs (s : State) (h err : Nat) : State :=
  (List.range 4).foldl (fun s k =>
    let x := s.trSucc h k
    if handleIdx x = 0 then s else s.sendDec (handleDie h) x err) s

/-- A record reaches DONE or ABANDONED: LINK and PEND are zero, its ownership ends, and its successors are decremented
(R336, R339, R341, R343). No vote on it stays open. -/
def State.finishRec (s : State) (h : Nat) (abandoned : Bool) : State :=
  let s1 := (((s.setTrState h (if abandoned then 7 else 5)).setPend h 0).setLink h 0).setOwned h false
  let s2 := s1.modDie (handleDie h) fun d =>
    { d with ready := d.ready.filter fun r => decide (r.handle ≠ h), votes := d.votes.filter fun v => decide (v.handle ≠ h) }
  if s.succBad h then s2 else s2.sendDecs h (if abandoned then Cause.predAbandoned else 0)

/-- ABANDONED with a cause. -/
def State.abandonRec (s : State) (h cause : Nat) : State := (s.addErr h cause).finishRec h true

/-- Abandon a record whose words hold an uncorrectable error (R451). -/
def State.abandonBad (s : State) (h : Nat) : State := (s.logSe 6 0 0 h).abandonRec h Cause.uncorrectable

/-- Enter the ready queue of the record's priority (R344). -/
def State.enqueue (s : State) (r : ReadyEnt) : State :=
  s.modDie (handleDie r.handle) fun d => { d with ready := d.ready ++ [r] }

/-- The vote on a task (R446). -/
def State.vote? (s : State) (h : Nat) : Option Vote :=
  (s.die? (handleDie h)).bind fun d => d.votes.find? fun v => decide (v.handle = h)

def union (xs ys : List Nat) : List Nat := ys.foldl (fun acc y => if acc.contains y then acc else acc ++ [y]) xs

/-- Tiles that the execution of a vote that runs, or is to run, must not use: for E3 those of E2 too. -/
def Vote.exclNow (v : Vote) : List Nat :=
  if v.stage = 1 then [] else if v.stage = 2 then v.excl else union v.excl v.e2tiles

/-- The entry of a task that becomes READY now: that of its vote's execution when it has one. A frame owner brings the
exclusions of every task saved with it (R446, R450). -/
def State.readyEnt (s : State) (h : Nat) : ReadyEnt :=
  let with_ : List Nat := match s.saved.find? fun v => v.owner == h with
    | some v => (v.tasks.filterMap id).map (·.handle)
    | none => [h]
  let excl := with_.foldl (fun xs t => match s.vote? t with
    | some v => union xs v.exclNow
    | none => xs) []
  let stage := match s.vote? h with
    | some v => if v.stage = 1 then 0 else v.stage
    | none => 0
  ⟨h, s.clock, s.trPrio h, stage, excl⟩

/-- The record becomes READY, or DONE when COUNT is 0 (R340). LINK is the SYE's while the record is owned (log 9). -/
def State.becomeReady (s : State) (h : Nat) : State :=
  if s.trCount h = 0 then s.finishRec h false
  else
    (((s.setTrState h 2).setLink h (Config.link s.freeCount)).tick).enqueue (s.readyEnt h)

/-- DEP of a WAITING record has reached 0 (R340, R343). -/
def State.depZero (s : State) (h : Nat) : State := if s.trErr h = 0 then s.becomeReady h else s.finishRec h true

/-- One decrement from a predecessor or an engine command (R342). -/
def State.decrement (s : State) (h : Nat) : State :=
  match s.recState h with
  | 1 =>
    let n := s.trDep h - 1
    let s1 := s.setDep h n
    if n = 0 then s1.depZero h else s1
  | 6 =>
    if s.trDep h = 0 then (s.addErr h Cause.depUnderflow).dropDec h else s.setDep h (s.trDep h - 1)
  | _ => s.dropDec h

/-- DEP_DECREMENT: a decrement is performed at the record's home, one in a clock (R342, R343, R360). -/
def execDepDecrement (s : State) : Out :=
  match s.actor with
  | .id n =>
    match s.decs.find? fun d => decide (d.id = n) with
    | none => .next s
    | some d =>
      if s.opBusy (handleDie d.handle) then .next s
      else
      let s1 := { s.useOp (handleDie d.handle) with decs := s.decs.filter fun x => decide (x.id ≠ n) }
      let live := s1.recState d.handle = 1 ∨ s1.recState d.handle = 6
      if s1.recBad d.handle ∧ live then .next (s1.abandonBad d.handle)
      else
        let s2 := if live ∧ d.err ≠ 0 then s1.addErr d.handle d.err else s1
        .next (s2.decrement d.handle)
  | _ => .fault .noActor

/-! ### TKEN (R356, R500) -/

/-- Whether a successor handle names a record that can exist. -/
def State.succOk (s : State) (x : Nat) : Bool := handleIdx x == 0 || (s.recAddr x).isSome

/-- Byte offset of the first field in breach; none when the record may be admitted (R500). -/
def State.recBreach (s : State) (h : Nat) : Option Nat :=
  let f := s.recField h
  let tests : List (Nat × Bool) :=
    [(0x04, f 0x00 36 1 != 0), (0x05, f 0x00 40 4 != 0), (0x08, s.trPend h != 0),
     (0x10, decide (0 < s.trCount h) && s.trCfgid h == 0),
     (0x18, !s.succOk (s.trSucc h 0)), (0x1C, !s.succOk (s.trSucc h 1)),
     (0x20, !s.succOk (s.trSucc h 2)), (0x24, !s.succOk (s.trSucc h 3)),
     (0x48, f 0x48 0 3 != 0), (0x50, f 0x50 0 3 != 0), (0x58, f 0x58 0 3 != 0), (0x60, f 0x60 0 3 != 0),
     (0x68, f 0x68 0 12 != 0), (0x6D, f 0x68 44 20 != 0), (0x70, f 0x70 0 64 != 0)]
  (tests.find? fun t => t.2).map (·.1)

/-- TKEN at its point: the machine, the status code and its information (R356). -/
def State.tkenAt (s : State) (h : Nat) : State × Nat × Nat :=
  if (s.recAddr h).isNone then (s, 3, h)
  else if s.ownsH h then (s, 2, s.trState h)
  else if s.recBad h then (s.abandonBad h, 0, 7)
  else
    match s.recBreach h with
    | some o => (s, 4, o)
    | none =>
      let s1 := ((s.setErr h 0).setOwned h true)
      if s.trDep h = 0 then (s1.becomeReady h, 0, if s.trCount h = 0 then 5 else 2)
      else (((s1.setTrState h 1).setLink h (Config.link s.freeCount)).tick, 0, 1)

/-! ### TKDEC, TKST, QPUT (R357 to R359) -/

/-- tkdec at its point. -/
def State.tkdecAt (s : State) (h k : Nat) : State × Nat × Nat :=
  if (s.recAddr h).isNone then (s, 3, h)
  else
    let st := s.recState h
    if st ≠ 1 ∧ st ≠ 6 then (s.dropDec h, 2, s.trState h)
    else if s.recBad h then (s.abandonBad h, 2, 7)
    else if s.trDep h < k then (s.addErr h Cause.depUnderflow, 4, 0x0C)
    else
      let n := s.trDep h - k
      let s1 := s.setDep h n
      (if st = 1 ∧ n = 0 then s1.depZero h else s1, 0, n)

/-- tkst in its three forms at its point. -/
def State.tkstAt (s : State) (op : MOp) (h : Nat) : State × Nat × Nat :=
  if (s.recAddr h).isNone then (s, 3, h)
  else
    let st := s.recState h
    match op with
    | .tkstClr =>
      if st ≠ 6 then (s, 2, s.trState h)
      else if s.recBad h then (s.abandonBad h, 2, 7)
      else
        let s1 := s.setErr h 0
        if 0 < s.trDep h then (s1.setTrState h 1, 0, 1)
        else (s1.becomeReady h, 0, if s.trCount h = 0 then 5 else 2)
    | .tkstAbn => if st ≠ 1 ∧ st ≠ 6 then (s, 2, s.trState h) else (s.abandonRec h Cause.abandoned, 0, 7)
    | _ => (s, 0, s.trState h * 2 ^ 44 + s.trDep h)

/-- Lower PEND (R341). -/
def State.lowerPend (s : State) (h k : Nat) : State := s.setPend h (s.trPend h - k)

/-- Accepted commands that PEND of a task counts, and one more for the thread token that issued a command which still waits
for its acceptance (R341, R387). -/
def State.bound (s : State) (h : Nat) : Nat :=
  let cs := s.cmds.filter fun c => c.task == h
  (cs.filter fun c => c.st != 0).length + boolN (cs.any fun c => c.st == 0)

/-- tkdec.ret of a task at its point (R357). One that leaves PEND below the commands bound to the task retires the thread
token of a command before its status: BADFIELD, and nothing is retired (R387, R428; log 102). -/
def State.retireAt (s : State) (h k : Nat) : State × Nat × Nat :=
  if s.trPend h < k then ((s.setErr h Cause.retireUnderflow).setPend h 0, 4, 0x08)
  else if s.trPend h < k + s.bound h then (s, 4, 0x08)
  else (s.lowerPend h k, 0, s.trPend h - k)

/-! ### Entry queues (R349) -/

/-- Address of a ring place of entry n of fabric number f. -/
def ringAddr (die f n i : Nat) : Nat := syeBase die + (16 * f + n) * 4096 + 8 * (i % 512)

def State.modEntry (s : State) (l : LoadRef) (n : Nat) (f : EntryQ → EntryQ) : State :=
  s.modLoad l fun x => { x with entries := x.entries.modify n f }

/-- Append a payload to an entry's ring. -/
def State.ringPut (s : State) (l : LoadRef) (n : Nat) (v : Word) : State :=
  match s.load? l with
  | none => s
  | some x =>
    match x.entries[n]? with
    | none => s
    | some q =>
      (s.putWord (ringAddr l.die l.fab n (q.head + q.count)) v).modEntry l n fun q => { q with count := q.count + 1 }

/-- Payloads of a ring that no request has fetched yet. -/
def EntryQ.unasked (q : EntryQ) : Nat := q.count - (q.reqs.map (·.2)).foldl (· + ·) 0

/-- QPUT at its point, for the task h (R358). -/
def State.qputAt (s : State) (l : LoadRef) (n h : Nat) (v : Word) : State × Nat × Nat :=
  let c := match s.load? l with
    | some x => (match x.entries[n]? with | some q => q.count | none => 512)
    | none => 512
  if 512 ≤ c then (s, 1, 512)
  else ((s.ringPut l n v).setPend h (s.trPend h + 1), 0, c + 1)

/-! ### The admission queue (R360, R361) -/

/-- The DATA token that carries a status (R354). -/
def statusTok (code info : Nat) : Tok := dataTok 0 (BitVec.ofNat 64 (code * 2 ^ 48 + info % 2 ^ 48))

/-- Answer a request with a status. -/
def State.admAnswer (s : State) (q : AdmReq) (code info : Nat) : State :=
  match q.who with
  | .mpe r gid cell =>
    (s.setOutc r gid (code == 0)).reply r gid cell (.tok (statusTok code info)) (s.clock + q.back)
  | .host m tag => s.respond m tag code [BitVec.ofNat 64 (code * 2 ^ 48 + info % 2 ^ 48)]

/-- Answer a request with a FAULT token. -/
def State.admFault (s : State) (q : AdmReq) (cause : Nat) : State :=
  match q.who with
  | .mpe r gid cell => s.reply r gid cell (s.failReply r gid cause q.va) (s.clock + q.back)
  | .host m tag => s.respond m tag stBadMsg []

/-- Act on a request at its point. -/
def State.admAct (s : State) (q : AdmReq) : State :=
  let done (x : State × Nat × Nat) : State := x.1.admAnswer q x.2.1 x.2.2
  let inSlot (g : LoadRef → Nat → State) : State :=
    match q.who with
    | .mpe r _ _ =>
      match s.slotTask r.load (opSlot q.payload) with
      | some x => g r.load x.handle
      | none => s.admFault q Cause.noslot
    | .host _ _ => s
  match q.op with
  | .tken => done (s.tkenAt q.handle)
  | .tkdec => done (s.tkdecAt q.handle q.k)
  | .tkdecRet => inSlot fun _ h => done (s.retireAt h q.k)
  | .qput => inSlot fun l h => done (s.qputAt l q.k h q.payload)
  | op => done (s.tkstAt op q.handle)

/-- A request arrives: with 256 queued it is refused with FULL, else it takes its place. -/
def State.admArrive (s : State) (d : Nat) (x : Die) (q : AdmReq) : State :=
  if 256 ≤ (x.adm.filter fun y => y.queued).length then
    (s.modDie d fun x => { x with adm := x.adm.filter fun y => decide (y.id ≠ q.id) }).admAnswer q 1 256
  else
    s.modDie d fun x =>
      { x with adm := x.adm.filter (fun y => decide (y.id ≠ q.id)) ++ [{ q with queued := true }] }

/-- ADMISSION_REQUEST: with a name, the request of that name arrives; without, the SYE removes the oldest request, one
every 2 clocks, and acts on it. -/
def execAdmissionRequest (s : State) : Out :=
  match s.actor with
  | .dieN d n =>
    match s.die? d with
    | none => .fault .noActor
    | some x =>
      match x.adm.find? fun q => decide (q.id = n) with
      | none => .next s
      | some q => if q.queued ∨ s.clock < q.due then .next s else .next (s.admArrive d x q)
  | .die d =>
    match s.die? d with
    | none => .fault .noActor
    | some x =>
      match x.adm.find? fun q => q.queued with
      | none => .next s
      | some q =>
        if s.clock < x.admFree then .next s
        else
          .next ((s.modDie d fun x =>
            { x with adm := x.adm.filter fun (y : AdmReq) => decide (y.id ≠ q.id)
                     admFree := s.clock + 2 }).admAct q)
  | _ => .fault .noActor

/-! ### Issue (R352, R360) -/

/-- The clocks a request travels each way: 10, and 12 more to another die. -/
def admHop (die home : Nat) : Nat := if die = home then 10 else 22

/-- Send a request to the home die of what it acts on. -/
def State.sendAdm (s : State) (q : AdmReq) (die home : Nat) : State :=
  let (there, back) := match q.who with
    | .host _ _ => (20, 0)
    | _ => (admHop die home, admHop die home)
  { (s.modDie home fun d => { d with adm := d.adm ++ [{ q with
      id := s.nextId, due := s.clock + there + s.waitNow, back := back, queued := false }] }) with
    nextId := s.nextId + 1
    freeCount := s.freeCount + 1 }

/-- TKEN, TKDEC, QPUT and TKST leave for the admission queue. -/
def issueTask (s : State) (e : Elem) (i : Issue) : State :=
  let r := e.ref
  let bySlot := i.op == .tkdecRet || i.op == .qput
  let h := fld i.a 0 32
  let home := if bySlot then r.die else handleDie h
  let cell := s.nextId
  let s1 := (s.addCell r i.gid .wait 3 0).closeGroup r i.gid
  s1.sendAdm { id := 0, op := i.op, who := .mpe r i.gid cell, handle := h, k := i.n, payload := i.a, va := opVa i.a,
               due := 0, back := 0, queued := false } r.die home

end Sys2Proof.Machine
end

