-- ==== Sys2Proof/Machine/Engines.lean ====
section
/-! DEFINITION. Engine commands: the checks of a command block, acceptance through the range scoreboard, copies,
densifying copies, and the end of a command (R384 to R392, R397). -/

namespace Sys2Proof.Machine

open Sys2Proof

/-! ### Blocks -/

/-- Words of a command block. -/
def blockWords (op : MOp) : Nat := if op = .cve then 8 else 4

/-- Whether an op is a reduction command (R421). -/
def isReduction (op : MOp) : Bool :=
  op == .dred || op == .drrecvR || op == .drrecvW || op == .drclose || op == .drcloseW

/-- Whether an op is a command with a block. -/
def isCommand (op : MOp) : Bool :=
  op == .cpy || op == .cve || op == .densQ || op == .densS || isReduction op

/-- The block's own check: DENSE, readable and writable, aligned to its size (R386). -/
def needBlock (op : MOp) : Need := ⟨true, 8 * blockWords op, none, false, [0], true, true, 0⟩

def blk (b : List Word) (k : Nat) : Word := b.getD k 0

/-- The first field in breach among tests in increasing byte offset. -/
def firstBreach (ts : List (Nat × Bool)) : Option Nat := (ts.find? fun t => t.2).map (·.1)

/-- CPY (R388, R500). -/
def cpyBreach (b : List Word) : Option Nat :=
  let dst := fld (blk b 0) 0 57
  let src := fld (blk b 1) 0 57
  let len := fld (blk b 2) 0 32
  firstBreach
    [(0x00, dst % 8 != 0), (0x07, fld (blk b 0) 57 7 != 0), (0x08, src % 8 != 0), (0x0F, fld (blk b 1) 57 7 != 0),
     (0x10, len == 0 || len % 8 != 0 || decide (src < dst + len ∧ dst < src + len)),
     (0x14, fld (blk b 2) 32 32 != 0), (0x18, blk b 3 != 0)]

/-- DENS (R397). -/
def densBreach (b : List Word) : Option Nat :=
  let lo := fld (blk b 2) 0 32
  let hi := fld (blk b 2) 32 32
  firstBreach
    [(0x07, fld (blk b 0) 57 7 != 0), (0x08, fld (blk b 1) 0 57 % 8 != 0), (0x0F, fld (blk b 1) 57 7 != 0),
     (0x14, decide (hi < lo ∨ 2 ^ 28 ≤ hi - lo))]

/-- Fields of a CVE block (R393). -/
structure CveF where
  kind : Nat
  fin : Nat
  fout : Nat
  rmode : Nat
  sat : Bool
  src : Nat
  dst : Nat
  nrows : Nat
  ncols : Nat
  spitch : Nat
  dpitch : Nat
  rank : Nat
  step : Nat
  w0 : Nat
  w1 : Nat
  nnode : Nat
  nnzmax : Nat

def cveF (b : List Word) : CveF :=
  { kind := fld (blk b 0) 60 4, fin := fld (blk b 0) 56 4, fout := fld (blk b 0) 52 4, rmode := fld (blk b 0) 49 3,
    sat := bitAt (blk b 0) 48, src := fld (blk b 1) 0 57, dst := fld (blk b 2) 0 57, nrows := fld (blk b 3) 0 32,
    ncols := fld (blk b 3) 32 32, spitch := fld (blk b 4) 0 32, dpitch := fld (blk b 4) 32 32,
    rank := fld (blk b 5) 0 32, step := fld (blk b 5) 32 32, w0 := fld (blk b 6) 24 6, w1 := fld (blk b 6) 30 6,
    nnode := fld (blk b 6) 0 24, nnzmax := fld (blk b 6) 0 32 }

def isBx (t : Nat) : Bool := t == 11 || t == 12 || t == 13

/-- Bits of a dense row of a format (R43, R85). -/
def rowBits (t ncols : Nat) : Nat := if isBx t then ncols / 16 * bxBits t else ncols * tagWidth t

/-- The multiple that NCOLS must be for a BX format (R394). -/
def bxCols (t : Nat) : Nat := if isBx t then 16 * bxGroupBlocks t else 1

def CveF.srcDense (f : CveF) : Bool := f.kind == 0 || f.kind == 1 || f.kind == 3
def CveF.dstDense (f : CveF) : Bool := f.kind == 0 || f.kind == 2
def CveF.toArbor (f : CveF) : Bool := f.kind == 3 || f.kind == 4
def CveF.toCsr (f : CveF) : Bool := f.kind == 1

/-- CVE (R393, R394, R500). A condition that joins KIND, FIN and FOUT is a breach of KIND's byte. -/
def cveBreach (b : List Word) : Option Nat :=
  let f := cveF b
  let rest := f.kind ≠ 0
  let sb := rowBits f.fin f.ncols
  let db := rowBits f.fout f.ncols
  firstBreach
    [(0x00, fld (blk b 0) 0 48 != 0),
     (0x06, decide (6 ≤ f.rmode) || decide (f.fout = 0 ∨ 14 ≤ f.fout)),
     (0x07, decide (f.fin = 0 ∨ 14 ≤ f.fin ∨ 5 ≤ f.kind) || (rest && (f.fin != f.fout || (f.fout != 1 && f.fout != 4)))),
     (0x08, f.src % 8 != 0), (0x10, f.dst % 8 != 0),
     (0x1C, (f.srcDense && (f.ncols % bxCols f.fin != 0 || sb % 64 != 0)) ||
       (f.dstDense && (f.ncols % bxCols f.fout != 0 || db % 64 != 0))),
     (0x20, f.srcDense && (f.spitch % 8 != 0 || decide (f.spitch < sb / 8))),
     (0x24, f.dstDense && (f.dpitch % 8 != 0 || decide (f.dpitch < db / 8))),
     (0x30, !f.toArbor && !f.toCsr && f.nnode != 0),
     (0x33, !f.toArbor && !f.toCsr && fld (blk b 6) 24 12 != 0),
     (0x33, f.toArbor && (f.w0 == 0 || f.w1 == 0 || decide (32 < f.w0 + f.w1) || decide (2 ^ f.w0 < f.ncols) ||
       decide (2 ^ f.w1 < f.nrows))),
     (0x38, blk b 7 != 0)]

/-- A group-table entry at reset: no member index, and one child (R415). -/
def GroupEnt.atReset (g : Nat) : GroupEnt := ⟨g, BitVec.ofNat 64 (0x1FFF * 2 ^ 30), 0, [⟨0, 0, 0, 0⟩]⟩

/-- The group-table entry of a group at this package: its reset value until it is written. -/
def State.groupAt (s : State) (g : Nat) : GroupEnt := (s.groups.find? fun x => x.group == g).getD (GroupEnt.atReset g)

/-- The entry, if valid (R415). -/
def State.groupEnt (s : State) (g : Nat) : Option GroupEnt := some (s.groupAt g) |>.filter fun x => bitAt x.w0 63

/-- Word 0 of a reduction block (R422). -/
def rbGroup (b : List Word) : Nat := fld (blk b 0) 52 12
def rbSeq (b : List Word) : Nat := fld (blk b 0) 36 16
def rbOp (b : List Word) : Nat := fld (blk b 0) 34 2
def rbFmt (b : List Word) : Nat := fld (blk b 0) 30 4
def rbLen (b : List Word) : Nat := fld (blk b 0) 22 8 + 1

def GroupEnt.self (g : GroupEnt) : Nat := fld g.w0 30 13
def GroupEnt.m (g : GroupEnt) : Nat := fld g.w0 43 13

def GroupEnt.win (g : GroupEnt) : Nat := fld g.w1 22 3 + 1

/-- Whether an instance lies WINM1 + 1 or more beyond one of its group that a receive place of this package holds and that
has not finalised (R418; log 102). SEQ counts modulo 2^16. -/
def State.beyondWindow (s : State) (b : List Word) : Bool :=
  match s.groupEnt (rbGroup b) with
  | none => false
  | some g =>
    s.places.any fun p =>
      let d := (rbSeq b + 2 ^ 16 - p.seq) % 2 ^ 16
      (p.st == 1 || p.st == 3) && p.group == rbGroup b && decide (g.win ≤ d ∧ d < 2 ^ 15)

/-- The first field of a reduction block in breach (R422, R500). -/
def redBreach (s : State) (op : MOp) (b : List Word) : Option Nat :=
  let f := rbFmt b
  let badGroup := match s.groupEnt (rbGroup b) with
    | none => true
    | some g => (op == .dred || op == .drcloseW) && g.self == 0x1FFF
  let recv := op == .drrecvR || op == .drrecvW
  firstBreach
    [(0x00, fld (blk b 0) 0 22 != 0), (0x03, f != 4 && f != 5 && f != 7 && f != 11),
      (0x04, decide (2 ≤ rbOp b) || ((recv || op == .dred) && s.beyondWindow b)),
     (0x06, badGroup), (0x08, (recv || op == .dred) && fld (blk b 1) 0 57 % 8 != 0),
     (0x10, if recv then fld (blk b 2) 0 57 % 8 != 0 else fld (blk b 2) 0 57 != 0), (0x18, blk b 3 != 0)]

def cmdBreach (s : State) (op : MOp) (b : List Word) : Option Nat :=
  match op with
  | .cpy => cpyBreach b
  | .cve => cveBreach b
  | .densQ => densBreach b
  | .densS => densBreach b
  | _ => redBreach s op b

/-! ### Ranges (R386, R388, R389) -/

/-- What a range of a command is used for. -/
inductive RUse where
  | src | dst | dense | denseW | arborR | arborW
deriving DecidableEq, Repr

/-- Checks of one address of a range. A destination may lie in a fill run. -/
def State.checkUse (s : State) (l : LoadRef) (a : Word) (u : RUse) : Checked :=
  let need (classes : List Nat) (r w : Bool) : Need := ⟨false, 1, none, false, classes, r, w, 0⟩
  match u with
  | .src => s.check l a (need [0, 3] true false)
  | .dense => s.check l a (need [0] true false)
  | .denseW => s.check l a (need [0] false true)
  | .arborR => s.check l a { need [2] true false with align := 256 }
  | .arborW => s.check l a (need [2] false true)
  | .dst =>
    let c := s.check l a (need [0, 3] false false)
    if c.cause ≠ 0 then c
    else if c.run.isFill ∨ (c.run.cls = 0 ∧ c.run.w) then c
    else if c.run.cls = 3 then { c with cause := Cause.cls }
    else { c with cause := Cause.perm }

/-- Check a range granule by granule: the first failure with its address, or the pieces of memory it covers. -/
def State.rangeOf (s : State) (l : LoadRef) (a : Word) (u : RUse) (len : Nat) : Nat → Nat → List Range →
    Except (Nat × Nat) (List Range)
  | 0, _, acc => .ok acc.reverse
  | fuel + 1, off, acc =>
    if len ≤ off then .ok acc.reverse
    else
      let va := opVa a + off
      if 2 ^ 57 ≤ va then .error (Cause.extent, va % 2 ^ 57)
      else
        let c := s.checkUse l (addVa a off) u
        if c.cause ≠ 0 then .error (c.cause, va)
        else
          let n := min (len - off) (0x10000 - va % 0x10000)
          s.rangeOf l a u len fuel (off + n) (⟨c.pa, n⟩ :: acc)

def State.ranges (s : State) (l : LoadRef) (a : Word) (u : RUse) (len : Nat) : Except (Nat × Nat) (List Range) :=
  s.rangeOf l a u len (len / 0x10000 + 2) 0 []

/-- The operand of a virtual address under the slot of a block. -/
def sameSlot (blkVa : Word) (va : Nat) : Word := BitVec.ofNat 64 (opSlot blkVa * 2 ^ 61 + va)

/-- Bytes of a dense array. -/
def denseLen (nrows pitch bits : Nat) : Nat := if nrows = 0 then 0 else (nrows - 1) * pitch + bits / 8

/-- Bytes of a CSR structure (R395). -/
def csrLen (nrows nnzmax : Nat) : Nat := 16 + 8 * ceilDiv (nrows + 1) 2 + 16 * ceilDiv nnzmax 2

/-- A word that an address under a block's slot reads as. -/
def State.wordVa (s : State) (l : LoadRef) (a : Word) : Word :=
  let c := s.checkUse l a .src
  if c.cause = 0 then s.word (wordOf c.pa) else 0

/-- The ranges of a command: its sources, then its destinations. -/
def cmdRanges (s : State) (l : LoadRef) (op : MOp) (blkVa : Word) (b : List Word) :
    Except (Nat × Nat) (List Range × List Range) := do
  let at_ := sameSlot blkVa
  match op with
  | .cpy =>
    let n := fld (blk b 2) 0 32
    let ss ← s.ranges l (at_ (fld (blk b 1) 0 57)) .src n
    let ds ← s.ranges l (at_ (fld (blk b 0) 0 57)) .dst n
    return (ss, ds)
  | .cve =>
    let f := cveF b
    let sl := if f.srcDense then denseLen f.nrows f.spitch (rowBits f.fin f.ncols)
      else csrLen f.nrows (fld (s.wordVa l (at_ ((f.src + 8) % 2 ^ 57))) 0 32)
    let ss ← s.ranges l (at_ f.src) .src sl
    let ds ←
      if f.toArbor then s.ranges l (at_ f.dst) .arborW (256 * f.nnode)
      else if f.dstDense then s.ranges l (at_ f.dst) .dst (denseLen f.nrows f.dpitch (rowBits f.fout f.ncols))
      else s.ranges l (at_ f.dst) .dst (csrLen f.nrows f.nnzmax)
    return (ss, ds)
  | .densQ =>
    let _ ← s.ranges l (at_ (fld (blk b 0) 0 57)) .arborR 8
    let n := 4 * (fld (blk b 2) 32 32 - fld (blk b 2) 0 32 + 1)
    let ds ← s.ranges l (at_ (fld (blk b 1) 0 57)) .denseW (8 * ceilDiv n 8)
    return ([], ds)
  | .densS =>
    let _ ← s.ranges l (at_ (fld (blk b 0) 0 57)) .arborR 8
    let n := 4 * (fld (blk b 2) 32 32 - fld (blk b 2) 0 32 + 1)
    let ds ← s.ranges l (at_ (fld (blk b 1) 0 57)) .denseW (8 * ceilDiv n 8)
    return ([], ds)
  | .dred =>
    let _ ← s.ranges l (at_ (fld (blk b 1) 0 57)) .dense (8 * rbLen b)
    return ([], [])
  | .drrecvR => recv at_
  | .drrecvW => recv at_
  | _ => return ([], [])
where
  /-- the value and the bitmap of a receive -/
  recv (at_ : Nat → Word) : Except (Nat × Nat) (List Range × List Range) := do
    let m := match s.groupEnt (rbGroup b) with
      | some g => g.m
      | none => 0
    let vs ← s.ranges l (at_ (fld (blk b 1) 0 57)) .denseW (8 * rbLen b)
    let ms ← s.ranges l (at_ (fld (blk b 2) 0 57)) .denseW (8 * ceilDiv m 64)
    return (vs, ms)

/-! ### COMMAND_BLOCK_CHECK (R386) -/

/-- The queue a command enters and how many it holds (R384, R421). -/
def Die.queueOf (d : Die) (op : MOp) : List Nat :=
  if op = .cve then d.fceQ else if isReduction op then d.redQ else d.copyQ
def queueSize (op : MOp) : Nat := if op = .cve ∨ isReduction op then 16 else 64

def Die.enqueueCmd (d : Die) (op : MOp) (id : Nat) : Die :=
  if op = .cve then { d with fceQ := d.fceQ ++ [id] }
  else if isReduction op then { d with redQ := d.redQ ++ [id] }
  else { d with copyQ := d.copyQ ++ [id] }

def Die.dequeueCmd (d : Die) (id : Nat) : Die :=
  { d with copyQ := d.copyQ.filter (fun x => x != id), fceQ := d.fceQ.filter (fun x => x != id),
           redQ := d.redQ.filter (fun x => x != id) }

/-- A status token of a command, or a FAULT token. -/
def State.cmdStatus (s : State) (r : ElemRef) (gid cell code info due : Nat) : State :=
  (s.setOutc r gid (code == 0)).reply r gid cell (.tok (statusTok code info)) due

/-- What the check of a block comes to: a FAULT cause with its address, a status, or a command to queue. -/
inductive BlkRes where
  | fault (cause va : Nat)
  | status (code info : Nat)
  | queue (blkPa : Nat) (b : List Word) (srcs dsts : List Range)

/-- The words of a block as they were read. -/
def Issue.block (i : Issue) : List Word :=
  (List.range (blockWords i.op)).map fun k =>
    match i.got.find? fun w => w.1 == k with
    | some w => w.2.2
    | none => 0

/-- Words of a block that are still to be read. -/
def Issue.blockTodo (i : Issue) : List Nat :=
  (List.range (blockWords i.op)).filter fun k => !i.got.any fun w => w.1 == k

/-- The outcome of the checks of R386, in their order, once the block is read or does not pass its own check. -/
def State.checkBlock (s : State) (e : Elem) (i : Issue) : BlkRes :=
  let l := e.ref.load
  let c := s.check l i.a (needBlock i.op)
  if c.cause ≠ 0 then .fault c.cause (opVa i.a)
  else
    match i.got.find? fun w => w.2.1 != 0 with
    | some w => .fault w.2.1 (opVa i.a)
    | none =>
      let b := i.block
      match cmdBreach s i.op b with
      | some o => .status 4 o
      | none =>
        match cmdRanges s l i.op i.a b with
        | .error (k, va) => .fault k va
        | .ok (ss, ds) =>
          let h := fld i.b 0 32
          let d := match s.die? e.ref.die with
            | some d => (d.queueOf i.op).length
            | none => 0
          if handleIdx h ≠ 0 ∧ (s.recAddr h).isNone then .status 3 h
          else if queueSize i.op ≤ d then .status 1 d
          else .queue c.pa b ss ds

/-- The issuing task of a block's slot. -/
def State.taskOf (s : State) (l : LoadRef) (a : Word) : Nat :=
  match s.slotTask l (opSlot a) with
  | some x => x.handle
  | none => 0

/-- Where the arbor of a densifying copy lies, and what its run holds from there. -/
def State.arbOf (s : State) (l : LoadRef) (op : MOp) (blkVa : Word) (b : List Word) : Nat × Nat :=
  if op = .densQ ∨ op = .densS then
    let c := s.checkUse l (sameSlot blkVa (fld (blk b 0) 0 57)) .arborR
    (c.pa, c.run.rest c.pa)
  else (0, 0)

def Cmd.isDens (c : Cmd) : Bool := c.op == .densQ || c.op == .densS

/-- Bytes that a command delivers in chunks. -/
def cmdLen (op : MOp) (b : List Word) : Nat :=
  match op with
  | .cpy => fld (blk b 2) 0 32
  | .densQ => 4 * (fld (blk b 2) 32 32 - fld (blk b 2) 0 32 + 1)
  | .densS => 4 * (fld (blk b 2) 32 32 - fld (blk b 2) 0 32 + 1)
  | _ => 0

/-- Whether the read of a word of a block waits: a write in flight stands over it that the element obtains, after which it
is read (log 4), or an accepted command holds it, as it does every access of the MPE (R284). -/
def State.blockHeld (s : State) (e : Elem) (a : Nat) : Bool := s.sbHeld a 8 false || !(s.reached e.obs a).isEmpty

/-- Read some of the words of a block, each an access of its own (R286). -/
def State.readBlock (s : State) (e : Elem) (i : Issue) : State :=
  let c := s.check e.ref.load i.a (needBlock i.op)
  let words := (s.actNow i.blockTodo.length).filterMap fun j =>
    let k := i.blockTodo.getD j 0
    let a := c.pa + 8 * k
    if s.blockHeld e a then none else some (k, if s.isBad a then Cause.uncorrectable else 0, s.word a)
  (s.modMpe e.ref fun m => { m with issueQ := m.issueQ.map fun x =>
    if x.gid = i.gid then { x with got := x.got ++ words } else x }).tick

/-- Whether the words of a block are read and the command can be checked: also when the block fails its own check. -/
def State.blockRead (s : State) (e : Elem) (i : Issue) : Bool :=
  i.blockTodo.isEmpty || (s.check e.ref.load i.a (needBlock i.op)).cause != 0

/-- The checks of a command whose block is read, and its place in the queue or its answer (R386). -/
def State.blockChecked (s : State) (e : Elem) (i : Issue) : State :=
  let r := e.ref
  let gid := i.gid
  let cell := s.nextId
  let s0 := s.modMpe r fun m => { m with issueQ := m.issueQ.filter fun x => decide (x.gid ≠ gid) }
  let s1 := (s0.addCell r gid .wait 3 0).closeGroup r gid
  match s.checkBlock e i with
  | .fault c va =>
    let s2 := if c = Cause.uncorrectable then s1.logElem e else s1
    s2.reply r gid cell (s2.failReply r gid c va) (s.clock + 3)
  | .status code info => s1.cmdStatus r gid cell code info (s.clock + 3)
  | .queue pa b ss ds =>
    let (hdr, size) := s.arbOf r.load i.op i.a b
    let id := s1.nextId
    let c : Cmd :=
      { id := id, die := r.die, op := i.op, ref := r, gid := gid, cell := cell, slot := opSlot i.a,
        task := s.taskOf r.load i.a, handle := fld i.b 0 32, blk := b, blkVa := i.a, blkPa := pa, st := 0,
        srcs := ss, dsts := ds, len := cmdLen i.op b, done := 0, cause := 0, due := s.clock + s.waitNow, hdr := hdr,
        size := size, words := [], next := 0, fail := none, snap := [], ents := [],
        key := some (fld (blk b 2) 0 32), planned := false, spots := [], phases := [] }
    { (s1.modDie r.die fun d => d.enqueueCmd i.op id) with
      cmds := s1.cmds ++ [c], nextId := id + 1, freeCount := s1.freeCount + 1 }

/-- COMMAND_BLOCK_CHECK: the block of a firing, named by its group, is read word by word; with its last word it is checked,
and the command is queued or answered. -/
def execCommandBlockCheck (s : State) : Out :=
  withElemN s fun r gid e =>
    match e.mpe.issueQ.find? fun i => decide (i.gid = gid) with
    | none => s
    | some i =>
      if ¬ isCommand i.op then s
      else if s.blockRead e i then s.blockChecked e i
      else
        let s1 := s.readBlock e i
        match s1.elem? r with
        | none => s1
        | some e1 =>
          match e1.mpe.issueQ.find? fun i => decide (i.gid = gid) with
          | some i1 => if s1.blockRead e1 i1 then s1.blockChecked e1 i1 else s1
          | none => s1

/-! ### COMMAND_ACCEPTANCE (R387, R389) -/

/-- Whether a range touches memory homed on a die. -/
def Range.onDie (r : Range) (d : Nat) : Bool :=
  decide (0 < r.len ∧ homeDie r.pa ≤ d ∧ d ≤ homeDie (r.pa + r.len - 1))

/-- Scoreboard entries of a command on a die (R284). -/
def Cmd.entriesOn (c : Cmd) (d : Nat) : Nat :=
  boolN (c.srcs.any (·.onDie d)) + boolN (c.dsts.any (·.onDie d))

/-- Whether a command finds its entries free on every die: 64 on each (R18, R285). -/
def State.sbFree (s : State) (c : Cmd) : Bool :=
  (List.range 4).all fun d =>
    decide (((s.cmds.filter fun x => x.st == 1).map fun x => x.entriesOn d).foldl (· + ·) 0 + c.entriesOn d ≤ 64)

def rangesMeet (xs ys : List Range) : Bool := xs.any fun x => ys.any fun y => y.hits x.pa x.len

/-- Whether an accepted command's entries keep a command waiting (R387). -/
def State.sbConflict (s : State) (c : Cmd) : Bool :=
  s.cmds.any fun x => x.st == 1 && (rangesMeet (c.srcs ++ c.dsts) x.dsts || rangesMeet c.dsts x.srcs)

/-- Whether a run holds WEIGHT pages of the package that a range touches. -/
def Run.holdsWeight (r : Run) (pkg : Nat) (x : Range) : Bool :=
  r.p && r.cls == 3 && r.pkg == pkg && decide (x.pa < (r.ppn + r.n) * 0x10000 ∧ r.ppn * 0x10000 < x.pa + x.len)

/-- R268: a destination that overlaps a WEIGHT run held in an extent table or a saved frame; a fill run of the issuing
task holds nothing (R389). -/
def State.weightBusy (s : State) (c : Cmd) : Bool :=
  c.dsts.any fun d =>
    (s.loads.any fun x => (List.range 8).any fun k =>
      match x.slots.getD k none with
      | some t => t.runs.any fun r => r.holdsWeight s.ownPkg d && !(r.isFill && x.ref == c.ref.load && k == c.slot)
      | none => false) ||
    (s.saved.any fun v => v.tasks.any fun t =>
      match t with
      | some t => t.runs.any fun r => r.holdsWeight s.ownPkg d
      | none => false)

/-- Whether a store of another die over a command's ranges has entered its home die already, and so stands before the
command's acceptance: it is written first (R288, R295, R304; log 95). -/
def State.landing (s : State) (c : Cmd) : Bool :=
  s.accs.any fun w => w.op.isStore && s.atDie w && (c.srcs ++ c.dsts).any (·.hits (wordOf w.pa) 8)

/-- Whether the walker has accepted a write to the arbor of a quiescent copy that is not performed: it comes before the
command's acceptance (R334). -/
def State.walkerWrites (s : State) (c : Cmd) : Bool :=
  c.op == .densQ && s.accs.any fun w => w.taken && w.pa == c.hdr &&
    (match w.op with
     | .arbor op _ _ _ => writesArbor op
     | _ => false)

/-- COMMAND_ACCEPTANCE: the head of an engine queue, by its name. -/
def execCommandAcceptance (s : State) : Out :=
  match s.actor with
  | .id n =>
    match s.cmd? n with
    | none => .next s
    | some c =>
      if c.st ≠ 0 ∨ s.clock < c.due ∨ ¬ s.sbFree c ∨ s.sbConflict c ∨ s.landing c ∨ s.walkerWrites c then .next s
      else
        let busy := s.weightBusy c
        let s1 := (s.modDie c.die fun d => d.dequeueCmd n).modCmd n fun c =>
          { c with st := if busy then 2 else 1, cause := if busy then Cause.weightBusy else 0, due := s.clock + 1 }
        .next ((s1.setPend c.task (s.trPend c.task + 1)).cmdStatus c.ref c.gid c.cell 0 0 s.clock)
  | _ => .fault .noActor

/-! ### Words of a command -/

/-- Where a command's virtual address lies now: PAGE when its run has become absent (R390). -/
def State.cmdPa (s : State) (c : Cmd) (va : Nat) : Except Nat Nat :=
  match s.slotTask c.ref.load c.slot with
  | none => .error Cause.noslot
  | some x =>
    match findRun x.runs va none with
    | none => .error Cause.extent
    | some r => if r.p then .ok (r.pa va) else .error Cause.page

/-- Write words at virtual addresses, all or none (R392). Each counts in the task's signature (R447). -/
def State.cmdWrite (s : State) (c : Cmd) (ws : List (Nat × Word)) : Except Nat State := do
  let as ← ws.mapM fun w => do
    let a ← s.cmdPa c w.1
    if s.storeCause a ≠ 0 then throw (s.storeCause a)
    return (a, w)
  return as.foldl (fun s p => (s.putWord p.1 p.2.2).addSig c.ref.load c.slot p.2.1 p.2.2) s

/-- Whether a write of one of the words of a chunk can fail at its home. -/
def State.risky (s : State) (spots : List (Nat × Nat)) : Bool := spots.any fun p => s.mayFail p.2

/-- Write words of a chunk whose place the check of its runs has given (R390): those of ws at the chosen numbers. A chunk in
which a write can fail is one step, or fails and writes nothing (R392). What is left of the words comes back. -/
def State.putChunk (s : State) (c : Cmd) (ws : List (Nat × Word)) (ks : List Nat) :
    Except Nat (State × List (Nat × Word)) :=
  let spot (w : Nat × Word) : Nat :=
    match c.spots.find? fun p => p.1 == w.1 with
    | some p => p.2
    | none => 0
  let risky := s.risky c.spots
  match if risky then ws.find? fun w => s.storeCause (spot w) != 0 else none with
  | some w => .error (s.storeCause (spot w))
  | none =>
    let now := if risky then List.range ws.length else ks
    let s1 := now.foldl (fun s k =>
      let w := ws.getD k (0, 0)
      (s.putWord (spot w) w.2).addSig c.ref.load c.slot w.1 w.2) s
    .ok (s1, (ws.mapIdx fun k w => (k, w)).filterMap fun p => if now.contains p.1 then none else some p.2)

/-- The places of words now: PAGE when a run has become absent (R390). -/
def State.spotsOf (s : State) (c : Cmd) (vas : List Nat) : Except Nat (List (Nat × Nat)) :=
  vas.mapM fun va => (s.cmdPa c va).map fun a => (va, a)

/-- A command is over, with a cause. An uncorrectable error it met is logged (R451). -/
def State.cmdOver (s : State) (c : Cmd) (cause : Nat) : State :=
  let s1 := s.modCmd c.id fun c =>
    { c with st := 2, cause := cause, words := [], snap := [], ents := [], spots := [], phases := [] }
  if cause = Cause.uncorrectable then
    match s.elem? c.ref with
    | some e => s1.logSe 6 (pkgTile c.die e.ptile) e.psite c.task
    | none => s1.logSe 6 0 0 c.task
  else s1

/-- Whether a command is one of the first that its engines serve: sixteen copies, one conversion (R384). -/
def State.served (s : State) (c : Cmd) : Bool :=
  let before := s.cmds.filter fun x =>
    x.st == 1 && x.die == c.die && !isReduction x.op && (x.op == .cve) == (c.op == .cve) && decide (x.id < c.id)
  decide (before.length < if c.op = .cve then 1 else 16)

/-- Whether an engine reads a source later: its weight-store group is being refreshed (R269), or it waits for a write in
flight of its die (log 4). -/
def State.sourceHeld (s : State) (die a : Nat) : Bool := refreshing s.clock a || s.readHeld (dieObs die) a

/-- Read some of the source words of a list that a command has not yet read (R286). -/
def State.cmdSnap (s : State) (c : Cmd) (todo : List Nat) : State :=
  let words := (s.actNow todo.length).filterMap fun k =>
    let va := todo.getD k 0
    match s.cmdPa c va with
    | .error x => some ⟨va, x, 0⟩
    | .ok a =>
      if s.sourceHeld c.die a then none
      else some ⟨va, if s.isBad a then Cause.uncorrectable else 0, s.valueFor (dieObs c.die) a⟩
  (s.modCmd c.id fun c => { c with snap := c.snap ++ words, due := s.clock + 1 + s.waitNow }).tick

/-- A source word as read. -/
def Cmd.read (c : Cmd) (va : Nat) : Except Nat Word :=
  match c.snap.find? fun w => w.va == va with
  | some w => if w.cause = 0 then .ok w.val else .error w.cause
  | none => .error Cause.page

/-! ### COPY_CHUNK (R390) -/

/-- The words of the next chunk of a copy, where its addresses lie now; the failure of its check of runs otherwise. -/
def State.copyWords (s : State) (c : Cmd) : Except Nat (List CopyWord) :=
  (List.range (min 32 ((c.len - 256 * c.next) / 8))).mapM fun i => do
    let o := 256 * c.next + 8 * i
    let src := fld (blk c.blk 1) 0 57 + o
    let dst := fld (blk c.blk 0) 0 57 + o
    let sa ← s.cmdPa c src
    let da ← s.cmdPa c dst
    return ⟨c.next, src, sa, dst, da, none, false⟩

/-- Start the next chunk, up to 8 ahead of the one being written (R390). -/
def State.copyStart (s : State) (c : Cmd) : Cmd :=
  if c.fail.isSome ∨ c.len ≤ 256 * c.next ∨ c.done / 256 + 8 < c.next then c
  else
    match s.copyWords c with
    | .ok ws => { c with words := c.words ++ ws, next := c.next + 1 }
    | .error x => { c with fail := some (c.next, x) }

/-- A chunk has failed: the chunks before it are still written. -/
def Cmd.chunkFails (c : Cmd) (chunk cause : Nat) : Cmd :=
  if c.fail.all fun p => decide (chunk < p.1) then
    { c with fail := some (chunk, cause), words := c.words.filter fun w => decide (w.chunk < chunk) }
  else c

/-- Read words of the chunks started. -/
def State.copyReads (s : State) (c : Cmd) : Cmd :=
  let todo := c.words.filter fun w => w.val.isNone
  ((s.actNow todo.length).filterMap fun k => todo[k]?).foldl (fun c w =>
    if s.sourceHeld c.die w.src then c
    else if s.isBad w.src then c.chunkFails w.chunk Cause.uncorrectable
    else
      { c with words := c.words.map fun x =>
          if x.srcVa = w.srcVa then { x with val := some (s.valueFor (dieObs c.die) w.src) } else x }) c

/-- Write words of the chunk whose turn it is, once all of it is read. A chunk with a write that can fail is written in
one step, or not at all (R392). -/
def State.copyWrites (s : State) (c : Cmd) : State × Cmd :=
  let here := c.words.filter fun w => decide (w.chunk = c.done / 256)
  if here.isEmpty ∨ here.any fun w => w.val.isNone then (s, c)
  else
    let risky := here.any fun w => s.mayFail w.dst
    match if risky then here.find? fun w => s.storeCause w.dst != 0 else none with
    | some w => (s, c.chunkFails w.chunk (s.storeCause w.dst))
    | none =>
      let todo := here.filter fun w => !w.done
      let now := if risky then todo else (s.actNow todo.length).filterMap fun k => todo[k]?
      let s1 := now.foldl (fun s w =>
        (s.putWord w.dst (w.val.getD 0)).addSig c.ref.load c.slot w.dstVa (w.val.getD 0)) s
      if now.length = todo.length then
        (s1, { c with words := c.words.filter fun w => decide (w.chunk ≠ c.done / 256), done := c.done + 8 * here.length })
      else
        (s1, { c with words := c.words.map fun x =>
                 if now.any (fun w => w.dstVa == x.dstVa) then { x with done := true } else x })

/-- COPY_CHUNK: a copy, by its name, starts a chunk, reads words of the chunks started and writes words of the first of
them. -/
def execCopyChunk (s : State) : Out :=
  match s.actor with
  | .id n =>
    match s.cmd? n with
    | none => .next s
    | some c =>
      if c.st ≠ 1 ∨ c.op ≠ .cpy ∨ s.clock < c.due ∨ ¬ s.served c then .next s
      else
        let (s1, c1) := s.copyWrites (s.copyReads (s.copyStart c))
        let s2 := (s1.modCmd n fun _ => { c1 with due := s.clock + 1 + s.waitNow }).tick
        if c1.len ≤ c1.done then .next (s2.modCmd n fun c => { c with st := 2 })
        else
          match c1.fail with
          | some (k, x) => .next (if c1.done = 256 * k then s2.cmdOver c1 x else s2)
          | none => .next s2
  | _ => .fault .noActor

/-! ### DENS_CHUNK (R334, R397) -/

def Cmd.densLo (c : Cmd) : Nat := fld (c.blk.getD 2 0) 0 32
/-- The last key of the chunk in progress, of 64 keys. -/
def Cmd.densEnd (c : Cmd) : Nat := min (fld (c.blk.getD 2 0) 32 32) (c.densLo + c.done / 4 + 63)

/-- The destination words of a chunk and where they lie. -/
def Cmd.densVas (c : Cmd) : List Nat :=
  (List.range (ceilDiv (c.densEnd + 1 - (c.densLo + c.done / 4)) 2)).map fun i => fld (c.blk.getD 1 0) 0 57 + c.done + 8 * i

/-- The values of the keys of a chunk: 0 for an absent one. -/
def Cmd.densVals (c : Cmd) : List (Nat × Word) :=
  let k0 := c.densLo + c.done / 4
  let val (k : Nat) : Nat :=
    match c.ents.find? fun p => decide (p.1 = k) with
    | some p => if k ≤ c.densEnd then p.2 else 0
    | none => 0
  (c.densVas).mapIdx fun i va => (va, BitVec.ofNat 64 (val (k0 + 2 * i + 1) * 2 ^ 32 + val (k0 + 2 * i)))

/-- Whether the last word of a chunk is half a word, of an odd number of keys: it keeps its other half. -/
def Cmd.densHalf (c : Cmd) : Option (Nat × Nat) := c.spots.find? fun p => p.1 + 4 == fld (c.blk.getD 1 0) 0 57 + c.len

/-- The words of a chunk with the half that one of them keeps. -/
def State.densWords (s : State) (c : Cmd) (ws : List (Nat × Word)) : List (Nat × Word) :=
  match c.densHalf with
  | some p => ws.map fun w => if w.1 = p.1 then (w.1, setPart (s.word p.2) p.2 4 (fld w.2 0 32)) else w
  | none => ws

/-- Write words of a chunk; the command ends with its last one. One that ends in half a word is one step: a word with an
uncorrectable error there fails it (R248, R392). -/
def State.densWrite (s : State) (c : Cmd) (ws : List (Nat × Word)) : State :=
  if c.densHalf.any fun p => s.isBad p.2 then s.cmdOver c Cause.uncorrectable
  else
    let ks := if c.densHalf.isSome then List.range ws.length else s.actNow ws.length
    match s.putChunk c (s.densWords c ws) ks with
    | .error x => s.cmdOver c x
    | .ok (s1, rest) =>
      let done := c.densEnd + 1 - c.densLo
      (s1.modCmd c.id fun c =>
        if rest.isEmpty then
          { c with phases := [], spots := [], planned := false, done := 4 * done, due := s.clock + 1 + s.waitNow,
                   ents := c.ents.filter fun p => decide (c.densLo + done ≤ p.1), st := if c.len ≤ 4 * done then 2 else 1 }
        else { c with phases := [rest], due := s.clock + 1 + s.waitNow }).tick

/-- DENS_CHUNK: the runs of a chunk of 256 bytes, the values of 64 keys, are checked, which places its words; the traversal
takes steps, one each time the walker accepts one, until it has passed the last of them; then the words are written. A step
may pass keys of later chunks. -/
def execDensChunk (s : State) : Out :=
  match s.actor with
  | .id n =>
    match s.cmd? n with
    | none => .next s
    | some c =>
      if c.st ≠ 1 ∨ ¬ c.isDens ∨ s.clock < c.due ∨ ¬ s.served c then .next s
      else if ¬ c.planned then
        match s.spotsOf c (fld (c.blk.getD 0 0) 0 57 :: c.densVas) with
        | .error x => .next (s.cmdOver c x)
        | .ok ps => .next (s.modCmd n fun c => { c with planned := true, spots := ps.drop 1 })
      else
        match c.phases with
        | ws :: _ => .next (s.densWrite c ws)
        | [] =>
          match c.key.filter fun k => decide (k ≤ c.densEnd) with
          | none => .next (s.modCmd n fun c => { c with phases := [c.densVals] })
          | some k =>
            if ¬ s.walkerFree (homeDie c.hdr) then .next s
            else
              let s := s.useWalker (homeDie c.hdr)
              match (do let t ← readArb s c.hdr c.size; t.step k (fld (c.blk.getD 2 0) 32 32)) with
              | .error x => .next (s.cmdOver c x.cause)
              | .ok (es, ends) =>
                .next (s.modCmd n fun c =>
                  { c with ents := c.ents ++ es, due := s.clock + 1,
                           key := if ends then none else es.getLast?.map fun p => p.1 + 1 })
  | _ => .fault .noActor

/-- Virtual addresses that the chunks in flight of a command use: a TINV waits for them (R263, R390). -/
def Cmd.inFlight (c : Cmd) : List Nat :=
  if c.st ≠ 1 then []
  else if c.op = .cpy then c.words.flatMap fun w => [w.srcVa, w.dstVa]
  else if c.isDens ∧ c.planned then fld (c.blk.getD 0 0) 0 57 :: c.spots.map (·.1)
  else c.spots.map (·.1)

/-! ### COMMAND_END (R391, R392) -/

/-- A failure passes into the record a command names, or into the issuing task (R391). -/
def State.failInto (s : State) (h task cause : Nat) : State :=
  if handleIdx h = 0 then s.addErr task cause
  else
    match s.recState h with
    | 1 => if s.recBad h then s.abandonBad h else (s.addErr h cause).setTrState h 6
    | 6 => s.addErr h cause
    | _ => (s.dropDec h).addErr task cause

/-- A success decrements the record a command names. -/
def State.succeedInto (s : State) (h : Nat) : State :=
  if handleIdx h = 0 then s
  else if s.recBad h ∧ (s.recState h = 1 ∨ s.recState h = 6) then s.abandonBad h
  else s.decrement h

/-- RESULT of an engine command (R390). -/
def engineResult (c : Cmd) : Word := BitVec.ofNat 64 (c.cause * 2 ^ 48 + 2 ^ 40 + c.done % 2 ^ 40)

/-- End a command whose RESULT is written to a word of its block: the completion record, PEND and the scoreboard. -/
def State.endCmd (s : State) (c : Cmd) (word : Nat) (result : Word) : State :=
  let (s1, cause) := match s.cmdWrite c [(opVa c.blkVa + 8 * word, result)] with
    | .ok s1 => (s1, c.cause)
    | .error x => (s, if c.cause = 0 then x else c.cause)
  let s2 := if cause = 0 then s1.succeedInto c.handle else s1.failInto c.handle c.task cause
  let s3 := s2.lowerPend c.task 1
  { s3 with cmds := s3.cmds.filter fun x => decide (x.id ≠ c.id) }

/-- The SYEs that act in the completion of a command: of the issuing task's record and of the completion record (R391). -/
def Cmd.homes (c : Cmd) : List Nat := handleDie c.task :: if handleIdx c.handle = 0 then [] else [handleDie c.handle]

/-- Whether a SYE that a completion needs has had its operation of this clock (R360). -/
def State.endBusy (s : State) (c : Cmd) : Bool := c.homes.any s.opBusy

/-- The SYEs of a completion act. -/
def State.useEnd (s : State) (c : Cmd) : State := c.homes.foldl State.useOp s

/-- COMMAND_END: a SYE performs one engine completion in a clock (R360). -/
def execCommandEnd (s : State) : Out :=
  match s.actor with
  | .id n =>
    match s.cmd? n with
    | none => .next s
    | some c =>
      if c.st ≠ 2 ∨ isReduction c.op ∨ s.endBusy c then .next s
      else .next ((s.useEnd c).endCmd c (blockWords c.op - 1) (engineResult c))
  | _ => .fault .noActor

end Sys2Proof.Machine
end

