-- ==== Sys2Proof/Machine/Domain.lean ====
section
/-! DEFINITION. Memory of other packages: RLD, RST and atomics that leave the package, requests that arrive, replies and
time limits (R355, R404 to R413). -/

namespace Sys2Proof.Machine

open Sys2Proof

/-! ### Issue (R408 to R411) -/

def needRld (words : Nat) : Need := ⟨true, 8, none, true, [0, 1, 3], true, false, 8 * words⟩
def needRst : Need := ⟨true, 8, none, true, [0, 1], false, true, 0⟩
def needAtomic : Need := ⟨true, 8, none, true, [0], true, true, 0⟩

/-- Whether n words from an address stay in a run (R409). -/
def Run.holdsWords (r : Run) (va n : Nat) : Bool := decide ((va + 8 * n - 1) / 0x10000 < r.vbase + r.n)

/-- Atomics by number, as requests carry them. -/
def atomicOps : List MOp := [.aadd, .amin, .amax, .aand, .aor, .axch, .acas, .afadd]
def atomicCode (op : MOp) : Nat := atomicOps.idxOf op
def isAtomic (op : MOp) : Bool := atomicOps.contains op

/-- The outcome of a probe, by its tag: the runs of the dispatch that sent it take the incarnation, or the task completes
with REMOTE_GONE (R405). A probe of a dispatch that is over changes nothing. -/
def State.endProbe (s : State) (die pkg tag cause : Nat) (ws : List (Word × BitVec 4)) : State :=
  match s.die? die with
  | none => s
  | some d =>
    match d.disp with
    | none => s
    | some p =>
      if ¬ p.probes.contains (pkg, tag) then s
      else
        match cause, ws with
        | 0, w :: _ =>
          let x := { p.x with runs := p.x.runs.map fun r => if r.p ∧ r.pkg = pkg then { r with inc := fld w.1 0 32 } else r }
          s.modDie die fun d => { d with disp := some { p with probes := p.probes.filter (fun q => q.2 != tag), x := x } }
        | _, _ => (s.modDie die fun d => { d with disp := none }).abandonRec p.handle Cause.remoteGone

/-- The outcome of a probe of a restore: its incarnation, or none (R405). -/
def State.endReprobe (s : State) (l : LoadRef) (slot tag cause : Nat) (ws : List (Word × BitVec 4)) : State :=
  let inc := match cause, ws with
    | 0, w :: _ => some (fld w.1 0 32)
    | _, _ => none
  s.modLoad l fun x => { x with probes := x.probes.map fun p =>
    if p.slot = slot ∧ p.tag = tag then { p with answered := true, inc := inc } else p }

/-- The reply of a store: an ORDER token of scope 4, or nothing for a plain RST. -/
def State.storeReply (s : State) (r : ElemRef) (gid : Nat) : Reply :=
  match s.group? r gid with
  | some g => if g.op = MOp.rst then .silent else .tok (orderTok 4)
  | none => .silent

/-- Count a performed remote write in the task's signature (R447). -/
def State.remSig (s : State) (x : Remote) : State :=
  match s.group? x.ref x.gid with
  | some g => s.addSig x.ref.load x.slot x.va g.b
  | none => s

/-- What a remote request comes to: a cause, or the words that were read (R409, R410, R355). -/
def State.endRemote (s0 : State) (x : Remote) (cause : Nat) (ws : List (Word × BitVec 4)) : State :=
  let r := x.ref
  let due := s0.clock + 1
  let s := if cause = Cause.remoteGone ∧ ¬ x.what.isProbe then s0.markGone r.load x.slot x.dest else s0
  let fail := s.failReply r x.gid cause x.va
  match x.what with
  | .rld cells =>
    if cause ≠ 0 then s.reply r x.gid (cells.headD 0) fail due
    else
      let s1 := (cells.zip ws).foldl (fun s p =>
        s.reply r x.gid p.1 (.tok (dataTok (BitVec.ofNat 4 x.fmt) p.2.1)) due) s
      if ws.any fun w => residue w.1 != w.2 then
        s1.trapElem r ⟨Cause.residue, eDetail r.site (match s.group? r x.gid with | some g => g.slot | none => 0) 0,
          some replyOperand⟩
      else s1
  | .rst cell =>
    let s1 :=
      if cause = 0 then s.remSig x
      else
        match s.group? r x.gid with
        | some g => if g.op = MOp.rst then s.taskErr r.load x.slot cause else s
        | none => s
    (s1.reply r x.gid cell (if cause = 0 then s.storeReply r x.gid else fail) due).giveCredit r 4 1
  | .atomic cell =>
    let g := s.group? r x.gid
    let old := match ws with | w :: _ => w.1 | [] => 0
    let (new, o) := match g with
      | some g => atomicNew g.op g.lane old g.b
      | none => (none, false)
    let t : Except Reply Tok := if cause ≠ 0 then .error fail else .ok (dataTok (BitVec.ofNat 4 x.fmt) old)
    (if cause = 0 ∧ new.isSome then s.remSig x else s).atomicReply r x.gid cell t (cause == 0 && o) 4 due 3
  | .probe die => s.endProbe die x.dest x.tag cause ws
  | .reprobe l slot => s.endReprobe l slot x.tag cause ws

/-- A request for another package leaves, unless the package is gone for the slot or no port is up (R406, R407). -/
def State.askRemote (s : State) (e : Elem) (i : Issue) (c : Checked) (what : RemFor) (op : RemOp) : State :=
  let slot := opSlot i.a
  let wait (k : Nat) : Nat := Config.wait (s.freeCount + k)
  let own := s.clock + wait 0
  let x : Remote :=
    { tag := 0, ref := e.ref, tile := pkgTile e.ref.die e.ptile, addr := c.pa, cls := c.run.cls, ownAt := own,
      tileAt := own + wait 1, dieAt := own + wait 1 + wait 2, packAt := own + wait 1 + wait 2 + wait 3, gid := i.gid,
      slot := slot, dest := c.run.pkg, what := what, va := opVa i.a, fmt := c.run.fmt, limit := 0 }
  if s.isGone e.ref.load slot c.run.pkg ∨ ¬ s.routed then s.endRemote x Cause.remoteGone []
  else { s with freeCount := s.freeCount + 4 }.sendRemote x op c.pa c.run.cls c.run.inc i.b

/-- Whether a store on its way to another package is performed at a scope that holds an observer (R288; log 94). -/
def Remote.reaches (x : Remote) (clock : Nat) (o : Observer) : Bool :=
  (o.elem == some x.ref && decide (x.ownAt ≤ clock)) || (o.tile == some x.tile && decide (x.tileAt ≤ clock)) ||
  (o.die == x.ref.die && decide (x.dieAt ≤ clock)) || decide (x.packAt ≤ clock)

/-- Whether a request for words of another package waits to leave: behind a store to one of them that is performed for its
issuer, and not acknowledged (R287, R290; log 94). -/
def State.remoteHeld (s : State) (e : Elem) (i : Issue) : Bool :=
  let n := if i.op = .rld then i.n + 1 else 1
  let c := s.check e.ref.load i.a ⟨true, 8, none, true, [0, 1, 2, 3], false, false, 0⟩
  (i.op == .rld || i.op == .rst || i.op == .rstAck || isAtomic i.op) && c.cause == 0 && c.run.pkg != s.ownPkg &&
  s.remotes.any fun x =>
    (match x.what with
     | .rst _ => true
     | _ => false) && x.dest == c.run.pkg && decide (c.pa ≤ x.addr ∧ x.addr < c.pa + 8 * n) && x.reaches s.clock e.obs

/-- Cells of a reply of n words, each with its read credit. -/
def State.wordCells (s : State) (r : ElemRef) (gid : Nat) : Nat → State × List Nat
  | 0 => (s, [])
  | n + 1 =>
    let (s1, ids) := (s.addCell r gid .wait 1 0).wordCells r gid n
    (s1, s.nextId :: ids)

/-- The checks of an RLD of n words, which one run must hold (R408, R409). -/
def State.checkRld (s : State) (l : LoadRef) (a : Word) (n : Nat) : Checked :=
  let c := s.check l a (needRld n)
  if c.cause = 0 ∧ ¬ c.run.holdsWords (opVa a) n then { c with cause := Cause.extent } else c

/-- RLD: n + 1 words of one run, here or at another package (R408, R409). -/
def issueRld (s : State) (e : Elem) (i : Issue) : State :=
  let n := i.n + 1
  let c := s.checkRld e.ref.load i.a n
  let s1 :=
    if c.cause ≠ 0 then (s.failCell e.ref i.gid c.cause (opVa i.a) 1).giveCredit e.ref 1 (n - 1)
    else if c.run.pkg = s.ownPkg then
      s.issueWords e i.gid i.a 1 ((List.range n).map fun k => { c with pa := c.pa + 8 * k }) 0
    else
      let (s1, ids) := s.wordCells e.ref i.gid n
      s1.askRemote e i c (.rld ids) (.read n)
  s1.closeGroup e.ref i.gid

/-- RST in both forms (R408, R410). -/
def issueRst (s : State) (e : Elem) (i : Issue) : State :=
  let r := e.ref
  let c := s.check r.load i.a needRst
  let s1 :=
    if c.cause ≠ 0 then
      let s0 := if i.op = .rst then s.taskErr r.load (opSlot i.a) c.cause else s
      (s0.failCell r i.gid c.cause (opVa i.a) 0).giveCredit r 4 1
    else if c.run.pkg = s.ownPkg then s.issueAcc e i.gid (.write i.b) (opSlot i.a) (opVa i.a) c 0
    else (s.addCell r i.gid .wait 0 0).askRemote e i c (.rst s.nextId) .write
  s1.closeGroup r i.gid

/-- The scope code of the ORDER token of an atomic: 4 where its run names another package (R297, R355). -/
def State.atomicScope (s : State) (r : ElemRef) (a : Word) : Nat :=
  match (s.slotTask r.load (opSlot a)).bind fun x => findRun x.runs (opVa a) none with
  | some run => if run.pkg = s.ownPkg then 3 else 4
  | none => 3

/-- An atomic at memory, here or at another package (R355). -/
def issueAtomic (s : State) (e : Elem) (i : Issue) : State :=
  let r := e.ref
  let c := s.check r.load i.a needAtomic
  let cell := s.nextId
  if c.cause ≠ 0 then
    (s.addCell r i.gid .wait 0 0).atomicReply r i.gid cell (.error (s.failReply r i.gid c.cause (opVa i.a))) false
      (s.atomicScope r i.a) (s.clock + 3) 3
  else if c.run.pkg = s.ownPkg then
    (s.issueAcc e i.gid (.atomic i.op i.lane i.b) (opSlot i.a) (opVa i.a) c 0).closeGroup r i.gid
  else ((s.addCell r i.gid .wait 0 0).askRemote e i c (.atomic cell) (.atomic (atomicCode i.op) i.lane))

/-! ### REMOTE_REQUEST (R406) -/

/-- Send a reply. -/
def State.sendRep (s : State) (q : RemReq) (cause : Nat) (ws : List Word) : State :=
  { s with out := s.out ++ [.rep ⟨q.src, q.tag, cause, ws.map fun w => (w, residue w)⟩] }

/-- Addresses that a request touches. -/
def RemReq.words (q : RemReq) : List Nat :=
  match q.op with
  | .read n => (List.range n).map fun k => q.addr + 8 * k
  | .probe => []
  | _ => [q.addr]

/-- Whether a class is allowed at a local address (R246). -/
def allowedAt (a cls : Nat) : Bool :=
  match regionOf a 8 with
  | .weight => cls == 3
  | .tile _ _ => cls == 0
  | .sye _ => cls == 0
  | .none => false
  | _ => decide (cls < 3)

/-- The checks of a request at its target: 0 when it may be performed (R406). The class that the request carries must be
allowed in the range of its address (R246, R252). -/
def State.reqCause (s : State) (q : RemReq) : Nat :=
  if q.inc ≠ s.dv.incarn.toNat then Cause.remoteGone
  else if q.words.any fun a => regionOf a 8 = .none then Cause.badpa
  else if q.words.any fun a => !allowedAt a q.cls then Cause.cls
  else
    match q.op with
    | .read _ => if q.cls = 2 then Cause.cls else 0
    | .write => if q.cls = 0 ∨ q.cls = 1 then 0 else Cause.cls
    | .atomic _ _ => if q.cls = 0 then 0 else Cause.cls
    | .probe => 0

/-- Whether a write or an atomic of a request waits: for a copy (R284), or for the SYE that performs atomics (R360). -/
def State.reqHeld (s : State) (q : RemReq) : Bool :=
  match q.op with
  | .read _ => false
  | .probe => false
  | .atomic _ _ => s.opBusy (homeDie q.addr) || s.sbHeld q.addr 8 true
  | .write => s.sbHeld q.addr 8 true

/-- The read that a request has in progress here. -/
def State.reading? (s : State) (q : RemReq) : Option RemDefer := s.remDefers.find? fun d => d.req == q

def State.modReading (s : State) (q : RemReq) (f : RemDefer → RemDefer) : State :=
  { s with remDefers := s.remDefers.map fun d => if d.req = q then f d else d }

/-- Read word k of a request: one in a refresh window (R269) or over the destination of a copy (R284) is read later, one
without presence takes a deferral entry (R409), and an error answers the whole request. -/
def State.reqWord (s : State) (q : RemReq) (k : Nat) : State :=
  match s.reading? q with
  | none => s
  | some d =>
    let a := q.addr + 8 * k
    if d.got.getD k .deferred ≠ .todo ∨ refreshing s.clock a ∨ s.sbHeld a 8 false then s
    else
      match s.readWord q.cls a with
      | .ok x => s.modReading q fun d => { d with got := d.got.set k x }
      | .error c =>
        let s1 : State := { s with remDefers := s.remDefers.filter fun d => d.req != q }
        (if c = Cause.uncorrectable then s1.logSe 6 0 0 0 else s1).sendRep q c []

/-- A request acts again in the next clock. -/
def State.reqAgain (s : State) (q : RemReq) : State :=
  { s with inputs := s.inputs ++ [(s.clock + 1, .remoteRequest, .req q)] }

/-- Read some of the words of a request, each an access of its own (R286); the reply leaves with the last. -/
def State.reqRead (s : State) (q : RemReq) : State :=
  match s.reading? q with
  | none => s
  | some d =>
    let todo := (List.range d.got.length).filter fun k => d.got.getD k .deferred == .todo
    let s1 := (((s.actNow todo.length).filterMap fun k => todo[k]?).foldl (fun s k => s.reqWord q k) s).tick.answerReads
    if (s1.reading? q).any fun d => d.got.contains .todo then s1.reqAgain q else s1

/-- Perform a request that passed its checks. An uncorrectable error of an atomic is logged (R451). -/
def State.reqPerform (s : State) (q : RemReq) : State :=
  match q.op with
  | .read n => State.reqRead { s with remDefers := s.remDefers ++ [⟨q, List.replicate n .todo⟩] } q
  | .write =>
    let (s1, c) := s.homeWrite q.addr q.cls q.data
    s1.sendRep q c []
  | .atomic op lane =>
    let x := (s.useOp (homeDie q.addr)).atomicAt q.addr (atomicOps.getD op .aadd) lane q.data
    let s1 := if x.cause = Cause.uncorrectable then x.s.logSe 6 0 0 0 else x.s
    if x.cause ≠ 0 then s1.sendRep q x.cause [] else s1.sendRep q 0 [x.old]
  | .probe => s.sendRep q 0 [BitVec.zeroExtend 64 s.dv.incarn]

/-- REMOTE_REQUEST: a request of another package. A package in a power state wakes first (R406, R464). A request that
is held, or whose words are not all read, acts again in the next clock. -/
def execRemoteRequest (s : State) : Out :=
  match s.actor with
  | .req q =>
    if s.dv.pstate ≠ 0 then .next (s.push [.event .wake .none, .event .remoteRequest (.req q)])
    else if (s.reading? q).isSome then .next (s.reqRead q)
    else if q.op = .probe then .next (s.reqPerform q)
    else if s.reqCause q ≠ 0 then .next (s.sendRep q (s.reqCause q) [])
    else if s.reqHeld q then .next (s.reqAgain q)
    else .next (s.reqPerform q)
  | _ => .fault .noActor

/-! ### REMOTE_REPLY, REMOTE_TIMEOUT, PORT_DOWN -/

/-- A request is outstanding no more. -/
def State.dropRemote (s : State) (tag : Nat) : State :=
  { s with remotes := s.remotes.filter fun x => decide (x.tag ≠ tag) }

/-- REMOTE_REPLY: a reply of a request that is still outstanding (R409, R410, R412). -/
def execRemoteReply (s : State) : Out :=
  match s.actor with
  | .rep p =>
    match s.remotes.find? fun x => decide (x.tag = p.tag) with
    | none => .next s
    | some x => .next ((s.dropRemote p.tag).endRemote x p.cause p.words)
  | _ => .fault .noActor

/-- REMOTE_TIMEOUT: a request, by its tag, reaches its limit (R412). -/
def execRemoteTimeout (s : State) : Out :=
  match s.actor with
  | .id n =>
    match s.remotes.find? fun x => decide (x.tag = n) with
    | none => .next s
    | some x =>
      if s.clock < x.limit then .next s else .next ((s.dropRemote n).endRemote x Cause.remoteTimeout [])
  | _ => .fault .noActor

/-- The port of an owner that is a remote host: the spec numbers none for a package (R459; log 70). -/
def State.ownerPort (s : State) : Option Nat :=
  if fld s.dv.claim 62 2 = 3 then some (Config.ownerPort (fld s.dv.claim 49 13)) else none

/-- PORT_DOWN: a port that could not deliver a flit (R400); with the owner's port the owner is lost (R459). -/
def execPortDown (s : State) : Out :=
  match s.actor with
  | .id n =>
    let s1 := { s with ports := setDel s.ports n }
    .next (if s.ownerPort = some n then s1.push [.event .ownerLoss .none] else s1)
  | _ => .fault .noActor

end Sys2Proof.Machine
end

