-- ==== Sys2Proof/Machine/AccessIssue.lean ====
section
/-! DEFINITION. ACCESS_ISSUE: what an MPE firing asked for is checked and leaves, in the clock after the firing
(R258, R275). -/

namespace Sys2Proof.Machine

open Sys2Proof

/-- The issue of a request that has no command block. -/
def State.issue (s : State) (e : Elem) (i : Issue) : State :=
  match i.op with
  | .ld => issueLd s e i
  | .ldf => issueLdf s e i
  | .wld => issueWld s e i
  | .pld => issuePld s e i
  | .st => issueSt s e i
  | .sto => issueSt s e i
  | .stClr => issueClr s e i
  | .stoClr => issueClr s e i
  | .fence => issueFence s e i
  | .gld => issueGld s e i
  | .sst => issueSst s e i
  | .astwr => issueAstwr s e i
  | .rld => issueRld s e i
  | .rst => issueRst s e i
  | .rstAck => issueRst s e i
  | .ald => issueArbor s e i
  | .ast => issueArbor s e i
  | .aaddc => issueArbor s e i
  | .aiter => issueArbor s e i
  | .acnt => issueArbor s e i
  | .acntH => issueArbor s e i
  | .tken => issueTask s e i
  | .tkdec => issueTask s e i
  | .tkdecRet => issueTask s e i
  | .qput => issueTask s e i
  | .tkst => issueTask s e i
  | .tkstClr => issueTask s e i
  | .tkstAbn => issueTask s e i
  | op => if isAtomic op then issueAtomic s e i else s

/-- ACCESS_ISSUE: the request of a firing, named by its group, leaves the MPE. Requests of one MPE leave in firing
order, but for one that waits behind a store to another package; one with a command block is COMMAND_BLOCK_CHECK's. -/
def execAccessIssue (s : State) : Out :=
  withElemN s fun r gid e =>
    match e.mpe.issueQ.find? fun i => decide (i.gid = gid) with
    | none => s
    | some i =>
      if isCommand i.op ∨ s.clock ≤ i.born ∨ s.remoteHeld e i then s
      else (s.modMpe r fun m => { m with issueQ := m.issueQ.filter fun x => decide (x.gid ≠ gid) }).issue e i

end Sys2Proof.Machine
end

