-- ==== Sys2Proof/Machine/CeInt.lean ====
section
/-! DEFINITION. CE integer lanes and lane rearrangement (R137 to R143). -/

namespace Sys2Proof.Machine

open Sys2Proof

/-- int(w): the format tag of integer lanes of the width LANE gives (R136). -/
def intTag (lane : BitVec 2) : BitVec 4 := BitVec.zeroExtend 4 lane

/-- An instruction of two INT sources working lane by lane (R137). -/
def laneOp2 (g : Nat → Nat → Nat → Nat) (c : Ctx) : Except ETrap Fired := do
  let w := laneW c.f.lane
  let (a, b) ← c.read2 c.f.srca.toNat .int c.f.srcb.toNat .int
  let r := map2Lanes w (g w) a.val b.val
  return c.result r (intTag c.f.lane) (outNz r)

/-- The same for a comparison, whose outcome is the truth of lane 0 (R46). -/
def laneCmp (g : Nat → Nat → Nat → Bool) (c : Ctx) : Except ETrap Fired := do
  let w := laneW c.f.lane
  let (a, b) ← c.read2 c.f.srca.toNat .int c.f.srcb.toNat .int
  let r := map2Lanes w (fun x y => mask w (g w x y)) a.val b.val
  return c.result r (intTag c.f.lane) (outLane0 w r)

/-- An instruction of one INT source working lane by lane. -/
def laneOp1 (g : Nat → Nat → Nat) (c : Ctx) : Except ETrap Fired := do
  let w := laneW c.f.lane
  let a ← c.read1 c.f.srca.toNat .int
  let r := map1Lanes w (g w) a.val
  return c.result r (intTag c.f.lane) (outNz r)

/-! Lane k of the result, from lanes a and b as numbers below 2^w (R137). -/

def lAdd (w a b : Nat) : Nat := wrapN w (sgn w a + sgn w b)
def lSub (w a b : Nat) : Nat := wrapN w (sgn w a - sgn w b)
def lAdds (w a b : Nat) : Nat := satS w (sgn w a + sgn w b)
def lSubs (w a b : Nat) : Nat := satS w (sgn w a - sgn w b)
def lMul (w a b : Nat) : Nat := wrapN w (sgn w a * sgn w b)
def lMulh (w a b : Nat) : Nat := wrapN w (sgn w a * sgn w b / ((2 ^ w : Nat) : Int))
def lMulhu (w a b : Nat) : Nat := a * b / 2 ^ w
def lMin (w a b : Nat) : Nat := if sgn w a ≤ sgn w b then a else b
def lMinu (_w a b : Nat) : Nat := if a ≤ b then a else b
def lMax (w a b : Nat) : Nat := if sgn w a ≤ sgn w b then b else a
def lMaxu (_w a b : Nat) : Nat := if a ≤ b then b else a
def lAbs (w a : Nat) : Nat := wrapN w (sgn w a).natAbs
def lNeg (w a : Nat) : Nat := wrapN w (-sgn w a)
def lAnd (_w a b : Nat) : Nat := a &&& b
def lOr (_w a b : Nat) : Nat := a ||| b
def lXor (_w a b : Nat) : Nat := a ^^^ b
def lAndn (w a b : Nat) : Nat := a &&& (2 ^ w - 1 - b)
def lShl (w a b : Nat) : Nat := a * 2 ^ (b % w) % 2 ^ w
def lShr (w a b : Nat) : Nat := a / 2 ^ (b % w)
def lSar (w a b : Nat) : Nat := wrapN w (sgn w a / ((2 ^ (b % w) : Nat) : Int))
def lRotl (w a b : Nat) : Nat := (a * 2 ^ (b % w) + a / 2 ^ (w - b % w)) % 2 ^ w
def lRshr (w a b : Nat) : Nat :=
  let sh := b % w
  if sh = 0 then a else wrapN w ((sgn w a + ((2 ^ (sh - 1) : Nat) : Int)) / ((2 ^ sh : Nat) : Int))
def lClz (w a : Nat) : Nat := if a = 0 then w else w - 1 - a.log2
def lPopc (w a : Nat) : Nat := popN w a
def lPpopc (w a b : Nat) : Nat := popN (b % w) a

def bodyAdd (c : Ctx) : Except ETrap Fired := laneOp2 lAdd c
def bodySub (c : Ctx) : Except ETrap Fired := laneOp2 lSub c
def bodyAdds (c : Ctx) : Except ETrap Fired := laneOp2 lAdds c
def bodySubs (c : Ctx) : Except ETrap Fired := laneOp2 lSubs c
def bodyMul (c : Ctx) : Except ETrap Fired := laneOp2 lMul c
def bodyMulh (c : Ctx) : Except ETrap Fired := laneOp2 lMulh c
def bodyMulhu (c : Ctx) : Except ETrap Fired := laneOp2 lMulhu c
def bodyMin (c : Ctx) : Except ETrap Fired := laneOp2 lMin c
def bodyMinu (c : Ctx) : Except ETrap Fired := laneOp2 lMinu c
def bodyMax (c : Ctx) : Except ETrap Fired := laneOp2 lMax c
def bodyMaxu (c : Ctx) : Except ETrap Fired := laneOp2 lMaxu c
def bodyAbs (c : Ctx) : Except ETrap Fired := laneOp1 lAbs c
def bodyNeg (c : Ctx) : Except ETrap Fired := laneOp1 lNeg c
def bodyCmpeq (c : Ctx) : Except ETrap Fired := laneCmp (fun _ a b => decide (a = b)) c
def bodyCmplt (c : Ctx) : Except ETrap Fired := laneCmp (fun w a b => decide (sgn w a < sgn w b)) c
def bodyCmpltu (c : Ctx) : Except ETrap Fired := laneCmp (fun _ a b => decide (a < b)) c
def bodyCmple (c : Ctx) : Except ETrap Fired := laneCmp (fun w a b => decide (sgn w a ≤ sgn w b)) c
def bodyAnd (c : Ctx) : Except ETrap Fired := laneOp2 lAnd c
def bodyOr (c : Ctx) : Except ETrap Fired := laneOp2 lOr c
def bodyXor (c : Ctx) : Except ETrap Fired := laneOp2 lXor c
def bodyAndn (c : Ctx) : Except ETrap Fired := laneOp2 lAndn c
def bodyShl (c : Ctx) : Except ETrap Fired := laneOp2 lShl c
def bodyShr (c : Ctx) : Except ETrap Fired := laneOp2 lShr c
def bodySar (c : Ctx) : Except ETrap Fired := laneOp2 lSar c
def bodyRotl (c : Ctx) : Except ETrap Fired := laneOp2 lRotl c
def bodyRshr (c : Ctx) : Except ETrap Fired := laneOp2 lRshr c
/-- SATN: each signed lane clamped to n = m + 1 bits (R138). -/
def bodySatn (c : Ctx) : Except ETrap Fired :=
  laneOp1 (fun w a =>
    let n := c.f.srcb.toNat + 1
    wrapN w (sgn n (satS n (sgn w a)))) c
def bodyClz (c : Ctx) : Except ETrap Fired := laneOp1 lClz c
def bodyPopc (c : Ctx) : Except ETrap Fired := laneOp1 lPopc c
def bodyPpopc (c : Ctx) : Except ETrap Fired := laneOp2 lPpopc c

def execAdd (f : SlotF) (s : State) : Out := fireSlot s f bodyAdd
def execSub (f : SlotF) (s : State) : Out := fireSlot s f bodySub
def execAdds (f : SlotF) (s : State) : Out := fireSlot s f bodyAdds
def execSubs (f : SlotF) (s : State) : Out := fireSlot s f bodySubs
def execMul (f : SlotF) (s : State) : Out := fireSlot s f bodyMul
def execMulh (f : SlotF) (s : State) : Out := fireSlot s f bodyMulh
def execMulhu (f : SlotF) (s : State) : Out := fireSlot s f bodyMulhu
def execMin (f : SlotF) (s : State) : Out := fireSlot s f bodyMin
def execMinu (f : SlotF) (s : State) : Out := fireSlot s f bodyMinu
def execMax (f : SlotF) (s : State) : Out := fireSlot s f bodyMax
def execMaxu (f : SlotF) (s : State) : Out := fireSlot s f bodyMaxu
def execAbs (f : SlotF) (s : State) : Out := fireSlot s f bodyAbs
def execNeg (f : SlotF) (s : State) : Out := fireSlot s f bodyNeg
def execCmpeq (f : SlotF) (s : State) : Out := fireSlot s f bodyCmpeq
def execCmplt (f : SlotF) (s : State) : Out := fireSlot s f bodyCmplt
def execCmpltu (f : SlotF) (s : State) : Out := fireSlot s f bodyCmpltu
def execCmple (f : SlotF) (s : State) : Out := fireSlot s f bodyCmple
def execAnd (f : SlotF) (s : State) : Out := fireSlot s f bodyAnd
def execOr (f : SlotF) (s : State) : Out := fireSlot s f bodyOr
def execXor (f : SlotF) (s : State) : Out := fireSlot s f bodyXor
def execAndn (f : SlotF) (s : State) : Out := fireSlot s f bodyAndn
def execShl (f : SlotF) (s : State) : Out := fireSlot s f bodyShl
def execShr (f : SlotF) (s : State) : Out := fireSlot s f bodyShr
def execSar (f : SlotF) (s : State) : Out := fireSlot s f bodySar
def execRotl (f : SlotF) (s : State) : Out := fireSlot s f bodyRotl
def execRshr (f : SlotF) (s : State) : Out := fireSlot s f bodyRshr
def execSatn (f : SlotF) (s : State) : Out := fireSlot s f bodySatn
def execClz (f : SlotF) (s : State) : Out := fireSlot s f bodyClz
def execPopc (f : SlotF) (s : State) : Out := fireSlot s f bodyPopc
def execPpopc (f : SlotF) (s : State) : Out := fireSlot s f bodyPpopc

/-- MAC: Dn[k] := s(Dn[k]) + s(a[k]) * s(b[k]), low w bits kept (R139). -/
def bodyMac (c : Ctx) : Except ETrap Fired := do
  let w := laneW c.f.lane
  let (a, b, d) ← c.read3 c.f.srca.toNat .int c.f.srcb.toNat .int c.f.dst.toNat .int
  let r := packW w ((List.range (64 / w)).map fun k =>
    wrapN w (sgn w (laneN w k d.val) + sgn w (laneN w k a.val) * sgn w (laneN w k b.val)))
  return c.result r (intTag c.f.lane) (outNz r)

def execMac (f : SlotF) (s : State) : Out := fireSlot s f bodyMac

/-- One 8-bit operand of DOT4: signed or unsigned by LANE (R140). -/
def dotA (lane x : Nat) : Int := if lane = 0 then sgn 8 x else (x : Int)
def dotB (lane x : Nat) : Int := if lane ≤ 1 then sgn 8 x else (x : Int)

/-- DOT4: two exact four-term dot products of 8-bit lanes (R140). -/
def bodyDot4 (c : Ctx) : Except ETrap Fired := do
  let l := c.f.lane.toNat
  let (a, b) ← c.read2 c.f.srca.toNat .int c.f.srcb.toNat .int
  let dot := fun j => wrapN 32 (((List.range 4).map fun k =>
    dotA l (laneN 8 (4 * j + k) a.val) * dotB l (laneN 8 (4 * j + k) b.val)).foldl (· + ·) 0)
  let r := packW 32 [dot 0, dot 1]
  return c.result r 1 (outNz r)

def execDot4 (f : SlotF) (s : State) : Out := fireSlot s f bodyDot4

/-- Lane width of PACK and UNPK: LANE 00 is 4 (R141). -/
def packWidth (lane : BitVec 2) : Nat := if lane = 0 then 4 else laneW lane

/-- PACK: the low halves of the lanes of a, then of b (R141). -/
def bodyPack (c : Ctx) : Except ETrap Fired := do
  let w := packWidth c.f.lane
  let m := 64 / (2 * w)
  let (a, b) ← c.read2 c.f.srca.toNat .int c.f.srcb.toNat .int
  let r := packW w ((List.range (2 * m)).map fun k =>
    if k < m then laneN (2 * w) k a.val % 2 ^ w else laneN (2 * w) (k - m) b.val % 2 ^ w)
  return c.result r (if c.f.lane = 0 then 10 else intTag c.f.lane) (outNz r)

def execPack (f : SlotF) (s : State) : Out := fireSlot s f bodyPack

/-- UNPKL and UNPKH: lanes from off on, widened with sign (z = 0) or zero (z = 1) (R141). -/
def unpackFrom (high : Bool) (c : Ctx) : Except ETrap Fired := do
  let w := packWidth c.f.lane
  let m := 64 / (2 * w)
  let a ← c.read1 c.f.srca.toNat .int
  let r := packW (2 * w) ((List.range m).map fun k =>
    let x := laneN w (if high then m + k else k) a.val
    if c.f.srcb = 0 then wrapN (2 * w) (sgn w x) else x)
  let tag : BitVec 4 := if c.f.lane = 0 then 3 else intTag c.f.lane - 1
  return c.result r tag (outNz r)

def bodyUnpkl (c : Ctx) : Except ETrap Fired := unpackFrom false c
def bodyUnpkh (c : Ctx) : Except ETrap Fired := unpackFrom true c
def execUnpkl (f : SlotF) (s : State) : Out := fireSlot s f bodyUnpkl
def execUnpkh (f : SlotF) (s : State) : Out := fireSlot s f bodyUnpkh

/-- SHUF: bytes of SRCA under the eight nibbles of SRCB (R142). -/
def bodyShuf (c : Ctx) : Except ETrap Fired := do
  let (a, b) ← c.read2 c.f.srca.toNat .any c.f.srcb.toNat .int
  let r := packW 8 ((List.range 8).map fun k =>
    let n := fld b.val (4 * k) 4
    if n ≥ 8 then 0 else laneN 8 n a.val)
  return c.result r a.tag (outNz r)

def execShuf (f : SlotF) (s : State) : Out := fireSlot s f bodyShuf

/-- BCAST: lane k of SRCA in every lane, with SRCA's tag (R143). -/
def bodyBcast (c : Ctx) : Except ETrap Fired := do
  let w := laneW c.f.lane
  let a ← c.read1 c.f.srca.toNat .any
  let r := packW w (List.replicate (64 / w) (laneN w c.f.srcb.toNat a.val))
  return c.result r a.tag (outNz r)

def execBcast (f : SlotF) (s : State) : Out := fireSlot s f bodyBcast

/-- LANESUM: the exact sum of the signed lanes as I64 (R143). -/
def bodyLanesum (c : Ctx) : Except ETrap Fired := do
  let w := laneW c.f.lane
  let a ← c.read1 c.f.srca.toNat .int
  let r : Word := BitVec.ofNat 64 (wrapN 64 (((lanes w a.val).map (sgn w)).foldl (· + ·) 0))
  return c.result r 0 (outNz r)

def execLanesum (f : SlotF) (s : State) : Out := fireSlot s f bodyLanesum

/-- INS: Dn with lane k replaced by lane 0 of SRCA (R143). -/
def bodyIns (c : Ctx) : Except ETrap Fired := do
  let w := laneW c.f.lane
  let (a, d) ← c.read2 c.f.srca.toNat .int c.f.dst.toNat .int
  let r := packW w ((lanes w d.val).set c.f.srcb.toNat (laneN w 0 a.val))
  return c.result r (intTag c.f.lane) (outNz r)

def execIns (f : SlotF) (s : State) : Out := fireSlot s f bodyIns

/-- EXTR: lane k of SRCA, zero-extended (R143). -/
def bodyExtr (c : Ctx) : Except ETrap Fired := do
  let w := laneW c.f.lane
  let a ← c.read1 c.f.srca.toNat .int
  let r : Word := BitVec.ofNat 64 (laneN w c.f.srcb.toNat a.val)
  return c.result r 0 (outNz r)

def execExtr (f : SlotF) (s : State) : Out := fireSlot s f bodyExtr

end Sys2Proof.Machine
end

