-- ==== Sys2Proof/Machine/CeStream.lean ====
section
/-! DEFINITION. CE fibres, coordinate pairs, bitmap words, merging and top-k (R163 to R170). -/

namespace Sys2Proof.Machine

open Sys2Proof

def Elem.fibre (e : Elem) (k : Nat) : Fib := e.ce.fib.getD k Fib.zero
def Elem.setFibre (e : Elem) (k : Nat) (x : Fib) : Elem := { e with ce := { e.ce with fib := putAt Fib.zero e.ce.fib k x } }

/-- FIB(i) of a fibre register. -/
def Fib.level (x : Fib) (i : Nat) : Nat :=
  match i with
  | 0 => x.fib0 | 1 => x.fib1 | 2 => x.fib2 | _ => x.fib3

/-- A count one higher, wrapping at 2^32 (R163). -/
def inc32 (n : Nat) : Nat := (n + 1) % 2 ^ 32

/-- FOPEN: Fk := 0 (R165). -/
def bodyFopen (c : Ctx) : Except ETrap Fired :=
  .ok { c.silent false with e := c.e.setFibre c.f.srcb.toNat Fib.zero }

def execFopen (f : SlotF) (s : State) : Out := fireSlot s f bodyFopen

/-- FADV: the DATA head passes and F.POS counts it; a FAULT head passes with no change (R165). -/
def bodyFadv (c : Ctx) : Except ETrap Fired := do
  let a ← c.read1 c.f.srca.toNat .none
  let k := c.f.srcb.toNat
  let x := c.e.fibre k
  let isF := a.ctag == Ctag.fault
  return { c.result a.val a.tag (!isF && outNz a.val) with
    res := some a.res
    e := if isF then c.e else c.e.setFibre k { x with pos := inc32 x.pos } }

def execFadv (f : SlotF) (s : State) : Out := fireSlot s f bodyFadv

/-- FEND: whether the head is an END of rank r or above (R165). -/
def bodyFend (c : Ctx) : Except ETrap Fired := do
  let a ← c.read1 c.f.srca.toNat .none
  let x := c.e.fibre c.f.srcb.toNat
  let j := a.ctag.toNat - 1
  let hit := decide (1 ≤ a.ctag.toNat ∧ a.ctag.toNat ≤ 4 ∧ c.f.lane.toNat ≤ j)
  let r : Word := if hit then BitVec.ofNat 64 (x.pos + (j + 1) * 2 ^ 32) else 0
  return c.endWord (c.result r 0 hit)

def execFend (f : SlotF) (s : State) : Out := fireSlot s f bodyFend

/-- The fibre register after an END of rank j (R165). -/
def Fib.close (x : Fib) (j : Nat) : Fib :=
  match j with
  | 0 => { x with fib0 := inc32 x.fib0, pos := 0, bit := 0 }
  | 1 => { x with fib0 := 0, fib1 := inc32 x.fib1, pos := 0, bit := 0 }
  | 2 => { x with fib0 := 0, fib1 := 0, fib2 := inc32 x.fib2, pos := 0, bit := 0 }
  | _ => { x with fib0 := 0, fib1 := 0, fib2 := 0, fib3 := inc32 x.fib3, pos := 0, bit := 0 }

/-- FCLOSE: an END head closes fibres; a FAULT head gives 0 and changes nothing (R165). -/
def bodyFclose (c : Ctx) : Except ETrap Fired := do
  let a ← c.read1 c.f.srca.toNat .none
  let k := c.f.srcb.toNat
  let x := c.e.fibre k
  if a.ctag = Ctag.fault then return c.result 0 0 false
  else
    let j := a.ctag.toNat - 1
    let r : Word := BitVec.ofNat 64 (x.pos + j * 2 ^ 32)
    return c.endWord { c.result r 0 (outNz r) with e := c.e.setFibre k (x.close j) }

def execFclose (f : SlotF) (s : State) : Out := fireSlot s f bodyFclose

/-- FPOS: a count of a fibre register (R165). -/
def bodyFpos (c : Ctx) : Except ETrap Fired :=
  let x := c.e.fibre c.f.srcb.toNat
  let sel := c.f.srca.toNat
  let r : Word := BitVec.ofNat 64 (if sel = 0 then x.pos else x.level (sel - 1))
  .ok (c.result r 0 (outNz r))

def execFpos (f : SlotF) (s : State) : Out := fireSlot s f bodyFpos

/-- A COORD payload (R90). -/
def coordW (c v : Nat) : Word := BitVec.ofNat 64 (c % 2 ^ 32 * 2 ^ 32 + v % 2 ^ 32)

/-- CPAIR: a coordinate from the low or the high half of a (R166). -/
def bodyCpair (c : Ctx) : Except ETrap Fired := do
  let (a, b) ← c.read2 c.f.srca.toNat .int c.f.srcb.toNat .int
  let r := coordW (if c.f.lane = 1 then coordOf a.val else valueOf a.val) (valueOf b.val)
  return c.endWord (c.result r 14 (outNz r))

def execCpair (f : SlotF) (s : State) : Out := fireSlot s f bodyCpair

/-- Read a COORD source: class INT and FTAG 14 (R164). -/
def Ctx.readCoord (c : Ctx) (code : Nat) : Except ETrap Src := c.read1 code .coord

/-- CSPLIT.c: the coordinate (R166). -/
def bodyCsplitC (c : Ctx) : Except ETrap Fired := do
  let a ← c.readCoord c.f.srca.toNat
  let r : Word := BitVec.ofNat 64 (coordOf a.val)
  return c.endWord (c.result r 0 (outNz r))

def execCsplitC (f : SlotF) (s : State) : Out := fireSlot s f bodyCsplitC

/-- CSPLIT.v: the value, under the format tag in SRCB (R166). -/
def bodyCsplitV (c : Ctx) : Except ETrap Fired := do
  let a ← c.readCoord c.f.srca.toNat
  let r : Word := BitVec.ofNat 64 (valueOf a.val)
  return c.endWord (c.result r c.f.srcb (outNz r))

def execCsplitV (f : SlotF) (s : State) : Out := fireSlot s f bodyCsplitV

/-! ### Bitmap words (R167) -/

/-- The bits of w from BIT on. -/
def bmRest (x : Fib) (w : Nat) : Nat := w / 2 ^ x.bit * 2 ^ x.bit

/-- One step over a bitmap word w, whose token values v gives for a bit: emits one COORD, or advances past a spent
word. -/
def bmStep (c : Ctx) (k : Nat) (w : Nat) (v : Nat → Nat) (ks : List Nat) : Fired :=
  let x := c.e.fibre k
  let m := bmRest x w
  let past := { x with pos := inc32 x.pos, bit := 0 }
  if m = 0 then
    { c.silent false with e := c.e.setFibre k past, deq := ks }
  else
    let p := ctzN 64 m
    let r := coordW (64 * x.pos + p) (v p)
    let spent := decide (m - 2 ^ p = 0)
    { c.result r 14 true with
      e := c.e.setFibre k (if spent then past else { x with bit := p + 1 })
      deq := if spent then ks else [] }

/-- BMEXP: one set bit with its offset among the word's non-zeros. -/
def bodyBmexp (c : Ctx) : Except ETrap Fired := do
  let a ← c.read1 c.f.srca.toNat .int
  return bmStep c c.f.srcb.toNat a.val.toNat (fun p => popN p a.val.toNat) [c.f.srca.toNat]

def execBmexp (f : SlotF) (s : State) : Out := fireSlot s f bodyBmexp

/-- BMAND: one set bit of both words with its position. -/
def bodyBmand (c : Ctx) : Except ETrap Fired := do
  let (a, b) ← c.read2 c.f.srca.toNat .int c.f.srcb.toNat .int
  return bmStep c c.f.lane.toNat (a.val &&& b.val).toNat (fun p => p) [c.f.srca.toNat, c.f.srcb.toNat]

def execBmand (f : SlotF) (s : State) : Out := fireSlot s f bodyBmand

/-! ### Merging (R168) -/

/-- The class of a CMERGE head: a DATA head is a COORD, an END head is INT (R164). -/
def mergeCls (a : Src) : Cls := if a.ctag = Ctag.data then .coord else .int

/-- A head that passes: its payload and residue, as DATA with FTAG 14. -/
def Ctx.passHead (c : Ctx) (a : Src) (ks : List Nat) : Fired :=
  { c.result a.val 14 true with res := some a.res, deq := ks }

/-- An END of a rank (R155). -/
def Ctx.emitEnd (c : Ctx) (rank : Nat) (ks : List Nat) : Fired :=
  { c.result 0 0 false with dst := .token (BitVec.ofNat 3 (rank + 1)), deq := ks }

/-- CMERGE on its heads: LANE 00 keep, 01 addi, 10 addf, 11 first. -/
def mergeHeads (c : Ctx) : Except ETrap Fired := do
  let ia := c.f.srca.toNat
  let ib := c.f.srcb.toNat
  let (a, b) ← c.read2 ia (mergeCls (c.e.source ia)) ib (mergeCls (c.e.source ib))
  if a.ctag = Ctag.data ∧ b.ctag = Ctag.data then
    let ca := coordOf a.val
    let cb := coordOf b.val
    if ca < cb then return c.passHead a [ia]
    else if cb < ca then return c.passHead b [ib]
    else
      match c.f.lane.toNat with
      | 0 => return c.passHead a [ia]
      | 1 => return { c.result (coordW ca (valueOf a.val + valueOf b.val)) 14 true with deq := [ia, ib] }
      | 2 =>
        let v := c.e.round fF32 0 (FVal.add c.e.rmode (fF32.dec (valueOf a.val)) (fF32.dec (valueOf b.val)))
        return { c.result (coordW ca v) 14 true with deq := [ia, ib] }
      | _ => return c.passHead a [ia, ib]
  else if a.ctag = Ctag.data then return c.passHead a [ia]
  else if b.ctag = Ctag.data then return c.passHead b [ib]
  else
    let ra := a.ctag.toNat - 1
    let rb := b.ctag.toNat - 1
    if ra < rb then return c.emitEnd ra [ia]
    else if rb < ra then return c.emitEnd rb [ib]
    else return c.emitEnd ra [ia, ib]

/-- CMERGE: every firing of the form addf counts as one that rounds, whatever its heads (R96; log 23). -/
def bodyCmerge (c : Ctx) : Except ETrap Fired := do
  let x ← mergeHeads c
  return { x with rounds := c.f.lane == 2 && c.e.isSr }

def execCmerge (f : SlotF) (s : State) : Out := fireSlot s f bodyCmerge

/-! ### Top-k (R169, R170) -/

/-- Whether value x is larger than y under a key type: 0 s32, 1 u32, 2 F32. -/
def keyGt (kt x y : Nat) : Bool :=
  match kt with
  | 0 => decide (sgn 32 y < sgn 32 x)
  | 1 => decide (y < x)
  | _ => FVal.lt (fF32.dec y) (fF32.dec x)

/-- Whether entry a ranks before entry b: larger value first, then smaller coordinate. -/
def ranksBefore (kt : Nat) (a b : Word) : Bool :=
  keyGt kt (valueOf a) (valueOf b) ||
    (!keyGt kt (valueOf b) (valueOf a) && decide (coordOf a < coordOf b))

/-- Insert in rank order. DESIGN CHOICE: of entries of equal value and equal coordinate the earlier stays first, since
R169 gives them no order (log 80). -/
def topInsert (kt : Nat) (a : Word) : List Word → List Word
  | [] => [a]
  | b :: bs => if ranksBefore kt a b then a :: b :: bs else b :: topInsert kt a bs

/-- The list of K places after a, and whether a entered it. -/
def topStep (kt k : Nat) (a : Word) (l : List Word) : List Word × Bool :=
  let l := l.take k
  if l.length < k then (topInsert kt a l, true)
  else
    match l.getLast? with
    | some z => if ranksBefore kt a z then (topInsert kt a l.dropLast, true) else (l, false)
    | none => (l, false)

/-- TOPK. DESIGN CHOICE: a key-type mismatch has no source at fault, and its INFO is 0 (log 80). -/
def bodyTopk (c : Ctx) : Except ETrap Fired := do
  let a ← c.readCoord c.f.srca.toNat
  let kt := c.f.lane.toNat
  let ce := c.e.ce
  if ce.topk ≠ [] ∧ ce.topType ≠ some kt then throw (c.trap Cause.fmtMismatch 0)
  else if kt = 2 ∧ (fF32.dec (valueOf a.val)).isNaN then return c.silent false
  else
    let (l, o) := topStep kt (c.f.srcb.toNat + 1) a.val ce.topk
    return { c.silent o with e := { c.e with ce := { ce with topk := l, topType := some kt } } }

def execTopk (f : SlotF) (s : State) : Out := fireSlot s f bodyTopk

/-- TOPKRD: the first entry, or END0 when the list is empty. -/
def bodyTopkrd (c : Ctx) : Except ETrap Fired :=
  let ce := c.e.ce
  match ce.topk with
  | [] =>
    .ok { c.result 0 0 false with
      dst := .token 1
      e := { c.e with ce := { ce with topType := none } } }
  | x :: xs =>
    .ok { c.result x 14 true with
      e := { c.e with ce := { ce with topk := xs, topType := if xs = [] then none else ce.topType } } }

def execTopkrd (f : SlotF) (s : State) : Out := fireSlot s f bodyTopkrd

end Sys2Proof.Machine
end

