-- ==== Sys2Proof/Machine/Common.lean ====
section
/-! DEFINITION. The ten opcodes of every element kind (R122 to R130, R362, R363). -/

namespace Sys2Proof.Machine

open Sys2Proof

/-- NOP: result 0, outcome false (R123). -/
def bodyNop (c : Ctx) : Except ETrap Fired := .ok (c.silent false)

def execNop (f : SlotF) (s : State) : Out := fireSlot s f bodyNop

/-- MOV: the value, format tag and residue of SRCA (R124, R122). -/
def bodyMov (c : Ctx) : Except ETrap Fired := do
  let a ← c.read1 c.f.srca.toNat .none
  return { c.result a.val a.tag (outNz a.val) with res := some a.res }

def execMov (f : SlotF) (s : State) : Out := fireSlot s f bodyMov

/-- EMIT: the value of SRCA with the format tag given raw in SRCB (R125). -/
def bodyEmit (c : Ctx) : Except ETrap Fired := do
  let a ← c.read1 c.f.srca.toNat .none
  return c.result a.val c.f.srcb (outNz a.val)

def execEmit (f : SlotF) (s : State) : Out := fireSlot s f bodyEmit

/-- An operand of PLOG: a predicate, inverted when bit 3 is set (R126). -/
def plogArg (e : Elem) (x : BitVec 4) : Bool := xor (e.pred (x.toNat % 8)) (x.getLsbD 3)

/-- The operation of PLOG that LANE selects (R126). -/
def plogOp (lane : Nat) (a b : Bool) : Bool :=
  match lane with
  | 0 => a && b
  | 1 => a || b
  | _ => xor a b

/-- PLOG (R126). -/
def bodyPlog (c : Ctx) : Except ETrap Fired :=
  let r := plogOp c.f.lane.toNat (plogArg c.e c.f.srca) (plogArg c.e c.f.srcb)
  .ok (c.result (BitVec.ofNat 64 (boolN r)) 0 r)

def execPlog (f : SlotF) (s : State) : Out := fireSlot s f bodyPlog

/-- TAGRD: CTAG in bits [2:0] and FTAG in bits [6:3] (R127). -/
def bodyTagrd (c : Ctx) : Except ETrap Fired := do
  let a ← c.read1 c.f.srca.toNat .none
  let r : Word := BitVec.ofNat 64 (a.ctag.toNat + 8 * a.tag.toNat)
  return c.result r 0 (outNz r)

def execTagrd (f : SlotF) (s : State) : Out := fireSlot s f bodyTagrd

/-- SEL: SRCA if Pk = 1 and SRCB if Pk = 0, k in LANE (R128). -/
def bodySel (c : Ctx) : Except ETrap Fired := do
  let (a, b) ← c.read2 c.f.srca.toNat .none c.f.srcb.toNat .none
  let x := if c.e.pred c.f.lane.toNat then a else b
  return { c.result x.val x.tag (outNz x.val) with res := some x.res }

def execSel (f : SlotF) (s : State) : Out := fireSlot s f bodySel

/-- TRAP: fires with outcome false and stops the element with USER_TRAP and code n (R129, R430). -/
def bodyTrap (c : Ctx) : Except ETrap Fired :=
  .ok { c.silent false with
    after := some (c.trap Cause.userTrap (c.f.srca.toNat + 16 * c.f.srcb.toNat)) }

def execTrap (f : SlotF) (s : State) : Out := fireSlot s f bodyTrap

/-- Whether a slot belongs to a balanced group (R47, R130). -/
def Elem.balanced (e : Elem) (n : Nat) : Bool :=
  let g := fld (e.slotWord n) 0 2
  g != 0 && e.gmode g == 1 && e.sen n

/-- The counter that PERF reads (R130). -/
def Elem.perf (e : Elem) (slot sel : Nat) : Nat :=
  let k := e.counters.getD slot ⟨0, 0, 0⟩
  match sel with
  | 0 => k.fired
  | 1 => k.stall
  | 2 => k.starve
  | 3 => e.clk
  | _ => if e.balanced slot then (e.bal.getD slot ⟨0, 0, 0, 0⟩).w else 0

/-- Clear the counter that PERF reads (R130). -/
def Elem.perfClear (e : Elem) (slot sel : Nat) : Elem :=
  match sel with
  | 0 => { e with counters := putAt ⟨0, 0, 0⟩ e.counters slot { e.counters.getD slot ⟨0, 0, 0⟩ with fired := 0 } }
  | 1 => { e with counters := putAt ⟨0, 0, 0⟩ e.counters slot { e.counters.getD slot ⟨0, 0, 0⟩ with stall := 0 } }
  | 2 => { e with counters := putAt ⟨0, 0, 0⟩ e.counters slot { e.counters.getD slot ⟨0, 0, 0⟩ with starve := 0 } }
  | 3 => { e with clk := 0 }
  | _ => e

/-- PERF (R130). -/
def bodyPerf (c : Ctx) : Except ETrap Fired :=
  let slot := c.f.srca.toNat
  let sel := c.f.srcb.toNat
  let r : Word := BitVec.ofNat 64 (c.e.perf slot sel)
  let x := c.result r 0 (outNz r)
  .ok (if c.f.lane = 1 then { x with e := c.e.perfClear slot sel } else x)

def execPerf (f : SlotF) (s : State) : Out := fireSlot s f bodyPerf

/-- JOIN: one ORDER token of the scope in SRCA (R362). -/
def bodyJoin (c : Ctx) : Except ETrap Fired :=
  let r : Word := BitVec.ofNat 64 c.f.srca.toNat
  .ok { c.result r 0 (outNz r) with dst := .token Ctag.order }

def execJoin (f : SlotF) (s : State) : Out := fireSlot s f bodyJoin

/-- JOINC: counts the inputs it dequeues in Dn and emits an ORDER token each time N is reached (R363). -/
def bodyJoinc (c : Ctx) : Except ETrap Fired := do
  let (d, k) ← c.read2 c.f.srca.toNat .none c.f.srcb.toNat .none
  let cnt := d.val.toNat + (deqInputs c.f).length
  let n := fld k.val 0 32
  let go := decide (n ≤ cnt)
  let left : Word := BitVec.ofNat 64 (if go then cnt - n else cnt)
  let scope : Word := BitVec.ofNat 64 (fld k.val 60 4)
  return { c.result scope 0 go with
    also := some (c.f.srca.toNat - 4, left)
    dst := if go then .token Ctag.order else .none }

def execJoinc (f : SlotF) (s : State) : Out := fireSlot s f bodyJoinc

end Sys2Proof.Machine
end

