-- ==== Sys2Proof/Machine/Convert.lean ====
section
/-! DEFINITION. The format conversion engine: dense, CSR and arbor layouts (R393 to R396). -/

namespace Sys2Proof.Machine

open Sys2Proof

/-! ### Sources -/

/-- Words from an address up, in one number, lowest word lowest. -/
def Cmd.readNat (c : Cmd) (va n : Nat) : Except Nat Nat := do
  let ws ← (List.range n).mapM fun i => c.read ((va + 8 * i) % 2 ^ 57)
  return packLanes 64 (ws.map (·.toNat))

/-- Element i of a dense row, as a scalar format tag and its bits; a BX element is exact in F32 (R99). -/
def rowElem (t row i : Nat) : Nat × Nat :=
  if isBx t then
    let blk := fldN row (i / 16 * bxBits t) (bxBits t)
    (4, rneF32 (bxElem t blk (bxE t blk) (i % 16)))
  else (t, fldN row (i * tagWidth t) (tagWidth t))

/-- Row r of a dense source. -/
def Cmd.denseRow (c : Cmd) (base pitch t ncols r : Nat) : Except Nat (List (Nat × Nat)) := do
  let row ← c.readNat (base + r * pitch) (rowBits t ncols / 64)
  return (List.range ncols).map (rowElem t row)

/-- The u32 at an address. -/
def Cmd.readU32 (c : Cmd) (va : Nat) : Except Nat Nat := do
  let w ← c.read (va / 8 * 8)
  return fld w (va % 8 * 8) 32

/-- A CSR source as entries (row, column, value) (R395). -/
def Cmd.csrEntries (c : Cmd) (f : CveF) : Except Nat (List (Nat × Nat × Nat)) := do
  let w0 ← c.read f.src
  if !bitAt w0 63 then throw Cause.csrInvalid
  let nnz := fld w0 0 32
  if fld w0 32 24 ≠ f.nrows then throw Cause.csrOrder
  let w1 ← c.read (f.src + 8)
  let ptrs ← (List.range (f.nrows + 1)).mapM fun r => c.readU32 (f.src + 16 + 4 * r)
  if !((List.range f.nrows).all fun r => decide (ptrs.getD r 0 ≤ ptrs.getD (r + 1) 0)) ||
      !(ptrs.all fun p => decide (p ≤ nnz)) then throw Cause.csrOrder
  let cols := f.src + 16 + 8 * ceilDiv (f.nrows + 1) 2
  let vals := cols + 8 * ceilDiv (fld w1 0 32) 2
  let rows ← (List.range f.nrows).mapM fun r => do
    let a := ptrs.getD r 0
    let es ← (List.range (ptrs.getD (r + 1) 0 - a)).mapM fun i => do
      let k ← c.readU32 (cols + 4 * (a + i))
      let v ← c.readU32 (vals + 4 * (a + i))
      return (r, k, v)
    if !rising (es.map fun e => e.2.1) || !(es.all fun e => decide (e.2.1 < f.ncols)) then throw Cause.csrOrder
    return es
  return rows.flatten

/-- Numerically zero in a value format (R311). -/
def zeroIn (t v : Nat) : Bool := if t = 4 then v % 2 ^ 31 == 0 else v % 2 ^ 32 == 0

/-- The entries of a dense source that are not zero. -/
def Cmd.denseEntries (c : Cmd) (f : CveF) : Except Nat (List (Nat × Nat × Nat)) := do
  let rows ← (List.range f.nrows).mapM fun r => do
    let es ← c.denseRow f.src f.spitch f.fin f.ncols r
    return ((es.mapIdx fun k e => (r, k, e.2)).filter fun e => !zeroIn f.fin e.2.2)
  return rows.flatten

/-- The words of a source that a conversion reads: the rows of a dense array; of a CSR structure its first two words, then
what they say it holds. -/
def Cmd.sources (c : Cmd) (f : CveF) : List Nat :=
  let at_ (va n : Nat) : List Nat := (List.range n).map fun i => (va + 8 * i) % 2 ^ 57
  if f.srcDense then (List.range f.nrows).flatMap fun r => at_ (f.src + r * f.spitch) (rowBits f.fin f.ncols / 64)
  else
    match c.read f.src, c.read (f.src + 8) with
    | .ok w0, .ok w1 =>
      let cols := f.src + 16 + 8 * ceilDiv (f.nrows + 1) 2
      let n := ceilDiv (fld w0 0 32) 2
      [f.src, f.src + 8] ++ at_ (f.src + 16) (ceilDiv (f.nrows + 1) 2) ++ at_ cols n ++
        at_ (cols + 8 * ceilDiv (fld w1 0 32) 2) n
    | _, _ => [f.src, f.src + 8]

/-! ### Destinations -/

/-- A number of n words at rising addresses. -/
def natWords (va n x : Nat) : List (Nat × Word) :=
  (List.range n).map fun i => (va + 8 * i, BitVec.ofNat 64 (x / 2 ^ (64 * i)))

/-- u32 values at rising addresses; the half left over is zero. -/
def u32Words (va : Nat) (xs : List Nat) : List (Nat × Word) := natWords va (ceilDiv xs.length 2) (packLanes 32 xs)

/-- Row r of a dense destination: each value rounded once, BX blocks along the row (R394). -/
def convRow (f : CveF) (r : Nat) (es : List (Nat × Nat)) : List (Nat × Word) :=
  let rm := RMode.ofCode f.rmode
  let rnd (k : Nat) : Nat := srRnd f.rank f.step ((r * f.ncols + k) % 2 ^ 32)
  let n := rowBits f.fout f.ncols
  let bits :=
    if isBx f.fout then
      packLanes (bxBits f.fout) ((List.range (f.ncols / 16)).map fun b =>
        bxEncode f.fout rm (fun i => rnd (16 * b + i))
          (((es.drop (16 * b)).take 16).map fun e => tagDec e.1 e.2))
    else packLanes (tagWidth f.fout) (es.mapIdx fun k e => convLane e.1 f.fout rm f.sat (rnd k) e.2)
  natWords (f.dst + r * f.dpitch) (n / 64) bits

/-- Row r of a dense destination from entries; absent positions are 0. -/
def entryRow (f : CveF) (es : List (Nat × Nat × Nat)) (r : Nat) : List (Nat × Word) :=
  let vals := (List.range f.ncols).map fun k =>
    match es.find? fun e => decide (e.1 = r ∧ e.2.1 = k) with
    | some e => e.2.2
    | none => 0
  natWords (f.dst + r * f.dpitch) (rowBits f.fout f.ncols / 64) (packLanes 32 vals)

/-- The phases of a CSR output (R395, R396). -/
def csrPhases (f : CveF) (es : List (Nat × Nat × Nat)) : List (List (Nat × Word)) :=
  let cols := f.dst + 16 + 8 * ceilDiv (f.nrows + 1) 2
  let vals := cols + 8 * ceilDiv f.nnzmax 2
  let ptrs := (List.range (f.nrows + 1)).map fun r => (es.filter fun e => decide (e.1 < r)).length
  [[(f.dst + 8, BitVec.ofNat 64 f.nnzmax)] ++ u32Words cols (es.map fun e => e.2.1) ++
      u32Words vals (es.map fun e => e.2.2) ++ u32Words (f.dst + 16) ptrs,
   [(f.dst, BitVec.ofNat 64 (2 ^ 63 + f.fout * 2 ^ 56 + f.nrows % 2 ^ 24 * 2 ^ 32 + es.length))]]

/-- Split a list into parts of n. -/
def chunksOf {α : Type} (n : Nat) : Nat → List α → List (List α)
  | 0, _ => []
  | fuel + 1, xs => if xs.isEmpty then [] else xs.take n :: chunksOf n fuel (xs.drop n)

/-- Share a list among n parts as evenly as possible, the first ones taking one more. -/
def shareOf {α : Type} : Nat → List α → List (List α)
  | 0, _ => []
  | n + 1, xs =>
    let k := ceilDiv xs.length (n + 1)
    xs.take k :: shareOf n (xs.drop k)

/-- The levels of a tree above nodes (index, least key), numbered from i up (R396). -/
def buildUp (fuel i level : Nat) (below : List (Nat × Nat)) : List (Nat × ANode) × Nat × Nat :=
  match fuel with
  | 0 => ([], 0, level)
  | fuel + 1 =>
    match below with
    | [] => ([], 0, level)
    | [x] => ([], x.1, level)
    | _ =>
      let parts := shareOf (ceilDiv below.length 31) below
      let here := parts.mapIdx fun k p =>
        (i + k, (p.headD (0, 0)).2, (⟨2, level, 0, p.mapIdx fun j x => (if j = 0 then 0 else x.2, x.1)⟩ : ANode))
      let (rest, root, h) := buildUp fuel (i + here.length) (level + 1) (here.map fun x => (x.1, x.2.1))
      (here.map (fun x => (x.1, x.2.2)) ++ rest, root, h)

/-- The tree of an arbor output: its nodes in the order written, its root and its height. -/
def buildTree (kvs : List (Nat × Nat)) : List (Nat × ANode) × Nat × Nat :=
  let parts := if kvs.isEmpty then [[]] else chunksOf 30 kvs.length kvs
  let n := parts.length
  let leaves := parts.mapIdx fun k p => (k + 1, (⟨1, 0, if k + 1 = n then 0 else k + 2, p⟩ : ANode))
  let (up, root, h) := buildUp 8 (n + 1) 1 (leaves.map fun x => (x.1, (x.2.ents.headD (0, 0)).1))
  (leaves ++ up, root, h)

def nodeWords (base : Nat) (p : Nat × ANode) : List (Nat × Word) :=
  p.2.words.mapIdx fun w v => (base + 256 * p.1 + 8 * w, v)

/-- The phases of an arbor output after word 0 is invalid; none when it needs too many nodes (R396). -/
def arborPhases (f : CveF) (es : List (Nat × Nat × Nat)) : Option (List (List (Nat × Word))) :=
  let (nodes, root, h) := buildTree (es.map fun e => (e.1 * 2 ^ f.w0 + e.2.1, e.2.2))
  let used := nodes.length
  if f.nnode - 1 < used then none
  else
    let nfree := f.nnode - 1 - used
    let free := (List.range nfree).map fun k =>
      (used + 1 + k, (⟨0, 0, if k + 1 = nfree then 0 else used + 2 + k, []⟩ : ANode))
    let w0 := 3 * 2 ^ 62 + f.fout * 2 ^ 58 + 2 ^ 56 + f.w1 * 2 ^ 38 + f.w0 * 2 ^ 32 + h * 2 ^ 24 + f.nnode
    some
      [(nodes ++ free).flatMap (nodeWords f.dst) ++
        [(f.dst + 8, BitVec.ofNat 64 (root * 2 ^ 32 + (if nfree = 0 then 0 else used + 1))),
         (f.dst + 16, BitVec.ofNat 64 (nfree * 2 ^ 32 + es.length)), (f.dst + 24, 0)],
       [(f.dst, BitVec.ofNat 64 w0)]]

/-! ### The plan of a command -/

/-- What a conversion writes, phase by phase, and the cause it then fails with (0 for none). A failure found in the
source of a CSR or arbor output leaves word 0 invalid (R396). -/
def Cmd.cvePlan (c : Cmd) : List (List (Nat × Word)) × Nat :=
  let f := cveF c.blk
  let rows : List Nat := List.range f.nrows
  let invalid := [[(f.dst, (0 : Word))]]
  match f.kind with
  | 0 =>
    match rows.mapM fun r => (c.denseRow f.src f.spitch f.fin f.ncols r).map (convRow f r) with
    | .ok ws => ([ws.flatten], 0)
    | .error x => ([], x)
  | 1 =>
    match c.denseEntries f with
    | .ok es => if f.nnzmax < es.length then (invalid, Cause.csrFull) else (invalid ++ csrPhases f es, 0)
    | .error x => (invalid, x)
  | 2 =>
    match c.csrEntries f with
    | .ok es => ([rows.flatMap (entryRow f es)], 0)
    | .error x => ([], x)
  | k =>
    match (if k = 3 then c.denseEntries f
           else (c.csrEntries f).map fun es => es.filter fun e => !zeroIn f.fin e.2.2) with
    | .ok es =>
      match arborPhases f es with
      | some ps => (invalid ++ ps, 0)
      | none => ([], Cause.arborFull)
    | .error x => (invalid, x)

/-- The region of an arbor output: its walker drops the nodes it holds of it before they are written (R396, R317). -/
def State.dropRegion (s : State) (c : Cmd) : State :=
  let f := cveF c.blk
  if f.toArbor then
    match s.cmdPa c f.dst with
    | .ok a => s.writeBack fun x => decide (a ≤ x ∧ x < a + 256 * f.nnode)
    | .error _ => s
  else s

/-- The next chunk of a phase, of 256 bytes in its order: the runs are checked, which places its words (R390, R392). -/
def State.cveChunk (s : State) (c : Cmd) (p : List (Nat × Word)) : State :=
  match s.spotsOf c ((p.take 32).map (·.1)) with
  | .error x => s.cmdOver c x
  | .ok ps => s.modCmd c.id fun c => { c with spots := ps }

/-- Write words of the chunk of a phase: of a CSR or arbor output in the order in which the phase writes them (R396), of a
dense one in any (R286). -/
def State.cveWrite (s : State) (c : Cmd) (p : List (Nat × Word)) (rest : List (List (Nat × Word))) : State :=
  let here := p.take c.spots.length
  let ks := s.actNow here.length
  let ordered := (cveF c.blk).toArbor || (cveF c.blk).toCsr
  match s.putChunk c here (if ordered then List.range ks.length else ks) with
  | .error x => s.cmdOver c x
  | .ok (s1, left) =>
    let todo := left ++ p.drop here.length
    (s1.modCmd c.id fun c =>
      { c with
        phases := if todo.isEmpty then rest else todo :: rest
        spots := c.spots.filter fun x => left.any fun w => w.1 == x.1
        done := c.done + 8 * (here.length - left.length), due := s.clock + 1 + s.waitNow }).tick

/-- CONVERSION_PHASE: words of the source are read; once all are, the conversion is planned; then chunks of the first
phase that is not over are written. -/
def execConversionPhase (s : State) : Out :=
  match s.actor with
  | .id n =>
    match s.cmd? n with
    | none => .next s
    | some c =>
      if c.st ≠ 1 ∨ c.op ≠ .cve ∨ s.clock < c.due ∨ ¬ s.served c then .next s
      else if ¬ c.planned then
        match (c.sources (cveF c.blk)).filter fun va => !c.snap.any fun w => w.va == va with
        | [] =>
          let (ps, cause) := c.cvePlan
          .next ((s.dropRegion c).modCmd n fun c => { c with planned := true, phases := ps, cause := cause })
        | todo => .next (s.cmdSnap c todo)
      else
        match c.phases with
        | [] => .next (s.cmdOver c c.cause)
        | p :: rest => .next (if c.spots.isEmpty ∧ ¬ p.isEmpty then s.cveChunk c p else s.cveWrite c p rest)
  | _ => .fault .noActor

end Sys2Proof.Machine
end

