-- ==== Sys2Proof/Machine/MpePack.lean ====
section
/-! DEFINITION. The words of item FN 0x131 of an MPE: reply buffer, pending updates, traversal state, generator state,
replay and reissue records (R378, R438, R441). The spec names what they hold and leaves their layout open (log 37). -/

namespace Sys2Proof.Machine

open Sys2Proof

/-- Every request by number. -/
def mopList : List MOp :=
  [.ld, .ldf, .st, .stClr, .sto, .stoClr, .pld, .wld, .gld, .sst, .astrm, .astwr, .fence, .aadd, .amin, .amax, .aand,
   .aor, .axch, .acas, .afadd, .tken, .tkdec, .tkdecRet, .qput, .tkst, .tkstClr, .tkstAbn, .ald, .ast, .aaddc, .aiter,
   .acnt, .acntH, .cpy, .cve, .densQ, .densS, .rld, .rst, .rstAck, .dred, .drrecvR, .drrecvW, .drclose, .drcloseW]
def MOp.code (o : MOp) : Nat := mopList.idxOf o
def MOp.ofCode (n : Nat) : MOp := mopList.getD n .ld

/-- A word from fields: place and value. -/
def wordOfFields (fs : List (Nat × Nat)) : Word := BitVec.ofNat 64 ((fs.map fun f => f.2 * 2 ^ f.1).foldl (· + ·) 0)

def Tok.linkBits (t : Tok) : Nat :=
  t.ctag.toNat * 2 ^ 13 + t.ftag.toNat * 2 ^ 9 + t.res.toNat * 2 ^ 5 + t.rid.toNat
/-- A token from link word bits [79:64] and a payload (R56). -/
def Tok.ofLink (x : Nat) (pay : Word) : Tok :=
  ⟨BitVec.ofNat 3 (fldN x 13 3), BitVec.ofNat 4 (fldN x 9 4), BitVec.ofNat 4 (fldN x 5 4), BitVec.ofNat 5 (fldN x 0 5),
   pay⟩

/-! ### Writing -/

def Cell.pack (c : Cell) : List Word :=
  let (k, x, p) : Nat × Nat × Word := match c.r with
    | .wait => (0, 0, 0)
    | .tok t => (1, t.linkBits, t.pay)
    | .silent => (2, 0, 0)
    | .trap cause d => (3, cause, BitVec.ofNat 64 d)
  [wordOfFields [(0, c.id % 2 ^ 40), (40, c.credit % 8), (43, k), (48, x % 2 ^ 16)], p]

def RGroup.pack (g : RGroup) : List Word :=
  let (ps, pi, pm) : Nat × Nat × Nat := match g.pred with
    | some (i, m) => (1, i, m)
    | none => (0, 0, 0)
  [wordOfFields [(0, g.gid % 2 ^ 40), (40, g.op.code), (46, g.dst % 16), (50, g.lane % 4), (52, g.slot % 16),
     (56, boolN g.opened), (57, boolN g.owes), (58, boolN g.outc), (59, ps)],
   g.a, g.b,
   wordOfFields [(0, g.pass % 2 ^ 40), (40, g.n % 2 ^ 8), (48, pi % 8), (51, pm % 4)],
   BitVec.ofNat 64 g.cells.length] ++ g.cells.flatMap Cell.pack

def Trav.pack (t : Trav) : List Word :=
  [wordOfFields [(0, t.gid % 2 ^ 40), (40, t.form % 4), (42, boolN t.started), (43, boolN t.last.isSome)],
   BitVec.ofNat 64 t.cell, t.a, BitVec.ofNat 64 t.hdr, BitVec.ofNat 64 t.size, BitVec.ofNat 64 t.lo,
   BitVec.ofNat 64 t.hi, BitVec.ofNat 64 (t.last.getD 0), BitVec.ofNat 64 t.count, BitVec.ofNat 64 t.va]

def Replay.pack (r : Replay) : List Word :=
  [wordOfFields [(0, r.gid % 2 ^ 40), (40, r.op.code), (46, r.dst % 16), (50, r.lane % 4), (52, r.slot % 16),
     (56, boolN r.standing)],
   r.a, r.b, wordOfFields [(0, r.n % 2 ^ 16), (16, r.detail % 2 ^ 48)]]

def packLost (x : Nat × Nat) : Word := wordOfFields [(0, x.2 % 2 ^ 48), (48, x.1 % 16)]

def Reissue.pack (r : Reissue) : List Word :=
  [wordOfFields [(0, r.gid % 2 ^ 40), (40, r.op.code), (50, r.lane % 4)], r.a, r.b, BitVec.ofNat 64 r.n,
   BitVec.ofNat 64 r.cells.length] ++ r.cells.map (BitVec.ofNat 64)

/-- What item 0x130 does not hold of a generator. -/
def AddrGen.packState (g : AddrGen) : List Word :=
  [wordOfFields [(0, g.gid % 2 ^ 40), (42, boolN g.more)]]

/-- The words, in order: sizes, credits, generators, groups, traversals, replay and reissue records, tokens without a
replay entry. -/
def MpeState.pack (m : MpeState) : List Word :=
  [wordOfFields [(0, m.groups.length), (16, m.travs.length), (32, m.replay.length), (48, m.reissue.length)],
   wordOfFields [(0, m.rdCred), (16, m.wrCred), (32, m.laneCred), (48, m.remCred)],
   BitVec.ofNat 64 m.lost.length] ++
  m.ag.flatMap AddrGen.packState ++ m.groups.flatMap RGroup.pack ++ m.travs.flatMap Trav.pack ++
  m.replay.flatMap Replay.pack ++ m.reissue.flatMap Reissue.pack ++ m.lost.map packLost

/-! ### Reading: each reader takes words from the front and answers the rest -/

/-- Read n things. -/
def readMany {α : Type} (f : List Word → α × List Word) : Nat → List Word → List α × List Word
  | 0, ws => ([], ws)
  | n + 1, ws =>
    let (x, r) := f ws
    let (xs, r') := readMany f n r
    (x :: xs, r')

def at_ (ws : List Word) (k : Nat) : Word := ws.getD k 0

def Cell.read (ws : List Word) : Cell × List Word :=
  let w := at_ ws 0
  let p := at_ ws 1
  let r : Reply := match fld w 43 2 with
    | 0 => .wait
    | 1 => .tok (Tok.ofLink (fld w 48 16) p)
    | 2 => .silent
    | _ => .trap (fld w 48 16) p.toNat
  (⟨fld w 0 40, r, fld w 40 3, 0⟩, ws.drop 2)

def RGroup.read (ws : List Word) : RGroup × List Word :=
  let w := at_ ws 0
  let x := at_ ws 3
  let (cs, r) := readMany Cell.read (min 4096 (at_ ws 4).toNat) (ws.drop 5)
  ({ gid := fld w 0 40, op := MOp.ofCode (fld w 40 6), dst := fld w 46 4, lane := fld w 50 2, n := fld x 40 8,
     a := at_ ws 1, b := at_ ws 2, pass := fld x 0 40, slot := fld w 52 4, cells := cs, opened := bitAt w 56,
     owes := bitAt w 57, pred := if bitAt w 59 then some (fld x 48 3, fld x 51 2) else none, outc := bitAt w 58 }, r)

def Trav.read (ws : List Word) : Trav × List Word :=
  let w := at_ ws 0
  ({ gid := fld w 0 40, cell := (at_ ws 1).toNat, a := at_ ws 2, hdr := (at_ ws 3).toNat, size := (at_ ws 4).toNat,
     lo := (at_ ws 5).toNat, hi := (at_ ws 6).toNat, last := if bitAt w 43 then some (at_ ws 7).toNat else none,
     form := fld w 40 2, started := bitAt w 42, count := (at_ ws 8).toNat, due := 0, va := (at_ ws 9).toNat, taken := false },
       ws.drop 10)

def Replay.read (ws : List Word) : Replay × List Word :=
  let w := at_ ws 0
  ({ gid := fld w 0 40, op := MOp.ofCode (fld w 40 6), a := at_ ws 1, b := at_ ws 2, n := fld (at_ ws 3) 0 16,
     lane := fld w 50 2, slot := fld w 52 4, dst := fld w 46 4, detail := fld (at_ ws 3) 16 48,
     standing := bitAt w 56 }, ws.drop 4)

def Reissue.read (ws : List Word) : Reissue × List Word :=
  let w := at_ ws 0
  let n := min 4096 (at_ ws 4).toNat
  ({ gid := fld w 0 40, op := MOp.ofCode (fld w 40 6), a := at_ ws 1, b := at_ ws 2, n := (at_ ws 3).toNat,
     lane := fld w 50 2, cells := ((ws.drop 5).take n).map BitVec.toNat }, ws.drop (5 + n))

/-- An MPE with the state that words hold. -/
def MpeState.unpack (m : MpeState) (ws : List Word) : MpeState :=
  let h := at_ ws 0
  let c := at_ ws 1
  let (gens, r0) := readMany (fun v => (at_ v 0, v.drop 1)) m.ag.length (ws.drop 3)
  let (gs, r1) := readMany RGroup.read (fld h 0 16) r0
  let (ts, r2) := readMany Trav.read (fld h 16 16) r1
  let (rp, r3) := readMany Replay.read (fld h 32 16) r2
  let (ri, r4) := readMany Reissue.read (fld h 48 16) r3
  let (lo, _) := readMany (fun v => ((fld (at_ v 0) 48 4, fld (at_ v 0) 0 48), v.drop 1)) (fld (at_ ws 2) 0 16) r4
  { m with
    rdCred := fld c 0 16, wrCred := fld c 16 16, laneCred := fld c 32 16, remCred := fld c 48 16, groups := gs,
    travs := ts, replay := rp, reissue := ri, lost := lo
    ag := (m.ag.zip gens).map fun p =>
      { p.1 with gid := fld p.2 0 40, more := bitAt p.2 42, born := 0 } }

end Sys2Proof.Machine
end

