-- ==== Sys2Proof/Machine/Mxe.lean ====
section
/-! DEFINITION. The firings of matrix elements: tile registers, accumulators, products and drains as slots start them
(R220 to R241). -/

namespace Sys2Proof.Machine

open Sys2Proof

/-! ### Tile registers and accumulators (R221 to R223) -/

def MxeState.treg (x : MxeState) (n : Nat) : TReg := x.t.getD n TReg.unset
def MxeState.acc (x : MxeState) (n : Nat) : Acc := x.a.getD n Acc.zero
def MxeState.setT (x : MxeState) (n : Nat) (t : TReg) : MxeState := { x with t := putAt TReg.unset x.t n t }
def MxeState.setA (x : MxeState) (n : Nat) (a : Acc) : MxeState := { x with a := putAt Acc.zero x.a n a }
def Elem.setMxe (e : Elem) (x : MxeState) : Elem := { e with mxe := x }

/-- Element width in bits of a format, BX by its bits for each element (R222). -/
def mxWidth (fmt : Nat) : Nat :=
  match fmt with
  | 11 => 4 | 12 => 6 | 13 => 9
  | _ => tagWidth fmt

/-- K: elements of a row (R222). -/
def TReg.k (t : TReg) : Nat := t.cb * 8 / mxWidth t.fmt

/-- n bytes at byte offset o of a tile register, as a number. -/
def TReg.bytes (t : TReg) (o n : Nat) : Nat :=
  let first := o / 8
  let words := (List.range (n / 8 + 2)).map fun i => (sget 0 t.data (first + i)).toNat
  packLanes 64 words / 2 ^ (8 * (o % 8)) % 2 ^ (8 * n)

/-- Multiply by a power of two, exactly. -/
def FVal.scale (v : FVal) (k : Int) : FVal :=
  match v with
  | .fin n m e => .fin n m (e + k)
  | x => x

/-- The elements of row r, decoded, with the register's scale (R222, R235). -/
def TReg.row (t : TReg) (r : Nat) : List FVal :=
  let sc := sgn 8 t.sigma
  let base := r * t.cb
  if t.fmt = 11 ∨ t.fmt = 12 ∨ t.fmt = 13 then
    let bb := bxBits t.fmt / 8
    (List.range (t.cb / bb)).flatMap fun b =>
      let blk := t.bytes (base + b * bb) bb
      let E := if t.ovr then t.eovr else bxE t.fmt blk
      (List.range 16).map fun i => (bxElem t.fmt blk E i).scale sc
  else
    let w := tagWidth t.fmt
    (List.range (t.cb / 8)).flatMap fun j =>
      (lanes w (sget 0 t.data (base / 8 + j))).map fun x => (tagDec t.fmt x).scale sc

/-- Whether the array reads tile register n (R234). -/
def MxeState.busyT (x : MxeState) (n : Nat) : Bool :=
  let names (j : ArrJob) : Bool := j.ta == n || j.tb == some n
  (x.run.map names).getD false || (x.next.map names).getD false

/-- Whether accumulator n is in use (R234). -/
def MxeState.inUse (x : MxeState) (n : Nat) : Bool :=
  let names (j : ArrJob) : Bool := j.acc == n
  (x.run.map names).getD false || (x.next.map names).getD false || x.ending.any names ||
    (x.drain.map fun d => d.acc == n).getD false

/-- INFO of MXDESC, MXSTATE and MXSHAPE (R430). -/
def mxInfo (isAcc : Bool) (n : Nat) : Nat := boolN isAcc * 16 + n

/-- INFO of FMT_MISMATCH on a tile register (R430). -/
def mxFmtInfo (n fmt : Nat) : Nat := 2 ^ 16 + n * 2 ^ 8 + fmt

/-- A firing that writes nothing to DST and changes the matrix state. -/
def Ctx.mx (c : Ctx) (x : MxeState) (outcome : Bool) : Fired := { c.silent outcome with e := c.e.setMxe x }

/-! ### Shape and fill (R225 to R228, R231, R235) -/

/-- Whether a TCFG descriptor is in breach (R225). -/
def tcfgBad (d : Word) : Bool :=
  let fmt := fld d 0 4
  let rows := fld d 4 6 + 1
  let cb := (fld d 10 9 + 1) * 8
  fld d 20 44 != 0 || !([1, 3, 4, 5, 6, 7, 8, 9, 10, 11, 12, 13].contains fmt) || decide (4096 < rows * cb) ||
  (fmt == 12 && cb % 24 != 0) || (fmt == 13 && cb % 72 != 0) ||
  (bitAt d 19 && !([1, 3, 4, 5, 6, 7, 8].contains fmt))

/-- TCFG. -/
def bodyTcfg (c : Ctx) : Except ETrap Fired := do
  let a ← c.read1 c.f.srca.toNat .int
  let n := c.f.srcb.toNat
  let d := a.val
  if tcfgBad d then throw (c.trap Cause.mxdesc (mxInfo false n))
  else
    let x := c.e.mxe
    return c.mx (x.setT n { x.treg n with
      st := 1, fmt := fld d 0 4, rows := fld d 4 6 + 1, cb := (fld d 10 9 + 1) * 8, col := bitAt d 19, fill := 0,
      sigma := 0, ovr := false, eovr := 0, dirty := false, cause := 0 }) true

def execTcfg (f : SlotF) (s : State) : Out := fireSlot s f bodyTcfg

/-- Store a payload by row fill or column fill (R227). -/
def TReg.store (t : TReg) (v : Word) : TReg :=
  let data :=
    if !t.col then sset 0 t.data (t.fill / 8) v
    else
      let w := tagWidth t.fmt
      let L := 64 / w
      foldlRange (fun d j =>
        let q := t.fill * 8 / w + j
        let bit := (q % t.rows) * t.cb * 8 + q / t.rows * w
        sset 0 d (bit / 64) (setFld (sget 0 d (bit / 64)) (bit % 64) w (laneN w j v))) L t.data
  let fill := t.fill + 8
  { t with data := data, fill := fill, dirty := true, st := if fill = t.rows * t.cb then 3 else 2 }

/-- Parts of the open BX group after a part from input k went into register n (R87; log 10). -/
def partsAfter (parts : List (Nat × Nat)) (code n fmt : Nat) : List (Nat × Nat) :=
  if code ≤ 3 ∧ (fmt = 12 ∨ fmt = 13) then putAt (0, 0) parts code (((parts.getD code (0, 0)).1 + 1) % bxGroupWords fmt, n)
  else parts

/-- TFILL (R226 to R228). No group is open at a FAULT token: its parts are gone by then (R88; log 10). -/
def bodyTfill (c : Ctx) : Except ETrap Fired := do
  let code := c.f.srca.toNat
  let n := c.f.srcb.toNat
  let x := c.e.mxe
  let t := x.treg n
  let a ← c.read1 code .none
  if t.st = 0 ∨ t.st = 3 ∨ t.st = 4 then throw (c.trap Cause.mxstate (mxInfo false n))
  else if a.ctag = Ctag.fault then
    return c.mx (x.setT n { t with st := 4, cause := fld a.val 48 16 }) false
  else if a.tag ≠ 0 ∧ a.tag.toNat ≠ t.fmt then throw (c.fmt code a.tag)
  else
    let p := if a.tag.toNat = t.fmt then partsAfter x.parts code n t.fmt else x.parts
    return c.mx { x.setT n (t.store a.val) with parts := p } true

def execTfill (f : SlotF) (s : State) : Out := fireSlot s f bodyTfill

/-- An accumulator after TZERO with a kind (R230). -/
def Acc.cleared (kind : Bool) : Acc := { Acc.zero with kind := kind }

/-- TZERO (R230). -/
def bodyTzero (c : Ctx) : Except ETrap Fired :=
  let n := c.f.lane.toNat
  .ok (c.mx (c.e.mxe.setA n (Acc.cleared (c.f.srca == 1))) true)

def execTzero (f : SlotF) (s : State) : Out := fireSlot s f bodyTzero

/-- TREL (R231). -/
def bodyTrel (c : Ctx) : Except ETrap Fired :=
  let n := c.f.srcb.toNat
  let x := c.e.mxe
  let t := x.treg n
  .ok (c.mx (if t.st = 0 then x else x.setT n { t with st := 1, fill := 0, dirty := false, cause := 0 }) true)

def execTrel (f : SlotF) (s : State) : Out := fireSlot s f bodyTrel

/-- TSCALE (R235). -/
def bodyTscale (c : Ctx) : Except ETrap Fired := do
  let a ← c.read1 c.f.srca.toNat .int
  let n := c.f.srcb.toNat
  let x := c.e.mxe
  let t := x.treg n
  let ovr := bitAt a.val 8
  let eovr := fld a.val 9 8
  if fld a.val 17 47 ≠ 0 ∨ (ovr ∧ ¬ (t.fmt = 11 ∨ t.fmt = 12 ∨ t.fmt = 13)) ∨ (ovr ∧ eovr = 0xFF) ∨ t.st = 0 then
    throw (c.trap Cause.mxdesc (mxInfo false n))
  else
    return c.mx (x.setT n { t with sigma := fld a.val 0 8, ovr := ovr, eovr := eovr }) true

def execTscale (f : SlotF) (s : State) : Out := fireSlot s f bodyTscale

/-! ### Products (R232, R233, R236, R239) -/

/-- MACs in an element clock for a format (R233). -/
def mxRate (fmt : Nat) : Nat :=
  match fmt with
  | 10 => 2048 | 9 => 2048 | 11 => 2048 | 5 => 512 | 6 => 512 | _ => 1024

/-- Whether TMMA accepts a format with a kind of accumulator (R232). -/
def mxAccepts (s32 : Bool) (fmt : Nat) : Bool :=
  if s32 then fmt == 3 || fmt == 10 else [5, 6, 7, 8, 9, 11, 12, 13].contains fmt

/-- Start a firing of the array at once, or accept it behind the one in progress (R233). -/
def MxeState.accept (x : MxeState) (clock : Nat) (j : ArrJob) : MxeState :=
  match x.run with
  | none => { x with run := some { j with start := clock + 1 } }
  | some _ => { x with next := some j }

/-- The cause of a POISON tile register. -/
def TReg.poison (t : TReg) : Option Nat := if t.st = 4 then some t.cause else none

/-- TMMA (R232): shapes, then formats. -/
def bodyTmma (c : Ctx) : Except ETrap Fired :=
  let n := c.f.lane.toNat
  let ia := c.f.srca.toNat
  let ib := c.f.srcb.toNat
  let x := c.e.mxe
  let a := x.treg ia
  let b := x.treg ib
  let d := x.acc n
  if a.k ≠ b.k ∨ 32 < a.rows then .error (c.trap Cause.mxshape (mxInfo false ia))
  else if 32 < b.rows then .error (c.trap Cause.mxshape (mxInfo false ib))
  else if !mxAccepts d.kind a.fmt then .error (c.trap Cause.fmtMismatch (mxFmtInfo ia a.fmt))
  else if !mxAccepts d.kind b.fmt then .error (c.trap Cause.fmtMismatch (mxFmtInfo ib b.fmt))
  else
    let p := match a.poison with
      | some q => some q
      | none => b.poison
    let clocks := ceilDiv (a.k * 1024) (min (mxRate a.fmt) (mxRate b.fmt))
    .ok (c.mx (x.accept c.s.clock ⟨n, ia, some ib, 0, clocks, p, []⟩) (p.isNone && d.st != 3))

def execTmma (f : SlotF) (s : State) : Out := fireSlot s f bodyTmma

/-- TACC (R236): state, then format and kind, then shape. -/
def bodyTacc (c : Ctx) : Except ETrap Fired :=
  let n := c.f.lane.toNat
  let im := c.f.srcb.toNat
  let x := c.e.mxe
  let t := x.treg im
  let d := x.acc n
  if t.st ≠ 3 ∧ t.st ≠ 4 then .error (c.trap Cause.mxstate (mxInfo false im))
  else if t.fmt ≠ (if d.kind then 1 else 4) then .error (c.trap Cause.fmtMismatch (mxFmtInfo im t.fmt))
  else if 32 < t.rows ∨ 32 < t.cb / 4 then .error (c.trap Cause.mxshape (mxInfo false im))
  else .ok (c.mx (x.accept c.s.clock ⟨n, im, none, 0, t.rows, t.poison, []⟩) (t.poison.isNone && d.st != 3))

def execTacc (f : SlotF) (s : State) : Out := fireSlot s f bodyTacc

/-! ### Drain and status (R237 to R241) -/

/-- TDRAIN: starts the drain port (R238). -/
def bodyTdrain (c : Ctx) : Except ETrap Fired :=
  let n := c.f.srca.toNat
  let x := c.e.mxe
  let a := x.acc n
  .ok (c.mx { x with drain := some {
    acc := n, fmt := c.f.srcb.toNat, sat := c.f.lane.getLsbD 0, clr := c.f.lane.getLsbD 1,
    dst := c.f.dst.toNat, row := 0, pos := 0, start := c.s.clock + 1 } } (a.st != 3))

def execTdrain (f : SlotF) (s : State) : Out := fireSlot s f bodyTdrain

/-- Status of a tile register (R240). -/
def TReg.status (t : TReg) : Word :=
  BitVec.ofNat 64 (t.cause * 2 ^ 48 + t.fill * 2 ^ 24 + boolN t.col * 2 ^ 23 + (t.cb / 8 - 1) * 2 ^ 14 +
    (t.rows - 1) * 2 ^ 8 + t.fmt * 2 ^ 4 + boolN t.dirty * 8 + t.st)

/-- Status of accumulator n (R241). -/
def MxeState.accStatus (x : MxeState) (n : Nat) : Word :=
  let a := x.acc n
  BitVec.ofNat 64 (a.cause * 2 ^ 48 + a.n * 2 ^ 11 + a.m * 2 ^ 5 + boolN a.kind * 16 + boolN (x.inUse n) * 4 + a.st)

/-- TSTAT, as it stood at the start of the clock (R240, R241). -/
def bodyTstat (c : Ctx) : Except ETrap Fired :=
  let k := c.f.srca.toNat
  let r := if k < 8 then (c.e.mxe.treg k).status else c.e.mxe.accStatus (k - 8)
  .ok (c.result r 0 (outNz r))

def execTstat (f : SlotF) (s : State) : Out := fireSlot s f bodyTstat

end Sys2Proof.Machine
end

