-- ==== Sys2Proof/Machine/Routes.lean ====
section
/-! DEFINITION. Routes: the words of switch boxes, the stages a token passes, and what enters an input (R156 to R158,
R178 to R193). -/

namespace Sys2Proof.Machine

open Sys2Proof

/-! ### Where a word leads (R15, R53, R182) -/

/-- Where a token that leaves a word goes: an input of the element at the site, a box of the same tile, a box of the
next tile, or nowhere. -/
inductive Lead where
  | input (k : Nat)
  | box (site src : Nat)
  | cross (lt site src : Nat)
  | nowhere
deriving DecidableEq, Repr

/-- The side by which a token enters the box next to one it left by a side: opposite, on the same lane. -/
def opposite (d : Nat) : Nat := d / 8 * 8 + (d % 4 + 2) % 4

/-- Where DEST of a word leads from a site of a logical tile. -/
def leadOf (lt site d : Nat) : Lead :=
  let r := site / 16
  let c := site % 16
  let q := opposite d
  if 4 ≤ d ∧ d ≤ 7 then .input (d - 4)
  else if 12 ≤ d then .nowhere
  else
    match d % 4 with
    | 0 => if r = 0 then (if lt < 8 then .nowhere else .cross (lt - 8) (176 + c) q) else .box (site - 16) q
    | 1 => if c = 15 then (if lt % 8 = 7 then .nowhere else .cross (lt + 1) (16 * r) q) else .box (site + 1) q
    | 2 => if r = 11 then .cross (lt + 8) c q else .box (site + 16) q
    | _ => if c = 0 then (if lt % 8 = 0 then .nowhere else .cross (lt - 1) (16 * r + 15) q) else .box (site - 1) q

/-! ### Inputs (R156 to R158) -/

/-- The FAULT token of an order breach (R157). -/
def orderFault (code k coord : Nat) : Tok :=
  faultTok Cause.streamOrder (code * 2 ^ 40 + k * 2 ^ 32 + coord)

/-- A token enters an input queue. -/
def Elem.enq (e : Elem) (k : Nat) (t : Tok) : Elem := { e with ins := e.ins.modify k (· ++ [t]) }

def Elem.setChk (e : Elem) (k : Nat) (c : Chk) : Elem := { e with ce := { e.ce with chk := putAt ⟨none, false⟩ e.ce.chk k c } }

/-- A token that a switch box delivers to an input: a checked one examines it first (R157, R158). -/
def Elem.arrive (e : Elem) (k : Nat) (t : Tok) : Elem :=
  if ¬ e.ce.checked.getD k false then e.enq k t
  else
    let c := e.ce.chk.getD k ⟨none, false⟩
    let breach (code coord : Nat) : Elem :=
      let e1 := (e.enq k { orderFault code k coord with rid := t.rid }).setChk k { c with discard := true }
      { e1 with ce := { e1.ce with sord := e1.ce.sord.set k true } }
    if t.isEnd then (e.enq k t).setChk k ⟨none, false⟩
    else if ¬ t.isData then e.enq k t
    else if c.discard then e
    else if t.ftag ≠ 14 then breach 3 0
    else
      let x := coordOf t.pay
      match c.last with
      | some y =>
        if x < y then breach 1 x else if x = y then breach 2 x else (e.enq k t).setChk k { c with last := some x }
      | none => (e.enq k t).setChk k { c with last := some x }

/-- The element at a physical site of a logical tile. -/
def State.elemAt (s : State) (l : LoadRef) (lt psite : Nat) : Option Elem :=
  s.elems.find? fun e => decide (e.ref.load = l ∧ e.ref.lt = lt ∧ e.psite = psite)

/-! ### Stages (R178, R185, R189 to R192) -/

/-- Side of a corner turn. -/
def ctSide (w : BitVec 16) : Nat := 2 ^ swParam w

/-- Width of a lane code of a width adapter (R54). -/
def waWidth (c : Nat) : Nat := match c with | 0 => 4 | 1 => 6 | 2 => 8 | _ => 9
def waIn (w : BitVec 16) : Nat := waWidth (swParam w / 4)
def waOut (w : BitVec 16) : Nat := waWidth (swParam w % 4)
/-- FTAG of the tokens a width adapter emits. -/
def waTag (w : BitVec 16) : BitVec 4 := match waOut w with | 4 => 10 | 8 => 3 | _ => 0

/-- Places of the queue of a word with REG = 1 (R178). -/
def stageCap (w : BitVec 16) (depth : Nat) : Nat := if swMode w = 1 then depth else 1

/-- The DATA tokens whose payloads are the string IS of a width adapter, which no other token stands before (R191). -/
def Stage.isToks (x : Stage) : List Tok := x.toks.takeWhile Tok.isData
/-- Bits of IS, and their number. -/
def Stage.isN (x : Stage) : Nat := 64 * x.isToks.length - x.isOff
def Stage.isBits (x : Stage) : Nat := packLanes 64 (x.isToks.map fun t => t.pay.toNat) / 2 ^ x.isOff

/-- The identifier of bit n of a string whose runs of bits, oldest first, have identifiers. -/
def ridOfBit : List (Nat × BitVec 5) → Nat → BitVec 5
  | [], _ => 0
  | (k, r) :: rs, n => if n < k then r else ridOfBit rs (n - k)

/-- The string without its n oldest bits. -/
def dropBits : List (Nat × BitVec 5) → Nat → List (Nat × BitVec 5)
  | [], _ => []
  | (k, r) :: rs, n => if k ≤ n then dropBits rs (n - k) else (k - n, r) :: rs

/-- Whether a stage has a place for a token. One other than DATA takes a place of its own in a corner turn or a width
adapter that holds nothing else, and lets nothing in behind it: R190 and R192 name no place for it (log 98). -/
def Stage.accepts (x : Stage) (w : BitVec 16) (depth : Nat) (t : Tok) : Bool :=
  match swMode w with
  | 2 => x.after.isEmpty &&
    (if t.isData then decide (x.bankA.length < ctSide w * ctSide w) else x.bankA.isEmpty && x.bankB.isEmpty)
  | 3 => x.toks.all Tok.isData && (if t.isData then decide (x.isN ≤ 128) else decide (x.isN < waIn w ∧ x.osN = 0))
  | _ => decide (x.toks.length < stageCap w depth)

/-- Move fields from IS to OS while both allow (R191). A field has the identifier of the token that completes it. -/
def Stage.fields (x : Stage) (w : BitVec 16) : Nat → Stage
  | 0 => x
  | n + 1 =>
    let wi := waIn w
    let wo := waOut w
    if wi ≤ x.isN ∧ x.osN < 64 then
      let f := satS wo (sgn wi x.isBits)
      let rid := (x.toks.getD ((x.isOff + wi - 1) / 64) Tok.zero).rid
      { x with toks := x.toks.drop ((x.isOff + wi) / 64), isOff := (x.isOff + wi) % 64,
               osBits := x.osBits + f * 2 ^ x.osN, osN := x.osN + wo, osRids := x.osRids ++ [(wo, rid)] : Stage }.fields w n
    else x

/-- A width adapter ends its strings for a token t other than DATA: bits of IS fewer than a field are discarded, and OS is
padded to a word, which takes the identifier of t (R183, R192). -/
def Stage.endStrings (x : Stage) (w : BitVec 16) (t : Tok) : Stage :=
  if x.isN < waIn w then
    let pad := if 0 < x.osN ∧ x.osN < 64 then 64 - x.osN else 0
    { x with toks := x.toks.drop x.isToks.length, isOff := 0, osN := x.osN + pad, osRids := x.osRids ++ [(pad, t.rid)] }
  else x

/-- A token enters a stage. -/
def Stage.enter (x : Stage) (w : BitVec 16) (t : Tok) : Stage :=
  match swMode w with
  | 2 => if t.isData then { x with bankA := x.bankA ++ [t] } else { x with after := [t] }
  | 3 =>
    if t.isData then { x with toks := x.toks ++ [t] : Stage }.fields w 64
    else { x with toks := [t], isOff := 0 }
  | _ => { x with toks := x.toks ++ [t] }

/-- A token t other than DATA stands before a stage: a corner turn completes its block (R190), a width adapter ends its
strings (R192). What is made for it takes its identifier (R183). -/
def Stage.knock (x : Stage) (w : BitVec 16) (t : Tok) : Stage :=
  match swMode w with
  | 2 =>
    let n := ctSide w * ctSide w
    match x.bankA with
    | [] => x
    | f :: _ =>
      { x with bankA := x.bankA ++ List.replicate (n - x.bankA.length) (⟨0, f.ftag, 0, t.rid, 0⟩ : Tok) }
  | 3 => if x.toks.all Tok.isData then x.endStrings w t else x
  | _ => x

/-- A block in column order. -/
def columns (n : Nat) (ts : List Tok) : List Tok :=
  (List.range (n * n)).map fun i => ts.getD (i % n * n + i / n) Tok.zero

/-- A stage as it stands before its clock: a full bank begins to drain once the other one is empty (R189); a width adapter
moves fields, and a token other than DATA that stands behind its last ones ends its strings. -/
def Stage.begin (x : Stage) (w : BitVec 16) : Stage :=
  let n := ctSide w
  if swMode w = 2 ∧ x.bankB.isEmpty ∧ x.bankA.length = n * n then
    { x with bankA := [], bankB := columns n x.bankA }
  else if swMode w = 3 then
    let y := x.fields w 64
    match y.toks.drop y.isToks.length with
    | t :: _ => if y.osN < 64 then y.endStrings w t else y
    | [] => y
  else x

/-- The oldest token of a stage. -/
def Stage.oldest (x : Stage) (w : BitVec 16) : Option Tok :=
  match swMode w with
  | 2 =>
    match x.bankB with
    | t :: _ => some t
    | [] => if x.bankA.isEmpty then x.after.head? else none
  | 3 =>
    if 64 ≤ x.osN then some { dataTok (waTag w) (BitVec.ofNat 64 x.osBits) with rid := ridOfBit x.osRids 63 }
    else if x.osN = 0 then x.toks.head?.filter fun t => !t.isData
    else none
  | _ => x.toks.head?

/-- A stage after its oldest token has left. -/
def Stage.pop (x : Stage) (w : BitVec 16) : Stage :=
  match swMode w with
  | 2 => if x.bankB.isEmpty then { x with after := [] } else { x with bankB := x.bankB.drop 1 }
  | 3 =>
    if 64 ≤ x.osN then
      { x with osBits := x.osBits / 2 ^ 64, osN := x.osN - 64, osRids := dropBits x.osRids 64 : Stage }.fields w 64
    else { x with toks := x.toks.drop 1 }
  | _ => { x with toks := x.toks.drop 1 }

/-! ### Moving tokens (R179, R183, R184, R193) -/

def Box.stage (b : Box) (k : Nat) : Stage := b.stages.getD k Stage.empty
def Box.setStage (b : Box) (k : Nat) (x : Stage) : Box := { b with stages := b.stages.set k x }
def Box.word (b : Box) (k : Nat) : BitVec 16 := b.words.getD k 0

/-- Words fed by a source of a box. -/
def Box.wordsFrom (b : Box) (src : Nat) : List Nat :=
  (List.range b.words.length).filter fun k => b.word k != 0 && swSource (b.word k) == src

/-- Whether a token may pass a word (R183). -/
def Box.passes (b : Box) (k : Nat) (t : Tok) : Bool := t.rid == ridAt b.rids (swDest (b.word k)) && t.ftag != 15

/-- sq.DETAIL of a ROUTE trap of a box (R184, R430). -/
def routeDetail (b : Box) (k : Nat) (t : Tok) : Nat :=
  let d := swDest (b.word k)
  eDetail b.site 0 (boolN (t.ftag == 15) * 2 ^ 40 + d * 2 ^ 36 + (ridAt b.rids d).toNat * 2 ^ 31 +
    t.rid.toNat * 2 ^ 26 + b.site)

def State.setStage (s : State) (b : Box) (k : Nat) (f : Stage → Stage) : State :=
  s.modBox b.load b.lt b.site fun b => b.setStage k (f (b.stage k))

/-- A token is held at the entry of a word, and the tile's sequencer will take ROUTE (R184). -/
def State.holdTok (s : State) (b : Box) (k : Nat) (t : Tok) : State :=
  let s1 := s.setStage b k fun x => { x with held := some t }
  match (s.load? b.load).bind fun l => l.pt? b.lt with
  | none => s1
  | some pt =>
    s1.modSeq (pkgTile b.load.die pt) fun q =>
      { q with pend := addPend ⟨.box b.load b.lt b.site k, Cause.route, BitVec.ofNat 64 (routeDetail b k t), s.clock,
                                b.site⟩ q.pend }

/-- Whether a token at a source of a box may go on: every word of the source takes it (R193). -/
def State.canGo (s : State) (l : LoadRef) : Nat → Nat → Nat → Nat → Tok → Bool
  | 0, _, _, _, _ => false
  | n + 1, lt, site, src, t =>
    match s.box? l lt site with
    | none => false
    | some b =>
      let ks := b.wordsFrom src
      !ks.isEmpty && ks.all fun k =>
        let x := b.stage k
        let w := b.word k
        x.held.isNone &&
          (if swReg w then x.accepts w (b.depth.getD k 0) t
           else
            !b.passes k t ||
            match leadOf lt site (swDest w) with
            | .input j => (match s.elemAt l lt site with | some e => decide ((e.inq j).length < 4) | none => false)
            | .box site' src' => s.canGo l n lt site' src' t
            | .cross _ _ _ => x.xing.isEmpty
            | .nowhere => false)

/-- A token t other than DATA that cannot go on from a source of a box stands before the next stages, except those
behind a token that is held. It pads and ends the strings of a registered word before that word checks it (DESIGN CHOICE,
log 98). -/
def State.knockOn (s : State) (l : LoadRef) (t : Tok) : Nat → Nat → Nat → Nat → State
  | 0, _, _, _ => s
  | n + 1, lt, site, src =>
    match s.box? l lt site with
    | none => s
    | some b =>
      (b.wordsFrom src).foldl (fun s k =>
        if (b.stage k).held.isSome then s
        else if swReg (b.word k) then s.setStage b k fun x => x.knock (b.word k) t
        else if ¬ b.passes k t then s
        else
          match leadOf lt site (swDest (b.word k)) with
          | .box site' src' => State.knockOn s l t n lt site' src'
          | _ => s) s

/-- Whether a token that leaves word k of a box may go on. -/
def State.canLeave (s : State) (n : Nat) (b : Box) (k : Nat) (t : Tok) : Bool :=
  match leadOf b.lt b.site (swDest (b.word k)) with
  | .input j => (match s.elemAt b.load b.lt b.site with | some e => decide ((e.inq j).length < 4) | none => false)
  | .box site' src' => s.canGo b.load n b.lt site' src' t
  | .cross _ _ _ => (b.stage k).xing.isEmpty
  | .nowhere => false

/-- A token at a source of a box goes on. -/
def State.goOn (s : State) (l : LoadRef) : Nat → Nat → Nat → Nat → Tok → State
  | 0, _, _, _, _ => s
  | n + 1, lt, site, src, t =>
    match s.box? l lt site with
    | none => s
    | some b =>
      (b.wordsFrom src).foldl (fun s k =>
        let w := b.word k
        if ¬ b.passes k t then s.holdTok b k t
        else if swReg w then s.setStage b k fun x => x.enter w t
        else
          match leadOf lt site (swDest w) with
          | .input j =>
            match s.elemAt l lt site with
            | some e => s.modElem e.ref fun e => e.arrive j t
            | none => s
          | .box site' src' => State.goOn s l n lt site' src' t
          | .cross _ _ _ => s.setStage b k fun x => { x with xing := [t] }
          | .nowhere => s) s

/-- A token leaves word k of a box. -/
def State.leave (s : State) (n : Nat) (b : Box) (k : Nat) (t : Tok) : State :=
  match leadOf b.lt b.site (swDest (b.word k)) with
  | .input j =>
    match s.elemAt b.load b.lt b.site with
    | some e => s.modElem e.ref fun e => e.arrive j t
    | none => s
  | .box site' src' => s.goOn b.load n b.lt site' src' t
  | .cross _ _ _ => s.setStage b k fun x => { x with xing := [t] }
  | .nowhere => s

/-- A token other than DATA stands before what follows word k of a box. -/
def State.knockFrom (s : State) (n : Nat) (b : Box) (k : Nat) (t : Tok) : State :=
  if t.isData then s
  else
    match leadOf b.lt b.site (swDest (b.word k)) with
    | .box site' src' => s.knockOn b.load t n b.lt site' src'
    | _ => s

/-- A token in a tile crossing enters the box of the next tile. -/
def State.crossOver (s : State) (n : Nat) (b : Box) (k : Nat) : State :=
  match (b.stage k).xing, leadOf b.lt b.site (swDest (b.word k)) with
  | t :: _, .cross lt' site' src' =>
    if s.canGo b.load n lt' site' src' t then
      (s.goOn b.load n lt' site' src' t).setStage b k fun x => { x with xing := x.xing.drop 1 }
    else if t.isData then s
    else s.knockOn b.load t n lt' site' src'
  | _, _ => s

/-- The stage of a word passes its oldest token. -/
def State.passOne (s : State) (n : Nat) (b : Box) (k : Nat) : State :=
  let w := b.word k
  let s1 := s.setStage b k fun x => x.begin w
  if ¬ swReg w then s1
  else
    match ((b.stage k).begin w).oldest w with
    | none => s1
    | some t => if s1.canLeave n b k t then (s1.leave n b k t).setStage b k fun x => x.pop w
      else s1.knockFrom n b k t

/-- A token that was held and has been released enters its word (R431). -/
def State.enterHeld (s : State) (n : Nat) (b : Box) (k : Nat) : State :=
  let w := b.word k
  match (b.stage k).held with
  | none => s
  | some t =>
    if ¬ b.passes k t then s
    else if swReg w then
      if (b.stage k).accepts w (b.depth.getD k 0) t then s.setStage b k fun x => { x.enter w t with held := none }
      else if t.isData then s
      else s.setStage b k fun x => x.knock w t
    else if s.canLeave n b k t then (s.leave n b k t).setStage b k fun x => { x with held := none }
    else s.knockFrom n b k t

/-- One clock of everything behind a source of a box, the stages farthest on first. -/
def State.pump (s : State) (l : LoadRef) : Nat → Nat → Nat → Nat → State
  | 0, _, _, _ => s
  | n + 1, lt, site, src =>
    match s.box? l lt site with
    | none => s
    | some b =>
      (b.wordsFrom src).foldl (fun s k =>
        let s1 :=
          match leadOf lt site (swDest (b.word k)) with
          | .box site' src' => State.pump s l n lt site' src'
          | .cross lt' site' src' => State.pump s l n lt' site' src'
          | _ => s
        let now (s : State) : Box := (s.box? l lt site).getD b
        let s2 := s1.crossOver n (now s1) k
        let s3 := s2.passOne n (now s2) k
        s3.enterHeld n (now s3) k) s

/-- Sources of boxes that nothing drives but an element output, or nothing at all. -/
def State.roots (s : State) (l : LoadRef) : List (Nat × Nat × Nat) :=
  let bs := s.boxes.filter fun b => b.load == l
  bs.flatMap fun b =>
    let srcs := ((b.words.filter (· != 0)).map swSource).eraseDups
    (srcs.filter fun q =>
      (decide (4 ≤ q ∧ q ≤ 7)) ||
      !(bs.any fun b' => b'.words.any fun w => w != 0 &&
        (match leadOf b'.lt b'.site (swDest w) with
         | .box site' src' => b'.lt == b.lt && site' == b.site && src' == q
         | .cross lt' site' src' => lt' == b.lt && site' == b.site && src' == q
         | _ => false))).map fun q => (b.lt, b.site, q)

/-- The oldest token of an output leaves for its box (R108). -/
def State.fromOutput (s : State) (l : LoadRef) (n lt site k : Nat) : State :=
  match s.elemAt l lt site with
  | none => s
  | some e =>
    match e.out k with
    | [] => s
    | t :: _ =>
      if t.born < s.clock ∧ s.canGo l n lt site (4 + k) t.tok then
        (s.goOn l n lt site (4 + k) t.tok).modElem e.ref fun e => { e with outs := e.outs.modify k (List.drop 1) }
      else if t.born < s.clock ∧ ¬ t.tok.isData then s.knockOn l t.tok n lt site (4 + k)
      else s

/-- STAGE_ADVANCE: one clock of every route of a fabric load (R179). -/
def execStageAdvance (s : State) : Out :=
  match s.actor with
  | .load l =>
    let n := 16 * s.boxes.length + 1
    .next ((s.roots l).foldl (fun s p =>
      let s1 := s.pump l n p.1 p.2.1 p.2.2
      if 4 ≤ p.2.2 ∧ p.2.2 ≤ 7 then s1.fromOutput l n p.1 p.2.1 (p.2.2 - 4) else s1) s)
  | _ => .fault .noActor

end Sys2Proof.Machine
end

