-- ==== Sys2Proof/Machine/SeqAlu.lean ====
section
/-! DEFINITION. The sequencer's ALU, immediate, branch and jump instructions (R369). -/

namespace Sys2Proof.Machine

open Sys2Proof

/-- gd := g a b, in lat clocks. -/
def aluR (lat : Nat) (g : Word → Word → Word) (d a b : BitVec 5) (s : State) : Out :=
  withSeq s fun t q => s.seqLate t d (g (q.reg a) (q.reg b)) lat

/-- gd := g a. -/
def aluI (g : Word → Word) (d a : BitVec 5) (s : State) : Out :=
  withSeq s fun t q => s.seqDone t d (g (q.reg a)) 1

def sext16 (i : BitVec 16) : Word := BitVec.signExtend 64 i
def zext16 (i : BitVec 16) : Word := BitVec.zeroExtend 64 i
def boolW (b : Bool) : Word := if b then 1 else 0

/-- The shift amount in the low six bits. -/
def shamt (b : Word) : Nat := b.toNat % 64

/-- The high word of the signed product. -/
def mulh (a b : Word) : Word := BitVec.ofInt 64 (a.toInt * b.toInt / ((2 ^ 64 : Nat) : Int))

/-- Unsigned quotient; all ones for a zero divisor. -/
def quot (a b : Word) : Word := if b = 0 then BitVec.allOnes 64 else a / b

/-- Unsigned remainder; the dividend for a zero divisor. -/
def rmdr (a b : Word) : Word := if b = 0 then a else a % b

def execSeqAdd (d a b : BitVec 5) (s : State) : Out := aluR 1 (fun x y => x + y) d a b s
def execSeqSub (d a b : BitVec 5) (s : State) : Out := aluR 1 (fun x y => x - y) d a b s
def execSeqAnd (d a b : BitVec 5) (s : State) : Out := aluR 1 (fun x y => x &&& y) d a b s
def execSeqOr (d a b : BitVec 5) (s : State) : Out := aluR 1 (fun x y => x ||| y) d a b s
def execSeqXor (d a b : BitVec 5) (s : State) : Out := aluR 1 (fun x y => x ^^^ y) d a b s
def execSll (d a b : BitVec 5) (s : State) : Out := aluR 1 (fun x y => x <<< shamt y) d a b s
def execSrl (d a b : BitVec 5) (s : State) : Out := aluR 1 (fun x y => x >>> shamt y) d a b s
def execSra (d a b : BitVec 5) (s : State) : Out := aluR 1 (fun x y => x.sshiftRight (shamt y)) d a b s
def execSlt (d a b : BitVec 5) (s : State) : Out := aluR 1 (fun x y => boolW (x.slt y)) d a b s
def execSltu (d a b : BitVec 5) (s : State) : Out := aluR 1 (fun x y => boolW (x.ult y)) d a b s
def execSeqMul (d a b : BitVec 5) (s : State) : Out := aluR 3 (fun x y => x * y) d a b s
def execSeqMulh (d a b : BitVec 5) (s : State) : Out := aluR 3 mulh d a b s
def execDivu (d a b : BitVec 5) (s : State) : Out := aluR 66 quot d a b s
def execRemu (d a b : BitVec 5) (s : State) : Out := aluR 66 rmdr d a b s

def execAddi (d a : BitVec 5) (i : BitVec 16) (s : State) : Out := aluI (fun x => x + sext16 i) d a s
def execAndi (d a : BitVec 5) (i : BitVec 16) (s : State) : Out := aluI (fun x => x &&& zext16 i) d a s
def execOri (d a : BitVec 5) (i : BitVec 16) (s : State) : Out := aluI (fun x => x ||| zext16 i) d a s
def execXori (d a : BitVec 5) (i : BitVec 16) (s : State) : Out := aluI (fun x => x ^^^ zext16 i) d a s
def execSlli (d a : BitVec 5) (i : BitVec 6) (s : State) : Out := aluI (fun x => x <<< i.toNat) d a s
def execSrli (d a : BitVec 5) (i : BitVec 6) (s : State) : Out := aluI (fun x => x >>> i.toNat) d a s
def execSrai (d a : BitVec 5) (i : BitVec 6) (s : State) : Out := aluI (fun x => x.sshiftRight i.toNat) d a s
def execSlti (d a : BitVec 5) (i : BitVec 16) (s : State) : Out := aluI (fun x => boolW (x.slt (sext16 i))) d a s
def execLui (d : BitVec 5) (i : BitVec 16) (s : State) : Out := aluI (fun _ => sext16 i <<< 16) d 0 s

/-- The target of a branch: the word's address plus four times the signed offset, as a 57-bit address (R62). -/
def branchPc (pc : BitVec 57) (off : Int) : BitVec 57 := pc + BitVec.ofInt 57 (4 * off)

/-- A branch: to the target when the test holds, else to the next word. -/
def branch (test : Word → Word → Bool) (d a : BitVec 5) (i : BitVec 16) (s : State) : Out :=
  withSeq s fun t q =>
    let go := test (q.reg d) (q.reg a)
    s.modSeq t fun q =>
      { q with pc := if go then branchPc q.pc i.toInt else q.pc + 4, busy := s.clock + 1 }

def execBeq (d a : BitVec 5) (i : BitVec 16) (s : State) : Out := branch (fun x y => x == y) d a i s
def execBne (d a : BitVec 5) (i : BitVec 16) (s : State) : Out := branch (fun x y => x != y) d a i s
def execBlt (d a : BitVec 5) (i : BitVec 16) (s : State) : Out := branch (fun x y => x.slt y) d a i s
def execBge (d a : BitVec 5) (i : BitVec 16) (s : State) : Out := branch (fun x y => !x.slt y) d a i s
def execBltu (d a : BitVec 5) (i : BitVec 16) (s : State) : Out := branch (fun x y => x.ult y) d a i s
def execBgeu (d a : BitVec 5) (i : BitVec 16) (s : State) : Out := branch (fun x y => !x.ult y) d a i s

/-- JAL: gd := n + 4 and PC := n + 4 times the signed offset. -/
def execJal (d : BitVec 5) (o : BitVec 21) (s : State) : Out :=
  withSeq s fun t q =>
    s.modSeq t fun _ =>
      { q.setReg d (BitVec.zeroExtend 64 (q.pc + 4)) with pc := branchPc q.pc o.toInt, busy := s.clock + 1 }

/-- JALR: a target that is not a multiple of 4 traps ALIGN with nothing changed. -/
def execJalr (d a : BitVec 5) (i : BitVec 16) (s : State) : Out :=
  withSeq s fun t q =>
    let tgt := q.reg a + sext16 i
    if tgt.toNat % 4 ≠ 0 then s.trapQ t Cause.align
    else
      s.modSeq t fun _ =>
        { q.setReg d (BitVec.zeroExtend 64 (q.pc + 4)) with pc := BitVec.truncate 57 tgt, busy := s.clock + 1 }

end Sys2Proof.Machine
end

