-- ==== Sys2Proof/Machine/SeqMem.lean ====
section
/-! DEFINITION. The sequencer's loads and stores, and its translation (R265, R369, R254). -/

namespace Sys2Proof.Machine

open Sys2Proof

/-- What the translation of a sequencer address answers: a cause (0 for none) and a local address. -/
structure Xlat where
  cause : Nat
  pa : Nat
  tc : List CDesc
  fc : Nat
deriving DecidableEq, Repr

/-- How a sequencer uses an address. -/
inductive SeqUse where
  | load | store | fetch
deriving DecidableEq, Repr

/-- Translate an address of a sequencer through its own cache and check it (R265, R264, R365): ALIGN, the walk's own
cause, then REMOTE, CLASS and PERM for a load or a store, and PERM alone for a fetch, which needs a local DENSE page with
X. Bits above 56 do not take part (log 21). -/
def State.seqXlat (s : State) (q : Seq) (use : SeqUse) (va n : Nat) : Xlat :=
  let va := va % 2 ^ 57
  if va % n ≠ 0 then ⟨Cause.align, 0, q.tc, s.freeCount⟩
  else
    let w := s.walk q.tc s.freeCount va
    let pa := granPpn w.d va * 0x10000 + va % 0x10000
    let c :=
      if w.cause ≠ 0 then w.cause
      else
        match use with
        | .fetch => if pdPkg w.d = s.ownPkg ∧ pdCls w.d = 0 ∧ pdX w.d then 0 else Cause.perm
        | .load =>
          if pdPkg w.d ≠ s.ownPkg then Cause.remote
          else if pdCls w.d ≠ 0 then Cause.cls
          else if pdR w.d then 0 else Cause.perm
        | .store =>
          if pdPkg w.d ≠ s.ownPkg then Cause.remote
          else if pdCls w.d ≠ 0 then Cause.cls
          else if pdW w.d then 0 else Cause.perm
    ⟨c, pa, w.tc, w.fc⟩

/-- Keep what a translation left in the cache. -/
def State.xlated (s : State) (t : Nat) (x : Xlat) : State :=
  { s.modSeq t (fun q => { q with tc := x.tc }) with freeCount := x.fc }

/-- An uncorrectable error that an access of a tile's sequencer met, in a word or in a descriptor on the way to it, is
logged (R248, R451). -/
def State.logRead (s : State) (t cause : Nat) : State := if cause = Cause.uncorrectable then s.logSe 6 t 0 0 else s

/-- Clocks of a load: its figure of R275 less 2. -/
def seqLat (t pa : Nat) : Nat := memLat (t / 48) (t % 48) pa - 2

/-- A load or store of a tile's sequencer leaves: it is performed at a clock that waits may put off, in program order with
the sequencer's other accesses to its bytes and otherwise in any order (R286, R292, R296; log 16). -/
def State.issueSeq (s : State) (t : Nat) (op : MemOp) (pa va : Nat) : State :=
  let lat := seqLat t pa
  let due0 := s.clock + lat / 2 + s.waitNow
  let mine := (s.seqAccs t).filter fun w => w.op.isStore && wordOf w.pa == wordOf pa
  let due :=
    if op.isStore then (mine.map fun w => w.due + 1).foldl max (s.behind ⟨t / 48, some t, some (seqRef t)⟩ pa due0) else due0
  let own := min due (s.clock + Config.wait (s.freeCount + 1))
  let tile := min due (own + Config.wait (s.freeCount + 2))
  let a : Access :=
    { id := s.nextId, ref := seqRef t, tile := t, gid := 0, cell := 0, op := op, pa := pa, va := va, fmt := 0, cls := 0,
      slot := 0, due := due, back := lat - lat / 2, ownAt := own, tileAt := tile,
      dieAt := min due (tile + Config.wait (s.freeCount + 3)), deferred := false, held := false, taken := false }
  { s with accs := s.accs ++ [a], nextId := s.nextId + 1, freeCount := s.freeCount + 4 }

/-- Whether a store of a sequencer to an address, which can fail at its home and then traps, waits for the writes that it
must follow: its own, and those in flight that are performed for it (log 4, log 16). -/
def State.seqHeld (s : State) (t pa : Nat) : Bool :=
  !(s.reached ⟨t / 48, some t, none⟩ pa).isEmpty || (s.seqAccs t).any fun w => wordOf w.pa == wordOf pa

/-- A load of n bytes (R369); an uncorrectable error traps and is logged (R451). -/
def seqLoad (n : Nat) (d a : BitVec 5) (i : BitVec 16) (s : State) : Out :=
  withSeq s fun t q =>
    let va := (q.reg a + sext16 i).toNat % 2 ^ 57
    let x := s.seqXlat q .load va n
    let s1 := s.xlated t x
    if x.cause ≠ 0 then (s1.logRead t x.cause).trapQ t x.cause
    else if s.isBad (wordOf x.pa) then (s1.logRead t Cause.uncorrectable).trapQ t Cause.uncorrectable
    else
      (s1.issueSeq t (.seqRead d.toNat n) x.pa va).modSeq t fun q =>
        { q.next with
          busy := s.clock + 1
          loads := if d = 0 then q.loads else (d.toNat, s.nextId) :: q.loads.filter fun y => decide (y.1 ≠ d.toNat) }

def execLdb (d a : BitVec 5) (i : BitVec 16) (s : State) : Out := seqLoad 1 d a i s
def execLdh (d a : BitVec 5) (i : BitVec 16) (s : State) : Out := seqLoad 2 d a i s
def execLdw (d a : BitVec 5) (i : BitVec 16) (s : State) : Out := seqLoad 4 d a i s
def execLdd (d a : BitVec 5) (i : BitVec 16) (s : State) : Out := seqLoad 8 d a i s

/-- A store of the low n bytes of gd (R369). A word of an owned record or of the entry-queue area is not written (R339),
and part of a word with an uncorrectable error is not (R248, R451; log 96). -/
def seqStore (n : Nat) (d a : BitVec 5) (i : BitVec 16) (s : State) : Out :=
  withSeq s fun t q =>
    let va := (q.reg a + sext16 i).toNat % 2 ^ 57
    let v := (q.reg d).toNat
    let x := s.seqXlat q .store va n
    let s1 := s.xlated t x
    let done (q : Seq) : Seq := { q.next with busy := s.clock + 1 }
    if x.cause ≠ 0 then (s1.logRead t x.cause).trapQ t x.cause
    else if s.mayFail x.pa ∧ s.seqHeld t x.pa then s1
    else if s.storeCause x.pa ≠ 0 then s1.trapQ t (s.storeCause x.pa)
    else if n < 8 ∧ s.isBad (wordOf x.pa) then (s1.logRead t Cause.uncorrectable).trapQ t Cause.uncorrectable
    else if s.mayFail x.pa then (s1.storeN x.pa n v).modSeq t done
    else (s1.issueSeq t (.seqWrite n v) x.pa va).modSeq t done

def execStb (d a : BitVec 5) (i : BitVec 16) (s : State) : Out := seqStore 1 d a i s
def execSth (d a : BitVec 5) (i : BitVec 16) (s : State) : Out := seqStore 2 d a i s
def execStw (d a : BitVec 5) (i : BitVec 16) (s : State) : Out := seqStore 4 d a i s
def execStd (d a : BitVec 5) (i : BitVec 16) (s : State) : Out := seqStore 8 d a i s

end Sys2Proof.Machine
end

