-- ==== Sys2Proof/Machine/ElemAccess.lean ====
section
/-! DEFINITION. The sequencer's words that reach element state: ERD, EWR, OCCR and SAVEC (R378 to R380). Where a rule
names an item and gives it no layout, the layout is the model's (log 37). -/

namespace Sys2Proof.Machine

open Sys2Proof

/-! ### Elements -/

/-- An element with every state word zero, as a power-gated site holds it. -/
def Elem.blank (r : ElemRef) (ptile psite : Nat) : Elem :=
  { ref := r, ptile := ptile, psite := psite, slots := List.replicate 16 0,
    ecw := BitVec.ofNat 64 ((kindAt r.site).code * 2 ^ 62), p := List.replicate 8 false,
    d := List.replicate 8 DReg.zero, c := List.replicate 4 ⟨0, 0⟩, ins := List.replicate 4 [], broken := List.replicate 4 none,
    outs := List.replicate 4 [], rot := List.replicate 4 0, bal := List.replicate 16 ⟨8, 0, 0, 0⟩,
    balFired := List.replicate 4 0, step := 0, rank := 0, counters := List.replicate 16 ⟨0, 0, 0⟩, clk := 0,
    ticking := false, trap := none, stopped := true, lastTrans := none, upset := false, shadow := [], ce := CeState.init,
      spe := SpeState.init,
    mxe := MxeState.init, mpe := MpeState.init }

/-- Whether an element is halted by a trap or by pre-emption (R378). -/
def Elem.halted (e : Elem) : Bool := e.trap.isSome || e.stopped

/-- The last word an EWR wrote to a place since it last held a token. -/
def Elem.shadowAt (e : Elem) (fn idx : Nat) : Option Word :=
  (e.shadow.find? fun x => decide (x.1 = fn ∧ x.2.1 = idx)).map (·.2.2)
def Elem.setShadow (e : Elem) (fn idx : Nat) (v : Word) : Elem :=
  { e with shadow := (fn, idx, v) :: e.shadow.filter fun x => decide (¬(x.1 = fn ∧ x.2.1 = idx)) }

/-- Forget what was written to places that hold a token now: once such a place empties it reads as zero (R378). -/
def Elem.trimmed (e : Elem) : Elem :=
  if e.shadow.isEmpty then e
  else
    { e with shadow := e.shadow.filter fun x =>
        !((x.1 == 0x30 && decide (x.2.1 % 8 / 2 < (e.inq (x.2.1 / 8)).length)) ||
          (x.1 == 0x31 && decide (x.2.1 % 4 / 2 < (e.out (x.2.1 / 4)).length))) }

/-! ### Tokens of queues (R378) -/

/-- Part h of place j of a queue. -/
def tokPart (ts : List Tok) (j h : Nat) : Word :=
  match ts[j]? with
  | some t => if h = 0 then t.pay else BitVec.ofNat 64 t.linkBits
  | none => 0

/-- A queue whose count has become j + 1, with link-word bits at place j; pay gives the payload last written to a place
that held no token. -/
def setLink (ts : List Tok) (pay : Nat → Word) (j : Nat) (v : Word) : List Tok :=
  let fill := (List.range (j + 1 - ts.length)).map fun i => { Tok.zero with pay := pay (ts.length + i) }
  ((ts ++ fill).take (j + 1)).modify j fun t => Tok.ofLink (v.toNat % 2 ^ 16) t.pay

/-- A payload written to place j. -/
def setPay (ts : List Tok) (j : Nat) (v : Word) : List Tok := ts.modify j fun t => { t with pay := v }

/-! ### Items of every kind (R378) -/

/-- Read an item that every kind has; none when there is no such item. -/
def Elem.itemAll (e : Elem) (fn i : Nat) : Option Word :=
  if fn < 0x10 then (if i = 0 then some (e.slotWord fn) else none)
  else if fn = 0x30 then
    if i < 32 then
      let v := tokPart (e.inq (i / 8)) (i % 8 / 2) (i % 2)
      some (if i % 8 / 2 < (e.inq (i / 8)).length then v else (e.shadowAt fn i).getD 0)
    else none
  else if fn = 0x31 then
    if i < 16 then
      let ts := (e.out (i / 4)).map (·.tok)
      some (if i % 4 / 2 < ts.length then tokPart ts (i % 4 / 2) (i % 2) else (e.shadowAt fn i).getD 0)
    else none
  else if fn = 0x23 then
    if i < 16 then
      let b := e.bal.getD i ⟨0, 0, 0, 0⟩
      some (BitVec.ofNat 64 (b.w % 32 + b.l % 256 * 2 ^ 8 + wrapN 16 b.c * 2 ^ 16 + b.o % 2 ^ 32 * 2 ^ 32))
    else none
  else if i ≠ 0 then none
  else if fn = 0x10 then some e.ecw
  else if 0x11 ≤ fn ∧ fn ≤ 0x14 then some (e.c.getD (fn - 0x11) ⟨0, 0⟩).val
  else if 0x18 ≤ fn ∧ fn ≤ 0x1F then some (e.dreg (fn - 0x18)).val
  else if fn = 0x20 then
    some (BitVec.ofNat 64 (packLanes 4 (e.d.map fun d => d.tag.toNat) +
      packLanes 1 (e.d.map fun d => boolN d.pres) * 2 ^ 32))
  else if fn = 0x21 then
    some (BitVec.ofNat 64 (packLanes 1 (e.p.map boolN) +
      (if e.kind = .ce then packLanes 1 (e.ce.sord.map boolN) else 0) * 2 ^ 8 + e.step % 2 ^ 32 * 2 ^ 32))
  else if fn = 0x22 then some (BitVec.ofNat 64 (packLanes 4 (e.rot.drop 1)))
  else none

/-- The fields of an ECW; [54] and [23:0] are reserved and read as zero (R6, R47). -/
def ecwMask : Word := 0xFFBFFFFFFF000000

/-- Write an item that every kind has. -/
def Elem.setItemAll (e : Elem) (fn i : Nat) (v : Word) : Option Elem :=
  if fn < 0x10 then (if i = 0 then some { e with slots := putAt 0 e.slots fn v } else none)
  else if fn = 0x30 then
    if i < 32 then
      let k := i / 8
      let j := i % 8 / 2
      if i % 2 = 1 then
        some { e with ins := e.ins.modify k fun ts => setLink ts (fun p => (e.shadowAt fn (8 * k + 2 * p)).getD 0) j v }
      else if j < (e.inq k).length then some { e with ins := e.ins.modify k fun ts => setPay ts j v }
      else some (e.setShadow fn i v)
    else none
  else if fn = 0x31 then
    if i < 16 then
      let k := i / 4
      let j := i % 4 / 2
      let ts := (e.out k).map (·.tok)
      let put (ts : List Tok) : Elem := { e with outs := e.outs.set k (ts.map fun t => ⟨t, 0⟩) }
      if i % 2 = 1 then some (put (setLink ts (fun p => (e.shadowAt fn (4 * k + 2 * p)).getD 0) j v))
      else if j < ts.length then some (put (setPay ts j v))
      else some (e.setShadow fn i v)
    else none
  else if fn = 0x23 then
    if i < 16 then
      some { e with bal := putAt ⟨0, 0, 0, 0⟩ e.bal i ⟨fld v 0 5, sgn 16 (fld v 16 16), fld v 32 32, fld v 8 8⟩ }
    else none
  else if i ≠ 0 then none
  else if fn = 0x10 then some { e with ecw := v &&& ecwMask }
  else if 0x11 ≤ fn ∧ fn ≤ 0x14 then some { e with c := putAt ⟨0, 0⟩ e.c (fn - 0x11) ⟨v, residue v⟩ }
  else if 0x18 ≤ fn ∧ fn ≤ 0x1F then
    some { e with d := putAt DReg.zero e.d (fn - 0x18) { e.dreg (fn - 0x18) with val := v, res := residue v } }
  else if fn = 0x20 then
    some { e with d := e.d.mapIdx fun k d => { d with tag := BitVec.ofNat 4 (fld v (4 * k) 4), pres := bitAt v (32 + k) } }
  else if fn = 0x21 then
    some { e with
      p := (List.range 8).map fun k => bitAt v k
      step := fld v 32 32
      ce := if e.kind = .ce then { e.ce with sord := (List.range 4).map fun k => bitAt v (8 + k) } else e.ce }
  else if fn = 0x22 then some { e with rot := 0 :: (List.range 3).map fun k => fld v (4 * k) 4 }
  else none

/-! ### Items of one kind -/

def CeState.item (c : CeState) (fn i : Nat) : Option Word :=
  if fn = 0x120 then
    if i < 12 then
      let f := c.fib.getD (i / 3) Fib.zero
      some (match i % 3 with
        | 0 => BitVec.ofNat 64 (f.pos + f.fib0 * 2 ^ 32)
        | 1 => BitVec.ofNat 64 (f.fib1 + f.fib2 * 2 ^ 32)
        | _ => BitVec.ofNat 64 (f.fib3 + f.bit * 2 ^ 32))
    else none
  else if fn = 0x121 then
    if i < 16 then some (c.topk.getD i 0)
    else if i = 16 then
      some (BitVec.ofNat 64 (c.topk.length * 8 + match c.topType with | some t => 4 + t % 4 | none => 0))
    else none
  else if fn = 0x122 then
    if i < 4 then some (BitVec.ofNat 64 (c.pack.bits / 2 ^ (64 * i)))
    else if i = 4 then
      some (wordOfFields [(0, c.pack.held), (16, c.pack.fmt), (24, c.pack.enc), (32, c.pack.sent)])
    else none
  else if fn = 0x123 then
    if i < 4 then
      let k := c.chk.getD i ⟨none, false⟩
      some (wordOfFields [(0, k.last.getD 0), (32, boolN k.last.isSome), (33, boolN k.discard)])
    else none
  else none

def CeState.setItem (c : CeState) (fn i : Nat) (v : Word) : Option CeState :=
  if fn = 0x120 then
    if i < 12 then
      let lo := fld v 0 32
      let hi := fld v 32 32
      some { c with fib := c.fib.modify (i / 3) fun f =>
        match i % 3 with
        | 0 => { f with pos := lo, fib0 := hi }
        | 1 => { f with fib1 := lo, fib2 := hi }
        | _ => { f with fib3 := lo, bit := hi % 2 ^ 7 } }
    else none
  else if fn = 0x121 then
    if i < 16 then
      some { c with topk := ((c.topk ++ List.replicate (i + 1 - c.topk.length) 0).set i v) }
    else if i = 16 then
      some { c with topk := c.topk.take (fld v 3 5), topType := if bitAt v 2 then some (fld v 0 2) else none }
    else none
  else if fn = 0x122 then
    if i < 4 then some { c with pack := { c.pack with bits := setFldN c.pack.bits (64 * i) 64 v.toNat } }
    else if i = 4 then
      some { c with pack := { c.pack with held := fld v 0 16, fmt := fld v 16 8, enc := fld v 24 8, sent := fld v 32 8 } }
    else none
  else if fn = 0x123 then
    if i < 4 then some { c with chk := c.chk.set i ⟨if bitAt v 32 then some (fld v 0 32) else none, bitAt v 33⟩ } else none
  else none

/-- Handle n in two halves (R203). -/
def Handle.half (h : Handle) (k : Nat) : Word :=
  if k = 0 then wordOfFields [(0, h.base), (13, h.size), (27, h.stride)]
  else wordOfFields [(0, h.rd), (13, h.wr), (26, h.fill)]

def Handle.setHalf (h : Handle) (k : Nat) (v : Word) : Handle :=
  if k = 0 then { h with base := fld v 0 13, size := fld v 13 14, stride := fld v 27 13 }
  else { h with rd := fld v 0 13, wr := fld v 13 13, fill := fld v 26 14 }

def SpeState.item (p : SpeState) (fn i : Nat) : Option Word :=
  if fn = 0x100 then (if i < 8192 then some (p.now i).val else none)
  else if fn = 0x101 then
    if i < 8192 then some (BitVec.ofNat 64 ((p.now i).tag.toNat + boolN (p.now i).pres * 16)) else none
  else if fn = 0x102 then (if i < 16 then some ((p.handles.getD (i / 2) Handle.zero).half (i % 2)) else none)
  else if fn = 0x103 then (if i < 2 then some (BitVec.ofNat 64 (p.dirty / 2 ^ (64 * i))) else none)
  else if fn = 0x104 then
    let m := p.mp
    match i with
    | 0 => some (wordOfFields [(0, m.st), (2, boolN m.byprog), (4, m.dst), (8, m.row), (16, boolN m.done.isSome)])
    | 1 => some m.desc
    | 2 => some m.scale
    | 3 => some (match m.done with | some t => t.pay | none => 0)
    | 4 => some (match m.done with | some t => BitVec.ofNat 64 t.linkBits | none => 0)
    | k => if k < 69 then some (m.acc.getD (k - 5) 0) else none
  else none

def SpeState.setItem (p : SpeState) (fn i : Nat) (v : Word) : Option SpeState :=
  if fn = 0x100 then
    if i < 8192 then some { (p.write i { p.now i with val := v, res := residue v }) with old := p.old } else none
  else if fn = 0x101 then
    if i < 8192 then some { (p.write i { p.now i with tag := BitVec.ofNat 4 (fld v 0 4), pres := bitAt v 4 }) with old := p.old }
    else none
  else if fn = 0x102 then
    if i < 16 then some { p with handles := p.handles.modify (i / 2) fun h => h.setHalf (i % 2) v } else none
  else if fn = 0x103 then
    if i < 2 then some { p with dirty := setFldN p.dirty (64 * i) 64 v.toNat } else none
  else if fn = 0x104 then
    let m := p.mp
    match i with
    | 0 =>
      some { p with mp := { m with
        st := fld v 0 2, byprog := bitAt v 2, dst := fld v 4 4, row := fld v 8 7, word := 0, phase := .read
        write := none, done := if bitAt v 16 then some (m.done.getD Tok.zero) else none } }
    | 1 => some { p with mp := { m with desc := v } }
    | 2 => some { p with mp := { m with scale := v } }
    | 3 => some { p with mp := { m with done := m.done.map fun t => { t with pay := v } } }
    | 4 => some { p with mp := { m with done := m.done.map fun t => Tok.ofLink (v.toNat % 2 ^ 16) t.pay } }
    | k => if k < 69 then some { p with mp := { m with acc := m.acc.set (k - 5) v } } else none
  else none

def MxeState.item (x : MxeState) (fn i : Nat) : Option Word :=
  if fn = 0x110 then (if i < 4096 then some (sget 0 (x.treg (i / 512)).data (i % 512)) else none)
  else if fn = 0x111 then
    if i < 16 then
      let t := x.treg (i / 2)
      some (if i % 2 = 0 then t.status else wordOfFields [(0, t.sigma), (8, boolN t.ovr), (9, t.eovr)])
    else none
  else if fn = 0x112 then
    if i < 4096 then some (BitVec.ofNat 64 (sget 0 (x.acc (i / 1024)).words (i % 1024))) else none
  else if fn = 0x113 then (if i < 4 then some (x.accStatus i) else none)
  else if fn = 0x114 then
    if i = 0 then
      some (match x.drain with
        | some d => wordOfFields [(0, 1), (1, d.acc), (3, d.fmt), (7, boolN d.sat), (8, boolN d.clr), (9, d.dst),
            (16, d.row), (24, d.pos)]
        | none => 0)
    else none
  else none

def MxeState.setItem (x : MxeState) (fn i : Nat) (v : Word) : Option MxeState :=
  let modT (n : Nat) (f : TReg → TReg) : MxeState := x.setT n (f (x.treg n))
  if fn = 0x110 then
    if i < 4096 then some (modT (i / 512) fun t => { t with data := sset 0 t.data (i % 512) v }) else none
  else if fn = 0x111 then
    if i < 16 then
      some (modT (i / 2) fun t =>
        if i % 2 = 0 then
          { t with cause := fld v 48 16, fill := fld v 24 13, col := bitAt v 23, cb := 8 * (fld v 14 9 + 1),
                   rows := fld v 8 6 + 1, fmt := fld v 4 4, dirty := bitAt v 3, st := fld v 0 3 }
        else { t with sigma := fld v 0 8, ovr := bitAt v 8, eovr := fld v 9 8 })
    else none
  else if fn = 0x112 then
    if i < 4096 then
      let a := x.acc (i / 1024)
      some (x.setA (i / 1024) { a with words := sset 0 a.words (i % 1024) (fld v 0 32) })
    else none
  else if fn = 0x113 then
    if i < 4 then
      let a := x.acc i
      some (x.setA i { a with cause := fld v 48 16, n := fld v 11 6, m := fld v 5 6, kind := bitAt v 4, st := fld v 0 2 })
    else none
  else if fn = 0x114 then
    if i = 0 then
      let a := fld v 1 2
      let d : Drain :=
        { acc := a, fmt := fld v 3 4, sat := bitAt v 7, clr := bitAt v 8, dst := fld v 9 4,
          row := fld v 16 6, pos := fld v 24 8, start := 0 }
      some { x with drain := if bitAt v 0 then some d else none }
    else none
  else none

/-- Place of an index of FN 0x131 among the words of MpeState.pack: 64 to 191 are the re-emit queue (R442). -/
def packPlace (i : Nat) : Nat := if i < 64 then i else i - 128

def MpeState.item (m : MpeState) (shadow : Nat → Option Word) (fn i : Nat) : Option Word :=
  if fn = 0x130 then
    if i < 16 then
      let g := m.ag.getD (i / 8) AddrGen.init
      some (match i % 8 with
        | 4 => g.base
        | 5 => wordOfFields [(0, g.nl - 1), (2, g.st % 4)]
        | 6 => wordOfFields [(0, g.idx.getD 0 0), (32, g.idx.getD 1 0)]
        | 7 => wordOfFields [(0, g.idx.getD 2 0), (32, g.idx.getD 3 0)]
        | k => wordOfFields [(0, g.c.getD k 1), (32, wrapN 32 (g.s.getD k 0))])
    else none
  else if fn = 0x131 then
    if 64 ≤ i ∧ i < 192 then some (((m.reemit.find? fun x => decide (x.1 = i)).map (·.2)).getD 0)
    else some ((shadow i).getD (at_ m.pack (packPlace i)))
  else none

/-- A word of FN 0x131 outside the re-emit queue is kept until the element is released. -/
def MpeState.setItem (m : MpeState) (fn i : Nat) (v : Word) : Option MpeState :=
  if fn = 0x130 then
    if i < 16 then
      some { m with ag := m.ag.modify (i / 8) fun g =>
        match i % 8 with
        | 4 => { g with base := v }
        | 5 => { g with nl := fld v 0 2 + 1, st := fld v 2 2 }
        | 6 => { g with idx := (g.idx.set 0 (fld v 0 32)).set 1 (fld v 32 32) }
        | 7 => { g with idx := (g.idx.set 2 (fld v 0 32)).set 3 (fld v 32 32) }
        | k => { g with c := g.c.set k (fld v 0 32), s := g.s.set k (sgn 32 (fld v 32 32)) } }
    else none
  else if fn = 0x131 ∧ 64 ≤ i ∧ i < 192 then
    some { m with reemit := (i, v) :: m.reemit.filter fun x => decide (x.1 ≠ i) }
  else none

/-- Read an item of an element. -/
def Elem.item (e : Elem) (fn i : Nat) : Option Word :=
  if fn < 0x40 then e.itemAll fn i
  else
    match kindAt e.ref.site with
    | .ce => e.ce.item fn i
    | .spe => e.spe.item fn i
    | .mxe => e.mxe.item fn i
    | .mpe => e.mpe.item (e.shadowAt 0x131) fn i

/-- Write an item of an element. -/
def Elem.setItem (e : Elem) (fn i : Nat) (v : Word) : Option Elem :=
  if fn < 0x40 then (e.setItemAll fn i v).map Elem.trimmed
  else
    match kindAt e.ref.site with
    | .ce => (e.ce.setItem fn i v).map fun c => { e with ce := c }
    | .spe => (e.spe.setItem fn i v).map fun p => { e with spe := p }
    | .mxe => (e.mxe.setItem fn i v).map fun x => { e with mxe := x }
    | .mpe =>
      if fn = 0x131 ∧ ¬(64 ≤ i ∧ i < 192) then some (e.setShadow fn i v)
      else (e.mpe.setItem fn i v).map fun m => { e with mpe := m }

/-! ### Items of a switch box -/

/-- Places of a stage (R178). -/
def Stage.capacity (w : BitVec 16) (depth : Nat) : Nat :=
  if w = 0 ∨ ¬ swReg w then 0
  else
    match swMode w with
    | 2 => 2 * (ctSide w * ctSide w)
    | 3 => 3
    | _ => stageCap w depth

/-- The tokens at the places of a stage: of a corner turn a token other than DATA, then the filling bank, then the draining
one (log 37). -/
def Stage.tokens (x : Stage) (w : BitVec 16) : List Tok :=
  if swMode w = 2 then x.after ++ x.bankA ++ x.bankB else x.toks

/-- The tokens of a stage replaced: the places of a corner turn keep their banks, and places beyond them are those of the
filling bank until it is full (log 37). A width adapter whose first place was empty holds all of its token's bits. -/
def Stage.setTokens (x : Stage) (w : BitVec 16) (ts : List Tok) : Stage :=
  match swMode w with
  | 2 =>
    let n := ctSide w * ctSide w
    let k := if ts.head?.any fun t => !t.isData then 1 else 0
    let rest := ts.drop k
    let a := if x.bankB.isEmpty then n else x.bankA.length
    { x with after := ts.take k, bankA := rest.take a, bankB := rest.drop a }
  | 3 => { x with toks := ts, isOff := if x.toks.isEmpty ∨ ts.isEmpty then 0 else x.isOff }
  | _ => { x with toks := ts }

/-- Forget what was written to places of stages that hold a token now (R378). -/
def Box.trimmed (b : Box) : Box :=
  if b.shadow.isEmpty then b
  else
    { b with shadow := b.shadow.filter fun x =>
        let k := x.1 / 1024
        decide (((b.stage k).tokens (b.word k)).length ≤ x.1 % 1024 / 2) }

def Box.shadowAt (b : Box) (i : Nat) : Option Word := (b.shadow.find? fun x => decide (x.1 = i)).map (·.2)

/-- Read an item of a switch box (FN 0x040 to 0x043). -/
def Box.item (b : Box) (fn i : Nat) : Option Word :=
  if fn = 0x40 then (if i < 16 then some (BitVec.zeroExtend 64 (b.word i)) else none)
  else if fn = 0x41 then (if i = 0 then some b.rids else none)
  else if fn = 0x42 then
    if i < 16 then some (if swMode (b.word i) = 1 then BitVec.ofNat 64 (b.depth.getD i 0) else 0) else none
  else if fn = 0x43 then
    let k := i / 1024
    let j := i % 1024 / 2
    let w := b.word k
    let x := b.stage k
    if 16 ≤ k then none
    else if j < Stage.capacity w (b.depth.getD k 0) then
      if j < (x.tokens w).length then some (tokPart (x.tokens w) j (i % 2))
      else some ((b.shadowAt i).getD 0)
    else none
  else none

/-- Identifiers of a route identifier word; [63:60] are reserved and read as zero (R6, R55). -/
def ridMask : Word := 0x0FFFFFFFFFFFFFFF

/-- Write an item of a switch box. The granted depths are read only: a write changes nothing. -/
def Box.setItem (b : Box) (fn i : Nat) (v : Word) : Option Box :=
  if fn = 0x40 then (if i < 16 then some { b with words := b.words.set i (BitVec.truncate 16 v) } else none)
  else if fn = 0x41 then (if i = 0 then some { b with rids := v &&& ridMask } else none)
  else if fn = 0x42 then (if i < 16 then some b else none)
  else if fn = 0x43 then
    let k := i / 1024
    let j := i % 1024 / 2
    let w := b.word k
    let x := b.stage k
    let put (ts : List Tok) : Box := b.setStage k (x.setTokens w ts)
    if 16 ≤ k ∨ ¬ j < Stage.capacity w (b.depth.getD k 0) then none
    else if i % 2 = 1 then
      some (put (setLink (x.tokens w) (fun p => (b.shadowAt (1024 * k + 2 * p)).getD 0) j v)).trimmed
    else if j < (x.tokens w).length then some (put (setPay (x.tokens w) j v))
    else some { b with shadow := (i, v) :: b.shadow.filter fun y => decide (y.1 ≠ i) }
  else none

/-! ### ERD, EWR, OCCR -/

/-- The element and the box at a logical site of the fabric load resident on a tile. -/
structure Site where
  load : Load
  lt : Nat
  site : Nat
  idx : Nat

/-- What GA addresses; none where ELEMSEL is due (R378). -/
def State.siteOf (s : State) (t : Nat) (a : Word) : Option Site :=
  match s.residentOn t with
  | none => none
  | some (l, lt) =>
    if fld a 22 42 ≠ 0 ∨ 192 ≤ fld a 0 8 then none else some ⟨l, lt, fld a 0 8, fld a 8 14⟩

def Site.ref (x : Site) : ElemRef := ⟨x.load.ref.die, x.load.ref.fab, x.lt, x.site⟩

/-- The element of a site: a blank one where the image leaves it unused. -/
def State.siteElem (s : State) (x : Site) : Elem :=
  match s.elem? x.ref with
  | some e => e
  | none =>
    { Elem.blank x.ref ((x.load.pt? x.lt).getD 0) x.site with ecw := 0, stopped := x.load.phase != .resident }

/-- The box of a site: an empty one where no word is used. -/
def State.siteBox (s : State) (x : Site) : Box :=
  (s.box? x.load.ref x.lt x.site).getD
    ⟨x.load.ref, x.lt, x.site, List.replicate 16 0, 0, List.replicate 16 0, List.replicate 16 Stage.empty, []⟩

/-- Read an item. -/
def State.siteItem (s : State) (x : Site) (fn : Nat) : Option Word :=
  if 0x40 ≤ fn ∧ fn ≤ 0x43 then (s.siteBox x).item fn x.idx else (s.siteElem x).item fn x.idx

/-- ERD (R378). -/
def execErd (d a : BitVec 5) (f : BitVec 11) (s : State) : Out :=
  withSeq s fun t q =>
    match (s.siteOf t (q.reg a)).bind fun x => s.siteItem x f.toNat with
    | some v => s.seqDone t d v 4
    | none => s.trapQ t Cause.elemsel

/-- Keep an element, or add it where there was none. -/
def State.putElem (s : State) (e : Elem) : State :=
  if (s.elem? e.ref).isSome then s.modElem e.ref fun _ => e else { s with elems := s.elems ++ [e] }

/-- Keep a box, or add it. -/
def State.putBox (s : State) (b : Box) : State :=
  if (s.box? b.load b.lt b.site).isSome then s.modBox b.load b.lt b.site fun _ => b
  else { s with boxes := s.boxes ++ [b] }

/-- Write an item; none where there is none. -/
def State.setSiteItem (s : State) (x : Site) (fn : Nat) (v : Word) : Option State :=
  if 0x40 ≤ fn ∧ fn ≤ 0x43 then ((s.siteBox x).setItem fn x.idx v).map s.putBox
  else ((s.siteElem x).setItem fn x.idx v).map s.putElem

/-- EWR: privileged; on a halted element only (R378, R65). -/
def execEwr (a b : BitVec 5) (f : BitVec 11) (s : State) : Out :=
  withSeq s fun t q =>
    if ¬ q.priv then s.trapQ t Cause.privilege
    else
      match s.siteOf t (q.reg a) with
      | none => s.trapQ t Cause.elemsel
      | some x =>
        match s.setSiteItem x f.toNat (q.reg b) with
        | none => s.trapQ t Cause.elemsel
        | some s1 =>
          if ¬ (s.siteElem x).halted then s.trapQ t Cause.elemlive
          else s1.modSeq t fun q => { q.next with busy := s.clock + 1 }

/-- Whether a stage holds a token. -/
def Stage.holds (x : Stage) (w : BitVec 16) : Bool :=
  !x.xing.isEmpty || x.held.isSome || decide (0 < x.osN) || !(x.tokens w).isEmpty

/-- OCCR's value (R379). -/
def State.occupancy (s : State) (x : Site) : Word :=
  let e := s.siteElem x
  let b := s.siteBox x
  let stg := (List.range 16).map fun k => boolN ((b.stage k).holds (b.word k))
  let ctb := (List.range 16).any fun k => swMode (b.word k) == 2 && (b.stage k).holds (b.word k)
  wordOfFields [(0, packLanes 3 (e.ins.map List.length)), (12, packLanes 2 (e.outs.map List.length)),
    (20, packLanes 1 stg), (36, boolN ctb)]

/-- OCCR (R379). -/
def execOccr (d a : BitVec 5) (s : State) : Out :=
  withSeq s fun t q =>
    match s.siteOf t (q.reg a) with
    | some x => s.seqDone t d (s.occupancy x) 4
    | none => s.trapQ t Cause.elemsel

/-! ### SAVEC (R380) -/

/-- A group of words of one value, FTAG and presence. -/
structure SGroup where
  val : Word
  tag : Nat
  pres : Bool
  n : Nat
deriving DecidableEq, Repr

/-- Words split into maximal groups of equal value, FTAG and presence. -/
def sGroups : List BWord → List SGroup
  | [] => []
  | w :: ws =>
    match sGroups ws with
    | [] => [⟨w.val, w.tag.toNat, w.pres, 1⟩]
    | g :: gs =>
      if g.val = w.val ∧ g.tag = w.tag.toNat ∧ g.pres = w.pres then { g with n := g.n + 1 } :: gs
      else ⟨w.val, w.tag.toNat, w.pres, 1⟩ :: g :: gs

/-- A code word. -/
def sCode (k n : Nat) (pres : Bool) (tag : Nat) : Word :=
  wordOfFields [(62, k), (56, n - 1), (50, boolN pres), (46, tag)]

/-- The single words with a value that stand together at the front and share FTAG and presence, and the rest. -/
def sLits (tag : Nat) (pres : Bool) : List SGroup → List Word × List SGroup
  | [] => ([], [])
  | g :: gs =>
    if g.n = 1 ∧ g.val ≠ 0 ∧ g.tag = tag ∧ g.pres = pres then
      let (ls, r) := sLits tag pres gs
      (g.val :: ls, r)
    else ([], g :: gs)

/-- Code a run's groups. -/
def sWords : Nat → List SGroup → List Word
  | 0, _ => []
  | _, [] => []
  | n + 1, g :: gs =>
    if g.val = 0 then sCode 0 g.n g.pres g.tag :: sWords n gs
    else if 2 ≤ g.n then sCode 2 g.n g.pres g.tag :: g.val :: sWords n gs
    else
      let (ls, r) := sLits g.tag g.pres (g :: gs)
      (sCode 1 ls.length g.pres g.tag :: ls) ++ sWords n r

/-- The stream of a bank (R380). -/
def SpeState.stream (p : SpeState) : List Word :=
  ((setBits 128 p.dirty).flatMap fun r =>
    let ws := sWords 64 (sGroups ((List.range 64).map fun i => p.now (64 * r + i)))
    wordOfFields [(63, 1), (56, r), (0, ws.length)] :: ws) ++ [0]

/-- Write words from a virtual address as sequencer stores; the first that fails ends them (R303). -/
def State.seqWrites (s : State) (t : Nat) (va : Nat) : List Word → State × Nat
  | [] => (s, 0)
  | w :: ws =>
    match s.seq? t with
    | none => (s, 0)
    | some q =>
      let x := s.seqXlat q .store va 8
      let s1 := s.xlated t x
      if x.cause ≠ 0 then (s1.logRead t x.cause, x.cause)
      else if s1.storeCause x.pa ≠ 0 then (s1, s1.storeCause x.pa)
      else (s1.storeN x.pa 8 w.toNat).seqWrites t (va + 8) ws

/-- SAVEC: privileged; on a halted SPE whose microprogram is idle or suspended (R380). -/
def execSavec (d a b : BitVec 5) (s : State) : Out :=
  withSeq s fun t q =>
    if ¬ q.priv then s.trapQ t Cause.privilege
    else
      match s.siteOf t (q.reg a &&& 0xFF) with
      | none => s.trapQ t Cause.elemsel
      | some x =>
        let e := s.siteElem x
        if kindAt x.site ≠ .spe then s.trapQ t Cause.elemsel
        else if ¬ e.halted ∨ ¬ (e.spe.mp.st = 0 ∨ e.spe.mp.st = 3) then s.trapQ t Cause.elemlive
        else if (q.reg b).toNat % 8 ≠ 0 then s.trapQ t Cause.align
        else
          let ws := e.spe.stream
          let (s1, c) := s.seqWrites t (q.reg b).toNat ws
          let runs := (setBits 128 e.spe.dirty).length
          if c ≠ 0 then s1.trapQ t c
          else s1.seqDone t d (BitVec.ofNat 64 (8 * ws.length)) (64 * runs + ceilDiv (8 * ws.length) 64)

end Sys2Proof.Machine
end

