-- ==== Sys2Proof/Machine/Ready.lean ====
section
/-! DEFINITION. Triggers and implicit readiness of slots: what every slot asks (R38, R42, R111), and what the entry of
each instruction asks besides. -/

namespace Sys2Proof.Machine

open Sys2Proof

/-! ### The explicit trigger (R38) -/

/-- Whether the trigger word of a slot holds. -/
def Elem.trig (e : Elem) (f : SlotF) : Bool :=
  ((List.range 8).all fun k => !f.pcare.getLsbD k || e.pred k == f.pval.getLsbD k) &&
  ((List.range 4).all fun k => !nib f.irdy k || (e.view k).isSome) &&
  ((List.range 4).all fun k => !nib f.ospc k || e.space k) &&
  (f.ten == 0 || match e.view f.tch.toNat with
    | some t => t.ctag == f.tval
    | none => false)

/-! ### What every slot asks (R42, R111) -/

/-- Inputs that a slot reads or dequeues. -/
def touched (en : Entry) (f : SlotF) : List Nat := readInputs en f ++ deqInputs f

/-- Whether the trigger tests an input for FAULT. -/
def testsFault (f : SlotF) (k : Nat) : Bool := f.ten == 1 && f.tch.toNat == k && f.tval == 6

/-- Outputs that a slot's DST names. -/
def dstOuts (en : Entry) (f : SlotF) : List Nat := if en.dst.used then outsOf f.dst.toNat else []

def Elem.readyAll (e : Elem) (en : Entry) (f : SlotF) : Bool :=
  ((touched en f).all fun k =>
    match e.view k with
    | some t => !t.isFault || testsFault f k
    | none => false) &&
  (dstOuts en f).all e.space

/-- Whether the view of an input satisfies a test. -/
def Elem.headIs (e : Elem) (k : Nat) (p : Tok → Bool) : Bool :=
  match e.view k with
  | some t => p t
  | none => false

/-- Whether two lists of outputs share one. -/
def meets (xs ys : List Nat) : Bool := xs.any ys.contains

/-! ### CE (R135, R151, R165, R167, R168) -/

/-- The units of FRCP, FRSQ, FEXP2 and FLOG2 rest for the clock after one of them. -/
def Elem.transFree (e : Elem) (clock : Nat) : Bool :=
  match e.lastTrans with
  | some c => c + 1 != clock
  | none => true

/-- Whether the pack buffer takes an encode of a block with a format tag; one of another format is chosen and traps. -/
def Pack.takes (p : Pack) (u : Nat) : Bool :=
  u == 11 || (p.fmt != 0 && p.fmt != u) || decide (p.held + bxBits u ≤ 256)

def readyCe (clock : Nat) (e : Elem) (i : Instr) : Bool :=
  let data (k : BitVec 4) : Bool := e.headIs k.toNat Tok.isData
  match i with
  | .frcp _ => e.transFree clock
  | .frsq _ => e.transFree clock
  | .fexp2 _ => e.transFree clock
  | .flog2 _ => e.transFree clock
  | .bxenc f => e.ce.pack.takes (bxTagOf f.srcb)
  | .bxencFlush _ => decide (64 ≤ e.ce.pack.held)
  | .fadv f => e.headIs f.srca.toNat fun t => t.isData || t.isFault
  | .fend f => e.headIs f.srca.toNat fun t => t.isData || t.isEnd || t.isFault
  | .fclose f => e.headIs f.srca.toNat fun t => t.isEnd || t.isFault
  | .bmexp f => data f.srca
  | .bmand f => data f.srca && data f.srcb
  | .cmerge f =>
    (e.headIs f.srca.toNat fun t => t.isData || t.isEnd) && e.headIs f.srcb.toNat fun t => t.isData || t.isEnd
  | _ => true

/-! ### SPE (R201, R203 to R207, R209, R212, R214, R216) -/

/-- Outputs that deferred local replies are owed to (R207). -/
def SpeState.owedOuts (p : SpeState) : List Nat :=
  (p.defers.flatMap fun d => match d.who with
    | .own dst _ => outsOf dst
    | .cross _ _ => []) ++ p.replies.flatMap fun r => outsOf r.1

/-- The words a slot's access reads and writes at its own port. -/
def speWords (e : Elem) (i : Instr) : List Nat × List Nat :=
  let at' (f : SlotF) : Nat := localWord (e.source f.srca.toNat).val
  let h (f : SlotF) : Handle := e.spe.handle f.srca.toNat
  match i with
  | .srd f => ([at' f], [])
  | .swr f => ([], [at' f])
  | .sxch f => ([at' f], [at' f])
  | .sadd f => ([at' f], [at' f])
  | .smax f => ([at' f], [at' f])
  | .smin f => ([at' f], [at' f])
  | .cbrd f => if (h f).size = 0 then ([], []) else ([(h f).word ((h f).rd + (h f).scaled (f.lane == 1) f.srcb.toNat)], [])
  | .cbrdPop f => if (h f).size = 0 then ([], []) else ([(h f).word (h f).rd], [])
  | .cbwr f => if (h f).size = 0 then ([], []) else ([], [(h f).word (h f).wr])
  | .pwr f => ([], [at' f])
  | .prd f => ([at' f], [])
  | .pclr f => ([at' f], [at' f])
  | _ => ([], [])

/-- Whether an access finds its sub-bank slots free beside reserved ones. -/
def slotsFree (ws : List Nat × List Nat) (rd wr : Nat) : Bool :=
  (ws.1.all fun x => !rd.testBit (x % 8)) && ws.2.all fun x => !wr.testBit (x % 8)

/-- What an SPE instruction asks, sub-bank slots aside. -/
def readySpe (e : Elem) (i : Instr) : Bool :=
  let p := e.spe
  let h (f : SlotF) : Handle := p.handle f.srca.toNat
  match i with
  | .cbrd f => (h f).size == 0 || decide ((h f).scaled (f.lane == 1) f.srcb.toNat < (h f).fill)
  | .cbrdPop f => (h f).size == 0 || decide (1 ≤ (h f).fill)
  | .cbwr f => (h f).size == 0 || decide ((h f).fill < (h f).size)
  | .cbadvr f => (h f).size == 0 || decide ((h f).advance f ≤ (h f).fill)
  | .cbadvw f => (h f).size == 0 || decide ((h f).advance f ≤ (h f).size - (h f).fill)
  | .prd f => (p.read (localWord (e.source f.srca.toNat).val)).pres || decide (p.defers.length < 16)
  | .mpgo _ => p.mp.st == 0
  | .xrd _ => decide (0 < p.credits)
  | .xrdP _ => decide (0 < p.credits)
  | .xwr _ => decide (0 < p.credits)
  | .xwrP _ => decide (0 < p.credits)
  | _ => true

/-! ### MXE (R226, R230 to R234, R238) -/

def readyMxe (e : Elem) (i : Instr) : Bool :=
  let x := e.mxe
  let st (n : BitVec 4) : Nat := (x.treg n.toNat).st
  let room := x.run.isNone || x.next.isNone
  match i with
  | .tcfg f => !x.busyT f.srcb.toNat
  | .tfill f =>
    !x.busyT f.srcb.toNat && (decide (3 < f.srca.toNat) || e.headIs f.srca.toNat fun t => t.isData || t.isFault)
  | .trel f => !x.busyT f.srcb.toNat
  | .tscale f => !x.busyT f.srcb.toNat
  | .tzero f => !x.inUse f.lane.toNat
  | .tmma f => room && decide (3 ≤ st f.srca) && decide (3 ≤ st f.srcb)
  | .tacc _ => room
  | .tdrain f => x.drain.isNone && !x.inUse f.srca.toNat
  | _ => true

/-- Outputs that the drain port uses. -/
def MxeState.drainOuts (x : MxeState) : List Nat :=
  match x.drain with
  | some d => outsOf d.dst
  | none => []

/-! ### MPE (R174, R275, R281 to R283, R319, R353, R411) -/

/-- Credits that a firing takes. -/
def credNeeds (e : Elem) (i : Instr) : Cred :=
  match i with
  | .ld _ => .rd 1
  | .ldf f => .rd (f.srcb.toNat + 1)
  | .wld f => .rd (2 ^ f.srcb.toNat)
  | .rld f => .rd (f.srcb.toNat + 1)
  | .ald _ => .rd 1
  | .aiter _ => .rd 1
  | .acnt _ => .rd 1
  | .acntH _ => .rd 1
  | .gld f => .lane (gldLanes f.lane.toNat (e.source f.srca.toNat).val).length
  | .sst _ => .lane 1
  | .rst _ => .rem
  | .rstAck _ => .rem
  | .st _ => .wr
  | .stClr _ => .wr
  | .sto _ => .wr
  | .stoClr _ => .wr
  | .astwr _ => .wr
  | .ast _ => .wr
  | i => if (entry i).any (fun en => en.deq == .order) then .wr else .none

def MpeState.has (m : MpeState) (c : Cred) : Bool :=
  match c with
  | .none => true
  | .rd n => decide (n ≤ m.rdCred)
  | .wr => decide (1 ≤ m.wrCred)
  | .lane n => decide (n ≤ m.laneCred)
  | .rem => decide (1 ≤ m.remCred)

/-- Outputs that a stream or a traversal uses. -/
def MpeState.streamOuts (m : MpeState) : List Nat :=
  (m.groups.filter fun g => g.op == .astrm || g.op == .aiter).flatMap fun g => outsOf g.dst

/-- Outputs that earlier firings owe replies to. -/
def MpeState.owedOuts (m : MpeState) : List Nat := (m.groups.filter fun g => g.owes).flatMap fun g => outsOf g.dst

/-- Whether a slot examines or names a predicate with a pending update. -/
def MpeState.predBusy (m : MpeState) (f : SlotF) : Bool :=
  m.groups.any fun g => match g.pred with
    | some (k, _) => f.pcare.getLsbD k || (f.pmode != 0 && f.pidx.toNat == k)
    | none => false

def readyMpe (e : Elem) (en : Entry) (i : Instr) (f : SlotF) : Bool :=
  let m := e.mpe
  m.has (credNeeds e i) && !m.predBusy f && !meets (dstOuts en f) m.streamOuts &&
  (en.kind.isSome || !meets (dstOuts en f) m.owedOuts) &&
  (en.deq != .order || match orderInput en f with
    | some k => e.headIs k Tok.isOrder
    | none => false) &&
  match i with
  | .agcfg f => (m.gen (f.srcb.toNat / 8)).st == 0
  | .astrm f => (m.gen f.srca.toNat).st == 0
  | .astwr f => (m.gen f.srcb.toNat).st != 1 && (decide (3 < f.srca.toNat) || e.headIs f.srca.toNat Tok.isData)
  | .aiter _ => m.groups.all fun g => g.op != .aiter
  | _ => true

/-! ### A slot in a clock -/

/-- What a slot comes to in a clock (R110, R112): whether its trigger holds, whether it is ready, and whether a
microprogram reservation alone keeps it from being ready (R213). A slot that a pending predicate update keeps from being
ready (R353) is stalled while its trigger holds with the old value, as any slot (R112: a slot whose trigger is false is
not stalled; file 19 gives STALL 0 for every slot that examines a pending P1). -/
structure SlotEval where
  trig : Bool
  ready : Bool
  mpHeld : Bool
deriving DecidableEq, Repr

/-- Whether a source field names something the instruction can act on: only a number or a register that the entry asks
for must be in its range. -/
def SUse.acts (u : SUse) (c : Nat) : Bool :=
  match u with
  | .dreg => u.ok c
  | .const => u.ok c
  | .raw _ _ => u.ok c
  | .rawIn _ => u.ok c
  | _ => true

/-- Whether the fields of a slot, which an EWR may have written in breach of R52, give an effect (R378; log 74). -/
def slotActs (en : Entry) (i : Instr) (f : SlotF) : Bool :=
  en.lanes.contains f.lane.toNat && (en.dst == .zero || en.dst.ok f.dst.toNat) && en.a.acts f.srca.toNat &&
  match i with
  | .emit _ => true
  | .perf _ => en.b.acts f.srcb.toNat
  | .bmand _ => true
  | .cmerge _ => true
  | _ => en.b.acts f.srcb.toNat && extraOk i

/-- Evaluate an enabled slot. A slot whose words decode to nothing, or whose fields give no effect after an EWR, is
never ready (log 74). -/
def Elem.evalSlot (e : Elem) (clock n : Nat) : SlotEval :=
  match decodeSlot e.kind (e.slotWord n) with
  | .error _ => ⟨e.trig (fieldsOf (e.slotWord n).toNat), false, false⟩
  | .ok i =>
    match entry i, slotF i with
    | some en, some f =>
      let base := slotActs en i f && e.readyAll en f &&
        (match e.kind with
         | .ce => readyCe clock e i
         | .spe => readySpe e i && !meets (dstOuts en f) e.spe.owedOuts
         | .mxe => readyMxe e i && !meets (dstOuts en f) e.mxe.drainOuts
         | .mpe => readyMpe e en i f)
      let ws := if e.kind = .spe ∧ base then speWords e i else ([], [])
      let r := e.spe.resv
      let free := slotsFree ws (r.mpRead ||| r.xRead) (r.mpWrite ||| r.xWrite)
      ⟨e.trig f, base && free, base && !free && slotsFree ws r.xRead r.xWrite⟩
    | _, _ => ⟨false, false, false⟩

end Sys2Proof.Machine
end

