-- ==== Sys2Proof/Machine/Escapement.lean ====
section
/-! DEFINITION. The escapement of an element (R110 to R118) and the reweighting of a balanced group (R115). -/

namespace Sys2Proof.Machine

open Sys2Proof

/-! ### Parts that cannot become a group (R88; log 10) -/

/-- Whether the head of input k breaks the open group of BX parts that input k holds: it is no part of the group's format
(R88). -/
def Elem.partBreak (e : Elem) (k : Nat) : Bool :=
  let (n, reg) := e.mxe.parts.getD k (0, 0)
  decide (0 < n) && match e.front k with
    | some t => !(t.isData && decide (t.ftag.toNat = (e.mxe.treg reg).fmt))
    | none => false

/-- Take the parts of input k out of their tile register and show a FAULT token in place of the group. It stands before the
queue of the input, outside its four places (log 10). -/
def Elem.dropParts (e : Elem) (detail : Nat) (k : Nat) : Elem :=
  let (n, reg) := e.mxe.parts.getD k (0, 0)
  let t := e.mxe.treg reg
  let fill := t.fill - 8 * n
  let x := if t.st = 2 then e.mxe.setT reg { t with fill := fill, st := if fill = 0 then 1 else 2 } else e.mxe
  { e with
    mxe := { x with parts := putAt (0, 0) x.parts k (0, 0) }
    broken := putAt none e.broken k (some (faultTok Cause.bxpart detail)) }

/-- Every broken group of an element. -/
def State.breakParts (s : State) (e : Elem) : Elem × Nat :=
  foldlRange (fun (x : Elem × Nat) k =>
    if x.1.partBreak k then (x.1.dropParts (Config.detail x.2).toNat k, x.2 + 1) else x) 4 (e, s.freeCount)

/-! ### Heads that trap (R117, R118) -/

/-- Whether some enabled slot tests input k for FAULT. -/
def Elem.faultTested (e : Elem) (k : Nat) : Bool :=
  (List.range 16).any fun n => e.sen n && testsFault (fieldsOf (e.slotWord n).toNat) k

/-- The trap of a FAULT token that no enabled slot tests for, at the lowest such input (R117, R430). An element that
meets such a head and a DRAIN head in one clock takes this one (DEDUCED, log 11). -/
def Elem.faultTrap (e : Elem) : Option ETrap :=
  (List.range 4).findSome? fun k =>
    match e.front k with
    | some t =>
      if t.isFault && !e.faultTested k then
        some ⟨Cause.faultUnconsumed, eDetail e.ref.site 0 (t.causeOf * 2 ^ 32 + k), none⟩
      else none
    | none => none

/-- The trap of a DRAIN token at the lowest such input of an element that is no MPE (R118, R184); its site is the logical
one (DEDUCED, log 11). -/
def Elem.drainTrap (e : Elem) : Option ETrap :=
  if e.kind = .mpe then none
  else
    (List.range 4).findSome? fun k =>
      match e.front k with
      | some t =>
        if t.isDrain then
          some ⟨Cause.route, eDetail e.ref.site 0
            (2 * 2 ^ 40 + (4 + k) * 2 ^ 36 + t.rid.toNat * 2 ^ 26 + e.ref.site), none⟩
        else none
      | none => none

/-! ### The choice of a clock (R110 to R114) -/

/-- What the slots of an element come to in a clock, slot 0 first; slots not enabled hold none of it. -/
def Elem.evals (e : Elem) (clock : Nat) : List SlotEval :=
  (List.range 16).map fun n => if e.sen n then e.evalSlot clock n else ⟨false, false, false⟩

/-- Whether slot n is eligible. -/
def eligible (vs : List SlotEval) (n : Nat) : Bool :=
  match vs[n]? with
  | some v => v.trig && v.ready
  | none => false

/-- A candidate: the position at which it competes, and its slot (group 0) or group. -/
structure Candidate where
  pos : Nat
  group : Nat
deriving DecidableEq, Repr

/-- The candidates of a clock (R110). -/
def Elem.candidates (e : Elem) (el : Nat → Bool) : List Candidate :=
  ((e.members 0).filter el).map (fun n => ⟨n, 0⟩) ++
  [1, 2, 3].filterMap fun g =>
    if (e.members g).any el then (e.members g).head?.map fun n => ⟨n, g⟩ else none

/-- The candidate of lowest position. -/
def bestCandidate : List Candidate → Option Candidate
  | [] => none
  | c :: cs =>
    match bestCandidate cs with
    | none => some c
    | some d => some (if d.pos < c.pos then d else c)

/-- The first eligible member at or above the rotation pointer, else the lowest (R113). -/
def Elem.roundRobin (e : Elem) (el : Nat → Bool) (g : Nat) : Nat :=
  let ms := (e.members g).filter el
  match ms.find? (fun n => decide (e.rot.getD g 0 ≤ n)) with
  | some n => n
  | none => ms.headD 0

def Elem.balOf (e : Elem) (n : Nat) : Bal := e.bal.getD n ⟨8, 0, 0, 0⟩

/-- The member of greatest credit, ties to the lowest slot number. -/
def maxCredit (credit : Nat → Int) : List Nat → Nat
  | [] => 0
  | [n] => n
  | n :: ns =>
    let m := maxCredit credit ns
    if credit m > credit n then m else n

/-- The member of a balanced group and the balance state after its win (R114). -/
def Elem.balancedPick (e : Elem) (el : Nat → Bool) (g : Nat) : Nat × List Bal :=
  let ms := (e.members g).filter el
  let credit (n : Nat) : Int := (e.balOf n).c + Int.ofNat (e.balOf n).w
  let w := match ms.find? (fun n => decide ((e.balOf n).l = 255)) with
    | some n => n
    | none => maxCredit credit ms
  let total : Nat := (ms.map fun n => (e.balOf n).w).foldl (· + ·) 0
  (w, e.bal.mapIdx fun n (b : Bal) =>
    if n = w then { b with c := credit n - Int.ofNat total, l := 0 }
    else if ms.contains n then { b with c := credit n, l := min (b.l + 1) 255 }
    else b)

/-- The slot that fires, with the balance state after the choice (R110, R113, R114). -/
def Elem.choose (e : Elem) (el : Nat → Bool) : Option (Nat × List Bal) :=
  match bestCandidate (e.candidates el) with
  | none => none
  | some c =>
    if c.group = 0 then some (c.pos, e.bal)
    else if e.gmode c.group = 1 then some (e.balancedPick el c.group)
    else some (e.roundRobin el c.group, e.bal)

/-! ### What happens in every clock beside the firing -/

/-- The inputs whose fill count a member of a balanced group measures (R115). -/
def occInputs (f : SlotF) : List Nat := (List.range 4).filter fun k => nib f.irdy k || nib f.deq k

/-- Add the fill counts to the occupancy sums (R115 step 1). -/
def Elem.occupy (e : Elem) : Elem :=
  { e with bal := e.bal.mapIdx fun n (b : Bal) =>
      let seen := (occInputs (fieldsOf (e.slotWord n).toNat)).map fun k => (e.inq k).length
      if e.balanced n then { b with o := sat32 (b.o + seen.foldl (· + ·) 0) } else b }

/-- The discard of the intersection unit (R159, R160). -/
def Elem.discard (e : Elem) : Elem :=
  match e.views.bind (·.discard) with
  | some k => { e with ins := e.ins.modify k fun q => q.drop 1 }
  | none => e

/-- A mask of slot numbers. -/
def slotMask (p : Nat → Bool) : Nat := (List.range 16).foldl (fun m n => if p n then m + 2 ^ n else m) 0

/-- The slots that are stalled in a clock, and those that are starved when a slot fires (R112). -/
def stalledSlots (vs : List SlotEval) : Nat :=
  slotMask fun n => match vs[n]? with
    | some v => v.trig && !v.ready
    | none => false
def starvedSlots (vs : List SlotEval) (fired : Option Nat) : Nat := slotMask fun n => eligible vs n && fired != some n

/-- The clock of an element that is halted: its occupancy sums grow and its slots stall and starve; CLK counts unless a trap
halts the element (R115, R121; log 11). -/
def Elem.idle (e : Elem) (clock : Nat) : Elem :=
  let e1 := e.occupy
  let vs := e1.evals clock
  { e1.count none (stalledSlots vs) (starvedSlots vs none) with ticking := e1.trap.isNone }

/-- The clock of an element that is not halted: what fires, is stalled and starved. The unit discards in it also when
the slot that is chosen then traps, and not in a clock without this choice (DEDUCED, log 11). -/
def State.escape (s : State) (e : Elem) : State :=
  let vs := e.evals s.clock
  let el := eligible vs
  let pick := e.choose el
  let fired := pick.map (·.1)
  let stall := stalledSlots vs
  let starve := starvedSlots vs fired
  let held := vs.any fun v => v.trig && v.mpHeld
  let e1 := { e.discard with spe := { e.spe with blocked := e.spe.blocked || held } }
  match pick with
  | none => s.modElem e.ref fun _ => e1.count none stall starve
  | some (n, bal) =>
    let won := { e1 with bal := bal.mapIdx fun k (b : Bal) => { b with o := (e1.balOf k).o } }
    (s.modElem e.ref fun _ => won).push [.fire e.ref n stall starve]

/-- ESCAPEMENT: one clock of one element. DEDUCED: the intersection unit discards nothing in a clock in which the element is
halted or traps on a head (R160; log 11). -/
def execEscapement (s : State) : Out :=
  match s.actor with
  | .elem r =>
    match s.elem? r with
    | none => .fault .noActor
    | some e0 =>
      if e0.halted then .next (s.modElem r fun e => e.idle s.clock)
      else
        let (e, fc) := s.breakParts e0.occupy
        let s1 := ({ s with freeCount := fc }).modElem r fun _ => e
        match e.faultTrap with
        | some t => .next (s1.trapElem r t)
        | none =>
          match e.drainTrap with
          | some t => .next (s1.trapElem r t)
          | none => .next (s1.escape e)
  | _ => .fault .noActor

/-! ### Reweighting (R115) -/

/-- BALANCE_REWEIGHT: weights from the occupancy sums; sums, credits and the count of firings start again, loss counts
stay. -/
def Elem.reweigh (e : Elem) (g : Nat) : Elem :=
  let ms := e.members g
  let omax := ms.foldl (fun m n => max m (e.balOf n).o) 0
  { e with
    balFired := e.balFired.set g 0
    bal := e.bal.mapIdx fun n (b : Bal) =>
      if ms.contains n then
        { b with w := if omax = 0 then 8 else 1 + 15 * b.o / omax, c := 0, o := 0 }
      else b }

def execBalanceReweight (s : State) : Out :=
  match s.actor with
  | .elemN r g =>
    match s.elem? r with
    | none => .fault .noActor
    | some _ => .next (s.modElem r fun e => e.reweigh g)
  | _ => .fault .noActor

end Sys2Proof.Machine
end

