-- ==== Sys2Proof/Machine/Shake.lean ====
section
/-! DEFINITION. SHAKE256, which the configuration identifier (R75) and the attestation report (R463) name: Keccak-f
on 25 lanes of 64 bits, rate 136 bytes, domain bits 0x1F. -/

namespace Sys2Proof.Machine

open Sys2Proof

/-- Rotation of lane (x, y), at place x + 5y. -/
def keccakRot : List Nat :=
  [0, 1, 62, 28, 27, 36, 44, 6, 55, 20, 3, 10, 43, 25, 39, 41, 45, 15, 21, 8, 18, 2, 61, 56, 14]

/-- Round constants. -/
def keccakRc : List Word :=
  [0x0000000000000001, 0x0000000000008082, 0x800000000000808A, 0x8000000080008000, 0x000000000000808B,
   0x0000000080000001, 0x8000000080008081, 0x8000000000008009, 0x000000000000008A, 0x0000000000000088,
   0x0000000080008009, 0x000000008000000A] ++
  [0x000000008000808B, 0x800000000000008B, 0x8000000000008089, 0x8000000000008003, 0x8000000000008002,
   0x8000000000000080, 0x000000000000800A, 0x800000008000000A, 0x8000000080008081, 0x8000000000008080,
   0x0000000080000001, 0x8000000080008008]

def laneAt (a : List Word) (i : Nat) : Word := a.getD i 0

/-- The parity of each column and what it adds to the lanes of its neighbours. -/
def keccakTheta (a : List Word) : List Word :=
  let c := (List.range 5).map fun x =>
    laneAt a x ^^^ laneAt a (x + 5) ^^^ laneAt a (x + 10) ^^^ laneAt a (x + 15) ^^^ laneAt a (x + 20)
  let d := (List.range 5).map fun x => laneAt c ((x + 4) % 5) ^^^ (laneAt c ((x + 1) % 5)).rotateLeft 1
  (List.range 25).map fun i => laneAt a i ^^^ laneAt d (i % 5)

/-- Rotate every lane and move it: lane (x, y) goes to (y, 2x + 3y). -/
def keccakRhoPi (a : List Word) : List Word :=
  (List.range 25).map fun i =>
    let src := (i % 5 + 3 * (i / 5)) % 5 + 5 * (i % 5)
    (laneAt a src).rotateLeft (keccakRot.getD src 0)

def keccakChi (b : List Word) : List Word :=
  (List.range 25).map fun i =>
    let r := i / 5 * 5
    laneAt b i ^^^ (~~~(laneAt b (r + (i + 1) % 5)) &&& laneAt b (r + (i + 2) % 5))

def keccakRound (a : List Word) (rc : Word) : List Word :=
  (keccakChi (keccakRhoPi (keccakTheta a))).modify 0 fun x => x ^^^ rc

def keccakF (a : List Word) : List Word := keccakRc.foldl keccakRound a

/-- Add up to 17 words to the state. -/
def xorLanes : List Word → List Word → List Word
  | a :: as, b :: bs => (a ^^^ b) :: xorLanes as bs
  | as, [] => as
  | [], _ :: _ => []

/-- The words of a block of bytes. -/
def shakeWords (bs : List Byte) : List Word :=
  (List.range 17).map fun k => BitVec.ofNat 64 (ofBytes ((bs.drop (8 * k)).take 8))

/-- The last block: the bytes left, fewer than 136, and the padding. -/
def padBlock (bs : List Byte) : List Byte :=
  let z := bs ++ (0x1F : Byte) :: List.replicate (135 - bs.length) 0
  z.modify 135 fun x => x ||| 0x80

/-- Absorb whole blocks and the last one; the first number bounds the blocks. -/
def absorb : Nat → List Word → List Byte → List Word
  | 0, a, bs => keccakF (xorLanes a (shakeWords (padBlock bs)))
  | n + 1, a, bs =>
    if bs.length < 136 then keccakF (xorLanes a (shakeWords (padBlock bs)))
    else absorb n (keccakF (xorLanes a (shakeWords (bs.take 136)))) (bs.drop 136)

/-- The first 136 bytes of SHAKE256, in 17 words, byte 0 lowest. -/
def shake256 (bs : List Byte) : List Word := (absorb (bs.length / 136) (List.replicate 25 0) bs).take 17

end Sys2Proof.Machine
end

