-- ==== Sys2Proof/Machine/HostLink.lean ====
section
/-! DEFINITION. The host link: messages, device registers, ownership, boot, attestation, power states and reset (R443,
R449, R453 to R465). -/

namespace Sys2Proof.Machine

open Sys2Proof

/-! ### Masters and ownership (R458, R459) -/

/-- The code of a master's kind. -/
def Master.kind (m : Master) : Nat :=
  match m with
  | .host => 1
  | .board => 2
  | .remote _ => 3

/-- Whether a kind code with a package number names a master. -/
def Master.named (m : Master) (kind pkg : Nat) : Bool :=
  kind == m.kind && match m with
    | .remote p => pkg == p
    | _ => true

/-- OKIND, OPKG, NKIND and NPKG of a claim word. -/
def okind (c : Word) : Nat := fld c 62 2
def opkg (c : Word) : Nat := fld c 49 13
def nkind (c : Word) : Nat := fld c 47 2
def npkg (c : Word) : Nat := fld c 34 13

/-- Whether a master owns the package. -/
def State.ownedBy (s : State) (m : Master) : Bool := m.named (okind s.dv.claim) (opkg s.dv.claim)

/-- The claim register after its writable fields took a word: EPOCH counts changes of OKIND and OPKG. -/
def claimAfter (old new : Word) : Word :=
  let moved := decide (okind old ≠ okind new ∨ opkg old ≠ opkg new)
  let w : Word := BitVec.ofNat 64 (fld new 34 30 * 2 ^ 34 + (fld old 0 32 + boolN moved) % 2 ^ 32)
  w

/-- Whether a CAS on dv.CLAIM succeeds (R459). -/
def claimAllows (m : Master) (old expected new : Word) : Bool :=
  let taken := m.named (okind new) (opkg new)
  old == expected &&
  ((okind old == 0 && taken) || (m.named (nkind old) (npkg old) && taken && nkind new == 0) ||
    m.named (okind old) (opkg old))

/-! ### Device registers (R456, R457) -/

/-- The first address of the device registers. -/
def dvBase : Nat := 0x80000000000

/-- The register numbers that exist (R456). -/
def dvListed (n : Nat) : Bool := decide (n ≤ 12) || decide (16 ≤ n ∧ n ≤ 25)

/-- Registers that a WR may not name. -/
def dvReadonly (n : Nat) : Bool := n == 10 || n == 11 || n == 20 || n == 23

/-- The register of an address. -/
def dvNum (a : Nat) : Option Nat :=
  if dvBase ≤ a ∧ dvListed ((a - dvBase) / 8) then some ((a - dvBase) / 8) else none

/-- What dv.PGREQ shows: its oldest request (R443). -/
def State.pgreqWord (s : State) : Word :=
  match s.pgreq with
  | h :: _ => BitVec.ofNat 64 (2 ^ 63 + h % 2 ^ 32)
  | [] => 0

/-- What dv.SELOG shows: its oldest entry, or the count of entries lost (R449). -/
def State.selogWord (s : State) : Word :=
  match s.selog with
  | x :: _ => wordOfFields [(63, 1), (60, x.kind), (52, x.ptile), (44, x.site), (0, x.handle)]
  | [] => BitVec.ofNat 64 (s.selogLost % 2 ^ 32)

/-- What a register reads as (R457): dv.PGDONE is write-only. -/
def State.dvRead (s : State) (n : Nat) : Word :=
  let d := s.dv
  match n with
  | 0 => d.claim
  | 1 => d.ptbase
  | 2 => d.syeovf.getD 0 0
  | 3 => d.syeovf.getD 1 0
  | 4 => d.syeovf.getD 2 0
  | 5 => d.syeovf.getD 3 0
  | 6 => d.csage.getD 0 0
  | 7 => d.csage.getD 1 0
  | 8 => d.csage.getD 2 0
  | 9 => d.csage.getD 3 0
  | 10 => BitVec.ofNat 64 d.pkgnum
  | 11 => BitVec.zeroExtend 64 d.incarn
  | 12 => d.bootva
  | 16 => d.rtimeout
  | 17 => BitVec.ofNat 64 d.drbad
  | 18 => BitVec.ofNat 64 d.drlate
  | 19 => d.syestat
  | 20 => s.pgreqWord
  | 22 => d.sepol
  | 23 => s.selogWord
  | 24 => d.ltol
  | 25 => BitVec.ofNat 64 (boolN d.bootfail * 2 ^ 8 + d.pstate)
  | _ => 0

/-- The writable fields of a register whose write does nothing more; none for the others (R249, R338, R347, R402, R412,
R445, R459, R457, R464). -/
def Dv.write (d : Dv) (n : Nat) (v : Word) : Dv :=
  match n with
  | 0 => { d with claim := claimAfter d.claim v }
  | 1 => { d with ptbase := v &&& 0x00000FFFFFFC0000 }
  | 2 => { d with syeovf := putAt 0 d.syeovf 0 (v &&& 0x007FFFFFFFFF0000) }
  | 3 => { d with syeovf := putAt 0 d.syeovf 1 (v &&& 0x007FFFFFFFFF0000) }
  | 4 => { d with syeovf := putAt 0 d.syeovf 2 (v &&& 0x007FFFFFFFFF0000) }
  | 5 => { d with syeovf := putAt 0 d.syeovf 3 (v &&& 0x007FFFFFFFFF0000) }
  | 6 => { d with csage := putAt 0 d.csage 0 (v &&& 0xFFFFFFFF) }
  | 7 => { d with csage := putAt 0 d.csage 1 (v &&& 0xFFFFFFFF) }
  | 8 => { d with csage := putAt 0 d.csage 2 (v &&& 0xFFFFFFFF) }
  | 9 => { d with csage := putAt 0 d.csage 3 (v &&& 0xFFFFFFFF) }
  | 10 => { d with pkgnum := fld v 0 13 }
  | 16 => { d with rtimeout := v &&& 0xFFFFFFFF }
  | 17 => { d with drbad := fld v 0 32 }
  | 18 => { d with drlate := fld v 0 32 }
  | 22 => { d with sepol := v &&& 0xFF03 }
  | 24 => { d with ltol := v &&& 0x80000000FFFFFFFF }
  | _ => d

/-- REGISTER_WRITE: a write of a register without behaviour of its own. -/
def execRegisterWrite (s : State) : Out :=
  match s.actor with
  | .reg _ n v => .next { s with dv := s.dv.write n v }
  | _ => .fault .noActor

/-- PGREQ_READ: a read of dv.PGREQ; one of the owner or the regulator removes what it returned (R443, R456). -/
def execPgreqRead (s : State) : Out :=
  match s.actor with
  | .owner b =>
    let s1 := if b then { s with pgreq := s.pgreq.drop 1 } else s
    .next (if b ∧ s1.pgpend ≠ [] then s1.push [.event .pageRequestPost .none] else s1)
  | _ => .fault .noActor

/-- SELOG_READ: a read of dv.SELOG; one of the owner or the regulator removes the entry, or clears the count (R449). -/
def execSelogRead (s : State) : Out :=
  match s.actor with
  | .owner b =>
    .next (if b then
      (match s.selog with
       | _ :: xs => { s with selog := xs }
       | [] => { s with selogLost := 0 })
      else s)
  | _ => .fault .noActor

/-- PGDONE: the handle of a SAVED frame owner whose image has cause PAGE becomes READY (R443). -/
def execPgdone (s : State) : Out :=
  match s.actor with
  | .reg _ _ v =>
    let h := fld v 0 32
    .next (if s.saved.any (fun x => x.owner == h && x.page) && s.trState h == 4 then
        (s.setTrState h 2).enqueue (s.readyEnt h)
      else s)
  | _ => .fault .noActor

/-- SYESTAT_CLEAR: a write of 1 to DROP clears DROP, COUNT and HANDLE (R457). -/
def execSyestatClear (s : State) : Out :=
  match s.actor with
  | .reg _ _ v => .next (if bitAt v 0 then { s with dv := { s.dv with syestat := 0 } } else s)
  | _ => .fault .noActor

/-- A sequencer released to fetch at the boot address in privileged mode (R365, R461). -/
def Seq.boot (q : Seq) (va : Nat) : Seq :=
  { q with tvec := BitVec.ofNat 64 va, pc := BitVec.ofNat 57 va, status := mkStatus true false false false,
           held := false }

/-- BOOTVA: V = 1 releases the sequencers, once (R461). -/
def execBootva (s : State) : Out :=
  match s.actor with
  | .reg _ _ v =>
    let s1 := { s with dv := { s.dv with bootva := v &&& 0x81FFFFFFFFFFFFFF } }
    let va := fld v 2 55 * 4
    .next (if bitAt v 63 ∧ ¬ s.released then
        { s1 with seqs := s1.seqs.map fun q => q.boot va, released := true }
      else s1)
  | _ => .fault .noActor

/-! ### Messages (R454, R455) -/

/-- Whether the trailer holds the CRC of a message. -/
def Msg.intact (m : Msg) : Bool :=
  decide (m.data.length = m.len) && fld m.trailer 0 32 == (crc32 (m.header :: m.data)).toNat

/-- The words a message names, from its ADDR upward. -/
def Msg.words (m : Msg) (n : Nat) : List Nat := (List.range n).map fun k => m.addr + 8 * k

/-- Whether every word of a range of addresses can be named by a message: a word of memory or a listed register. -/
def addrsOk (as : List Nat) : Bool :=
  as.all fun a => a % 8 == 0 && ((regionOf a 8).allows 0 || (regionOf a 8).allows 3 || (dvNum a).isSome)

/-- What comes before the meaning of a message of a type (R454, R455, R461, R464): it is discarded, wakes the package, is
answered BADMSG, or is served with its tag outstanding. -/
def State.receive (s : State) (i : Instr) (type : Nat) (bad : Msg → Bool) (serve : State → Msg → State) : Out :=
  match s.actor with
  | .msg m =>
    if ¬ m.intact ∨ m.type ≠ type ∨ (s.dv.bootfail ∧ type ≠ 1 ∧ type ≠ 5) then .next s
    else if s.dv.pstate ≠ 0 then .next (s.push [.event .wake .none, .event i (.msg m)])
    else if s.tags.contains (m.master, m.tag) then .next (s.sendResp m.master m.tag stBadMsg [])
    else
      let s1 := { s with tags := s.tags ++ [(m.master, m.tag)] }
      if bad m then .next (s1.respond m.master m.tag stBadMsg [])
      else .next (serve s1 m)
  | _ => .fault .noActor

/-- The data words of a message. -/
def Msg.word (m : Msg) (k : Nat) : Word := m.data.getD k 0

/-! ### RD -/

/-- An RD in breach of R455. -/
def rdBad (m : Msg) : Bool :=
  m.len != 1 || fld (m.word 0) 0 5 == 0 || fld (m.word 0) 5 59 != 0 || !addrsOk (m.words (fld (m.word 0) 0 5))

/-- What a word reads as: a register, or memory as HBM holds it (R317); an uncorrectable word is a free value and is logged. -/
def State.hostRead (s : State) (a : Nat) : State × Word :=
  match dvNum a with
  | some n => (s, s.dvRead n)
  | none =>
    if s.isBad a then ((s.logSe 6 0 0 0).tick, Config.badWord s.freeCount) else (s, s.hbmWord a)

/-- Read words in order. -/
def State.hostReads (s : State) : List Nat → State × List Word
  | [] => (s, [])
  | a :: as =>
    let (s1, w) := s.hostRead a
    let (s2, ws) := s1.hostReads as
    (s2, w :: ws)

/-- What a read of a register does besides (R456). -/
def readTurns (own : Bool) (as : List Nat) : List Turn :=
  as.filterMap fun a => match dvNum a with
    | some 20 => some (.event .pgreqRead (.owner own))
    | some 23 => some (.event .selogRead (.owner own))
    | _ => none

/-- RD (R455). -/
def execHostRd (s : State) : Out :=
  s.receive .hostRd 1 rdBad fun s m =>
    let as := m.words (fld (m.word 0) 0 5)
    let broken := as.any fun a => (dvNum a).isNone && s.isBad a
    let (s1, ws) := s.hostReads as
    let s2 := s1.respond m.master m.tag (if broken then Config.respStatus s.freeCount else 0) ws
    s2.push (readTurns (s.ownedBy m.master) as)

/-! ### WR -/

/-- A WR in breach of R455. -/
def wrBad (m : Msg) : Bool := m.len == 0 || !addrsOk (m.words m.len)

/-- Write a word of memory: one of the entry queues is not written (R339). A message names no page, so the write sets the
word's presence bit and serves the reads deferred on it whatever page maps it (R266, R267; log 42). -/
def State.hostWrite (s : State) (a : Nat) (v : Word) : State :=
  if s.storeCause a = Cause.eqarea then s else ((s.putWord a v).setPresent a).serve a v

/-- The step that a write of a register is (R457). -/
def writeTurn (n : Nat) (v : Word) : Option Turn :=
  match n with
  | 12 => some (.event .bootva (.reg 0 n v))
  | 19 => some (.event .syestatClear (.reg 0 n v))
  | 21 => some (.event .pgdone (.reg 0 n v))
  | 25 => none
  | _ => some (.event .registerWrite (.reg 0 n v))

/-- The writes of a message, address and word. -/
def Msg.writes (m : Msg) : List (Nat × Word) := (m.words m.len).zip m.data

/-- WR: memory at once, registers as the steps that follow, the RESP when all are performed, a reset last (R455, R457,
R465). -/
def execHostWr (s : State) : Out :=
  match s.actor with
  | .done m tag => .next (s.respond m tag 0 [])
  | _ =>
    s.receive .hostWr 2 wrBad fun s m =>
      let ws := m.writes
      let regs := ws.filterMap fun x => (dvNum x.1).map fun n => (n, x.2)
      let mems := ws.filter fun x => (dvNum x.1).isNone
      if !s.ownedBy m.master then s.respond m.master m.tag stNotOwner []
      else if regs.any fun x => dvReadonly x.1 then s.respond m.master m.tag stReadOnly []
      else
        let refused := mems.any fun x => s.storeCause x.1 = Cause.eqarea
        let s1 := mems.foldl (fun s x => s.hostWrite x.1 x.2) s
        if refused then (s1.respond m.master m.tag (Config.respStatus s.freeCount) []).tick
        else
          let last := if regs.any fun x => x.1 = 25 ∧ bitAt x.2 31 then [Turn.event .reset .none] else []
          s1.push (regs.filterMap (fun x => writeTurn x.1 x.2) ++ [.event .hostWr (.done m.master m.tag)] ++ last)

/-! ### CAS, TKEN -/

/-- A CAS in breach of R455. -/
def casBad (m : Msg) : Bool := m.len != 2 || !addrsOk [m.addr]

/-- CAS on dv.CLAIM (R459). One on anything else is one of the messages that only an owner may send (R458), and it applies to
nothing: BADMSG (log 67). -/
def execHostCas (s : State) : Out :=
  s.receive .hostCas 3 casBad fun s m =>
    if m.addr ≠ dvBase then s.respond m.master m.tag (if s.ownedBy m.master then stBadMsg else stNotOwner) []
    else
    let old := s.dv.claim
    let s1 := if claimAllows m.master old (m.word 0) (m.word 1) then
        { s with dv := { s.dv with claim := claimAfter old (m.word 1) } }
      else s
    s1.respond m.master m.tag 0 [old]

/-- HOST_TKEN: the request of an owner enters the admission queue of the record's home die (R356, R455). -/
def execHostTken (s : State) : Out :=
  s.receive .hostTken 4 (fun m => m.len != 0) fun s m =>
    if !s.ownedBy m.master then s.respond m.master m.tag stNotOwner []
    else
      let h := fld m.header 0 32
      s.sendAdm { id := 0, op := .tken, who := .host m.master m.tag, handle := h, k := 0, payload := 0, va := 0,
                  due := 0, back := 0, queued := false } (handleDie h) (handleDie h)

/-! ### ATTEST (R462, R463) -/

/-- The report for a nonce. -/
def State.report (s : State) (nonce : List Word) : List Word :=
  let body := nonce ++ Config.firmwareDigest s.boot ++ [BitVec.zeroExtend 64 s.dv.incarn, BitVec.ofNat 64 s.dv.pkgnum] ++
    Config.fuseId ++ Config.identityDigest
  let digest := (shake256 (body.flatMap fun w => bytesOf 8 w.toNat)).take 4
  body ++ Config.signature (digest.flatMap fun w => bytesOf 8 w.toNat)

/-- Send the parts of a report, the last with status 0; the number bounds the parts. -/
def State.sendReport (s : State) (m : Msg) : Nat → List Word → State
  | 0, ws => s.respond m.master m.tag 0 (ws.take 31)
  | n + 1, ws =>
    if ws.length ≤ 31 then s.respond m.master m.tag 0 ws
    else
      (s.sendResp m.master m.tag (Config.respStatus s.freeCount) (ws.take 31)).tick.sendReport m n (ws.drop 31)

/-- ATTEST, for any master; its ADDR names nothing but is checked as that of any message (R455; log 67). -/
def execAttest (s : State) : Out :=
  s.receive .attest 5 (fun m => m.len != 4 || !addrsOk [m.addr]) fun s m =>
    let r := s.report m.data
    s.sendReport m (r.length / 31) r

/-! ### Ownership lost (R459) -/

/-- OWNER_LOSS: the regulator clears OKIND and NKIND, and what masters still wait for is answered NOTOWNER. -/
def execOwnerLoss (s : State) : Out :=
  let c := s.dv.claim
  let w := claimAfter c (BitVec.ofNat 64 (opkg c * 2 ^ 49 + npkg c * 2 ^ 34))
  let isHost (q : AdmReq) : Bool := match q.who with
    | .host _ _ => true
    | .mpe _ _ _ => false
  let waiting := s.dies.flatMap fun d => d.adm.filter isHost
  let s1 := { s with dv := { s.dv with claim := w }
                     dies := s.dies.map fun (d : Die) => { d with adm := d.adm.filter fun q => !isHost q } }
  .next (waiting.foldl (fun s q => match q.who with
    | .host m tag => s.respond m tag stNotOwner []
    | .mpe _ _ _ => s) s1)

/-! ### Reset and power (R404, R460, R461, R464, R465) -/

/-- The machine that starts again: what the outside sends and has received, and the model's own counters, go on. -/
def State.restart (s : State) (incarn : BitVec 32) : State :=
  { State.reset with
    inputs := s.inputs.map fun x => (x.1 - s.clock, x.2)
    out := s.out
    freeCount := s.freeCount + 1
    nextId := s.nextId
    boot := s.freeCount
    dv := { Dv.atReset incarn with bootfail := !Config.firmwareOk s.freeCount } }

/-- Whether a reset clears a byte of memory: SYE SRAM and the overflow areas hold the task records and queues. -/
def State.clearedByReset (s : State) (a : Nat) : Bool :=
  decide (0x30000000000 ≤ a) || (s.recAt a).isSome

/-- The walkers' caches are gone: some nodes were written back before, and HBM holds what it held of the others (R317;
log 40). -/
def State.cachesGone (s : State) : State :=
  let s1 := s.writeBackSome
  { s1.unwritten.foldl (fun s p => s.putWords p.pa p.words) s1 with unwritten := [] }

/-- RESET (R465): memory other than task records and queues is not named among what it clears (log 40). -/
def execReset (s : State) : Out :=
  let s1 := s.cachesGone
  .next { s1.restart (s.dv.incarn + 1) with
    mem := s1.mem.filter fun c => !s.clearedByReset c.1
    presence := s1.presence
    bad := s1.bad.filter fun a => !s.clearedByReset a }

/-- BOARD_POWER_UP: the first incarnation comes from the random source (R404). -/
def execBoardPowerUp (s : State) : Out := .next (s.restart (Config.incarn s.freeCount))

/-- Whether a task is READY or RUNNING, a command, install or reduction is open, or a message that woke the package waits
for its RESP (R455, R464; log 41). -/
def State.working (s : State) : Bool :=
  !s.tags.isEmpty || s.dies.any (fun d => !d.adm.isEmpty) ||
  s.dies.any (fun d => !d.ready.isEmpty || d.disp.isSome || d.inst.isSome) ||
  s.loads.any (fun x => x.slots.any Option.isSome) || !s.cmds.isEmpty || s.places.any (fun p => p.st == 3) ||
    s.insts.any fun x => !x.released

/-- The deepest power state whose wake time and entry condition allow it (R464). -/
def State.deepest (s : State) : Nat :=
  let limit := fld s.dv.ltol 0 32
  let one := decide (1600 ≤ limit) && !s.working
  let two := one && decide (32000 ≤ limit) && s.places.all fun p => p.st != 1
  let three := two && decide (1600000 ≤ limit) && bitAt s.dv.ltol 63 && s.loads.isEmpty &&
    s.dies.all fun d => d.owned.isEmpty
  if three then 3 else if two then 2 else if one then 1 else 0

/-- Memory is lost (R464). -/
def State.memoryLost (s : State) : State := { s with mem := [], presence := [], bad := [], unwritten := [] }

/-- POWER_STATE_ENTRY: the package enters a state at least as deep as it is in; state 3 loses HBM and SRAM (R464). -/
def execPowerStateEntry (s : State) : Out :=
  let p := max s.dv.pstate s.deepest
  let s1 := if p = 3 ∧ s.dv.pstate ≠ 3 then s.memoryLost else s
  .next (if s.dv.bootfail then s else { s1 with dv := { s.dv with pstate := p } })

/-- WAKE: exit from state 3 starts the package as at step 3 of R461, with the claim, the package number that the firmware
writes again and the ports that it trains again (R464; log 41). -/
def execWake (s : State) : Out :=
  .next (
    if s.dv.pstate = 3 then
      { s.restart (s.dv.incarn + 1) with
        clock := s.clock
        inputs := s.inputs
        ports := s.ports
        linkClk := s.linkClk
        boot := s.boot
        tags := s.tags
        dv := { Dv.atReset (s.dv.incarn + 1) with claim := s.dv.claim, pkgnum := s.dv.pkgnum }
        agenda := s.agenda }
    else { s with dv := { s.dv with pstate := 0 } })

/-- HARDWARE_TRIP: a die's element clock is lowered (R460); a program cannot see it. -/
def execHardwareTrip (s : State) : Out :=
  match s.actor with
  | .die d => .next (s.modDie d fun x => { x with trip := true })
  | _ => .fault .noActor

/-! ### Ports and the group table (R400, R402, R415) -/

/-- PORT_UP: no port comes up before dv.PKGNUM is set. -/
def execPortUp (s : State) : Out :=
  match s.actor with
  | .id n => .next (if s.dv.pkgnum = 0x1FFF ∨ 18 ≤ n then s else { s with ports := setAdd s.ports n })
  | _ => .fault .noActor

/-- A child word. -/
def childOf (w : Word) : Child := ⟨fld w 50 14, fld w 37 13, fld w 24 13, fld w 19 5⟩

/-- GROUP_TABLE_WRITE: the two words of an entry and one for each child; the entry's instance records are fresh. -/
def execGroupTableWrite (s : State) : Out :=
  match s.actor with
  | .table g ws =>
    let w0 := ws.getD 0 0 &&& 0xFFFFFFFFC00FFFFF
    let w1 := ws.getD 1 0 &&& 0xFFFFFFFFFFFFFF00
    let n := fld w0 56 5 + 1
    let x : GroupEnt := ⟨g, w0, w1, ((ws.drop 2).take n).map childOf⟩
    .next { s with
      groups := s.groups.filter (fun y => decide (y.group ≠ g)) ++ [x]
      insts := s.insts.filter fun y => decide (y.group ≠ g) }
  | _ => .fault .noActor

end Sys2Proof.Machine
end

