-- ==== Sys2Proof/Machine/Hts.lean ====
section
/-! DEFINITION. The hardware task scheduler: translation of extents, dispatch, thread tokens and their refill, and the
configuration scheduler's choice (R256, R272, R345 to R351, R405). -/

namespace Sys2Proof.Machine

open Sys2Proof

/-! ### Translation (R256, R272) -/

/-- A translation in progress: runs newest first, the cause that ended it, the HTS's cache, and the clocks of the
descriptor reads that missed it. -/
structure Trans where
  runs : List Run
  cause : Nat
  tc : List CDesc
  fc : Nat
  lat : Nat

/-- Whether a granule continues a run. -/
def Run.extends (r g : Run) : Bool :=
  decide (r.vbase + r.n = g.vbase) && r.ext == g.ext && r.p == g.p &&
  (!r.p || (decide (r.ppn + r.n = g.ppn) && r.cls == g.cls && r.fmt == g.fmt && r.geom == g.geom && r.r == g.r &&
    r.pkg == g.pkg && r.w == g.w))

/-- A run with the granule that continues it. -/
def Run.join (r g : Run) : Run :=
  { r with n := r.n + 1
           psz := if r.psz.getLast?.map (·.2) = g.psz.head?.map (·.2) then r.psz else r.psz ++ g.psz }

/-- Walk one address through the HTS's cache of 1,024 descriptors. -/
def Trans.walk (t : Trans) (s : State) (die va : Nat) : Trans × Walk :=
  let w := s.walk t.tc t.fc va
  let cost := (w.reads.map fun a => memLat die 0 a).foldl (· + ·) 0
  ({ t with tc := w.tc.take 1024, fc := w.fc, lat := t.lat + cost }, w)

/-- One granule of a declared extent. -/
def Trans.granule (s : State) (die ext : Nat) (wr : Bool) (t : Trans) (g : Nat) : Trans :=
  if t.cause ≠ 0 then t
  else
    let (t1, w) := t.walk s die (g * 0x10000)
    if w.cause ≠ 0 ∧ w.cause ≠ Cause.page then { t1 with cause := w.cause }
    else
      let d := w.d
      let x : Run :=
        if w.cause = Cause.page then
          { Run.none with vbase := g, n := 1, ext := ext, declW := wr }
        else
          { vbase := g, n := 1, ext := ext, p := true, r := pdR d, w := wr && pdW d && pdCls d != 3, cls := pdCls d,
            fmt := pdFmt d, geom := pdGeom d, pkg := pdPkg d, ppn := granPpn d (g * 0x10000), declW := wr, inc := 0,
            psz := [(g, pdSz d)] }
      match t1.runs with
      | r :: rs =>
        if r.extends x then { t1 with runs := r.join x :: rs }
        else if 64 ≤ t1.runs.length then { t1 with cause := Cause.extruns }
        else { t1 with runs := x :: t1.runs }
      | [] => { t1 with runs := [x] }

/-- The declared extents of a record (R255). -/
def State.translate (s : State) (h : Nat) : Trans :=
  let die := handleDie h
  let tc := match s.die? die with
    | some d => d.hcache
    | none => []
  let t := (List.range 4).foldl (fun t k =>
    let e := s.trExt h k
    if bitAt e 0 then
      (List.range (fld e 2 21 + 1)).foldl (fun t i => Trans.granule s die k (bitAt e 1) t ((fld e 23 41 + i) % 2 ^ 41)) t
    else t) ⟨[], 0, tc, s.freeCount, 0⟩
  { t with runs := t.runs.reverse }

/-- First word and number of words of a bound window (R271). -/
def winVa (w : Word) : Nat := fld w 3 54 * 8
def winLen (w : Word) : Nat := fld w 57 6 + 1

/-- Why a page of a window may not be copied (R272). -/
def windowCause (own : Nat) (w : Walk) : Nat :=
  if w.cause ≠ 0 then w.cause
  else if pdPkg w.d ≠ own then Cause.remote
  else if pdCls w.d ≠ 0 then Cause.cls
  else if !pdR w.d then Cause.perm
  else 0

/-- Check a window and read its words. -/
def Trans.window (s : State) (die : Nat) (t : Trans) (w : Word) : Trans × List Word :=
  if t.cause ≠ 0 ∨ !bitAt w 63 then (t, [])
  else
    (List.range (winLen w)).foldl (fun (p : Trans × List Word) i =>
      if p.1.cause ≠ 0 then p
      else
        let va := (winVa w + 8 * i) % 2 ^ 57
        let (t1, k) := p.1.walk s die va
        let c := windowCause s.ownPkg k
        let a := granPpn k.d va * 0x10000 + va % 0x10000
        if c ≠ 0 then ({ t1 with cause := c }, p.2)
        else if s.isBad a then ({ t1 with cause := Cause.uncorrectable }, p.2)
        else (t1, p.2 ++ [s.word a])) (t, [])

/-- The bound windows of a record: their words, or nothing for a window that is not bound. -/
def State.windows (s : State) (h : Nat) (t : Trans) : Trans × List (Option (List Word)) :=
  (List.range 4).foldl (fun (p : Trans × List (Option (List Word))) k =>
    let w := s.trWin h k
    let (t1, ws) := p.1.window s (handleDie h) w
    (t1, p.2 ++ [if bitAt w 63 then some ws else none])) (t, [])

/-- Keep what a translation left in the HTS's cache. -/
def State.keepTrans (s : State) (die : Nat) (t : Trans) : State :=
  { s.modDie die (fun d => { d with hcache := t.tc }) with freeCount := t.fc }

/-- Copy a window's words into every tile's parameter buffer (R272). -/
def State.copyWindows (s : State) (x : Load) (slot : Nat) (ws : List (Option (List Word))) : State :=
  x.tiles.foldl (fun s t =>
    ((List.range 4).zip ws).foldl (fun s p =>
      match p.2 with
      | some v => s.putWords (paramAddr x.ref.die t.pt slot p.1 0) v
      | none => s) s) s

/-! ### The choice of a task (R345) -/

/-- STEP of dv.CSAGE in element clocks; 0 is read as 1 (R347). -/
def State.ageStep (s : State) (d : Nat) : Nat := 1024 * max 1 (fld (s.dv.csage.getD d 0) 0 16)

/-- E(t); a vote's execution has effective priority 7 (R446). -/
def State.effPrio (s : State) (d : Nat) (r : ReadyEnt) : Nat :=
  if r.vote ≠ 0 then 7 else min 7 (r.prio + (s.clock - r.since) / s.ageStep d)

/-- The lowest free slot of a fabric load. -/
def Load.freeSlot (x : Load) : Option Nat := (List.range 8).find? fun k => (x.slots.getD k none).isNone

/-- Whether a task is a saved frame owner that waits for its restore (R439). -/
def State.isOwner (s : State) (h : Nat) : Bool := s.saved.any fun v => v.owner == h

/-- Whether a fabric load takes tasks of a ready entry: resident, of its CFGID, not reserved for a restore, no tile in
the entry's exclusion set, with a free slot. -/
def State.takes (s : State) (r : ReadyEnt) (x : Load) : Bool :=
  x.ref.die == handleDie r.handle && x.cfgid == s.trCfgid r.handle && x.phase == .resident && x.restoreOf.isNone &&
  x.freeSlot.isSome && x.tiles.all fun t => !r.excl.contains (pkgTile x.ref.die t.pt)

/-- The fabric load of the lowest fabric number that takes a ready entry. -/
def State.loadFor (s : State) (r : ReadyEnt) : Option Load :=
  (s.loads.filter fun x => s.takes r x).foldl (fun b x =>
    match b with
    | none => some x
    | some y => if x.ref.fab < y.ref.fab then some x else some y) none

/-- The ready task to dispatch: highest E, then the one that became READY first. -/
def State.chooseTask (s : State) (d : Die) : Option (ReadyEnt × Load) :=
  (d.ready.filter fun r => !s.isOwner r.handle).foldl (fun b r =>
    match s.loadFor r with
    | none => b
    | some x =>
      match b with
      | none => some (r, x)
      | some (q, _) =>
        if s.effPrio d.n q < s.effPrio d.n r ∨ (s.effPrio d.n q = s.effPrio d.n r ∧ r.since < q.since) then some (r, x)
        else b) none

/-! ### DISPATCH (R345, R405) -/

/-- Take a record out of the ready queue. -/
def State.unready (s : State) (h : Nat) : State :=
  s.modDie (handleDie h) fun d => { d with ready := d.ready.filter fun r => decide (r.handle ≠ h) }

/-- Send one probe to each package that a task's runs name (R405). -/
def State.sendProbes (s : State) (die : Nat) (pkgs : List Nat) : State :=
  pkgs.foldl (fun s p => s.sendRemote (probeOf ⟨die, 0, 0, 0⟩ 0 p (.probe die)) .probe 0 0 0 0) s

/-- A task whose translation failed completes with the cause (R256, R272); an uncorrectable error is logged (R451). -/
def State.abandonTrans (s : State) (h cause : Nat) : State :=
  (if cause = Cause.uncorrectable then s.logSe 6 0 0 h else s).abandonRec h cause

/-- Begin a dispatch: translate, check the windows, send the probes. -/
def State.beginDispatch (s : State) (d : Nat) (r : ReadyEnt) (x : Load) : State :=
  let h := r.handle
  let s0 := s.unready h
  if s.recBad h then s0.abandonBad h
  else if x.entries.length ≤ s.trEntry h then s0.abandonRec h Cause.badentry
  else
    let t := s.translate h
    let (t1, ws) := s.windows h t
    let s1 := s0.keepTrans d t1
    if t1.cause ≠ 0 then s1.abandonTrans h t1.cause
    else
      let pkgs := ((t1.runs.filter fun q => q.p && q.pkg != s.ownPkg).map (·.pkg)).eraseDups
      if !pkgs.isEmpty ∧ !s.routed then s1.abandonRec h Cause.remoteGone
      else
        let slot := x.freeSlot.getD 0
        let due := s.clock + 40 + 4 * t1.runs.length + 16 * (ws.filter Option.isSome).length + t1.lat + s1.waitNow
        let task : SlotX :=
          { handle := h, runs := t1.runs, wins := ws.map fun w => w.map fun v => v.length - 1, entry := s.trEntry h,
            count := s.trCount h, written := 0, gone := [], sig := 0, dispAt := s.clock, frame := s.trFrame h,
            steps := [] }
        let probes := pkgs.mapIdx fun k p => (p, s1.nextId + k)
        (s1.tick.modDie d fun y => { y with disp := some ⟨h, x.ref, slot, due, probes, task⟩ }).sendProbes d pkgs

/-- A WEIGHT run of this package that a copy in flight overlaps holds the dispatch (R256, R285). -/
def State.weightHeld (s : State) (x : SlotX) : Bool :=
  x.runs.any fun r => r.p && r.cls == 3 && r.pkg == s.ownPkg && s.sbHeld (r.ppn * 0x10000) (r.n * 0x10000) false

/-- Step counters of the elements of a fabric load (R96). -/
def State.stepsOf (s : State) (l : LoadRef) : List (Nat × Nat × Nat) :=
  (s.elems.filter fun e => e.ref.load == l).map fun e => (e.ref.lt, e.ref.site, e.step)

/-- Start every step counter of a fabric load at the value it held when the compared execution began (R98). -/
def State.startSteps (s : State) (l : LoadRef) (xs : List (Nat × Nat × Nat)) : State :=
  { s with elems := s.elems.map fun e =>
      if e.ref.load = l then
        match xs.find? fun x => decide (x.1 = e.ref.lt ∧ x.2.1 = e.ref.site) with
        | some x => { e with step := x.2.2 }
        | none => e
      else e }

/-- End a dispatch: the task takes its slot, its windows are copied, and it is RUNNING. A fabric load that takes tasks
no more gives it back to the ready queue; a window that is not local, DENSE and readable any more completes it (R272). -/
def State.endDispatch (s : State) (d : Nat) (p : Dispatch) : State :=
  let s0 := s.modDie d fun y => { y with disp := none }
  match s.load? p.load with
  | none => s0.becomeReady p.handle
  | some x =>
    if x.phase ≠ .resident ∨ (x.slots.getD p.slot none).isSome then s0.becomeReady p.handle
    else
      let (t, ws) := s.windows p.handle ⟨[], 0, [], s.freeCount, 0⟩
      if t.cause ≠ 0 then s0.abandonTrans p.handle t.cause
      else
      let v := (s.vote? p.handle).filter fun v => decide (2 ≤ v.stage)
      let steps := match v with
        | some v => v.steps
        | none => s.stepsOf p.load
      let task := { p.x with steps := steps, dispAt := s.clock }
      let sv := if v.isSome then s0.startSteps p.load steps else s0
      let s1 := sv.modLoad p.load fun x => { x with slots := x.slots.set p.slot (some task), lastDisp := s.clock }
      let s2 := s1.copyWindows x p.slot ws
      (s2.setTrState p.handle 3).setPend p.handle (s.trCount p.handle)

/-- DISPATCH: the HTS chooses a task, or ends the dispatch in progress when its clocks are over, its probes are
answered and no copy holds it. -/
def execDispatch (s : State) : Out :=
  match s.actor with
  | .die n =>
    match s.die? n with
    | none => .fault .noActor
    | some d =>
      match d.disp with
      | some p =>
        if s.clock < p.due ∨ !p.probes.isEmpty ∨ s.weightHeld p.x then .next s else .next (s.endDispatch n p)
      | none =>
        match s.chooseTask d with
        | some (r, x) => .next (s.beginDispatch n r x)
        | none => .next s
  | _ => .fault .noActor

/-! ### Thread tokens (R350) -/

/-- Slots with a thread token of an entry still to be written. -/
def Load.feeding (x : Load) (n : Nat) : List Nat :=
  (List.range 8).filter fun k =>
    match x.slots.getD k none with
    | some t => t.entry == n && decide (t.written < t.count)
    | none => false

/-- The slot whose turn it is: the next above the last one written, in increasing order and round again. -/
def nextTurn (last : Nat) (ks : List Nat) : Option Nat :=
  match ks.find? fun k => decide (last < k) with
  | some k => some k
  | none => ks.head?

/-- Whether the HTS has a payload to write to an entry, with space for it. -/
def Load.mayWrite (x : Load) (n : Nat) : Bool :=
  x.phase == .resident && !(x.feeding n).isEmpty &&
  (match x.entries[n]? with | some q => decide (q.count < 512) | none => false)

/-- THREAD_TOKEN_WRITE: the HTS writes the next payload of an entry, and goes on while there is space. -/
def execThreadTokenWrite (s : State) : Out :=
  match s.actor with
  | .loadN l n =>
    match s.load? l with
    | none => .next s
    | some x =>
      match x.entries[n]? with
      | none => .next s
      | some q =>
        if ¬ x.mayWrite n then .next s
        else
          match nextTurn q.turn (x.feeding n) with
          | none => .next s
          | some k =>
            let j := match x.slots.getD k none with
              | some t => t.written
              | none => 0
            let s1 := ((s.ringPut l n (BitVec.ofNat 64 (k * 2 ^ 61 + j))).modSlot l k fun t =>
              { t with written := t.written + 1 }).modEntry l n fun q => { q with turn := k }
            match s1.load? l with
            | some y => if y.mayWrite n then .next (s1.push [.event .threadTokenWrite (.loadN l n)]) else .next s1
            | none => .next s1
  | _ => .fault .noActor

/-! ### Refill (R351) -/

/-- Whether the entry MPE issues a request: 8 free places that are not owed, fewer than six requests, a payload to
fetch. -/
def EntryQ.mayAsk (q : EntryQ) : Bool :=
  decide (q.buf.length + (q.reqs.map (·.2)).foldl (· + ·) 0 + 8 ≤ 48 ∧ q.reqs.length < 6 ∧ 0 < q.unasked)

/-- REFILL_REQUEST: one request for up to 8 payloads; several may be issued in a clock. -/
def execRefillRequest (s : State) : Out :=
  match s.actor with
  | .loadN l n =>
    match s.load? l with
    | none => .next s
    | some x =>
      match x.entries[n]? with
      | none => .next s
      | some q =>
        if x.phase ≠ .resident ∨ ¬ q.mayAsk then .next s
        else
          let q1 := { q with reqs := q.reqs ++ [(s.clock + 30, min 8 q.unasked)] }
          let s1 := s.modEntry l n fun _ => q1
          .next (if q1.mayAsk then s1.push [.event .refillRequest (.loadN l n)] else s1)
  | _ => .fault .noActor

/-- The requests of an entry that have returned, oldest first: payloads in all, and the requests that stay out. -/
def EntryQ.returned (q : EntryQ) (clock : Nat) : Nat × List (Nat × Nat) :=
  let back := q.reqs.takeWhile fun r => decide (r.1 ≤ clock)
  ((back.map (·.2)).foldl (· + ·) 0, q.reqs.drop back.length)

/-- REFILL_RETURN: the requests that are due return their payloads and free their ring places. -/
def execRefillReturn (s : State) : Out :=
  match s.actor with
  | .loadN l n =>
    match s.load? l with
    | none => .next s
    | some x =>
      match x.entries[n]? with
      | none => .next s
      | some q =>
        let (k, rest) := q.returned s.clock
        let vs := (List.range k).map fun i => s.word (ringAddr l.die l.fab n (q.head + i))
        .next (s.modEntry l n fun q =>
          { q with reqs := rest, head := (q.head + k) % 512, count := q.count - k, buf := q.buf ++ vs })
  | _ => .fault .noActor

/-- ENTRY_EMIT: the oldest buffered payload enters the entry output as a DATA token. -/
def execEntryEmit (s : State) : Out :=
  match s.actor with
  | .loadN l n =>
    match s.load? l with
    | none => .next s
    | some x =>
      match x.entries[n]? with
      | none => .next s
      | some q =>
        match q.buf with
        | [] => .next s
        | v :: rest =>
          let r : ElemRef := ⟨l.die, l.fab, q.lt, q.site⟩
          match s.elem? r with
          | none => .next s
          | some e =>
            if x.phase ≠ .resident ∨ ¬ e.space q.port then .next s
            else
              .next ((s.modElem r fun _ => s.putTok e q.port (dataTok 0 v)).modEntry l n fun q => { q with buf := rest })
  | _ => .fault .noActor

/-! ### CONFIGURATION_CHOICE (R346, R348) -/

/-- The ready entries of a die that name a configuration. -/
def State.readyOf (s : State) (d : Die) (c : Word) : List ReadyEnt := d.ready.filter fun r => s.trCfgid r.handle == c

/-- Whether a configuration is a candidate: a fabric load with a free slot serves none of its ready tasks, or a READY
frame owner or a vote's execution needs another one (R346, R439, R446). -/
def State.isCandidate (s : State) (d : Die) (c : Word) : Bool :=
  (s.readyOf d c).any fun r => s.isOwner r.handle || (s.loadFor r).isNone

/-- T, P, A and K of a configuration. -/
structure CKey where
  cfgid : Word
  t : Nat
  a : Nat
  k : Nat
deriving DecidableEq, Repr

def State.ckey (s : State) (d : Die) (c : Word) : CKey :=
  let rs := s.readyOf d c
  let t := min (2 ^ 32 - 1) ((rs.map fun r => s.trCount r.handle).foldl (· + ·) 0)
  let p := (rs.map fun r => r.prio).foldl max 0
  let since := (rs.map fun r => r.since).foldl min s.clock
  let a := s.clock - since
  ⟨c, t, a, min 15 (p + a / s.ageStep d.n)⟩

/-- Whether x is chosen before y. -/
def CKey.before (x y : CKey) : Bool :=
  if x.k ≠ y.k then decide (y.k < x.k)
  else if x.k = 15 ∧ x.a ≠ y.a then decide (y.a < x.a)
  else if x.t ≠ y.t then decide (y.t < x.t)
  else if x.a ≠ y.a then decide (y.a < x.a)
  else decide (x.cfgid.toNat < y.cfgid.toNat)

/-- The candidates of a die. -/
def State.candidates (s : State) (d : Die) : List Word :=
  (d.ready.map fun r => s.trCfgid r.handle).eraseDups.filter fun c => s.isCandidate d c

def State.chooseConfig (s : State) (d : Die) : Option CKey :=
  ((s.candidates d).map (s.ckey d)).foldl (fun b x =>
    match b with
    | none => some x
    | some y => if x.before y then some x else some y) none

/-- Whether a choice falls due: a configuration has become a candidate, tiles have become free, or 256 clocks have
passed (R346). -/
def State.choiceDue (s : State) (d : Die) : Bool :=
  d.csDue || decide (d.csAt + 256 ≤ s.clock) || (s.candidates d).any fun c => !d.cands.contains c

/-- Make a choice: the CFGID goes to sq.CSREQ and the installer tile gets its CSREQ event; a READY frame owner of it has
its restore on the next fabric load that commits (R439). -/
def State.makeChoice (s : State) (d : Die) : State :=
  match s.chooseConfig d with
  | none => s.modDie d.n fun d => { d with csAt := s.clock, csDue := false }
  | some k =>
    let owner := ((s.readyOf d k.cfgid).find? fun r => s.isOwner r.handle).map (·.handle)
    let s1 := s.modDie d.n fun d =>
      { d with csreq := k.cfgid, csAt := s.clock, csDue := false, csRestore := union d.csRestore owner.toList }
    match s.installer d.n with
    | some t => s1.setEvent t 0
    | none => s1

/-- CONFIGURATION_CHOICE: the candidates of a die have changed, or a choice is due. While an install runs the choice
waits (R346, R348). -/
def execConfigurationChoice (s : State) : Out :=
  match s.actor with
  | .die n =>
    match s.die? n with
    | none => .fault .noActor
    | some d =>
      let due := s.choiceDue d
      let s1 := s.modDie n fun d => { d with cands := s.candidates d, csDue := due }
      .next (if due ∧ d.inst.isNone then s1.makeChoice d else s1)
  | _ => .fault .noActor

end Sys2Proof.Machine
end

