-- ==== Sys2Proof/Machine/Image.lean ====
section
/-! DEFINITION. Configuration images: reading one, its layout, its checks in image byte order, and its identifier (R52,
R54, R55, R71 to R76, R182, R264, R349, R373). -/

namespace Sys2Proof.Machine

open Sys2Proof

/-! ### Reading (R264, R373) -/

/-- Bytes read through a sequencer's translation cache; after a cause, zeros are given for the bytes that are left.
good is the number of bytes before it. -/
structure ImgRead where
  bytes : List Byte
  good : Nat
  cause : Nat
  tc : List CDesc
  fc : Nat

/-- Read n bytes within one granule, as far as the first word with an uncorrectable error. That such a word refuses the
install, with cause UNCORRECTABLE in sq.INSTST, is the model's choice (DESIGN CHOICE, log 103): the spec names PAGE and PERM
alone (R373, R375). -/
def State.readPiece (s : State) (q : Seq) (x : ImgRead) (va n : Nat) : ImgRead :=
  if x.cause ≠ 0 then { x with bytes := x.bytes ++ List.replicate n 0 }
  else
    let t := { s with freeCount := x.fc }.seqXlat { q with tc := x.tc } .fetch va 1
    let (m, c) : Nat × Nat :=
      if t.cause ≠ 0 then (0, t.cause)
      else
        match (List.range (n / 8)).find? fun k => s.isBad (t.pa + 8 * k) with
        | some k => (8 * k, Cause.uncorrectable)
        | none => (n, 0)
    { bytes := x.bytes ++ s.bytes t.pa m ++ List.replicate (n - m) 0, good := x.good + m, cause := c, tc := t.tc, fc := t.fc }

/-- Read n bytes from va, granule by granule. -/
def State.readPieces (s : State) (q : Seq) : Nat → ImgRead → Nat → Nat → ImgRead
  | 0, x, _, _ => x
  | k + 1, x, va, n =>
    if n = 0 then x
    else
      let m := min n (0x10000 - va % 0x10000)
      s.readPieces q k (s.readPiece q x va m) (va + m) (n - m)

def State.readImage (s : State) (q : Seq) (va n : Nat) : ImgRead :=
  s.readPieces q (n / 0x10000 + 2) ⟨[], 0, 0, q.tc, s.freeCount⟩ va n

/-- Keep what a read left in the translation cache. -/
def State.imgDone (s : State) (t : Nat) (x : ImgRead) : State :=
  { s.modSeq t (fun q => { q with tc := x.tc }) with freeCount := x.fc }

/-! ### Layout (R71 to R74) -/

/-- Words of a list of bytes, eight bytes each. -/
def wordsOf : List Byte → List Word
  | a :: b :: c :: d :: e :: f :: g :: h :: r => BitVec.ofNat 64 (ofBytes [a, b, c, d, e, f, g, h]) :: wordsOf r
  | _ => []

/-- The first n pieces of a size. -/
def pieces {α : Type} (size : Nat) : Nat → List α → List (List α)
  | 0, _ => []
  | n + 1, l => l.take size :: pieces size n (l.drop size)

/-- A site record (R74). -/
structure SiteRec where
  ecw : Word
  consts : List Word
  slots : List Word
  table : List (BitVec 16)
  rids : Word

/-- A tile section: its header and its 192 site records (R74). -/
structure TileSec where
  hdr : List Word
  sites : List SiteRec

def siteRec (ws : List Word) : SiteRec :=
  { ecw := ws.getD 0 0, consts := (ws.drop 1).take 4, slots := (ws.drop 5).take 16
    table := ((ws.drop 21).take 4).flatMap fun w => (List.range 4).map fun k => BitVec.ofNat 16 (fld w (16 * k) 16)
    rids := ws.getD 25 0 }

def tileSec (ws : List Word) : TileSec := ⟨ws.take 8, (pieces 26 192 (ws.drop 8)).map siteRec⟩

/-- Fields of the header (R72). -/
def hdrNtile (h : List Word) : Nat := fld (h.getD 0 0) 48 8
def hdrNentry (h : List Word) : Nat := fld (h.getD 0 0) 56 8
def hdrCfgid (h : List Word) : Word := h.getD 1 0
def hdrSpanC (h : List Word) : Nat := fld (h.getD 2 0) 32 8
def hdrSpanR (h : List Word) : Nat := fld (h.getD 2 0) 40 8

/-- Entry record n: section, site and port (R73). -/
def hdrEntry (h : List Word) (n : Nat) : Nat × Nat × Nat :=
  let w := h.getD (8 + n) 0
  (fld w 0 8, fld w 8 8, fld w 16 8)

def imageBytes (ntile : Nat) : Nat := 192 + 40000 * ntile

/-- Fields of a tile header. -/
def TileSec.col (t : TileSec) : Nat := fld (t.hdr.getD 0 0) 0 8
def TileSec.row (t : TileSec) : Nat := fld (t.hdr.getD 0 0) 8 8
def TileSec.groups (t : TileSec) : Nat := fld (t.hdr.getD 0 0) 16 8
def TileSec.lt (t : TileSec) : Nat := t.row * 8 + t.col

/-- The tile sections of an image, from its bytes after the entry table. -/
def sections (ntile : Nat) (bs : List Byte) : List TileSec := (pieces 5000 ntile (wordsOf bs)).map tileSec

/-- The identifier of an image (R75): its bytes with those of CFGID set to zero. -/
def imageId (bs : List Byte) : Word := (shake256 (bs.take 8 ++ List.replicate 8 0 ++ bs.drop 16)).getD 0 0

/-! ### The header and the entry table (R76) -/

/-- Whether entry record n keeps its limits. -/
def entryOk (h : List Word) (n : Nat) : Bool :=
  let w := h.getD (8 + n) 0
  let (t, site, port) := hdrEntry h n
  if n < hdrNentry h then
    decide (t < hdrNtile h ∧ site < 192 ∧ port ≤ 3) && kindAt site == .mpe && fld w 24 40 == 0
  else w == 0

/-- Whether word n of the header and the entry table keeps its limits, which words before it may fix. -/
def hdrWordOk (h : List Word) (n : Nat) : Bool :=
  let w := h.getD n 0
  match n with
  | 0 =>
    fld w 0 32 == 0x46434C50 && fld w 32 16 == 1 && decide (1 ≤ hdrNtile h ∧ hdrNtile h ≤ 48) &&
    decide (hdrNentry h ≤ 16)
  | 1 => true
  | 2 =>
    decide (1 ≤ hdrSpanC h ∧ hdrSpanC h ≤ 8) && decide (1 ≤ hdrSpanR h ∧ hdrSpanR h ≤ 6) && fld w 48 16 == 0
  | _ => if n < 8 then w == 0 else entryOk h (n - 8)

/-! ### Switch boxes of an image -/

/-- The depths that delay-match words ask for (R54). -/
def askedDepth (ws : List (BitVec 16)) : List Nat := ws.map fun w => if w ≠ 0 ∧ swMode w = 1 then 4 * swParam w else 0

def mkBox (l : LoadRef) (lt site : Nat) (ws : List (BitVec 16)) (rids : Word) : Box :=
  { load := l, lt := lt, site := site, words := ws, rids := rids, depth := askedDepth ws,
    stages := List.replicate 16 Stage.empty, shadow := [] }

/-- The boxes of a tile section that hold a used word (R182). -/
def TileSec.boxes (l : LoadRef) (t : TileSec) : List Box :=
  ((List.range 192).zip t.sites).filterMap fun p =>
    if p.2.table.all fun w => w == 0 then none else some (mkBox l t.lt p.1 p.2.table p.2.rids)

def boxAt (bs : List Box) (lt site : Nat) : Option Box := bs.find? fun b => decide (b.lt = lt ∧ b.site = site)

/-- The used word of a box with a destination. -/
def Box.wordTo (b : Box) (d : Nat) : Option Nat :=
  (List.range b.words.length).find? fun k => b.word k != 0 && swDest (b.word k) == d

/-- A side and lane code, as DEST or SOURCE. -/
def isSide (d : Nat) : Bool := decide (d ≤ 3 ∨ (8 ≤ d ∧ d ≤ 11))

/-- The box and word that drive a side and lane of a box, and whether a tile crossing lies between. -/
def driver (bs : List Box) (b : Box) (src : Nat) : Option (Box × Nat × Bool) :=
  match leadOf b.lt b.site src with
  | .box site d => (boxAt bs b.lt site).bind fun x => (x.wordTo d).map fun k => (x, k, false)
  | .cross lt site d => (boxAt bs lt site).bind fun x => (x.wordTo d).map fun k => (x, k, true)
  | _ => none

/-- The output at which the route of a word begins: logical tile, site, source code; none for a ring. -/
def origin (bs : List Box) : Nat → Box → Nat → Option (Nat × Nat × Nat)
  | 0, _, _ => none
  | n + 1, b, k =>
    let src := swSource (b.word k)
    if isSide src then
      match driver bs b src with
      | some (x, j, _) => origin bs n x j
      | none => none
    else some (b.lt, b.site, src)

/-- Words that a route can pass. -/
def routeFuel (bs : List Box) : Nat := 16 * bs.length + 1

/-- Consecutive words with REG = 0 that end at a word, as far as five; a tile crossing counts as REG = 1 (R54, R178). -/
def combRun (bs : List Box) : Nat → Box → Nat → Nat
  | 0, _, _ => 0
  | n + 1, b, k =>
    if swReg (b.word k) then 0
    else
      1 + (if isSide (swSource (b.word k)) then
            match driver bs b (swSource (b.word k)) with
            | some (x, j, false) => combRun bs n x j
            | _ => 0
           else 0)

/-- Breaches of R54 that a word shows with the words before it in its table. -/
def Box.wordBad (b : Box) (k : Nat) : Bool :=
  let w := b.word k
  let m := swMode w
  let p := swParam w
  let before := (List.range k).filter fun j => b.word j != 0
  let dm := (before ++ [k]).filter fun j => swMode (b.word j) == 1
  decide (12 ≤ swDest w) || decide (12 ≤ swSource w) || decide (5 ≤ m) ||
  (swDest w == swSource w && isSide (swDest w)) ||
  before.any (fun j => swDest (b.word j) == swDest w) ||
  before.any (fun j => swSource (b.word j) == swSource w && (swMode (b.word j) != 4 || m != 4)) ||
  (match m with
   | 0 => p != 0
   | 1 => p == 0 || decide (64 < (dm.map fun j => 4 * swParam (b.word j)).foldl (· + ·) 0)
   | 2 => p == 0 || decide (4 < p) || before.any (fun j => swMode (b.word j) == 2)
   | 3 => p / 4 == p % 4
   | 4 => p != 0
   | _ => true) ||
  (m != 0 && !swReg w)

/-- Breaches that a word shows with the neighbouring boxes (R52, R54, R182). -/
def joinBad (bs : List Box) (b : Box) (k : Nat) : Bool :=
  let w := b.word k
  let id := ridAt b.rids (swDest w)
  let taken (lt site src : Nat) : Bool :=
    match boxAt bs lt site with
    | none => false
    | some x =>
      let ks := x.wordsFrom src
      !ks.isEmpty && ks.all fun j => ridAt x.rids (swDest (x.word j)) == id
  let out :=
    match leadOf b.lt b.site (swDest w) with
    | .input _ => true
    | .box site src => taken b.lt site src
    | .cross lt site src => taken lt site src
    | .nowhere => false
  !out || (isSide (swSource w) && (driver bs b (swSource w)).isNone) || decide (4 ≤ combRun bs 5 b k)

/-- Breaches of a route identifier word (R55); table is that of its box. -/
def ridsBad (full : Bool) (bs : List Box) (b : Box) : Bool :=
  let used := (List.range 16).filter fun k => b.word k != 0
  fld b.rids 60 4 != 0 ||
  (List.range 12).any (fun d => (ridAt b.rids d != 0) != used.any fun k => swDest (b.word k) == d) ||
  used.any fun j => used.any fun k =>
    let same := ridAt b.rids (swDest (b.word j)) == ridAt b.rids (swDest (b.word k))
    decide (j < k) &&
    (if swSource (b.word j) = swSource (b.word k) then !same
     else same && full && origin bs (routeFuel bs) b j != origin bs (routeFuel bs) b k)

/-! ### Elements of an image (R36, R44, R47 to R52, R349) -/

/-- The fields of an ECW that must be zero or hold no reserved value (R47, R48). -/
def ecwBad (w : Word) : Bool :=
  decide (6 ≤ fld w 58 3) || decide (fld w 56 2 = 3) || (fld w 56 2 != 0 && fld w 62 2 != 0) || bitAt w 54 ||
  (List.range 3).any (fun g => decide (2 ≤ fld w (48 + 2 * g) 2)) ||
  fld w 0 24 != 0 || (bitAt w 61 && fld w 28 4 != 0)

/-- Inputs that a slot reads, dequeues or tests, and outputs that it writes or tests (R52). -/
def slotInputs (e : Entry) (f : SlotF) : List Nat :=
  readInputs e f ++ deqInputs f ++ (List.range 4).filter (fun k => nib f.irdy k) ++ (if f.ten = 1 then [f.tch.toNat] else [])
def slotOutputs (e : Entry) (f : SlotF) : List Nat :=
  (if e.dst.used then outsOf f.dst.toNat else []) ++ (List.range 4).filter fun k => nib f.ospc k

/-- Limits of a slot's operands that its own words do not show: the entry that QPUT names is one of the image's (R352). -/
def operandOk (i : Instr) (nentry : Nat) : Bool :=
  match i with
  | .qput f => decide (f.srcb.toNat < nentry)
  | _ => true

/-- The constant that JOINC may name: a scope code, zeros, and a count that is not 0 (R363). -/
def joinConstOk (w : Word) : Bool :=
  !(decide (5 ≤ fld w 60 4) && decide (fld w 60 4 ≤ 7)) && fld w 32 28 == 0 && fld w 0 32 != 0

/-- The enabled JOINC slot of a site record whose constant is in breach; the constants come before the slots in the
image. -/
def joinBreach (r : SiteRec) : Option Nat :=
  (List.range 16).find? fun n =>
    bitAt r.ecw (32 + n) && match decodeSlot (Kind.ofCode (fld r.ecw 62 2)) (r.slots.getD n 0) with
      | .ok (.joinc f) => decide (12 ≤ f.srcb.toNat) && !joinConstOk (r.consts.getD (f.srcb.toNat - 12) 0)
      | _ => false

/-- What breaks a limit in an enabled slot; entryPorts are the outputs that drive entry channels, and routed says that the
box's table could be read. -/
def slotBreach (routed : Bool) (b : Option Box) (ecw : Word) (entryPorts : List Nat) (nentry : Nat) (x : Word) : Option Nat :=
  match decodeSlot (Kind.ofCode (fld ecw 62 2)) x with
  | .error .badOpcode => some Cause.badop
  | .error _ => some Cause.badfield
  | .ok i =>
    match entry i, slotF i with
    | some e, some f =>
      let into (k : Nat) : Bool := match b with | some b => (b.wordTo (4 + k)).isSome | none => false
      let from_ (k : Nat) : Bool := match b with | some b => !(b.wordsFrom (4 + k)).isEmpty | none => false
      let writes := if e.dst.used then outsOf f.dst.toNat else []
      if !slotOk i || !operandOk i nentry || (bitAt ecw 61 && f.pmode != 0 && decide (4 ≤ f.pidx.toNat)) ||
          (routed && !((slotInputs e f).all into && (slotOutputs e f).all from_)) ||
            writes.any (fun k => entryPorts.contains k) then some Cause.badfield
      else none
    | _, _ => none

/-- Slots of a site record of which g words could be read: a disabled slot is zero (R36), an enabled one keeps its limits. -/
def slotsBreach (g : Nat) (b : Option Box) (r : SiteRec) (entryPorts : List Nat) (nentry : Nat) : Option (Nat × Nat) :=
  (List.range (min 16 (g - 5))).findSome? fun n =>
    let x := r.slots.getD n 0
    if bitAt r.ecw (32 + n) then (slotBreach (decide (25 ≤ g)) b r.ecw entryPorts nentry x).map fun c => (c, n)
    else if x = 0 then none else some (Cause.badfield, n)

/-- The first breach of a site record of which g words could be read, those after them being zeros: cause and item, which is
the slot of a constant that JOINC names (log 82). full holds when every section could be read. -/
def siteBreach (full : Bool) (g : Nat) (bs : List Box) (lt site : Nat) (r : SiteRec) (entryPorts : List Nat) (nentry : Nat) :
    Option (Nat × Nat) :=
  let b := boxAt bs lt site
  let box := mkBox ⟨0, 0⟩ lt site r.table r.rids
  if r.ecw ≠ 0 ∧ fld r.ecw 62 2 ≠ (kindAt site).code then some (Cause.badkind, 0)
  else if r.ecw ≠ 0 ∧ ecwBad r.ecw then some (Cause.badfield, 0)
  else if r.ecw = 0 ∧ r.consts.any (fun w => w != 0) then some (Cause.badfield, 0)
  else
    match ((joinBreach r).map fun n => (Cause.badfield, n)).or (slotsBreach g b r entryPorts nentry) with
    | some x => some x
    | none =>
      match (List.range (min 16 (4 * (g - 21)))).find? fun k => box.word k != 0 &&
        (box.wordBad k || (full && joinBad bs box k)) with
      | some k => some (Cause.badroute, k)
      | none => if 26 ≤ g ∧ ridsBad full bs box then some (Cause.badroute, 0) else none

/-- A breach: cause, section, site, item. -/
structure Breach where
  cause : Nat
  sec : Nat
  site : Nat
  item : Nat
deriving DecidableEq, Repr

/-- A tile header in breach (R74, R76). -/
def tileHdrBad (h : List Word) (before : List TileSec) (t : TileSec) : Bool :=
  decide (hdrSpanC h ≤ t.col) || decide (hdrSpanR h ≤ t.row) || fld (t.hdr.getD 0 0) 24 40 != 0 ||
  (t.hdr.drop 1).any (fun w => w != 0) || before.any (fun x => x.col == t.col && x.row == t.row)

/-- The first breach of the tile sections in image byte order (R375). good is the number of bytes that could be read: words
beyond it are not checked, and then no word is held against its neighbours. A tile header in breach has its
SECTION, and SITE and ITEM 0 (log 82). -/
def sectionsBreach (h : List Word) (secs : List TileSec) (good : Nat) : Option Breach :=
  let bs := secs.flatMap (TileSec.boxes ⟨0, 0⟩)
  let full := decide (imageBytes (hdrNtile h) ≤ good)
  ((List.range secs.length).zip secs).findSome? fun p =>
    let base := 192 + 40000 * p.1
    if good < base + 8 then none
    else if tileHdrBad h (secs.take p.1) p.2 then some ⟨Cause.badfield, p.1, 0, 0⟩
    else
      ((List.range 192).zip p.2.sites).findSome? fun q =>
        let g := min 26 ((good - (base + 64 + 208 * q.1)) / 8)
        if g = 0 then none
        else
          let ports := (List.range (hdrNentry h)).filterMap fun n =>
            let (t, site, port) := hdrEntry h n
            if t = p.1 ∧ site = q.1 then some port else none
          (siteBreach full g bs p.2.lt q.1 q.2 ports (hdrNentry h)).map fun x => ⟨x.1, p.1, q.1, x.2⟩

end Sys2Proof.Machine
end

