-- ==== Sys2Proof/Machine/Depth.lean ====
section
/-! DEFINITION. Delay matching: forks, joins, paths between them, and the grant of depths at install (R185 to R188). -/

namespace Sys2Proof.Machine

open Sys2Proof

/-- A part of a path: a word of a box, an output, an input or a tile crossing. Boxes and elements by logical tile and
site; those of outputs and inputs are the logical sites of elements. -/
inductive PNode where
  | word (lt site k : Nat)
  | out (lt site k : Nat)
  | inp (lt site k : Nat)
  | cross (lt site k : Nat)
deriving DecidableEq, Repr

/-- Where a path begins: the source of a fan group, or a slot that writes several outputs (R186). -/
inductive Fork where
  | fan (lt site src : Nat)
  | slot (lt site n : Nat)
deriving DecidableEq, Repr

/-- A path from a fork to an input of a join, its parts from the fork on, and the elements it passes through. -/
structure Path where
  fork : Fork
  nodes : List PNode
  elems : List (Nat × Nat)
deriving DecidableEq, Repr

/-! ### What elements do with tokens (R186) -/

/-- The enabled slots of an element with their rows and fields. -/
def Elem.slotRows (e : Elem) : List (Nat × Entry × SlotF) :=
  (List.range 16).filterMap fun n =>
    if e.sen n then
      match decodeSlot e.kind (e.slotWord n) with
      | .ok i =>
        match entry i, slotF i with
        | some x, some f => some (n, x, f)
        | _, _ => none
      | .error _ => none
    else none

/-- Outputs that a slot writes. -/
def slotWrites (x : Entry) (f : SlotF) : List Nat := if x.dst.used then outsOf f.dst.toNat else []

/-- Whether an element passes from input a to output k. -/
def Elem.passesTo (e : Elem) (a k : Nat) : Bool :=
  e.slotRows.any fun r => (readInputs r.2.1 r.2.2 ++ deqInputs r.2.2).contains a && (slotWrites r.2.1 r.2.2).contains k

/-- Slots of an element that are forks and write output k. -/
def Elem.forkSlots (e : Elem) (k : Nat) : List Nat :=
  (e.slotRows.filter fun r => decide (12 ≤ r.2.2.dst.toNat) && (slotWrites r.2.1 r.2.2).contains k).map (·.1)

/-- Whether an element is a join. The inputs that IRDY and DEQ of a slot name are counted together (DEDUCED, log 105). -/
def Elem.isJoin (e : Elem) : Bool :=
  e.imode != 0 || e.slotRows.any fun r =>
    decide (2 ≤ ((List.range 4).filter fun k => nib r.2.2.irdy k || nib r.2.2.deq k).length)

/-! ### Paths, from the join back (R186) -/

/-- Where a walk back stands: at a word, an output or an input. -/
inductive PPos where
  | word (b : Box) (k : Nat)
  | out (e : Elem) (k : Nat)
  | inp (e : Elem) (k : Nat)

/-- Whether some parts pass through the fan group of a word of a box: a path from that fork over them would contain a
cycle. -/
def throughFan (b : Box) (k : Nat) (nodes : List PNode) : Bool :=
  (List.range b.words.length).any fun j =>
    swMode (b.word j) == 4 && swSource (b.word j) == swSource (b.word k) && nodes.contains (.word b.lt b.site j)

/-- The paths that end in the parts nodes, walking back from a place; the first number bounds their length. No path returns
through its own fork. -/
def pathsBack (bs : List Box) (es : List Elem) (join : Nat × Nat) :
    Nat → PPos → List PNode → List (Nat × Nat) → List Path
  | 0, _, _, _ => []
  | n + 1, .inp e a, nodes, elems =>
    let x := PNode.inp e.ref.lt e.ref.site a
    if nodes.contains x then []
    else
      match boxAt bs e.ref.lt e.psite with
      | none => []
      | some b =>
        match b.wordTo (4 + a) with
        | some k => pathsBack bs es join n (.word b k) (x :: nodes) elems
        | none => []
  | n + 1, .word b k, nodes, elems =>
    let x := PNode.word b.lt b.site k
    if nodes.contains x then []
    else
      let w := b.word k
      let ns := x :: nodes
      let here := if swMode w = 4 ∧ ¬ throughFan b k nodes then [⟨.fan b.lt b.site (swSource w), ns, elems⟩] else []
      let more :=
        if isSide (swSource w) then
          match driver bs b (swSource w) with
          | some (y, j, c) =>
            pathsBack bs es join n (.word y j) (if c then .cross y.lt y.site j :: ns else ns) elems
          | none => []
        else
          match es.find? fun e => decide (e.ref.lt = b.lt ∧ e.psite = b.site) with
          | some e => pathsBack bs es join n (.out e (swSource w - 4)) ns elems
          | none => []
      here ++ more
  | n + 1, .out e k, nodes, elems =>
    let x := PNode.out e.ref.lt e.ref.site k
    let me := (e.ref.lt, e.ref.site)
    if nodes.contains x then []
    else
      let ns := x :: nodes
      let here := if elems.contains me then [] else (e.forkSlots k).map fun m => ⟨.slot e.ref.lt e.ref.site m, ns, elems⟩
      let more :=
        if me = join ∨ elems.contains me then []
        else ((List.range 4).filter fun a => e.passesTo a k).flatMap fun a =>
          pathsBack bs es join n (.inp e a) ns (me :: elems)
      here ++ more

/-- Bound of a path's length: every word, crossing, output and input once. -/
def pathFuel (bs : List Box) (es : List Elem) : Nat := 16 * bs.length + 8 * es.length + 1

/-- The paths to input j of an element. -/
def pathsTo (bs : List Box) (es : List Elem) (e : Elem) (j : Nat) : List Path :=
  pathsBack bs es (e.ref.lt, e.ref.site) (pathFuel bs es) (.inp e j) [] []

/-- Paths to different inputs are reconvergent when they share their fork and no stage (R186). -/
def Path.meets (p q : Path) : Bool := p.fork == q.fork && p.nodes.all fun x => !q.nodes.contains x

/-! ### Capacity, latency, hold (R178, R186) -/

def wordOfNode (bs : List Box) (lt site k : Nat) : BitVec 16 :=
  match boxAt bs lt site with
  | some b => b.word k
  | none => 0

/-- Capacity of a part, with the depths granted so far. -/
def nodeCap (bs : List Box) (x : PNode) : Nat :=
  match x with
  | .out _ _ _ => 2
  | .inp _ _ _ => 4
  | .cross _ _ _ => 1
  | .word lt site k =>
    let w := wordOfNode bs lt site k
    if !swReg w then 0
    else
      match swMode w with
      | 1 => (match boxAt bs lt site with | some b => b.depth.getD k 0 | none => 0)
      | 2 => 2 * (ctSide w * ctSide w)
      | 3 => 3
      | _ => 1

def nodeLat (bs : List Box) (x : PNode) : Nat :=
  match x with
  | .out _ _ _ => 0
  | .inp _ _ _ => 0
  | .cross _ _ _ => 1
  | .word lt site k => boolN (swReg (wordOfNode bs lt site k))

/-- The hold of a width-adapt word (R191). -/
def waHold (w : BitVec 16) : Nat := ceilDiv (ceilDiv 64 (waOut w) * waIn w) 64

/-- What a part adds to the hold of its path. -/
def nodeHold (bs : List Box) (x : PNode) : Nat :=
  match x with
  | .word lt site k =>
    let w := wordOfNode bs lt site k
    match swMode w with
    | 2 => ctSide w * ctSide w - 1
    | 3 => waHold w - 1
    | _ => 0
  | _ => 0

def natSum (l : List Nat) : Nat := l.foldl (· + ·) 0

def Path.kappa (p : Path) (bs : List Box) : Nat := natSum (p.nodes.map (nodeCap bs))
def Path.lambda (p : Path) (bs : List Box) : Nat := natSum (p.nodes.map (nodeLat bs)) + p.elems.length
def Path.eta (p : Path) (bs : List Box) : Nat := 1 + natSum (p.nodes.map (nodeHold bs))

/-! ### The grant (R187) -/

/-- Delay-match places of a box that are not granted (R194). -/
def Box.pool (b : Box) : Nat := 64 - natSum b.depth

/-- Grow the delay-match words of a path, those nearest to the join first, until its capacity is at least need. -/
def growTo (need : Nat) (p : Path) : List PNode → List Box → List Box
  | [], bs => bs
  | x :: xs, bs =>
    let have_ := p.kappa bs
    if need ≤ have_ then bs
    else
      match x with
      | .word lt site k =>
        match boxAt bs lt site with
        | some b =>
          if swMode (b.word k) = 1 then
            let more := min (ceilDiv (need - have_) 4 * 4) (b.pool / 4 * 4)
            growTo need p xs (putBoxIn' bs { b with depth := b.depth.modify k (· + more) })
          else growTo need p xs bs
        | none => growTo need p xs bs
      | _ => growTo need p xs bs
where
  putBoxIn' (bs : List Box) (b : Box) : List Box := bs.map fun x => if x.lt = b.lt ∧ x.site = b.site then b else x

/-- Grow one path against those it meets; on failure, the shortfall. -/
def growPath (p : Path) (qs : List Path) (bs : List Box) : Except Nat (List Box) :=
  let rs := qs.filter p.meets
  let least := (rs.map fun q => q.eta bs).foldl max 0
  let aim := (rs.map fun q => q.eta bs + (q.lambda bs - p.lambda bs)).foldl max 0
  let x := growTo aim p p.nodes.reverse bs
  if aim ≤ p.kappa x then .ok x
  else
    let y := growTo least p p.nodes.reverse bs
    if least ≤ p.kappa y then .ok y else .error (least - p.kappa y)

/-- A refused grant: section, site, input and shortfall. -/
structure Short where
  sec : Nat
  site : Nat
  input : Nat
  tokens : Nat
deriving DecidableEq, Repr

/-- Grant the depths of one join, input after input. Of several paths to one input that share a pool of words, each grows in
the order of pathsTo, over what those before it were granted (DESIGN CHOICE, log 106). -/
def grantJoin (es : List Elem) (sec : Nat) (e : Elem) (acc : Except Short (List Box)) : Except Short (List Box) :=
  (List.range 4).foldl (fun acc j =>
    match acc with
    | .error x => .error x
    | .ok bs =>
      let qs := ((List.range 4).filter fun i => i != j).flatMap fun i => pathsTo bs es e i
      (pathsTo bs es e j).foldl (fun acc p =>
        match acc with
        | .error x => .error x
        | .ok bs =>
          match growPath p qs bs with
          | .ok x => .ok x
          | .error n => .error ⟨sec, e.ref.site, j, n⟩) (.ok bs)) acc

/-- Grant the depths of a configuration, joins by section and site (R187); secs holds the logical tile of each
section. -/
def grantAll (secs : List Nat) (es : List Elem) (bs : List Box) : Except Short (List Box) :=
  ((List.range secs.length).zip secs).foldl (fun acc p =>
    (List.range 192).foldl (fun acc site =>
      match es.find? fun e => decide (e.ref.lt = p.2 ∧ e.ref.site = site) with
      | some e => if e.isJoin then grantJoin es p.1 e acc else acc
      | none => acc) acc) (.ok bs)

/-- Delay-match words of a configuration (R373). -/
def dmWords (bs : List Box) : Nat := natSum (bs.map fun b => (b.words.filter fun w => w != 0 && swMode w == 1).length)

end Sys2Proof.Machine
end

