-- ==== Sys2Proof/Machine/Mapper.lean ====
section
/-! DEFINITION. The mapper: origins, substitution of fenced elements, extension of their routes, and the caliber cache
(R377). -/

namespace Sys2Proof.Machine

open Sys2Proof

/-! ### Tiles of a die -/

/-- A tile of a die that no fabric load holds. -/
def State.tileFree (s : State) (die pt : Nat) : Bool := (s.residentOn (pkgTile die pt)).isNone

/-- The fence maps of a tile. -/
def State.fmaps (s : State) (die pt : Nat) : List Word :=
  match s.seq? (pkgTile die pt) with
  | some q => q.fmap
  | none => []

/-- Whether a site of a tile is fenced. -/
def State.siteFenced (s : State) (die pt site : Nat) : Bool := bitAt ((s.fmaps die pt).getD (site / 64) 0) (site % 64)

def State.tileFenced (s : State) (die pt : Nat) : Bool := bitAt ((s.fmaps die pt).getD 3 0) 0

/-- Tiles of a die that a vote's execution must not use (R446): the exclusion sets of the ready executions and frame owners
of a configuration that no fabric load takes, as package tiles. -/
def State.voteFence (s : State) (die : Nat) (cfgid : Word) : List Nat :=
  match s.die? die with
  | none => []
  | some d => (d.ready.filter fun r =>
      s.trCfgid r.handle == cfgid && (s.isOwner r.handle || (s.loadFor r).isNone)).flatMap (·.excl)

/-! ### Origins -/

/-- The physical tile of each logical tile at an origin; none when one does not exist. -/
def tilesAt (origin : Nat) (lts : List Nat) : Option (List (Nat × Nat)) :=
  lts.foldr (fun lt acc =>
    let c := origin % 8 + lt % 8
    let r := origin / 8 + lt / 8
    if c < 8 ∧ r < 6 then acc.map fun l => (lt, r * 8 + c) :: l else none) (some [])

/-- Whether an origin fits: every tile is free, or one of those that are to be freed, is allowed, and is not fenced. -/
def State.originFits (s : State) (die allowed : Nat) (fenced freed : List Nat) (ts : List (Nat × Nat)) : Bool :=
  ts.all fun p =>
    (s.tileFree die p.2 || freed.contains p.2) && (allowed == 0 || allowed.testBit p.2) && !s.tileFenced die p.2 &&
    !fenced.contains (pkgTile die p.2)

/-! ### Extension of routes -/

/-- The hops from a site to another, first along the row, then along the column: sides 0 to 3. -/
def hopsTo (a b : Nat) : List Nat :=
  let dc := if a % 16 ≤ b % 16 then List.replicate (b % 16 - a % 16) 1 else List.replicate (a % 16 - b % 16) 3
  let dr := if a / 16 ≤ b / 16 then List.replicate (b / 16 - a / 16) 2 else List.replicate (a / 16 - b / 16) 0
  dc ++ dr

/-- The hops of the way back. -/
def hopsBack (hs : List Nat) : List Nat := hs.reverse.map fun h => (h + 2) % 4

/-- The site a hop leads to. -/
def hopSite (site h : Nat) : Nat := match h with | 0 => site - 16 | 1 => site + 1 | 2 => site + 16 | _ => site - 1

/-- A box of a list, one with no used word where the list holds none. -/
def boxOr (bs : List Box) (lt site : Nat) : Box :=
  (boxAt bs lt site).getD (mkBox ⟨0, 0⟩ lt site (List.replicate 16 0) 0)

def putBoxIn (bs : List Box) (b : Box) : List Box :=
  if (boxAt bs b.lt b.site).isSome then bs.map fun x => if x.lt = b.lt ∧ x.site = b.site then b else x else bs ++ [b]

/-- A destination of a box for a hop: lane a when it is unused, else lane b. -/
def freeLane (b : Box) (h : Nat) : Option Nat :=
  if (b.wordTo h).isNone then some h else if (b.wordTo (8 + h)).isNone then some (8 + h) else none

/-- Whether a box may carry an identifier for one more destination of a route: no other route there has it (R55). -/
def idFree (bs : List Box) (b : Box) (id : BitVec 5) (o : Option (Nat × Nat × Nat)) : Bool :=
  (List.range 16).all fun k =>
    b.word k == 0 || ridAt b.rids (swDest (b.word k)) != id || origin bs (routeFuel bs) b k == o

def setRid (rids : Word) (d : Nat) (id : BitVec 5) : Word := setFld rids (5 * d) 5 id.toNat

/-- A pass word with REG = 1. -/
def passWord (dest src : Nat) : BitVec 16 := BitVec.ofNat 16 (dest * 2 ^ 12 + src * 2 ^ 8 + 0x80)

/-- Add a pass word to a box. -/
def Box.addPass (b : Box) (dest src : Nat) (id : BitVec 5) : Option Box :=
  match (List.range 16).find? fun k => b.word k == 0 with
  | some k => some { b with words := b.words.set k (passWord dest src), rids := setRid b.rids dest id }
  | none => none

/-- Pass words along hops from a site, entered at src, to a last destination: the boxes and the source code at which
the last box is entered when last is none. -/
def extend (o : Option (Nat × Nat × Nat)) (id : BitVec 5) (lt : Nat) (last : Option Nat) :
    List Nat → List Box → Nat → Nat → Option (List Box × Nat)
  | [], bs, site, src =>
    match last with
    | none => some (bs, src)
    | some d =>
      let b := boxOr bs lt site
      if (b.wordTo d).isSome || !idFree bs b id o then none
      else (b.addPass d src id).map fun x => (putBoxIn bs x, src)
  | h :: hs, bs, site, src =>
    let b := boxOr bs lt site
    match freeLane b h with
    | none => none
    | some d =>
      if !idFree bs b id o then none
      else
        match b.addPass d src id with
        | none => none
        | some x => extend o id lt last hs (putBoxIn bs x) (hopSite site h) (opposite d)

/-- Extend the route that ends at input j of a fenced site to the new site. -/
def extendIn (lt f n j : Nat) (bs : List Box) : Option (List Box) :=
  let b := boxOr bs lt f
  match b.wordTo (4 + j), hopsTo f n with
  | some k, h :: hs =>
    let w := b.word k
    let id := ridAt b.rids (4 + j)
    let o := origin bs (routeFuel bs) b k
    match freeLane b h with
    | none => none
    | some d =>
      let w' : BitVec 16 := BitVec.ofNat 16 (d * 2 ^ 12 + w.toNat % 2 ^ 12)
      let x := { b with words := b.words.set k w', rids := setRid (setRid b.rids (4 + j) 0) d id }
      (extend o id lt (some (4 + j)) hs (putBoxIn bs x) (hopSite f h) (opposite d)).map (·.1)
  | _, _ => some bs

/-- Extend the route that begins at output k of a fenced site from the new site. -/
def extendOut (lt f n k : Nat) (bs : List Box) : Option (List Box) :=
  let b := boxOr bs lt f
  match b.wordsFrom (4 + k) with
  | [] => some bs
  | j :: _ =>
    let id := ridAt b.rids (swDest (b.word j))
    let src := 4 + k
    if !(((boxOr bs lt n).wordsFrom src).isEmpty) then none
    else
      match extend (some (lt, f, src)) id lt none (hopsBack (hopsTo f n)) bs n src with
      | none => none
      | some (bs', into) =>
        let b' := boxOr bs' lt f
        let moved := b'.words.map fun w =>
          if w ≠ 0 ∧ swSource w = src then BitVec.ofNat 16 (w.toNat / 2 ^ 12 * 2 ^ 12 + into * 2 ^ 8 + w.toNat % 2 ^ 8)
          else w
        some (putBoxIn bs' { b' with words := moved })

/-- Extend every route of a fenced site, inputs first. -/
def extendAll (lt f n : Nat) (bs : List Box) : Option (List Box) :=
  let step (g : Nat → List Box → Option (List Box)) (acc : Option (List Box)) (k : Nat) : Option (List Box) := acc.bind (g k)
  let x := (List.range 4).foldl (step (extendIn lt f n)) (some bs)
  (List.range 4).foldl (step (extendOut lt f n)) x

/-! ### Substitution -/

/-- What the mapper has of a section: logical tile, and the ECW of each site. -/
structure MapTile where
  lt : Nat
  ecws : List Word

/-- Substitute the fenced elements of one tile. -/
def State.substitute (s : State) (die pt : Nat) (m : MapTile) (acc : Option (List (Nat × Nat × Nat) × List Box)) :
    Option (List (Nat × Nat × Nat) × List Box) :=
  ((List.range 192).filter fun f => m.ecws.getD f 0 != 0 && s.siteFenced die pt f).foldl (fun acc f =>
    acc.bind fun (subs, bs) =>
      let taken := (subs.filter fun x => x.1 == m.lt).map fun x => x.2.2
      let fit (n : Nat) : Bool :=
        kindAt n == kindAt f && m.ecws.getD n 0 == 0 && !s.siteFenced die pt n && !taken.contains n
      match (List.range 192).find? fit with
      | none => none
      | some n => (extendAll m.lt f n bs).map fun bs' => (subs ++ [(m.lt, f, n)], bs')) acc

/-- The placement at an origin whose tiles are given; none when a substitution or an extension is impossible. -/
def State.placingAt (s : State) (die : Nat) (ms : List MapTile) (bs : List Box) (ts : List (Nat × Nat)) : Option Placing :=
  let x := (ts.zip ms).foldl (fun acc p => s.substitute die p.1.2 p.2 acc) (some ([], bs))
  x.map fun (subs, bs') =>
    { tiles := ts, subs := subs
      ext := (bs'.filter fun b => !bs.contains b).map fun b => ⟨b.lt, b.site, b.words, b.rids⟩ }

/-- What a fence map of the tiles covered holds: the key of the caliber cache. -/
def State.fenceKey (s : State) (die : Nat) (ts : List (Nat × Nat)) : List Word := ts.flatMap fun p => s.fmaps die p.2

/-- A placement found: its origin and whether the caliber cache held it. -/
structure Placed where
  origin : Nat
  hit : Bool
  pl : Placing

/-- The first origin that fits and can be placed (R377). -/
def State.mapTiles (s : State) (d : Die) (cfgid : Word) (allowed : Nat) (freed : List Nat) (ms : List MapTile)
    (bs : List Box) : Option Placed :=
  let fenced := s.voteFence d.n cfgid
  (List.range 48).findSome? fun o =>
    match tilesAt o (ms.map (·.lt)) with
    | none => none
    | some ts =>
      if !s.originFits d.n allowed fenced freed ts then none
      else
        let key := s.fenceKey d.n ts
        match d.caliber.find? fun c => decide (c.cfgid = cfgid ∧ c.origin = o ∧ c.fences = key) with
        | some c => some ⟨o, true, c.pl⟩
        | none => (s.placingAt d.n ms bs ts).map fun pl => ⟨o, false, pl⟩

/-- Keep a placement in the caliber cache: 256 places, least recently used last. -/
def Die.keepPlacing (d : Die) (c : Caliber) : Die :=
  { d with caliber := (c :: d.caliber.filter fun x =>
      decide (¬(x.cfgid = c.cfgid ∧ x.origin = c.origin ∧ x.fences = c.fences))).take 256 }

/-- The boxes of an image with the words of a placement. -/
def Placing.apply (p : Placing) (l : LoadRef) (bs : List Box) : List Box :=
  p.ext.foldl (fun bs x => putBoxIn bs (mkBox l x.lt x.site x.words x.rids)) bs

end Sys2Proof.Machine
end

