-- ==== Sys2Proof/Machine/Retire.lean ====
section
/-! DEFINITION. Retirement of fabric loads: the conditions of R27, ABND's side of it, and the reconfiguration token
(R21, R27, R32, R304, R376). -/

namespace Sys2Proof.Machine

open Sys2Proof

/-- Whether an entry's queue and refill buffer are empty. -/
def EntryQ.drained (q : EntryQ) : Bool := q.count == 0 && q.reqs.isEmpty && q.buf.isEmpty

/-- Whether a dispatch to a fabric load is in progress. -/
def State.dispatching (s : State) (l : LoadRef) : Bool :=
  s.dies.any fun d => match d.disp with | some p => p.load == l | none => false

/-- Whether a fabric load holds no thread token: its entry queues are empty and no task is dispatched to it (R27). -/
def State.noThreads (s : State) (x : Load) : Bool :=
  x.entries.all EntryQ.drained && x.slots.all Option.isNone && !s.dispatching x.ref

/-- Whether engines, accesses and remote requests of a fabric load are over (R304, R398). -/
def State.loadDrained (s : State) (l : LoadRef) : Bool :=
  s.cmds.all (fun c => c.ref.load != l) && s.accs.all (fun a => a.ref.load != l || a.op.isDrain) &&
  s.remotes.all (fun r => r.ref.load != l || r.what.isProbe) &&
  s.dies.all (fun d =>
    d.adm.all (fun q => match q.who with | .mpe r _ _ => r.load != l | .host _ _ => true) &&
    d.gde.all (fun g => g.reqs.all fun q => q.ref.load != l) && d.gdeWait.all fun g => g.req.ref.load != l)

/-- Retirement begins: no task is dispatched to the fabric load any more. -/
def State.beginRetire (s : State) (l : LoadRef) : State :=
  s.modLoad l fun x => { x with phase := .retiring, phaseAt := s.clock }

/-- RETIRE is to be set on a tile when the token passes. -/
def State.retireFor (s : State) (l : LoadRef) (tile : Nat) : State :=
  s.modLoad l fun x => { x with retireFor := if x.retireFor.contains tile then x.retireFor else x.retireFor ++ [tile] }

/-- Whether a pending trap is one of a fabric load. -/
def PTrap.ofLoad (l : LoadRef) (p : PTrap) : Bool :=
  match p.src with
  | .elem r => r.load == l
  | .box x _ _ _ => x == l
  | .preempt x => x == l
  | .restore x => x == l
  | _ => false

/-- A fabric load goes: its tiles, routes and number are returned, its elements are power-gated. -/
def State.removeLoad (s : State) (l : LoadRef) : State :=
  { s with
    loads := s.loads.filter fun x => decide (x.ref ≠ l)
    elems := s.elems.filter fun e => decide (e.ref.load ≠ l)
    boxes := s.boxes.filter fun b => decide (b.load ≠ l)
    seqs := s.seqs.map fun q => { q with pend := q.pend.filter fun p => !p.ofLoad l } }

/-- RECONFIGURATION_TOKEN_PASS: a retiring fabric load whose bound engines have drained returns its tiles, and RETIRE is
set where an ABND asked for it. -/
def execReconfigurationTokenPass (s : State) : Out :=
  match s.actor with
  | .load l =>
    match s.load? l with
    | none => .next s
    | some x =>
      if x.phase ≠ .retiring ∨ ¬ s.loadDrained l then .next s
      else .next (x.retireFor.foldl (fun s t => s.setEvent t 2) ((s.removeLoad l).wantChoice l.die))
  | _ => .fault .noActor

/-- Idle fabric loads of a die, the least recently dispatched first (R348). -/
def State.idleLoads (s : State) (die : Nat) : List Load :=
  let xs := s.loads.filter fun x => decide (x.ref.die = die) && x.phase == .resident && s.noThreads x && s.loadDrained x.ref
  sortBy (fun a b => decide (a.lastDisp ≤ b.lastDisp)) xs

end Sys2Proof.Machine
end

