-- ==== Sys2Proof/Machine/Install.lean ====
section
/-! DEFINITION. Configuration install and ABND (R373 to R377, R440). -/

namespace Sys2Proof.Machine

open Sys2Proof

/-- sq.INSTST (R375). Where no section, site or item is concerned, the field is 0 (log 82). -/
def instst (cause sec site item amount state : Nat) : Word :=
  wordOfFields [(0, state), (16, min 0xFFF amount), (28, item), (32, site), (40, sec), (48, cause)]

def State.setInstst (s : State) (tile : Nat) (v : Word) : State := s.modSeq tile fun q => { q with instst := v }

/-- The install of a die is over: sq.INSTST of the issuing tile tells how, and its INSTDONE event is set (R371). Tiles that
it held and does not keep are free again (R346). -/
def State.endInstall (s : State) (d : Nat) (i : Install) (v : Word) : State :=
  (s.modDie d fun x => { x with inst := none, csDue := x.csDue || (i.pl.isSome && fld v 0 16 != 2) }).setInstst i.tile v
    |>.setEvent i.tile 1

/-- Causes that lie in the image itself (R375). -/
def imageCause (c : Nat) : Bool :=
  c == Cause.badop || c == Cause.badkind || c == Cause.badfield || c == Cause.badroute || c == Cause.depth || c == Cause.badid

/-- READY tasks of a die that name a configuration become ABANDONED with a cause (R375). -/
def State.abandonReady (s : State) (d : Nat) (cfgid : Word) (cause : Nat) : State :=
  match s.die? d with
  | none => s
  | some x => (s.readyOf x cfgid).foldl (fun s r => s.abandonRec r.handle cause) s

/-- An install is refused (R375). -/
def State.refuseInstall (s : State) (d : Nat) (i : Install) (cause sec site item amount : Nat) : State :=
  let s1 := s.endInstall d i (instst cause sec site item amount 3)
  if imageCause cause then s1.abandonReady d (hdrCfgid i.hdr) cause else s1

/-- Change the install of a die. -/
def State.modInstall (s : State) (d : Nat) (f : Install → Install) : State :=
  s.modDie d fun x => { x with inst := x.inst.map f }

/-! ### INST (R373, R374) -/

/-- INST: starts an install on the tile's die, or is refused with INSTALL_BUSY. An address that is no multiple of 8,
or b[63:48] not zero, is ILLEGAL (R428). -/
def execInstWord (a b : BitVec 5) (s : State) : Out :=
  withSeq s fun t q =>
    let va := q.reg a
    let m := q.reg b
    let d := t / 48
    if ¬ q.priv then s.trapQ t Cause.privilege
    else if fld va 0 3 ≠ 0 ∨ fld m 48 16 ≠ 0 then s.trapQ t Cause.illegal
    else
      let s1 := s.modSeq t fun q => { q.next with busy := s.clock + 1 }
      match s.die? d with
      | none => s1
      | some x =>
        if x.inst.isSome then (s1.setInstst t (instst Cause.busy 0 0 0 0 3)).setEvent t 1
        else
          let i : Install :=
            { tile := t, va := va.toNat, allowed := fld m 0 48, step := 1, due := s.clock + 120, hdr := [], pl := none,
              origin := 0, fences := [], elems := [], boxes := [], groups := [], hash := 0, abandon := none }
          (s1.setInstst t (instst 0 0 0 0 0 1)).modDie d fun x => { x with inst := some i }

/-! ### Steps 1 and 2 (R76, R377) -/

/-- The tile sections as an install reads them, with what the read left. -/
def State.readSections (s : State) (i : Install) : Option (ImgRead × List TileSec) :=
  (s.seq? i.tile).map fun q =>
    let x := s.readImage q (i.va + 192) (40000 * hdrNtile i.hdr)
    ({ x with good := x.good + 192 }, sections (hdrNtile i.hdr) x.bytes)

/-- Tiles of the fabric loads of a die that are retiring already. -/
def State.leavingTiles (s : State) (d : Nat) : List Nat :=
  (s.loads.filter fun x => decide (x.ref.die = d) && x.phase == .retiring).flatMap fun x => x.tiles.map (·.pt)

/-- K of a configuration on a die (R346). -/
def State.cfgK (s : State) (d : Die) (c : Word) : Nat := if (s.readyOf d c).isEmpty then 0 else (s.ckey d c).k

/-- Whether the scheduler may ask for pre-emption of a fabric load: resident beyond RES × 1,024 clocks, RES not 0, with a
frame owner (R347, R348, R433). -/
def State.mayEvict (s : State) (x : Load) : Bool :=
  let res := fld (s.dv.csage.getD x.ref.die 0) 16 16
  x.phase == .resident && res != 0 && decide (x.since + res * 1024 < s.clock) &&
  x.slots.any fun t => match t with | some t => t.frame != 0 | none => false

/-- Highest PRIO among the tasks dispatched to a fabric load. -/
def State.loadPrio (s : State) (x : Load) : Nat :=
  (x.slots.map fun t => match t with | some t => s.trPrio t.handle | none => 0).foldl max 0

/-- Fabric loads in the order in which the scheduler asks for their pre-emption (R348). -/
def State.evictOrder (s : State) (d : Nat) : List Load :=
  sortBy (fun a b => decide (s.loadPrio a < s.loadPrio b ∨ (s.loadPrio a = s.loadPrio b ∧ a.since ≤ b.since)))
    (s.loads.filter fun x => decide (x.ref.die = d) && s.mayEvict x)

/-- The shortest beginning of a list of fabric loads whose tiles let the mapper place a configuration. -/
def enough (fits : List Nat → Bool) : List Nat → List Load → List Load → Option (List Load)
  | freed, taken, [] => if fits freed then some taken else none
  | freed, taken, x :: xs =>
    if fits freed then some taken else enough fits (freed ++ x.tiles.map (·.pt)) (taken ++ [x]) xs

/-- Try to place the tiles of an install whose header is read (R348, R377): in free tiles; else in tiles that come free
when idle fabric loads are retired, for which the install waits; else not at all, and then the scheduler asks for
pre-emption when K = 15. The tile headers are checked in step 4 alone: a logical position that lies off the die is taken as
8 × row + column, so it may end with NOPLACE in step 2 or with BADFIELD in step 4 (DEDUCED, log 104). -/
def State.tryPlace (s : State) (d : Nat) (i : Install) : State :=
  match s.die? d, s.readSections i with
  | some x, some (_, secs) =>
    let ms := secs.map fun t => ⟨t.lt, t.sites.map (·.ecw)⟩
    let bs := secs.flatMap (TileSec.boxes ⟨d, 0⟩)
    let c := hdrCfgid i.hdr
    let n := hdrNtile i.hdr
    let map_ (freed : List Nat) : Option Placed := s.mapTiles x c i.allowed freed ms bs
    let fits (freed : List Nat) : Bool := (map_ freed).isSome
    match map_ [] with
    | some p =>
      let clocks := if p.hit then 16 else 200 + 40 * n + 100 * p.pl.subs.length
      s.modInstall d fun i => { i with
        step := 2, pl := some p.pl, origin := p.origin, fences := s.fenceKey d p.pl.tiles, due := s.clock + clocks }
    | none =>
      let idle := s.idleLoads d
      match enough fits (s.leavingTiles d) [] idle with
      | some xs =>
        (xs.foldl (fun s x => s.beginRetire x.ref) s).modInstall d fun i => { i with due := s.clock + 1 }
      | none =>
        let s1 := s.modInstall d fun i => { i with step := 2, due := s.clock + 200 + 40 * n }
        if s.cfgK x c = 15 then
          match enough fits (s.leavingTiles d ++ idle.flatMap fun x => x.tiles.map (·.pt)) [] (s.evictOrder d) with
          | some ys => s1.push (ys.map fun y => .event .preempt (.loadN y.ref 0))
          | none => s1
        else s1
  | _, _ => s

/-- The install of a die whose step is over. -/
def State.instAt (s : State) (d step : Nat) : Option Install :=
  ((s.die? d).bind (·.inst)).filter fun i => i.step == step && decide (i.due ≤ s.clock) && i.abandon.isNone

/-- Step 1 ends: the header and the entry table are read and checked in byte order, and the mapper begins. A breach there
has SECTION, SITE and ITEM 0 (log 82). -/
def State.readHeader (s : State) (d : Nat) (i : Install) : State :=
  match s.seq? i.tile with
  | none => s
  | some q =>
    let x := s.readImage q i.va 192
    let s1 := s.imgDone i.tile x
    let h := wordsOf x.bytes
    let i1 := { i with hdr := h }
    if (List.range (x.good / 8)).any (fun n => !hdrWordOk h n) then s1.refuseInstall d i1 Cause.badfield 0 0 0 0
    else if x.cause ≠ 0 then (s1.logRead i.tile x.cause).refuseInstall d i1 x.cause 0 0 0 0
    else (s1.modInstall d fun _ => i1).tryPlace d i1

/-- INSTALL_PLACEMENT: at the end of step 1, and again while the install waits for tiles; at the end of step 2 an
install that has no place is refused. -/
def execInstallPlacement (s : State) : Out :=
  match s.actor with
  | .die d =>
    match s.instAt d 1 with
    | some i => .next (if i.hdr.isEmpty then s.readHeader d i else s.tryPlace d i)
    | none =>
      match s.instAt d 2 with
      | some i => .next (if i.pl.isNone then s.refuseInstall d i Cause.noplace 0 0 0 0 else s)
      | none => .next s
  | _ => .fault .noActor

/-- INSTALL_WAKE: step 2 has ended with a placement, and step 3 wakes what is used. -/
def execInstallWake (s : State) : Out :=
  match s.actor with
  | .die d =>
    match s.instAt d 2 with
    | some i => .next (if i.pl.isSome then s.modInstall d fun i => { i with step := 3, due := s.clock + 400 } else s)
    | none => .next s
  | _ => .fault .noActor

/-! ### Step 4 (R52, R373) -/

/-- Inputs of a CE that are checked (R156). -/
def Elem.checkedInputs (e : Elem) : List Bool :=
  (List.range 4).map fun k =>
    e.kind == .ce &&
    ((e.imode != 0 && (k == e.pairA || k == e.pairB)) ||
     (List.range 16).any fun n =>
       e.sen n && match decodeSlot e.kind (e.slotWord n) with
         | .ok (.cmerge f) => f.srca.toNat == k || f.srcb.toNat == k
         | _ => false)

/-- The element of a used site record, at its tile and site (R48, R105, R373). -/
def mkElem (r : ElemRef) (pt psite : Nat) (x : SiteRec) : Elem :=
  let e := { Elem.blank r pt psite with
    ecw := x.ecw, slots := x.slots, c := x.consts.map fun w => ⟨w, residue w⟩
    p := (List.range 8).map fun k => bitAt x.ecw (24 + k) }
  { e with ce := { e.ce with checked := e.checkedInputs }, rot := (List.range 4).map fun g => (e.members g).headD 0 }

/-- The physical site of an element under a placement. -/
def Placing.siteOf (p : Placing) (lt site : Nat) : Nat :=
  match p.subs.find? fun x => decide (x.1 = lt ∧ x.2.1 = site) with
  | some x => x.2.2
  | none => site

/-- The physical site of a site that the image leaves unused: none, written 256 and above, when another element has
taken it. -/
def Placing.unusedSite (p : Placing) (lt site : Nat) : Nat :=
  if p.subs.any fun x => x.1 == lt && x.2.2 == site then 256 + site else site

/-- The elements of a tile section, in a placement: those that the image uses, and every SPE, whose bank a cross access
reaches also when no slot is enabled (R196, R198). -/
def secElems (l : LoadRef) (p : Placing) (t : TileSec) (pt : Nat) : List Elem :=
  ((List.range 192).zip t.sites).filterMap fun x =>
    let r : ElemRef := ⟨l.die, l.fab, t.lt, x.1⟩
    if x.2.ecw ≠ 0 then some (mkElem r pt (p.siteOf t.lt x.1) x.2)
    else if kindAt x.1 = .spe then some (mkElem r pt (p.unusedSite t.lt x.1) x.2)
    else none

/-- An element as it is set at the end of install: sq.RNDSTEP and sq.RNDRANK of its tile (R96, R97, R105, R373; log 83). -/
def State.seeded (s : State) (e : Elem) : Elem :=
  match s.seq? (pkgTile e.ref.die e.ptile) with
  | some q => { e with rank := q.rndrank.toNat, step := q.rndstep.toNat }
  | none => e

/-- Step 3 ends: step 4 begins. -/
def State.beginStream (s : State) (d : Nat) (i : Install) : State :=
  let n := ceilDiv (imageBytes (hdrNtile i.hdr)) 256
  s.modInstall d fun i => { i with step := 4, due := s.clock + max n 1024 }

/-- Step 4 ends: the first breach refuses the install; else its elements and boxes are made. -/
def State.endStream (s : State) (d : Nat) (i : Install) : State :=
  match i.pl, s.readSections i with
  | some p, some (x, secs) =>
    let s1 := s.imgDone i.tile x
    match sectionsBreach i.hdr secs x.good with
    | some b => s1.refuseInstall d i b.cause b.sec b.site b.item 0
    | none =>
      if x.cause ≠ 0 then (s1.logRead i.tile x.cause).refuseInstall d i x.cause 0 0 0 0
      else
        let l : LoadRef := ⟨d, 48⟩
        let els := (secs.zip p.tiles).flatMap fun y => secElems l p y.1 y.2.2
        let bs := p.apply l (secs.flatMap (TileSec.boxes l))
        let all := i.hdr.flatMap (fun w => bytesOf 8 w.toNat) ++ x.bytes
        s1.modInstall d fun i =>
          { i with step := 5, elems := els, boxes := bs, groups := secs.map TileSec.groups, hash := imageId all
                   due := s.clock + 64 + 2 * dmWords bs }
  | _, _ => s

/-- INSTALL_STREAM: step 3 is over and step 4 begins, or step 4 is over. -/
def execInstallStream (s : State) : Out :=
  match s.actor with
  | .die d =>
    match s.instAt d 3 with
    | some i => .next (s.beginStream d i)
    | none =>
      match s.instAt d 4 with
      | some i => .next (s.endStream d i)
      | none => .next s
  | _ => .fault .noActor

/-! ### Step 5 (R187) -/

/-- INSTALL_DEPTH_GRANT: step 5 grants the depths, or refuses the install with INSTALL_DEPTH. -/
def execInstallDepthGrant (s : State) : Out :=
  match s.actor with
  | .die d =>
    match s.instAt d 5 with
    | none => .next s
    | some i =>
      let secs := match i.pl with
        | some p => p.tiles.map (·.1)
        | none => []
      match grantAll secs i.elems i.boxes with
      | .error x => .next (s.refuseInstall d i Cause.depth x.sec x.site x.input x.tokens)
      | .ok bs => .next (s.modInstall d fun i => { i with step := 6, boxes := bs, due := s.clock + 8 })
  | _ => .fault .noActor

/-! ### Step 6 (R349, R373, R439) -/

/-- The lowest fabric number that no fabric load of a die holds (R349). -/
def State.freeFab (s : State) (d : Nat) : Nat :=
  ((List.range 48).find? fun f => s.loads.all fun x => decide (x.ref ≠ ⟨d, f⟩)).getD 48

/-- sq.DETAIL of a PREEMPT or RESTORE trap (R435). -/
def loadDetail (lt reason frame : Nat) : Word := wordOfFields [(12, frame / 4096), (52, reason), (56, lt)]

/-- Every tile of a fabric load gets a trap of kind L (R427, R434, R439); an element trap of the same clock goes
first (R452). -/
def State.trapLoad (s : State) (l : LoadRef) (src : TrapSrc) (cause reason frame : Nat) : State :=
  match s.load? l with
  | none => s
  | some x =>
    x.tiles.foldl (fun s t =>
      s.modSeq (pkgTile l.die t.pt) fun q =>
        { q with pend := addPend ⟨src, cause, loadDetail t.lt reason frame, s.clock, 256⟩ q.pend }) s

/-- The READY frame owner whose restore waits for the next fabric load of a configuration: of several the one chosen
first (R439). -/
def State.restoreFor (s : State) (d : Die) (cfgid : Word) : Option Saved :=
  d.csRestore.findSome? fun h =>
    if s.trCfgid h = cfgid ∧ d.ready.any (fun r => r.handle == h) then
      s.saved.find? fun v => decide (v.owner = h ∧ v.die = d.n)
    else none

/-- Commit: the fabric load becomes resident, or is reserved for a restore, for which its frame owner leaves the ready
queue. -/
def State.commitInstall (s : State) (d : Nat) (x : Die) (i : Install) (p : Placing) : State :=
  let f := s.freeFab d
  let l : LoadRef := ⟨d, f⟩
  let c := hdrCfgid i.hdr
  let rest := s.restoreFor x c
  let entries := (List.range (hdrNentry i.hdr)).map fun n =>
    let (t, site, port) := hdrEntry i.hdr n
    ({ lt := (p.tiles.getD t (0, 0)).1, site := site, port := port, head := 0, count := 0, reqs := [], buf := [],
       turn := 7 } : EntryQ)
  let load : Load :=
    { ref := l, cfgid := c, tiles := (p.tiles.zip i.groups).map fun y => ⟨y.1.1, y.1.2, y.2⟩, entries := entries,
      slots := List.replicate 8 none, since := s.clock, lastDisp := s.clock,
      phase := if rest.isSome then .restoring else .resident, reason := 0, disp := none, returned := [], retireFor := [],
      restoreOf := rest.map (·.owner), heldReq := none, probes := [], phaseAt := s.clock }
  let s1 := { s with
    loads := s.loads ++ [load]
    elems := s.elems ++ i.elems.map fun (e : Elem) => { s.seeded e with ref := { e.ref with fab := f }, stopped := rest.isSome }
    boxes := s.boxes ++ i.boxes.map fun (b : Box) => { b with load := l } }
  let s2 := s1.modDie d fun y =>
    { y.keepPlacing ⟨c, i.origin, i.fences, p⟩ with
      csRestore := y.csRestore.filter fun h => rest.all fun v => v.owner != h
      ready := y.ready.filter fun r => rest.all fun v => v.owner != r.handle }
  let s3 := s2.endInstall d i (instst 0 0 0 0 0 2)
  match rest with
  | some v => s3.trapLoad l (.restore l) Cause.restore 0 v.frame
  | none => s3

/-- INSTALL_COMMIT: step 6 compares the identifier and commits. -/
def execInstallCommit (s : State) : Out :=
  match s.actor with
  | .die d =>
    match s.die? d, s.instAt d 6 with
    | some x, some i =>
      match i.pl with
      | none => .next s
      | some p =>
        if i.hash ≠ hdrCfgid i.hdr then .next (s.refuseInstall d i Cause.badid 0 0 0 0)
        else .next (s.commitInstall d x i p)
    | _, _ => .next s
  | _ => .fault .noActor

/-! ### ABND and abandoned installs (R376, R440) -/

/-- An install is to be abandoned within 64 clocks. -/
def State.abandonInstall (s : State) (d : Nat) (clocks : Nat) : State :=
  s.modInstall d fun i => { i with abandon := some (match i.abandon with | some a => a | none => s.clock + clocks) }

/-- INSTALL_ABANDON: nothing of the install remains. -/
def execInstallAbandon (s : State) : Out :=
  match s.actor with
  | .die d =>
    match (s.die? d).bind (·.inst) with
    | none => .next s
    | some i =>
      match i.abandon with
      | some a => .next (if a ≤ s.clock then s.endInstall d i (instst 0 0 0 0 0 4) else s)
      | none => .next s
  | _ => .fault .noActor

/-- ABND (R376). The install in progress is that of the fabric number it would take. -/
def execAbnd (dst a : BitVec 5) (s : State) : Out :=
  withSeq s fun t q =>
    if ¬ q.priv then s.trapQ t Cause.privilege
    else
      let f := fld (q.reg a) 0 6
      let d := t / 48
      let l : LoadRef := ⟨d, f⟩
      match s.load? l with
      | some x =>
        if x.phase = .retiring then (s.retireFor l t).seqDone t dst 0 1
        else if x.phase = .resident ∧ s.noThreads x then ((s.beginRetire l).retireFor l t).seqDone t dst 0 1
        else s.seqDone t dst 1 1
      | none =>
        if ((s.die? d).bind (·.inst)).isSome ∧ f = s.freeFab d then
          ((s.abandonInstall d (s.waitNow % 65)).tick).seqDone t dst 3 1
        else s.seqDone t dst 2 1

end Sys2Proof.Machine
end

