-- ==== Sys2Proof/Machine/MxeArray.lean ====
section
/-! DEFINITION. The multiply array and the drain port of a matrix element (R102 to R104, R232 to R239). -/

namespace Sys2Proof.Machine

open Sys2Proof

/-- The exact sum of the products of one chunk (R81, R102, R103). -/
def dot (a b : List FVal) : FVal := FVal.sumList (List.zipWith FVal.mul a b)

/-- A finite value rounded to the nearest integer, a tie toward +∞ (R104). -/
def roundTieUp (v : FVal) : Int :=
  match v with
  | .fin neg m e =>
    let (n, d) := fracOf m 1 e
    let x : Int := if neg then -(n : Int) else n
    (2 * x + d) / (2 * (d : Int))
  | _ => 0

/-- An accumulator word after one chunk sum (R102 to R104). -/
def accStep (s32 : Bool) (w : Nat) (sum : FVal) : Nat :=
  if s32 then satS 32 (sgn 32 w + roundTieUp sum)
  else addF32 w (rneF32 sum)

/-- One position: the chunks of 32 in increasing K (R102). -/
def accDot (s32 : Bool) : Nat → Nat → List FVal → List FVal → Nat
  | 0, w, _, _ => w
  | n + 1, w, a, b => accDot s32 n (accStep s32 w (dot (a.take 32) (b.take 32))) (a.drop 32) (b.drop 32)

/-- An accumulator with words of the first rows and columns replaced, LIVE, its extent raised (R232). -/
def Acc.update (a : Acc) (m n : Nat) (g : Nat → Nat → Nat → Nat) : Acc :=
  let ws := foldlRange (fun ws r => foldlRange (fun ws c =>
    sset 0 ws (32 * r + c) (g r c (sget 0 a.words (32 * r + c)))) n ws) m a.words
  { a with words := ws, st := 1, m := max a.m m, n := max a.n n }

/-- TMMA on operands as the array read them (R232). -/
def Acc.tmma (a : Acc) (ta tb : TReg) : Acc :=
  let ra := (List.range ta.rows).map ta.row
  let rb := (List.range tb.rows).map tb.row
  let chunks := ceilDiv ta.k 32
  a.update ta.rows tb.rows fun r c w => accDot a.kind chunks w (ra.getD r []) (rb.getD c [])

/-- TACC (R236). -/
def Acc.tacc (a : Acc) (t : TReg) : Acc :=
  a.update t.rows (t.cb / 4) fun r c w =>
    let x := t.bytes (r * t.cb + 4 * c) 4
    if a.kind then satS 32 (sgn 32 w + sgn 32 x) else addF32 w x

/-- What a firing of the array leaves in its accumulator (R232, R236, R239). -/
def Acc.apply (a : Acc) (j : ArrJob) : Acc :=
  if a.st = 3 then a
  else
    match j.poison with
    | some c => { a with st := 3, cause := c }
    | none =>
      match j.ops with
      | [ta, tb] => a.tmma ta tb
      | [t] => a.tacc t
      | _ => a

/-- A firing whose array clocks are over: its operands as the array read them, and poison where a read met an
uncorrectable error (R220, R239). -/
def MxeState.readOps (x : MxeState) (j : ArrJob) : ArrJob :=
  let regs := match j.tb with
    | some b => [j.ta, b]
    | none => [j.ta]
  let err := regs.any (fun t => x.badT.contains t) || x.badA.contains j.acc
  { j with
    ops := regs.map x.treg
    poison := match j.poison with
      | some c => some c
      | none => if err then some Cause.uncorrectable else none }

/-- The last array clock of a firing. -/
def ArrJob.last (j : ArrJob) : Nat := j.start + j.b - 1

/-- ARRAY_START: at the end of the last clock of the firing in progress, the accepted firing takes the array from the
next clock (R233). -/
def execArrayStart (s : State) : Out :=
  withElem s fun r e =>
    let x := e.mxe
    match x.run with
    | none => s
    | some j =>
      if s.clock < j.last then s
      else
        let j' := x.readOps j
        let x' := { x with
          ending := x.ending ++ [j'], run := x.next.map fun n => { n with start := s.clock + 1 }, next := none }
        let s1 := s.modElem r fun e => e.setMxe x'
        if j'.poison ≠ j.poison then s1.logElem e else s1

/-- ARRAY_COMPLETE: at the end of clock E + 4 the results, or poison, enter the accumulator (R233, R239). -/
def execArrayComplete (s : State) : Out :=
  withElem s fun r e =>
    let x := e.mxe
    match x.ending with
    | [] => s
    | j :: rest =>
      if s.clock < j.last + 4 then s
      else s.modElem r fun e => e.setMxe { x.setA j.acc ((x.acc j.acc).apply j) with ending := rest }

/-! ### The drain port (R237, R238) -/

/-- Lanes of a token of a format, or values of a group of BX blocks. -/
def drainSpan (fmt : Nat) : Nat :=
  match fmt with
  | 11 => 16 | 12 => 32 | 13 => 64
  | _ => 64 / tagWidth fmt

/-- Tokens of one span. -/
def drainParts (fmt : Nat) : Nat := if fmt = 12 ∨ fmt = 13 then bxGroupWords fmt else 1

/-- DATA tokens of a row of accumulator a (R237). -/
def Drain.rowTokens (d : Drain) (a : Acc) : Nat := ceilDiv a.n (drainSpan d.fmt) * drainParts d.fmt

/-- The exact value of word (r, c), zero beyond N. -/
def Acc.value (a : Acc) (r c : Nat) : Nat := if c < a.n then sget 0 a.words (32 * r + c) else 0

/-- Whether the conversion can round (R237). -/
def Drain.rounds (d : Drain) (a : Acc) : Bool :=
  if a.kind then !(d.fmt == 1 || d.fmt == 3) else d.fmt != 4

/-- DATA token number pos of the row the port stands in. Every value of a BX group is rounded with the step that its
first token found (log 30). -/
def Drain.valueTok (d : Drain) (a : Acc) (e : Elem) : Tok :=
  let src := if a.kind then 1 else 4
  let span := drainSpan d.fmt
  let parts := drainParts d.fmt
  let g := d.pos / parts
  let j := d.pos % parts
  let vals := (List.range span).map fun i => a.value d.row (g * span + i)
  let e0 := if d.rounds a && e.isSr then { e with step := (e.step + 2 ^ 32 - j) % 2 ^ 32 } else e
  if d.fmt = 11 ∨ d.fmt = 12 ∨ d.fmt = 13 then
    let blocks := (List.range (span / 16)).map fun b =>
      bxEncode d.fmt e0.rmode (fun i => e0.rnd (16 * b + i)) (((vals.drop (16 * b)).take 16).map (tagDec src))
    dataTok (BitVec.ofNat 4 d.fmt) (BitVec.ofNat 64 (packLanes (bxBits d.fmt) blocks / 2 ^ (64 * j)))
  else
    let w := tagWidth d.fmt
    dataTok (BitVec.ofNat 4 d.fmt) (packW w (vals.mapIdx fun i x => convLane src d.fmt e0.rmode d.sat (e0.rnd i) x))

/-- The token the port places next from accumulator a as it stands, whether it is the port's last, and whether it
advances the step counter (R237, R239; log 81). -/
def Drain.tok (d : Drain) (a : Acc) (e : Elem) : Tok × Bool × Bool :=
  if a.st = 3 then (faultTok a.cause d.acc, true, false)
  else if a.m = 0 then (endTok 1, true, false)
  else if d.pos < d.rowTokens a then (d.valueTok a e, false, d.rounds a && e.isSr)
  else if d.row + 1 < a.m then (endTok 0, false, false)
  else (endTok 1, true, false)

/-- Where the port stands after a token. -/
def Drain.next (d : Drain) (a : Acc) : Drain :=
  if d.pos < d.rowTokens a then { d with pos := d.pos + 1 } else { d with row := d.row + 1, pos := 0 }

/-- DRAIN_PORT_TOKEN: the port places its next token in every output of DST (R238); a drain of a POISON accumulator, or
one with CLR, leaves the accumulator as after TZERO with its kind (R237, R239). -/
def execDrainPortToken (s : State) : Out :=
  withElem s fun r e =>
    let x := e.mxe
    match x.drain with
    | none => s
    | some d =>
      if s.clock < d.start ∨ ¬ e.spaceFor d.dst then s
      else
        let err := x.badA.contains d.acc && (x.acc d.acc).st != 3
        let a := if err then { x.acc d.acc with st := 3, cause := Cause.uncorrectable } else x.acc d.acc
        let (t, last, adv) := d.tok a e
        let e1 := s.putTok e d.dst t
        let e2 := if adv then { e1 with step := (e1.step + 1) % 2 ^ 32 } else e1
        let x' :=
          if last then
            let y := { x with drain := none }
            if d.clr ∨ a.st = 3 then y.setA d.acc (Acc.cleared a.kind) else y
          else { x with drain := some (d.next a) }
        let s1 := s.modElem r fun _ => e2.setMxe x'
        if err then s1.logElem e else s1

end Sys2Proof.Machine
end

