-- ==== Sys2Proof/Machine/Vote.lean ====
section
/-! DEFINITION. Detections, votes and the completion of tasks (R341, R444 to R449). -/

namespace Sys2Proof.Machine

open Sys2Proof

/-! ### dv.SEPOL (R445) -/

def State.voting (s : State) : Bool := fld s.dv.sepol 0 2 != 0
def State.vmax (s : State) : Nat := min 64 (max 1 (fld s.dv.sepol 8 8))

/-! ### Detections (R444) -/

/-- The element at whose output the route of a word begins (R444). -/
def State.routeSource (s : State) (b : Box) (k : Nat) : Option Elem :=
  let bs := s.boxes.filter fun x => x.load == b.load
  match origin bs (routeFuel bs) b k with
  | some (lt, site, _) => s.elemAt b.load lt site
  | none => none

/-- The lowest word of a box that carries an identifier. -/
def Box.wordOfRid (b : Box) (rid : BitVec 5) : Option Nat :=
  (List.range 16).find? fun j => b.word j != 0 && ridAt b.rids (swDest (b.word j)) == rid

/-- The element at which the route of a token's identifier begins, for a token found at a word: the route of that word
when it carries the identifier, else one of the same box, else one of the fabric load (R55, R444; log 89). -/
def State.ridSource (s : State) (b : Box) (k : Nat) (rid : BitVec 5) : Option Elem :=
  if ridAt b.rids (swDest (b.word k)) = rid then s.routeSource b k
  else
    (b :: s.boxes.filter fun x => x.load == b.load).findSome? fun x =>
      (x.wordOfRid rid).bind fun j => s.routeSource x j

/-- Package tile and physical site of an element. -/
def Elem.place (e : Elem) : Nat × Nat := (pkgTile e.ref.die e.ptile, e.psite)

/-- The places a detection names: that of the checking element or box, and the source of the token's route, one for each
tile. -/
def State.detected (s : State) (p : PTrap) : List (Nat × Nat) :=
  let uniq (xs : List (Nat × Nat)) : List (Nat × Nat) :=
    xs.foldl (fun acc x => if acc.any fun y => y.1 == x.1 then acc else acc ++ [x]) []
  let src (b : Box) (k : Nat) (t : Option Tok) : List (Nat × Nat) :=
    (t.bind fun t => s.ridSource b k t.rid).toList.map Elem.place
  match p.src with
  | .elem r =>
    match s.elem? r with
    | none => []
    | some e =>
      let input := if p.cause = Cause.route then some (fld p.detail 36 4 - 4)
        else (e.trap.bind (·.operand)).filter fun k => decide (k ≤ 3)
      let from_ := match input, s.box? r.load r.lt e.psite with
        | some k, some b => (match b.wordTo (4 + k) with | some j => src b j (e.inq k).head? | none => [])
        | _, _ => []
      uniq (e.place :: from_)
  | .box l lt site k =>
    match (s.load? l).bind fun x => x.pt? lt, s.box? l lt site with
    | some pt, some b => uniq ((pkgTile l.die pt, site) :: src b k (b.stage k).held)
    | _, _ => []
  | _ => []

/-- Log a detection: one entry for each tile named (R449). -/
def State.logDetection (s : State) (l : LoadRef) (cause : Nat) (xs : List (Nat × Nat)) : State :=
  xs.foldl (fun s x => s.logSe (if cause = Cause.route then 1 else 0) x.1 x.2 (s.loadTask l)) s

/-- Log a vote's outcome for a set of tiles. -/
def State.logVote (s : State) (kind h : Nat) (tiles : List Nat) : State := tiles.foldl (fun s t => s.logSe kind t 0 h) s

/-! ### Votes (R446) -/

def State.modVote (s : State) (h : Nat) (f : Vote → Vote) : State :=
  s.modDie (handleDie h) fun d => { d with votes := d.votes.map fun v => if v.handle = h then f v else v }
def State.dropVote (s : State) (h : Nat) : State :=
  s.modDie (handleDie h) fun d => { d with votes := d.votes.filter fun v => decide (v.handle ≠ h) }

/-- A detection makes a dispatched task suspect: it takes a vote entry, if fewer than VMAX are open; a second detection
adds its tiles, and voids an execution E2 or E3 that it finds (R446, R452). -/
def State.suspect (s : State) (tiles : List Nat) (x : SlotX) : State :=
  let h := x.handle
  match s.vote? h with
  | some _v =>
    s.modVote h fun v =>
      let w := { v with excl := union v.excl tiles }
      if v.stage = 1 then w else if v.retried then { w with fail := true } else { w with retried := true, void := true }
  | none =>
    let open_ := match s.die? (handleDie h) with
      | some d => d.votes.length
      | none => 0
    if s.vmax ≤ open_ then s
    else
      s.modDie (handleDie h) fun d =>
        { d with votes := d.votes ++ [{ handle := h, excl := tiles, s1 := none, s2 := none, s3 := none, e2tiles := [],
                                        stage := 1, void := false, retried := false, fail := false, steps := x.steps }] }

/-- VOTE_OPEN: a detection in a fabric load, at the return from its trap: it is logged, and under MODE 01 the tasks that
were dispatched at its clock become suspect. -/
def State.openVotes (s : State) (l : LoadRef) (p : PTrap) : State :=
  let xs := s.detected p
  let s1 := s.logDetection l p.cause xs
  if ¬ s.voting then s1
  else
    match s.load? l with
    | none => s1
    | some x =>
      (x.slots.filterMap id).foldl (fun s t => if t.dispAt ≤ p.born then s.suspect (xs.map (·.1)) t else s) s1

/-- A task returns to READY for the execution that its vote is to run (R446). -/
def State.rerun (s : State) (h : Nat) : State := (s.setTrState h 2).enqueue (s.readyEnt h)

/-- Whether a vote can close: every signature it needs is there, or it has failed. -/
def Vote.closable (v : Vote) : Bool :=
  v.fail || (match v.s1, v.s2, v.s3 with
    | none, some _, _ => true
    | some a, some b, none => a == b
    | some _, some _, some _ => true
    | _, none, _ => false)

/-- An execution of a vote ends with a signature. -/
def State.endExecution (s : State) (v : Vote) (sig : Word) (tiles : List Nat) : State :=
  let h := v.handle
  let close (s : State) : State := s.push [.event .voteClose (.dieN (handleDie h) h)]
  if v.fail then close s
  else if v.void then (s.modVote h fun v => { v with void := false }).rerun h
  else if v.stage = 1 then (s.modVote h fun v => { v with s1 := some sig, stage := 2 }).rerun h
  else if v.stage = 2 then
    let s1 := s.modVote h fun v => { v with s2 := some sig, e2tiles := tiles }
    if v.s1.isNone ∨ v.s1 = some sig then close s1
    else (s1.modVote h fun v => { v with stage := 3, retried := false }).rerun h
  else close (s.modVote h fun v => { v with s3 := some sig })

/-- The final state of a completed task (R340, R341). -/
def State.completeRec (s : State) (h : Nat) : State :=
  if s.recBad h then s.abandonBad h else s.finishRec h (s.trErr h != 0)

/-- VOTE_CLOSE: the vote of a task closes: what stands is completed, and the outcome is logged (R446). -/
def execVoteClose (s : State) : Out :=
  match s.actor with
  | .dieN _ h =>
    match s.vote? h with
    | none => .next s
    | some v =>
      if ¬ v.closable then .next s
      else
        let s0 := s.dropVote h
        let failed := ((s0.logVote 5 h v.excl).setErr h Cause.voteFail).finishRec h true
        .next (
          if v.fail then failed
          else
            match v.s1, v.s3 with
            | none, _ => s0.completeRec h
            | some _, none => (s0.logVote 2 h v.excl).completeRec h
            | some a, some c =>
              if v.s2 = some c then (s0.logVote 3 h v.excl).completeRec h
              else if a = c then (s0.logVote 4 h v.e2tiles).completeRec h
              else failed)
  | _ => .fault .noActor

/-! ### TASK_COMPLETION (R341) -/

/-- Whether a detection in a fabric load is not disposed of yet: the tasks of its clock are suspect (R446). -/
def State.undisposed (s : State) (l : LoadRef) (since : Nat) : Bool :=
  s.voting && s.seqs.any fun q => (q.pend ++ q.taken).any fun p =>
    p.ofLoad l && (p.cause == Cause.residue || p.cause == Cause.route) && decide (since ≤ p.born)

/-- The extent-table slot that a request of an MPE names: that of its descriptor for a gather or a scatter (R171). -/
def Issue.slot (i : Issue) : Nat := if i.op = .gld ∨ i.op = .sst then gSlot i.b else opSlot i.a

/-- Whether a generator reads on for the task of a slot (R282). -/
def AddrGen.reads (g : AddrGen) (k : Nat) : Bool := g.st == 1 && g.more && opSlot g.addr == k

/-- Whether every access of the task of a slot, and of its commands, is performed (R305, R341). -/
def State.slotDrained (s : State) (l : LoadRef) (k : Nat) : Bool :=
  s.accs.all (fun a => a.ref.load != l || a.slot != k || a.op.isDrain) &&
  s.cmds.all (fun c => c.ref.load != l || c.slot != k) &&
  s.remotes.all (fun r => r.ref.load != l || r.slot != k || r.what.isProbe) &&
  s.dies.all (fun d =>
    d.gde.all (fun g => g.reqs.all fun q => q.ref.load != l || q.slot != k) &&
    d.gdeWait.all fun g => g.req.ref.load != l || g.req.slot != k) &&
  s.elems.all fun e => e.ref.load != l ||
    (e.mpe.issueQ.all (fun i => i.op == .tkdecRet || i.slot != k) && e.mpe.travs.all (fun t => opSlot t.a != k) &&
     !(e.mpe.gen 0).reads k && !(e.mpe.gen 1).reads k)

/-- Free the slot of a task: its replay entries go with it (R441). -/
def State.freeSlot (s : State) (l : LoadRef) (k : Nat) : State :=
  let s1 := s.modLoad l fun x => { x with slots := x.slots.set k none }
  { s1 with elems := s1.elems.map fun (e : Elem) =>
      if e.ref.load = l then
        { e with mpe := { e.mpe with replay := e.mpe.replay.filter (fun r => r.slot != k)
                                     lost := e.mpe.lost.filter fun r => r.1 != k } }
      else e }

/-- Fabric loads whose tasks may complete: those that run or drain (R340). -/
def Load.completes (x : Load) : Bool := x.phase == .resident || x.phase == .draining

/-- TASK_COMPLETION: the task of a slot whose PEND is 0 and whose accesses are performed leaves its slot and takes its
final state, or ends one execution of its vote. -/
def execTaskCompletion (s : State) : Out :=
  match s.actor with
  | .loadN l k =>
    match s.load? l with
    | none => .next s
    | some x =>
      match x.slots.getD k none with
      | none => .next s
      | some t =>
        if ¬ x.completes ∨ s.trPend t.handle ≠ 0 ∨ ¬ s.slotDrained l k ∨
            s.undisposed l t.dispAt then .next s
        else
          let s1 := s.freeSlot l k
          match s.vote? t.handle with
          | some v => .next (s1.endExecution v t.sig (x.tiles.map fun y => pkgTile l.die y.pt))
          | none => .next (s1.completeRec t.handle)
  | _ => .fault .noActor

/-! ### Kills (R431) -/

/-- What becomes of the task of a slot when its fabric load is killed with a cause: a suspect task is run again after a
RESIDUE or ROUTE; any other is ABANDONED. -/
def State.killTask (s : State) (cause : Nat) (t : SlotX) : State :=
  let h := t.handle
  match s.vote? h with
  | some v =>
    if ¬(cause = Cause.residue ∨ cause = Cause.route) then (s.dropVote h).abandonRec h cause
    else if v.fail then s.push [.event .voteClose (.dieN (handleDie h) h)]
    else if v.stage = 1 then (s.modVote h fun v => { v with stage := 2 }).rerun h
    else (s.modVote h fun v => { v with void := false }).rerun h
  | none => s.abandonRec h cause

/-- A fabric load that is stopped and drained is retired without a save. -/
def State.killLoad (s : State) (l : LoadRef) (cause : Nat) : State :=
  match s.load? l with
  | none => s
  | some x =>
    let s1 := (x.slots.filterMap id).foldl (fun s t => s.killTask cause t) s
    (s1.modLoad l fun x => { x with slots := List.replicate 8 none, entries := x.entries.map fun q =>
      { q with count := 0, reqs := [], buf := [] } }).beginRetire l

end Sys2Proof.Machine
end

