-- ==== Sys2Proof/Machine/Preempt.lean ====
section
/-! DEFINITION. Pre-emption, TRET's dispositions, the save image, restore and replay, page requests, and the fence
registers (R383, R429 to R443, R450). -/

namespace Sys2Proof.Machine

open Sys2Proof

/-! ### Release (R431, R442) -/

/-- Words of item 0x131 that an EWR wrote take effect. What one wrote to an empty place of a queue stays there until a token
takes the place (R378). -/
def Elem.loadShadow (e : Elem) : Elem :=
  let ws := e.shadow.filter fun x => decide (x.1 = 0x131)
  if ws.isEmpty then e
  else
    let base := e.mpe.pack
    let n := (ws.map fun x => packPlace x.2.1 + 1).foldl max base.length
    let at' (p : Nat) : Word := (e.shadowAt 0x131 (if p < 64 then p else p + 128)).getD (at_ base p)
    { e with mpe := e.mpe.unpack ((List.range n).map at'), shadow := e.shadow.filter fun x => decide (x.1 ≠ 0x131) }

def Tok.mend (t : Tok) : Tok := { t with res := residue t.pay }

/-- The head of an input with its residue regenerated. -/
def Elem.mendInput (e : Elem) (k : Nat) : Elem :=
  { e with ins := e.ins.modify k fun ts => match ts with | t :: r => t.mend :: r | [] => [] }

/-- The operand that failed its check is taken as it stands, with its residue regenerated: nothing in the element for a
word of a remote reply or for a result. A trap that a HALT record raised again does not say which failed, and every input head is
mended
(log 39). -/
def Elem.mendOperand (e : Elem) (op : Option Nat) : Elem :=
  match op with
  | none => (List.range 4).foldl Elem.mendInput e
  | some k =>
    if k < 4 then e.mendInput k
    else if k < 12 then { e with d := e.d.modify (k - 4) fun d => { d with res := residue d.val } }
    else if k < 16 then { e with c := e.c.modify (k - 12) fun c => { c with res := residue c.val } }
    else if replyOperand ≤ k then e
    else
      let w := e.spe.now (k - 16)
      { e with spe := { e.spe.write (k - 16) { w with res := residue w.val } with old := e.spe.old } }

/-- An element released after its trap. -/
def Elem.release (e : Elem) : Elem :=
  match e.trap with
  | none => e
  | some t =>
    let e1 := if t.cause = Cause.residue then e.mendOperand t.operand
      else if t.cause = Cause.route then { e with ins := e.ins.modify (fld (BitVec.ofNat 64 t.detail) 36 4 - 4) (List.drop 1) }
      else e
    { e1.loadShadow with trap := none }

/-- A token held by a switch word passes it: it takes the identifier that the word expects, and no FTAG 15. -/
def Box.release (b : Box) (k : Nat) : Box :=
  b.setStage k { b.stage k with held := (b.stage k).held.map fun t =>
    { t with rid := ridAt b.rids (swDest (b.word k)), ftag := if t.ftag = 15 then 0 else t.ftag } }

/-! ### Stopping a fabric load (R433, R434) -/

/-- The frame owner: the task in the lowest slot whose tr.FRAME is not 0. -/
def Load.owner (x : Load) : Option SlotX := x.slots.findSome? fun t => t.filter fun t => decide (t.frame ≠ 0)

/-- Phase 1: entry refill and every element stop. -/
def State.beginDrain (s : State) (l : LoadRef) (d : Disp) (reason : Nat) : State :=
  { s.modLoad l (fun x => { x with phase := .draining, disp := some d, reason := reason, returned := [],
                                   phaseAt := s.clock }) with
    elems := s.elems.map fun (e : Elem) => if e.ref.load = l then { e with stopped := true } else e }

/-- The header of a save image (R437). -/
def imageHeader (x : Load) : List Word :=
  let d := x.disp.getD ⟨1, 0, 0⟩
  let h (k : Nat) : Nat := match x.slots.getD k none with | some t => t.handle | none => 0
  let tasks := (x.slots.filterMap id).length
  [wordOfFields [(32, 0x53415645), (16, 1), (8, x.tiles.length), (0, tasks)], x.cfgid,
   wordOfFields [(48, if d.level = 2 then Cause.page else Cause.preempt), (0, if d.level = 2 then d.vahi else 0)],
   wordOfFields (x.returned.map fun lt => (lt, 1))] ++
  ((List.range 4).map fun k => wordOfFields [(0, h (2 * k)), (32, h (2 * k + 1))]) ++
  List.replicate 504 0

def State.writeHeader (s : State) (x : Load) : State :=
  match x.owner with
  | some o => s.putWords o.frame (imageHeader x)
  | none => s

/-- Whether a disposition is stronger than the one that stands. -/
def Disp.stronger (a : Option Disp) (b : Disp) : Bool := a.all fun a => decide (a.level < b.level)

/-- A stronger disposition takes the place of a weaker one; of two equals the first stands (R432). -/
def Disp.or (a : Option Disp) (b : Disp) : Option Disp := if Disp.stronger a b then some b else a

/-- A request to stop a fabric load: kill (level 3), save with page request (2), save (1), with its REASON (R435). Without
a frame owner a save becomes a kill with SAVE_NOFRAME, and the scheduler makes no request. -/
def State.requestStop (s : State) (l : LoadRef) (d : Disp) (reason : Nat) : State :=
  match s.load? l with
  | none => s
  | some x =>
    match x.phase with
    | .resident =>
      if d.level < 3 ∧ x.owner.isNone then
        if reason = 0 then s else s.beginDrain l ⟨3, Cause.saveNoframe, 0⟩ reason
      else s.beginDrain l d reason
    | .draining => s.modLoad l fun x =>
      { x with disp := Disp.or x.disp d, reason := if Disp.stronger x.disp d then reason else x.reason }
    | .saving =>
      if d.level = 3 then s.killLoad l d.cause
      else
        let y := { x with disp := Disp.or x.disp d }
        (s.modLoad l fun _ => y).writeHeader y
    | .restoring => s.modLoad l fun x => { x with heldReq := some (x.heldReq.getD reason) }
    | .retiring => s

/-- PREEMPT: a request of the scheduler (reason 0) or of the regulator's firmware (2) for a fabric load. With 16 added it
needs tiles of the install in progress on the die too, which is abandoned within 64 clocks; the request is held for them
and then begins (R440). -/
def execPreempt (s : State) : Out :=
  match s.actor with
  | .loadN l n =>
    if n < 16 ∨ ¬ ((s.die? l.die).bind (·.inst)).isSome then .next (s.requestStop l ⟨1, 0, 0⟩ (n % 16))
    else
      let s1 := s.abandonInstall l.die 64
      .next { s1 with inputs := s1.inputs ++ [(s.clock + 64, .preempt, .loadN l (n % 16))] }
  | _ => .fault .noActor

/-! ### Draining (R434 phase 2) -/

/-- Whether a run of a slot that holds an address is a PRESENCE run. -/
def State.presenceRun (s : State) (l : LoadRef) (slot va : Nat) : Bool :=
  match s.slotTask l slot with
  | some x => (match findRun x.runs va none with | some r => r.cls == 1 | none => false)
  | none => false

/-- Add a reissue record to an MPE. -/
def State.addReissue (s : State) (r : ElemRef) (x : Reissue) : State :=
  s.modMpe r fun m => { m with reissue := m.reissue ++ [x] }

/-- Cancel the deferred reads of single words. -/
def State.cancelReads (s : State) (l : LoadRef) : State :=
  let mine (w : Access) : Bool := w.ref.load == l && w.deferred
  let s1 := (s.accs.filter mine).foldl (fun s w =>
    s.addReissue w.ref ⟨w.gid, .ld, slotVa w.slot w.va, 0, 0, 0, [w.cell]⟩) s
  { s1 with accs := s1.accs.filter fun w => !mine w }

/-- Take a fabric load's requests out of a gather entry: each is recorded for reissue, and an entry of no requester is
freed. -/
def State.cancelEntry (s : State) (l : LoadRef) (d : Nat) (g : GdeEntry) : State :=
  let qs := g.reqs.filter fun q => q.ref.load == l
  let s1 := qs.foldl (fun s q =>
    let b := match s.group? q.ref q.gid with
      | some g => g.b
      | none => 0
    s.addReissue q.ref ⟨q.gid, .gld, BitVec.ofNat 64 q.idx, b, 0, q.lane, q.cells⟩) s
  if qs.length = g.reqs.length then s1.freeGde d g.id
  else s1.modGde d g.id fun g => { g with reqs := g.reqs.filter fun q => q.ref.load != l }

/-- Cancel the requests of a fabric load for rows whose words are deferred. -/
def State.cancelRows (s : State) (l : LoadRef) : State :=
  s.dies.foldl (fun s d =>
    (d.gde.filter fun g => g.cause == 0 && !g.open.isEmpty && g.reqs.any fun q => q.ref.load == l).foldl
      (fun s g => s.cancelEntry l d.n g) s) s

/-- Cancel the reads of other packages that may be deferred there (R409). -/
def State.cancelRemotes (s : State) (l : LoadRef) : State :=
  let mine (x : Remote) : Bool := x.ref.load == l && s.presenceRun l x.slot x.va &&
    (match x.what with | .rld _ => true | _ => false)
  let s1 := (s.remotes.filter mine).foldl (fun s x =>
    match x.what, s.group? x.ref x.gid with
    | .rld cells, some g => s.addReissue x.ref ⟨x.gid, .rld, g.a, 0, g.n, 0, cells⟩
    | _, _ => s) s
  { s1 with remotes := s1.remotes.filter fun x => !mine x }

def State.cancelDeferred (s : State) (l : LoadRef) : State := ((s.cancelReads l).cancelRows l).cancelRemotes l

/-- Whether an element has nothing left to finish: issued requests, array firings, its microprogram, cross requests that
have reached it. -/
def Elem.drained (e : Elem) : Bool :=
  e.mpe.issueQ.isEmpty && e.mxe.run.isNone && e.mxe.next.isNone && e.mxe.ending.isEmpty &&
  (e.spe.mp.st == 0 || e.spe.mp.st == 3) && e.spe.crossIn.isEmpty

/-- Entry n of the entry section: its count, the payloads of the refill buffer, those of the ring. -/
def State.entryWords (s : State) (l : LoadRef) (n : Nat) (q : EntryQ) : List Word :=
  BitVec.ofNat 64 (q.buf.length + q.count) ::
    (q.buf ++ (List.range q.count).map fun i => s.word (ringAddr l.die l.fab n (q.head + i)))

/-- The HTS writes the header and the entry section, with count 0 for an entry that the configuration has not (R436). -/
def State.writeImage (s : State) (x : Load) (frame : Nat) : State :=
  (List.range 16).foldl (fun s n =>
    s.putWords (frame + 0x1000 + 0x1200 * n) (match x.entries[n]? with
      | some q => s.entryWords x.ref n q
      | none => [0])) (s.writeHeader x)

/-- Tokens that stand in the queues and stages of a fabric load. -/
def State.standing (s : State) (l : LoadRef) : List Tok :=
  ((s.elems.filter fun e => e.ref.load == l).flatMap fun e => e.ins.flatten ++ e.outs.flatten.map (·.tok)) ++
  (s.boxes.filter fun b => b.load == l).flatMap fun b => (List.range 16).flatMap fun k =>
    (b.stage k).tokens (b.word k) ++ (b.stage k).held.toList ++ (b.stage k).xing

/-- Whether the FAULT token of a replay entry is one of some tokens. -/
def Replay.among (x : Replay) (ts : List Tok) : Bool :=
  ts.any fun t => t.isFault && t.causeOf == Cause.page && fld t.pay 0 48 == x.detail

/-- A save finds which replay entries have their FAULT tokens unconsumed (R442). -/
def State.markStanding (s : State) (l : LoadRef) : State :=
  let ts := s.standing l
  { s with elems := s.elems.map fun (e : Elem) =>
      if e.ref.load = l then
        { e with mpe := { e.mpe with replay := e.mpe.replay.map fun x => { x with standing := x.among ts } } }
      else e }

/-- Whether a task of a fabric load is about to complete (R340). -/
def State.completing (s : State) (x : Load) : Bool :=
  x.slots.any fun t => match t with
    | some t => s.trPend t.handle == 0 && !s.undisposed x.ref t.dispAt
    | none => false

/-! ### Commit (R434 phase 5, R443) -/

/-- What the elements of a fabric load owe that no item holds. The firings that count toward the next reweighting are not
kept: a restored group counts from 0 (DESIGN CHOICE, log 99). -/
def State.keptOf (s : State) (l : LoadRef) : List Kept :=
  (s.elems.filter fun e => e.ref.load == l && (e.kind == .spe || e.kind == .mxe)).map fun e =>
    ⟨e.ref.lt, e.ref.site, e.spe.defers, e.spe.replies, e.spe.owed, e.spe.credits, e.mxe.parts, e.broken⟩

/-- The stages that hold something. -/
def State.heldOf (s : State) (l : LoadRef) : List (Nat × Nat × Nat × Stage) :=
  (s.boxes.filter fun b => b.load == l).flatMap fun b =>
    (List.range 16).filterMap fun k => if b.stage k = Stage.empty then none else some (b.lt, b.site, k, b.stage k)

/-- PREEMPT_COMMIT: in the clock after the last TRET the dispatched tasks become SAVED and keep PEND, the fabric load
retires, and the frame owner becomes READY or a page request is posted. -/
def execPreemptCommit (s : State) : Out :=
  match s.actor with
  | .load l =>
    match s.load? l with
    | none => .next s
    | some x =>
      if x.phase ≠ .saving ∨ s.clock ≤ x.phaseAt ∨ ¬ x.tiles.all (fun t => x.returned.contains t.lt) then .next s
      else
        match x.owner with
        | none => .next s
        | some o =>
          let page := match x.disp with
            | some d => d.level == 2
            | none => false
          let v : Saved := ⟨l.die, o.handle, x.cfgid, o.frame, x.slots, page, s.keptOf l, s.heldOf l⟩
          let s1 := (x.slots.filterMap id).foldl (fun s t => s.setTrState t.handle 4) s
          let s2 := { (s1.modLoad l fun x => { x with
              slots := List.replicate 8 none
              entries := x.entries.map fun (q : EntryQ) => { q with count := 0, reqs := [], buf := [] } }) with
            saved := s1.saved ++ [v] }
          let s3 := s2.beginRetire l
          if page then .next ({ s3 with pgpend := s3.pgpend ++ [o.handle] }.push [.event .pageRequestPost .none])
          else .next ((s3.setTrState o.handle 2).enqueue (s3.readyEnt o.handle))
  | _ => .fault .noActor

/-- PAGE_REQUEST_POST: the oldest pending request enters dv.PGREQ when a place is free (R443). -/
def execPageRequestPost (s : State) : Out :=
  match s.pgpend with
  | h :: rest => .next (if s.pgreq.length < 256 then { s with pgreq := s.pgreq ++ [h], pgpend := rest } else s)
  | [] => .next s

/-! ### Restore (R439, R441, R442) -/

/-- A saved task with its extents translated again: a package keeps the incarnation that the saved runs held while one of
them is present, and REMOTE_GONE with it; any other has what its probe gave, REMOTE_GONE for no answer (R405, R407; log
88). -/
def SlotX.renew (t : SlotX) (k : Nat) (probes : List Probe) (runs : List Run) (ws : List (Option (List Word))) : SlotX :=
  let kept (pkg : Nat) : Option Run := t.runs.find? fun q => q.p && q.pkg == pkg
  let probe (pkg : Nat) : Option Probe := probes.find? fun p => p.slot == k && p.pkg == pkg
  let inc (r : Run) : Nat := match kept r.pkg with
    | some q => q.inc
    | none => ((probe r.pkg).bind (·.inc)).getD 0
  { t with runs := runs.map fun (r : Run) => { r with inc := inc r }
           wins := ws.map fun w => w.map fun v => v.length - 1
           gone := (t.gone.filter fun p => (kept p).isSome) ++
             (probes.filter fun p => p.slot == k && p.inc.isNone).map (·.pkg) }

/-- The packages that a slot's runs name and that its saved runs give no incarnation for. -/
def SlotX.unknown (t : SlotX) (own : Nat) (runs : List Run) : List Nat :=
  ((runs.filter fun r => r.p && r.pkg != own && !t.runs.any fun q => q.p && q.pkg == r.pkg).map (·.pkg)).eraseDups

/-- Translate the saved tasks, in slot order, and copy their windows: the slots, or the first cause. -/
def State.renewSlots (s : State) (x : Load) : Nat → List (Option SlotX) → State × List (Option SlotX) × Nat
  | _, [] => (s, [], 0)
  | k, none :: ts =>
    let (s1, ys, c) := s.renewSlots x (k + 1) ts
    (s1, none :: ys, c)
  | k, some t :: ts =>
    let tr := s.translate t.handle
    let (tr1, ws) := s.windows t.handle tr
    let s1 := s.keepTrans x.ref.die tr1
    if tr1.cause ≠ 0 then (s1, [], tr1.cause)
    else
      let (s2, ys, c) := (s1.copyWindows x k ws).renewSlots x (k + 1) ts
      (s2, some (t.renew k x.probes tr1.runs ws) :: ys, c)

/-- The probes that the translation of a restore needs and has not sent (R405). -/
def State.newProbes (s : State) (x : Load) (v : Saved) (slots : List (Option SlotX)) : List Probe :=
  ((List.range 8).flatMap fun k =>
    match v.tasks.getD k none, slots.getD k none with
    | some t, some y => (t.unknown s.ownPkg y.runs).map fun p => (⟨k, p, !s.routed, none, 0⟩ : Probe)
    | _, _ => []).filter fun p => !x.probes.any fun q => q.slot == p.slot && q.pkg == p.pkg

/-- Send probes of a restore; one that no port takes is over at once. -/
def State.sendReprobes (s : State) (l : LoadRef) (ps : List Probe) : State :=
  ps.foldl (fun s p =>
    if p.answered then s
    else
      (s.modLoad l fun x => { x with probes := x.probes ++ [{ p with tag := s.nextId }] }).sendRemote
        (probeOf ⟨l.die, l.fab, 0, 0⟩ p.slot p.pkg (.reprobe l p.slot)) .probe 0 0 0 0)
    (s.modLoad l fun x => { x with probes := x.probes ++ ps.filter (·.answered) })

/-- A restore becomes a kill: every saved task ends ABANDONED with the cause (R431, R439). -/
def State.killRestore (s : State) (l : LoadRef) (v : Saved) (cause : Nat) : State :=
  let s0 := if cause = Cause.uncorrectable then s.logSe 6 0 0 v.owner else s
  let s1 := (v.tasks.filterMap id).foldl (fun s t => s.killTask cause t) s0
  { s1 with saved := s1.saved.filter fun y => decide (y.owner ≠ v.owner) }.beginRetire l

/-- Refill an entry from its part of the image: the last 512 payloads in the ring, those before them in the buffer. -/
def State.refillEntry (s : State) (l : LoadRef) (frame n : Nat) : State :=
  let a := frame + 0x1000 + 0x1200 * n
  let c := min 560 (s.word a).toNat
  let vs := (List.range c).map fun i => s.word (a + 8 + 8 * i)
  let b := vs.take (c - 512)
  (vs.drop b.length).foldl (fun s v => s.ringPut l n v)
    (s.modEntry l n fun q => { q with head := 0, count := 0, reqs := [], buf := b })

/-- A waiter of a saved fabric load under its new number. -/
def Waiter.move (l : LoadRef) (w : Waiter) : Waiter :=
  match w with
  | .own d c => .own d c
  | .cross r c => .cross { r with die := l.die, fab := l.fab } c

/-- DIRTY of the tile registers and the dirty map of the bank are cleared at restore (R196, R221; log 87). -/
def Elem.clean (e : Elem) : Elem :=
  { e with spe := { e.spe with dirty := 0 }, mxe := { e.mxe with t := e.mxe.t.map fun (t : TReg) => { t with dirty := false } } }

/-- The elements of a fabric load as they are released: what an EWR wrote, and what was kept; their performance counters are
clear (R105). -/
def State.wakeElems (s : State) (l : LoadRef) (v : Saved) : State :=
  let put (e : Elem) : Elem :=
    match v.kept.find? fun k => decide (k.lt = e.ref.lt ∧ k.site = e.ref.site) with
    | none => e
    | some k =>
      { e with
        spe := { e.spe with defers := k.defers.map fun (d : Defer) => { d with who := d.who.move l }, replies := k.replies,
                            owed := k.owed, credits := k.credits }
        mxe := { e.mxe with parts := k.parts }
        broken := k.broken }
  { s with
    elems := s.elems.map fun (e : Elem) =>
      if e.ref.load = l then
        { put e.loadShadow.clean with stopped := false, counters := List.replicate 16 ⟨0, 0, 0⟩, clk := 0, ticking := false }
      else e }

/-- Read a word again into a cell that is owed, at a checked address. -/
def State.readInto (s : State) (e : Elem) (gid cell : Nat) (a : Word) (c : Checked) : State :=
  let lat := memLat e.ref.die e.ptile c.pa
  { s.tick with
    accs := s.accs ++ [{ id := s.nextId, ref := e.ref, gid := gid, cell := cell, op := .read, pa := c.pa, va := opVa a,
                         fmt := c.run.fmt, cls := c.run.cls, slot := opSlot a, due := s.clock + lat / 2 + s.waitNow,
                         back := lat - lat / 2, ownAt := 0, tileAt := 0, dieAt := 0, deferred := false, held := false,
                         taken := false, tile := pkgTile e.ref.die e.ptile }]
    nextId := s.nextId + 1 }

/-- Perform a recorded request again, into the cells that it owes (R267, R409). -/
def State.reissue (s : State) (r : ElemRef) (x : Reissue) : State :=
  match s.elem? r with
  | none => s
  | some e =>
    let due := s.clock + 3
    match x.op with
    | .gld =>
      let idx := x.a.toNat
      let c := s.checkLane r.load x.b idx false
      if c.cause = 0 then
        s.gdeRequest ⟨c.pa, gSz x.b, c.run.cls, ⟨r, x.gid, x.cells, idx, x.lane, gSlot x.b, c.run.fmt⟩⟩
      else
        let s1 := s.reply r x.gid (x.cells.headD 0) (.tok (laneFault c.cause x.lane idx)) due
        (x.cells.drop 1).foldl (fun s k => s.reply r x.gid k .silent due) s1
    | .rld =>
      let n := x.n + 1
      let c := s.checkRld r.load x.a n
      if c.cause ≠ 0 then s.reply r x.gid (x.cells.headD 0) (s.failReply r x.gid c.cause (opVa x.a)) due
      else if c.run.pkg = s.ownPkg then
        ((List.range n).zip x.cells).foldl (fun s p =>
          s.readInto e x.gid p.2 (addVa x.a (8 * p.1)) { c with pa := c.pa + 8 * p.1 }) s
      else s.askRemote e ⟨x.gid, .rld, 0, x.n, x.a, 0, s.clock, false, []⟩ c (.rld x.cells) (.read n)
    | _ =>
      let k := x.cells.headD 0
      let c := s.check r.load x.a (needRead 0)
      if c.cause = 0 then s.readInto e x.gid k x.a c
      else s.reply r x.gid k (s.failReply r x.gid c.cause (opVa x.a)) due

/-- Every reissue record of an MPE. -/
def State.reissueAll (s : State) (e : Elem) : State :=
  e.mpe.reissue.foldl (fun s x => s.reissue e.ref x) (s.modMpe e.ref fun m => { m with reissue := [] })

/-! ### The end of a drain (R433, R434 phase 2) -/

/-- A scheduler's request that finds no task with a frame any more is not made: the fabric load goes on, and its cancelled
reads are performed again (R433; log 100). -/
def State.resumeLoad (s : State) (l : LoadRef) : State :=
  let s1 := (s.elems.filter fun e => e.ref.load == l).foldl (fun s e => s.reissueAll e) s
  { s1.modLoad l (fun x => { x with phase := .resident, disp := none, reason := 0, phaseAt := s.clock }) with
    elems := s1.elems.map fun (e : Elem) => if e.ref.load = l then { e with stopped := false } else e }

/-- A save whose frame owner has completed while the fabric load drained: without a frame a scheduler's request is not
made, and any other becomes a kill with SAVE_NOFRAME (R433). -/
def State.saveNoframe (s : State) (x : Load) : State :=
  if x.reason = 0 then s.resumeLoad x.ref else s.killLoad x.ref Cause.saveNoframe

/-- PREEMPT_DRAIN_END: deferred reads are cancelled; once nothing is outstanding, a kill takes effect, or the save begins
and every tile's sequencer traps PREEMPT. A task whose PEND is 0 completes first. -/
def execPreemptDrainEnd (s : State) : Out :=
  match s.actor with
  | .load l =>
    match s.load? l with
    | none => .next s
    | some x =>
      if x.phase ≠ .draining then .next s
      else
        let s1 := s.cancelDeferred l
        if ¬ s1.loadDrained l ∨ s1.completing x ∨ ¬ s1.elems.all (fun e => e.ref.load != l || e.drained) then .next s1
        else
          match x.disp, x.owner with
          | none, _ => .next s1
          | some d, some o =>
            if d.level = 3 then .next (s1.killLoad l d.cause)
            else
              let s2 :=
                ((s1.markStanding l).modLoad l fun x => { x with phase := .saving, phaseAt := s.clock }).writeImage x o.frame
              .next (s2.trapLoad l (.preempt l) Cause.preempt x.reason o.frame)
          | some d, none => .next (if d.level = 3 then s1.killLoad l d.cause else s1.saveNoframe x)
  | _ => .fault .noActor

/-! ### Replay (R441, R442) -/

/-- The tokens of a re-emit queue, oldest first (R442). -/
def MpeState.reemitToks (m : MpeState) : List Tok :=
  let get (i : Nat) : Option Word := (m.reemit.find? fun x => decide (x.1 = i)).map (·.2)
  ((List.range 64).map fun k => (get (64 + 2 * k), get (65 + 2 * k))).filterMap fun p =>
    p.2.map fun x => Tok.ofLink (x.toNat % 2 ^ 16) (p.1.getD 0)

/-- An MPE emits its re-emit queue before every reply that it owes, in the output of a replay. -/
def State.reemit (s : State) (r : ElemRef) (dst : Nat) : State :=
  match s.elem? r with
  | none => s
  | some e =>
    let g : RGroup :=
      { gid := s.nextId, op := .ld, dst := dst, lane := 0, n := 0, a := 0, b := 0, pass := 0, slot := 0,
        cells := e.mpe.reemitToks.map fun t => ⟨0, .tok t, 0, 0⟩, opened := false, owes := false, pred := none, outc := false }
    { s.modMpe r (fun m => { m with groups := g :: m.groups, reemit := [] }) with nextId := s.nextId + 1 }

/-- An MPE performs a read again, before everything else that it owes; the entry stays, under the name of the new group
(R441, R442). -/
def State.replay (s : State) (r : ElemRef) (x : Replay) : State :=
  match s.elem? r with
  | none => s
  | some e =>
    let g : RGroup :=
      { gid := s.nextId, op := x.op, dst := x.dst, lane := x.lane, n := x.n, a := x.a, b := x.b, pass := 0, slot := 0,
        cells := [], opened := true, owes := isOut x.dst, pred := none, outc := false }
    let s1 := { s.modMpe r (fun m => { m with
        groups := g :: m.groups
        replay := m.replay.map fun y => if y = x then { y with gid := g.gid } else y }) with nextId := s.nextId + 1 }
    let i : Issue := ⟨g.gid, x.op, x.lane, x.n, x.a, x.b, s.clock, false, []⟩
    let s2 := match x.op with
      | .wld => issueWld s1 e i
      | .rld => issueRld s1 e i
      | .gld =>
        -- the lane that faulted: LANE and index stand in the token's detail (R172)
        ((s1.issueLane e i (x.detail / 2 ^ 32, x.detail % 2 ^ 32)).closeGroup r g.gid)
      | _ => issueLd s1 e i
    s2.modMpe r fun m =>
      { (m.modGroup g.gid fun g => { g with cells := g.cells.map fun (c : Cell) => { c with credit := 0 } }) with
        rdCred := e.mpe.rdCred, laneCred := e.mpe.laneCred }

/-- An MPE of a restored fabric load: the reads whose FAULT tokens stood unconsumed at the save and that the routine left
out of the queues are performed again, and the first of them is followed by the re-emit queue (R442; log 39). -/
def State.replayElem (s : State) (e : Elem) : State :=
  let ts := s.standing e.ref.load ++ e.mpe.reemitToks
  let s1 := match e.mpe.replay.filter fun x => x.standing && !x.among ts with
    | [] => if e.mpe.reemitToks.isEmpty then s else s.reemit e.ref 0
    | x :: xs => ((xs.reverse.foldl (fun s y => State.replay s e.ref y) s).reemit e.ref x.dst).replay e.ref x
  s1.modMpe e.ref fun m => { m with replay := m.replay.map fun x => { x with standing := false } }

/-- The HALT records of a tile section: site, sq.CAUSE and sq.DETAIL. -/
def State.haltRecords (s : State) : Nat → Nat → List (Nat × Word × Word)
  | 0, _ => []
  | n + 1, a =>
    let h := s.word a
    let len := fld h 0 27
    match fld h 60 4 with
    | 0 => []
    | 4 => (fld h 52 8, s.word (a + 8), s.word (a + 16)) :: s.haltRecords n (a + 8 + 8 * len)
    | _ => s.haltRecords n (a + 8 + 8 * len)

/-- Whether a word of the records of a tile section that the release reads has an uncorrectable error. -/
def State.haltBad (s : State) : Nat → Nat → Bool
  | 0, _ => false
  | n + 1, a =>
    let h := s.word a
    s.isBad a ||
    match fld h 60 4 with
    | 0 => false
    | 4 => s.isBad (a + 8) || s.isBad (a + 16) || s.haltBad n (a + 8 + 8 * fld h 0 27)
    | _ => s.haltBad n (a + 8 + 8 * fld h 0 27)

/-- Whether the HTS meets an uncorrectable error in a save image: in an entry that it refills or in a record that it raises
again (R451; log 101). -/
def State.imageBad (s : State) (x : Load) (frame : Nat) : Bool :=
  ((List.range x.entries.length).any fun n =>
    let a := frame + 0x1000 + 0x1200 * n
    (List.range (1 + min 560 (s.word a).toNat)).any fun k => s.isBad (a + 8 * k)) ||
  x.tiles.any fun t => s.haltBad 0xA0000 (frame + 0x13000 + 0x500000 * t.lt)

/-- The youngest token of a word goes back before it, where a restored trap found it. -/
def Box.takeBack (b : Box) (k : Nat) : Box :=
  let x := b.stage k
  if swReg (b.word k) ∧ x.held.isNone then
    b.setStage k { x with held := x.toks.getLast?, toks := x.toks.dropLast }
  else b

/-- A trap that was pending at a save is raised again: ROUTE of kinds 0 and 1 at a switch word, any other at the element
of the site. -/
def State.raiseAgain (s : State) (l : LoadRef) (lt : Nat) (h : Nat × Word × Word) : State :=
  let c := fld h.2.1 48 16
  if c = Cause.route ∧ fld h.2.2 40 8 < 2 then
    let site := fld h.2.2 0 8
    match s.box? l lt site, (s.load? l).bind fun x => x.pt? lt with
    | some b, some pt =>
      match (List.range 16).find? fun k => b.word k != 0 && swDest (b.word k) == fld h.2.2 36 4 with
      | none => s
      | some k =>
        (s.modBox l lt site fun b => b.takeBack k).modSeq (pkgTile l.die pt) fun q =>
          { q with pend := addPend ⟨.box l lt site k, c, h.2.2, s.clock, site⟩ q.pend }
    | _, _ => s
  else s.trapElem ⟨l.die, l.fab, lt, h.1⟩ ⟨c, h.2.2.toNat, none⟩

/-- Raise the traps of every tile section again. -/
def State.raiseHalts (s : State) (x : Load) (frame : Nat) : State :=
  x.tiles.foldl (fun s t =>
    (s.haltRecords 0xA0000 (frame + 0x13000 + 0x500000 * t.lt)).foldl (fun s h => s.raiseAgain x.ref t.lt h) s) s

/-- A traversal goes on over the arbor as its operand is translated now; one whose check fails ends with its FAULT token
(R330). -/
def State.resumeTrav (s : State) (e : Elem) (x : Trav) : State :=
  let c := s.check e.ref.load x.a (needArbor (if x.form = 2 then .acnt else .aiter))
  if c.cause = 0 then s.modTrav e.ref x.gid fun y => { y with hdr := c.pa, size := c.run.rest c.pa }
  else s.endTrav e.ref x (s.failReply e.ref x.gid c.cause x.va)

/-- A stage with what its items hold, and beside it what they do not: partial strings and banks, a token held or
crossing. -/
def Stage.rejoin (x k : Stage) (w : BitVec 16) : Stage :=
  let y := { x with osBits := k.osBits, osN := k.osN, osRids := k.osRids, held := k.held, xing := k.xing }
  match swMode w with
  | 2 =>
    if (x.tokens w).map (·.pay) = (k.tokens w).map (·.pay) then { y with after := k.after, bankA := k.bankA, bankB := k.bankB }
      else y
  | 3 => if (x.tokens w).length = (k.tokens w).length then { y with isOff := k.isOff } else y
  | _ => y

/-- Step 6 of R439: every element is released in one clock, after the reads that the image records. -/
def State.releaseAll (s : State) (x : Load) (v : Saved) : State :=
  let l := x.ref
  let s1 := s.wakeElems l v
  let s2 := v.held.foldl (fun s h => s.modBox l h.1 h.2.1 fun b =>
    b.setStage h.2.2.1 ((b.stage h.2.2.1).rejoin h.2.2.2 (b.word h.2.2.1))) s1
  let es (s : State) : List Elem := s.elems.filter fun e => e.ref.load == l
  let s3 := (es s2).foldl (fun s e => e.mpe.travs.foldl (fun s t => s.resumeTrav e t) (s.reissueAll e)) s2
  let s4 := (es s3).foldl (fun s e => s.replayElem e) s3
  s4.raiseHalts x v.frame

/-- RESTORE_COMPLETION: every tile has returned from RESTORE. The translation waits for its probes, and for a copy in
flight that overlaps a WEIGHT run (R256, R285, R405). -/
def execRestoreCompletion (s : State) : Out :=
  match s.actor with
  | .load l =>
    match s.load? l with
    | none => .next s
    | some x =>
      if x.phase ≠ .restoring ∨ ¬ x.tiles.all (fun t => x.returned.contains t.lt) then .next s
      else
        match s.saved.find? fun v => some v.owner == x.restoreOf with
        | none => .next (s.beginRetire l)
        | some v =>
          let (s1, slots, c) := s.renewSlots x 0 v.tasks
          let ps := s.newProbes x v slots
          if c ≠ 0 then .next (s1.killRestore l v c)
          else if s1.imageBad x v.frame then .next (s1.killRestore l v Cause.uncorrectable)
          else if ¬ ps.isEmpty then .next (s.sendReprobes l ps)
          else if (x.probes.any fun p => !p.answered) ∨ slots.any (fun t => t.any s.weightHeld) then .next s
          else
            let s2 := s1.modLoad l fun x => { x with slots := slots, phase := .resident, restoreOf := none, heldReq := none,
                                                     probes := [],
                                                     returned := [], lastDisp := s.clock, since := s.clock }
            let s3 := (slots.filterMap id).foldl (fun s t => s.setTrState t.handle 3) s2
            let s4 := ({ s3 with saved := s3.saved.filter fun y => decide (y.owner ≠ v.owner) }).unready v.owner
            let s5 := (List.range x.entries.length).foldl (fun s n => s.refillEntry l v.frame n) s4
            let s6 := s5.releaseAll x v
            .next (match x.heldReq with
              | some reason => s6.push [.event .preempt (.loadN l reason)]
              | none => s6)
  | _ => .fault .noActor

/-! ### TRET (R383, R431, R432) -/

/-- The fabric load of an element or box trap. -/
def PTrap.load? (p : PTrap) : Option LoadRef :=
  match p.src with
  | .elem r => some r.load
  | .box l _ _ _ => some l
  | _ => none

/-- Release after an E trap. -/
def State.releaseTrap (s : State) (p : PTrap) : State :=
  match p.src with
  | .elem r => s.modElem r Elem.release
  | .box l lt site k => s.modBox l lt site fun b => b.release k
  | _ => s

/-- What becomes of an E trap by sq.CAUSE at the return. -/
def State.disposeElem (s : State) (p : PTrap) (l : LoadRef) (c : Nat) : State :=
  let s1 := if p.cause = Cause.residue ∨ p.cause = Cause.route then s.openVotes l p else s
  if c = 0 then s1.releaseTrap p
  else if c = Cause.page ∧ p.cause = Cause.faultUnconsumed ∧ fld p.detail 32 16 = Cause.page then
    let vahi := match p.src with
      | .elem r =>
        match s.elem? r with
        | some e => (match e.front (fld p.detail 0 2) with | some t => fld t.pay 0 48 | none => 0)
        | none => 0
      | _ => 0
    s1.requestStop l ⟨2, 0, vahi⟩ 1
  else if c = Cause.preempt then s1.requestStop l ⟨1, 0, 0⟩ 3
  else s1.requestStop l ⟨3, c, 0⟩ 3

/-- A tile has done its part of a save or a restore. -/
def State.partDone (s : State) (t : Nat) (l : LoadRef) (phase : LPhase) : State :=
  match s.load? l with
  | none => s
  | some x =>
    match x.tiles.find? fun y => decide (pkgTile l.die y.pt = t) with
    | none => s
    | some y =>
      if x.phase ≠ phase then s
      else
        let x1 := { x with returned := if x.returned.contains y.lt then x.returned else x.returned ++ [y.lt]
                           phaseAt := s.clock }
        let s1 := s.modLoad l fun _ => x1
        if phase = .saving then s1.writeHeader x1 else s1

/-- What becomes of a PREEMPT or RESTORE trap by sq.CAUSE at the return. -/
def State.disposeLoad (s : State) (t : Nat) (l : LoadRef) (phase : LPhase) (c : Nat) : State :=
  if c = 0 ∨ c = Cause.page ∨ c = Cause.preempt then s.partDone t l phase
  else
    match s.load? l with
    | none => s
    | some x =>
      if x.phase ≠ phase then s
      else if phase = .saving then s.killLoad l c
      else
        match s.saved.find? fun v => some v.owner == x.restoreOf with
        | some v => s.killRestore l v c
        | none => s.beginRetire l

/-- TRET: privileged. It returns, and disposes of the trap that it returns from. -/
def execTret (s : State) : Out :=
  withSeq s fun t q =>
    if ¬ q.priv then s.trapQ t Cause.privilege
    else
      let c := fld q.cause 48 16
      let s1 := s.modSeq t fun q => { q.leave with busy := s.clock + 1 }
      match q.taken.head? with
      | none => s1
      | some p =>
        match p.src with
        | .word => s1
        | .sys gd =>
          s1.modSeq t fun x => { x.setReg (BitVec.ofNat 5 gd) q.sysret with pc := x.pc + 4 }
        | .preempt l => s1.disposeLoad t l .saving c
        | .restore l => s1.disposeLoad t l .restoring c
        | .elem r => s1.disposeElem p r.load c
        | .box l _ _ _ => s1.disposeElem p l c

/-! ### QUARANTINE (R450) -/

/-- QUARANTINE: the regulator's firmware writes a fence map of a tile; FMAP3 holds one bit. -/
def execQuarantine (s : State) : Out :=
  match s.actor with
  | .reg t n v =>
    match s.seq? t with
    | none => .fault .noActor
    | some _ => .next (s.modSeq t fun q => { q with fmap := putAt 0 q.fmap n (if n = 3 then v &&& 1 else v) })
  | _ => .fault .noActor

end Sys2Proof.Machine
end

