-- ==== Sys2Proof/Machine/Reduce.lean ====
section
/-! DEFINITION. Deadline reductions: the package's link router as a node, contributions, receive places (R400 to R403,
R414 to R426). -/

namespace Sys2Proof.Machine

open Sys2Proof

/-! ### Group entries (R415) -/

def GroupEnt.role (g : GroupEnt) : Nat := fld g.w0 61 2
def GroupEnt.d (g : GroupEnt) : Nat := fld g.w0 0 20
def GroupEnt.dc (g : GroupEnt) : Nat := fld g.w1 44 20
def GroupEnt.pport (g : GroupEnt) : Nat := fld g.w1 25 5
def GroupEnt.dist (g : GroupEnt) : Bool := bitAt g.w1 21
def GroupEnt.dest (g : GroupEnt) : Nat := fld g.w1 8 13

/-- First member and number of members of a node's span. -/
def GroupEnt.base (g : GroupEnt) : Nat := match g.kids with | k :: _ => k.mbase | [] => 0
def GroupEnt.span (g : GroupEnt) : Nat := (g.kids.map (·.mspan)).foldl (· + ·) 0

/-! ### Values (R417) -/

/-- Elements of a payload word, exactly. -/
def redElems (fmt : Nat) (w : Word) : List FVal :=
  if fmt = 11 then (List.range 16).map fun i => bxElem 11 w.toNat (bxE 11 w.toNat) i
  else (lanes (tagWidth fmt) w).map (tagDec fmt)

/-- max with -0 below +0; NaN when either is NaN. -/
def redMax (a b : FVal) : FVal := if a.isNaN || b.isNaN then .nan else if a.ltz b then b else a

/-- One step of the sum, rounded to F32. -/
def redAdd (a b : FVal) : FVal := fF32.dec (rneF32 (FVal.add .rne a b))

/-- Combine elements of children in order. -/
def redFold (op : Nat) : List (List FVal) → List FVal
  | [] => []
  | x :: xs => xs.foldl (fun acc y => (acc.zip y).map fun p => if op = 1 then redMax p.1 p.2 else redAdd p.1 p.2) x

/-- A payload word of elements in a format. -/
def redPack (fmt : Nat) (rm : RMode) (rnd : Nat → Nat) (xs : List FVal) : Word :=
  if fmt = 11 then BitVec.ofNat 64 (bxEncode 11 rm rnd xs)
  else
    match tagF fmt with
    | some f => packW f.width (xs.mapIdx fun i x => roundF f rm false (rnd i) x)
    | none => 0

/-- Word w of the result of a node, from that word of each child's value. -/
def redWord (op fmt node seq w : Nat) (ws : List Word) : Word :=
  let xs := redFold op (ws.map (redElems fmt))
  let n := if fmt = 11 then 16 else 64 / tagWidth fmt
  if fmt = 4 ∨ op = 1 then
    let v := redPack fmt .rne (fun _ => 0) xs
    let same := ((redElems fmt v).zip xs).all fun p => (p.1.isNaN && p.2.isNaN) || (p.1.feq p.2 && p.1.sign == p.2.sign)
    if fmt = 11 ∧ ¬ same ∧ xs.all FVal.isFin then
      redPack 11 (RMode.ofCode (Config.maxRound ws % 6)) (fun i => srRnd node seq (16 * w + i)) xs
    else v
  else redPack fmt .sr (fun i => srRnd node seq (n * w + i)) xs

/-- Result of a node over the children that have values, in child order. -/
def redResult (op fmt node seq words : Nat) (vals : List (List Word)) : List Word :=
  (List.range words).map fun w => redWord op fmt node seq w (vals.map fun v => v.getD w 0)

/-! ### Packets (R416) -/

/-- The two header words of a packet. -/
def Packet.header (p : Packet) : List Word :=
  [BitVec.ofNat 64 (p.kind % 2 ^ 4 * 2 ^ 60 + p.dir % 2 * 2 ^ 59 + p.op % 4 * 2 ^ 57 + p.fmt % 2 ^ 4 * 2 ^ 53 +
     p.lenm1 % 2 ^ 8 * 2 ^ 45 + p.seq % 2 ^ 16 * 2 ^ 29 + p.group % 2 ^ 12 * 2 ^ 17 + p.node % 2 ^ 14 * 2 ^ 3),
   BitVec.ofNat 64 (p.ver % 2 ^ 8 * 2 ^ 56 + p.mbase % 2 ^ 13 * 2 ^ 43 + p.mspan % 2 ^ 13 * 2 ^ 30 +
     p.count % 2 ^ 13 * 2 ^ 17)]

/-- Words of the bitmap of n members. -/
def mapWords (n bits : Nat) : List Word := (List.range (ceilDiv n 64)).map fun k => BitVec.ofNat 64 (bits / 2 ^ (64 * k))

/-- Words with residues. -/
def withResidues (ws : List Word) : List (Word × BitVec 4) := ws.map fun w => (w, residue w)

/-- The words of a packet on a link: header, payload, bitmap, and zeros up to whole flits of 64 bytes. -/
def Packet.words (p : Packet) : List (Word × BitVec 4) :=
  let ws := withResidues p.header ++ p.payload ++ withResidues (mapWords p.mspan p.bitmap)
  ws ++ withResidues (List.replicate (ceilDiv ws.length 8 * 8 - ws.length) 0)

/-- The packet that words on a link stand for. CLOSE and WITHDRAW carry no payload. -/
def Packet.ofWords (ws : List (Word × BitVec 4)) : Packet :=
  let w (k : Nat) : Word := (ws.getD k (0, 0)).1
  let kind := fld (w 0) 60 4
  let n := if kind = 4 ∨ kind = 5 then 0 else fld (w 0) 45 8 + 1
  let mspan := fld (w 1) 30 13
  { kind := kind, dir := fld (w 0) 59 1, op := fld (w 0) 57 2, fmt := fld (w 0) 53 4, lenm1 := fld (w 0) 45 8,
    seq := fld (w 0) 29 16, group := fld (w 0) 17 12, node := fld (w 0) 3 14, ver := fld (w 1) 56 8,
    mbase := fld (w 1) 43 13, mspan := mspan, count := fld (w 1) 17 13, payload := (ws.drop 2).take n,
    bitmap := packLanes 64 (((ws.drop (2 + n)).take (ceilDiv mspan 64)).map fun x => x.1.toNat) }

/-- Ones among n bits. -/
def ones (n x : Nat) : Nat := popN n x

/-- Bits of a mask of n ones. -/
def maskN (n : Nat) : Nat := 2 ^ n - 1

/-- A packet leaves by a port; one that is down loses it (R420). -/
def State.sendPacket (s : State) (port : Nat) (p : Packet) : State :=
  if setHas s.ports port then { s with out := s.out ++ [.packet port p.words] } else s

/-- Count a discarded packet in dv.DRBAD (R416, R418) or dv.DRLATE (R418, R424). -/
def State.drBad (s : State) : State := { s with dv := { s.dv with drbad := min 0xFFFFFFFF (s.dv.drbad + 1) } }
def State.drLate (s : State) : State := { s with dv := { s.dv with drlate := min 0xFFFFFFFF (s.dv.drlate + 1) } }

/-- A packet from a node goes toward the root, or from the root to its destinations (R419). The root's own package
receives it at its link router. -/
def State.emitPacket (s : State) (g : GroupEnt) (p : Packet) : State :=
  if g.role ≠ 2 then s.sendPacket g.pport p
  else
    let q := { p with dir := 1, mbase := 0, mspan := g.m }
    if g.dist then
      g.kids.foldl (fun s k =>
        if k.node = s.ownPkg then s.push [.event .receivePacket (.packet q)] else s.sendPacket k.port q) s
    else if g.dest = s.ownPkg then s.push [.event .receivePacket (.packet q)]
    else { s with out := s.out ++ [.routed g.dest q.words] }

/-! ### Instances (R418) -/

def State.inst? (s : State) (group seq : Nat) : Option Inst :=
  s.insts.find? fun x => decide (x.group = group ∧ x.seq = seq)

def State.modInst (s : State) (group seq : Nat) (f : Inst → Inst) : State :=
  { s with insts := s.insts.map fun x => if x.group = group ∧ x.seq = seq then f x else x }

/-- Members a child has accounted for. -/
def KidVal.done (v : KidVal) (k : Child) : Bool := (v.bits ||| v.miss) % 2 ^ k.mspan == maskN k.mspan

/-- Contributors and missing members of an instance, from the base of the node's span. -/
def Inst.union (x : Inst) (g : GroupEnt) (f : KidVal → Nat) : Nat :=
  ((g.kids.zip x.kids).map fun p => f p.2 * 2 ^ (p.1.mbase - g.base)).foldl (· ||| ·) 0

def Inst.accounted (x : Inst) (g : GroupEnt) : Bool := (g.kids.zip x.kids).all fun p => p.2.done p.1
def Inst.vals (x : Inst) : List (List Word) := x.kids.filterMap (·.val)

/-- A packet of an instance with this node's header. -/
def State.nodePacket (s : State) (g : GroupEnt) (x : Inst) (kind ver : Nat) (ws : List Word) (bits : Nat) : Packet :=
  { kind := kind, dir := 0, op := x.op, fmt := x.fmt, lenm1 := x.lenm1, seq := x.seq, group := x.group,
    node := s.ownPkg, ver := ver % 256, mbase := g.base, mspan := g.span, count := ones g.span bits,
    payload := withResidues ws, bitmap := bits }

/-- Send a value over the children that have one. -/
def State.sendValue (s : State) (g : GroupEnt) (x : Inst) : State :=
  let bits := x.union g (·.bits)
  let (kind, ver) := match x.sent with
    | some v => (3, v + 1)
    | none => (if bits = maskN g.span then 1 else 2, 0)
  let ws := redResult x.op x.fmt s.ownPkg x.seq (x.lenm1 + 1) x.vals
  (s.emitPacket g (s.nodePacket g x kind ver ws bits)).modInst x.group x.seq fun x => { x with sent := some (ver % 256) }

/-- Send CLOSE with a set of members. -/
def State.sendClose (s : State) (g : GroupEnt) (x : Inst) (bits : Nat) : State :=
  s.emitPacket g (s.nodePacket g x 4 (x.sent.getD 0) [] bits)

def State.releaseInst (s : State) (x : Inst) : State := s.modInst x.group x.seq fun x => { x with released := true }

/-- What a node does once a packet has changed an instance (R418). -/
def State.settle (s : State) (g : GroupEnt) (group seq : Nat) (value : Bool) : State :=
  match s.inst? group seq with
  | none => s
  | some x =>
    let all := x.accounted g
    let first := x.sent.isNone && !x.vals.isEmpty && (x.expired || all)
    let s1 := if (value && x.sent.isSome) || first then s.sendValue g x else s
    match s1.inst? group seq with
    | none => s1
    | some y =>
      if all ∧ y.sent.isSome then
        let miss := y.union g (·.miss)
        (if miss = 0 then s1 else s1.sendClose g y miss).releaseInst y
      else s1

/-- The child that sent a packet: the own member, or the child of that node number and member range. -/
def State.kidOf (s : State) (g : GroupEnt) (p : Packet) : Option Nat :=
  (List.range g.kids.length).find? fun k =>
    match g.kids[k]? with
    | some c => c.mbase == p.mbase && c.mspan == p.mspan && (c.node == p.node || (p.node == s.ownPkg && c.mbase == g.self))
    | none => false

/-- Take a record for a new instance, when fewer than WINM1 + 1 are open. A released one stays named as such until its
group's entry is written (log 36). -/
def State.openInst (s : State) (g : GroupEnt) (p : Packet) : Option State :=
  let x : Inst :=
    { group := p.group, seq := p.seq, op := p.op, fmt := p.fmt, lenm1 := p.lenm1, start := s.linkClk.getD g.pport 0,
      kids := g.kids.map fun _ => ⟨none, 0, 0⟩, sent := none, expired := false, released := false }
  if (s.insts.filter fun y => y.group == p.group && !y.released).length < g.win then
    some { s with insts := s.insts ++ [x] }
  else none

/-- A packet toward the root acts on its instance. -/
def State.upPacket (s : State) (g : GroupEnt) (p : Packet) (k : Nat) : State :=
  match s.inst? p.group p.seq with
  | none => s
  | some x =>
    let v := x.kids.getD k ⟨none, 0, 0⟩
    let put (y : KidVal) : State := s.modInst p.group p.seq fun x => { x with kids := x.kids.set k y }
    if 4 ≤ p.kind then
      -- CLOSE, WITHDRAW; a withdrawal after the contribution is discarded (R426)
      if p.kind = 5 ∧ v.bits &&& p.bitmap ≠ 0 then s
      else (put { v with miss := v.miss ||| p.bitmap }).settle g p.group p.seq false
    else if p.kind = 0 ∧ v.miss &&& p.bitmap ≠ 0 then s
    else
      (put { v with val := some (p.payload.map (·.1)), bits := p.bitmap }).settle g p.group p.seq true

/-- Packets of kinds and operations that are discarded (R416). -/
def Packet.unknown (p : Packet) : Bool := decide (5 < p.kind ∨ 1 < p.op)

/-- A packet from the root: an interior node sends on to its children what comes down the tree, and its own member takes
it; a packet routed to this package alone is for its receive places (R419). -/
def State.downPacket (s : State) (g : GroupEnt) (p : Packet) (routed : Bool) : State :=
  let tree := g.role == 1 && !routed
  let s1 := if tree then
      g.kids.foldl (fun s k => if k.node = s.ownPkg then s else s.sendPacket k.port p) s
    else s
  if tree ∧ g.self = 0x1FFF then s1 else s1.push [.event .receivePacket (.packet p)]

/-- A packet at the package's link router (R416, R418, R419). -/
def State.takePacket (s : State) (p : Packet) (routed : Bool) : State :=
  if p.unknown then s
  else if p.payload.any fun w => residue w.1 != w.2 then s.drBad
  else
    match s.groupEnt p.group with
    | none => s.drBad
    | some g =>
      if p.dir = 1 then s.downPacket g p routed
      else if g.role = 0 then s.drBad
      else
        match s.kidOf g p with
        | none => s.drBad
        | some k =>
          match s.inst? p.group p.seq with
          | some x =>
            if x.released then s.drLate
            else if x.op ≠ p.op ∨ x.fmt ≠ p.fmt ∨ x.lenm1 ≠ p.lenm1 then s.drBad
            else s.upPacket g p k
          | none =>
            match s.openInst g p with
            | none => s.drLate
            | some s1 => s1.upPacket g p k

/-- REDUCTION_PACKET: the words of a packet that arrives at a port, or a packet of this package's own member. In power
state 3 the ports are off and nothing arrives (R464; log 41). -/
def execReductionPacket (s : State) : Out :=
  match s.actor with
  | .flits routed ws => .next (if s.dv.pstate = 3 then s else s.takePacket (Packet.ofWords ws) routed)
  | .packet p => .next (s.takePacket p false)
  | _ => .fault .noActor

/-- Link clocks that an instance has been open, at the port that counts them (R414). -/
def State.instAge (s : State) (g : GroupEnt) (x : Inst) : Nat := s.linkClk.getD g.pport 0 - x.start

/-- DEADLINE_EXPIRY: D of an instance expires (R418). -/
def execDeadlineExpiry (s : State) : Out :=
  match s.actor with
  | .inst group seq =>
    match s.inst? group seq, s.groupEnt group with
    | some x, some g =>
      if x.released ∨ x.expired ∨ s.instAge g x < g.d then .next s
      else
        let s1 := s.modInst group seq fun x => { x with expired := true }
        .next (if x.sent.isNone ∧ ¬ x.vals.isEmpty then s1.sendValue g x else s1)
    | _, _ => .next s
  | _ => .fault .noActor

/-- CLOSE_DEADLINE_EXPIRY: DC expires (R418). -/
def execCloseDeadlineExpiry (s : State) : Out :=
  match s.actor with
  | .inst group seq =>
    match s.inst? group seq, s.groupEnt group with
    | some x, some g =>
      if x.released ∨ s.instAge g x < g.dc then .next s
      else
        let have_ := if x.sent.isSome then x.union g (·.bits) else 0
        .next ((s.sendClose g x (maskN g.span - have_)).releaseInst x)
    | _, _ => .next s
  | _ => .fault .noActor

/-! ### Receive places (R424, R425) -/

/-- Local address of byte o of a list of ranges. -/
def rangeAddr : List Range → Nat → Nat
  | [], _ => 0
  | r :: rs, o => if o < r.len then r.pa + o else rangeAddr rs (o - r.len)

/-- Words over ranges, each with its address. -/
def rangeWords (rs : List Range) (ws : List Word) : List (Nat × Word) := ws.mapIdx fun k w => (rangeAddr rs (8 * k), w)

/-- An element multiplied by M and divided by COUNT, to more bits than any format rounds to, with a last bit that
stands for the rest (R424). -/
def scaleUp (m count : Nat) (x : FVal) : FVal :=
  match x with
  | .fin neg k e =>
    let n := k * m * 2 ^ 80
    let q := n / count
    .fin neg (2 * q + (if n % count = 0 then 0 else 1)) (e - 81)
  | _ => x

/-- The value that a receive writes. -/
def Place.value (p : Place) (v : Packet) : List Word :=
  let ws := v.payload.map (·.1)
  if p.form ∨ v.kind = 1 ∨ v.op = 1 ∨ v.count = 0 then ws
  else ws.map fun w => redPack v.fmt .rne (fun _ => 0) ((redElems v.fmt w).map (scaleUp p.m v.count))

/-- RESULT of a receive (R422). -/
def Place.result (p : Place) (cause : Nat) (v : Option Packet) : Word :=
  match v with
  | some v =>
    BitVec.ofNat 64 (cause * 2 ^ 48 + v.kind % 16 * 2 ^ 44 + v.ver % 256 * 2 ^ 36 + v.count % 2 ^ 13 * 2 ^ 23 +
      p.m % 2 ^ 13 * 2 ^ 10 + 1)
  | none => BitVec.ofNat 64 (cause * 2 ^ 48 + p.m % 2 ^ 13 * 2 ^ 10 + 1)

/-- A failure of a receive passes into its record (R391); there is no issuing task. -/
def State.failHandle (s : State) (h cause : Nat) : State :=
  if handleIdx h = 0 then s
  else
    match s.recState h with
    | 1 => if s.recBad h then s.abandonBad h else (s.addErr h cause).setTrState h 6
    | 6 => s.addErr h cause
    | _ => s.dropDec h

/-- A receive finalises: the value and the bitmap without the members of a CLOSE are to be written; without a value nothing
is (R424, R425). -/
def State.finalise (s : State) (k : Nat) (p : Place) : State :=
  let miss := match p.close with
    | some c => c.bitmap
    | none => 0
  let (todo, cause) := match p.val with
    | none => ([], Cause.drNovalue)
    | some v =>
      let bits := v.bitmap &&& (maskN p.m ^^^ (miss % 2 ^ p.m))
      (rangeWords p.dst (p.value v) ++ rangeWords p.map (mapWords p.m bits), 0)
  { s with places := s.places.set k { p with st := 3, todo := todo, cause := cause } }

/-- Words of a finalisation that are written now, each an access of its own (R286). Where one can fail at its home, they are
written in one step, or none is and the receive fails (R391). -/
def State.placeWrites (s : State) (k : Nat) (p : Place) : State :=
  let risky := p.todo.any fun w => s.mayFail w.1
  match if risky then p.todo.find? fun w => s.storeCause w.1 != 0 else none with
  | some w => { s with places := s.places.set k { p with todo := [], cause := s.storeCause w.1 } }
  | none =>
    let now := if risky then List.range p.todo.length else s.actNow p.todo.length
    let s1 := now.foldl (fun s k =>
      let w := p.todo.getD k (0, 0)
      s.putWord w.1 w.2) s
    let rest := (p.todo.mapIdx fun k w => (k, w)).filterMap fun x => if now.contains x.1 then none else some x.2
    { s1 with places := s1.places.set k { p with todo := rest } }.tick

/-- The end of a finalisation: RESULT, the record, and the place, which keeps the instance as a tag (R422, R424). -/
def State.endPlace (s : State) (k : Nat) (p : Place) : State :=
  let refused := s.storeCause p.res
  let s1 := if refused = 0 then s.putWord p.res (p.result p.cause p.val) else s
  let cause := if p.cause = 0 then refused else p.cause
  let s2 := if cause = 0 then s1.succeedInto p.handle else s1.failHandle p.handle cause
  let tag : Place := { Place.free with st := 2, group := p.group, seq := p.seq, finAt := s2.nextId }
  { s2 with places := s2.places.set k tag, nextId := s2.nextId + 1 }

/-- A turn of a place that finalises: words of it, and once all are written its end, which is the one engine completion of the
clock at the home of its record (R360). -/
def State.placeTurn (s : State) (k : Nat) : State :=
  match s.places[k]? with
  | none => s
  | some p =>
    if p.st ≠ 3 then s
    else if !p.todo.isEmpty then s.placeWrites k p
    else if handleIdx p.handle = 0 then s.endPlace k p
    else if s.opBusy (handleDie p.handle) then s
    else (s.useOp (handleDie p.handle)).endPlace k p

/-- Whether a receive finalises on what it holds: the packet that came is a value or a CLOSE (R424). -/
def Place.ready (p : Place) (value : Bool) : Bool :=
  match p.val with
  | some v =>
    if p.form then
      (value && (v.kind == 1 || (v.kind == 3 && v.count == p.m))) ||
      (match p.close with
       | some c => decide (p.m ≤ v.count + c.count)
       | none => false)
    else value
  | none =>
    p.form && (match p.close with
      | some c => decide (p.m ≤ c.count)
      | none => false)

/-- A value packet, not a CLOSE. -/
def Packet.isValue (p : Packet) : Bool := decide (1 ≤ p.kind ∧ p.kind ≤ 3)

/-- Give a packet to an armed receive. -/
def State.feed (s : State) (k : Nat) (p : Place) (q : Packet) : State :=
  if q.op ≠ p.op ∨ q.fmt ≠ p.fmt ∨ q.lenm1 ≠ p.lenm1 then s.drBad
  else
    let p1 := if q.isValue then { p with val := some q } else { p with close := some q }
    if p1.ready q.isValue then s.finalise k p1 else { s with places := s.places.set k p1 }

/-- The place of an instance in a state. -/
def State.placeOf (s : State) (group seq st : Nat) : Option Nat :=
  (List.range s.places.length).find? fun k =>
    match s.places[k]? with
    | some p => p.st == st && p.group == group && p.seq == seq
    | none => false

/-- Keep a packet of an instance that is not armed, in one of 16 places. -/
def State.keepPacket (s : State) (q : Packet) : State :=
  match s.unclaimed.find? fun u => decide (u.group = q.group ∧ u.seq = q.seq) with
  | some u =>
    let v :=
      if q.isValue then
        match u.val with
        | some w => if w.ver ≤ q.ver then some q else some w
        | none => some q
      else u.val
    let c := if q.isValue then u.close else some q
    { s with unclaimed := s.unclaimed.map fun x =>
        if x.group = q.group ∧ x.seq = q.seq then { x with val := v, close := c } else x }
  | none =>
    let u : Unclaimed := ⟨q.group, q.seq, if q.isValue then some q else none, if q.isValue then none else some q⟩
    { s with unclaimed := (if s.unclaimed.length < 16 then s.unclaimed else s.unclaimed.drop 1) ++ [u] }

/-- Whether an instance has finalised, or is finalising, in a place that still names it. -/
def State.finalised (s : State) (group seq : Nat) : Bool :=
  (s.placeOf group seq 2).isSome || (s.placeOf group seq 3).isSome

/-- A value or CLOSE at the receive places: an armed receive takes it, one that has finalised does not (R424). -/
def State.receive1 (s : State) (q : Packet) : State :=
  match s.placeOf q.group q.seq 1 with
  | some k => s.feed k (s.places.getD k Place.free) q
  | none => if s.finalised q.group q.seq then s.drLate else s.keepPacket q

/-- RECEIVE_PACKET: a packet from the root reaches the receive places of its member; a place that finalises, by its number,
writes (R424). -/
def execReceivePacket (s : State) : Out :=
  match s.actor with
  | .id k => .next (s.placeTurn k)
  | .packet q => .next (if q.isValue ∨ q.kind = 4 then s.receive1 q else s)
  | _ => .fault .noActor

/-- The place that an arming takes: one never armed, else the one finalised longest ago. -/
def State.freePlace (s : State) : Option Nat :=
  let at_ (k : Nat) : Place := s.places.getD k Place.free
  let ks := List.range s.places.length
  match ks.find? fun k => (at_ k).st == 0 with
  | some k => some k
  | none =>
    (ks.filter fun k => (at_ k).st == 2).foldl (fun b k =>
      match b with
      | none => some k
      | some j => if (at_ k).finAt < (at_ j).finAt then some k else some j) none

/-! ### REDUCTION_ACCEPTANCE, CONTRIBUTION_SENT (R421, R423 to R425) -/

/-- Remove a command. -/
def State.dropCmd (s : State) (id : Nat) : State := { s with cmds := s.cmds.filter fun x => decide (x.id ≠ id) }

/-- A status of a reduction command at its acceptance. -/
def State.redStatus (s : State) (c : Cmd) (code info : Nat) : State := s.cmdStatus c.ref c.gid c.cell code info s.clock

/-- A BADSTATE status: no state is numbered, and its information is a free value. -/
def State.redBadState (s : State) (c : Cmd) : State := s.tick.redStatus c 2 (Config.info s.freeCount)

/-- Arm a receive, which claims what came before it: a value, then a CLOSE, each as if it came now (R424, R489). -/
def State.arm (s : State) (c : Cmd) : State :=
  let group := rbGroup c.blk
  let seq := rbSeq c.blk
  if (s.placeOf group seq 1).isSome ∨ s.finalised group seq then s.redBadState c
  else
    match s.freePlace with
    | none => s.redStatus c 1 64
    | some k =>
      let m := match s.groupEnt group with
        | some g => g.m
        | none => 0
      let p : Place :=
        { Place.free with
          st := 1, group := group, seq := seq, form := c.op == .drrecvW, handle := c.handle, dst := c.srcs,
          map := c.dsts, res := c.blkPa + 24, m := m, fmt := rbFmt c.blk, op := rbOp c.blk, lenm1 := rbLen c.blk - 1 }
      let s1 := { (s.redStatus c 0 0) with places := s.places.set k p }
      match s1.unclaimed.find? fun u => decide (u.group = group ∧ u.seq = seq) with
      | none => s1
      | some u =>
        let s2 := { s1 with unclaimed := s1.unclaimed.filter fun x => decide (¬(x.group = group ∧ x.seq = seq)) }
        (u.val.toList ++ u.close.toList).foldl State.receive1 s2

/-- Send WITHDRAW or CONTRIB of this package's member toward its parent: the own node when the package has a role. -/
def State.sendMember (s : State) (g : GroupEnt) (p : Packet) : State :=
  if g.role = 0 then s.sendPacket g.pport p else s.push [.event .reductionPacket (.packet p)]

/-- A packet of this package's member. -/
def State.memberPacket (s : State) (g : GroupEnt) (b : List Word) (kind : Nat) (ws : List Word) : Packet :=
  { kind := kind, dir := 0, op := rbOp b, fmt := rbFmt b, lenm1 := rbLen b - 1, seq := rbSeq b, group := rbGroup b,
    node := s.ownPkg, ver := 0, mbase := g.self, mspan := 1, count := 1, payload := withResidues ws, bitmap := 1 }

/-- REDUCTION_ACCEPTANCE: the link router of a die takes the head of the reduction queue. -/
def execReductionAcceptance (s : State) : Out :=
  match s.actor with
  | .die d =>
    match s.die? d with
    | none => .fault .noActor
    | some x =>
      match x.redQ.head?.bind s.cmd? with
      | none => .next s
      | some c =>
        if s.clock < c.due then .next s
        else
          let s1 := s.modDie d fun d => d.dequeueCmd c.id
          match c.op with
          | .dred =>
            .next (((s1.setPend c.task (s1.trPend c.task + 1)).redStatus c 0 0).modCmd c.id fun c =>
              { c with st := 1, due := s.clock + 1 + Config.wait s.freeCount }).tick
          | .drclose =>
            .next ((match s1.placeOf (rbGroup c.blk) (rbSeq c.blk) 1 with
              | none => s1.redBadState c
              | some k => (s1.redStatus c 0 0).finalise k (s1.places.getD k Place.free)).dropCmd c.id)
          | .drcloseW =>
            .next ((match s1.groupEnt (rbGroup c.blk) with
              | some g => (s1.redStatus c 0 0).sendMember g (s1.memberPacket g c.blk 5 [])
              | none => s1.redStatus c 0 0).dropCmd c.id)
          | _ => .next ((s1.arm c).dropCmd c.id)
  | _ => .fault .noActor

/-- Virtual addresses of the words that a DRED contributes. -/
def dredVas (c : Cmd) : List Nat := (List.range (rbLen c.blk)).map fun k => fld (blk c.blk 1) 0 57 + 8 * k

/-- CONTRIBUTION_SENT: words of the source are read; once all are, the packet enters the link router (R423). A source
that cannot be read sends none (R391, R392); its completion is the SYE's one of the clock (R360). -/
def execContributionSent (s : State) : Out :=
  match s.actor with
  | .id n =>
    match s.cmd? n with
    | none => .next s
    | some c =>
      if c.st ≠ 1 ∨ c.op ≠ .dred ∨ s.clock < c.due ∨ s.endBusy c then .next s
      else
        match (dredVas c).filter fun va => !c.snap.any fun w => w.va == va with
        | [] =>
          match (dredVas c).mapM c.read with
          | .error x =>
            let s1 := s.cmdOver c x
            .next ((s1.useEnd c).endCmd { c with cause := x } 3 (BitVec.ofNat 64 (x * 2 ^ 48 + 1)))
          | .ok ws =>
            let s1 : State := ((dredVas c).zip ws).foldl (fun s w => s.addSig c.ref.load c.slot w.1 w.2) s
            let s2 := match s1.groupEnt (rbGroup c.blk) with
              | some g => s1.sendMember g (s1.memberPacket g c.blk 0 ws)
              | none => s1
            .next ((s2.useEnd c).endCmd c 3 1)
        | todo => .next (s.cmdSnap c todo)
  | _ => .fault .noActor

end Sys2Proof.Machine
end

