-- ==== Sys2Proof/Machine/SeqSys.lean ====
section
/-! DEFINITION. The sequencer's control registers, events, system requests and fence, an undefined word, and the entry
to a trap that is pending (R64, R366, R368, R370 to R372, R381, R382). -/

namespace Sys2Proof.Machine

open Sys2Proof

/-- sq.TILEID (R367). -/
def State.tileId (s : State) (t : Nat) : Word :=
  let (fab, lt) := match s.residentOn t with
    | some (l, lt) => (l.ref.fab, lt)
    | none => (63, 0)
  let inst := decide (s.installer (t / 48) = some t)
  BitVec.ofNat 64 (t * 2 ^ 48 + t / 48 * 2 ^ 46 + t % 48 * 2 ^ 40 + fab * 2 ^ 34 + lt * 2 ^ 28 + boolN inst * 2 ^ 27)

/-- sq.WREFPH: the refresh phase of the die (R269, R270; log 13). -/
def State.wrefph (s : State) : Nat := s.clock % 4096

/-- A register of R366 as it reads; none for a number that is not listed. -/
def State.scrRead (s : State) (t : Nat) (q : Seq) (n : Nat) : Option Word :=
  match n with
  | 0x000 => some q.status
  | 0x001 => some q.epc
  | 0x002 => some q.cause
  | 0x003 => some q.detail
  | 0x004 => some q.tvec
  | 0x005 => some q.sysret
  | 0x010 => some (BitVec.ofNat 64 s.clock)
  | 0x011 => some (s.tileId t)
  | 0x012 => some (BitVec.zeroExtend 64 q.evpend)
  | 0x020 => some (BitVec.zeroExtend 64 q.rndrank)
  | 0x021 => some (BitVec.zeroExtend 64 q.rndstep)
  | 0x022 => some (BitVec.ofNat 64 s.wrefph)
  | 0x030 => some (BitVec.ofNat 64 (t * 2 ^ 40 + q.tinvseq.toNat))
  | 0x031 => some (BitVec.ofNat 64 (t * 2 ^ 40 + q.tinvdone.toNat))
  | 0x040 => some q.instst
  | 0x043 => some (match s.die? (t / 48) with | some d => d.csreq | none => 0)
  | 0x050 => some (q.fmap.getD 0 0)
  | 0x051 => some (q.fmap.getD 1 0)
  | 0x052 => some (q.fmap.getD 2 0)
  | 0x053 => some (q.fmap.getD 3 0)
  | _ => none

/-- Whether a register has no user access (R366). -/
def scrPrivOnly (n : Nat) : Bool :=
  n == 0x001 || n == 0x002 || n == 0x003 || n == 0x004 || n == 0x005 || n == 0x040 || n == 0x043

/-- The bits that a privileged write changes (R366, R367): zero for a register that is RO, and
for sq.DETAIL, whose bits Seq.dmask gives. -/
def scrMask (n : Nat) : Word :=
  match n with
  | 0x000 => 0xE
  | 0x001 => BitVec.allOnes 64
  | 0x002 => 0xFFFF000000000000
  | 0x004 => 0xFFFFFFFFFFFFFFFC
  | 0x005 => BitVec.allOnes 64
  | 0x020 => 0xFFFFFFFF
  | 0x021 => 0xFFFFFFFF
  | _ => 0

/-- Write the fields of a register that are not RO; the bits of sq.DETAIL that its layout reserves stay zero (R6); sq.EVPEND is
cleared where the value holds 1 (R370). -/
def Seq.scrWrite (q : Seq) (n : Nat) (v : Word) : Seq :=
  let m := scrMask n
  let mix (old : Word) : Word := (old &&& ~~~m) ||| (v &&& m)
  match n with
  | 0x000 => { q with status := mix q.status }
  | 0x001 => { q with epc := mix q.epc }
  | 0x002 => { q with cause := mix q.cause }
  | 0x003 => { q with detail := (q.detail &&& ~~~q.dmask) ||| (v &&& q.dmask) }
  | 0x004 => { q with tvec := mix q.tvec }
  | 0x005 => { q with sysret := mix q.sysret }
  | 0x012 => { q with evpend := q.evpend &&& ~~~(BitVec.truncate 4 v) }
  | 0x020 => { q with rndrank := BitVec.truncate 32 v }
  | 0x021 => { q with rndstep := BitVec.truncate 32 v }
  | _ => q

/-- SCRR to SCRC (R370): f gives the value written from the old value and a; none for SCRR. An unlisted number traps
ILLEGAL, a register without user access traps PRIVILEGE in user mode; in user mode a listed register is only read. -/
def scr (f : Option (Word → Word → Word)) (d a : BitVec 5) (n : BitVec 14) (s : State) : Out :=
  withSeq s fun t q =>
    match s.scrRead t q n.toNat with
    | none => s.trapQ t Cause.illegal
    | some old =>
      if scrPrivOnly n.toNat && !q.priv then s.trapQ t Cause.privilege
      else
        let q1 := match f with
          | some g => if q.priv then q.scrWrite n.toNat (g old (q.reg a)) else q
          | none => q
        s.modSeq t fun _ => { (q1.setReg d old).next with busy := s.clock + 1 }

def execScrr (d a : BitVec 5) (n : BitVec 14) (s : State) : Out := scr none d a n s
def execScrw (d a : BitVec 5) (n : BitVec 14) (s : State) : Out := scr (some fun _ x => x) d a n s
/-- SCRS and SCRC: on sq.EVPEND, a W1C field, GA's value is the value written, as for SCRW (R370; log 22). -/
def execScrs (d a : BitVec 5) (n : BitVec 14) (s : State) : Out :=
  scr (some fun t x => if n.toNat = 0x012 then x else t ||| x) d a n s
def execScrc (d a : BitVec 5) (n : BitVec 14) (s : State) : Out :=
  scr (some fun t x => if n.toNat = 0x012 then x else t &&& ~~~x) d a n s

/-- WEV (R372). While it waits, the word stays where it is. -/
def execWev (d a : BitVec 5) (s : State) : Out :=
  withSeq s fun t q =>
    let m : BitVec 4 := BitVec.truncate 4 (q.reg a)
    let hit := q.evpend &&& m
    if m ≠ 0 ∧ hit = 0 then s.modSeq t fun q => { q with wev := some (d, a) }
    else
      s.modSeq t fun q =>
        { (q.setReg d (BitVec.zeroExtend 64 hit)).next with
          evpend := q.evpend &&& ~~~hit, wev := none, busy := s.clock + 1 }

/-- SYSR (R381): FN below 8 reads a value, FN 8 and above traps SYSCALL. -/
def execSysr (d _a : BitVec 5) (f : BitVec 11) (s : State) : Out :=
  withSeq s fun t _ =>
    match f.toNat with
    | 0 => s.seqDone t d (BitVec.ofNat 64 s.clock) 1
    | 1 => s.seqDone t d (s.tileId t) 1
    | 2 => s.seqDone t d (BitVec.ofNat 64 s.ownPkg) 1
    | n => if n < 8 then s.seqDone t d 0 1
           else s.trapSeq t (.sys d.toNat) Cause.syscall (BitVec.zeroExtend 64 f)

/-- Whether every load and store that a tile's sequencer has issued is performed at a scope. -/
def State.seqFenced (s : State) (t scope : Nat) : Bool := (s.seqAccs t).all fun w => s.writtenAt w scope

/-- FENCE (R303, R382): the word waits until every earlier load and store of the sequencer is performed at its scope. -/
def execSeqFence (sc : BitVec 4) (s : State) : Out :=
  withSeq s fun t _ =>
    if s.seqFenced t sc.toNat then s.modSeq t fun q => { q.next with busy := s.clock + 1 } else s

/-- ILLEGAL: an undefined word has no effect and traps (R64). -/
def execIllegal (s : State) : Out := withSeq s fun t _ => s.trapQ t Cause.illegal

/-- TRAP_ENTRY: the sequencer takes the first pending trap at its next fetch (R368, R429). -/
def execTrapEntry (s : State) : Out :=
  withSeq s fun t q =>
    match q.pend with
    | [] => s
    | p :: ps =>
      if q.inTrap then s
      else s.modSeq t fun q => { q.enter p with pend := ps }

end Sys2Proof.Machine
end

