-- ==== Sys2Proof/Machine/Tinv.lean ====
section
/-! DEFINITION. Translation invalidation: TINV and the DRAIN tokens it places (R261 to R263). -/

namespace Sys2Proof.Machine

open Sys2Proof

/-- First granule and the one after the last of a TINV: the whole address space when GB is 0. -/
def tinvRange (a b : Word) : Nat × Nat :=
  if b = 0 then (0, 2 ^ 41) else (fld a 16 41, fld a 16 41 + b.toNat)

/-- Whether a kept descriptor overlaps granules lo to hi. -/
def CDesc.meets (c : CDesc) (lo hi : Nat) : Bool :=
  let n := 2 ^ (lvlShift c.level - 16)
  let wide := c.level == 0 && pdSz c.d == 1
  let first := if wide then c.vidx / 32 * 32 else c.vidx * n
  decide (first < hi ∧ lo < first + if wide then 32 else n)

def Run.meets (r : Run) (lo hi : Nat) : Bool := decide (r.vbase < hi ∧ lo < r.vbase + r.n)

/-- A run in the range is absent from now on. -/
def Run.inval (lo hi : Nat) (r : Run) : Run := if r.meets lo hi then { r with p := false } else r
def SlotX.inval (lo hi : Nat) (x : SlotX) : SlotX := { x with runs := x.runs.map (Run.inval lo hi) }

/-- Runs of a fabric load that overlap the range. -/
def Load.runsIn (x : Load) (lo hi : Nat) : Nat :=
  (x.slots.map fun t => match t with
    | some t => (t.runs.filter fun r => r.meets lo hi).length
    | none => 0).foldl (· + ·) 0

/-- Drop what the range covers from every cache, extent table and saved frame. -/
def State.invalidate (s : State) (lo hi : Nat) : State :=
  let keep (cs : List CDesc) : List CDesc := cs.filter fun c => !c.meets lo hi
  let inv (ts : List (Option SlotX)) : List (Option SlotX) := ts.map fun t => t.map (SlotX.inval lo hi)
  { s with
    seqs := s.seqs.map fun q => { q with tc := keep q.tc }
    dies := s.dies.map fun d =>
      { d with hcache := keep d.hcache, disp := d.disp.map fun p => { p with x := p.x.inval lo hi } }
    loads := s.loads.map fun x => { x with slots := inv x.slots }
    saved := s.saved.map fun v => { v with tasks := inv v.tasks } }

/-- Whether a virtual address lies in a TINV's granules. -/
def tinvHits (lo hi va : Nat) : Bool := decide (lo ≤ va / 0x10000 ∧ va / 0x10000 < hi)

/-- Place a DRAIN token at the stream port of an MPE, behind every access the port has issued (R263). It is no access of a
program, and no FENCE, task or retirement waits for it (R308). -/
def State.placeDrain (s : State) (r : ElemRef) (seq lo hi : Nat) : State :=
  let due := ((s.accs.filter fun w => w.ref == r).map (·.due)).foldl max (s.clock + 1)
  { s with
    accs := s.accs ++
      [{ id := s.nextId, ref := r, tile := 0, gid := 0, cell := 0, op := .drain seq lo hi, pa := 0, va := 0, fmt := 0, cls := 0,
         slot := 0, due := due + s.waitNow, back := 0, ownAt := 0, tileAt := 0, dieAt := 0, deferred := false, held := false,
         taken := false }]
    nextId := s.nextId + 1
    freeCount := s.freeCount + 1 }

/-- The MPEs that take DRAIN tokens of a range, one for each run. -/
def State.drainPorts (s : State) (lo hi : Nat) : List ElemRef :=
  s.loads.flatMap fun x =>
    let n := x.runsIn lo hi
    (s.elems.filter fun e => e.ref.load == x.ref && kindAt e.ref.site == .mpe).flatMap fun e => List.replicate n e.ref

/-- A TINV is complete: sq.TINVDONE and the TINV event (R261). -/
def State.tinvComplete (s : State) (tile seq : Nat) : State :=
  (s.modSeq tile fun q =>
    { q with tinvdone := BitVec.ofNat 40 seq, tinvs := q.tinvs.filter fun x => decide (x.1 ≠ seq) }).setEvent tile 3

/-- The nodes that no DRAIN token of a TINV brings back are written back at once: those that lie in no arbor run of a fabric
load with an MPE (R317). -/
def State.dropOrphans (s : State) : State :=
  let rs := s.loads.flatMap fun x =>
    if s.elems.any fun e => e.ref.load == x.ref && kindAt e.ref.site == .mpe then
      x.slots.flatMap fun t => match t with
        | some t => t.runs.filter fun r => r.cls == 2
        | none => []
    else []
  s.writeBack fun a => !rs.any fun r => decide (r.ppn * 0x10000 ≤ a ∧ a < (r.ppn + r.n) * 0x10000)

/-- TINV: privileged (R65, R261). It waits for the accesses of sequencers over its range, which use what it drops. -/
def execTinv (a b : BitVec 5) (s : State) : Out :=
  withSeq s fun t q =>
    if ¬ q.priv then s.trapQ t Cause.privilege
    else
      let n := (q.tinvseq + 1).toNat
      let (lo, hi) := tinvRange (q.reg a) (q.reg b)
      if s.accs.any fun w => w.op.ofSeq && tinvHits lo hi w.va then s
      else
        let ports := s.drainPorts lo hi
        let s1 := (s.modSeq t fun q =>
          { q.next with tinvseq := BitVec.ofNat 40 n, tinvs := q.tinvs ++ [(n, ports.length)], busy := s.clock + 1 })
        let s2 := ports.foldl (fun s r => s.placeDrain r (t * 2 ^ 40 + n) lo hi) (s1.invalidate lo hi).dropOrphans
        if ports.isEmpty then s2.tinvComplete t n else s2

/-- Whether a TINV has dropped the translation of a virtual address of a slot: the whole run that holds it, where its range
meets the run (R261). -/
def State.dropped (s : State) (l : LoadRef) (slot lo hi va : Nat) : Bool :=
  match (s.slotTask l slot).bind fun x => findRun x.runs va none with
  | some r => r.meets lo hi
  | none => tinvHits lo hi va

/-- Whether every access that an MPE issued before a DRAIN token has been performed: a deferral entry and another DRAIN
token are not waited for. Remote requests count, the traversals that go on over a run that was dropped, and the chunks in
flight of its copies that use one (R263, R317, R330, R390). -/
def State.drained (s : State) (w : Access) (lo hi : Nat) : Bool :=
  let l := w.ref.load
  let streams := match s.load? l with
    | some x => x.phase == .resident || x.phase == .retiring
    | none => false
  (s.accs.all fun x => x.ref != w.ref || decide (w.id ≤ x.id) || x.deferred || x.op.isDrain) &&
  (s.remotes.all fun x => x.ref != w.ref || x.what.isProbe || decide (w.id ≤ x.tag)) &&
  (s.dies.all fun d =>
    (d.gde.all fun g => g.read || g.reqs.all fun q => q.ref != w.ref || decide (w.id ≤ q.gid)) &&
    (d.gdeWait.all fun g => g.req.ref != w.ref || decide (w.id ≤ g.req.gid))) &&
  (match s.elem? w.ref with
   | some e => !streams || e.mpe.travs.all fun t =>
       decide (w.id ≤ t.gid) || !s.dropped l (opSlot t.a) lo hi (opVa t.a)
   | none => true) &&
  (s.cmds.all fun c => c.ref != w.ref || !c.inFlight.any (s.dropped l c.slot lo hi))

/-- Requesters of a gather entry, of one MPE, whose row lies in the range. -/
def State.goneReqs (s : State) (r : ElemRef) (lo hi : Nat) (g : GdeEntry) : List GReq :=
  g.reqs.filter fun q => q.ref == r &&
    (match s.group? r q.gid with | some x => tinvHits lo hi (gRow x.b q.idx) | none => false)

/-- Cancel what a gather entry that holds deferral entries owes an MPE in the range; an entry of no requester is freed. -/
def State.cancelRow (s : State) (r : ElemRef) (lo hi d : Nat) (g : GdeEntry) : State :=
  let gone := s.goneReqs r lo hi g
  let s1 := gone.foldl (fun s q => s.deliverRow { g with cause := Cause.page } q) s
  if gone.length = g.reqs.length then s1.freeGde d g.id
  else s1.modGde d g.id fun g => { g with reqs := g.reqs.filter fun q => !gone.contains q }

/-- Cancel the deferral entries of an MPE in a range: each replies PAGE (R263). -/
def State.cancelDefers (s : State) (r : ElemRef) (lo hi : Nat) : State :=
  let s1 := (s.accs.filter fun x => x.ref == r && x.deferred && tinvHits lo hi x.va).foldl (fun s x => s.accFail x Cause.page) s
  s1.dies.foldl (fun s d =>
    (d.gde.filter fun g => !g.open.isEmpty && !(s1.goneReqs r lo hi g).isEmpty).foldl (fun s g => s.cancelRow r lo hi d.n g) s) s1

/-- The nodes of the arbors of a fabric load that lie in the range are written back (R317). -/
def State.dropNodes (s : State) (l : LoadRef) (lo hi : Nat) : State :=
  match s.load? l with
  | none => s
  | some x =>
    let rs := x.slots.flatMap fun t => match t with
      | some t => t.runs.filter fun r => r.cls == 2 && r.meets lo hi
      | none => []
    s.writeBack fun a => rs.any fun r => decide (r.ppn * 0x10000 ≤ a ∧ a < (r.ppn + r.n) * 0x10000)

/-- DRAIN_ARRIVAL: a DRAIN token, by the name of its access, reaches its memory edge. -/
def execDrainArrival (s : State) : Out :=
  match s.actor with
  | .id n =>
    match s.acc? n with
    | none => .next s
    | some w =>
      match w.op with
      | .drain seq lo hi =>
        if s.clock < w.due ∨ ¬ s.drained w lo hi then .next s
        else
          let s1 := ((s.dropAcc n).cancelDefers w.ref lo hi).dropNodes w.ref.load lo hi
          let tile := seq / 2 ^ 40
          let k := seq % 2 ^ 40
          let s2 := s1.modSeq tile fun q =>
            { q with tinvs := q.tinvs.map fun x => if x.1 = k then (x.1, x.2 - 1) else x }
          let ends := match s2.seq? tile with
            | some q => q.tinvs.any fun x => decide (x.1 = k ∧ x.2 = 0)
            | none => false
          .next (if ends then s2.tinvComplete tile k else s2)
      | _ => .next s
  | _ => .fault .noActor

end Sys2Proof.Machine
end

