-- ==== Sys2Proof/Machine/Dispatch.lean ====
section
/-! DEFINITION. Dispatch: one arm for each instruction. -/

namespace Sys2Proof.Machine

open Sys2Proof

def exec (i : Instr) (s : State) : Host.Outcome State Fault Refusal :=
  match i with
  | .nop f => Sys2Proof.Machine.execNop f s
  | .mov f => Sys2Proof.Machine.execMov f s
  | .emit f => Sys2Proof.Machine.execEmit f s
  | .plog f => Sys2Proof.Machine.execPlog f s
  | .tagrd f => Sys2Proof.Machine.execTagrd f s
  | .join f => Sys2Proof.Machine.execJoin f s
  | .joinc f => Sys2Proof.Machine.execJoinc f s
  | .trap f => Sys2Proof.Machine.execTrap f s
  | .perf f => Sys2Proof.Machine.execPerf f s
  | .sel f => Sys2Proof.Machine.execSel f s
  | .add f => Sys2Proof.Machine.execAdd f s
  | .sub f => Sys2Proof.Machine.execSub f s
  | .adds f => Sys2Proof.Machine.execAdds f s
  | .subs f => Sys2Proof.Machine.execSubs f s
  | .mul f => Sys2Proof.Machine.execMul f s
  | .mulh f => Sys2Proof.Machine.execMulh f s
  | .mulhu f => Sys2Proof.Machine.execMulhu f s
  | .mac f => Sys2Proof.Machine.execMac f s
  | .min f => Sys2Proof.Machine.execMin f s
  | .minu f => Sys2Proof.Machine.execMinu f s
  | .max f => Sys2Proof.Machine.execMax f s
  | .maxu f => Sys2Proof.Machine.execMaxu f s
  | .abs f => Sys2Proof.Machine.execAbs f s
  | .neg f => Sys2Proof.Machine.execNeg f s
  | .cmpeq f => Sys2Proof.Machine.execCmpeq f s
  | .cmplt f => Sys2Proof.Machine.execCmplt f s
  | .cmpltu f => Sys2Proof.Machine.execCmpltu f s
  | .cmple f => Sys2Proof.Machine.execCmple f s
  | .and f => Sys2Proof.Machine.execAnd f s
  | .or f => Sys2Proof.Machine.execOr f s
  | .xor f => Sys2Proof.Machine.execXor f s
  | .andn f => Sys2Proof.Machine.execAndn f s
  | .shl f => Sys2Proof.Machine.execShl f s
  | .shr f => Sys2Proof.Machine.execShr f s
  | .sar f => Sys2Proof.Machine.execSar f s
  | .rotl f => Sys2Proof.Machine.execRotl f s
  | .rshr f => Sys2Proof.Machine.execRshr f s
  | .satn f => Sys2Proof.Machine.execSatn f s
  | .clz f => Sys2Proof.Machine.execClz f s
  | .popc f => Sys2Proof.Machine.execPopc f s
  | .ppopc f => Sys2Proof.Machine.execPpopc f s
  | .dot4 f => Sys2Proof.Machine.execDot4 f s
  | .pack f => Sys2Proof.Machine.execPack f s
  | .unpkl f => Sys2Proof.Machine.execUnpkl f s
  | .unpkh f => Sys2Proof.Machine.execUnpkh f s
  | .shuf f => Sys2Proof.Machine.execShuf f s
  | .bcast f => Sys2Proof.Machine.execBcast f s
  | .lanesum f => Sys2Proof.Machine.execLanesum f s
  | .ins f => Sys2Proof.Machine.execIns f s
  | .extr f => Sys2Proof.Machine.execExtr f s
  | .fadd f => Sys2Proof.Machine.execFadd f s
  | .fsub f => Sys2Proof.Machine.execFsub f s
  | .fmul f => Sys2Proof.Machine.execFmul f s
  | .fma f => Sys2Proof.Machine.execFma f s
  | .fmin f => Sys2Proof.Machine.execFmin f s
  | .fmax f => Sys2Proof.Machine.execFmax f s
  | .fcmplt f => Sys2Proof.Machine.execFcmplt f s
  | .fcmpeq f => Sys2Proof.Machine.execFcmpeq f s
  | .fabs f => Sys2Proof.Machine.execFabs f s
  | .fneg f => Sys2Proof.Machine.execFneg f s
  | .frcp f => Sys2Proof.Machine.execFrcp f s
  | .frsq f => Sys2Proof.Machine.execFrsq f s
  | .fexp2 f => Sys2Proof.Machine.execFexp2 f s
  | .flog2 f => Sys2Proof.Machine.execFlog2 f s
  | .cvt f => Sys2Proof.Machine.execCvt f s
  | .cvts f => Sys2Proof.Machine.execCvts f s
  | .bxenc f => Sys2Proof.Machine.execBxenc f s
  | .bxencFlush f => Sys2Proof.Machine.execBxencFlush f s
  | .bxdec f => Sys2Proof.Machine.execBxdec f s
  | .fopen f => Sys2Proof.Machine.execFopen f s
  | .fadv f => Sys2Proof.Machine.execFadv f s
  | .fend f => Sys2Proof.Machine.execFend f s
  | .fclose f => Sys2Proof.Machine.execFclose f s
  | .fpos f => Sys2Proof.Machine.execFpos f s
  | .cpair f => Sys2Proof.Machine.execCpair f s
  | .csplitC f => Sys2Proof.Machine.execCsplitC f s
  | .csplitV f => Sys2Proof.Machine.execCsplitV f s
  | .bmexp f => Sys2Proof.Machine.execBmexp f s
  | .bmand f => Sys2Proof.Machine.execBmand f s
  | .cmerge f => Sys2Proof.Machine.execCmerge f s
  | .topk f => Sys2Proof.Machine.execTopk f s
  | .topkrd f => Sys2Proof.Machine.execTopkrd f s
  | .srd f => Sys2Proof.Machine.execSrd f s
  | .swr f => Sys2Proof.Machine.execSwr f s
  | .sadd f => Sys2Proof.Machine.execSadd f s
  | .smax f => Sys2Proof.Machine.execSmax f s
  | .smin f => Sys2Proof.Machine.execSmin f s
  | .sxch f => Sys2Proof.Machine.execSxch f s
  | .cbrd f => Sys2Proof.Machine.execCbrd f s
  | .cbrdPop f => Sys2Proof.Machine.execCbrdPop f s
  | .cbwr f => Sys2Proof.Machine.execCbwr f s
  | .cbadvr f => Sys2Proof.Machine.execCbadvr f s
  | .cbadvw f => Sys2Proof.Machine.execCbadvw f s
  | .cbset f => Sys2Proof.Machine.execCbset f s
  | .pwr f => Sys2Proof.Machine.execPwr f s
  | .prd f => Sys2Proof.Machine.execPrd f s
  | .pclr f => Sys2Proof.Machine.execPclr f s
  | .mpgo f => Sys2Proof.Machine.execMpgo f s
  | .mpst f => Sys2Proof.Machine.execMpst f s
  | .mpstSusp f => Sys2Proof.Machine.execMpstSusp f s
  | .mpstRes f => Sys2Proof.Machine.execMpstRes f s
  | .xrd f => Sys2Proof.Machine.execXrd f s
  | .xrdP f => Sys2Proof.Machine.execXrdP f s
  | .xwr f => Sys2Proof.Machine.execXwr f s
  | .xwrP f => Sys2Proof.Machine.execXwrP f s
  | .tcfg f => Sys2Proof.Machine.execTcfg f s
  | .tfill f => Sys2Proof.Machine.execTfill f s
  | .tzero f => Sys2Proof.Machine.execTzero f s
  | .tmma f => Sys2Proof.Machine.execTmma f s
  | .tdrain f => Sys2Proof.Machine.execTdrain f s
  | .trel f => Sys2Proof.Machine.execTrel f s
  | .tstat f => Sys2Proof.Machine.execTstat f s
  | .tscale f => Sys2Proof.Machine.execTscale f s
  | .tacc f => Sys2Proof.Machine.execTacc f s
  | .ld f => Sys2Proof.Machine.execLd f s
  | .ldf f => Sys2Proof.Machine.execLdf f s
  | .st f => Sys2Proof.Machine.execSt f s
  | .stClr f => Sys2Proof.Machine.execStClr f s
  | .sto f => Sys2Proof.Machine.execSto f s
  | .stoClr f => Sys2Proof.Machine.execStoClr f s
  | .pld f => Sys2Proof.Machine.execPld f s
  | .wld f => Sys2Proof.Machine.execWld f s
  | .gld f => Sys2Proof.Machine.execGld f s
  | .sst f => Sys2Proof.Machine.execSst f s
  | .astrm f => Sys2Proof.Machine.execAstrm f s
  | .astwr f => Sys2Proof.Machine.execAstwr f s
  | .agcfg f => Sys2Proof.Machine.execAgcfg f s
  | .fence f => Sys2Proof.Machine.execFence f s
  | .aadd f => Sys2Proof.Machine.execAadd f s
  | .amin f => Sys2Proof.Machine.execAmin f s
  | .amax f => Sys2Proof.Machine.execAmax f s
  | .aand f => Sys2Proof.Machine.execAand f s
  | .aor f => Sys2Proof.Machine.execAor f s
  | .axch f => Sys2Proof.Machine.execAxch f s
  | .acas f => Sys2Proof.Machine.execAcas f s
  | .afadd f => Sys2Proof.Machine.execAfadd f s
  | .tken f => Sys2Proof.Machine.execTken f s
  | .tkdec f => Sys2Proof.Machine.execTkdec f s
  | .tkdecRet f => Sys2Proof.Machine.execTkdecRet f s
  | .qput f => Sys2Proof.Machine.execQput f s
  | .tkst f => Sys2Proof.Machine.execTkst f s
  | .tkstClr f => Sys2Proof.Machine.execTkstClr f s
  | .tkstAbn f => Sys2Proof.Machine.execTkstAbn f s
  | .ald f => Sys2Proof.Machine.execAld f s
  | .ast f => Sys2Proof.Machine.execAst f s
  | .aaddc f => Sys2Proof.Machine.execAaddc f s
  | .aiter f => Sys2Proof.Machine.execAiter f s
  | .acnt f => Sys2Proof.Machine.execAcnt f s
  | .acntH f => Sys2Proof.Machine.execAcntH f s
  | .cpy f => Sys2Proof.Machine.execCpy f s
  | .cve f => Sys2Proof.Machine.execCve f s
  | .densQ f => Sys2Proof.Machine.execDensQ f s
  | .densS f => Sys2Proof.Machine.execDensS f s
  | .rld f => Sys2Proof.Machine.execRld f s
  | .rst f => Sys2Proof.Machine.execRst f s
  | .rstAck f => Sys2Proof.Machine.execRstAck f s
  | .dred f => Sys2Proof.Machine.execDred f s
  | .drrecvR f => Sys2Proof.Machine.execDrrecvR f s
  | .drrecvW f => Sys2Proof.Machine.execDrrecvW f s
  | .drclose f => Sys2Proof.Machine.execDrclose f s
  | .drcloseW f => Sys2Proof.Machine.execDrcloseW f s
  | .seqAdd d a b => Sys2Proof.Machine.execSeqAdd d a b s
  | .seqSub d a b => Sys2Proof.Machine.execSeqSub d a b s
  | .seqAnd d a b => Sys2Proof.Machine.execSeqAnd d a b s
  | .seqOr d a b => Sys2Proof.Machine.execSeqOr d a b s
  | .seqXor d a b => Sys2Proof.Machine.execSeqXor d a b s
  | .sll d a b => Sys2Proof.Machine.execSll d a b s
  | .srl d a b => Sys2Proof.Machine.execSrl d a b s
  | .sra d a b => Sys2Proof.Machine.execSra d a b s
  | .slt d a b => Sys2Proof.Machine.execSlt d a b s
  | .sltu d a b => Sys2Proof.Machine.execSltu d a b s
  | .seqMul d a b => Sys2Proof.Machine.execSeqMul d a b s
  | .seqMulh d a b => Sys2Proof.Machine.execSeqMulh d a b s
  | .divu d a b => Sys2Proof.Machine.execDivu d a b s
  | .remu d a b => Sys2Proof.Machine.execRemu d a b s
  | .addi d a imm => Sys2Proof.Machine.execAddi d a imm s
  | .andi d a imm => Sys2Proof.Machine.execAndi d a imm s
  | .ori d a imm => Sys2Proof.Machine.execOri d a imm s
  | .xori d a imm => Sys2Proof.Machine.execXori d a imm s
  | .slli d a k => Sys2Proof.Machine.execSlli d a k s
  | .srli d a k => Sys2Proof.Machine.execSrli d a k s
  | .srai d a k => Sys2Proof.Machine.execSrai d a k s
  | .slti d a imm => Sys2Proof.Machine.execSlti d a imm s
  | .lui d imm => Sys2Proof.Machine.execLui d imm s
  | .ldb d a imm => Sys2Proof.Machine.execLdb d a imm s
  | .ldh d a imm => Sys2Proof.Machine.execLdh d a imm s
  | .ldw d a imm => Sys2Proof.Machine.execLdw d a imm s
  | .ldd d a imm => Sys2Proof.Machine.execLdd d a imm s
  | .stb d a imm => Sys2Proof.Machine.execStb d a imm s
  | .sth d a imm => Sys2Proof.Machine.execSth d a imm s
  | .stw d a imm => Sys2Proof.Machine.execStw d a imm s
  | .std d a imm => Sys2Proof.Machine.execStd d a imm s
  | .beq d a imm => Sys2Proof.Machine.execBeq d a imm s
  | .bne d a imm => Sys2Proof.Machine.execBne d a imm s
  | .blt d a imm => Sys2Proof.Machine.execBlt d a imm s
  | .bge d a imm => Sys2Proof.Machine.execBge d a imm s
  | .bltu d a imm => Sys2Proof.Machine.execBltu d a imm s
  | .bgeu d a imm => Sys2Proof.Machine.execBgeu d a imm s
  | .jal d o => Sys2Proof.Machine.execJal d o s
  | .jalr d a imm => Sys2Proof.Machine.execJalr d a imm s
  | .scrr d a n => Sys2Proof.Machine.execScrr d a n s
  | .scrw d a n => Sys2Proof.Machine.execScrw d a n s
  | .scrs d a n => Sys2Proof.Machine.execScrs d a n s
  | .scrc d a n => Sys2Proof.Machine.execScrc d a n s
  | .instWord a b => Sys2Proof.Machine.execInstWord a b s
  | .abnd d a => Sys2Proof.Machine.execAbnd d a s
  | .erd d a f => Sys2Proof.Machine.execErd d a f s
  | .ewr a b f => Sys2Proof.Machine.execEwr a b f s
  | .occr d a => Sys2Proof.Machine.execOccr d a s
  | .tinv a b => Sys2Proof.Machine.execTinv a b s
  | .savec d a b => Sys2Proof.Machine.execSavec d a b s
  | .tret => Sys2Proof.Machine.execTret s
  | .wev d a => Sys2Proof.Machine.execWev d a s
  | .sysr d a f => Sys2Proof.Machine.execSysr d a f s
  | .seqFence k => Sys2Proof.Machine.execSeqFence k s
  | .escapement => Sys2Proof.Machine.execEscapement s
  | .balanceReweight => Sys2Proof.Machine.execBalanceReweight s
  | .stageAdvance => Sys2Proof.Machine.execStageAdvance s
  | .deferredReply => Sys2Proof.Machine.execDeferredReply s
  | .microprogramStep => Sys2Proof.Machine.execMicroprogramStep s
  | .microprogramCompletion => Sys2Proof.Machine.execMicroprogramCompletion s
  | .microprogramSuspend => Sys2Proof.Machine.execMicroprogramSuspend s
  | .bankClock => Sys2Proof.Machine.execBankClock s
  | .yieldClock => Sys2Proof.Machine.execYieldClock s
  | .crossReservation => Sys2Proof.Machine.execCrossReservation s
  | .crossRequest => Sys2Proof.Machine.execCrossRequest s
  | .crossReply => Sys2Proof.Machine.execCrossReply s
  | .arrayStart => Sys2Proof.Machine.execArrayStart s
  | .arrayComplete => Sys2Proof.Machine.execArrayComplete s
  | .drainPortToken => Sys2Proof.Machine.execDrainPortToken s
  | .addressGeneratorIssue => Sys2Proof.Machine.execAddressGeneratorIssue s
  | .accessIssue => Sys2Proof.Machine.execAccessIssue s
  | .memoryEdgeAccess => Sys2Proof.Machine.execMemoryEdgeAccess s
  | .weightRefreshWindow => Sys2Proof.Machine.execWeightRefreshWindow s
  | .memoryReply => Sys2Proof.Machine.execMemoryReply s
  | .gdeDelivery => Sys2Proof.Machine.execGdeDelivery s
  | .atomicPerform => Sys2Proof.Machine.execAtomicPerform s
  | .admissionRequest => Sys2Proof.Machine.execAdmissionRequest s
  | .depDecrement => Sys2Proof.Machine.execDepDecrement s
  | .taskCompletion => Sys2Proof.Machine.execTaskCompletion s
  | .dispatch => Sys2Proof.Machine.execDispatch s
  | .threadTokenWrite => Sys2Proof.Machine.execThreadTokenWrite s
  | .configurationChoice => Sys2Proof.Machine.execConfigurationChoice s
  | .refillRequest => Sys2Proof.Machine.execRefillRequest s
  | .refillReturn => Sys2Proof.Machine.execRefillReturn s
  | .entryEmit => Sys2Proof.Machine.execEntryEmit s
  | .arborPoint => Sys2Proof.Machine.execArborPoint s
  | .traversalStep => Sys2Proof.Machine.execTraversalStep s
  | .commandBlockCheck => Sys2Proof.Machine.execCommandBlockCheck s
  | .commandAcceptance => Sys2Proof.Machine.execCommandAcceptance s
  | .copyChunk => Sys2Proof.Machine.execCopyChunk s
  | .conversionPhase => Sys2Proof.Machine.execConversionPhase s
  | .densChunk => Sys2Proof.Machine.execDensChunk s
  | .commandEnd => Sys2Proof.Machine.execCommandEnd s
  | .remoteRequest => Sys2Proof.Machine.execRemoteRequest s
  | .remoteReply => Sys2Proof.Machine.execRemoteReply s
  | .remoteTimeout => Sys2Proof.Machine.execRemoteTimeout s
  | .reductionAcceptance => Sys2Proof.Machine.execReductionAcceptance s
  | .contributionSent => Sys2Proof.Machine.execContributionSent s
  | .reductionPacket => Sys2Proof.Machine.execReductionPacket s
  | .deadlineExpiry => Sys2Proof.Machine.execDeadlineExpiry s
  | .closeDeadlineExpiry => Sys2Proof.Machine.execCloseDeadlineExpiry s
  | .receivePacket => Sys2Proof.Machine.execReceivePacket s
  | .portDown => Sys2Proof.Machine.execPortDown s
  | .illegal => Sys2Proof.Machine.execIllegal s
  | .trapEntry => Sys2Proof.Machine.execTrapEntry s
  | .installPlacement => Sys2Proof.Machine.execInstallPlacement s
  | .installWake => Sys2Proof.Machine.execInstallWake s
  | .installStream => Sys2Proof.Machine.execInstallStream s
  | .installDepthGrant => Sys2Proof.Machine.execInstallDepthGrant s
  | .installCommit => Sys2Proof.Machine.execInstallCommit s
  | .installAbandon => Sys2Proof.Machine.execInstallAbandon s
  | .reconfigurationTokenPass => Sys2Proof.Machine.execReconfigurationTokenPass s
  | .drainArrival => Sys2Proof.Machine.execDrainArrival s
  | .preempt => Sys2Proof.Machine.execPreempt s
  | .preemptDrainEnd => Sys2Proof.Machine.execPreemptDrainEnd s
  | .preemptCommit => Sys2Proof.Machine.execPreemptCommit s
  | .pageRequestPost => Sys2Proof.Machine.execPageRequestPost s
  | .restoreCompletion => Sys2Proof.Machine.execRestoreCompletion s
  | .voteClose => Sys2Proof.Machine.execVoteClose s
  | .quarantine => Sys2Proof.Machine.execQuarantine s
  | .hostRd => Sys2Proof.Machine.execHostRd s
  | .hostWr => Sys2Proof.Machine.execHostWr s
  | .hostCas => Sys2Proof.Machine.execHostCas s
  | .hostTken => Sys2Proof.Machine.execHostTken s
  | .attest => Sys2Proof.Machine.execAttest s
  | .registerWrite => Sys2Proof.Machine.execRegisterWrite s
  | .pgreqRead => Sys2Proof.Machine.execPgreqRead s
  | .pgdone => Sys2Proof.Machine.execPgdone s
  | .selogRead => Sys2Proof.Machine.execSelogRead s
  | .syestatClear => Sys2Proof.Machine.execSyestatClear s
  | .bootva => Sys2Proof.Machine.execBootva s
  | .reset => Sys2Proof.Machine.execReset s
  | .powerStateEntry => Sys2Proof.Machine.execPowerStateEntry s
  | .wake => Sys2Proof.Machine.execWake s
  | .ownerLoss => Sys2Proof.Machine.execOwnerLoss s
  | .portUp => Sys2Proof.Machine.execPortUp s
  | .groupTableWrite => Sys2Proof.Machine.execGroupTableWrite s
  | .boardPowerUp => Sys2Proof.Machine.execBoardPowerUp s
  | .hardwareTrip => Sys2Proof.Machine.execHardwareTrip s

end Sys2Proof.Machine
end

