-- ==== Sys2Proof/Machine/Fetch.lean ====
section
/-! DEFINITION. What a sequencer does with a clock: a held or waiting sequencer, a pending trap, and the fetch of the
word at PC (R365, R368, R372, R461). -/

namespace Sys2Proof.Machine

open Sys2Proof

/-- What a sequencer's turn comes to. -/
inductive SeqTurn where
  | idle
  | fault (cause : Nat)
  | run (i : Instr)
deriving DecidableEq, Repr

/-- A sequencer fetches nothing: it is held (R461) or still busy with its last word. -/
def State.seqIdle (s : State) (q : Seq) : Bool := q.held || decide (s.clock < q.busy)

/-- Whether a pending trap is taken now (R368, R429). -/
def Seq.takesTrap (q : Seq) : Bool := !q.pend.isEmpty && !q.inTrap

/-- Whether an element of a tile must go first: PREEMPT waits behind element traps of its clock by its place in the
pending list (R452). -/
def Seq.waits (q : Seq) : Option (BitVec 5 × BitVec 5) :=
  match q.wev with
  | some (d, a) => if q.evpend &&& BitVec.truncate 4 (q.reg a) = 0 then some (d, a) else none
  | none => none

/-- The instruction a word decodes to; an undefined word is ILLEGAL (R64), a privileged one in user mode traps in its
meaning (R65). DEDUCED: an undefined word of a privileged MAJ is ILLEGAL in user mode too (log 84). -/
def wordInstr (w : BitVec 32) : Instr :=
  match decodeSeq w with
  | .ok i => i
  | .error _ => .illegal

/-- The general registers that a word reads. -/
def wordReads : Instr → List (BitVec 5)
  | .seqAdd _ a b => [a, b]
  | .seqSub _ a b => [a, b]
  | .seqAnd _ a b => [a, b]
  | .seqOr _ a b => [a, b]
  | .seqXor _ a b => [a, b]
  | .sll _ a b => [a, b]
  | .srl _ a b => [a, b]
  | .sra _ a b => [a, b]
  | .slt _ a b => [a, b]
  | .sltu _ a b => [a, b]
  | .seqMul _ a b => [a, b]
  | .seqMulh _ a b => [a, b]
  | .divu _ a b => [a, b]
  | .remu _ a b => [a, b]
  | .addi _ a _ => [a]
  | .andi _ a _ => [a]
  | .ori _ a _ => [a]
  | .xori _ a _ => [a]
  | .slli _ a _ => [a]
  | .srli _ a _ => [a]
  | .srai _ a _ => [a]
  | .slti _ a _ => [a]
  | .ldb _ a _ => [a]
  | .ldh _ a _ => [a]
  | .ldw _ a _ => [a]
  | .ldd _ a _ => [a]
  | .stb d a _ => [d, a]
  | .sth d a _ => [d, a]
  | .stw d a _ => [d, a]
  | .std d a _ => [d, a]
  | .beq d a _ => [d, a]
  | .bne d a _ => [d, a]
  | .blt d a _ => [d, a]
  | .bge d a _ => [d, a]
  | .bltu d a _ => [d, a]
  | .bgeu d a _ => [d, a]
  | .jalr _ a _ => [a]
  | .scrw _ a _ => [a]
  | .scrs _ a _ => [a]
  | .scrc _ a _ => [a]
  | .instWord a b => [a, b]
  | .abnd _ a => [a]
  | .erd _ a _ => [a]
  | .ewr a b _ => [a, b]
  | .occr _ a => [a]
  | .tinv a b => [a, b]
  | .savec _ a b => [a, b]
  | .wev _ a => [a]
  | .sysr _ a _ => [a]
  | _ => []

/-- Whether the trap that a TRET returns from is one of a save or a restore, whose routine has written the image. -/
def Seq.inLoadTrap (q : Seq) : Bool :=
  q.taken.head?.any fun p => match p.src with
    | .preempt _ => true
    | .restore _ => true
    | _ => false

/-- Words that act on what the sequencer's stores leave in memory: they wait until its accesses are performed (R303; log
16). -/
def Seq.wordSettles (q : Seq) (i : Instr) : Bool :=
  match i with
  | .instWord _ _ => true
  | .tinv _ _ => true
  | .savec _ _ _ => true
  | .tret => q.inLoadTrap
  | .sysr _ _ _ => true
  | _ => false

/-- Whether a word must wait: for the pending write of a register it reads (R369), or for the accesses before it. -/
def State.seqWaits (s : State) (q : Seq) (i : Instr) : Bool :=
  ((wordReads i).any fun r =>
    r != 0 && (decide (s.clock < q.late.getD r.toNat 0) || q.loads.any fun x => x.1 == r.toNat)) ||
  (q.wordSettles i && !(s.seqAccs q.tile).isEmpty)

/-- A sequencer's turn, with its translation cache after it. The word is decoded before its mode is checked: one of a
privileged MAJ with a must-be-zero field that is not zero is undefined, and traps ILLEGAL in user mode too (DEDUCED,
log 84). -/
def State.seqTurn (s : State) (q : Seq) : SeqTurn × Option Xlat :=
  if s.seqIdle q then (.idle, none)
  else if q.takesTrap then (.run .trapEntry, none)
  else
    match q.wev with
    | some (d, a) =>
      if q.waits.isSome then (.idle, none) else (.run (.wev d a), none)
    | none =>
      let x := s.seqXlat q .fetch q.pc.toNat 4
      if x.cause ≠ 0 then (.fault x.cause, some x)
      else if s.isBad (wordOf x.pa) then (.fault Cause.uncorrectable, some x)
      else
        let i := wordInstr (BitVec.ofNat 32 (s.readN x.pa 4))
        if s.seqWaits q i then (.idle, none) else (.run i, some x)

end Sys2Proof.Machine
end

