-- ==== Sys2Proof/Machine/Schedule.lean ====
section
/-! DEFINITION. Whose step comes next: the clock edge, the parts of an element clock and the turns of each (log 2). -/

namespace Sys2Proof.Machine

open Sys2Proof

/-- What the next turn comes to: a state with no instruction run, or an instruction with its actor set. -/
inductive Act where
  | quiet (s : State)
  | run (i : Instr) (s : State)

/-! ### What the outside sends -/

/-- The first element of a list with a property, and the list without it. -/
def takeFirst {α : Type} (p : α → Bool) : List α → Option (α × List α)
  | [] => none
  | x :: xs =>
    if p x then some (x, xs)
    else match takeFirst p xs with
      | some (y, ys) => some (y, x :: ys)
      | none => none

/-- The rows that the outside or the regulator begins, each with an actor of its kind. -/
def fromOutside (s : State) (i : Instr) (a : Actor) : Bool :=
  match i, a with
  | .hostRd, .msg _ => true
  | .hostWr, .msg _ => true
  | .hostCas, .msg _ => true
  | .hostTken, .msg _ => true
  | .attest, .msg _ => true
  | .remoteRequest, .req _ => true
  | .remoteReply, .rep _ => true
  | .reductionPacket, .flits _ _ => true
  | .portDown, .id _ => true
  | .portUp, .id _ => true
  | .groupTableWrite, .table _ _ => true
  | .registerWrite, .reg _ _ _ => true
  | .pgdone, .reg _ _ _ => true
  | .syestatClear, .reg _ _ _ => true
  | .bootva, .reg _ _ _ => true
  | .quarantine, .reg t _ _ => (s.seq? t).isSome
  | .pgreqRead, .owner _ => true
  | .selogRead, .owner _ => true
  | .preempt, .loadN _ _ => true
  | .hardwareTrip, .die _ => true
  | .ownerLoss, .none => true
  | .reset, .none => true
  | .wake, .none => true
  | .boardPowerUp, .none => true
  | _, _ => false

/-- The first input that is due; in a power state element clocks stand still and the first input comes (log 41). -/
def State.nextInput (s : State) : Option ((Nat × Instr × Actor) × List (Nat × Instr × Actor)) :=
  takeFirst (fun x => decide (x.1 ≤ s.clock ∨ s.dv.pstate ≠ 0)) s.inputs

/-! ### The turns of each part of a clock -/

/-- Fabric loads whose elements act: not while they are saved or restored. -/
def State.liveLoads (s : State) : List Load := s.loads.filter fun x => x.phase != .saving && x.phase != .restoring

/-- Their elements. -/
def State.liveElems (s : State) : List Elem :=
  s.elems.filter fun e => s.liveLoads.any fun x => x.ref == e.ref.load

/-- Elements of fabric loads that stream: no generator or traversal goes on once a load drains (R434). -/
def State.streaming (s : State) : List Elem :=
  s.elems.filter fun e => s.loads.any fun x => x.ref == e.ref.load && (x.phase == .resident || x.phase == .retiring)

/-- One event for each element with a property. -/
def elemTurns (es : List Elem) (i : Instr) (p : Elem → Bool) : List Turn :=
  (es.filter p).map fun e => .event i (.elem e.ref)

/-- One event for each entry of a resident fabric load with a property. -/
def State.entryTurns (s : State) (i : Instr) (p : Load → Nat → EntryQ → Bool) : List Turn :=
  s.loads.flatMap fun x =>
    if x.phase = .resident then
      ((List.range x.entries.length).filter fun n => match x.entries[n]? with
        | some q => p x n q
        | none => false).map fun n => .event i (.loadN x.ref n)
    else []

/-- What a group takes its turn on: its outputs (R275), and besides one place for every GLD of an MPE (R174) and one for
every FENCE (R280), whatever outputs they name. -/
def RGroup.lines (g : RGroup) : List Nat :=
  outsOf g.dst ++ match g.op with
    | .gld => [100]
    | .fence => [101]
    | _ => []

/-- The reply groups of an MPE that may give a token now: each output takes one token in a clock, and groups that share
an output, GLDs and FENCEs keep their order (R174, R275, R280). -/
def State.replyTurns (s : State) (e : Elem) : List RGroup → List Nat → List Turn
  | [], _ => []
  | g :: gs, claimed =>
    let outs := g.lines
    let rest := g.cells.dropWhile fun c => c.r == .silent && decide (c.due ≤ s.clock)
    let turn : Turn := .event .memoryReply (.elemN e.ref g.gid)
    match rest with
    | [] => if g.opened then s.replyTurns e gs (outs ++ claimed) else turn :: s.replyTurns e gs claimed
    | c :: _ =>
      if !meets outs claimed && s.cellReady e.ref g c then turn :: s.replyTurns e gs (outs ++ claimed)
      else s.replyTurns e gs (outs ++ claimed)

/-- The accesses and commands of an MPE that are issued in this clock. -/
def State.issueTurns (s : State) (e : Elem) : List Turn :=
  (e.mpe.issueQ.filter fun i => decide (i.born < s.clock)).map fun i =>
    .event (if isCommand i.op then .commandBlockCheck else .accessIssue) (.elemN e.ref i.gid)

/-- The generators of an MPE that issue an address. -/
def State.genTurns (s : State) (e : Elem) : List Turn :=
  ([0, 1].filter fun n =>
    let g := e.mpe.gen n
    g.st == 1 && g.more && decide (g.born < s.clock)).map fun n => .event .addressGeneratorIssue (.elemN e.ref n)

/-- The row that performs an access. -/
def MemOp.row (o : MemOp) : Instr :=
  match o with
  | .drain _ _ _ => .drainArrival
  | .atomic _ _ _ => .atomicPerform
  | .arbor _ _ _ _ => .arborPoint
  | _ => .memoryEdgeAccess

/-- The accesses that may be performed, in the order in which they fall due (log 2). -/
def State.accTurns (s : State) : List Turn :=
  let as := s.accs.filter fun w => decide (w.due ≤ s.clock) && !w.deferred && !w.held
  (sortBy (fun a b => decide (a.due < b.due ∨ (a.due = b.due ∧ a.id ≤ b.id))) as).map fun w =>
    .event w.op.row (.id w.id)

/-- The gather entries of a die: rows to read, and rows to deliver. -/
def gdeTurns (d : Die) (clock : Nat) : List Turn :=
  d.gde.filterMap fun g =>
    if g.got.all RWord.isFixed then some (.event .gdeDelivery (.dieN d.n g.id))
    else if g.due ≤ clock ∧ g.got.contains .todo then some (.event .memoryEdgeAccess (.dieN d.n g.id))
    else none

/-- The admission requests that arrive, and the removal of the oldest queued one. -/
def admTurns (d : Die) (clock : Nat) : List Turn :=
  ((d.adm.filter fun q => !q.queued && decide (q.due ≤ clock)).map fun q =>
    .event .admissionRequest (.dieN d.n q.id)) ++
  if d.adm.isEmpty ∨ clock < d.admFree then [] else [.event .admissionRequest (.die d.n)]

/-- The step of an engine command that has been accepted. -/
def Cmd.chunkRow (c : Cmd) : Instr :=
  match c.op with
  | .cpy => .copyChunk
  | .cve => .conversionPhase
  | .dred => .contributionSent
  | _ => .densChunk

/-- The step of an install (R373). -/
def installTurns (d : Die) (clock : Nat) : List Turn :=
  match d.inst with
  | none => []
  | some i =>
    match i.abandon with
    | some a => if a ≤ clock then [.event .installAbandon (.die d.n)] else []
    | none =>
      if clock < i.due then []
      else
        let row : Instr := match i.step with
          | 1 => .installPlacement
          | 2 => if i.pl.isNone then .installPlacement else .installWake
          | 3 => .installStream
          | 4 => .installStream
          | 5 => .installDepthGrant
          | _ => .installCommit
        [.event row (.die d.n)]

/-- The choice of a die's configuration scheduler: when its candidates change, on request, and every 256 clocks (R346). It has
its turn before the install's: one that fell due meanwhile is made in the clock after the install ends. -/
def State.choiceTurns (s : State) (d : Die) : List Turn :=
  if s.candidates d ≠ d.cands ∨ (d.inst.isNone ∧ s.choiceDue d) then [.event .configurationChoice (.die d.n)] else []

/-- Tasks that may be complete (R341). -/
def State.completionTurns (s : State) : List Turn :=
  s.loads.flatMap fun x =>
    if x.completes then
      ((List.range 8).filter fun k => match x.slots.getD k none with
        | some t => s.trPend t.handle == 0
        | none => false).map fun k => .event .taskCompletion (.loadN x.ref k)
    else []

/-- Instances whose deadlines pass (R418). -/
def State.deadlineTurns (s : State) : List Turn :=
  s.insts.flatMap fun x =>
    match s.groupEnt x.group with
    | none => []
    | some g =>
      if x.released then []
      else
        (if !x.expired && decide (g.d ≤ s.instAge g x) then [.event .deadlineExpiry (.inst x.group x.seq)] else []) ++
        (if g.dc ≤ s.instAge g x then [.event .closeDeadlineExpiry (.inst x.group x.seq)] else [])

/-- One event for each fabric load in a phase. -/
def State.loadTurns (s : State) (p : LPhase) (i : Instr) : List Turn :=
  (s.loads.filter fun x => x.phase == p).map fun x => .event i (.load x.ref)

/-- The turns of a part of the clock, from the state as it stands when the part begins. -/
def State.expand (s : State) (k : Nat) : List Turn :=
  let c := s.clock
  let es := s.liveElems
  let spe (p : Elem → Bool) (e : Elem) : Bool := kindAt e.ref.site == .spe && p e
  let mxe (p : Elem → Bool) (e : Elem) : Bool := e.kind == .mxe && p e
  match k with
  | 1 => if c % 512 = 0 then [.event .weightRefreshWindow .none] else []
  | 2 => (s.dies.filter fun d => d.disp.isSome || !d.ready.isEmpty).map fun d => .event .dispatch (.die d.n)
  | 3 => s.entryTurns .threadTokenWrite fun x n _ => x.mayWrite n
  | 4 => s.entryTurns .refillRequest fun _ _ q => q.mayAsk
  | 5 => s.entryTurns .refillReturn fun _ _ q => q.reqs.any fun r => decide (r.1 ≤ c)
  | 6 => elemTurns s.elems .escapement fun _ => true
  | 7 => s.entryTurns .entryEmit fun _ _ q => !q.buf.isEmpty
  | 8 => elemTurns es .crossRequest (spe fun e => match e.spe.crossIn with
    | q :: _ => decide (q.due ≤ c)
    | [] => false)
  | 9 => elemTurns es .microprogramStep (spe fun e => e.spe.mp.st == 1 || e.spe.mp.st == 2)
  | 10 => elemTurns es .microprogramSuspend (spe fun e => e.spe.mp.st == 2 && e.spe.mp.atBoundary)
  | 11 => elemTurns es .microprogramCompletion (spe fun e => e.spe.mp.st == 1 && e.spe.mp.done.isSome)
  | 12 => es.flatMap fun e =>
      ((e.spe.owed.filter fun x => x.reply.isSome && decide (x.due ≤ c) && e.spe.crossTurn x).map fun x =>
        .event .crossReply (.elemN e.ref x.cell)) ++
      (e.spe.replies.map (·.1)).eraseDups.map fun dst => .event .deferredReply (.elemN e.ref dst)
  | 13 => elemTurns es .crossReservation (spe fun e => decide (8 ≤ e.spe.headWait)) ++
      elemTurns es .yieldClock (spe fun e => decide (4 ≤ e.spe.wait + boolN e.spe.blocked))
  | 14 => elemTurns es .bankClock (spe fun _ => true)
  | 15 => elemTurns es .arrayStart (mxe fun e => match e.mxe.run with
      | some j => decide (j.last ≤ c)
      | none => false) ++
    elemTurns es .arrayComplete (mxe fun e => match e.mxe.ending with
      | j :: _ => decide (j.last + 4 ≤ c)
      | [] => false) ++
    elemTurns es .drainPortToken (mxe fun e => e.mxe.drain.isSome && !e.stopped)
  | 16 => es.flatMap fun e => s.issueTurns e
  | 17 => s.streaming.flatMap fun e => s.genTurns e
  | 18 => es.flatMap fun e => s.replyTurns e e.mpe.groups []
  | 19 => s.liveLoads.map fun x => .event .stageAdvance (.load x.ref)
  | 20 => s.accTurns
  | 21 => s.dies.flatMap fun d => gdeTurns d c
  | 22 => s.streaming.flatMap fun e =>
      (e.mpe.travs.filter fun x => decide (x.due ≤ c)).map fun x => .event .traversalStep (.elemN e.ref x.gid)
  | 23 => (s.decs.filter fun x => decide (x.due ≤ c)).map fun x => .event .depDecrement (.id x.id)
  | 24 => s.dies.flatMap fun d => admTurns d c
  | 25 => s.dies.flatMap fun d =>
      ((d.copyQ.take 1 ++ d.fceQ.take 1).map fun n => .event .commandAcceptance (.id n)) ++
      if d.redQ.isEmpty then [] else [.event .reductionAcceptance (.die d.n)]
  | 26 => (s.cmds.filter fun x => x.st == 1 && decide (x.due ≤ c)).map fun x => .event x.chunkRow (.id x.id)
  | 27 => ((s.cmds.filter fun x => x.st == 2 && !isReduction x.op).map fun x =>
      .event .commandEnd (.id x.id)) ++
    ((List.range s.places.length).filter fun k => (s.places.getD k Place.free).st == 3).map fun k =>
      .event .receivePacket (.id k)
  | 28 => s.completionTurns
  | 29 => s.dies.flatMap fun d => s.choiceTurns d ++ installTurns d c
  | 30 => (s.loads.filter fun x => x.phase == .retiring && s.loadDrained x.ref).map fun x =>
      .event .reconfigurationTokenPass (.load x.ref)
  | 31 => ((s.remotes.filter fun x => decide (x.limit ≤ c)).map fun x => .event .remoteTimeout (.id x.tag)) ++
      s.deadlineTurns
  | 32 => s.loadTurns .draining .preemptDrainEnd
  | 33 => s.loadTurns .saving .preemptCommit ++
      ((s.loads.filter fun x => x.phase == .restoring && x.tiles.all fun t => x.returned.contains t.lt).map fun x =>
        .event .restoreCompletion (.load x.ref)) ++
      if s.pgpend.isEmpty ∨ 256 ≤ s.pgreq.length then [] else [.event .pageRequestPost .none]
  | 34 => (s.seqs.filter fun q => !q.held).map fun q => .seq q.tile
  | 35 =>
    if s.dv.bootfail ∨ s.deepest = s.dv.pstate then []
    else if s.dv.pstate < s.deepest then [.event .powerStateEntry .none]
    else [.event .wake .none]
  | _ => []

/-- The parts of an element clock, in the order of the model (log 2). -/
def phases : List Turn := (List.range 36).map Turn.phase

/-- Link clocks of every port, which matter while an instance is open (R401, R414). -/
def State.linkEdge (s : State) : State :=
  if s.insts.all (fun x => x.released) then s
  else { s with linkClk := s.linkClk.mapIdx fun k n => n + Config.linkTick s.freeCount k, freeCount := s.freeCount + 1 }

/-- The clock edge. In a power state no element clock passes: the outside, the deadlines of open instances and the
regulator, which keeps the deepest state whose condition holds, have a turn (R464). -/
def State.clockEdge (s : State) : State :=
  if s.dv.pstate = 0 then
    { s.linkEdge with
      clock := s.clock + 1, agenda := phases
      elems := s.elems.map fun e => e.tock.trimmed
      boxes := s.boxes.map Box.trimmed }
  else { s.linkEdge with agenda := [.phase 0, .phase 31, .phase 35] }

/-- A part of the clock begins: part 0 takes one input after another. -/
def State.beginPhase (s : State) (k : Nat) : State :=
  if k = 0 then
    match s.nextInput with
    | some ((_, i, a), rest) =>
      let s1 := { s with inputs := rest }
      s1.push ((if fromOutside s i a then [Turn.event i a] else []) ++ [.phase 0])
    | none => s
  else s.push (s.expand k)

/-- A sequencer's turn. -/
def State.seqAct (s : State) (t : Nat) : Act :=
  match s.seq? t with
  | none => .quiet s
  | some q =>
    let (turn, x) := s.seqTurn q
    let s1 := match x with
      | some x => s.xlated t x
      | none => s
    match turn with
    | .idle => .quiet s1
    | .fault c => .quiet ((s1.logRead t c).trapQ t c)
    | .run i => .run i { s1 with actor := .seq t }

/-- The firing of a slot: its words decode to an instruction of the element's kind. -/
def State.fireAct (s : State) (r : ElemRef) (n stall starve : Nat) : Act :=
  match s.elem? r with
  | none => .quiet s
  | some e =>
    match decodeSlot e.kind (e.slotWord n) with
    | .ok i => .run i { s with actor := .slot r n stall starve }
    | .error _ => .quiet s

/-- What the next step does. -/
def State.act (s : State) : Act :=
  match s.agenda with
  | [] => .quiet s.clockEdge
  | t :: rest =>
    let s' := { s with agenda := rest }
    match t with
    | .phase k => .quiet (s'.beginPhase k)
    | .seq tile => s'.seqAct tile
    | .fire r n a b => s'.fireAct r n a b
    | .event i a => .run i { s' with actor := a }

/-- Tables and a page at fixed places above the root table that map the page of PC, with a word at PC: what a fetch
of a sequencer needs (log 6). -/
def State.placeWord (s : State) (q : Seq) (w : Nat) : State :=
  let va := q.pc.toNat
  let b := fld s.dv.ptbase 18 26 * 2 ^ 18
  let ptr (a : Nat) : Word := BitVec.ofNat 64 (2 ^ 63 + 3 * 2 ^ 46 + a / 0x10000)
  let leaf : Word := BitVec.ofNat 64 (2 ^ 63 + 2 ^ 62 + 2 ^ 60 + s.ownPkg * 2 ^ 28 + (b + 0x60000) / 0x10000)
  let s1 := s.putWord (b + 8 * lvlIndex 2 va) (ptr (b + 0x40000))
  let s2 := s1.putWord (b + 0x40000 + 8 * lvlIndex 1 va) (ptr (b + 0x50000))
  let s3 := s2.putWord (b + 0x50000 + 8 * lvlIndex 0 va) leaf
  let a := b + 0x60000 + va % 0x10000
  { s3.writeN a 4 w with bad := setDel s3.bad (wordOf a) }

/-- The sequencer of a tile made ready to fetch at PC, with a word there, as the machine's next step (log 6). -/
def State.withWord (s : State) (tile w : Nat) : State :=
  match s.seq? tile with
  | none => s
  | some q =>
    let s1 := (s.placeWord q w).modSeq tile fun q =>
      { q with held := false, wev := none, pend := [], tc := [], busy := 0, late := List.replicate 32 0, loads := [] }
    { s1 with agenda := [.seq tile] }

end Sys2Proof.Machine
end

