-- ==== Sys2Proof/Machine/Step.lean ====
section
/-! DEFINITION. One step of the package: the next turn of the agenda, and the word that a host places for it. -/

namespace Sys2Proof.Machine

open Sys2Proof

/-- One step: the next turn, or the clock edge when no turn is left. -/
def step (s : State) : Host.Outcome State Fault Refusal :=
  match s.act with
  | .quiet s' => .next s'
  | .run i s' => exec i s'

/-- A state whose next step fetches and runs the sequencer word w at tile 0 (log 6). Only words of 32 bits are
sequencer words. -/
def State.withFetchWord (s : State) (_nbits w : Nat) : State := s.withWord 0 w

end Sys2Proof.Machine
end

