-- ==== Sys2Proof/Safety.lean ====
section
/-! DEFINITION. What counts as a safe step, and the words that statements about instructions are written in: who
performs an instruction, what a firing and a sequencer word leave, and what they leave alone. -/

namespace Sys2Proof.Safety

open Sys2Proof Sys2Proof.Machine

/-- The step neither faults nor refuses. -/
def stepSafe (s : State) : Prop := ∃ s', step s = .next s'

/-- The instruction, performed by the state's actor, answers a next state. -/
def execSafe (i : Instr) (s : State) : Prop := ∃ s', exec i s = .next s'

/-! ### Sequencer words -/

/-- The sequencer that the state's actor names is there. -/
def seqThere (s : State) (t : Nat) (q : Seq) : Prop := s.actor = .seq t ∧ s.seq? t = some q

/-- Every other sequencer is as it was. -/
def othersKept (s s' : State) (t : Nat) : Prop := ∀ u, u ≠ t → s'.seq? u = s.seq? u

/-- A sequencer word leaves the machine as it was but for its own tile's sequencer. -/
def onlySeq (s s' : State) (t : Nat) : Prop := s' = { s with seqs := s'.seqs } ∧ othersKept s s' t

/-- Two sequencers agree but for the general registers, the loads that are to write them, the pc and the clocks from which
words and registers may be used. -/
def sameControl (q q' : Seq) : Prop :=
  q' = { q with regs := q'.regs, loads := q'.loads, pc := q'.pc, late := q'.late, busy := q'.busy }

/-- No load that the sequencer has issued writes gd any more; those of other registers still do. -/
def loadsLeft (q q' : Seq) (d : BitVec 5) : Prop := q'.loads = q.loads.filter fun x => decide (d = 0 ∨ x.1 ≠ d.toNat)

/-- The word writes v to gd, goes to pc, and changes nothing else; g0 keeps its zero (R365). -/
def writesReg (i : Instr) (s : State) (t : Nat) (q : Seq) (d : BitVec 5) (v : Word) (pc : BitVec 57) : Prop :=
  ∃ s' q', exec i s = .next s' ∧ s'.seq? t = some q' ∧ q'.pc = pc ∧
    (∀ k, q'.reg k = if k = d ∧ d ≠ 0 then v else q.reg k) ∧ sameControl q q' ∧ loadsLeft q q' d ∧ onlySeq s s' t

/-- The word traps with a cause, with nothing done but the trap's own entry (R368, R427); sq.DETAIL is any value, and
the sequencer's kept descriptors and the model's count of free values may change. -/
def trapsSeq (i : Instr) (s : State) (t : Nat) (q : Seq) (cause : Nat) : Prop :=
  ∃ s' dt tc, exec i s = .next s' ∧
    s'.seq? t = some (Seq.enter { q with tc := tc } ⟨.word, cause, dt, s.clock, 0⟩) ∧
    s' = { s with seqs := s'.seqs, freeCount := s'.freeCount } ∧ othersKept s s' t

/-- The word traps UNCORRECTABLE, as trapsSeq says, and the error is logged with KIND 6 (R451). -/
def trapsUncorrectable (i : Instr) (s : State) (t : Nat) (q : Seq) : Prop :=
  ∃ s' dt tc, exec i s = .next s' ∧
    s'.seq? t = some (Seq.enter { q with tc := tc } ⟨.word, Cause.uncorrectable, dt, s.clock, 0⟩) ∧
    s' = { s.logSe 6 t 0 0 with seqs := s'.seqs, freeCount := s'.freeCount } ∧ othersKept s s' t

/-- The word goes to the next one, and changes besides only what the machine's memory holds, the kept descriptors and the
model's count of free values. -/
def accesses (i : Instr) (s : State) (t : Nat) (q : Seq) (s' : State) : Prop :=
  ∃ q', exec i s = .next s' ∧ s'.seq? t = some q' ∧ q' = { q with pc := q.pc + 4, busy := q'.busy, tc := q'.tc } ∧
    s' = { s with seqs := s'.seqs, freeCount := s'.freeCount, mem := s'.mem, bad := s'.bad } ∧ othersKept s s' t

/-- The word goes to the next one, and an access of its sequencer to a local address leaves, not performed yet; the loads
that are to write a register are then as given. -/
def issuesSeq (i : Instr) (s : State) (t : Nat) (q : Seq) (op : MemOp) (pa : Nat) (loads : List (Nat × Nat)) : Prop :=
  ∃ s' q' w, exec i s = .next s' ∧ s'.seq? t = some q' ∧
    q' = { q with pc := q.pc + 4, busy := q'.busy, tc := q'.tc, loads := loads } ∧ othersKept s s' t ∧
    s' = { s with seqs := s'.seqs, freeCount := s'.freeCount, nextId := s.nextId + 1, accs := s.accs ++ [w] } ∧
    w.id = s.nextId ∧ w.ref = seqRef t ∧ w.tile = t ∧ w.op = op ∧ w.pa = pa ∧ s.clock ≤ w.due ∧ w.deferred = false ∧
    w.held = false

/-- The words, with FTAG and presence, that code words of a save stream stand for (R380); the first number bounds the code
words. -/
def unstream : Nat → List Word → List (Word × Nat × Bool)
  | 0, _ => []
  | _, [] => []
  | n + 1, c :: rest =>
    let m := fld c 56 6 + 1
    let tag := fld c 46 4
    let pres := bitAt c 50
    if fld c 62 2 = 0 then List.replicate m (0, tag, pres) ++ unstream n rest
    else if fld c 62 2 = 2 then List.replicate m (rest.headD 0, tag, pres) ++ unstream n (rest.drop 1)
    else (rest.take m).map (fun v => (v, tag, pres)) ++ unstream n (rest.drop m)

/-- The runs, each with its words, that a save stream stands for: a header names the run and how many words follow for it,
and a zero word ends the stream (R380). -/
def unbank : Nat → List Word → List (Nat × List (Word × Nat × Bool))
  | 0, _ => []
  | _, [] => []
  | n + 1, h :: ws =>
    if bitAt h 63 then
      let u := fld h 0 56
      (fld h 56 7, unstream 64 (ws.take u)) :: unbank n (ws.drop u)
    else []

/-- The item that FN and an index name is listed for the element, or the box, of a site (R378). -/
def itemListed (s : State) (x : Site) (fn : Nat) : Prop :=
  let i := x.idx
  let b := s.siteBox x
  (i = 0 ∧ (fn ≤ 0x14 ∨ (0x18 ≤ fn ∧ fn ≤ 0x22) ∨ fn = 0x41)) ∨
  (i < 16 ∧ (fn = 0x23 ∨ fn = 0x31 ∨ fn = 0x40 ∨ fn = 0x42)) ∨ (i < 32 ∧ fn = 0x30) ∨
  (fn = 0x43 ∧ i < 16384 ∧ i % 1024 / 2 < Stage.capacity (b.word (i / 1024)) (b.depth.getD (i / 1024) 0)) ∨
  match kindAt x.site with
  | .spe => (i < 8192 ∧ (fn = 0x100 ∨ fn = 0x101)) ∨ (i < 16 ∧ fn = 0x102) ∨ (i < 2 ∧ fn = 0x103) ∨
      (i < 69 ∧ fn = 0x104)
  | .mxe => (i < 4096 ∧ (fn = 0x110 ∨ fn = 0x112)) ∨ (i < 16 ∧ fn = 0x111) ∨ (i < 4 ∧ fn = 0x113) ∨
      (i = 0 ∧ fn = 0x114)
  | .ce => (i < 12 ∧ fn = 0x120) ∨ (i ≤ 16 ∧ fn = 0x121) ∨ (i ≤ 4 ∧ fn = 0x122) ∨ (i < 4 ∧ fn = 0x123)
  | .mpe => (i < 16 ∧ fn = 0x130) ∨ fn = 0x131

/-! ### Firings -/

/-- The element whose slot the state's actor names is there, and the comparison that checks a result does not fail
(R133). -/
def elemThere (s : State) (r : ElemRef) (n stall starve : Nat) (e : Elem) : Prop :=
  s.actor = .slot r n stall starve ∧ s.elem? r = some e ∧ e.upset = false

/-- The residue of a source is the residue of its value (R134). -/
def clean (e : Elem) (code : BitVec 4) : Prop := (e.source code.toNat).res = residue (e.source code.toNat).val

/-- A source is clean and of a class (R131, R134). -/
def good (e : Elem) (code : BitVec 4) (k : Cls) : Prop :=
  clean e code ∧ k.accepts (e.source code.toNat).tag = true

/-- Nothing changes but the element, and the model's own agenda and counts of names and free values. -/
def onlyElem (s s' : State) (r : ElemRef) : Prop :=
  s' = { s with elems := s'.elems, agenda := s'.agenda, nextId := s'.nextId, freeCount := s'.freeCount } ∧
    ∀ r', r' ≠ r → s'.elem? r' = s.elem? r'

/-- The control tag of what a firing emits (R45). -/
def firedCtag (e : Elem) (f : SlotF) (x : Fired) : BitVec 3 :=
  match x.dst with
  | .token ct => ct
  | _ => otagCtag f (e.source f.srca.toNat)

/-- The element after the firing x of slot n, where x.e is the element with the effects of the instruction's own
kind (R116): DST, the queues, the predicate, the counters (CLK at the clock's end, R121), the rotation pointer and the count
of firings of its group (R113, R115) and the step counter (R96), and nothing else. -/
def firedAs (s : State) (n stall starve : Nat) (e : Elem) (f : SlotF) (x : Fired) (e' : Elem) : Prop :=
  let res := x.res.getD (residue x.result)
  let ct := firedCtag e f x
  (∀ k, k < 8 → e'.dreg k =
    if x.dst ≠ .none ∧ f.dst.toNat = k + 4 then ⟨x.result, x.tag, true, res⟩
    else ((x.e.consume f).writeAlso x.also).dreg k) ∧
  (∀ k, k < 4 → e'.out k = x.e.out k ++
    if x.dst ≠ .none ∧ (outsOf f.dst.toNat).contains k = true then
      [⟨⟨ct, ftagFor ct x.tag, res, s.outRid e k, x.result⟩, s.clock⟩] else []) ∧
  (∀ k, k < 4 → e'.inq k =
    if x.deq.contains k && e.viewReal k && (e.brokenAt k).isNone then (e.inq k).drop 1 else e.inq k) ∧
  (∀ k, k < 4 → e'.brokenAt k = if x.deq.contains k then none else e.brokenAt k) ∧
  (∀ k, e'.p.getD k false =
    if x.predLater = false ∧ f.pidx.toNat = k then applyPmode f.pmode.toNat (x.e.p.getD k false) x.outcome
    else x.e.p.getD k false) ∧
  (∀ k, k < 16 → e'.counters.getD k ⟨0, 0, 0⟩ =
    let c := x.e.counters.getD k ⟨0, 0, 0⟩
    ⟨sat32 (c.fired + boolN (n == k)), sat32 (c.stall + boolN (stall.testBit k)),
      sat32 (c.starve + boolN (starve.testBit k))⟩) ∧
  e'.ticking = true ∧
  (∀ g, e'.rot.getD g 0 =
    if g ≠ 0 ∧ fld (x.e.slotWord n) 0 2 = g ∧ x.e.gmode g ≠ 1 then
      (((x.e.members g).find? fun m => decide (n < m)).getD ((x.e.members g).headD 0))
    else x.e.rot.getD g 0) ∧
  (∀ g, e'.balFired.getD g 0 = x.e.balFired.getD g 0 +
    boolN (decide (g ≠ 0 ∧ fld (x.e.slotWord n) 0 2 = g ∧ x.e.gmode g = 1))) ∧
  e'.step = (if x.rounds then (x.e.step + 1) % 2 ^ 32 else x.e.step) ∧
  e' = { x.e with
    ins := e'.ins, broken := e'.broken, outs := e'.outs, d := e'.d, p := e'.p, counters := e'.counters, ticking := e'.ticking,
      step := e'.step,
    rot := e'.rot, balFired := e'.balFired }

/-- The slot instruction i, in slot n of an element, fires as x, and changes nothing beside the element. -/
def fires (i : Instr) (s : State) (r : ElemRef) (n stall starve : Nat) (e : Elem) (f : SlotF) (x : Fired) : Prop :=
  ∃ s' e', exec i s = .next s' ∧ s'.elem? r = some e' ∧ firedAs s n stall starve e f x e' ∧ onlyElem s s' r

/-- The slot fires as x, and then g acts on the machine. -/
def firesThen (i : Instr) (s : State) (r : ElemRef) (n stall starve : Nat) (e : Elem) (f : SlotF) (x : Fired)
    (g : State → State) : Prop :=
  ∃ s1 e', exec i s = .next (g s1) ∧ s1.elem? r = some e' ∧ firedAs s n stall starve e f x e' ∧ onlyElem s s1 r

/-- The slot fires with a result of lanes of w bits, lane k of which is lane k, and changes nothing else of its
element's own kind. -/
def firesLanes (i : Instr) (s : State) (r : ElemRef) (n stall starve : Nat) (e : Elem) (f : SlotF) (w : Nat)
    (tag : BitVec 4) (outcome : Word → Bool) (lane : Nat → Nat) : Prop :=
  ∃ v : Word, (∀ k, k < 64 / w → laneN w k v = lane k) ∧
    fires i s r n stall starve e f (Ctx.result ⟨s, e, n, f⟩ v tag (outcome v))

/-- The same, of a floating instruction: it counts as one that rounds when it does (R96), and may mark the clock for
R135. -/
def firesFloat (i : Instr) (s : State) (r : ElemRef) (n stall starve : Nat) (e : Elem) (f : SlotF) (w : Nat)
    (tag : BitVec 4) (outcome : Word → Bool) (rounds marks : Bool) (lane : Nat → Nat) : Prop :=
  ∃ v : Word, (∀ k, k < 64 / w → laneN w k v = lane k) ∧
    fires i s r n stall starve e f { Ctx.result ⟨s, e, n, f⟩ v tag (outcome v) with
      rounds := rounds, e := if marks then { e with lastTrans := some s.clock } else e }

/-- Source code k, as a number, is clean and of a class. -/
def goodAt (e : Elem) (k : Nat) (c : Cls) : Prop :=
  (e.source k).res = residue (e.source k).val ∧ c.accepts (e.source k).tag = true

/-- Word x of a scratchpad bank reads without an error: no uncorrectable error, and its stored residue is right (R200,
R451). -/
def wordOk (e : Elem) (x : Nat) : Prop :=
  setHas e.spe.bad x = false ∧ (e.spe.read x).res = residue (e.spe.read x).val

/-- A firing that asks for op: it takes its credits, opens a reply group that owes DST what the operation answers, and
leaves the access to be issued in the next clock; nothing is written to DST by the firing itself (R274, R275). -/
def asks (op : MOp) (num : Nat) (a b : Word) (cred : Cred) (outcome later : Bool) (i : Instr) (s : State) (r : ElemRef)
    (n stall starve : Nat) (e : Elem) (f : SlotF) : Prop :=
  let m := e.mpe
  let took : MpeState := match cred with
    | .none => m
    | .rd k => { m with rdCred := m.rdCred - k }
    | .wr => { m with wrCred := m.wrCred - 1 }
    | .lane k => { m with laneCred := m.laneCred - k }
    | .rem => { m with remCred := m.remCred - 1 }
  let issue : Issue := ⟨s.nextId, op, f.lane.toNat, num, a, b, s.clock, false, []⟩
  let group : RGroup :=
    ⟨s.nextId, op, f.dst.toNat, f.lane.toNat, num, a, b, 0, n, [], true, isOut f.dst.toNat && op != .astwr,
      if later then some (f.pidx.toNat, f.pmode.toNat) else none, false⟩
  fires i s r n stall starve e f
    { Ctx.silent ⟨s, e, n, f⟩ outcome with
      e := { e with mpe := { took with issueQ := m.issueQ ++ [issue], groups := m.groups ++ [group] } }
      ids := 1, predLater := later }

/-- The slot does not fire: its element halts with the trap, and the tile's sequencer has it pending (R132, R429). -/
def trapsWith (i : Instr) (s : State) (r : ElemRef) (t : ETrap) : Prop := exec i s = .next (s.trapElem r t)

/-! ### Steps of the blocks -/

/-- The element that the state's actor names is there. -/
def elemAct (s : State) (r : ElemRef) (e : Elem) : Prop := s.actor = .elem r ∧ s.elem? r = some e

/-- The element that the state's actor names, with a number of a thing of it, is there. -/
def elemActN (s : State) (r : ElemRef) (n : Nat) (e : Elem) : Prop := s.actor = .elemN r n ∧ s.elem? r = some e

/-- The step leaves the element as e', and changes nothing else. -/
def setsElem (i : Instr) (s : State) (r : ElemRef) (e' : Elem) : Prop :=
  ∃ s', exec i s = .next s' ∧ s'.elem? r = some e' ∧ s' = { s with elems := s'.elems } ∧
    ∀ r', r' ≠ r → s'.elem? r' = s.elem? r'

/-- Token t enters every output of dst, stamped with the identifier of its route, and the rest of the element is as in
e1 (R55, R108, R179). -/
def putsTok (s : State) (e : Elem) (dst : Nat) (t : Tok) (e1 e' : Elem) : Prop :=
  (∀ k, k < 4 → e'.out k = e.out k ++
    if (outsOf dst).contains k = true then [⟨{ t with rid := s.outRid e k }, s.clock⟩] else []) ∧
  e' = { e1 with outs := e'.outs }

/-- Of the machine's memory, only the bytes from a to a + n - 1 may change. -/
def onlyBytes (s s' : State) (a n : Nat) : Prop := ∀ b, b < a ∨ a + n ≤ b → s'.byte b = s.byte b

end Sys2Proof.Safety
end

