-- ==== Sys2Proof/Certificates/Slice0/Obligations.lean ====
section
/-! DEFINITION. The statements for the provers. -/

section

open Sys2Proof Sys2Proof.Machine Sys2Proof.Safety

/-! ### Sequencer words -/

/-- The register forms of the ALU: what gd holds after, and that nothing else changes but the pc (R369). The immediate
forms (R369). -/
def Obligations.SeqArithmetic : Prop :=
  (∀ (s : State) (t : Nat) (q : Seq) (d a b : BitVec 5), seqThere s t q →
     let x := q.reg a
     let y := q.reg b
     let goes (i : Instr) (v : Word) : Prop := writesReg i s t q d v (q.pc + 4)
     goes (.seqAdd d a b) (x + y) ∧ goes (.seqSub d a b) (x - y) ∧ goes (.seqAnd d a b) (x &&& y) ∧
     goes (.seqOr d a b) (x ||| y) ∧ goes (.seqXor d a b) (x ^^^ y) ∧
     goes (.sll d a b) (x <<< (y.toNat % 64)) ∧ goes (.srl d a b) (x >>> (y.toNat % 64)) ∧
     goes (.sra d a b) (BitVec.ofInt 64 (x.toInt / 2 ^ (y.toNat % 64))) ∧
     goes (.slt d a b) (if x.toInt < y.toInt then 1 else 0) ∧ goes (.sltu d a b) (if x.toNat < y.toNat then 1 else 0) ∧
     goes (.seqMul d a b) (BitVec.ofNat 64 (x.toNat * y.toNat)) ∧
     goes (.seqMulh d a b) (BitVec.ofInt 64 (x.toInt * y.toInt / 2 ^ 64)) ∧
     goes (.divu d a b) (if y = 0 then 0xFFFFFFFFFFFFFFFF else BitVec.ofNat 64 (x.toNat / y.toNat)) ∧
     goes (.remu d a b) (if y = 0 then x else BitVec.ofNat 64 (x.toNat % y.toNat))) ∧
  (∀ (s : State) (t : Nat) (q : Seq) (d a : BitVec 5) (i : BitVec 16) (sh : BitVec 6), seqThere s t q →
     let x := q.reg a
     let goes (w : Instr) (v : Word) : Prop := writesReg w s t q d v (q.pc + 4)
     goes (.addi d a i) (x + BitVec.ofInt 64 i.toInt) ∧
     goes (.slti d a i) (if x.toInt < i.toInt then 1 else 0) ∧
     goes (.andi d a i) (x &&& BitVec.ofNat 64 i.toNat) ∧ goes (.ori d a i) (x ||| BitVec.ofNat 64 i.toNat) ∧
     goes (.xori d a i) (x ^^^ BitVec.ofNat 64 i.toNat) ∧
     goes (.slli d a sh) (x <<< sh.toNat) ∧ goes (.srli d a sh) (x >>> sh.toNat) ∧
     goes (.srai d a sh) (BitVec.ofInt 64 (x.toInt / 2 ^ sh.toNat)) ∧
     goes (.lui d i) (BitVec.ofInt 64 (i.toInt * 2 ^ 16)))

/-- Branches and jumps: where the pc goes, the link register, and that nothing else changes (R369). -/
def Obligations.SeqBranchesAndJumps : Prop :=
  ∀ (s : State) (t : Nat) (q : Seq) (d a : BitVec 5) (i : BitVec 16) (o : BitVec 21), seqThere s t q →
    let x := q.reg d
    let y := q.reg a
    let far (off : Int) : BitVec 57 := BitVec.ofInt 57 ((q.pc.toNat : Int) + 4 * off)
    let goes (w : Instr) (c : Bool) : Prop := writesReg w s t q 0 0 (if c then far i.toInt else q.pc + 4)
    goes (.beq d a i) (decide (x = y)) ∧ goes (.bne d a i) (decide (x ≠ y)) ∧
    goes (.blt d a i) (decide (x.toInt < y.toInt)) ∧ goes (.bge d a i) (decide (y.toInt ≤ x.toInt)) ∧
    goes (.bltu d a i) (decide (x.toNat < y.toNat)) ∧ goes (.bgeu d a i) (decide (y.toNat ≤ x.toNat)) ∧
    writesReg (.jal d o) s t q d (BitVec.zeroExtend 64 (q.pc + 4)) (far o.toInt) ∧
    (let tgt := y + BitVec.ofInt 64 i.toInt
     if tgt.toNat % 4 = 0 then
       writesReg (.jalr d a i) s t q d (BitVec.zeroExtend 64 (q.pc + 4)) (BitVec.truncate 57 tgt)
     else trapsSeq (.jalr d a i) s t q Cause.align)

/-- Loads and stores leave as accesses of the local address that the translation gives, which are performed later (R265,
R286, R303, R369): a load then gives gd the zero-extended bytes that its sequencer obtains, unless a later word has written
it, and memory stays; a store's low bytes of gd then stand there, and every other byte stays. A store to a task record or to
an SYE window waits for the accesses of its sequencer to its word, and is then performed in its step; a word of an owned
record or of the entry queues is not written (R339). An address that is not a multiple of its size traps ALIGN and never
reaches memory (R265, R369). An access that meets an uncorrectable error, in the word it loads, in a word of which it writes
a part, or in a descriptor, traps UNCORRECTABLE, and the error is logged (R248, R451). That a load's error is found when it
leaves, which stores are performed in their step and that they wait (log 16), what a sequencer obtains of writes in flight
(log 4), what becomes of part of a word with an error (log 96), and the order of a translation's checks (log 21) are the
model's choice. -/
def Obligations.SeqLoadsAndStores : Prop :=
  (∀ (s : State) (t : Nat) (q : Seq) (d a : BitVec 5) (i : BitVec 16), seqThere s t q →
     let loads (w : Instr) (n : Nat) : Prop :=
       let x := s.seqXlat q .load (q.reg a + BitVec.ofInt 64 i.toInt).toNat n
       (x.cause = 0 → s.isBad (wordOf x.pa) = false → issuesSeq w s t q (.seqRead d.toNat n) x.pa
         (if d = 0 then q.loads else (d.toNat, s.nextId) :: q.loads.filter fun y => decide (y.1 ≠ d.toNat))) ∧
       (x.cause = Cause.uncorrectable → trapsUncorrectable w s t q) ∧
       (x.cause = 0 → s.isBad (wordOf x.pa) = true → trapsUncorrectable w s t q) ∧
       (x.cause ≠ 0 → x.cause ≠ Cause.uncorrectable → trapsSeq w s t q x.cause)
     loads (.ldb d a i) 1 ∧ loads (.ldh d a i) 2 ∧ loads (.ldw d a i) 4 ∧ loads (.ldd d a i) 8) ∧
  (∀ (s : State) (t : Nat) (q : Seq) (d a : BitVec 5) (i : BitVec 16), seqThere s t q → Memory.wf s.mem = true →
     let stores (w : Instr) (n : Nat) : Prop :=
       let x := s.seqXlat q .store (q.reg a + BitVec.ofInt 64 i.toInt).toNat n
       let may := s.mayFail x.pa
       let partBad : Prop := n < 8 ∧ s.isBad (wordOf x.pa) = true
       (x.cause = 0 → may = false → s.storeCause x.pa = 0 → ¬ partBad →
         issuesSeq w s t q (.seqWrite n (q.reg d).toNat) x.pa q.loads) ∧
       (x.cause = 0 → may = true → s.seqHeld t x.pa = false → s.storeCause x.pa = 0 → ¬ partBad → ∃ s', accesses w s t q s' ∧
         (∀ k, k < n → s'.byte (x.pa + k) = BitVec.ofNat 8 ((q.reg d).toNat / 256 ^ k)) ∧ onlyBytes s s' x.pa n) ∧
       (x.cause = 0 → may = true → s.seqHeld t x.pa = true → ∃ s' tc, exec w s = .next s' ∧
         s'.seq? t = some { q with tc := tc } ∧ s' = { s with seqs := s'.seqs, freeCount := s'.freeCount } ∧ othersKept s s' t) ∧
       (x.cause = 0 → may = false ∨ s.seqHeld t x.pa = false → s.storeCause x.pa ≠ 0 →
         trapsSeq w s t q (s.storeCause x.pa)) ∧
       (x.cause = 0 → may = false ∨ s.seqHeld t x.pa = false → s.storeCause x.pa = 0 → partBad → trapsUncorrectable w s t q) ∧
       (x.cause = Cause.uncorrectable → trapsUncorrectable w s t q) ∧
       (x.cause ≠ 0 → x.cause ≠ Cause.uncorrectable → trapsSeq w s t q x.cause)
     stores (.stb d a i) 1 ∧ stores (.sth d a i) 2 ∧ stores (.stw d a i) 4 ∧ stores (.std d a i) 8) ∧
  (∀ (s : State) (t : Nat) (q : Seq) (d a : BitVec 5) (i : BitVec 16), seqThere s t q →
     let va := (q.reg a + BitVec.ofInt 64 i.toInt).toNat
     (va % 2 ≠ 0 → trapsSeq (.ldh d a i) s t q Cause.align ∧ trapsSeq (.sth d a i) s t q Cause.align) ∧
     (va % 4 ≠ 0 → trapsSeq (.ldw d a i) s t q Cause.align ∧ trapsSeq (.stw d a i) s t q Cause.align) ∧
     (va % 8 ≠ 0 → trapsSeq (.ldd d a i) s t q Cause.align ∧ trapsSeq (.std d a i) s t q Cause.align)) ∧
  -- the accesses are performed
  (∀ (s : State) (n : Nat) (w : Access), s.actor = .id n → s.acc? n = some w → Memory.wf s.mem = true → w.deferred = false →
     w.held = false → w.due ≤ s.clock → s.seqBehind w = false →
     let frame (s' : State) : Prop := exec .memoryEdgeAccess s = .next s' ∧ s'.acc? n = none ∧
       s' = { s with seqs := s'.seqs, accs := s'.accs, mem := s'.mem, bad := s'.bad } ∧ othersKept s s' w.tile
     (∀ reg k, w.op = .seqRead reg k → reg < 32 → s.readHeld w.obs w.pa = false →
       let v : Word := BitVec.ofNat 64 (fld (s.valueFor w.obs w.pa) (w.pa % 8 * 8) (8 * k))
       (s.seenWrites w.obs w.pa = [] → w.pa % 8 + k ≤ 8 → v = BitVec.ofNat 64 (ofBytes (s.bytes w.pa k))) ∧
       ∃ s', frame s' ∧ s'.mem = s.mem ∧ ∀ q, s.seq? w.tile = some q → ∃ q', s'.seq? w.tile = some q' ∧
         q' = { q with regs := q'.regs, late := q'.late, loads := q'.loads } ∧
         (q.loads.contains (reg, n) = false → q' = q) ∧
         (q.loads.contains (reg, n) = true → ∀ j, q'.reg j = if j.toNat = reg ∧ reg ≠ 0 then v else q.reg j)) ∧
     (∀ k v, w.op = .seqWrite k v → ∃ s', frame s' ∧ s'.seqs = s.seqs ∧
       (∀ j, j < k → s'.byte (w.pa + j) = BitVec.ofNat 8 (v / 256 ^ j)) ∧ onlyBytes s s' w.pa k))

/-- SCRR, SCRW, SCRS and SCRC on a listed register: gd takes the old value; in privileged mode the writable fields
take the value, the old value or it, the old value and not it, and a W1C field is cleared where the value holds 1; in
user mode a readable register is only read (R366, R367, R370). The bits of sq.DETAIL that the layout of the last trap
reserves keep their value (R6). A control register's number that is not listed traps
ILLEGAL; a register without user access traps PRIVILEGE in user mode; neither has another effect (R366). That SCRS and SCRC
take the value of GA itself on sq.EVPEND (log 22), and which bits of sq.DETAIL are reserved (log 90), are the model's
choice. -/
def Obligations.ControlRegisters : Prop :=
  (∀ (s : State) (t : Nat) (q : Seq) (d a : BitVec 5) (n : BitVec 14) (old : Word),
     seqThere s t q → s.scrRead t q n.toNat = some old →
     let k := n.toNat
     let x := q.reg a
     let mix (m v was : Word) : Word := (was &&& ~~~m) ||| (v &&& m)
     -- the word reads old into gd and leaves the control registers of q1
     let leaves (i : Instr) (q1 : Seq) : Prop := ∃ s' q', exec i s = .next s' ∧ s'.seq? t = some q' ∧ onlySeq s s' t ∧
       q'.pc = q.pc + 4 ∧ (∀ j, q'.reg j = if j = d ∧ d ≠ 0 then old else q.reg j) ∧ sameControl q1 q' ∧ loadsLeft q q' d
     let writes (i : Instr) (v : Word) : Prop := leaves i { q with
       status := if k = 0x000 then mix 0xE v q.status else q.status
       epc := if k = 0x001 then v else q.epc
       cause := if k = 0x002 then mix 0xFFFF000000000000 v q.cause else q.cause
       detail := if k = 0x003 then mix q.dmask v q.detail else q.detail
       tvec := if k = 0x004 then mix 0xFFFFFFFFFFFFFFFC v q.tvec else q.tvec
       sysret := if k = 0x005 then v else q.sysret
       evpend := if k = 0x012 then q.evpend &&& ~~~(BitVec.truncate 4 v) else q.evpend
       rndrank := if k = 0x020 then BitVec.truncate 32 v else q.rndrank
       rndstep := if k = 0x021 then BitVec.truncate 32 v else q.rndstep }
     (q.priv = true →
       leaves (.scrr d a n) q ∧ writes (.scrw d a n) x ∧ writes (.scrs d a n) (if k = 0x012 then x else old ||| x) ∧
       writes (.scrc d a n) (if k = 0x012 then x else old &&& ~~~x)) ∧
     (q.priv = false → k ∉ [0x001, 0x002, 0x003, 0x004, 0x005, 0x040, 0x043] →
       leaves (.scrr d a n) q ∧ leaves (.scrw d a n) q ∧ leaves (.scrs d a n) q ∧ leaves (.scrc d a n) q)) ∧
  (∀ (s : State) (t : Nat) (q : Seq) (d a : BitVec 5) (n : BitVec 14), seqThere s t q →
     let all (cause : Nat) : Prop := trapsSeq (.scrr d a n) s t q cause ∧ trapsSeq (.scrw d a n) s t q cause ∧
       trapsSeq (.scrs d a n) s t q cause ∧ trapsSeq (.scrc d a n) s t q cause
     (n.toNat ∉ [0x000, 0x001, 0x002, 0x003, 0x004, 0x005, 0x010, 0x011, 0x012, 0x020, 0x021, 0x022, 0x030, 0x031,
         0x040, 0x043, 0x050, 0x051, 0x052, 0x053] → all Cause.illegal) ∧
     (n.toNat ∈ [0x001, 0x002, 0x003, 0x004, 0x005, 0x040, 0x043] → q.priv = false → all Cause.privilege))

/-- WEV waits until an event of its mask is pending, then gives and clears it, and an empty mask goes on at once; SYSR
reads a value for FN below 8 and traps SYSCALL with FN for the others; FENCE goes on once every access that its sequencer has
issued is performed at its scope, and waits until then (R303, R371, R372, R381, R382). When an access that is not performed
at home counts as performed at a narrower scope is the model's choice (log 4, log 16). -/
def Obligations.SeqEventsAndRequests : Prop :=
  ∀ (s : State) (t : Nat) (q : Seq) (d a : BitVec 5) (fn : BitVec 11) (sc : BitVec 4), seqThere s t q →
    let m : BitVec 4 := BitVec.truncate 4 (q.reg a)
    let hit := q.evpend &&& m
    let wev : Instr := .wev d a
    (m = 0 ∨ hit ≠ 0 → ∃ s' q', exec wev s = .next s' ∧ s'.seq? t = some q' ∧ onlySeq s s' t ∧ q'.pc = q.pc + 4 ∧
      (∀ j, q'.reg j = if j = d ∧ d ≠ 0 then BitVec.zeroExtend 64 hit else q.reg j) ∧
      sameControl { q with evpend := q.evpend &&& ~~~hit, wev := none } q' ∧ loadsLeft q q' d) ∧
    (m ≠ 0 → hit = 0 → ∃ s', exec wev s = .next s' ∧ s'.seq? t = some { q with wev := some (d, a) } ∧ onlySeq s s' t) ∧
    (fn.toNat = 0 → writesReg (.sysr d a fn) s t q d (BitVec.ofNat 64 s.clock) (q.pc + 4)) ∧
    (fn.toNat = 1 → writesReg (.sysr d a fn) s t q d (s.tileId t) (q.pc + 4)) ∧
    (fn.toNat = 2 → writesReg (.sysr d a fn) s t q d (BitVec.ofNat 64 s.dv.pkgnum) (q.pc + 4)) ∧
    (3 ≤ fn.toNat → fn.toNat < 8 → writesReg (.sysr d a fn) s t q d 0 (q.pc + 4)) ∧
    (8 ≤ fn.toNat → ∃ s', exec (.sysr d a fn) s = .next s' ∧ onlySeq s s' t ∧
      s'.seq? t = some (q.enter ⟨.sys d.toNat, Cause.syscall, BitVec.zeroExtend 64 fn, s.clock, 0⟩)) ∧
    ((∀ w ∈ s.accs, w.op.ofSeq = true → w.tile = t → s.writtenAt w sc.toNat = true) →
      writesReg (.seqFence sc) s t q 0 0 (q.pc + 4)) ∧
    ((∃ w ∈ s.accs, w.op.ofSeq = true ∧ w.tile = t ∧ s.writtenAt w sc.toNat = false) →
      exec (.seqFence sc) s = .next s)

/-- In user mode INST, ABND, EWR, TINV, SAVEC and TRET trap PRIVILEGE and have no other effect (R65). -/
def Obligations.PrivilegedWords : Prop :=
  ∀ (s : State) (t : Nat) (q : Seq) (d a b : BitVec 5) (fn : BitVec 11), seqThere s t q → q.priv = false →
    trapsSeq (.instWord a b) s t q Cause.privilege ∧ trapsSeq (.abnd d a) s t q Cause.privilege ∧
    trapsSeq (.ewr a b fn) s t q Cause.privilege ∧ trapsSeq (.tinv a b) s t q Cause.privilege ∧
    trapsSeq (.savec d a b) s t q Cause.privilege ∧ trapsSeq .tret s t q Cause.privilege

/-- Taking a trap: EPC is the pc of the word, which is not executed, CAUSE and DETAIL are written, PPRIV and PINTRAP
keep PRIV and INTRAP, which become 1, and the pc is TVEC. An undefined word traps ILLEGAL. A pending trap is taken,
the oldest first, where INTRAP is 0, and waits where it is 1 (R64, R368, R429). TRET in privileged mode: PC := EPC,
PRIV := PPRIV, PPRIV := 0, INTRAP := PINTRAP, PINTRAP := 0, and the word at EPC comes again. A SYSCALL word completes
instead, with gd := SYSRET and PC := EPC + 4. The return from an element's trap with cause 0 leaves the element released:
after RESIDUE with the input head that failed as it stands and its residue made anew, after ROUTE without the head, and a
switch word's held token with the identifier that the word expects. With another cause it stops the element's fabric load:
to be saved with PREEMPT, to be saved with a page request with PAGE after a FAULT token of that cause, to be killed
otherwise; without a frame owner a save is a kill with SAVE_NOFRAME. The return from a PREEMPT or RESTORE trap with 0, PAGE
or PREEMPT is the tile's part, and with another cause the fabric load retires (R383, R431 to R433). That TRET disposes of
the last trap taken, that it drops the low two bits of EPC, and what it does where no trap was taken, is the model's choice
(log 45). -/
def Obligations.TrapEntryAndReturn : Prop :=
  (∀ (s : State) (t : Nat) (q : Seq), seqThere s t q →
     let taken (q' : Seq) (p : PTrap) : Prop :=
       q'.epc = BitVec.zeroExtend 64 q.pc ∧ q'.cause = BitVec.ofNat 64 (p.cause % 2 ^ 16 * 2 ^ 48) ∧
       q'.dmask = (match p.src with
         | .word => BitVec.allOnes 64
         | .sys _ => BitVec.allOnes 64
         | .elem _ => 0xFFF0FFFFFFFFFFFF
         | .box _ _ _ _ => 0xFFF0FFFFFFFFFFFF
         | .preempt _ => 0xFFF00FFFFFFFF000
         | .restore _ => 0xFFF00FFFFFFFF000) ∧ q'.detail = p.detail &&& q'.dmask ∧
       q'.priv = true ∧ q'.inTrap = true ∧ q'.pPriv = q.priv ∧ q'.pInTrap = q.inTrap ∧ fld q'.status 4 60 = 0 ∧
       q'.pc = BitVec.truncate 57 q.tvec ∧
       q' = { q with epc := q'.epc, cause := q'.cause, detail := q'.detail, dmask := q'.dmask, status := q'.status, pc := q'.pc,
                     wev := none,
                     taken := p :: q.taken, pend := q'.pend }
     (∃ s' q' dt, exec .illegal s = .next s' ∧ s'.seq? t = some q' ∧ taken q' ⟨.word, Cause.illegal, dt, s.clock, 0⟩ ∧
       q'.pend = q.pend ∧ s' = { s with seqs := s'.seqs, freeCount := s'.freeCount } ∧ othersKept s s' t) ∧
     (∀ p ps, q.pend = p :: ps → q.inTrap = false → ∃ s' q', exec .trapEntry s = .next s' ∧ s'.seq? t = some q' ∧
       taken q' p ∧ q'.pend = ps ∧ onlySeq s s' t) ∧
     (q.inTrap = true ∨ q.pend = [] → exec .trapEntry s = .next s)) ∧
  (∀ (s : State) (t : Nat) (q : Seq), seqThere s t q → q.priv = true →
     let returned (q' : Seq) : Prop :=
       q'.priv = q.pPriv ∧ q'.pPriv = false ∧ q'.inTrap = q.pInTrap ∧ q'.pInTrap = false ∧ fld q'.status 4 60 = 0 ∧
       q' = { q with pc := q'.pc, regs := q'.regs, late := q'.late, loads := q'.loads, status := q'.status, busy := q'.busy,
                     taken := q.taken.drop 1 }
     let plain (q' : Seq) : Prop := q'.pc = BitVec.ofNat 57 (q.epc.toNat / 4 * 4) ∧ q'.regs = q.regs ∧ q'.loads = q.loads
     let c := fld q.cause 48 16
     -- the return, and what it leaves of the machine
     let returns (after : State → Prop) : Prop := ∃ s' q', exec .tret s = .next s' ∧ s'.seq? t = some q' ∧ returned q' ∧
       plain q' ∧
       othersKept s s' t ∧ after s'
     let stops (l : LoadRef) (x : Load) (disp : Disp) (reason : Nat) : Prop := returns fun s' => s'.mem = s.mem ∧
       s'.load? l = some { x with
         phase := .draining, disp := some disp, reason := reason, returned := [], phaseAt := s.clock } ∧
       (∀ e ∈ s'.elems, e.ref.load = l → e.stopped = true) ∧ ∀ r, r.load ≠ l → s'.elem? r = s.elem? r
     (q.taken = [] → ∃ s' q', exec .tret s = .next s' ∧ s'.seq? t = some q' ∧ returned q' ∧ plain q' ∧ onlySeq s s' t) ∧
     (∀ p ps, q.taken = p :: ps →
       (p.src = .word → ∃ s' q', exec .tret s = .next s' ∧ s'.seq? t = some q' ∧ returned q' ∧ plain q' ∧
         onlySeq s s' t) ∧
       (∀ gd, p.src = .sys gd → ∃ s' q', exec .tret s = .next s' ∧ s'.seq? t = some q' ∧ returned q' ∧ onlySeq s s' t ∧
         q'.pc = BitVec.ofNat 57 (q.epc.toNat / 4 * 4) + 4 ∧
         ∀ j, q'.reg j = if j = BitVec.ofNat 5 gd ∧ BitVec.ofNat 5 gd ≠ 0 then q.sysret else q.reg j) ∧
       (∀ r e, p.src = .elem r → s.elem? r = some e → fld q.cause 48 16 = 0 → p.cause ≠ Cause.residue →
         p.cause ≠ Cause.route → ∃ s' q', exec .tret s = .next s' ∧ s'.seq? t = some q' ∧ returned q' ∧ plain q' ∧
         s'.elem? r = some e.release ∧ e.release.trap = none ∧ s' = { s with seqs := s'.seqs, elems := s'.elems } ∧
         othersKept s s' t ∧ ∀ r', r' ≠ r → s'.elem? r' = s.elem? r') ∧
       -- RESIDUE and ROUTE, where no vote opens
       (∀ r e tr, p.src = .elem r → s.elem? r = some e → e.trap = some tr → tr.cause = p.cause → c = 0 → s.voting = false →
         (p.cause = Cause.residue ∨ p.cause = Cause.route → returns fun s' => s'.elem? r = some e.release ∧
           s' = { s with seqs := s'.seqs, elems := s'.elems, selog := s'.selog, selogLost := s'.selogLost }) ∧
         (∀ k tk ts, p.cause = Cause.residue → tr.operand = some k → k < 4 → e.inq k = tk :: ts →
           e.release.inq k = { tk with res := residue tk.pay } :: ts ∧ ∀ j, j ≠ k → e.release.inq j = e.inq j) ∧
         (∀ k tk ts, p.cause = Cause.route → k < 4 → fld (BitVec.ofNat 64 tr.detail) 36 4 = 4 + k → e.inq k = tk :: ts →
           e.release.inq k = ts ∧ ∀ j, j ≠ k → e.release.inq j = e.inq j)) ∧
       (∀ l lt site k b tk, p.src = .box l lt site k → s.box? l lt site = some b → (b.stage k).held = some tk →
         k < b.stages.length →
         c = 0 → s.voting = false → returns fun s' => ∃ b', s'.box? l lt site = some b' ∧
           (b'.stage k).held = some { tk with rid := ridAt b.rids (swDest (b.word k)), ftag := if tk.ftag = 15 then 0
                                              else tk.ftag }) ∧
       -- a cause that stops the fabric load
       (∀ r x, p.src = .elem r → s.load? r.load = some x → x.phase = .resident → c ≠ 0 → p.cause ≠ Cause.residue →
         p.cause ≠ Cause.route →
         let paged : Prop := c = Cause.page ∧ p.cause = Cause.faultUnconsumed ∧ fld p.detail 32 16 = Cause.page
         (c = Cause.preempt → x.owner ≠ none → stops r.load x ⟨1, 0, 0⟩ 3) ∧
         (c = Cause.preempt → x.owner = none → stops r.load x ⟨3, Cause.saveNoframe, 0⟩ 3) ∧
         (paged → x.owner ≠ none → ∃ va, stops r.load x ⟨2, 0, va⟩ 1) ∧
         (paged → x.owner = none → stops r.load x ⟨3, Cause.saveNoframe, 0⟩ 1) ∧
         (c ≠ Cause.preempt → ¬ paged → stops r.load x ⟨3, c, 0⟩ 3)) ∧
       -- PREEMPT and RESTORE
       (∀ l x y, p.src = .preempt l ∨ p.src = .restore l → s.load? l = some x →
         x.phase = (if p.src = .preempt l then .saving else .restoring) →
         (x.tiles.find? fun y => decide (pkgTile l.die y.pt = t)) = some y →
         (c = 0 ∨ c = Cause.page ∨ c = Cause.preempt → returns fun s' => s'.elems = s.elems ∧ s'.load? l = some { x with
             returned := if x.returned.contains y.lt then x.returned else x.returned ++ [y.lt], phaseAt := s.clock } ∧
           (p.src = .restore l ∨ x.owner = none → s'.mem = s.mem)) ∧
         (c ≠ 0 → c ≠ Cause.page → c ≠ Cause.preempt → ∃ s' q' y', exec .tret s = .next s' ∧ s'.seq? t = some q' ∧
           returned q' ∧ s'.load? l = some y' ∧ y'.phase = .retiring ∧
           (p.src = .preempt l → y'.slots = List.replicate 8 none)))))

/-- ERD and OCCR give the item and the occupancy of the site that GA names, for every site and item that is listed; a
site or item that is not there traps ELEMSEL (R378, R379). EWR in privileged mode on a halted element: the item is
written, whichever is listed, and nothing else of the machine changes; slots, constants and data registers read back as
written, the ECW in its fields. A live element traps ELEMLIVE, a site or item that is not there ELEMSEL (R378). The
index range of FN 0x104 and 0x131, and the layout of items that no rule lays out, are the model's (log 37). -/
def Obligations.ElementReadsAndWrites : Prop :=
  (∀ (s : State) (t : Nat) (q : Seq) (d a : BitVec 5) (fn : BitVec 11), seqThere s t q →
     (∀ x, s.siteOf t (q.reg a) = some x → writesReg (.occr d a) s t q d (s.occupancy x) (q.pc + 4) ∧
       (∀ v, s.siteItem x fn.toNat = some v → writesReg (.erd d a fn) s t q d v (q.pc + 4)) ∧
       (s.siteItem x fn.toNat = none → trapsSeq (.erd d a fn) s t q Cause.elemsel)) ∧
     (s.siteOf t (q.reg a) = none →
       trapsSeq (.occr d a) s t q Cause.elemsel ∧ trapsSeq (.erd d a fn) s t q Cause.elemsel) ∧
     (s.residentOn t = none ∨ fld (q.reg a) 22 42 ≠ 0 ∨ 192 ≤ fld (q.reg a) 0 8 → s.siteOf t (q.reg a) = none) ∧
     (∀ l lt, s.residentOn t = some (l, lt) → fld (q.reg a) 22 42 = 0 → fld (q.reg a) 0 8 < 192 →
       let x : Site := ⟨l, lt, fld (q.reg a) 0 8, fld (q.reg a) 8 14⟩
       (∃ v, writesReg (.occr d a) s t q d v (q.pc + 4)) ∧
       (itemListed s x fn.toNat → ∃ v, writesReg (.erd d a fn) s t q d v (q.pc + 4)))) ∧
  (∀ (s : State) (t : Nat) (q : Seq) (a b : BitVec 5) (fn : BitVec 11), seqThere s t q → q.priv = true →
     let k := fn.toNat
     let v := q.reg b
     (s.siteOf t (q.reg a) = none → trapsSeq (.ewr a b fn) s t q Cause.elemsel) ∧
     (∀ x, s.siteOf t (q.reg a) = some x →
       (s.setSiteItem x k v = none → trapsSeq (.ewr a b fn) s t q Cause.elemsel) ∧
       (∀ s1, s.setSiteItem x k v = some s1 → (s.siteElem x).halted = false →
         trapsSeq (.ewr a b fn) s t q Cause.elemlive) ∧
       (∀ s1, s.setSiteItem x k v = some s1 → (s.siteElem x).halted = true → ∃ s' q',
         exec (.ewr a b fn) s = .next s' ∧ s'.seq? t = some q' ∧ q' = { q with pc := q.pc + 4, busy := q'.busy } ∧
         othersKept s s' t ∧ s' = { s with seqs := s'.seqs, elems := s'.elems, boxes := s'.boxes } ∧
         (∀ r, r ≠ x.ref → s'.elem? r = s.elem? r) ∧
         (∀ e, s.elem? x.ref = some e → x.idx = 0 →
           (k < 0x10 ∨ (0x11 ≤ k ∧ k ≤ 0x14) ∨ (0x18 ≤ k ∧ k ≤ 0x1F) → s'.siteItem x k = some v) ∧
           (k = 0x10 → s'.siteItem x k = some (v &&& 0xFFBFFFFFFF000000)))) ∧
       (itemListed s x k → (s.siteElem x).halted = true → ∃ s' q', exec (.ewr a b fn) s = .next s' ∧
         s'.seq? t = some q' ∧ q' = { q with pc := q.pc + 4, busy := q'.busy } ∧ othersKept s s' t ∧
         s' = { s with seqs := s'.seqs, elems := s'.elems, boxes := s'.boxes })))

/-- INST in privileged mode: it returns at once, sq.INSTST says RUNNING, and the install of the die stands at its
first step; with an install in progress it is refused with INSTALL_BUSY and the INSTDONE event. A misaligned address,
or a mask with bits [63:48], traps ILLEGAL (R371, R373, R375). ABND in privileged mode: 0 where the fabric load begins
to retire or is retiring already, 1 where it is busy, 2 where there is none, 3 where the install in progress is
abandoned (R376). -/
def Obligations.InstallAndAbandonWords : Prop :=
  (∀ (s : State) (t : Nat) (q : Seq) (a b : BitVec 5) (x : Die), seqThere s t q → q.priv = true →
     s.die? (t / 48) = some x →
     let va := q.reg a
     let m := q.reg b
     let next (q' : Seq) : Prop := q' = { q with pc := q.pc + 4, busy := q'.busy, instst := q'.instst, evpend := q'.evpend }
     (va.toNat % 8 ≠ 0 ∨ m.toNat / 2 ^ 48 ≠ 0 → trapsSeq (.instWord a b) s t q Cause.illegal) ∧
     (va.toNat % 8 = 0 → m.toNat / 2 ^ 48 = 0 → ∃ s' q', exec (.instWord a b) s = .next s' ∧ s'.seq? t = some q' ∧
       next q' ∧ othersKept s s' t ∧ s' = { s with seqs := s'.seqs, dies := s'.dies } ∧
       (∀ u, u ≠ t / 48 → s'.die? u = s.die? u) ∧
       (x.inst = none → fld q'.instst 0 16 = 1 ∧ q'.evpend = q.evpend ∧ ∃ i, s'.die? (t / 48) = some { x with inst := some i } ∧
         i.tile = t ∧ i.va = va.toNat ∧ i.allowed = m.toNat % 2 ^ 48 ∧ i.step = 1 ∧ i.due = s.clock + 120) ∧
       (x.inst ≠ none → fld q'.instst 0 16 = 3 ∧ fld q'.instst 48 16 = Cause.busy ∧ q'.evpend = q.evpend ||| 2 ∧
         s'.die? (t / 48) = some x))) ∧
  (∀ (s : State) (t : Nat) (q : Seq) (d a : BitVec 5), seqThere s t q → q.priv = true →
     let l : LoadRef := ⟨t / 48, fld (q.reg a) 0 6⟩
     -- gd takes the code; of the machine besides, only what kept allows changes
     let gives (v : Word) (s' : State) : Prop := ∃ q', exec (.abnd d a) s = .next s' ∧ s'.seq? t = some q' ∧
       q'.pc = q.pc + 4 ∧ (∀ j, q'.reg j = if j = d ∧ d ≠ 0 then v else q.reg j) ∧ sameControl q q' ∧ othersKept s s' t
     (∀ x, s.load? l = some x →
       (x.phase = .retiring ∨ (x.phase = .resident ∧ s.noThreads x = true) → ∃ s' y, gives 0 s' ∧
         s' = { s with seqs := s'.seqs, loads := s'.loads } ∧ s'.load? l = some y ∧ y.phase = .retiring ∧
         t ∈ y.retireFor ∧ ∀ l', l' ≠ l → s'.load? l' = s.load? l') ∧
       (x.phase ≠ .retiring → ¬(x.phase = .resident ∧ s.noThreads x = true) → ∃ s', gives 1 s' ∧ onlySeq s s' t)) ∧
     (s.load? l = none →
       (((s.die? (t / 48)).bind (·.inst)).isSome = true → fld (q.reg a) 0 6 = s.freeFab (t / 48) → ∃ s', gives 3 s' ∧
         ∃ y i, s'.die? (t / 48) = some y ∧ y.inst = some i ∧ ∃ c, i.abandon = some c ∧
           (∀ y0 i0, s.die? (t / 48) = some y0 → y0.inst = some i0 → i0.abandon = none → s.clock ≤ c ∧ c ≤ s.clock + 64)) ∧
       (((s.die? (t / 48)).bind (·.inst)).isSome = false ∨ fld (q.reg a) 0 6 ≠ s.freeFab (t / 48) →
         ∃ s', gives 2 s' ∧ onlySeq s s' t)))

/-- TINV in privileged mode: it takes the next number, every kept descriptor and extent-table run of the range is
dropped, and with no run to drain it completes at once, with sq.TINVDONE and the TINV event (R261 to R263). SAVEC in
privileged mode on a halted scratchpad element whose microprogram is idle or suspended: the stream of its bank is
stored word by word from GB, and gd takes its length in bytes; a live one traps ELEMLIVE, another kind ELEMSEL, a
misaligned address ALIGN (R380). The stream is what R380 says: for each dirty run in increasing order a header that names the
run and how many words follow for it, code words that stand for the 64 words of the run with value, FTAG and presence, and
a zero word at its end. That TINV acts in the step of the word once no sequencer's access lies in its range (log 63), and that
SAVEC traps ELEMSEL at a site of another kind (log 53), is the model's choice. -/
def Obligations.InvalidationAndBankSave : Prop :=
  (∀ (s : State) (t : Nat) (q : Seq) (a b : BitVec 5), seqThere s t q → q.priv = true →
     let lo := if q.reg b = 0 then 0 else (q.reg a).toNat / 2 ^ 16 % 2 ^ 41
     let hi := if q.reg b = 0 then 2 ^ 41 else lo + (q.reg b).toNat
     let k : Nat := (q.tinvseq + 1).toNat
     let held := s.accs.any fun w => w.op.ofSeq && tinvHits lo hi w.va
     (held = true → exec (.tinv a b) s = .next s) ∧
       (held = false → ∃ s' q', exec (.tinv a b) s = .next s' ∧ s'.seq? t = some q' ∧ q'.pc = q.pc + 4 ∧ q'.regs = q.regs ∧
       q'.tinvseq = q.tinvseq + 1 ∧
       (∀ u p, s'.seq? u = some p → ∀ c ∈ p.tc, c.meets lo hi = false) ∧
       (∀ x ∈ s'.dies, ∀ c ∈ x.hcache, c.meets lo hi = false) ∧
       (∀ x ∈ s'.loads, ∀ y, some y ∈ x.slots → ∀ r ∈ y.runs, r.meets lo hi = true → r.p = false) ∧
       (s.drainPorts lo hi = [] → q'.tinvdone = q.tinvseq + 1 ∧ q'.evpend = q.evpend ||| 8) ∧
       (s.drainPorts lo hi ≠ [] → q'.tinvdone = q.tinvdone ∧ q'.evpend = q.evpend ∧
         (k, (s.drainPorts lo hi).length) ∈ q'.tinvs ∧
         s'.accs.length = s.accs.length + (s.drainPorts lo hi).length) ∧
       s'.mem = s.mem ∧ s'.elems = s.elems ∧ s'.presence = s.presence)) ∧
  (∀ (s : State) (t : Nat) (q : Seq) (d a b : BitVec 5) (x : Site), seqThere s t q → q.priv = true →
     s.siteOf t (q.reg a &&& 0xFF) = some x →
     let e := s.siteElem x
     let ready := e.halted = true ∧ (e.spe.mp.st = 0 ∨ e.spe.mp.st = 3)
     let ws := e.spe.stream
     (kindAt x.site ≠ .spe → trapsSeq (.savec d a b) s t q Cause.elemsel) ∧
     (kindAt x.site = .spe → ¬ ready → trapsSeq (.savec d a b) s t q Cause.elemlive) ∧
     (kindAt x.site = .spe → ready → (q.reg b).toNat % 8 ≠ 0 → trapsSeq (.savec d a b) s t q Cause.align) ∧
     (kindAt x.site = .spe → ready → (q.reg b).toNat % 8 = 0 → (s.seqWrites t (q.reg b).toNat ws).2 = 0 →
       ∃ s' q', exec (.savec d a b) s = .next s' ∧ s'.seq? t = some q' ∧ q'.pc = q.pc + 4 ∧
         (∀ j, q'.reg j = if j = d ∧ d ≠ 0 then BitVec.ofNat 64 (8 * ws.length) else q.reg j) ∧
         s'.mem = (s.seqWrites t (q.reg b).toNat ws).1.mem ∧ s'.elems = s.elems ∧ s'.presence = s.presence)) ∧
  (∀ p : SpeState,
     unbank 129 p.stream = ((List.range 128).filter fun r => p.dirty.testBit r).map (fun r =>
       (r, (List.range 64).map fun i => ((p.now (64 * r + i)).val, (p.now (64 * r + i)).tag.toNat, (p.now (64 * r + i)).pres))) ∧
     p.stream.getLast? = some 0)

/-! ### Slots of every kind -/

/-- NOP, MOV, EMIT, PLOG, TAGRD and SEL: result, format tag, residue and outcome, and that nothing else changes but
what a firing changes (R122 to R128). JOIN emits an ORDER token of the scope its code names; JOINC counts the inputs
it dequeues in Dn and emits the ORDER token of its constant's scope each time the count reaches N; TRAP fires and then
stops its element with USER_TRAP and its code; PERF answers a counter as it stood, and clears it before its own
increase (R129, R130, R362, R363). -/
def Obligations.OpsOfEveryKind : Prop :=
  (∀ (s : State) (r : ElemRef) (n stall starve : Nat) (e : Elem) (f : SlotF), elemThere s r n stall starve e →
     let c : Ctx := ⟨s, e, n, f⟩
     let a := e.source f.srca.toNat
     let b := e.source f.srcb.toNat
     let arg (x : BitVec 4) : Bool := xor (e.pred (x.toNat % 8)) (x.getLsbD 3)
     let p := if f.lane = 0 then arg f.srca && arg f.srcb
              else if f.lane = 1 then arg f.srca || arg f.srcb else xor (arg f.srca) (arg f.srcb)
     let x := if e.pred f.lane.toNat then a else b
     let tags : Word := BitVec.ofNat 64 (a.ctag.toNat + 8 * a.tag.toNat)
     let goes (i : Instr) (x : Fired) : Prop := fires i s r n stall starve e f x
     goes (.nop f) (c.silent false) ∧ goes (.plog f) (c.result (if p then 1 else 0) 0 p) ∧
     (clean e f.srca →
       goes (.mov f) { c.result a.val a.tag (a.val != 0) with res := some a.res } ∧
       goes (.emit f) (c.result a.val f.srcb (a.val != 0)) ∧ goes (.tagrd f) (c.result tags 0 (tags != 0))) ∧
     (clean e f.srca → clean e f.srcb →
       goes (.sel f) { c.result x.val x.tag (x.val != 0) with res := some x.res })) ∧
  (∀ (s : State) (r : ElemRef) (n stall starve : Nat) (e : Elem) (f : SlotF), elemThere s r n stall starve e →
     let c : Ctx := ⟨s, e, n, f⟩
     let d := e.source f.srca.toNat
     let k := e.source f.srcb.toNat
     let count := d.val.toNat + (deqInputs f).length
     let full := decide (fld k.val 0 32 ≤ count)
     let left : Word := BitVec.ofNat 64 (if full then count - fld k.val 0 32 else count)
     let goes (i : Instr) (x : Fired) : Prop := fires i s r n stall starve e f x
     let v : Word := BitVec.ofNat 64 (e.perf f.srca.toNat f.srcb.toNat)
     let read := c.result v 0 (v != 0)
     goes (.join f) { c.result (BitVec.zeroExtend 64 f.srca) 0 (f.srca != 0) with dst := .token Ctag.order } ∧
     (clean e f.srca → clean e f.srcb →
       goes (.joinc f) { c.result (BitVec.ofNat 64 (fld k.val 60 4)) 0 full with
                         dst := if full then .token Ctag.order else .none
                         also := some (f.srca.toNat - 4, left) }) ∧
     firesThen (.trap f) s r n stall starve e f (c.silent false) (fun s1 => s1.trapElem r
       ⟨Cause.userTrap, eDetail e.ref.site n (f.srca.toNat + 16 * f.srcb.toNat), none⟩) ∧
     goes (.perf f) (if f.lane = 1 then { read with e := e.perfClear f.srca.toNat f.srcb.toNat } else read))

/-- A source of a class that does not accept its tag: the slot does not fire, none of its effects takes place, and the
element traps FMT_MISMATCH with site, slot, source code and tag (R132, R430); the forms of scratchpad and memory elements
accept the classes that their tables give (R199, R274). A source whose residue is not that of
its value: the slot does not fire, and the element traps RESIDUE; so does one whose result fails the comparison that
checks it (R133, R134). A trap of an element: it halts with the trap,
its tile's sequencer has it pending, and nothing else changes; an element that already holds one keeps it (R429). Where
more than one check fails, which source and which check comes first is the model's choice (log 17). -/
def Obligations.FiringTraps : Prop :=
  (∀ (s : State) (r : ElemRef) (n stall starve : Nat) (e : Elem) (f : SlotF), elemThere s r n stall starve e →
     clean e f.srca →
     let a := e.source f.srca.toNat
     let t : ETrap := ⟨Cause.fmtMismatch, eDetail e.ref.site n (f.srca.toNat * 2 ^ 8 + a.tag.toNat), none⟩
     (Cls.int.accepts a.tag = false →
       trapsWith (.abs f) s r t ∧ trapsWith (.neg f) s r t ∧ trapsWith (.clz f) s r t ∧ trapsWith (.popc f) s r t ∧
       trapsWith (.satn f) s r t ∧ trapsWith (.unpkl f) s r t ∧ trapsWith (.extr f) s r t ∧
       -- addresses and integers of SPE, MXE and MPE forms with one checked source
       (∀ i ∈ [Instr.srd f, .prd f, .pclr f, .cbset f, .xrd f, .xrdP f, .tcfg f, .tscale f, .ld f, .ldf f, .stClr f,
         .stoClr f, .pld f, .wld f, .agcfg f, .tken f, .tkdec f, .tkdecRet f, .tkst f, .tkstClr f, .tkstAbn f, .acntH f,
         .drclose f, .drcloseW f, .rld f], trapsWith i s r t) ∧
       -- the same with a second source
       (clean e f.srcb → ∀ i ∈ [Instr.swr f, .sadd f, .smax f, .smin f, .sxch f, .pwr f, .mpgo f, .xwr f, .xwrP f, .st f,
         .sto f, .gld f, .aadd f, .amin f, .amax f, .aand f, .aor f, .axch f, .acas f, .afadd f, .ald f, .ast f, .aaddc f,
         .aiter f, .acnt f, .cpy f, .cve f, .densQ f, .densS f, .dred f, .drrecvR f, .drrecvW f, .rst f, .rstAck f],
         trapsWith i s r t) ∧
       (clean e f.srcb → trapsWith (.add f) s r t ∧ trapsWith (.mul f) s r t ∧ trapsWith (.cmplt f) s r t ∧
         trapsWith (.and f) s r t ∧ trapsWith (.shl f) s r t ∧ trapsWith (.dot4 f) s r t ∧ trapsWith (.pack f) s r t)) ∧
     (Cls.coord.accepts a.tag = false → clean e f.srcb → trapsWith (.sst f) s r t) ∧
     ((fpCls f.lane).accepts a.tag = false →
       trapsWith (.fabs f) s r t ∧ trapsWith (.fneg f) s r t ∧ trapsWith (.frcp f) s r t ∧
       (clean e f.srcb → trapsWith (.fadd f) s r t ∧ trapsWith (.fmul f) s r t ∧ trapsWith (.fmin f) s r t ∧
         trapsWith (.fcmplt f) s r t))) ∧
  -- SRCA is good, and the class of SRCB does not accept its tag
  (∀ (s : State) (r : ElemRef) (n stall starve : Nat) (e : Elem) (f : SlotF), elemThere s r n stall starve e →
     good e f.srca .int → clean e f.srcb →
     let b := e.source f.srcb.toNat
     let t : ETrap := ⟨Cause.fmtMismatch, eDetail e.ref.site n (f.srcb.toNat * 2 ^ 8 + b.tag.toNat), none⟩
     (Cls.int.accepts b.tag = false → ∀ i ∈ [Instr.add f, .mul f, .and f, .shl f, .sadd f, .smax f, .smin f, .aadd f,
       .amin f, .amax f, .aand f, .aor f, .acas f, .ald f, .aiter f, .acnt f, .cpy f, .cve f, .densQ f, .densS f, .dred f,
       .drrecvR f, .drrecvW f], trapsWith i s r t) ∧
     (Cls.coord.accepts b.tag = false → trapsWith (.ast f) s r t ∧ trapsWith (.aaddc f) s r t) ∧
     ((Cls.fp 4).accepts b.tag = false → trapsWith (.afadd f) s r t)) ∧
  (∀ (s : State) (r : ElemRef) (n stall starve : Nat) (e : Elem) (f : SlotF), elemThere s r n stall starve e →
     ¬ clean e f.srca →
     let t : ETrap := ⟨Cause.residue, eDetail e.ref.site n 0, some f.srca.toNat⟩
     trapsWith (.mov f) s r t ∧ trapsWith (.emit f) s r t ∧ trapsWith (.sel f) s r t ∧ trapsWith (.add f) s r t ∧
     trapsWith (.mul f) s r t ∧ trapsWith (.min f) s r t ∧ trapsWith (.neg f) s r t ∧ trapsWith (.pack f) s r t ∧
     trapsWith (.fadd f) s r t ∧ trapsWith (.fma f) s r t ∧ trapsWith (.cvt f) s r t ∧ trapsWith (.srd f) s r t ∧
     trapsWith (.swr f) s r t ∧ trapsWith (.ld f) s r t ∧ trapsWith (.st f) s r t ∧ trapsWith (.aadd f) s r t) ∧
  (∀ (s : State) (r : ElemRef) (n stall starve : Nat) (e : Elem) (f : SlotF), s.actor = .slot r n stall starve →
     s.elem? r = some e → e.upset = true → e.kind = .ce →
     let upsets (i : Instr) : Prop := exec i s = .next ((s.modElem r fun e => { e with upset := false }).trapElem r
       ⟨Cause.residue, eDetail r.site n 0, some replyOperand⟩)
     upsets (.plog f) ∧
     (good e f.srca .int → good e f.srcb .int →
       upsets (.add f) ∧ upsets (.sub f) ∧ upsets (.mul f) ∧ upsets (.and f) ∧ upsets (.cmplt f) ∧ upsets (.shl f)) ∧
     (good e f.srca (fpCls f.lane) → good e f.srcb (fpCls f.lane) → upsets (.fadd f) ∧ upsets (.fmul f))) ∧
  (∀ (s : State) (r : ElemRef) (e : Elem) (t : ETrap), s.elem? r = some e →
     let s' := s.trapElem r t
     (e.trap.isSome = true → s' = s) ∧
     (e.trap = none → s'.elem? r = some { e with trap := some t } ∧ (∀ r', r' ≠ r → s'.elem? r' = s.elem? r') ∧
       s' = { s with elems := s'.elems, seqs := s'.seqs } ∧
       (∀ u, u ≠ pkgTile r.die e.ptile → s'.seq? u = s.seq? u) ∧
       ∀ q, s.seq? (pkgTile r.die e.ptile) = some q → ∃ q', s'.seq? (pkgTile r.die e.ptile) = some q' ∧
         q' = { q with pend := q'.pend } ∧ q'.pend.length = q.pend.length + 1 ∧
         (⟨.elem r, t.cause, BitVec.ofNat 64 t.detail, s.clock, r.site⟩ : PTrap) ∈ q'.pend ∧ ∀ p ∈ q.pend, p ∈ q'.pend))

/-! ### Compute elements: integer lanes -/

/-- The instructions of two sources that work lane by lane (R137): lane k of the result from lanes k of the sources.
The bitwise instructions: the result as one word (R137). -/
def Obligations.IntegerAndBitwiseLanes : Prop :=
  (∀ (s : State) (r : ElemRef) (n stall starve : Nat) (e : Elem) (f : SlotF), elemThere s r n stall starve e →
     good e f.srca .int → good e f.srcb .int →
     let w := laneW f.lane
     let a (k : Nat) : Nat := laneN w k (e.source f.srca.toNat).val
     let b (k : Nat) : Nat := laneN w k (e.source f.srcb.toNat).val
     let sa (k : Nat) : Int := sgn w (a k)
     let sb (k : Nat) : Int := sgn w (b k)
     let low (x : Int) : Nat := (x % 2 ^ w).toNat
     let sat (x : Int) : Nat := low (max (-2 ^ (w - 1)) (min (2 ^ (w - 1) - 1) x))
     let goes (i : Instr) (lane : Nat → Nat) : Prop :=
       firesLanes i s r n stall starve e f w (BitVec.zeroExtend 4 f.lane) (fun v => v != 0) lane
     goes (.add f) (fun k => (a k + b k) % 2 ^ w) ∧ goes (.sub f) (fun k => (a k + 2 ^ w - b k) % 2 ^ w) ∧
     goes (.adds f) (fun k => sat (sa k + sb k)) ∧ goes (.subs f) (fun k => sat (sa k - sb k)) ∧
     goes (.mul f) (fun k => a k * b k % 2 ^ w) ∧ goes (.mulh f) (fun k => low (sa k * sb k / 2 ^ w)) ∧
     goes (.mulhu f) (fun k => a k * b k / 2 ^ w) ∧
     goes (.min f) (fun k => low (min (sa k) (sb k))) ∧ goes (.minu f) (fun k => min (a k) (b k)) ∧
     goes (.max f) (fun k => low (max (sa k) (sb k))) ∧ goes (.maxu f) (fun k => max (a k) (b k)) ∧
     goes (.shl f) (fun k => a k * 2 ^ (b k % w) % 2 ^ w) ∧ goes (.shr f) (fun k => a k / 2 ^ (b k % w)) ∧
     goes (.sar f) (fun k => low (sa k / 2 ^ (b k % w))) ∧
     goes (.rotl f) (fun k => (a k * 2 ^ (b k % w) + a k / 2 ^ (w - b k % w)) % 2 ^ w) ∧
     goes (.rshr f) (fun k => if b k % w = 0 then a k else low ((sa k + 2 ^ (b k % w - 1)) / 2 ^ (b k % w))) ∧
     goes (.ppopc f) (fun k => popN (b k % w) (a k))) ∧
  (∀ (s : State) (r : ElemRef) (n stall starve : Nat) (e : Elem) (f : SlotF), elemThere s r n stall starve e →
     good e f.srca .int → good e f.srcb .int →
     let a := (e.source f.srca.toNat).val
     let b := (e.source f.srcb.toNat).val
     let goes (i : Instr) (v : Word) : Prop :=
       fires i s r n stall starve e f (Ctx.result ⟨s, e, n, f⟩ v (BitVec.zeroExtend 4 f.lane) (v != 0))
     goes (.and f) (a &&& b) ∧ goes (.or f) (a ||| b) ∧ goes (.xor f) (a ^^^ b) ∧ goes (.andn f) (a &&& ~~~b))

/-- The comparisons: a lane of all ones or zero, and the truth of lane 0 as the outcome (R137, R46). The instructions
of one source that work lane by lane (R137, R138). -/
def Obligations.ComparisonsAndUnaryLanes : Prop :=
  (∀ (s : State) (r : ElemRef) (n stall starve : Nat) (e : Elem) (f : SlotF), elemThere s r n stall starve e →
     good e f.srca .int → good e f.srcb .int →
     let w := laneW f.lane
     let a (k : Nat) : Nat := laneN w k (e.source f.srca.toNat).val
     let b (k : Nat) : Nat := laneN w k (e.source f.srcb.toNat).val
     let goes (i : Instr) (t : Nat → Bool) : Prop :=
       firesLanes i s r n stall starve e f w (BitVec.zeroExtend 4 f.lane) (fun _ => t 0)
         (fun k => if t k then 2 ^ w - 1 else 0)
     goes (.cmpeq f) (fun k => decide (a k = b k)) ∧ goes (.cmplt f) (fun k => decide (sgn w (a k) < sgn w (b k))) ∧
     goes (.cmpltu f) (fun k => decide (a k < b k)) ∧ goes (.cmple f) (fun k => decide (sgn w (a k) ≤ sgn w (b k)))) ∧
  (∀ (s : State) (r : ElemRef) (n stall starve : Nat) (e : Elem) (f : SlotF), elemThere s r n stall starve e →
     good e f.srca .int →
     let w := laneW f.lane
     let a (k : Nat) : Nat := laneN w k (e.source f.srca.toNat).val
     let low (x : Int) : Nat := (x % 2 ^ w).toNat
     let m := f.srcb.toNat
     let goes (i : Instr) (lane : Nat → Nat) : Prop :=
       firesLanes i s r n stall starve e f w (BitVec.zeroExtend 4 f.lane) (fun v => v != 0) lane
     goes (.abs f) (fun k => if a k < 2 ^ (w - 1) then a k else 2 ^ w - a k) ∧
     goes (.neg f) (fun k => (2 ^ w - a k) % 2 ^ w) ∧
     (m + 1 < w → goes (.satn f) (fun k => low (max (-2 ^ m) (min (2 ^ m - 1) (sgn w (a k)))))) ∧
     goes (.clz f) (fun k => if a k = 0 then w else w - 1 - Nat.log2 (a k)) ∧ goes (.popc f) (fun k => popN w (a k)))

/-- MAC: Dn[k] := s(Dn[k]) + s(a[k]) × s(b[k]), low w bits kept, Dn as it stood at the start of the clock (R139).
DOT4: two 32-bit lanes, each an exact sum of four products of 8-bit lanes, signed or unsigned by LANE (R140). -/
def Obligations.AccumulatesAndDots : Prop :=
  (∀ (s : State) (r : ElemRef) (n stall starve : Nat) (e : Elem) (f : SlotF), elemThere s r n stall starve e →
     good e f.srca .int → good e f.srcb .int → good e f.dst .int →
     let w := laneW f.lane
     let of (x : BitVec 4) (k : Nat) : Nat := laneN w k (e.source x.toNat).val
     firesLanes (.mac f) s r n stall starve e f w (BitVec.zeroExtend 4 f.lane) (fun v => v != 0)
       (fun k => (of f.dst k + of f.srca k * of f.srcb k) % 2 ^ w)) ∧
  (∀ (s : State) (r : ElemRef) (n stall starve : Nat) (e : Elem) (f : SlotF), elemThere s r n stall starve e →
     good e f.srca .int → good e f.srcb .int → f.lane ≠ 3 →
     let a (k : Nat) : Nat := laneN 8 k (e.source f.srca.toNat).val
     let b (k : Nat) : Nat := laneN 8 k (e.source f.srcb.toNat).val
     let x (k : Nat) : Int := if f.lane = 0 then sgn 8 (a k) else a k
     let y (k : Nat) : Int := if f.lane = 2 then b k else sgn 8 (b k)
     let p (k : Nat) : Int := x k * y k
     firesLanes (.dot4 f) s r n stall starve e f 32 1 (fun v => v != 0)
       (fun j => ((p (4 * j) + p (4 * j + 1) + p (4 * j + 2) + p (4 * j + 3)) % 2 ^ 32).toNat))

/-- PACK, UNPKL and UNPKH: which lane goes where, how it is narrowed or widened, and the format tag (R141, R136).
BCAST, LANESUM, INS and EXTR (R143). -/
def Obligations.PacksAndLaneMoves : Prop :=
  (∀ (s : State) (r : ElemRef) (n stall starve : Nat) (e : Elem) (f : SlotF), elemThere s r n stall starve e →
     good e f.srca .int →
     let w := if f.lane = 0 then 4 else laneW f.lane
     let m := 64 / (2 * w)
     let a := (e.source f.srca.toNat).val
     let b := (e.source f.srcb.toNat).val
     let wide (x : Nat) : Nat := if f.srcb = 0 ∧ 2 ^ (w - 1) ≤ x then x + 2 ^ (2 * w) - 2 ^ w else x
     let tag : BitVec 4 := if f.lane = 0 then 3 else BitVec.zeroExtend 4 f.lane - 1
     firesLanes (.unpkl f) s r n stall starve e f (2 * w) tag (fun v => v != 0) (fun k => wide (laneN w k a)) ∧
     firesLanes (.unpkh f) s r n stall starve e f (2 * w) tag (fun v => v != 0) (fun k => wide (laneN w (m + k) a)) ∧
     (good e f.srcb .int →
       firesLanes (.pack f) s r n stall starve e f w (if f.lane = 0 then 10 else BitVec.zeroExtend 4 f.lane)
         (fun v => v != 0)
         (fun k => if k < m then laneN (2 * w) k a % 2 ^ w else laneN (2 * w) (k - m) b % 2 ^ w))) ∧
  (∀ (s : State) (r : ElemRef) (n stall starve : Nat) (e : Elem) (f : SlotF), elemThere s r n stall starve e →
     let w := laneW f.lane
     let a := e.source f.srca.toNat
     let k := f.srcb.toNat
     let one (i : Instr) (v : Word) : Prop :=
       fires i s r n stall starve e f (Ctx.result ⟨s, e, n, f⟩ v 0 (v != 0))
     (good e f.srca .any → firesLanes (.bcast f) s r n stall starve e f w a.tag (fun v => v != 0) (fun _ => laneN w k a.val)) ∧
     (good e f.srca .int →
       one (.lanesum f) (BitVec.ofInt 64 (((List.range (64 / w)).map fun j => sgn w (laneN w j a.val)).sum)) ∧
       one (.extr f) (BitVec.ofNat 64 (laneN w k a.val)) ∧
       (good e f.dst .int → k < 64 / w →
         firesLanes (.ins f) s r n stall starve e f w (BitVec.zeroExtend 4 f.lane) (fun v => v != 0)
           (fun j => if j = k then laneN w 0 a.val else laneN w j (e.source f.dst.toNat).val))))

/-- SHUF: each byte of the result is 0 or the byte of SRCA that its control nibble names; the result keeps the tag of
SRCA (R142). -/
def Obligations.Shuffle : Prop :=
  ∀ (s : State) (r : ElemRef) (n stall starve : Nat) (e : Elem) (f : SlotF), elemThere s r n stall starve e →
    good e f.srca .any → good e f.srcb .int →
    let a := e.source f.srca.toNat
    let c (k : Nat) : Nat := laneN 4 k (e.source f.srcb.toNat).val
    firesLanes (.shuf f) s r n stall starve e f 8 a.tag (fun v => v != 0)
      (fun k => if 8 ≤ c k then 0 else laneN 8 (c k) a.val)

/-! ### Compute elements: floating lanes, conversions, blocks -/

/-- FADD, FSUB, FMUL and FMA: each lane the exact sum, difference, product, or product plus Dn, rounded once under the
element's mode (R144, R145). The NaN cases of FADD, FSUB and FMUL: a lane with a NaN operand, ∞ − ∞ in the sum and 0 ×
∞ in the product give the canonical NaN (R145, R81). -/
def Obligations.FloatResults : Prop :=
  (∀ (s : State) (r : ElemRef) (n stall starve : Nat) (e : Elem) (f : SlotF), elemThere s r n stall starve e →
     good e f.srca (fpCls f.lane) → good e f.srcb (fpCls f.lane) →
     let F := laneFmt f.lane
     let w := F.width
     let x (c : BitVec 4) (k : Nat) : FVal := F.dec (laneN w k (e.source c.toNat).val)
     let goes (i : Instr) (v : Nat → FVal) : Prop :=
       firesFloat i s r n stall starve e f w (4 + BitVec.zeroExtend 4 f.lane) (fun v => v != 0) (e.rmode == .sr) false
         (fun k => roundF F e.rmode false (e.rnd k) (v k) % 2 ^ w)
     goes (.fadd f) (fun k => FVal.add e.rmode (x f.srca k) (x f.srcb k)) ∧
     goes (.fsub f) (fun k => FVal.add e.rmode (x f.srca k) (x f.srcb k).neg) ∧
     goes (.fmul f) (fun k => FVal.mul (x f.srca k) (x f.srcb k)) ∧
     (good e f.dst (fpCls f.lane) →
       goes (.fma f) (fun k => FVal.add e.rmode (FVal.mul (x f.srca k) (x f.srcb k)) (x f.dst k)))) ∧
  (∀ (s : State) (r : ElemRef) (n stall starve : Nat) (e : Elem) (f : SlotF), elemThere s r n stall starve e →
     good e f.srca (fpCls f.lane) → good e f.srcb (fpCls f.lane) →
     let F := laneFmt f.lane
     let w := F.width
     let nan : Nat := if f.lane = 0 then 0x7FC00000 else if f.lane = 1 then 0x7FC0 else 0x7E00
     let x (c : BitVec 4) (k : Nat) : FVal := F.dec (laneN w k (e.source c.toNat).val)
     let gives (i : Instr) (c : FVal → FVal → Prop) : Prop :=
       ∃ (v : Word) (s' : State) (e' : Elem), exec i s = .next s' ∧ s'.elem? r = some e' ∧
         firedAs s n stall starve e f
           { Ctx.result ⟨s, e, n, f⟩ v (4 + BitVec.zeroExtend 4 f.lane) (v != 0) with rounds := e.rmode == .sr } e' ∧
         ∀ k, k < 64 / w → c (x f.srca k) (x f.srcb k) → laneN w k v = nan
     gives (.fadd f) (fun a b => a = .nan ∨ b = .nan ∨ ∃ g, a = .inf g ∧ b = .inf (!g)) ∧
     gives (.fsub f) (fun a b => a = .nan ∨ b = .nan ∨ ∃ g, a = .inf g ∧ b = .inf g) ∧
     gives (.fmul f) (fun a b => a = .nan ∨ b = .nan ∨
       (∃ g h q, a = .inf g ∧ b = .fin h 0 q) ∨ ∃ g h q, a = .fin h 0 q ∧ b = .inf g))

/-- FMIN and FMAX pick a lane bit for bit, with −0 below +0 and NaN giving way; FCMPLT and FCMPEQ give masks and the
truth of lane 0; FABS and FNEG act on the sign bit, and a NaN lane gives the canonical NaN (R146, R147). -/
def Obligations.FloatSelections : Prop :=
  ∀ (s : State) (r : ElemRef) (n stall starve : Nat) (e : Elem) (f : SlotF), elemThere s r n stall starve e →
    good e f.srca (fpCls f.lane) →
    let F := laneFmt f.lane
    let w := F.width
    let tag : BitVec 4 := 4 + BitVec.zeroExtend 4 f.lane
    let a (k : Nat) : Nat := laneN w k (e.source f.srca.toNat).val
    let b (k : Nat) : Nat := laneN w k (e.source f.srcb.toNat).val
    let x (k : Nat) : FVal := F.dec (a k)
    let y (k : Nat) : FVal := F.dec (b k)
    let one (i : Instr) (lane : Nat → Nat) : Prop :=
      firesLanes i s r n stall starve e f w tag (fun v => v != 0) lane
    let test (i : Instr) (t : Nat → Bool) : Prop :=
      firesLanes i s r n stall starve e f w (if f.lane = 0 then 1 else 2) (fun _ => t 0)
        (fun k => if t k then 2 ^ w - 1 else 0)
    let pick (least : Bool) (k : Nat) : Nat :=
      if (x k).isNaN && (y k).isNaN then F.nanBits else if (x k).isNaN then b k else if (y k).isNaN then a k
      else if FVal.ltz (y k) (x k) = least then b k else a k
    one (.fabs f) (fun k => if (x k).isNaN then F.nanBits else a k % 2 ^ (w - 1)) ∧
    one (.fneg f) (fun k => if (x k).isNaN then F.nanBits else (a k + 2 ^ (w - 1)) % 2 ^ w) ∧
    (good e f.srcb (fpCls f.lane) →
      one (.fmin f) (pick true) ∧ one (.fmax f) (pick false) ∧
      test (.fcmplt f) (fun k => FVal.lt (x k) (y k)) ∧ test (.fcmpeq f) (fun k => FVal.feq (x k) (y k)))

/-- FRCP, FRSQ, FEXP2 and FLOG2: each lane the function rounded with RNE, whatever the element's mode, and the clock
is marked for the readiness rule (R148, R135). The special operands of the four functions in F32 and BF16: NaN, −∞, finite
below 0, −0, +0 and +∞, and the exact cases. The results of FRCP and FRSQ on finite operands, by exact comparison: no code
beside the result lies nearer to the true value, and a tie goes to the even one (R148). -/
def Obligations.TranscendentalsAndSpecials : Prop :=
  (∀ (s : State) (r : ElemRef) (n stall starve : Nat) (e : Elem) (f : SlotF), elemThere s r n stall starve e →
     good e f.srca (fpCls f.lane) →
     let F := laneFmt f.lane
     let w := F.width
     let goes (i : Instr) (g : FFmt → FVal → Nat) : Prop :=
       firesFloat i s r n stall starve e f w (4 + BitVec.zeroExtend 4 f.lane) (fun v => v != 0) false true
         (fun k => g F (F.dec (laneN w k (e.source f.srca.toNat).val)) % 2 ^ w)
     goes (.frcp f) frcp ∧ goes (.frsq f) frsq ∧ goes (.fexp2 f) fexp2 ∧ goes (.flog2 f) flog2F) ∧
  ((∀ g ∈ [frcp, frsq, fexp2, flog2F], g fF32 .nan = 0x7FC00000) ∧
   frcp fF32 (.inf true) = 0x80000000 ∧ frsq fF32 (.inf true) = 0x7FC00000 ∧ fexp2 fF32 (.inf true) = 0 ∧
   flog2F fF32 (.inf true) = 0x7FC00000 ∧
   (∀ m q, 0 < m → frsq fF32 (.fin true m q) = 0x7FC00000 ∧ flog2F fF32 (.fin true m q) = 0x7FC00000) ∧
   (∀ q, frcp fF32 (.fin true 0 q) = 0xFF800000 ∧ frsq fF32 (.fin true 0 q) = 0xFF800000 ∧
     fexp2 fF32 (.fin true 0 q) = 0x3F800000 ∧ flog2F fF32 (.fin true 0 q) = 0xFF800000) ∧
   (∀ q, frcp fF32 (.fin false 0 q) = 0x7F800000 ∧ frsq fF32 (.fin false 0 q) = 0x7F800000 ∧
     fexp2 fF32 (.fin false 0 q) = 0x3F800000 ∧ flog2F fF32 (.fin false 0 q) = 0xFF800000) ∧
   frcp fF32 (.inf false) = 0 ∧ frsq fF32 (.inf false) = 0 ∧ fexp2 fF32 (.inf false) = 0x7F800000 ∧
   flog2F fF32 (.inf false) = 0x7F800000 ∧
   flog2F fF32 (fF32.dec 0x3F800000) = 0 ∧ flog2F fF32 (fF32.dec 0x41000000) = 0x40400000 ∧
   fexp2 fF32 (fF32.dec 0x40400000) = 0x41000000 ∧ frcp fF32 (fF32.dec 1) = 0x7F800000) ∧
  -- the special operands in BF16
  ((∀ g ∈ [frcp, frsq, fexp2, flog2F], g fBF16 .nan = 0x7FC0) ∧
   frcp fBF16 (.inf true) = 0x8000 ∧ frsq fBF16 (.inf true) = 0x7FC0 ∧ fexp2 fBF16 (.inf true) = 0 ∧
   flog2F fBF16 (.inf true) = 0x7FC0 ∧
   (∀ m q, 0 < m → frsq fBF16 (.fin true m q) = 0x7FC0 ∧ flog2F fBF16 (.fin true m q) = 0x7FC0) ∧
   (∀ q, frcp fBF16 (.fin true 0 q) = 0xFF80 ∧ frsq fBF16 (.fin true 0 q) = 0xFF80 ∧
     fexp2 fBF16 (.fin true 0 q) = 0x3F80 ∧ flog2F fBF16 (.fin true 0 q) = 0xFF80) ∧
   (∀ q, frcp fBF16 (.fin false 0 q) = 0x7F80 ∧ frsq fBF16 (.fin false 0 q) = 0x7F80 ∧
     fexp2 fBF16 (.fin false 0 q) = 0x3F80 ∧ flog2F fBF16 (.fin false 0 q) = 0xFF80) ∧
   frcp fBF16 (.inf false) = 0 ∧ frsq fBF16 (.inf false) = 0 ∧ fexp2 fBF16 (.inf false) = 0x7F80 ∧
   flog2F fBF16 (.inf false) = 0x7F80 ∧ flog2F fBF16 (fBF16.dec 0x3F80) = 0 ∧ flog2F fBF16 (fBF16.dec 0x4100) = 0x4040 ∧
   fexp2 fBF16 (fBF16.dec 0x4040) = 0x4100 ∧ frcp fBF16 (fBF16.dec 1) = 0x7F80) ∧
  -- 1/x and 1/√x of every positive finite x = m × 2^q: the result is no farther from the true value than its neighbours are
  (∀ F ∈ [fF32, fBF16], ∀ (a m : Nat) (q : Int), a < F.infBits → F.dec a = .fin false m q → 0 < m →
     -- the magnitude of a code in units of the least positive value, 2^qmin
     let mag (c : Nat) : Nat :=
       if c / 2 ^ F.fb = 0 then c else (2 ^ F.fb + c % 2 ^ F.fb) * 2 ^ (c / 2 ^ F.fb - 1)
     let near (r : Nat) : Nat := mag r + mag (r + 1)
     let x := frcp F (.fin false m q)
     let two : Nat := 2 ^ (1 - F.qmin - q).toNat
     let y := frsq F (.fin false m q)
     let four : Nat := 2 ^ (2 - 2 * F.qmin - q).toNat
     x ≤ F.infBits ∧ (x < F.infBits → two ≤ near x * m ∧ (two = near x * m → x % 2 = 0)) ∧
     (0 < x → near (x - 1) * m ≤ two ∧ (two = near (x - 1) * m → x % 2 = 0)) ∧
     frcp F (.fin true m q) = F.signBit + x ∧
     y < F.infBits ∧ four ≤ near y ^ 2 * m ∧ (0 < y → near (y - 1) ^ 2 * m ≤ four))

/-- CVT and CVTS: which lanes are converted and where they land, for fewer, as many and more destination lanes; a part
number beyond the source traps FMT_MISMATCH (R149). -/
def Obligations.Conversions : Prop :=
  ∀ (s : State) (r : ElemRef) (n stall starve : Nat) (e : Elem) (f : SlotF), elemThere s r n stall starve e →
    good e f.srca .cvt →
    let a := e.source f.srca.toNat
    let t := a.tag.toNat
    let u := f.srcb.toNat
    let ws := tagWidth t
    let wd := tagWidth u
    let ns := 64 / ws
    let nd := 64 / wd
    let g := f.lane.toNat
    let way (i : Instr) (sat : Bool) : Prop :=
      let conv (v k : Nat) : Nat := convLane t u e.rmode sat (e.rnd v) (laneN ws k a.val) % 2 ^ wd
      let goes (lane : Nat → Nat) : Prop :=
        firesFloat i s r n stall starve e f wd f.srcb (fun v => v != 0) ((e.rmode == .sr) && !convExact t u) false lane
      let bad : Prop := trapsWith i s r ⟨Cause.fmtMismatch, eDetail e.ref.site n (f.srca.toNat * 2 ^ 8 + t), none⟩
      (nd < ns → g * nd < ns → goes (fun k => conv k (g * nd + k))) ∧ (nd < ns → ns ≤ g * nd → bad) ∧
      (ns ≤ nd → g ≠ 0 → bad) ∧ (ns = nd → g = 0 → goes (fun k => conv k k)) ∧
      (ns < nd → g = 0 → 4 ≤ f.dst.toNat → f.dst.toNat ≤ 11 → good e f.dst .cvt →
        goes (fun k => if k < nd - ns then laneN wd (k + ns) (e.source f.dst.toNat).val else conv k (k - (nd - ns)))) ∧
      (ns < nd → g = 0 → ¬(4 ≤ f.dst.toNat ∧ f.dst.toNat ≤ 11) → goes (fun k => if k < ns then conv k k else 0))
    way (.cvt f) false ∧ way (.cvts f) true

/-- BXENC: with BX4 the block is the result; with BX6 and BX9 it joins the pack buffer, and the outcome says whether a
whole word stands there; over an open group of the other format it traps. That a block behind a full group of its format
opens the next group is the model's choice (log 64), and so is the INFO of that trap, which names no source (log 80). The
flush form emits the oldest word. BXDEC gives the elements of a BX4 block, each rounded
once (R150 to R152). -/
def Obligations.BlockCoding : Prop :=
  ∀ (s : State) (r : ElemRef) (n stall starve : Nat) (e : Elem) (f : SlotF), elemThere s r n stall starve e →
    let c : Ctx := ⟨s, e, n, f⟩
    let goes (i : Instr) (x : Fired) : Prop := fires i s r n stall starve e f x
    let t := 4 + f.lane.toNat
    let w := tagWidth t
    let m := f.srca.toNat
    let u := 11 + f.srcb.toNat % 4
    let p := e.ce.pack
    let xs := (List.range 16).map fun i => tagDec t (laneN w (i % (64 / w)) (e.dreg (m + i / (64 / w))).val)
    let b := p.enc % bxGroupBlocks u
    let blk := bxEncode u e.rmode (fun i => e.rnd (16 * (if u = 11 then 0 else b) + i)) xs
    let p' : Pack := ⟨p.bits + blk * 2 ^ p.held, p.held + bxBits u, u, p.enc + 1, p.sent⟩
    let withPack (x : Fired) (q : Pack) : Fired := { x with e := { e with ce := { e.ce with pack := q } } }
    let F := laneFmt f.lane
    ((∀ i, i < 16 / (64 / w) → goodAt e (4 + m + i) (.fp t)) →
      (u = 11 → goes (.bxenc f) { c.result (BitVec.ofNat 64 blk) 11 (BitVec.ofNat 64 blk != 0) with
        rounds := e.rmode == .sr }) ∧
      (u ≠ 11 → p.fmt = 0 ∨ (p.fmt = u ∧ p.enc < bxGroupBlocks u) →
        goes (.bxenc f) { withPack (c.silent (decide (64 ≤ p'.held))) p' with rounds := e.rmode == .sr }) ∧
      -- behind a group that is full
      (u ≠ 11 → p.fmt = u → bxGroupBlocks u ≤ p.enc →
        goes (.bxenc f) { withPack (c.silent (decide (64 ≤ p'.held))) p' with rounds := e.rmode == .sr }) ∧
      (u ≠ 11 → p.fmt ≠ 0 → p.fmt ≠ u →
        trapsWith (.bxenc f) s r ⟨Cause.fmtMismatch, eDetail e.ref.site n 0, none⟩)) ∧
    goes (.bxencFlush f) (withPack
      (c.result (BitVec.ofNat 64 p.bits) (BitVec.ofNat 4 p.fmt) (BitVec.ofNat 64 p.bits != 0)) p.flush) ∧
    (good e f.srca .bxd →
      firesFloat (.bxdec f) s r n stall starve e f F.width (4 + BitVec.zeroExtend 4 f.lane) (fun v => v != 0)
        ((e.rmode == .sr) && f.lane != 0) false
        (fun k =>
          let blk := (e.source f.srca.toNat).val.toNat
          roundF F e.rmode false (e.rnd k) (bxElem 11 blk (bxE 11 blk) (64 / F.width * f.srcb.toNat + k)) % 2 ^ F.width))

/-! ### Compute elements: streams -/

/-- FOPEN, FADV, FEND, FCLOSE and FPOS: what they answer and how they change a fibre register (R163, R165). CPAIR,
CSPLIT, BMEXP and BMAND: coordinate pairs made, taken apart, and read from bitmap words (R166, R167). A token that OTAG
makes an END carries payload and format tag 0 (R155). -/
def Obligations.FibresAndCoordinates : Prop :=
  (∀ (s : State) (r : ElemRef) (n stall starve : Nat) (e : Elem) (f : SlotF), elemThere s r n stall starve e →
     let c : Ctx := ⟨s, e, n, f⟩
     let goes (i : Instr) (x : Fired) : Prop := fires i s r n stall starve e f x
     let a := e.source f.srca.toNat
     let k := f.srcb.toNat
     let x := e.fibre k
     let inc (v : Nat) : Nat := (v + 1) % 2 ^ 32
     let closed : Fib :=
       if a.ctag = 1 then { x with fib0 := inc x.fib0, pos := 0, bit := 0 }
       else if a.ctag = 2 then { x with fib0 := 0, fib1 := inc x.fib1, pos := 0, bit := 0 }
       else if a.ctag = 3 then { x with fib0 := 0, fib1 := 0, fib2 := inc x.fib2, pos := 0, bit := 0 }
       else { x with fib0 := 0, fib1 := 0, fib2 := 0, fib3 := inc x.fib3, pos := 0, bit := 0 }
     let num (v : Nat) : Fired := c.result (BitVec.ofNat 64 v) 0 (BitVec.ofNat 64 v != 0)
     let isEnd : Prop := 1 ≤ a.ctag.toNat ∧ a.ctag.toNat ≤ 4
     -- a token that leaves as an END carries neither a value nor a tag (R155)
     let bare (y : Fired) : Fired :=
       if f.otag = 1 ∧ 1 ≤ a.ctag.toNat ∧ a.ctag.toNat ≤ 4 ∧ ¬(4 ≤ f.dst.toNat ∧ f.dst.toNat ≤ 11) then
         { y with result := 0, tag := 0, res := none }
       else y
     goes (.fopen f) { c.silent false with e := e.setFibre k ⟨0, 0, 0, 0, 0, 0⟩ } ∧
     (f.srca.toNat ≤ 4 → goes (.fpos f) (num (match f.srca.toNat with
       | 0 => x.pos | 1 => x.fib0 | 2 => x.fib1 | 3 => x.fib2 | _ => x.fib3))) ∧
     (clean e f.srca →
       (a.ctag ≠ Ctag.fault → goes (.fadv f) { c.result a.val a.tag (a.val != 0) with
         res := some a.res, e := e.setFibre k { x with pos := inc x.pos } }) ∧
       (a.ctag = Ctag.fault → goes (.fadv f) { c.result a.val a.tag false with res := some a.res } ∧
         goes (.fclose f) (c.result 0 0 false)) ∧
       (isEnd → goes (.fclose f) (bare { num (x.pos + (a.ctag.toNat - 1) * 2 ^ 32) with e := e.setFibre k closed })) ∧
       (isEnd → f.lane.toNat ≤ a.ctag.toNat - 1 →
         goes (.fend f) (bare (c.result (BitVec.ofNat 64 (x.pos + a.ctag.toNat * 2 ^ 32)) 0 true))) ∧
       (¬(isEnd ∧ f.lane.toNat ≤ a.ctag.toNat - 1) → goes (.fend f) (c.result 0 0 false)))) ∧
  (∀ (s : State) (r : ElemRef) (n stall starve : Nat) (e : Elem) (f : SlotF), elemThere s r n stall starve e →
     let c : Ctx := ⟨s, e, n, f⟩
     let goes (i : Instr) (x : Fired) : Prop := fires i s r n stall starve e f x
     let a := (e.source f.srca.toNat).val
     let b := (e.source f.srcb.toNat).val
     let pair (p v : Nat) : Word := BitVec.ofNat 64 (p % 2 ^ 32 * 2 ^ 32 + v % 2 ^ 32)
     let ct := (e.source f.srca.toNat).ctag.toNat
     let bare (y : Fired) : Fired :=
       if f.otag = 1 ∧ 1 ≤ ct ∧ ct ≤ 4 ∧ ¬(4 ≤ f.dst.toNat ∧ f.dst.toNat ≤ 11) then
         { y with result := 0, tag := 0, res := none }
       else y
     -- one step over the word w with fibre register k, whose inputs are ks and whose values are v
     let walks (i : Instr) (k : Nat) (w : Nat) (v : Nat → Nat) (ks : List Nat) : Prop :=
       let x := e.fibre k
       let left := w / 2 ^ x.bit * 2 ^ x.bit
       let past : Fib := { x with pos := (x.pos + 1) % 2 ^ 32, bit := 0 }
       let p := ctzN 64 left
       (left = 0 → goes i { c.silent false with e := e.setFibre k past, deq := ks }) ∧
       (left ≠ 0 → left ≠ 2 ^ p → goes i { c.result (pair (64 * x.pos + p) (v p)) 14 true with
         e := e.setFibre k { x with bit := p + 1 }, deq := [] }) ∧
       (left ≠ 0 → left = 2 ^ p → goes i { c.result (pair (64 * x.pos + p) (v p)) 14 true with
         e := e.setFibre k past, deq := ks })
     (good e f.srca .coord →
       goes (.csplitC f)
         (bare (c.result (BitVec.ofNat 64 (a.toNat / 2 ^ 32)) 0 (BitVec.ofNat 64 (a.toNat / 2 ^ 32) != 0))) ∧
       goes (.csplitV f)
         (bare (c.result (BitVec.ofNat 64 (a.toNat % 2 ^ 32)) f.srcb (BitVec.ofNat 64 (a.toNat % 2 ^ 32) != 0)))) ∧
     (good e f.srca .int →
       walks (.bmexp f) f.srcb.toNat a.toNat (fun p => popN p a.toNat) [f.srca.toNat] ∧
       (good e f.srcb .int →
         goes (.cpair f) (bare (c.result (pair (if f.lane = 1 then a.toNat / 2 ^ 32 else a.toNat) b.toNat) 14
           (pair (if f.lane = 1 then a.toNat / 2 ^ 32 else a.toNat) b.toNat != 0))) ∧
         walks (.bmand f) f.lane.toNat (a &&& b).toNat (fun p => p) [f.srca.toNat, f.srcb.toNat])))

/-- CMERGE on its two heads: the lesser coordinate passes; equal coordinates combine by the form; a DATA head passes
before an END; two ENDs give the lesser rank (R168). TOPK takes an entry into the list of the k best, or leaves it;
TOPKRD gives the first entry, or END0 when the list is empty, and a list that is empty has no key type; another key type
traps (R169, R170). That a passing or END firing of CMERGE.addf counts as one that rounds (log 23), and the order of entries
equal in value and coordinate and the INFO of the key-type trap (log 80), are the model's choice. -/
def Obligations.MergingAndTopK : Prop :=
  (∀ (s : State) (r : ElemRef) (n stall starve : Nat) (e : Elem) (f : SlotF), elemThere s r n stall starve e →
     let c : Ctx := ⟨s, e, n, f⟩
     let ia := f.srca.toNat
     let ib := f.srcb.toNat
     let a := e.source ia
     let b := e.source ib
     let goes (x : Fired) : Prop :=
       fires (.cmerge f) s r n stall starve e f { x with rounds := f.lane == 2 && e.rmode == .sr }
     let pass (x : Src) (ks : List Nat) : Fired := { c.result x.val 14 true with res := some x.res, deq := ks }
     let ends (ct : BitVec 3) (ks : List Nat) : Fired := { c.result 0 0 false with dst := .token ct, deq := ks }
     let pair (v : Nat) : Fired :=
       { c.result (BitVec.ofNat 64 (coordOf a.val * 2 ^ 32 + v % 2 ^ 32)) 14 true with deq := [ia, ib] }
     let isEnd (x : Src) : Prop := 1 ≤ x.ctag.toNat ∧ x.ctag.toNat ≤ 4
     (a.ctag = 0 → b.ctag = 0 → good e f.srca .coord → good e f.srcb .coord →
       (coordOf a.val < coordOf b.val → goes (pass a [ia])) ∧ (coordOf b.val < coordOf a.val → goes (pass b [ib])) ∧
       (coordOf a.val = coordOf b.val →
         (f.lane = 0 → goes (pass a [ia])) ∧ (f.lane = 1 → goes (pair (valueOf a.val + valueOf b.val))) ∧
         (f.lane = 2 → goes (pair (roundF fF32 e.rmode false (e.rnd 0)
           (FVal.add e.rmode (fF32.dec (valueOf a.val)) (fF32.dec (valueOf b.val)))))) ∧
         (f.lane = 3 → goes (pass a [ia, ib])))) ∧
     (a.ctag = 0 → isEnd b → good e f.srca .coord → good e f.srcb .int → goes (pass a [ia])) ∧
     (isEnd a → b.ctag = 0 → good e f.srca .int → good e f.srcb .coord → goes (pass b [ib])) ∧
     (isEnd a → isEnd b → good e f.srca .int → good e f.srcb .int →
       (a.ctag.toNat < b.ctag.toNat → goes (ends a.ctag [ia])) ∧ (b.ctag.toNat < a.ctag.toNat → goes (ends b.ctag [ib])) ∧
       (a.ctag = b.ctag → goes (ends a.ctag [ia, ib])))) ∧
  (∀ (s : State) (r : ElemRef) (n stall starve : Nat) (e : Elem) (f : SlotF), elemThere s r n stall starve e →
     let c : Ctx := ⟨s, e, n, f⟩
     let goes (i : Instr) (x : Fired) : Prop := fires i s r n stall starve e f x
     let a := (e.source f.srca.toNat).val
     let kt := f.lane.toNat
     let list (x : Fired) (l : List Word) (t : Option Nat) : Fired :=
       { x with e := { e with ce := { e.ce with topk := l, topType := t } } }
     let l := e.ce.topk
     let k := f.srcb.toNat + 1
     (good e f.srca .coord → l = [] ∨ e.ce.topType = some kt →
       (kt = 2 → (fF32.dec (valueOf a)).isNaN = true → goes (.topk f) (c.silent false)) ∧
       ((kt = 2 → (fF32.dec (valueOf a)).isNaN = false) →
         (l.length < k → goes (.topk f) (list (c.silent true) (topInsert kt a l) (some kt))) ∧
         -- a list of K entries, or of more, of which K stay
         (∀ z, k ≤ l.length → (l.take k).getLast? = some z →
           (ranksBefore kt a z = true →
             goes (.topk f) (list (c.silent true) (topInsert kt a (l.take k).dropLast) (some kt))) ∧
           (ranksBefore kt a z = false → goes (.topk f) (list (c.silent false) (l.take k) (some kt)))))) ∧
     (good e f.srca .coord → l ≠ [] → e.ce.topType ≠ some kt →
       trapsWith (.topk f) s r ⟨Cause.fmtMismatch, eDetail e.ref.site n 0, none⟩) ∧
     (l = [] → goes (.topkrd f) (list { c.result 0 0 false with dst := .token 1 } [] none)) ∧
     (∀ x, l = [x] → goes (.topkrd f) (list (c.result x 14 true) [] none)) ∧
     (∀ x y ys, l = x :: y :: ys → goes (.topkrd f) (list (c.result x 14 true) (y :: ys) e.ce.topType)))

/-! ### Scratchpad elements -/

/-- A bank word written stands there from then on, every other word stays, and readers of the same clock still see
what stood at its start (R211). SRD, SWR, SXCH, SADD, SMAX and SMIN at the own port: the word read as it stood at the
start of the clock, the word written, its presence kept, and the sub-bank slots used (R195, R197, R201, R206). A read that
meets an uncorrectable error fires with outcome false and a FAULT token in place of the word, whose detail is free (log 24),
or traps the element where DST is no output, and is logged; one whose stored residue is wrong traps RESIDUE and does not
fire (R200, R451). -/
def Obligations.BankAccesses : Prop :=
  (∀ (p : SpeState) (x y : Nat) (w : BWord), swf BWord.zero p.bank = true →
     (p.write x w).now y = (if y = x then w else p.now y) ∧ swf BWord.zero (p.write x w).bank = true ∧
     ((p.old.any fun o => decide (o.1 = x)) = false → (p.write x w).read x = p.now x) ∧
     (y ≠ x → (p.old.any fun o => decide (o.1 = y)) = false → (p.write x w).read y = p.now y) ∧
     ((p.old.any fun o => decide (o.1 = y)) = true → (p.write x w).read y = p.read y)) ∧
  (∀ (s : State) (r : ElemRef) (n stall starve : Nat) (e : Elem) (f : SlotF), elemThere s r n stall starve e →
     good e f.srca .int →
     let c : Ctx := ⟨s, e, n, f⟩
     let goes (i : Instr) (x : Fired) : Prop := fires i s r n stall starve e f x
     let b := e.source f.srcb.toNat
     let x := (e.source f.srca.toNat).val.toNat % 2 ^ 13
     let w := e.spe.read x
     let reads (p : SpeState) : Fired :=
       { c.result w.val w.tag (w.val != 0) with e := { e with spe := p }, res := some w.res }
     let rw := (e.spe.useR x).useW x
     let wd := laneW f.lane
     let op (i : Instr) (g : Nat → Nat → Nat) : Prop := ∃ v : Word,
       (∀ k, k < 64 / wd → laneN wd k v = g (laneN wd k w.val) (laneN wd k b.val)) ∧
       goes i (reads (rw.write x ⟨v, BitVec.zeroExtend 4 f.lane, residue v, w.pres⟩))
     (wordOk e x → goes (.srd f) (reads (e.spe.useR x))) ∧
     (clean e f.srcb → goes (.swr f) { c.silent (b.val != 0) with
       e := { e with spe := (e.spe.write x ⟨b.val, b.tag, b.res, w.pres⟩).useW x } }) ∧
     (clean e f.srcb → wordOk e x → goes (.sxch f) (reads (rw.write x ⟨b.val, b.tag, b.res, w.pres⟩))) ∧
     (good e f.srcb .int → wordOk e x → Cls.int.accepts w.tag = true →
       op (.sadd f) (fun a b => (a + b) % 2 ^ wd) ∧
       op (.smax f) (fun a b => if sgn wd a ≤ sgn wd b then b else a) ∧
       op (.smin f) (fun a b => if sgn wd a ≤ sgn wd b then a else b)) ∧
     -- the word read has an uncorrectable error: the slot fires with a FAULT token, or the element traps; nothing is written
     let met (i : Instr) (p : SpeState) : Prop :=
       (outsOf f.dst.toNat ≠ [] → firesThen i s r n stall starve e f
         { c.result (faultTok Cause.uncorrectable (freeDetail s)).pay 0 false with
           e := { e with spe := p }, dst := .token Ctag.fault } fun s1 => s1.logElem e) ∧
       (outsOf f.dst.toNat = [] → firesThen i s r n stall starve e f { c.silent false with e := { e with spe := p } }
         fun s1 => (s1.logElem e).trapElem r ⟨Cause.uncorrectable, eDetail e.ref.site n 0, none⟩)
     (setHas e.spe.bad x = true → met (.srd f) (e.spe.useR x) ∧ (clean e f.srcb → met (.sxch f) rw) ∧
       (good e f.srcb .int → met (.sadd f) rw ∧ met (.smax f) rw ∧ met (.smin f) rw)) ∧
     -- its stored residue is wrong
     let traps (i : Instr) : Prop := trapsWith i s r ⟨Cause.residue, eDetail e.ref.site n 0, some (16 + x)⟩
     (setHas e.spe.bad x = false → w.res ≠ residue w.val → traps (.srd f) ∧ (clean e f.srcb → traps (.sxch f)) ∧
       (good e f.srcb .int → traps (.sadd f) ∧ traps (.smax f) ∧ traps (.smin f))))

/-- The circular-buffer instructions: the word each reaches, how RD, WR and FILL move, what an advance answers; an
unset handle traps CBUNSET and a bad descriptor CBDESC (R203 to R205). -/
def Obligations.CircularBuffers : Prop :=
  ∀ (s : State) (r : ElemRef) (n stall starve : Nat) (e : Elem) (f : SlotF), elemThere s r n stall starve e →
    let c : Ctx := ⟨s, e, n, f⟩
    let goes (i : Instr) (x : Fired) : Prop := fires i s r n stall starve e f x
    let traps (i : Instr) (cause : Nat) : Prop := trapsWith i s r ⟨cause, eDetail e.ref.site n 0, none⟩
    let k := f.srca.toNat
    let h := e.spe.handle k
    let b := e.source f.srcb.toNat
    let m := f.srcb.toNat
    let strided := f.lane = 1
    let at_ (o : Nat) : Nat := (h.base + o % h.size) % 8192
    let xr := at_ (h.rd + if strided then m * h.stride else m)
    let xp := at_ h.rd
    let xw := at_ h.wr
    let go := if strided then (m + 1) * h.stride else m + 1
    let with_ (x : Fired) (p : SpeState) : Fired := { x with e := { e with spe := p } }
    let reads (x : Nat) (p : SpeState) : Fired :=
      { with_ (c.result (e.spe.read x).val (e.spe.read x).tag ((e.spe.read x).val != 0)) p with
        res := some (e.spe.read x).res }
    let levels (fill : Nat) : Word := BitVec.ofNat 64 (fill + (h.size - fill) * 2 ^ 32)
    let d := (e.source f.srca.toNat).val
    (h.size = 0 → traps (.cbrd f) Cause.cbunset ∧ traps (.cbrdPop f) Cause.cbunset ∧ traps (.cbwr f) Cause.cbunset ∧
      traps (.cbadvr f) Cause.cbunset ∧ traps (.cbadvw f) Cause.cbunset) ∧
    (h.size ≠ 0 →
      (wordOk e xr → goes (.cbrd f) (reads xr (e.spe.useR xr))) ∧
      (wordOk e xp → goes (.cbrdPop f)
        (reads xp ((e.spe.useR xp).setHandle k { h with rd := (h.rd + 1) % h.size, fill := h.fill - 1 }))) ∧
      (clean e f.srcb → goes (.cbwr f) (with_ (c.silent (b.val != 0))
        (((e.spe.write xw ⟨b.val, b.tag, b.res, (e.spe.read xw).pres⟩).useW xw).setHandle k
          { h with wr := (h.wr + 1) % h.size, fill := h.fill + 1 }))) ∧
      goes (.cbadvr f) (with_ (c.result (levels (h.fill - go)) 0 (h.fill - go != 0))
        (e.spe.setHandle k { h with rd := (h.rd + go) % h.size, fill := h.fill - go })) ∧
      goes (.cbadvw f) (with_ (c.result (levels (h.fill + go)) 0 (h.size - (h.fill + go) != 0))
        (e.spe.setHandle k { h with wr := (h.wr + go) % h.size, fill := h.fill + go }))) ∧
    (good e f.srca .int →
      (fld d 39 25 = 0 → fld d 0 13 + fld d 13 13 ≤ 8191 → goes (.cbset f)
        (with_ (c.silent false) (e.spe.setHandle m ⟨fld d 0 13, fld d 13 13 + 1, fld d 26 13, 0, 0, 0⟩))) ∧
      (fld d 39 25 ≠ 0 ∨ 8191 < fld d 0 13 + fld d 13 13 → traps (.cbset f) Cause.cbdesc))

/-- PRD, PWR and PCLR: a read of a word that is not present takes a deferral entry; a write sets presence and then
serves the entries of its word; a second write gives the fault and changes nothing; a clear takes the word and zeroes
it. Serving a word frees its entries and answers each in the order taken, a read of another element by the cross reply that it
is owed, half a crossing later (R206, R207, R209; the half is the model's choice, log 26). -/
def Obligations.PresenceWords : Prop :=
  (∀ (s : State) (r : ElemRef) (n stall starve : Nat) (e : Elem) (f : SlotF), elemThere s r n stall starve e →
       good e f.srca .int →
       let c : Ctx := ⟨s, e, n, f⟩
       let goes (i : Instr) (x : Fired) : Prop := fires i s r n stall starve e f x
       let b := e.source f.srcb.toNat
       let x := (e.source f.srca.toNat).val.toNat % 2 ^ 13
       let w := e.spe.read x
       let with_ (y : Fired) (p : SpeState) : Fired := { y with e := { e with spe := p } }
       let reads (o : Bool) (p : SpeState) : Fired := { with_ (c.result w.val w.tag o) p with res := some w.res }
       let p := e.spe.useR x
       let fresh : BWord := ⟨b.val, b.tag, b.res, true⟩
       let rw := (e.spe.useR x).useW x
       (wordOk e x → w.pres = true → goes (.prd f) (reads true p)) ∧
       (setHas e.spe.bad x = false → w.pres = false → goes (.prd f)
         (with_ (c.silent false) { p with defers := p.defers ++ [⟨x, .own f.dst.toNat (otagCtag f (e.source f.srca.toNat))⟩] })) ∧
       (clean e f.srcb → w.pres = false → swf BWord.zero e.spe.bank = true →
         firesThen (.pwr f) s r n stall starve e f (with_ (c.silent true) ((e.spe.write x fresh).useW x))
           fun s1 => s1.serveWord r x fresh) ∧
       (clean e f.srcb → w.pres = true → f.dst = 15 →
         firesThen (.pwr f) s r n stall starve e f (with_ (c.silent false) (e.spe.useW x))
           fun s1 => s1.trapElem r ⟨Cause.presenceRewrite, eDetail e.ref.site n 0, none⟩) ∧
       (clean e f.srcb → w.pres = true → f.dst ≠ 15 →
         goes (.pwr f) { with_ (c.result (faultTok Cause.presenceRewrite (freeDetail s)).pay 0 false) (e.spe.useW x) with
           dst := .token Ctag.fault, free := 1 }) ∧
       (wordOk e x → goes (.pclr f) (reads w.pres (if w.pres then rw.write x BWord.zero else rw)))) ∧
  -- serving a word: its entries are freed; own reads join the reply list in the order taken, and every cross read is answered
  (∀ (s : State) (r : ElemRef) (e : Elem) (x : Nat) (w : BWord), s.elem? r = some e →
     let s' := s.serveWord r x w
     let tok (ct : BitVec 3) : Tok := ⟨ct, ftagFor ct w.tag, w.res, 0, w.val⟩
     s' = { s with elems := s'.elems } ∧
     (∃ e', s'.elem? r = some e' ∧ e'.spe.defers = e.spe.defers.filter (fun d => decide (d.word ≠ x)) ∧
       e'.spe.replies = e.spe.replies ++ e.spe.defers.filterMap (fun d =>
         match d.who with
         | .own dst ct => if d.word = x then some (dst, tok ct) else none
         | .cross _ _ => none)) ∧
     ∀ u y, s.elem? u = some y → ∃ y', s'.elem? u = some y' ∧
       y' = { y with spe := { y.spe with defers := y'.spe.defers, replies := y'.spe.replies, owed := y'.spe.owed } } ∧
       (u ≠ r → y'.spe.defers = y.spe.defers ∧ y'.spe.replies = y.spe.replies) ∧
       y'.spe.owed = y.spe.owed.map fun c =>
         if (e.spe.defers.any fun d => decide (d.word = x ∧ d.who = .cross u c.cell)) then
           { c with reply := some (tok c.ctag), due := s.clock + crossHalf s r u }
         else c)

/-- MPGO starts the microprogram of a descriptor, or traps MPDESC; MPST answers its status, and its requests suspend
and resume it (R215, R216, R219). A step of the port microprogram: the write reserved for the clock is performed, and
the reads reserved for it give the next write or sum: a copy, a scale-and-add, a column sum; a
write keeps its word's presence. A suspension takes effect
at a row boundary, and the completion token enters DST (R216 to R218). -/
def Obligations.Microprograms : Prop :=
  (∀ (s : State) (r : ElemRef) (n stall starve : Nat) (e : Elem) (f : SlotF), elemThere s r n stall starve e →
     let c : Ctx := ⟨s, e, n, f⟩
     let goes (i : Instr) (x : Fired) : Prop := fires i s r n stall starve e f x
     let d := (e.source f.srca.toNat).val
     let b := e.source f.srcb.toNat
     let scaled := fld d 62 2 = 1
     let k : Cls := if scaled then (if fld d 60 2 = 0 then .int else .fp 4) else .none
     let m := e.spe.mp
     let with_ (x : Fired) (m : MicroProg) : Fired := { x with e := { e with spe := { e.spe with mp := m } } }
     let status := c.result m.status 0 (m.st != 0)
     (good e f.srca .int → good e f.srcb k →
       (mpBad d = false → goes (.mpgo f) (with_ (c.silent true) { MicroProg.idle with
         st := 1, desc := d, scale := BitVec.ofNat 64 (b.val.toNat % 2 ^ 32), dst := f.dst.toNat, acc := m.acc })) ∧
       (mpBad d = true → trapsWith (.mpgo f) s r ⟨Cause.mpdesc, eDetail e.ref.site n 0, none⟩)) ∧
     goes (.mpst f) status ∧
     goes (.mpstSusp f) (with_ status (if m.st = 1 then { m with st := 2, byprog := true } else m)) ∧
     goes (.mpstRes f) (with_ status (if m.st = 3 ∧ m.byprog = true then { m with st := 1, byprog := false } else m))) ∧
  (∀ (s : State) (r : ElemRef) (e : Elem), elemAct s r e → swf BWord.zero e.spe.bank = true →
     let p := e.spe
     let m := p.mp
     let src := mpSrc m.desc + m.row * mpPitch m.desc + m.word
     let dst := mpDst m.desc + m.row * mpPitch m.desc + m.word
     let x := p.read src
     let y := p.read dst
     let tag : BitVec 4 := if mpFmt m.desc = 0 then 1 else 4
     let step (e' : Elem) : Prop := setsElem .microprogramStep s r e'
     (∀ w, m.write = some w → p.resv.mpWrite ≠ 0 → p.resv.mpRead = 0 → ∃ e', step e' ∧
       ∀ k, e'.spe.now k = if k = w.word then { w.val with pres := (p.now k).pres } else p.now k) ∧
     (p.resv.mpWrite = 0 → p.resv.mpRead ≠ 0 → m.phase = .read → m.done = none → wordOk e src →
       (mpOp m.desc = 0 → ∃ e', step e' ∧ e'.spe.bank = p.bank ∧
         e'.spe.mp.write = some ⟨dst, ⟨x.val, x.tag, x.res, false⟩⟩ ∧ e'.spe.mp.acc = m.acc) ∧
       (mpOp m.desc = 1 → src % 8 ≠ dst % 8 → wordOk e dst →
         (if mpFmt m.desc = 0 then Cls.int else Cls.fp 4).accepts x.tag = true →
         (if mpFmt m.desc = 0 then Cls.int else Cls.fp 4).accepts y.tag = true →
         ∃ e' v, step e' ∧ e'.spe.bank = p.bank ∧ e'.spe.mp.write = some ⟨dst, ⟨v, tag, residue v, false⟩⟩ ∧
           ∀ k, k < 2 → laneN 32 k v =
             mpLane (mpFmt m.desc) (valueOf m.scale) (laneN 32 k x.val) (laneN 32 k y.val) % 2 ^ 32) ∧
       (mpOp m.desc = 2 → m.word < m.acc.length → 0 < mpRows m.desc →
         (if mpFmt m.desc = 0 then Cls.int else Cls.fp 4).accepts x.tag = true →
         ∃ e', step e' ∧ e'.spe.bank = p.bank ∧ ∀ k, k < 2 →
           laneN 32 k (e'.spe.mp.acc.getD m.word 0) =
             sumLane (mpFmt m.desc) (if m.row = 0 then 0 else laneN 32 k (m.acc.getD m.word 0)) (laneN 32 k x.val) % 2 ^ 32)) ∧
     (m.st = 2 → m.atBoundary = true → setsElem .microprogramSuspend s r { e with spe := { p with mp := { m with st := 3 } } }) ∧
     (m.st ≠ 2 ∨ m.atBoundary = false → exec .microprogramSuspend s = .next s) ∧
     (∀ t, m.st = 1 → m.done = some t →
       let e1 := { e with spe := { p with mp := { m with st := 0, done := none } } }
       (m.dst ≠ 15 → e.spaceFor m.dst = true → ∃ e', setsElem .microprogramCompletion s r e' ∧ putsTok s e m.dst t e1 e') ∧
       (m.dst = 15 → t.ctag ≠ Ctag.fault → setsElem .microprogramCompletion s r e1)))

/-- XRD and XWR, plain and with presence: the request takes a credit and a place among the replies owed, and travels
to the arrival queue of the SPE its address names; an invalid address is answered XADDR (R198, R208 to R210). That a request
arrives after half of the figure of R209 is the
model's choice (log 26). -/
def Obligations.CrossRequests : Prop :=
  ∀ (s : State) (r : ElemRef) (n stall starve : Nat) (e : Elem) (f : SlotF), elemThere s r n stall starve e →
    good e f.srca .int →
    let c : Ctx := ⟨s, e, n, f⟩
    let a := (e.source f.srca.toNat).val
    let b := e.source f.srcb.toNat
    let owes (cell : CrossCell) (o : Bool) : Fired := { c.silent o with
      e := { e with spe := { e.spe with credits := e.spe.credits - 1, owed := e.spe.owed ++ [cell] } }, ids := 1 }
    let asks (i : Instr) (op : CrossOp) (v : Word) (tag res : BitVec 4) : Prop :=
      let cell : CrossCell :=
        ⟨s.nextId, f.dst.toNat, op.writes, otagCtag f (e.source f.srca.toNat), true, none, none, 0⟩
      (∀ t, s.crossTarget r a = some t →
        let q : CrossReq := ⟨r, s.nextId, op, a.toNat % 2 ^ 13, v, tag, res, s.clock + crossHalf s r t⟩
        firesThen i s r n stall starve e f (owes cell true) fun s1 =>
          s1.modElem t fun u => { u with spe := { u.spe with crossIn := addCross q u.spe.crossIn } }) ∧
      (s.crossTarget r a = none →
        let fault : Option ETrap := if f.dst = 15 then some ⟨Cause.xaddr, eDetail e.ref.site n 0, none⟩ else none
        fires i s r n stall starve e f (owes { cell with
          reply := some (faultTok Cause.xaddr (fld a 0 24)), due := s.clock + 8, fault := fault } false))
    asks (.xrd f) .rd 0 0 0 ∧ asks (.xrdP f) .rdP 0 0 0 ∧
    (clean e f.srcb → asks (.xwr f) .wr b.val b.tag b.res ∧ asks (.xwrP f) .wrP b.val b.tag b.res)

/-! ### Matrix elements -/

/-- TCFG, TFILL, TZERO, TREL, TSCALE and TSTAT: a tile register's shape, fill, state and scale, an accumulator's
clear, and the status words (R225 to R231, R235, R240, R241). TMMA and TACC are accepted by the array, at once or
behind the firing in progress, with their clocks; a shape, a format or a state that does not fit traps. TDRAIN starts
the drain port on its accumulator (R232, R233, R236 to R239). -/
def Obligations.TilesAndProducts : Prop :=
  (∀ (s : State) (r : ElemRef) (n stall starve : Nat) (e : Elem) (f : SlotF), elemThere s r n stall starve e →
     let c : Ctx := ⟨s, e, n, f⟩
     let x := e.mxe
     let goes (i : Instr) (o : Bool) (y : MxeState) : Prop :=
       fires i s r n stall starve e f { c.silent o with e := { e with mxe := y } }
     let traps (i : Instr) (cause info : Nat) : Prop := trapsWith i s r ⟨cause, eDetail e.ref.site n info, none⟩
     let a := e.source f.srca.toNat
     let d := a.val
     let m := f.srcb.toNat
     let t := x.treg m
     let cfg : TReg := { t with
       st := 1, fmt := fld d 0 4, rows := fld d 4 6 + 1, cb := (fld d 10 9 + 1) * 8, col := bitAt d 19, fill := 0,
       sigma := 0, ovr := false, eovr := 0, dirty := false, cause := 0 }
     let bx := t.fmt = 11 ∨ t.fmt = 12 ∨ t.fmt = 13
     let wrong := fld d 17 47 ≠ 0 ∨ (bitAt d 8 = true ∧ ¬ bx) ∨ (bitAt d 8 = true ∧ fld d 9 8 = 0xFF) ∨ t.st = 0
     let filled : MxeState := { x.setT m (t.store d) with
       parts := if a.tag.toNat = t.fmt then partsAfter x.parts f.srca.toNat m t.fmt else x.parts }
     let status := if f.srca.toNat < 8 then (x.treg f.srca.toNat).status else x.accStatus (f.srca.toNat - 8)
     (good e f.srca .int →
       (tcfgBad d = false → goes (.tcfg f) true (x.setT m cfg)) ∧
       (tcfgBad d = true → traps (.tcfg f) Cause.mxdesc m) ∧
       (¬ wrong → goes (.tscale f) true
         (x.setT m { t with sigma := fld d 0 8, ovr := bitAt d 8, eovr := fld d 9 8 })) ∧
       (wrong → traps (.tscale f) Cause.mxdesc m)) ∧
     (clean e f.srca →
       (t.st = 0 ∨ t.st = 3 ∨ t.st = 4 → traps (.tfill f) Cause.mxstate m) ∧
       (t.st ≠ 0 → t.st ≠ 3 → t.st ≠ 4 →
         (a.ctag = Ctag.fault → goes (.tfill f) false (x.setT m { t with st := 4, cause := fld d 48 16 })) ∧
         (a.ctag ≠ Ctag.fault → a.tag ≠ 0 → a.tag.toNat ≠ t.fmt →
           traps (.tfill f) Cause.fmtMismatch (f.srca.toNat * 2 ^ 8 + a.tag.toNat)) ∧
         (a.ctag ≠ Ctag.fault → a.tag = 0 ∨ a.tag.toNat = t.fmt → goes (.tfill f) true filled))) ∧
     goes (.tzero f) true (x.setA f.lane.toNat ⟨[], 0, f.srca == 1, 0, 0, 0⟩) ∧
     (t.st = 0 → goes (.trel f) true x) ∧
     (t.st ≠ 0 → goes (.trel f) true (x.setT m { t with st := 1, fill := 0, dirty := false, cause := 0 })) ∧
     fires (.tstat f) s r n stall starve e f (c.result status 0 (status != 0))) ∧
  (∀ (s : State) (r : ElemRef) (n stall starve : Nat) (e : Elem) (f : SlotF), elemThere s r n stall starve e →
     let c : Ctx := ⟨s, e, n, f⟩
     let x := e.mxe
     let k := f.lane.toNat
     let ia := f.srca.toNat
     let ib := f.srcb.toNat
     let a := x.treg ia
     let b := x.treg ib
     let d := x.acc k
     let goes (i : Instr) (o : Bool) (y : MxeState) : Prop :=
       fires i s r n stall starve e f { c.silent o with e := { e with mxe := y } }
     let traps (i : Instr) (cause info : Nat) : Prop := trapsWith i s r ⟨cause, eDetail e.ref.site n info, none⟩
     let takes (j : ArrJob) : MxeState :=
       if x.run = none then { x with run := some { j with start := s.clock + 1 } } else { x with next := some j }
     let poison := if a.st = 4 then some a.cause else if b.st = 4 then some b.cause else none
     let fits := a.k = b.k ∧ a.rows ≤ 32 ∧ b.rows ≤ 32
     (fits → mxAccepts d.kind a.fmt = true → mxAccepts d.kind b.fmt = true →
       goes (.tmma f) (poison.isNone && d.st != 3)
         (takes ⟨k, ia, some ib, 0, ceilDiv (a.k * 1024) (min (mxRate a.fmt) (mxRate b.fmt)), poison, []⟩)) ∧
     (a.k ≠ b.k ∨ 32 < a.rows → traps (.tmma f) Cause.mxshape ia) ∧
     (a.k = b.k → a.rows ≤ 32 → 32 < b.rows → traps (.tmma f) Cause.mxshape ib) ∧
     (fits → mxAccepts d.kind a.fmt = false → traps (.tmma f) Cause.fmtMismatch (2 ^ 16 + ia * 2 ^ 8 + a.fmt)) ∧
     (fits → mxAccepts d.kind a.fmt = true → mxAccepts d.kind b.fmt = false →
       traps (.tmma f) Cause.fmtMismatch (2 ^ 16 + ib * 2 ^ 8 + b.fmt)) ∧
     (b.st = 3 ∨ b.st = 4 → b.fmt = (if d.kind then 1 else 4) → b.rows ≤ 32 → b.cb / 4 ≤ 32 →
       goes (.tacc f) (b.st == 3 && d.st != 3)
         (takes ⟨k, ib, none, 0, b.rows, if b.st = 4 then some b.cause else none, []⟩)) ∧
     (b.st ≠ 3 → b.st ≠ 4 → traps (.tacc f) Cause.mxstate ib) ∧
     (b.st = 3 ∨ b.st = 4 → b.fmt ≠ (if d.kind then 1 else 4) →
       traps (.tacc f) Cause.fmtMismatch (2 ^ 16 + ib * 2 ^ 8 + b.fmt)) ∧
     (b.st = 3 ∨ b.st = 4 → b.fmt = (if d.kind then 1 else 4) → 32 < b.rows ∨ 32 < b.cb / 4 →
       traps (.tacc f) Cause.mxshape ib) ∧
     goes (.tdrain f) ((x.acc ia).st != 3)
       { x with drain := some ⟨ia, ib, f.lane.getLsbD 0, f.lane.getLsbD 1, f.dst.toNat, 0, 0, s.clock + 1⟩ })

/-! ### Memory port elements -/

/-- Loads, stores and fences of a memory port: what each asks for, with which credits and what outcome (R276 to R280,
R273). Atomics, task requests, arbor operations, engine commands and reduction commands: what each asks for, with
which credits; the predicate of those that answer it later waits for the reply (R318, R352, R353, R385, R421). That the
outcome of LDF and WLD is that of the checks as they stand at the firing is the model's choice (log 33). -/
def Obligations.PortAsks : Prop :=
  (∀ (s : State) (r : ElemRef) (n stall starve : Nat) (e : Elem) (f : SlotF), elemThere s r n stall starve e →
     let goes (op : MOp) (num : Nat) (a b : Word) (cred : Cred) (o : Bool) (i : Instr) : Prop :=
       asks op num a b cred o false i s r n stall starve e f
     let a := (e.source f.srca.toNat).val
     let b := (e.source f.srcb.toNat).val
     let k := f.srcb.toNat
     goes .fence f.srca.toNat 0 0 .none true (.fence f) ∧
     (good e f.srca .int →
       goes .ld k a 0 (.rd 1) (a != 0) (.ld f) ∧ goes .ldf k a 0 (.rd (k + 1)) (ldfOutcome ⟨s, e, n, f⟩ a) (.ldf f) ∧
       goes .stClr k a 0 .wr true (.stClr f) ∧ goes .stoClr k a 0 .wr true (.stoClr f) ∧
       goes .wld k a 0 (.rd (2 ^ k)) (wldOutcome ⟨s, e, n, f⟩ a) (.wld f) ∧
       goes .rld k a 0 (.rd (k + 1)) true (.rld f) ∧
       (∀ x, s.slotTask e.ref.load (opSlot a) = some x → x.wins.getD k none = none →
         trapsWith (.pld f) s r ⟨Cause.paramUnbound, eDetail e.ref.site n 0, none⟩) ∧
       (∀ x, s.slotTask e.ref.load (opSlot a) = some x → x.wins.getD k none ≠ none → goes .pld k a 0 .none true (.pld f)) ∧
       (s.slotTask e.ref.load (opSlot a) = none → goes .pld k a 0 .none true (.pld f))) ∧
     (good e f.srca .int → clean e f.srcb →
       goes .st 0 a b .wr true (.st f) ∧ goes .sto 0 a b .wr true (.sto f) ∧ goes .rst 0 a b .rem true (.rst f) ∧
       goes .rstAck 0 a b .rem true (.rstAck f))) ∧
  (∀ (s : State) (r : ElemRef) (n stall starve : Nat) (e : Elem) (f : SlotF), elemThere s r n stall starve e →
     let a := (e.source f.srca.toNat).val
     let b := (e.source f.srcb.toNat).val
     let k := f.srcb.toNat
     let two (op : MOp) (i : Instr) : Prop := asks op 0 a b .wr true true i s r n stall starve e f
     let task (op : MOp) (i : Instr) : Prop := asks op k a 0 .wr true true i s r n stall starve e f
     let arbor (op : MOp) (cred : Cred) (i : Instr) : Prop := asks op 0 a b cred true false i s r n stall starve e f
     (good e f.srca .int → good e f.srcb .int →
       two .aadd (.aadd f) ∧ two .amin (.amin f) ∧ two .amax (.amax f) ∧ two .aand (.aand f) ∧ two .aor (.aor f) ∧
       two .acas (.acas f) ∧ two .cpy (.cpy f) ∧ two .cve (.cve f) ∧ two .densQ (.densQ f) ∧ two .densS (.densS f) ∧
       two .dred (.dred f) ∧ two .drrecvR (.drrecvR f) ∧ two .drrecvW (.drrecvW f) ∧
       arbor .ald (.rd 1) (.ald f) ∧ arbor .aiter (.rd 1) (.aiter f) ∧ arbor .acnt (.rd 1) (.acnt f)) ∧
     (good e f.srca .int → clean e f.srcb → two .axch (.axch f)) ∧
     (good e f.srca .int → good e f.srcb (.fp 4) → two .afadd (.afadd f)) ∧
     (good e f.srca .int → good e f.srcb .coord → arbor .ast .wr (.ast f) ∧ arbor .aaddc .wr (.aaddc f)) ∧
     (good e f.srca .int →
       task .tken (.tken f) ∧ task .tkdec (.tkdec f) ∧ task .tkdecRet (.tkdecRet f) ∧ task .tkst (.tkst f) ∧
       task .tkstClr (.tkstClr f) ∧ task .tkstAbn (.tkstAbn f) ∧
       asks .drclose 0 a 0 .wr true true (.drclose f) s r n stall starve e f ∧
       asks .drcloseW 0 a 0 .wr true true (.drcloseW f) s r n stall starve e f ∧
       asks .acntH k a 0 (.rd 1) true false (.acntH f) s r n stall starve e f) ∧
     (clean e f.srca → task .qput (.qput f)))

/-- Gathers, scatters and the address generators: what each asks for, how a generator is set and moves on, and the
descriptors that trap; a field of AGCFG that is not listed is refused at install (R171 to R176, R281 to R283). That the outcome
of GLD and SST is that of the checks as they stand at the firing (log 33), and which of several failing sources or
descriptors traps (log 17), is the model's choice. -/
def Obligations.GathersAndGenerators : Prop :=
  ∀ (s : State) (r : ElemRef) (n stall starve : Nat) (e : Elem) (f : SlotF), elemThere s r n stall starve e →
    let c : Ctx := ⟨s, e, n, f⟩
    let a := (e.source f.srca.toNat).val
    let b := (e.source f.srcb.toNat).val
    let traps (i : Instr) (cause : Nat) : Prop := trapsWith i s r ⟨cause, eDetail e.ref.site n 0, none⟩
    let ls := gldLanes f.lane.toNat a
    let m := e.mpe
    let g := m.gen (f.srcb.toNat / 8)
    let k := f.srcb.toNat % 8
    let sets (x : AddrGen) : Prop := fires (.agcfg f) s r n stall starve e f
      { c.silent true with e := { e with mpe := m.setGen (f.srcb.toNat / 8) x } }
    let w0 := m.gen f.srcb.toNat
    let w := if w0.st = 0 then { w0 with st := 2, idx := List.replicate 4 0, gid := s.nextId } else w0
    (good e f.srca .int → clean e f.srcb →
      (gdescBad 3 11 b = true → traps (.gld f) Cause.gdesc) ∧
      (gdescBad 3 11 b = false → asks .gld 0 a b (.lane ls.length)
        (ls.all fun p => (s.checkLane e.ref.load b p.2 false).cause == 0) false (.gld f) s r n stall starve e f)) ∧
    (good e f.srca .coord → clean e f.srcb →
      (gdescBad 2 2 b = true → traps (.sst f) Cause.gdesc) ∧
      (gdescBad 2 2 b = false → asks .sst 0 a b (.lane 1) ((s.checkLane e.ref.load b (coordOf a) true).cause == 0)
        false (.sst f) s r n stall starve e f)) ∧
    (good e f.srca .int →
      (k ≤ 3 → fld a 0 32 ≠ 0 → sgn 32 (fld a 32 32) % 8 = 0 →
        sets { g with c := putAt 1 g.c k (fld a 0 32), s := putAt 0 g.s k (sgn 32 (fld a 32 32)) }) ∧
      (k ≤ 3 → fld a 0 32 = 0 ∨ sgn 32 (fld a 32 32) % 8 ≠ 0 → traps (.agcfg f) Cause.agdesc) ∧
      (k = 4 → sets { g with base := a }) ∧
      (k = 5 → fld a 2 62 = 0 → sets { g with nl := fld a 0 2 + 1 }) ∧
      (k = 5 → fld a 2 62 ≠ 0 → traps (.agcfg f) Cause.agdesc)) ∧
    -- fields 6 and 7 are refused at install: no slot of an installed element has them
    (6 ≤ k → ∀ (routed : Bool) (box : Option Box) (ecw : Word) (ports : List Nat) (nentry : Nat) (x : Word),
      decodeSlot (Kind.ofCode (fld ecw 62 2)) x = .ok (.agcfg f) →
        slotBreach routed box ecw ports nentry x = some Cause.badfield) ∧
    (∃ x : Fired, fires (.astrm f) s r n stall starve e f x ∧ x.outcome = true ∧ x.dst = .none ∧
      x.e = { e with mpe := x.e.mpe } ∧ x.e.mpe.issueQ = m.issueQ ∧ x.e.mpe.groups.length = m.groups.length + 1 ∧
      x.e.mpe.gen f.srca.toNat = { m.gen f.srca.toNat with
        st := 1, idx := List.replicate 4 0, gid := s.nextId, more := true, born := s.clock }) ∧
    (clean e f.srca → ∃ x : Fired, fires (.astwr f) s r n stall starve e f x ∧ x.outcome = true ∧ x.dst = .none ∧
      x.e = { e with mpe := x.e.mpe } ∧ x.e.mpe.wrCred = m.wrCred - 1 ∧
      x.e.mpe.issueQ = m.issueQ ++ [⟨s.nextId, .astwr, f.lane.toNat, f.srcb.toNat, w.addr, a, s.clock, w.step.2 == w.nl, []⟩] ∧
      x.e.mpe.gen f.srcb.toNat = if w.step.2 = w.nl then { w.step.1 with st := 0 } else w.step.1)

/-! ### Events of an element's clock -/

/-- One clock of an element: a FAULT head without an enabled slot that tests for it traps, a DRAIN head in no MPE traps;
else the eligible slot or group of lowest position fires, the first eligible member from the pointer on of a round-robin
group, and of a balanced group the member that has lost 255 times, or that of greatest credit; the stalled and starved
slots are those of the clock (R110, R112 to R114, R117, R118). A halted element's slots stall and starve too, and its CLK
stands still for a trap (R121). A head that is no part of the group whose parts its input has delivered shows a FAULT token of
BXPART before it, and the parts leave the tile register (R88). A balanced group's weights from its occupancy sums:
1 + ⌊15 × o / omax⌋, or 8 with nothing seen; sums and credits start again, loss counts stay, and so do the other slots
(R115). One clock of a route: a token that an output placed in an earlier clock passes a switch word without a stage, whose
identifier it carries, into the input that the word feeds, in that clock; with a stage it enters the stage, and the oldest
token of the stage leaves it for the input (R108, R178, R179, R183). That a FAULT head is taken before a DRAIN head, that the
intersection unit discards in a clock in which a slot is chosen, and which counters of a halted element go on, is the model's
choice (log 11), as is the place of the FAULT token of broken parts (log 10). -/
def Obligations.ElementClocks : Prop :=
  (∀ (s : State) (r : ElemRef) (e0 : Elem), elemAct s r e0 →
     -- the occupancy sums of balanced slots go up in every clock
     let e := e0.occupy
     let fill (n : Nat) : Nat := (((List.range 4).filter fun k =>
       nib (fieldsOf (e0.slotWord n).toNat).irdy k || nib (fieldsOf (e0.slotWord n).toNat).deq k).map
         fun k => (e0.inq k).length).sum
     let vs := e.evals s.clock
     let el := eligible vs
     let stalled (n : Nat) : Bool := match vs[n]? with
       | some v => v.trig && !v.ready
       | none => false
     let pays (e' : Elem) (fired : Option Nat) (stall starve : Nat) : Prop :=
       ∀ k, k < 16 → stall.testBit k = stalled k ∧ starve.testBit k = (el k && decide (fired ≠ some k))
         ∧ (fired = none → e'.counters.getD k ⟨0, 0, 0⟩ =
             ⟨sat32 (e.counters.getD k ⟨0, 0, 0⟩).fired,
              sat32 ((e.counters.getD k ⟨0, 0, 0⟩).stall + boolN (stalled k)),
              sat32 ((e.counters.getD k ⟨0, 0, 0⟩).starve + boolN (el k))⟩)
     e = { e0 with bal := e.bal } ∧
     (∀ n, n < e0.bal.length → e.balOf n =
       if e0.balanced n then { e0.balOf n with o := sat32 ((e0.balOf n).o + fill n) } else e0.balOf n) ∧
     (e0.halted = true → ∃ e', setsElem .escapement s r e' ∧ (∃ a b, pays e' none a b) ∧
       e' = { e with counters := e'.counters, ticking := e0.trap.isNone }) ∧
     (e0.halted = false → (∀ k, k < 4 → e0.partBreak k = false) →
       (∀ t, e.faultTrap = some t → ∃ s', exec .escapement s = .next s' ∧ s'.elem? r = some { e with trap := some t }) ∧
       (∀ t, e.faultTrap = none → e.drainTrap = some t →
         ∃ s', exec .escapement s = .next s' ∧ s'.elem? r = some { e with trap := some t }) ∧
       (e.faultTrap = none → e.drainTrap = none →
         (e.choose el = none → ∃ e', setsElem .escapement s r e' ∧ (∃ a b, pays e' none a b) ∧
           e' = { e with ins := e'.ins, spe := e'.spe, counters := e'.counters, ticking := true } ∧
           (e.views.bind (·.discard) = none → e'.ins = e.ins) ∧
           ∀ k, e.views.bind (·.discard) = some k → e'.ins = e.ins.modify k (List.drop 1)) ∧
         (∀ n bal, e.choose el = some (n, bal) → ∃ s' e' stall starve, exec .escapement s = .next s' ∧
           s'.agenda = .fire r n stall starve :: s.agenda ∧ pays e' (some n) stall starve ∧ s'.elem? r = some e' ∧
           s' = { s with elems := s'.elems, agenda := s'.agenda } ∧
           e' = { e with ins := e'.ins, bal := e'.bal, spe := e'.spe } ∧
           ∀ k, k < e.bal.length → k < bal.length → e'.balOf k = { bal.getD k ⟨8, 0, 0, 0⟩ with o := (e.balOf k).o })))) ∧
  -- the choice among the eligible slots
  (∀ (e : Elem) (el : Nat → Bool) (n : Nat) (bal : List Bal), e.choose el = some (n, bal) →
     let group (k : Nat) : Nat := fld (e.slotWord k) 0 2
     let runs (k : Nat) : Prop := k < 16 ∧ e.sen k = true ∧ el k = true
     let g := group n
     let mates (k : Nat) : Prop := runs k ∧ group k = g
     -- the position at which a slot competes: its own, or that of its group's lowest enabled member
     let pos (k : Nat) : Nat := if group k = 0 then k else (e.members (group k)).headD 0
     let credit (k : Nat) : Int := (e.balOf k).c + Int.ofNat (e.balOf k).w
     let total : Nat := (((e.members g).filter el).map fun k => (e.balOf k).w).sum
     runs n ∧ (∀ k, runs k → pos n ≤ pos k) ∧
     (g = 0 ∨ e.gmode g ≠ 1 → bal = e.bal) ∧
     (g ≠ 0 → e.gmode g ≠ 1 →
       (e.rot.getD g 0 ≤ n ∧ ∀ k, mates k → e.rot.getD g 0 ≤ k → n ≤ k) ∨
       (n < e.rot.getD g 0 ∧ ∀ k, mates k → k < e.rot.getD g 0 ∧ n ≤ k)) ∧
     (g ≠ 0 → e.gmode g = 1 →
       (∀ k, mates k → (e.balOf k).l = 255 → (e.balOf n).l = 255 ∧ n ≤ k) ∧
       ((∀ k, mates k → (e.balOf k).l ≠ 255) → ∀ k, mates k → credit k ≤ credit n ∧ (credit k = credit n → n ≤ k)) ∧
       bal.length = e.bal.length ∧ ∀ k, k < e.bal.length → bal.getD k ⟨8, 0, 0, 0⟩ =
         if k = n then { e.balOf k with c := credit n - Int.ofNat total, l := 0 }
         else if k ∈ e.members g ∧ el k = true then { e.balOf k with c := credit k, l := min ((e.balOf k).l + 1) 255 }
         else e.balOf k)) ∧
  -- a head that breaks the parts of its input, in an element without other broken parts
  (∀ (s : State) (r : ElemRef) (e : Elem) (k m reg : Nat) (h : Tok), elemAct s r e → e.kind = .mxe → e.imode ≠ 1 → e.imode ≠ 2 →
     e.halted = false → k < 4 → e.mxe.parts.getD k (0, 0) = (m, reg) → 0 < m → e.front k = some h →
     let t := e.mxe.treg reg
     (h.isData = true → h.ftag.toNat = t.fmt → e.partBreak k = false) ∧
     (h.isData = false ∨ h.ftag.toNat ≠ t.fmt → (∀ j, j < 4 → j ≠ k → e.partBreak j = false) → reg < 8 → t.st = 2 →
       ∃ s' e' b, exec .escapement s = .next s' ∧ s'.elem? r = some e' ∧ e'.ins = e.ins ∧ e'.brokenAt k = some b ∧
         e'.front k = some b ∧ b.isFault = true ∧ b.causeOf = Cause.bxpart ∧ e'.mxe.parts.getD k (0, 0) = (0, 0) ∧
         e'.mxe.treg reg = { t with fill := t.fill - 8 * m, st := if t.fill - 8 * m = 0 then 1 else 2 } ∧
         ((∀ j, j < k → ∀ y, e.front j = some y → y.isFault = false) → e.faultTested k = false →
           e'.trap = some ⟨Cause.faultUnconsumed, eDetail e.ref.site 0 (Cause.bxpart * 2 ^ 32 + k), none⟩))) ∧
  (∀ (s : State) (r : ElemRef) (g : Nat) (e : Elem), elemActN s r g e →
     let ms := e.members g
     let omax := ms.foldl (fun m n => max m (e.balOf n).o) 0
     ∃ e', setsElem .balanceReweight s r e' ∧ e' = { e with bal := e'.bal, balFired := e'.balFired } ∧
       (∀ n, n < e.bal.length → e'.balOf n =
         if n ∈ ms then
           { e.balOf n with w := if omax = 0 then 8 else 1 + 15 * (e.balOf n).o / omax, c := 0, o := 0 }
         else e.balOf n) ∧
       ∀ k, k < e.balFired.length → e'.balFired.getD k 0 = if k = g then 0 else e.balFired.getD k 0) ∧
  (∀ (s : State) (l : LoadRef) (b : Box) (e : Elem) (k j : Nat) (w : BitVec 16),
     s.actor = .load l → s.boxes = [b] → b.load = l → s.elemAt l b.lt b.site = some e → k < 4 → j < 4 →
     b.words = w :: List.replicate 15 0 → w ≠ 0 → swSource w = 4 + k → swDest w = 4 + j → (b.stage 0).held = none →
     e.ce.checked.getD j false = false →
     let may (t : OutTok) : Prop := t.born < s.clock ∧ t.tok.rid = ridAt b.rids (4 + j) ∧ t.tok.ftag ≠ 15
     let enters (e : Elem) (t : Tok) : Elem := { e with ins := e.ins.modify j (· ++ [t]) }
     let steps (e' : Elem) (x : Stage) : Prop := ∃ s', exec .stageAdvance s = .next s' ∧
       s'.elemAt l b.lt b.site = some e' ∧ s' = { s with elems := s'.elems, boxes := s'.boxes } ∧
       (0 < b.stages.length → ∃ b', s'.box? l b.lt b.site = some b' ∧ b'.stage 0 = x)
     -- no stage
     (∀ t ts, swReg w = false → b.stage 0 = Stage.empty → e.out k = t :: ts → may t → (e.inq j).length < 4 →
       steps { enters e t.tok with outs := e.outs.modify k (List.drop 1) } Stage.empty) ∧
     -- a queue of places: its oldest token leaves where the input has a place, and then the output's token enters
     (∀ t ts, swReg w = true → swMode w ≠ 2 → swMode w ≠ 3 → (b.stage 0).toks = [] → 0 < stageCap w (b.depth.getD 0 0) →
       e.out k = t :: ts → may t → 0 < b.stages.length →
       steps { e with outs := e.outs.modify k (List.drop 1) } { b.stage 0 with toks := [t.tok] }) ∧
     (∀ t ts, swReg w = true → swMode w ≠ 2 → swMode w ≠ 3 → (b.stage 0).toks = t :: ts → e.out k = [] → 0 < b.stages.length →
       ((e.inq j).length < 4 → steps (enters e t) { b.stage 0 with toks := ts }) ∧
       (4 ≤ (e.inq j).length → t.isData = true → steps e (b.stage 0))))

/-- The port of a bank: the head of the cross queue is performed when its slot is free and waits when it is not, with
a reservation after its wait; replies enter DST in order; at the end of the clock the reservations of the next one are
made, and after four held clocks the microprogram reads nothing (R207 to R209, R211 to R214). The clock at which a reply is due
(log
26), and that a reply waits until every earlier one of its DST has entered (log 46), are the model's choice. -/
def Obligations.BankPort : Prop :=
  ∀ (s : State) (r : ElemRef) (e : Elem), s.elem? r = some e → swf BWord.zero e.spe.bank = true →
    let p := e.spe
    let bit (x : Nat) : Nat := 2 ^ (x % 8)
    (s.actor = .elem r →
      (∀ q rest, p.crossIn = q :: rest → q.due ≤ s.clock →
        (p.crossFree q = true → setHas p.bad q.word = false →
          (q.op.writes = false → (p.read q.word).res = residue (p.read q.word).val) → ∃ s' e',
          exec .crossRequest s = .next s' ∧
          s'.elem? r = some e' ∧ e'.spe.crossIn = rest ∧ e'.spe.headWait = 0 ∧
          (q.op = .rd → ∀ x, e'.spe.now x = p.now x) ∧
          (q.op = .wr → ∀ x, e'.spe.now x = if x = q.word then ⟨q.val, q.tag, q.res, (p.read x).pres⟩ else p.now x) ∧
          (q.op = .wrP → (p.read q.word).pres = false →
            ∀ x, e'.spe.now x = if x = q.word then ⟨q.val, q.tag, q.res, true⟩ else p.now x) ∧
          (q.op = .wrP → (p.read q.word).pres = true → ∀ x, e'.spe.now x = p.now x) ∧
          (∀ e0 c, q.src ≠ r → s.elem? q.src = some e0 →
            (e0.spe.owed.find? fun c => decide (c.cell = q.cell)) = some c → c.dst ≠ 15 →
            q.op = .rd ∨ (q.op = .rdP ∧ (p.read q.word).pres = true) →
            ∃ e1 c', s'.elem? q.src = some e1 ∧
              (e1.spe.owed.find? fun c => decide (c.cell = q.cell)) = some c' ∧
              c'.reply = some ((p.read q.word).tok c.ctag) ∧ c'.due = s.clock + crossHalf s r q.src)) ∧
        (p.crossFree q = false → ∃ b, setsElem .crossRequest s r
          { e with spe := { p with headWait := p.headWait + 1, blocked := b } })) ∧
      (∀ q rest, p.crossIn = q :: rest →
        (q.op.writes = false → setsElem .crossReservation s r
          { e with spe := { p with resv := { p.resv with xRead := bit q.word } } }) ∧
        (q.op.writes = true → (∀ w, p.mp.write = some w → w.word % 8 ≠ q.word % 8) → setsElem .crossReservation s r
          { e with spe := { p with resv := { p.resv with xWrite := bit q.word } } })) ∧
      setsElem .yieldClock s r { e with spe := { p with wait := 4 } } ∧
      (∃ e', setsElem .bankClock s r e' ∧ e'.spe.old = [] ∧ e'.spe.used = Resv.none ∧ e'.spe.bank = p.bank ∧
        (4 ≤ p.wait → e'.spe.resv.mpRead = 0 ∧ e'.spe.wait = 0) ∧
        (p.wait < 4 → e'.spe.wait = p.wait + boolN p.blocked) ∧
        (p.mp.write = none → mpOp p.mp.desc ≠ 2 → e'.spe.resv.mpWrite = 0) ∧
        (∀ w, p.mp.write = some w → mpOp p.mp.desc ≠ 2 ∨ p.mp.phase ≠ .read → e'.spe.resv.mpWrite = bit w.word) ∧
        -- the first sum is written once the last row of the sums has been read
        (e.halted = false → s.tileTraps e = false → p.mp.st = 1 → mpOp p.mp.desc = 2 →
          p.mp.row = mpRows p.mp.desc → p.mp.phase = .read → e'.spe.resv.mpWrite = bit (mpDst p.mp.desc) ∧
          ∃ w, e'.spe.mp.write = some w ∧ w.word = mpDst p.mp.desc ∧ w.val.val = p.mp.acc.getD 0 0))) ∧
    (∀ n c t, s.actor = .elemN r n → (p.owed.find? fun c => decide (c.cell = n)) = some c → c.reply = some t →
      c.due ≤ s.clock → p.crossTurn c = true → c.fault = none → e.spaceFor c.dst = true →
      ∃ e', setsElem .crossReply s r e' ∧ putsTok s e c.dst t
        { e with spe := { p with owed := p.owed.filter (fun c => decide (c.cell ≠ n)), credits := p.credits + 1 } } e') ∧
    (∀ d t, s.actor = .elemN r d → (p.replies.find? fun x => decide (x.1 = d)) = some (d, t) → e.spaceFor d = true →
      ∃ e', setsElem .deferredReply s r e' ∧ putsTok s e d t
        { e with spe := { p with replies := p.replies.eraseP fun x => decide (x.1 = d) } } e')

/-- The array takes the accepted firing when the last clock of the one before is over, with the operands as it read
them; its results enter the accumulator four clocks after its last: for TMMA each word of the product's rows and
columns takes, chunk by chunk of 32 elements of K, the exact sum of the chunk's products, rounded to F32 or to the
nearest integer (R102 to R104), for TACC the register's word (R236, R239); the other words stay, and so does a POISON
accumulator. The drain port places one token in a clock, from its accumulator as it stands (the model's choice, log
81): a poisoned drain one FAULT token, an empty one one END1 (R233, R237 to R239). -/
def Obligations.ArrayAndDrain : Prop :=
  ∀ (s : State) (r : ElemRef) (e : Elem), elemAct s r e →
    let x := e.mxe
    let sets (i : Instr) (y : MxeState) : Prop := setsElem i s r { e with mxe := y }
    (∀ j, x.run = some j → j.start + j.b - 1 ≤ s.clock →
      let regs := j.ta :: j.tb.toList
      let err := regs.any (fun t => x.badT.contains t) || x.badA.contains j.acc
      let j' := { j with
        ops := regs.map x.treg, poison := if j.poison = none ∧ err = true then some Cause.uncorrectable else j.poison }
      ∃ s', exec .arrayStart s = .next s' ∧ s'.elem? r = some { e with mxe := { x with
          ending := x.ending ++ [j'], run := x.next.map fun n => { n with start := s.clock + 1 }, next := none } } ∧
        s' = { s with elems := s'.elems, selog := s'.selog, selogLost := s'.selogLost } ∧
        (j'.poison = j.poison → s'.selog = s.selog ∧ s'.selogLost = s.selogLost) ∧
        ∀ r', r' ≠ r → s'.elem? r' = s.elem? r') ∧
    (∀ j, x.run = some j → s.clock < j.start + j.b - 1 → exec .arrayStart s = .next s) ∧
    (∀ j rest, x.ending = j :: rest → j.start + j.b - 1 + 4 ≤ s.clock → ∃ a,
      let a0 := x.acc j.acc
      sets .arrayComplete { x.setA j.acc a with ending := rest } ∧
      (a0.st = 3 → a = a0) ∧
      (∀ c, a0.st ≠ 3 → j.poison = some c → a = { a0 with st := 3, cause := c }) ∧
      (∀ ta tb, a0.st ≠ 3 → j.poison = none → j.ops = [ta, tb] →
        a = { a0 with words := a.words, st := 1, m := max a0.m ta.rows, n := max a0.n tb.rows } ∧
        (swf 0 a0.words = true → ta.rows ≤ 32 → tb.rows ≤ 32 → ∀ p q, p < 32 → q < 32 →
          let was := sget 0 a0.words (32 * p + q)
          let chunk (i : Nat) : FVal := FVal.sumList (List.zipWith FVal.mul
            (((ta.row p).drop (32 * i)).take 32) (((tb.row q).drop (32 * i)).take 32))
          sget 0 a.words (32 * p + q) =
            if p < ta.rows ∧ q < tb.rows then
              (List.range (ceilDiv ta.k 32)).foldl (fun w i =>
                if a0.kind then satS 32 (sgn 32 w + roundTieUp (chunk i)) else addF32 w (rneF32 (chunk i))) was
            else was)) ∧
      (∀ t, a0.st ≠ 3 → j.poison = none → j.ops = [t] →
        a = { a0 with words := a.words, st := 1, m := max a0.m t.rows, n := max a0.n (t.cb / 4) } ∧
        (swf 0 a0.words = true → t.rows ≤ 32 → t.cb / 4 ≤ 32 → ∀ p q, p < 32 → q < 32 →
          let was := sget 0 a0.words (32 * p + q)
          let v := t.bytes (p * t.cb + 4 * q) 4
          sget 0 a.words (32 * p + q) =
            if p < t.rows ∧ q < t.cb / 4 then (if a0.kind then satS 32 (sgn 32 was + sgn 32 v) else addF32 was v)
            else was))) ∧
    (∀ j rest, x.ending = j :: rest → s.clock < j.start + j.b - 1 + 4 → exec .arrayComplete s = .next s) ∧
    (∀ d, x.drain = some d → s.clock < d.start ∨ e.spaceFor d.dst = false → exec .drainPortToken s = .next s) ∧
    (∀ d, x.drain = some d → d.start ≤ s.clock → e.spaceFor d.dst = true →
      let a := x.acc d.acc
      let mx (y : MxeState) : Elem := { e with mxe := y }
      let gone : MxeState := { x with drain := none }
      let cleared : MxeState := gone.setA d.acc (Acc.cleared a.kind)
      let puts (t : Tok) (e1 : Elem) : Prop := ∃ e', setsElem .drainPortToken s r e' ∧ putsTok s e d.dst t e1 e'
      (x.badA.contains d.acc = true → a.st ≠ 3 → ∃ s' e', exec .drainPortToken s = .next s' ∧ s'.elem? r = some e' ∧
        putsTok s e d.dst (faultTok Cause.uncorrectable d.acc) (mx cleared) e') ∧
      (x.badA.contains d.acc = false →
        (a.st = 3 → puts (faultTok a.cause d.acc) (mx cleared)) ∧
        (a.st ≠ 3 → a.m = 0 → puts (endTok 1) (mx (if d.clr then cleared else gone))) ∧
        (a.st ≠ 3 → a.m ≠ 0 → d.rowTokens a ≤ d.pos → d.row + 1 < a.m →
          puts (endTok 0) (mx { x with drain := some { d with row := d.row + 1, pos := 0 } })) ∧
        (a.st ≠ 3 → a.m ≠ 0 → d.rowTokens a ≤ d.pos → a.m ≤ d.row + 1 →
          puts (endTok 1) (mx (if d.clr then cleared else gone))) ∧
        (a.st ≠ 3 → a.m ≠ 0 → d.pos < d.rowTokens a → puts (d.valueTok a e)
          { mx { x with drain := some { d with pos := d.pos + 1 } } with
            step := if d.rounds a && e.isSr then (e.step + 1) % 2 ^ 32 else e.step })))

/-! ### Events of the memory ports and the memory edges -/

/-- A load or a store whose checks pass leaves its port as one access of the word that the translation gives, and one
whose checks fail issues none; a generator does the same for the next address of its nest, takes a read credit and
moves on (R258, R275, R276, R278, R282). A refresh window begins: reads held on the group before it go on (R269). A
reply that has arrived enters the outputs of DST with its group's token, in order (R275). The row of a gather is
delivered to its requester and its entry is free (R175). -/
def Obligations.PortIssuesAndReplies : Prop :=
  (∀ (s : State) (r : ElemRef) (n : Nat) (e : Elem), elemActN s r n e →
     let sent (i : Instr) (op : MemOp) (a : Word) (c : Checked) (s' : State) : Prop := exec i s = .next s' ∧
       s'.mem = s.mem ∧ s'.presence = s.presence ∧
       (c.cause ≠ 0 → s'.accs = s.accs) ∧
       (c.cause = 0 → ∃ w, s'.accs = s.accs ++ [w] ∧ w.ref = r ∧ w.op = op ∧ w.pa = c.pa ∧ w.va = opVa a ∧
         w.cls = c.run.cls ∧ w.fmt = c.run.fmt ∧ w.slot = opSlot a ∧ s.clock ≤ w.due ∧ w.deferred = false)
     (∀ i, (e.mpe.issueQ.find? fun i => decide (i.gid = n)) = some i → i.born < s.clock →
       let left (s' : State) : Prop := ∃ e', s'.elem? r = some e' ∧
         e'.mpe.issueQ = e.mpe.issueQ.filter fun x => decide (x.gid ≠ n)
       (i.op = .ld → ∃ s', sent .accessIssue .read i.a (s.check r.load i.a (needRead 8)) s' ∧ left s') ∧
       (i.op = .st ∨ i.op = .sto → ∃ s', sent .accessIssue (.write i.b) i.a (s.check r.load i.a needWrite) s' ∧ left s')) ∧
     (let g := e.mpe.gen n
      n < 2 → e.mpe.ag.length = 2 → g.st = 1 → g.more = true → g.born < s.clock → 0 < e.mpe.rdCred →
       let c := s.check r.load g.addr (needRead (s.fibreRange r.load g))
       ∃ s' e', sent .addressGeneratorIssue .read g.addr c s' ∧ s'.elem? r = some e' ∧ e'.mpe.rdCred = e.mpe.rdCred - 1 ∧
         e'.mpe.gen n = { g.step.1 with more := c.cause == 0 && decide (g.step.2 ≠ g.nl) })) ∧
  ((∀ (s : State), ∃ s', exec .weightRefreshWindow s = .next s' ∧ s' = { s with accs := s'.accs } ∧
     s'.accs.length = s.accs.length ∧ ∀ (k : Nat) (w : Access), s.accs[k]? = some w →
       s'.accs[k]? = some (if w.held = true ∧ refreshing s.clock w.pa = false then { w with held := false } else w)) ∧
   (∀ (s : State) (r : ElemRef) (gid : Nat) (e : Elem) (g : RGroup) (c : Cell) (cs : List Cell) (t : Tok),
     elemActN s r gid e → e.mpe.group? gid = some g → g.cells = c :: cs → c.r = .tok t → c.due ≤ s.clock →
     g.op ≠ .fence → g.op ≠ .rld → e.spaceFor g.dst = true →
     ∃ s' e', exec .memoryReply s = .next s' ∧ s'.elem? r = some e' ∧
       (∀ k, k < 4 → e'.out k = e.out k ++
         if (outsOf g.dst).contains k = true then [⟨{ t with rid := s.outRid e k }, s.clock⟩] else []) ∧
       (cs = [] → g.op ≠ .astrm → e'.mpe.group? gid = if g.opened then some { g with cells := [], pred := none } else none) ∧
       e' = { e with outs := e'.outs, mpe := e'.mpe, p := e'.p }) ∧
   (∀ (s : State) (d n : Nat) (x : Die) (g : GdeEntry) (q : GReq), s.actor = .dieN d n → s.die? d = some x →
     (x.gde.find? fun g => decide (g.id = n)) = some g → g.got.all RWord.isFixed = true → g.reqs = [q] →
     x.gdeWait = [] →
     ∃ s', exec .gdeDelivery s = .next s' ∧ s'.elems = (s.deliverRow g q).elems ∧
       s'.die? d = some { x with gde := x.gde.filter fun z => decide (z.id ≠ n) } ∧
       (g.cause = 0 → ∀ e m k v, s.elem? q.ref = some e → e.mpe.group? q.gid = some m → q.cells = [k] →
         g.got = [.fixed v] → m.op ≠ .rld → (∀ c ∈ m.cells, c.id = k → c.r = .wait) → ∃ e' m', s'.elem? q.ref = some e' ∧
           e'.mpe.group? q.gid = some m' ∧ ∀ c ∈ m'.cells, c.id = k → c.r = .tok (dataTok (BitVec.ofNat 4 q.fmt) v))))

/-- An access at its home, which the step performs: a DENSE or present word is read, and the reply carries the value that its
issuer obtains, which is the word where no write of its scope is in flight; a word of a PRESENCE page that is not present
is not read but deferred; a store to a present one is not performed; a store of half a word keeps the other half; a clear
makes the word absent; a word of the task records of the engine or of its queues is not written; every other byte stays
(R248, R266, R267, R269, R275, R339). An atomic at its home, one in a clock: the word takes the new value or, where a compare
fails, stays; every other byte stays; its replies are the old word and an ORDER token; and the new values are those of the
instruction, lane by lane for AADD, AMIN, AMAX and AFADD, and for ACAS in the half that its form names (R353, R355). What an
issuer obtains of writes in flight (log 4), and that a write of part of a word with an error fails (log 96), is the model's
choice. -/
def Obligations.AccessesAtHome : Prop :=
  (∀ (s : State) (n : Nat) (w : Access), s.actor = .id n → s.acc? n = some w → Memory.wf s.mem = true →
     w.deferred = false → w.held = false → w.due ≤ s.clock →
     s.ofWld w = true ∨ s.sbHeld (wordOf w.pa) 8 w.op.isWrite = false →
     (w.op = .read → s.readHeld w.obs w.pa = false) →
     let does (s' : State) : Prop := exec .memoryEdgeAccess s = .next s'
     -- a plain RST that fails writes the ERR of its task (R410)
     let plain : Prop := (s.group? w.ref w.gid).map (·.op) ≠ some .rst
     (w.op = .read → refreshing s.clock w.pa = false → s.isBad w.pa = false →
       (w.cls ≠ 1 ∨ s.present w.pa = true →
         does (s.accReply w (.tok (dataTok (BitVec.ofNat 4 w.fmt) (s.valueFor w.obs w.pa)))) ∧
         (s.seenWrites w.obs w.pa = [] → w.pa % 8 = 0 → s.valueFor w.obs w.pa = s.word w.pa)) ∧
       (w.cls = 1 → s.present w.pa = false → s.deferred (stackOf w.pa) < 2048 → ∃ s', does s' ∧
         s'.mem = s.mem ∧ s'.elems = s.elems ∧ { w with deferred := true } ∈ s'.accs)) ∧
     (w.op = .read → refreshing s.clock w.pa = false → s.isBad w.pa = true → plain → ∃ s', does s' ∧ s'.acc? n = none ∧
       s'.mem = s.mem ∧ s'.presence = s.presence) ∧
     (w.op = .read → refreshing s.clock w.pa = true → ∃ s', does s' ∧ s'.mem = s.mem ∧ s'.elems = s.elems ∧
       s'.acc? n = some { w with held := true }) ∧
     (∀ v, w.op = .write v → ∃ s', does s' ∧ s'.acc? n = none ∧
       (s.storeCause w.pa = 0 → w.cls ≠ 1 ∨ s.present w.pa = false →
         s'.word w.pa = v ∧ onlyBytes s s' w.pa 8 ∧ (s'.presence = if w.cls = 1 then setAdd s.presence w.pa else s.presence)) ∧
       (s.storeCause w.pa ≠ 0 ∨ (w.cls = 1 ∧ s.present w.pa = true) → plain → s'.mem = s.mem ∧ s'.presence = s.presence)) ∧
     (∀ v, w.op = .write32 v → w.pa % 4 = 0 → ∃ s', does s' ∧ s'.acc? n = none ∧
       let a := wordOf w.pa
       (s.storeCause a = 0 → s.isBad a = false → w.cls ≠ 1 ∨ s.present a = false →
         s'.readN w.pa 4 = v.toNat ∧ onlyBytes s s' w.pa 4 ∧
         (s'.presence = if w.cls = 1 then setAdd s.presence a else s.presence)) ∧
       (s.storeCause a ≠ 0 ∨ s.isBad a = true ∨ (w.cls = 1 ∧ s.present a = true) → plain →
         s'.mem = s.mem ∧ s'.presence = s.presence)) ∧
     (w.op = .clear → ∃ s', does s' ∧ s'.acc? n = none ∧
       (s.storeCause w.pa = 0 → s'.word w.pa = 0 ∧ onlyBytes s s' w.pa 8 ∧ s'.presence = setDel s.presence w.pa) ∧
       (s.storeCause w.pa ≠ 0 → plain → s'.mem = s.mem ∧ s'.presence = s.presence))) ∧
  (∀ (s : State) (n : Nat) (w : Access) (op : MOp) (lane : Nat) (b : Word), s.actor = .id n → s.acc? n = some w →
     w.op = .atomic op lane b → Memory.wf s.mem = true → w.due ≤ s.clock → s.opBusy (homeDie w.pa) = false →
     s.sbHeld w.pa 8 true = false → s.reached w.obs w.pa = [] →
     let x := atomicNew op lane (s.word w.pa) b
     ∃ s', exec .atomicPerform s = .next s' ∧ s'.acc? n = none ∧ s'.presence = s.presence ∧
       (s.isBad w.pa = true ∨ x.1 = none ∨ s.storeCause w.pa ≠ 0 → s'.mem = s.mem) ∧
       (∀ v, s.isBad w.pa = false → x.1 = some v → s.storeCause w.pa = 0 → s'.word w.pa = v ∧ onlyBytes s s' w.pa 8) ∧
       (∀ g c, s.isBad w.pa = false → x.1 = none ∨ s.storeCause w.pa = 0 → s.group? w.ref w.gid = some g → g.cells = [c] →
         c.id = w.cell → g.dst ≠ 15 → ∃ g' k, s'.group? w.ref w.gid = some g' ∧ g'.opened = false ∧ g'.outc = x.2 ∧
           g'.cells = [{ c with r := .tok (dataTok (BitVec.ofNat 4 w.fmt) (s.word w.pa)), due := s.clock + w.back },
             ⟨k, .tok (orderTok 3), 3, s.clock + w.back⟩])) ∧
  -- the new values
  (∀ (x b : Word) (l : Fin 4),
     let w := laneW (BitVec.ofNat 2 l.val)
     -- lane k of what op makes is lane k of f, and the outcome is that of the old word
     let makes (op : MOp) (f : Nat → Nat) : Prop := ∃ v, atomicNew op l.val x b = (some v, x != 0) ∧
       ∀ k, k < 64 / w → laneN w k v = f k
     makes .aadd (fun k => (laneN w k x + laneN w k b) % 2 ^ w) ∧
     makes .amin (fun k => if sgn w (laneN w k x) ≤ sgn w (laneN w k b) then laneN w k x else laneN w k b) ∧
     makes .amax (fun k => if sgn w (laneN w k b) ≤ sgn w (laneN w k x) then laneN w k x else laneN w k b) ∧
     atomicNew .axch l.val x b = (some b, x != 0) ∧ atomicNew .aand l.val x b = (some (x &&& b), x != 0) ∧
     atomicNew .aor l.val x b = (some (x ||| b), x != 0)) ∧
  (∀ x b : Word,
     (∃ v, atomicNew .afadd 0 x b = (some v, x != 0) ∧ ∀ k, k < 2 → laneN 32 k v =
       rneF32 (FVal.add .rne (fF32.dec (laneN 32 k x)) (fF32.dec (laneN 32 k b))) % 2 ^ 32) ∧
     -- ACAS.lo is LANE 01, ACAS.hi is LANE 10 (R352)
     (fld x 0 32 = fld b 0 32 → ∃ v, atomicNew .acas 1 x b = (some v, true) ∧ fld v 0 32 = fld b 32 32 ∧
       fld v 32 32 = fld x 32 32) ∧
     (fld x 0 32 ≠ fld b 0 32 → atomicNew .acas 1 x b = (none, false)) ∧
     (fld x 32 32 = fld b 0 32 → ∃ v, atomicNew .acas 2 x b = (some v, true) ∧ fld v 32 32 = fld b 32 32 ∧
       fld v 0 32 = fld x 0 32) ∧
     (fld x 32 32 ≠ fld b 0 32 → atomicNew .acas 2 x b = (none, false)))

/-! ### Events of the synchronisation engine and the task scheduler -/

/-- Task records: a decrement that arrives lowers DEP, and at zero the record becomes READY, or DONE when COUNT is 0;
one for a record that waits for none is dropped and counted. A request arrives at the admission queue or finds it
full; TKEN at its point answers NOTREC, BADSTATE, BADREC with the offset, or admits the record; TKDEC lowers DEP, tkdec.ret
PEND, TKST reads, re-enters or abandons the record, QPUT appends to the entry's queue and raises PEND, and each answers its
status (that a tkdec.ret which would leave PEND below the commands bound to the task retires nothing is the model's choice,
log 102). A task whose PEND is 0
and whose accesses are performed leaves its slot, DONE or ABANDONED by ERR, while its load runs or drains (R336, R339 to
R342, R349, R356 to R360). -/
def Obligations.TaskRecords : Prop :=
  ∀ (s : State), Memory.wf s.mem = true → (∀ x ∈ s.dies, setWf x.owned = true) →
    (∀ n d a x, s.actor = .id n → (s.decs.find? fun d => decide (d.id = n)) = some d → s.recAddr d.handle = some a →
      s.die? (handleDie d.handle) = some x → s.recBad d.handle = false → d.err = 0 →
      s.opBusy (handleDie d.handle) = false →
      let h := d.handle
      let decs := s.decs.filter fun x => decide (x.id ≠ n)
      (s.recState h = 1 ∨ s.recState h = 6 → 1 < s.trDep h → ∃ s', exec .depDecrement s = .next s' ∧
        s'.trDep h = s.trDep h - 1 ∧ s'.recState h = s.recState h ∧ onlyBytes s s' (a + 8) 8 ∧ s'.decs = decs) ∧
      (s.recState h = 1 → s.trDep h = 1 → s.trErr h = 0 → s.trCount h ≠ 0 → ∃ s' y, exec .depDecrement s = .next s' ∧
        s'.trDep h = 0 ∧ s'.trState h = 2 ∧ s'.die? (handleDie h) = some y ∧
        y.ready = x.ready ++ [s.readyEnt h] ∧ (s.readyEnt h).handle = h ∧ (s.readyEnt h).since = s.clock ∧
        (s.readyEnt h).prio = s.trPrio h ∧ s'.decs = decs) ∧
      (s.recState h = 1 → s.trDep h = 1 → s.trErr h = 0 → s.trCount h = 0 → (∀ k, k < 4 → handleIdx (s.trSucc h k) = 0) →
        ∃ s', exec .depDecrement s = .next s' ∧ s'.trState h = 5 ∧ s'.trPend h = 0 ∧ s'.ownsH h = false ∧ s'.decs = decs) ∧
      (s.recState h ≠ 1 → s.recState h ≠ 6 → ∃ s', exec .depDecrement s = .next s' ∧ s'.mem = s.mem ∧ s'.decs = decs ∧
        bitAt s'.dv.syestat 0 = true ∧ fld s'.dv.syestat 32 32 = h % 2 ^ 32 ∧
        fld s'.dv.syestat 16 16 = min 0xFFFF (fld s.dv.syestat 16 16 + 1))) ∧
    (∀ d n x q, s.actor = .dieN d n → s.die? d = some x → (x.adm.find? fun q => decide (q.id = n)) = some q →
      q.queued = false → q.due ≤ s.clock →
      let rest := x.adm.filter fun y => decide (y.id ≠ n)
      ((x.adm.filter fun y => y.queued).length < 256 → ∃ s', exec .admissionRequest s = .next s' ∧
        s'.die? d = some { x with adm := rest ++ [{ q with queued := true }] } ∧ s' = { s with dies := s'.dies }) ∧
      (256 ≤ (x.adm.filter fun y => y.queued).length → ∃ s0 : State,
        exec .admissionRequest s = .next (s0.admAnswer q 1 256) ∧
        s0.die? d = some { x with adm := rest } ∧ s0 = { s with dies := s0.dies })) ∧
    (∀ d x q, s.actor = .die d → s.die? d = some x → (x.adm.find? fun q => q.queued) = some q → x.admFree ≤ s.clock →
      q.op = .tken →
      let h := q.handle
      let rest := x.adm.filter fun y => decide (y.id ≠ q.id)
      -- the state that the request finds, its answer and the state it leaves
      let answers (code info : Nat) (g : State → State → Prop) : Prop := ∃ s0 s1 : State,
        exec .admissionRequest s = .next (s1.admAnswer q code info) ∧ g s0 s1 ∧ s0 = { s with dies := s0.dies } ∧
        s0.die? d = some { x with adm := rest, admFree := s.clock + 2 }
      (s.recAddr h = none → answers 3 h fun s0 s1 => s1 = s0) ∧
      (∀ a, s.recAddr h = some a →
        (s.ownsH h = true → answers 2 (s.trState h) fun s0 s1 => s1 = s0) ∧
        (s.ownsH h = false → s.recBad h = false →
          (∀ o, s.recBreach h = some o → answers 4 o fun s0 s1 => s1 = s0) ∧
          (s.recBreach h = none → s.trDep h ≠ 0 → (s.die? (handleDie h)).isSome = true →
            answers 0 1 fun _ s1 => s1.trState h = 1 ∧ s1.trErr h = 0 ∧ s1.ownsH h = true) ∧
          (s.recBreach h = none → s.trDep h = 0 → s.trCount h ≠ 0 → (s.die? (handleDie h)).isSome = true →
            answers 0 2 fun _ s1 => s1.trState h = 2 ∧ s1.trErr h = 0 ∧ s1.ownsH h = true)))) ∧
    -- TKDEC, tkdec.ret, QPUT and TKST at their point
    (∀ d x q, s.actor = .die d → s.die? d = some x → (x.adm.find? fun q => q.queued) = some q → x.admFree ≤ s.clock →
      let h := q.handle
      let k := q.k
      let at_ (s0 : State) : Prop := s0 = { s with dies := s0.dies } ∧
        s0.die? d = some { x with adm := x.adm.filter fun y => decide (y.id ≠ q.id), admFree := s.clock + 2 }
      let answers (code info : Nat) (g : State → State → Prop) : Prop := ∃ s0 s1 : State,
        exec .admissionRequest s = .next (s1.admAnswer q code info) ∧ at_ s0 ∧ g s0 s1
      let same (s0 s1 : State) : Prop := s1 = s0
      -- the change of DEP or PEND alone, in the word at 8 of the record at a
      let only (a : Nat) (f : State → Nat) (v : Nat) (s0 s1 : State) : Prop := f s1 = v ∧ onlyBytes s0 s1 (a + 8) 8
      let live : Prop := s.recState h = 1 ∨ s.recState h = 6
      (q.op ≠ .tkdecRet → q.op ≠ .qput → s.recAddr h = none → answers 3 h same) ∧
      (∀ a, q.op = .tkdec → s.recAddr h = some a →
        (¬ live → answers 2 (s.trState h) fun s0 s1 => s1 = { s0 with dv := s1.dv } ∧ bitAt s1.dv.syestat 0 = true ∧
          fld s1.dv.syestat 32 32 = h % 2 ^ 32 ∧
          fld s1.dv.syestat 16 16 = min 0xFFFF (fld s.dv.syestat 16 16 + 1)) ∧
        (live → s.recBad h = false →
          (s.trDep h < k → answers 4 0x0C fun s0 s1 => s1.trDep h = s.trDep h ∧ s1.trState h = s.trState h ∧
            s1.trErr h = (if s.trErr h = 0 then Cause.depUnderflow else s.trErr h) ∧ onlyBytes s0 s1 a 8) ∧
          (k ≤ s.trDep h → s.recState h = 6 ∨ k ≠ s.trDep h → answers 0 (s.trDep h - k) (only a (·.trDep h) (s.trDep h - k))) ∧
          (s.recState h = 1 → k = s.trDep h → (s.die? (handleDie h)).isSome = true →
            (s.trErr h = 0 → s.trCount h ≠ 0 → answers 0 0 fun _ s1 => s1.trDep h = 0 ∧ s1.trState h = 2) ∧
            (s.trErr h = 0 → s.trCount h = 0 → answers 0 0 fun _ s1 => s1.trDep h = 0 ∧ s1.trState h = 5) ∧
            (s.trErr h ≠ 0 → answers 0 0 fun _ s1 => s1.trDep h = 0 ∧ s1.trState h = 7 ∧ s1.trErr h = s.trErr h)))) ∧
      (∀ a, s.recAddr h = some a →
        (q.op = .tkst → answers 0 (s.trState h * 2 ^ 44 + s.trDep h) same) ∧
        (q.op = .tkstClr → (s.recState h ≠ 6 → answers 2 (s.trState h) same) ∧
          (s.recState h = 6 → s.recBad h = false → (s.die? (handleDie h)).isSome = true →
            (s.trDep h ≠ 0 → answers 0 1 fun _ s1 => s1.trErr h = 0 ∧ s1.trState h = 1) ∧
            (s.trDep h = 0 → s.trCount h ≠ 0 → answers 0 2 fun _ s1 => s1.trErr h = 0 ∧ s1.trState h = 2) ∧
            (s.trDep h = 0 → s.trCount h = 0 → answers 0 5 fun _ s1 => s1.trErr h = 0 ∧ s1.trState h = 5))) ∧
        (q.op = .tkstAbn → (¬ live → answers 2 (s.trState h) same) ∧ (live → answers 0 7 fun _ s1 =>
          s1.trState h = 7 ∧ s1.trErr h = (if s.trErr h = 0 then Cause.abandoned else s.trErr h)))) ∧
      (∀ r gid cell, q.op = .tkdecRet ∨ q.op = .qput → q.who = .mpe r gid cell → s.slotTask r.load (opSlot q.payload) = none →
        ∃ s0 : State, exec .admissionRequest s = .next (s0.admFault q Cause.noslot) ∧ at_ s0) ∧
      (∀ r gid cell t a, q.who = .mpe r gid cell → s.slotTask r.load (opSlot q.payload) = some t → s.recAddr t.handle = some a →
        let p := s.trPend t.handle
        (q.op = .tkdecRet → (p < k → answers 4 8 fun _ s1 => s1.trErr t.handle = Cause.retireUnderflow ∧ s1.trPend t.handle = 0) ∧
          (k ≤ p → p < k + s.bound t.handle → answers 4 8 same) ∧
          (k + s.bound t.handle ≤ p → answers 0 (p - k) (only a (·.trPend t.handle) (p - k)))) ∧
        (∀ y z, q.op = .qput → s.load? r.load = some y → y.entries[k]? = some z →
          let b := ringAddr r.load.die r.load.fab k (z.head + z.count)
          (512 ≤ z.count → answers 1 512 same) ∧
          (z.count < 512 → b + 8 ≤ a ∨ a + 128 ≤ b → answers 0 (z.count + 1) fun _ s1 =>
            s1.trPend t.handle = (p + 1) % 2 ^ 32 ∧ s1.word b = q.payload ∧ ∃ y', s1.load? r.load = some y' ∧
              y' = { y with entries := y'.entries } ∧ y'.entries[k]? = some { z with count := z.count + 1 })))) ∧
    (∀ l k x t a, s.actor = .loadN l k → s.load? l = some x → x.phase = .resident ∨ x.phase = .draining →
      x.slots.getD k none = some t → s.trPend t.handle = 0 → s.slotDrained l k = true → s.undisposed l t.dispAt = false →
      s.vote? t.handle = none → s.recAddr t.handle = some a → s.recBad t.handle = false →
      ∃ s' y, exec .taskCompletion s = .next s' ∧ s'.load? l = some y ∧ y = { x with slots := x.slots.set k none } ∧
        s'.ownsH t.handle = false ∧ s'.trState t.handle = (if s.trErr t.handle = 0 then 5 else 7))

/-- The task scheduler: a chosen task begins its dispatch, and when its clocks are over and nothing holds it, it takes
its slot and is RUNNING with PEND = COUNT, or completes with the cause of a window that cannot be copied; payloads are written to
the ring in turn, fetched eight at a time 30 clocks
later, and enter the entry output; the configuration chosen goes to sq.CSREQ with the CSREQ event (R272, R345, R346,
R350, R351). -/
def Obligations.TaskScheduling : Prop :=
  ∀ (s : State), Memory.wf s.mem = true →
    (∀ n d, s.actor = .die n → s.die? n = some d →
      (∀ r x, d.disp = none → s.chooseTask d = some (r, x) → handleDie r.handle = n → s.recBad r.handle = false →
        s.trEntry r.handle < x.entries.length → (s.windows r.handle (s.translate r.handle)).1.cause = 0 →
        (∀ q ∈ (s.windows r.handle (s.translate r.handle)).1.runs, q.p = true → q.pkg = s.ownPkg) →
        ∃ s' y p, exec .dispatch s = .next s' ∧ s'.mem = s.mem ∧ s'.die? n = some y ∧ y.disp = some p ∧
          y.ready = (d.ready.filter fun z => decide (z.handle ≠ r.handle)) ∧ p.handle = r.handle ∧ p.load = x.ref ∧
          p.slot = x.freeSlot.getD 0 ∧ p.probes = [] ∧
          s.clock + 40 + 4 * (s.windows r.handle (s.translate r.handle)).1.runs.length ≤ p.due) ∧
      (∀ p x a, d.disp = some p → p.due ≤ s.clock → p.probes = [] → s.weightHeld p.x = false → s.load? p.load = some x →
        x.phase = .resident → x.slots.getD p.slot none = none → p.slot < x.slots.length → s.vote? p.handle = none →
        s.recAddr p.handle = some a → (s.windows p.handle ⟨[], 0, [], s.freeCount, 0⟩).1.cause = 0 →
        ∃ s' y z, exec .dispatch s = .next s' ∧ s'.die? n = some y ∧ y.disp = none ∧
          s'.load? p.load = some z ∧ (∃ t, z.slots.getD p.slot none = some t ∧
            t = { p.x with steps := t.steps, dispAt := s.clock }) ∧
          s'.trState p.handle = 3 ∧ s'.trPend p.handle = s.trCount p.handle) ∧
      (∀ p c, d.disp = some p → p.due ≤ s.clock → p.probes = [] → s.weightHeld p.x = false → (s.load? p.load).isSome = true →
        (∀ x, s.load? p.load = some x → x.phase = .resident ∧ x.slots.getD p.slot none = none) →
        (s.windows p.handle ⟨[], 0, [], s.freeCount, 0⟩).1.cause = c → c ≠ 0 → c ≠ Cause.uncorrectable →
        ∃ s0 : State, exec .dispatch s = .next (s0.abandonRec p.handle c) ∧ s0 = { s with dies := s0.dies } ∧
          s0.die? n = some { d with disp := none }) ∧
      -- a choice falls due at a new candidate, at the end of an install or a retirement, and after 256 clocks
      (s.choiceDue d = true ↔ d.csDue = true ∨ d.csAt + 256 ≤ s.clock ∨ ∃ c ∈ s.candidates d, c ∉ d.cands) ∧
      (d.inst = none → s.choiceDue d = true → ∀ k, s.chooseConfig d = some k → ∃ s' y,
        exec .configurationChoice s = .next s' ∧ s'.die? n = some y ∧ y.csreq = k.cfgid ∧ y.csDue = false ∧
        y.csAt = s.clock ∧ y.cands = s.candidates d ∧ s'.mem = s.mem ∧
        ∀ t q, s.installer n = some t → s.seq? t = some q → s'.seq? t = some { q with evpend := q.evpend ||| 1 }) ∧
      (d.inst ≠ none ∨ s.choiceDue d = false → ∃ s', exec .configurationChoice s = .next s' ∧
        s'.die? n = some { d with cands := s.candidates d, csDue := s.choiceDue d } ∧ s' = { s with dies := s'.dies })) ∧
    (∀ l n x q, s.actor = .loadN l n → s.load? l = some x → x.entries[n]? = some q → x.phase = .resident →
      let after (i : Instr) (s' : State) (q' : EntryQ) : Prop := exec i s = .next s' ∧
        ∃ y, s'.load? l = some y ∧ y.entries[n]? = some q' ∧ ∀ m, m ≠ n → y.entries[m]? = x.entries[m]?
      (∀ k t, x.mayWrite n = true → nextTurn q.turn (x.feeding n) = some k → x.slots.getD k none = some t →
        ∃ s' y, after .threadTokenWrite s' { q with count := q.count + 1, turn := k } ∧
          s'.word (ringAddr l.die l.fab n (q.head + q.count)) = BitVec.ofNat 64 (k * 2 ^ 61 + t.written) ∧
          onlyBytes s s' (ringAddr l.die l.fab n (q.head + q.count)) 8 ∧
          s'.load? l = some y ∧ y.slots.getD k none = some { t with written := t.written + 1 }) ∧
      (q.mayAsk = true → ∃ s', after .refillRequest s' { q with reqs := q.reqs ++ [(s.clock + 30, min 8 q.unasked)] } ∧
        s'.mem = s.mem) ∧
      (∀ back rest, q.reqs = back ++ rest → (∀ p ∈ back, p.1 ≤ s.clock) → (∀ p, rest.head? = some p → s.clock < p.1) →
        let k := (back.map (·.2)).foldl (· + ·) 0
        ∃ s', after .refillReturn s'
          { q with reqs := rest, head := (q.head + k) % 512, count := q.count - k
                   buf := q.buf ++ (List.range k).map fun i => s.word (ringAddr l.die l.fab n (q.head + i)) } ∧
        s'.mem = s.mem) ∧
      (∀ v rest e, q.buf = v :: rest → s.elem? ⟨l.die, l.fab, q.lt, q.site⟩ = some e → e.space q.port = true →
        ∃ s' e', after .entryEmit s' { q with buf := rest } ∧ s'.elem? ⟨l.die, l.fab, q.lt, q.site⟩ = some e' ∧
          putsTok s e q.port (dataTok 0 v) e e' ∧ s'.mem = s.mem))

/-! ### Events of the engines and the arbors -/

/-- A command: its block is read word by word and checked, and it enters its queue, or is answered with a status; at its
acceptance it counts
in PEND of its task, or fails with WEIGHT_BUSY; at its end its RESULT word holds the cause, DONE and the bytes
delivered, and PEND is lowered, one completion in a clock of an SYE (R360, R384, R386, R387, R390, R391). The work of an
accepted command: each word is an access of its own (R286); a copy checks the runs of a chunk, reads its words and
writes them chunk by chunk; a densifying copy takes the steps of its traversal and writes the values of its keys; a
conversion writes what its source gives, phase by phase, a CSR or arbor output in the order of its phase; each chunk is
written where the check of its runs has placed its words, whole or not at all where a write of it can fail; each command is
over with its last word (R390, R392, R394 to R397). That a status enters three clocks after the check (log 60), what an engine
obtains of writes in flight (log 4) and the steps in which words are read and written (log 47, log 91) are the model's
choice. -/
def Obligations.Engines : Prop :=
  ((∀ (s : State) (r : ElemRef) (gid : Nat) (e : Elem) (i : Issue), elemActN s r gid e →
     (e.mpe.issueQ.find? fun i => decide (i.gid = gid)) = some i → isCommand i.op = true →
     -- words of the block are read
     (s.blockRead e i = false → ∃ s', exec .commandBlockCheck s = .next s' ∧ s'.mem = s.mem ∧
       ∀ e' i', s'.elem? r = some e' → (e'.mpe.issueQ.find? fun i => decide (i.gid = gid)) = some i' →
         i' = { i with got := i'.got } ∧ ∀ w ∈ i'.got, w ∈ i.got ∨ (w.1 < blockWords i.op ∧
           let a := (s.check e.ref.load i.a (needBlock i.op)).pa + 8 * w.1
           s.blockHeld e a = false ∧ w.2 = (if s.isBad a then Cause.uncorrectable else 0, s.word a))) ∧
     (s.blockRead e i = true →
     (∀ pa b ss ds, s.checkBlock e i = .queue pa b ss ds → ∃ s' c, exec .commandBlockCheck s = .next s' ∧
       s'.cmds = s.cmds ++ [c] ∧ c.op = i.op ∧ c.blk = b ∧ c.blkPa = pa ∧ c.srcs = ss ∧ c.dsts = ds ∧ c.st = 0 ∧
       c.ref = r ∧ c.handle = fld i.b 0 32 ∧ c.task = s.taskOf r.load i.a ∧ s'.mem = s.mem ∧
       ∀ x, s.die? r.die = some x → ∃ y, s'.die? r.die = some y ∧ y.queueOf i.op = x.queueOf i.op ++ [c.id]) ∧
     (∀ code info g, s.checkBlock e i = .status code info → s.group? r gid = some g → ∃ s' g',
       exec .commandBlockCheck s = .next s' ∧ s'.cmds = s.cmds ∧ s'.mem = s.mem ∧ s'.group? r gid = some g' ∧
       g'.outc = (code == 0) ∧ g'.opened = false ∧
       g'.cells.getLast? = some ⟨s.nextId, .tok (statusTok code info), 3, s.clock + 3⟩))) ∧
   (∀ (s : State) (n : Nat) (c : Cmd), s.actor = .id n → s.cmd? n = some c → Memory.wf s.mem = true →
     (∀ a, c.st = 0 → c.due ≤ s.clock → s.sbFree c = true → s.sbConflict c = false → s.landing c = false →
       s.walkerWrites c = false → s.recAddr c.task = some a →
       s.trPend c.task < 2 ^ 32 - 1 →
       ∃ s', exec .commandAcceptance s = .next s' ∧ s'.trPend c.task = s.trPend c.task + 1 ∧ onlyBytes s s' (a + 8) 8 ∧
         s'.cmd? n = some { c with
           st := if s.weightBusy c then 2 else 1, cause := if s.weightBusy c then Cause.weightBusy else 0
           due := s.clock + 1 }) ∧
     (∀ a t, c.st = 2 → isReduction c.op = false → s.opBusy (handleDie c.task) = false → handleIdx c.handle = 0 →
       c.cause = 0 →
       s.cmdPa c (opVa c.blkVa + 8 * (blockWords c.op - 1)) = .ok a → s.storeCause a = 0 → s.recAddr c.task = some t →
       a + 8 ≤ t ∨ t + 128 ≤ a →
       ∃ s', exec .commandEnd s = .next s' ∧ s'.cmd? n = none ∧
         s'.word a = BitVec.ofNat 64 (2 ^ 40 + c.done % 2 ^ 40) ∧ s'.trPend c.task = s.trPend c.task - 1 ∧
         ∀ b, (b < a ∨ a + 8 ≤ b) → (b < t + 8 ∨ t + 16 ≤ b) → s'.byte b = s.byte b))) ∧
  (∀ (s : State) (n : Nat) (c : Cmd), s.actor = .id n → s.cmd? n = some c → Memory.wf s.mem = true → c.st = 1 →
     c.due ≤ s.clock → s.served c = true →
     let goes (i : Instr) (s' : State) (c' : Cmd) : Prop := exec i s = .next s' ∧ s'.cmd? n = some c'
     (c.op = .cpy →
       let dst := fld (blk c.blk 0) 0 57
       let from_ := fld (blk c.blk 1) 0 57
       -- a step: a chunk may start, words are read, words of the oldest chunk are written
       let c1 := s.copyStart c
       let c2 := s.copyReads c1
       let w3 := s.copyWrites c2
       (w3.2.fail = none → ∃ s' c', goes .copyChunk s' c' ∧ s'.mem = w3.1.mem ∧ s.clock < c'.due ∧
         c' = { w3.2 with due := c'.due, st := if c.len ≤ w3.2.done then 2 else w3.2.st }) ∧
       (∀ k x, w3.2.fail = some (k, x) → w3.2.done = 256 * k → w3.2.done < c.len → x ≠ Cause.uncorrectable →
         ∃ s' c', goes .copyChunk s' c' ∧ s'.mem = w3.1.mem ∧ c'.st = 2 ∧ c'.cause = x ∧ c'.done = w3.2.done) ∧
       (∀ (sa da : Nat → Nat), c.fail = none → 256 * c.next < c.len → c.next ≤ c.done / 256 + 8 →
         (∀ i, i < min 32 ((c.len - 256 * c.next) / 8) → s.cmdPa c (from_ + (256 * c.next + 8 * i)) = .ok (sa i) ∧
           s.cmdPa c (dst + (256 * c.next + 8 * i)) = .ok (da i)) →
         c1 = { c with next := c.next + 1, words := c.words ++
           (List.range (min 32 ((c.len - 256 * c.next) / 8))).map fun i =>
             ⟨c.next, from_ + (256 * c.next + 8 * i), sa i, dst + (256 * c.next + 8 * i), da i, none, false⟩ }) ∧
       -- P of all runs of a chunk is checked before any of its words is read
       (∀ x, c.fail = none → 256 * c.next < c.len → c.next ≤ c.done / 256 + 8 → s.copyWords c = .error x →
         c1 = { c with fail := some (c.next, x) }) ∧
       ((c1.words.map (·.srcVa)).Nodup →
         (∀ w ∈ c1.words, w.val = none → s.sourceHeld c.die w.src = false ∧ s.isBad w.src = false) →
         (∀ v ∈ c2.words, ∃ w ∈ c1.words, v = { w with val := v.val } ∧
           (v.val = w.val ∨ (w.val = none ∧ v.val = some (s.valueFor (dieObs c.die) w.src)))) ∧
         ((∃ w ∈ c1.words, w.val = none) → ∃ v ∈ c2.words, ∃ w ∈ c1.words,
           v = { w with val := some (s.valueFor (dieObs c.die) w.src) } ∧ w.val = none)) ∧
       (∀ a, s.seenWrites (dieObs c.die) a = [] → a % 8 = 0 → s.valueFor (dieObs c.die) a = s.word a) ∧
       (let here := c2.words.filter fun w => decide (w.chunk = c2.done / 256)
        here ≠ [] → (∀ w ∈ here, w.val ≠ none ∧ s.mayFail w.dst = false) →
        here.Pairwise (fun v w => v.dst + 8 ≤ w.dst ∨ w.dst + 8 ≤ v.dst) → ∃ now : List CopyWord,
          (∀ w ∈ now, w ∈ here ∧ w.done = false) ∧ ((∃ w ∈ here, w.done = false) → now ≠ []) ∧
          (∀ w ∈ now, some (w3.1.word w.dst) = w.val) ∧
          (∀ b, (∀ w ∈ now, b < w.dst ∨ w.dst + 8 ≤ b) → w3.1.byte b = s.byte b) ∧
          ((∀ w ∈ here, w.done = false → w ∈ now) → w3.2.done = c2.done + 8 * here.length))) ∧
     (c.isDens = true →
       let dst := fld (c.blk.getD 1 0) 0 57
       let lo := fld (c.blk.getD 2 0) 0 32
       (c.planned = false →
         (∀ x, (fld (c.blk.getD 0 0) 0 57 :: c.densVas).mapM (s.cmdPa c) = .error x → x ≠ Cause.uncorrectable →
           ∃ s' c', goes .densChunk s' c' ∧ s'.mem = s.mem ∧ c'.st = 2 ∧ c'.cause = x ∧ c'.done = c.done) ∧
         (∀ xs, (fld (c.blk.getD 0 0) 0 57 :: c.densVas).mapM (s.cmdPa c) = .ok xs →
           ∃ s', goes .densChunk s' { c with planned := true, spots := c.densVas.zip (xs.drop 1) } ∧ s'.mem = s.mem)) ∧
       (c.planned = true → c.phases = [] →
         (∀ k, c.key = some k → k ≤ c.densEnd → s.walkerFree (homeDie c.hdr) = false → exec .densChunk s = .next s) ∧
         (∀ k t es ends, c.key = some k → k ≤ c.densEnd → s.walkerFree (homeDie c.hdr) = true → readArb s c.hdr c.size = .ok t →
           t.step k (fld (c.blk.getD 2 0) 32 32) = .ok (es, ends) → ∃ s', goes .densChunk s' { c with
             ents := c.ents ++ es, due := s.clock + 1,
             key := if ends then none else es.getLast?.map fun p => p.1 + 1 } ∧ s'.mem = s.mem) ∧
         (c.key = none ∨ (∃ k, c.key = some k ∧ c.densEnd < k) →
           ∃ s', goes .densChunk s' { c with phases := [c.densVals] } ∧ s'.mem = s.mem)) ∧
       -- the words of a chunk: the value of each key it names, 0 for one that is absent
       ((∀ p ∈ c.ents, p.2 < 2 ^ 32) → ∀ i, i < c.densVas.length → ∃ w, c.densVals[i]? = some (dst + c.done + 8 * i, w) ∧ ∀ j,
         j < 2 →
         let k := lo + c.done / 4 + (2 * i + j)
         laneN 32 j w = if k ≤ c.densEnd then
           (match c.ents.find? fun p => decide (p.1 = k) with
            | some p => p.2
            | none => 0) else 0) ∧
       -- the last word of an odd number of keys is half a word, and keeps its other half
       (∀ ws, c.densHalf = none → s.densWords c ws = ws) ∧
       (∀ ws p, c.densHalf = some p → p.2 % 8 = 0 → (s.densWords c ws).map (·.1) = ws.map (·.1) ∧
         ∀ (i : Nat) (w v : Nat × Word), ws[i]? = some w → (s.densWords c ws)[i]? = some v → fld v.2 0 32 = fld w.2 0 32 ∧
           fld v.2 32 32 = if w.1 = p.1 then fld (s.word p.2) 32 32 else fld w.2 32 32) ∧
       (∀ ws rest, c.planned = true → c.phases = ws :: rest → (∀ p, c.densHalf = some p → s.isBad p.2 = false) → ∃ ks : List Nat,
         (∀ k ∈ ks, k < ws.length) ∧ (ws ≠ [] → ks ≠ []) ∧ (c.densHalf.isSome = true → ks = List.range ws.length) ∧
         (∀ x, s.putChunk c (s.densWords c ws) ks = .error x → x ≠ Cause.uncorrectable → ∃ s' c', goes .densChunk s' c' ∧
           s'.mem = s.mem ∧ c'.st = 2 ∧ c'.cause = x ∧ c'.done = c.done) ∧
         ∀ s1 left, s.putChunk c (s.densWords c ws) ks = .ok (s1, left) → ∃ s' c', goes .densChunk s' c' ∧ s'.mem = s1.mem ∧
           (left ≠ [] → c' = { c with phases := [left], due := c'.due }) ∧
           (left = [] → c'.phases = [] ∧ c'.planned = false ∧ c'.done = 4 * (c.densEnd + 1 - lo) ∧
             c'.st = if c.len ≤ c'.done then 2 else 1))) ∧
     (c.op = .cve →
       let todo := (c.sources (cveF c.blk)).filter fun va => !c.snap.any fun w => w.va == va
       (c.planned = false → todo ≠ [] → ∃ s' c', goes .conversionPhase s' c' ∧ s'.mem = s.mem ∧
         c' = { c with snap := c'.snap, due := c'.due } ∧ s.clock < c'.due) ∧
       (c.planned = false → todo = [] → ∃ s', goes .conversionPhase s'
         { c with planned := true, phases := c.cvePlan.1, cause := c.cvePlan.2 } ∧ s'.mem = s.mem) ∧
       (c.planned = true → c.phases = [] → c.cause ≠ Cause.uncorrectable →
         ∃ s' c', goes .conversionPhase s' c' ∧ s'.mem = s.mem ∧ c'.st = 2 ∧ c'.cause = c.cause ∧ c'.done = c.done) ∧
       (∀ p rest, c.planned = true → c.phases = p :: rest → p ≠ [] → c.spots = [] →
         let vas := (p.take 32).map (·.1)
         (∀ x, vas.mapM (s.cmdPa c) = .error x → x ≠ Cause.uncorrectable → ∃ s' c', goes .conversionPhase s' c' ∧
           s'.mem = s.mem ∧ c'.st = 2 ∧ c'.cause = x ∧ c'.done = c.done) ∧
         ∀ xs, vas.mapM (s.cmdPa c) = .ok xs → ∃ s', goes .conversionPhase s' { c with spots := vas.zip xs } ∧ s'.mem = s.mem) ∧
       (∀ p rest, c.planned = true → c.phases = p :: rest → p = [] ∨ c.spots ≠ [] → ∃ ks : List Nat,
         let here := p.take c.spots.length
         (∀ k ∈ ks, k < here.length) ∧ (here ≠ [] → ks ≠ []) ∧
         ((cveF c.blk).toArbor = true ∨ (cveF c.blk).toCsr = true → ∃ m, ks = List.range m) ∧
         (∀ x, s.putChunk c here ks = .error x → x ≠ Cause.uncorrectable → ∃ s' c', goes .conversionPhase s' c' ∧
           s'.mem = s.mem ∧ c'.st = 2 ∧ c'.cause = x ∧ c'.done = c.done) ∧
         ∀ s1 left, s.putChunk c here ks = .ok (s1, left) → ∃ s' c', goes .conversionPhase s' c' ∧ s'.mem = s1.mem ∧
           let todo := left ++ p.drop here.length
           c' = { c with phases := if todo = [] then rest else todo :: rest, done := c.done + 8 * (here.length - left.length)
                         spots := c'.spots, due := c'.due } ∧ ∀ x, x ∈ c'.spots ↔ x ∈ c.spots ∧ ∃ w ∈ left, w.1 = x.1)) ∧
     -- the words of a chunk that are chosen are written where its runs lie, and the others and all other bytes stay; a
     -- chunk in which a write can fail is written whole or not at all
     (∀ (ws : List (Nat × Word)) (ks : List Nat), (∀ k ∈ ks, k < ws.length) →
       let spot (w : Nat × Word) : Nat := ((c.spots.find? fun p => p.1 == w.1).map (·.2)).getD 0
       let risky := s.risky c.spots
       (∀ x, s.putChunk c ws ks = .error x → risky = true ∧ x ≠ 0 ∧ ∃ w ∈ ws, s.storeCause (spot w) = x) ∧
       (risky = true → (∃ w ∈ ws, s.storeCause (spot w) ≠ 0) → ∃ x, s.putChunk c ws ks = .error x) ∧
       ∀ s1 left, s.putChunk c ws ks = .ok (s1, left) →
         (∀ k w, ws[k]? = some w → risky = false → k ∉ ks → w ∈ left) ∧ (risky = true → left = []) ∧
         (∀ w ∈ left, w ∈ ws) ∧
         (∀ b, (∀ w ∈ ws, b < spot w ∨ spot w + 8 ≤ b) → s1.byte b = s.byte b) ∧
         (ws.Pairwise (fun v w => spot v + 8 ≤ spot w ∨ spot w + 8 ≤ spot v) → ∀ k w, ws[k]? = some w →
           s1.word (spot w) = if risky = true ∨ k ∈ ks then w.2 else s.word (spot w))))

/-- An arbor operation at its point: a lookup answers the key and its value, a count the free nodes and entries, a
store and an add leave the arbor with the key's new value, and a breach of the arbor answers its cause and changes no
memory. A header whose fields break their limits, or a node that stands in another place or breaks its order, is a
breach. After a store that takes and frees no node a lookup finds the new value, and of every other key the old one. A
traversal's step gives at most eight entries of the arbor, within its bounds and in key order, and END0 at its end (R312
to R316, R318 to R327, R330). Which fields make a header or a node a breach beyond R313 (log 58), what the walker writes back
and when (log 14), and when it takes an operation or a traversal up (log 97) are the model's choice. -/
def Obligations.ArborSteps : Prop :=
  (∀ (s : State) (hdr size : Nat),
    let w (k : Nat) : Word := s.word (hdr + 8 * k)
    let nn := fld (w 0) 0 24
    ((∃ k, k < 32 ∧ s.isBad (hdr + 8 * k) = true) → readArb s hdr size = .error ⟨Cause.uncorrectable, 0⟩) ∧
    ((∀ k, k < 32 → s.isBad (hdr + 8 * k) = false) →
      fld (w 0) 62 2 ≠ 3 ∨ (fld (w 0) 58 4 ≠ 1 ∧ fld (w 0) 58 4 ≠ 4) ∨ nn < 2 ∨ fld (w 0) 24 8 = 0 ∨ fld (w 1) 32 32 = 0 ∨
        nn ≤ fld (w 1) 32 32 ∨ nn ≤ fld (w 1) 0 32 ∨ size < 256 * nn ∨ (∃ k, 4 ≤ k ∧ k < 32 ∧ w k ≠ 0) →
      readArb s hdr size = .error ⟨Cause.arborHdr, 0⟩)) ∧
  (∀ (t : Arb) (i level lo hi : Nat),
    let w (k : Nat) : Word := t.s.word (t.hdr + 256 * i + 8 * k)
    let first := if level = 0 then 2 else 1
    let key (k : Nat) : Nat := fld (w (first + k)) 32 32
    let n := fld (w 0) 48 8
    let breach : Prop := t.node i level lo hi = .error ⟨Cause.arborOrder, i⟩
    ((∃ m, (i, m) ∈ t.nodes) ∨ i = 0 ∨ t.nn ≤ i → breach) ∧
    ((∀ m, (i, m) ∉ t.nodes) → 0 < i → i < t.nn → (∀ k, k < 32 → t.s.isBad (t.hdr + 256 * i + 8 * k) = false) →
      fld (w 0) 62 2 ≠ (if level = 0 then 1 else 2) ∨ fld (w 0) 40 8 ≠ level ∨ (level = 0 ∧ 30 < n) ∨
        (level ≠ 0 ∧ (n < 2 ∨ 31 < n)) ∨ (∃ k, k + 1 < n ∧ key (k + 1) ≤ key k) ∨ (∃ k, k < n ∧ hi ≤ key k) ∨
        (level = 0 ∧ ∃ k, k < n ∧ key k < lo) → breach)) ∧
  (∀ (s : State) (hdr size k v : Nat) (t t1 : Arb), Memory.wf s.mem = true → k < 2 ^ 32 → v < 2 ^ 32 →
    readArb s hdr size = .ok t → t.store k v = .ok t1 → t1.struct = false → ∃ t2, readArb t1.commit hdr size = .ok t2 ∧
      (∃ f, t2.find k = .ok f ∧ f.value k = if t.isZero v then 0 else v) ∧
      ∀ j f f', j ≠ k → j < 2 ^ 32 → t.find j = .ok f → t2.find j = .ok f' → f'.value j = f.value j) ∧
  (∀ (t : Arb) (k hi : Nat) (es : List (Nat × Nat)) (ends : Bool), t.step k hi = .ok (es, ends) →
    es.length ≤ 8 ∧ (es = [] → ends = true) ∧ es.Pairwise (fun x y => x.1 < y.1) ∧
    ∀ p ∈ es, k ≤ p.1 ∧ p.1 ≤ hi ∧ ∃ f, t.find p.1 = .ok f ∧ f.value p.1 = p.2) ∧
  (∀ (s : State) (n : Nat) (w : Access) (op : MOp) (k v size : Nat), s.actor = .id n → s.acc? n = some w →
    w.op = .arbor op k v size → w.due ≤ s.clock →
    let busy := s.arborBusy w.pa (op == .ast || op == .aaddc)
    let lat := arborLat s w.ref.die op w.pa
    -- the walker accepts the operation, unless it holds it or has no room
    (w.taken = false → s.arborHeld w.pa op = true ∨ busy = true ∨ s.walkerFree (homeDie w.pa) = false →
      exec .arborPoint s = .next s) ∧
    (w.taken = false → s.arborHeld w.pa op = false → busy = false → s.walkerFree (homeDie w.pa) = true → ∃ s' w',
      exec .arborPoint s = .next s' ∧ s'.mem = s.mem ∧ s'.elems = s.elems ∧ s'.acc? n = some w' ∧
      w' = { w with taken := true, due := w'.due, back := lat - lat / 2 } ∧ s.clock + lat / 2 ≤ w'.due) ∧
    (w.taken = true → busy = true → exec .arborPoint s = .next s) ∧
    (w.taken = true → busy = false →
    let due := s.clock + w.back
    let does (s' : State) : Prop := exec .arborPoint s = .next s'
    let answers (x : AErr) : Prop := (∃ s', does s' ∧ s'.mem = s.mem ∧ s'.acc? n = none) ∧
      (op = .ald ∨ op = .acntH → x.cause ≠ Cause.uncorrectable →
        does ((s.dropAcc n).reply w.ref w.gid w.cell (s.arborFail w.ref w.gid x) due))
    (∀ x, readArb s w.pa size = .error x → answers x) ∧
    (∀ t, readArb s w.pa size = .ok t →
      (op = .acntH → does ((s.dropAcc n).reply w.ref w.gid w.cell
        (.tok (dataTok 0 (BitVec.ofNat 64 (t.nfree * 2 ^ 32 + t.nent)))) due)) ∧
      (∀ f, t.find k = .ok f →
        (op = .ald → does ((s.dropAcc n).reply w.ref w.gid w.cell (.tok (coordTok k (f.value k))) due)) ∧
        (∀ t1, op = .aaddc → t.store k (t.add (f.value k) v) = .ok t1 → ∃ s', does s' ∧ s'.mem = t1.commit.mem ∧
          s'.acc? n = none)) ∧
      (∀ x, op = .ald → t.find k = .error x → answers x) ∧
      (∀ x, op = .ast → t.store k v = .error x → answers x) ∧
      (∀ t1, op = .ast → t.store k v = .ok t1 → ∃ s', does s' ∧ s'.mem = t1.commit.mem ∧ s'.acc? n = none)))) ∧
  (∀ (s : State) (r : ElemRef) (gid : Nat) (e : Elem) (x : Trav), elemActN s r gid e → e.mpe.trav? gid = some x → x.gid = gid →
    x.due ≤ s.clock → x.taken = false → x.form = 2 ∨ (∃ g, e.mpe.group? gid = some g ∧ g.cells = []) →
    (e.mpe.group? gid).isSome = true → s.arborBusy x.hdr false = false →
    (s.walkerFree (homeDie x.hdr) = false → exec .traversalStep s = .next s) ∧
    (s.walkerFree (homeDie x.hdr) = true → ∃ s' e' x', exec .traversalStep s = .next s' ∧ s'.mem = s.mem ∧
      s'.elem? r = some e' ∧ e'.mpe.trav? gid = some x' ∧ x' = { x with taken := true, due := x'.due } ∧ s.clock < x'.due)) ∧
  (∀ (s : State) (r : ElemRef) (gid : Nat) (e : Elem) (x : Trav) (g : RGroup) (t : Arb) (es : List (Nat × Nat))
    (stop : Bool), elemActN s r gid e → e.mpe.trav? gid = some x → x.gid = gid → e.mpe.group? gid = some g → x.due ≤ s.clock →
    s.arborBusy x.hdr false = false → x.taken = true → x.started = false ∨ s.walkerFree (homeDie x.hdr) = true →
    readArb s x.hdr x.size = .ok t →
    t.step (match x.last with | some l => l + 1 | none => x.lo) x.hi = .ok (es, stop) →
    (x.form = 0 → g.cells = [] → ∃ s' e' g', exec .traversalStep s = .next s' ∧ s'.mem = s.mem ∧
      s'.elem? r = some e' ∧ e'.mpe.group? gid = some g' ∧
      g'.cells.map (·.r) = (es.map fun p => Reply.tok (coordTok p.1 p.2)) ++ (if stop then [.tok (endTok 0)] else []) ∧
      (e'.mpe.trav? gid).isSome = !stop) ∧
    (x.form = 2 → stop = false → ∃ s' e' x', exec .traversalStep s = .next s' ∧ s'.mem = s.mem ∧ s'.elem? r = some e' ∧
      e'.mpe.trav? gid = some x' ∧ x'.count = x.count + es.length ∧ e'.mpe.groups = e.mpe.groups))

/-! ### Events of the domain -/

/-- Requests of other packages: a probe is answered with the incarnation; another is checked for its incarnation, its
addresses and the class of its page, and then reads, writes or acts on memory as a local one does, each word of a read
on its own; a reply or a time limit ends the request that is outstanding; a port that comes up or goes down is listed or
not, and with the port of its owner the package loses its owner (R286, R400, R402, R404 to R406, R409, R410, R412, R459).
That the owner is lost with that port (log 70), that a request carries the class of its source's run (log 34), and when a held
request and the words of a read go on (logs 52, 91) are the model's choice. -/
def Obligations.RemoteMemory : Prop :=
  (∀ (s : State) (q : RemReq), s.actor = .req q → s.dv.pstate = 0 → Memory.wf s.mem = true →
    let answers (s1 : State) (cause : Nat) (ws : List (Word × BitVec 4)) : State :=
      { s1 with out := s1.out ++ [.rep ⟨q.src, q.tag, cause, ws⟩] }
    let does (s' : State) : Prop := exec .remoteRequest s = .next s'
    (q.op = .probe → s.reading? q = none → does (answers s 0 [(BitVec.zeroExtend 64 s.dv.incarn,
      residue (BitVec.zeroExtend 64 s.dv.incarn))])) ∧
    (q.op ≠ .probe →
      (q.inc ≠ s.dv.incarn.toNat → s.reading? q = none → does (answers s Cause.remoteGone [])) ∧
      (q.inc = s.dv.incarn.toNat → (∃ a ∈ q.words, regionOf a 8 = .none) → s.reading? q = none →
        does (answers s Cause.badpa [])) ∧
      -- the class that the request carries must be one that the range of the address allows
      (q.inc = s.dv.incarn.toNat → (∀ a ∈ q.words, regionOf a 8 ≠ .none) → (∃ a ∈ q.words, allowedAt a q.cls = false) →
        s.reading? q = none → does (answers s Cause.cls [])) ∧
      (∀ a, (regionOf a 8 = .weight → (allowedAt a q.cls = true ↔ q.cls = 3)) ∧
        (∀ d t, regionOf a 8 = .tile d t → (allowedAt a q.cls = true ↔ q.cls = 0)) ∧
        (regionOf a 8 = .hbm → (allowedAt a q.cls = true ↔ q.cls < 3))) ∧
      (q.inc = s.dv.incarn.toNat → (∀ a ∈ q.words, allowedAt a q.cls = true) → s.reqHeld q = false →
        (∀ n, q.op = .read n →
          (q.cls = 2 → s.reading? q = none → does (answers s Cause.cls [])) ∧
          -- the words are read one by one, one at least in a step; the answer leaves with the last of them
          (∀ got : List RWord, q.cls ≠ 2 → got.length = n → .todo ∈ got → (∀ d ∈ s.remDefers, ∃ w ∈ d.got, w.isFixed = false) →
            ((s.remDefers.filter fun d => d.req == q) = [] ∧ got = List.replicate n .todo) ∨
              (s.remDefers.filter fun d => d.req == q) = [⟨q, got⟩] →
            (∀ k, k < n → got.getD k .deferred = .todo → refreshing s.clock (q.addr + 8 * k) = false ∧
              s.sbHeld (q.addr + 8 * k) 8 false = false ∧ s.isBad (q.addr + 8 * k) = false ∧
              (q.cls = 1 → s.present (q.addr + 8 * k) = true)) →
            ∃ s' got', does s' ∧ s'.mem = s.mem ∧ s'.presence = s.presence ∧ got'.length = n ∧
              (∀ k, k < n → (got.getD k .deferred ≠ .todo → got'.getD k .deferred = got.getD k .deferred) ∧
                (got.getD k .deferred = .todo → got'.getD k .deferred = .todo ∨
                  got'.getD k .deferred = .fixed (s.word (q.addr + 8 * k)))) ∧
              (∃ k, k < n ∧ got.getD k .deferred = .todo ∧ got'.getD k .deferred ≠ .todo) ∧
              (got'.all RWord.isFixed = true → ∃ ws, s'.out = s.out ++ [.rep ⟨q.src, q.tag, 0, ws⟩] ∧ s'.reading? q = none ∧
                ws.length = n ∧ ∀ k w, k < n → got'.getD k .deferred = .fixed w → ws.getD k (0, 0) = (w, residue w)) ∧
              (got'.all RWord.isFixed = false → s'.out = s.out ∧ s'.reading? q = some ⟨q, got'⟩) ∧
              (.todo ∈ got' → s'.inputs = s.inputs ++ [(s.clock + 1, .remoteRequest, .req q)])) ∧
          -- a word without presence takes a deferral entry of its stack, when one is free; an error answers the request
          (n = 1 → (∀ d ∈ s.remDefers, d.req ≠ q) → q.cls ≠ 2 → refreshing s.clock q.addr = false →
            s.sbHeld q.addr 8 false = false → (∀ d ∈ s.remDefers, ∃ w ∈ d.got, w.isFixed = false) →
            (s.isBad q.addr = false → q.cls = 1 → s.present q.addr = false → s.deferred (stackOf q.addr) < 2048 →
              ∃ s', does s' ∧ s'.out = s.out ∧ s'.reading? q = some ⟨q, [.deferred]⟩) ∧
            (s.isBad q.addr = false → q.cls = 1 → s.present q.addr = false → 2048 ≤ s.deferred (stackOf q.addr) →
              ∃ s', does s' ∧ s'.out = s.out ++ [.rep ⟨q.src, q.tag, Cause.deferFull, []⟩] ∧ s'.reading? q = none) ∧
            (s.isBad q.addr = true → ∃ s', does s' ∧ s'.reading? q = none ∧
              s'.out = s.out ++ [.rep ⟨q.src, q.tag, Cause.uncorrectable, []⟩] ∧
              (s.selog.length < 64 → s'.selog.length = s.selog.length + 1)))) ∧
        (q.op = .write → s.reading? q = none →
          (2 ≤ q.cls → does (answers s Cause.cls [])) ∧
          (q.cls = 0 → s.storeCause q.addr = 0 → ∃ s1, does (answers s1 0 []) ∧ s1.word q.addr = q.data ∧
            onlyBytes s s1 q.addr 8 ∧ s1 = { s with mem := s1.mem, bad := s1.bad }) ∧
          (q.cls = 1 → s.storeCause q.addr = 0 → s.present q.addr = true → does (answers s Cause.presenceRewrite []))) ∧
        (∀ op lane, q.op = .atomic op lane → s.reading? q = none →
          (q.cls ≠ 0 → does (answers s Cause.cls [])) ∧
          (q.cls = 0 → s.storeCause q.addr = 0 → s.isBad q.addr = false → ∃ s1,
            does (answers s1 0 [(s.word q.addr, residue (s.word q.addr))]) ∧ onlyBytes s s1 q.addr 8 ∧
            s1.word q.addr = ((atomicNew (atomicOps.getD op .aadd) lane (s.word q.addr) q.data).1).getD (s.word q.addr)))))) ∧
  (∀ (s : State) (n : Nat) (x : Remote), (s.remotes.find? fun y => decide (y.tag = n)) = some x →
    let gone : List Remote := s.remotes.filter fun y => decide (y.tag ≠ n)
    (∀ p, s.actor = .rep p → p.tag = n → ∃ s', exec .remoteReply s = .next s' ∧ s'.remotes = gone) ∧
    (s.actor = .id n → x.limit ≤ s.clock → ∃ s', exec .remoteTimeout s = .next s' ∧ s'.remotes = gone) ∧
    (s.actor = .id n → s.clock < x.limit → exec .remoteTimeout s = .next s) ∧
    -- a load of one word: the word, with the tag of its run, or the cause stands in its reply
    (∀ k g w, x.what = .rld [k] → s.group? x.ref x.gid = some g → g.op = .rld → g.cells = [⟨k, .wait, 1, 0⟩] → g.dst ≠ 15 →
      (∀ p, s.actor = .rep p → p.tag = n → p.cause = 0 → p.words = [(w, residue w)] → ∃ s' g', exec .remoteReply s = .next s' ∧
        s'.group? x.ref x.gid = some g' ∧ g'.cells = [⟨k, .tok (dataTok (BitVec.ofNat 4 x.fmt) w), 1, s.clock + 1⟩]) ∧
      (s.actor = .id n → x.limit ≤ s.clock → ∃ s' g', exec .remoteTimeout s = .next s' ∧
        s'.group? x.ref x.gid = some g' ∧
        g'.cells = [⟨k, .tok (faultTok Cause.remoteTimeout (x.va % 2 ^ 57 / 2 ^ 9)), 1, s.clock + 1⟩]))) ∧
  (∀ (s : State) (n : Nat), s.actor = .id n → setWf s.ports = true →
    (∃ s', exec .portDown s = .next s' ∧ s' = { s with
        ports := s'.ports
        agenda := (if s.ownerPort = some n then [.event .ownerLoss .none] else []) ++ s.agenda } ∧
      ∀ k, setHas s'.ports k = (setHas s.ports k && decide (k ≠ n))) ∧
    (s.dv.pkgnum ≠ 0x1FFF → n < 18 → ∃ s', exec .portUp s = .next s' ∧ s' = { s with ports := s'.ports } ∧
      ∀ k, setHas s'.ports k = (setHas s.ports k || decide (k = n))) ∧
    (s.dv.pkgnum = 0x1FFF → exec .portUp s = .next s))

/-- Nodes of a reduction: a packet of an unknown kind is dropped, one with a wrong residue or for no group is counted;
a contribution waits for the other children; with the last one, or at the deadline, the value goes up as FINAL or
PARTIAL; the close deadline sends CLOSE for the members that are missing and releases the instance. The words of a packet
hold it whole; a packet from the root goes on to the children of an interior node and to its own member, or to its member
alone when it was routed to this package; in power state 3 nothing arrives (R414 to R419, R464). How a routed packet is told
from one on the tree (log 35), how long a released instance stays (log 36), and which packets a node counts in dv.DRBAD (log
49) are the model's choice. -/
def Obligations.ReductionNodes : Prop :=
  (∀ (s : State) (p : Packet), s.actor = .packet p →
    let does (s' : State) : Prop := exec .reductionPacket s = .next s'
    let counted (s' : State) : Prop := does s' ∧ s' = { s with dv := { s.dv with drbad := min 0xFFFFFFFF (s.dv.drbad + 1) } }
    (5 < p.kind ∨ 1 < p.op → does s) ∧
    (p.kind ≤ 5 → p.op ≤ 1 → (∃ w ∈ p.payload, residue w.1 ≠ w.2) → ∃ s', counted s') ∧
    (p.kind ≤ 5 → p.op ≤ 1 → (∀ w ∈ p.payload, residue w.1 = w.2) →
      (s.groupEnt p.group = none → ∃ s', counted s') ∧
      (∀ g x k v, s.groupEnt p.group = some g → p.dir ≠ 1 → g.role = 1 → s.kidOf g p = some k →
        s.inst? p.group p.seq = some x → x.released = false → x.op = p.op → x.fmt = p.fmt → x.lenm1 = p.lenm1 →
        p.kind = 0 → x.kids.getD k ⟨none, 0, 0⟩ = v → v.miss &&& p.bitmap = 0 → x.sent = none → x.expired = false →
        let v' : KidVal := { v with val := some (p.payload.map (·.1)), bits := p.bitmap }
        let x' : Inst := { x with kids := x.kids.set k v' }
        (x'.accounted g = false → ∃ s', does s' ∧ s'.inst? p.group p.seq = some x' ∧ s'.out = s.out) ∧
        (x'.accounted g = true → x'.vals ≠ [] → x'.union g (·.miss) = 0 → g.pport ∈ s.ports → setWf s.ports = true →
          ∃ s', does s' ∧
            s'.inst? p.group p.seq = some { x' with sent := some 0, released := true } ∧
            s'.out = s.out ++ [.packet g.pport (s.nodePacket g x'
              (if x'.union g (·.bits) = 2 ^ g.span - 1 then 1 else 2) 0
              (redResult x.op x.fmt s.ownPkg x.seq (x.lenm1 + 1) x'.vals) (x'.union g (·.bits))).words])))) ∧
  (∀ p : Packet, p.kind < 16 → p.dir < 2 → p.op < 4 → p.fmt < 16 → p.lenm1 < 256 → p.seq < 2 ^ 16 → p.group < 2 ^ 12 →
    p.node < 2 ^ 14 → p.ver < 256 → p.mbase < 2 ^ 13 → p.mspan < 2 ^ 13 → p.count < 2 ^ 13 → p.bitmap < 2 ^ p.mspan →
    p.payload.length = (if p.kind = 4 ∨ p.kind = 5 then 0 else p.lenm1 + 1) →
    Packet.ofWords p.words = p ∧ p.words.length % 8 = 0 ∧
    p.words.length = 8 * ceilDiv (2 + p.payload.length + ceilDiv p.mspan 64) 8) ∧
  (∀ (s s' : State) (routed : Bool) (ws : List (Word × BitVec 4)), s.actor = .flits routed ws →
    let p := Packet.ofWords ws
    let does (s' : State) : Prop := exec .reductionPacket s = .next s'
    (s.dv.pstate = 3 → does s) ∧
    (s.dv.pstate ≠ 3 → routed = false → exec .reductionPacket { s with actor := .packet p } = .next s' →
      does { s' with actor := s.actor }) ∧
    (∀ g, s.dv.pstate ≠ 3 → p.kind ≤ 5 → p.op ≤ 1 → (∀ w ∈ p.payload, residue w.1 = w.2) → s.groupEnt p.group = some g →
      p.dir = 1 →
      let taken : List Turn := [.event .receivePacket (.packet p)]
      (routed = true ∨ g.role ≠ 1 → does { s with agenda := taken ++ s.agenda }) ∧
      (routed = false → g.role = 1 → does { s with
        out := s.out ++ ((g.kids.filter fun k => decide (k.node ≠ s.ownPkg) && setHas s.ports k.port).map fun k =>
          .packet k.port p.words)
        agenda := (if g.self = 0x1FFF then [] else taken) ++ s.agenda }))) ∧
  (∀ (s : State) (g : GroupEnt) (x : Inst) (group seq : Nat), s.actor = .inst group seq → s.groupEnt group = some g →
    s.inst? group seq = some x → x.released = false → g.role = 1 → g.pport ∈ s.ports → setWf s.ports = true →
    (x.expired = false → g.d ≤ s.instAge g x → x.sent = none → x.vals ≠ [] →
      ∃ s', exec .deadlineExpiry s = .next s' ∧ s'.inst? group seq = some { x with expired := true, sent := some 0 } ∧
        s'.out = s.out ++ [.packet g.pport (s.nodePacket g x (if x.union g (·.bits) = 2 ^ g.span - 1 then 1 else 2) 0
          (redResult x.op x.fmt s.ownPkg x.seq (x.lenm1 + 1) x.vals) (x.union g (·.bits))).words]) ∧
    (x.expired = false → g.d ≤ s.instAge g x → x.vals = [] →
      ∃ s', exec .deadlineExpiry s = .next s' ∧ s'.inst? group seq = some { x with expired := true } ∧ s'.out = s.out) ∧
    (g.dc ≤ s.instAge g x → ∃ s', exec .closeDeadlineExpiry s = .next s' ∧
      s'.inst? group seq = some { x with released := true } ∧
      s'.out = s.out ++ [.packet g.pport (s.nodePacket g x 4 (x.sent.getD 0) []
        (2 ^ g.span - 1 - if x.sent.isSome then x.union g (·.bits) else 0)).words])) ∧
  (∀ (s : State) (group : Nat) (ws : List Word), s.actor = .table group ws → ∃ s' g, exec .groupTableWrite s = .next s' ∧
    s'.groups = (s.groups.filter fun y => decide (y.group ≠ group)) ++ [g] ∧ g.group = group ∧
    g.w0 = ws.getD 0 0 &&& 0xFFFFFFFFC00FFFFF ∧ g.w1 = ws.getD 1 0 &&& 0xFFFFFFFFFFFFFF00 ∧
    (∀ x ∈ s'.insts, x.group ≠ group) ∧ s' = { s with groups := s'.groups, insts := s'.insts })

/-- Reductions at a member: DRED, DRRECV and DRCLOSE are accepted from the head of the queue, or find their receive
armed already; the contribution carries the words of the source; a packet from the root finalises the receive that
takes it, is counted late after it, and is kept when nothing is armed; a receive that finalises writes its value and its
bitmap, each word an access of its own, and then RESULT (R286, R421 to R425). That a packet of another operation, format or
length than the armed receive is counted in dv.DRBAD is the model's choice (log 49). -/
def Obligations.ReductionMembers : Prop :=
  -- a receive that finalises on what it holds has the words of its value and of its bitmap to write, without the members that
  -- a CLOSE has named
  let finalises (p p' : Place) : Prop := ∃ todo cause, p' = { p with st := 3, todo := todo, cause := cause } ∧
    (p.val = none → todo = [] ∧ cause = Cause.drNovalue) ∧
    ∀ v, p.val = some v → cause = 0 ∧ ∃ bits : Nat,
      todo = rangeWords p.dst (p.value v) ++ rangeWords p.map (mapWords p.m bits) ∧
      ∀ i, bits.testBit i = (decide (i < p.m) && v.bitmap.testBit i && !(p.close.any fun c => c.bitmap.testBit i))
  (∀ (s : State) (d : Nat) (x : Die) (c : Cmd), s.actor = .die d → s.die? d = some x → x.redQ.head?.bind s.cmd? = some c →
    c.due ≤ s.clock →
    let group := rbGroup c.blk
    let seq := rbSeq c.blk
    (c.op = .dred → ∃ s' c', exec .reductionAcceptance s = .next s' ∧ s'.cmd? c.id = some c' ∧
      c' = { c with st := 1, due := c'.due } ∧ s.clock < c'.due) ∧
    (c.op = .drclose → s.placeOf group seq 1 = none → ∃ s', exec .reductionAcceptance s = .next s' ∧
      s'.cmd? c.id = none ∧ s'.places = s.places ∧ s'.mem = s.mem) ∧
    (∀ k, c.op = .drclose → s.placeOf group seq 1 = some k → k < s.places.length →
      ∃ s', exec .reductionAcceptance s = .next s' ∧ s'.cmd? c.id = none ∧ s'.mem = s.mem ∧
        finalises (s.places.getD k Place.free) (s'.places.getD k Place.free)) ∧
    (∀ g, c.op = .drcloseW → s.groupEnt group = some g → g.role = 0 → g.pport ∈ s.ports → setWf s.ports = true →
      ∃ s', exec .reductionAcceptance s = .next s' ∧ s'.cmd? c.id = none ∧
        s'.out = s.out ++ [.packet g.pport (s.memberPacket g c.blk 5 []).words]) ∧
    (∀ k, c.op = .drrecvR ∨ c.op = .drrecvW → s.placeOf group seq 1 = none → s.placeOf group seq 2 = none →
      s.freePlace = some k → k < s.places.length → (s.unclaimed.find? fun u => decide (u.group = group ∧ u.seq = seq)) = none →
      ∃ s' p, exec .reductionAcceptance s = .next s' ∧ s'.cmd? c.id = none ∧ s'.mem = s.mem ∧
        s'.places.getD k Place.free = p ∧ p.st = 1 ∧ p.group = group ∧ p.seq = seq ∧ p.form = (c.op == .drrecvW) ∧
        p.dst = c.srcs ∧ p.map = c.dsts ∧ p.val = none ∧ p.close = none)) ∧
  (∀ (s : State) (n : Nat) (c : Cmd), s.actor = .id n → s.cmd? n = some c →
    c.st = 1 → c.op = .dred → c.due ≤ s.clock → s.endBusy c = false →
    -- words that are not read yet are read
    ((∃ va ∈ dredVas c, ∀ w ∈ c.snap, w.va ≠ va) → ∃ s' c', exec .contributionSent s = .next s' ∧ s'.cmd? n = some c' ∧
      c' = { c with snap := c'.snap, due := c'.due } ∧ s.clock < c'.due ∧ c.snap <+: c'.snap ∧ s'.mem = s.mem ∧
      ∀ w ∈ c'.snap.drop c.snap.length, w.va ∈ dredVas c ∧ ∀ a, s.cmdPa c w.va = .ok a →
        s.sourceHeld c.die a = false ∧ w.val = s.valueFor (dieObs c.die) a ∧ (w.cause = 0 ↔ s.isBad a = false)) ∧
    -- with the last the packet leaves, and the word of RESULT says so
    (∀ ws g, (dredVas c).mapM c.read = .ok ws → s.groupEnt (rbGroup c.blk) = some g → g.role = 0 → g.pport ∈ s.ports →
      setWf s.ports = true → ∃ s', exec .contributionSent s = .next s' ∧ s'.cmd? n = none ∧
        s'.out = s.out ++ [.packet g.pport (s.memberPacket g c.blk 0 ws).words]) ∧
    (∀ x, (∀ va ∈ dredVas c, ∃ w ∈ c.snap, w.va = va) → (dredVas c).mapM c.read = .error x →
      ∃ s', exec .contributionSent s = .next s' ∧ s'.cmd? n = none ∧ s'.out = s.out)) ∧
  (∀ (s : State) (q : Packet), s.actor = .packet q →
    let does (s' : State) : Prop := exec .receivePacket s = .next s'
    let value : Bool := decide (1 ≤ q.kind ∧ q.kind ≤ 3)
    ((value = false ∧ q.kind ≠ 4) → does s) ∧
    (value = true ∨ q.kind = 4 →
      (s.placeOf q.group q.seq 1 = none → s.placeOf q.group q.seq 2 ≠ none → ∃ s', does s' ∧
        s' = { s with dv := { s.dv with drlate := min 0xFFFFFFFF (s.dv.drlate + 1) } }) ∧
      (s.placeOf q.group q.seq 1 = none → s.placeOf q.group q.seq 2 = none →
        (s.unclaimed.find? fun u => decide (u.group = q.group ∧ u.seq = q.seq)) = none → s.unclaimed.length < 16 → ∃ s', does s' ∧
        s' = { s with unclaimed := s.unclaimed ++
          [⟨q.group, q.seq, if value then some q else none, if value then none else some q⟩] }) ∧
      (∀ k p, s.placeOf q.group q.seq 1 = some k → k < s.places.length → s.places.getD k Place.free = p →
        (q.op ≠ p.op ∨ q.fmt ≠ p.fmt ∨ q.lenm1 ≠ p.lenm1 → ∃ s', does s' ∧
          s' = { s with dv := { s.dv with drbad := min 0xFFFFFFFF (s.dv.drbad + 1) } }) ∧
        (q.op = p.op → q.fmt = p.fmt → q.lenm1 = p.lenm1 → value = true → p.form = false → ∃ s', does s' ∧ s'.mem = s.mem ∧
          finalises { p with val := some q } (s'.places.getD k Place.free)) ∧
        (q.op = p.op → q.fmt = p.fmt → q.lenm1 = p.lenm1 → q.kind = 2 → p.form = true → p.close = none → ∃ s', does s' ∧
          s' = { s with places := s.places.set k { p with val := some q } })))) ∧
  -- a receive that finalises: its words are written, each once and where it lies; then RESULT, and the place is a tag
  (∀ (s : State) (k : Nat) (p : Place), s.actor = .id k → s.places[k]? = some p → p.st = 3 → Memory.wf s.mem = true →
    let does (s' : State) (p' : Place) : Prop := exec .receivePacket s = .next s' ∧ s'.places[k]? = some p'
    (p.todo ≠ [] → (∃ w ∈ p.todo, s.mayFail w.1 = true) → (∃ w ∈ p.todo, s.storeCause w.1 ≠ 0) → ∃ s' p', does s' p' ∧
      s'.mem = s.mem ∧ p' = { p with todo := [], cause := p'.cause } ∧ p'.cause ≠ 0) ∧
    (p.todo ≠ [] → (∀ w ∈ p.todo, s.mayFail w.1 = false) →
      p.todo.Pairwise (fun v w => v.1 + 8 ≤ w.1 ∨ w.1 + 8 ≤ v.1) → ∃ s' p', does s' p' ∧ p' = { p with todo := p'.todo } ∧
        (∀ w ∈ p'.todo, w ∈ p.todo) ∧ p'.todo.length < p.todo.length ∧
        (∀ w ∈ p.todo, s'.word w.1 = if w ∈ p'.todo then s.word w.1 else w.2) ∧
        ∀ b, (∀ w ∈ p.todo, b < w.1 ∨ w.1 + 8 ≤ b) → s'.byte b = s.byte b) ∧
    (p.todo = [] → handleIdx p.handle ≠ 0 → s.opBusy (handleDie p.handle) = true → exec .receivePacket s = .next s) ∧
    (p.todo = [] → handleIdx p.handle = 0 → s.storeCause p.res = 0 → ∃ s' p', does s' p' ∧
      s'.word p.res = p.result p.cause p.val ∧ onlyBytes s s' p.res 8 ∧ s.nextId < s'.nextId ∧
      p' = { Place.free with st := 2, group := p.group, seq := p.seq, finAt := s'.nextId - 1 }))

/-! ### Events of installs, pre-emption and votes -/

/-- The steps of an install. Step 1 reads the header and the entry table and finds a place; a breach there, or a page that
cannot be read, refuses the install, as no place does with NOPLACE at the end of step 2. Step 4 refuses it at the first
breach of a section with its cause, section, site and item, or makes its elements from the used site records with all
else zero, its boxes and the identifier of what was read; step 5 grants depths, or refuses with INSTALL_DEPTH and what is
missing; step 6 refuses another identifier with BADID, and commits otherwise: the elements take sq.RNDRANK and sq.RNDSTEP. That
SECTION, SITE and ITEM are 0 for a breach of the header (log 82), that an unreadable part comes after the checks of what was
read and NOPLACE at the end of step 2 (log 38), that an uncorrectable error refuses the install (log 103), and that the
elements take both registers at the commit (log 83) are the model's choice. An abandoned install leaves nothing; a retired fabric
load gives back its tiles with the RETIRE event (R27,
R71 to R76, R96, R97, R105, R371, R373 to R377). A DRAIN token of TINV reaches its memory edge behind the accesses before
it; the last one completes the TINV, with sq.TINVDONE and its event (R261, R263). -/
def Obligations.InstallsAndDrains : Prop :=
  ((∀ (s : State) (d : Nat) (x : Die) (i : Install), s.actor = .die d → s.die? d = some x → x.inst = some i →
     let now (k : Nat) : Prop := i.step = k ∧ i.due ≤ s.clock ∧ i.abandon = none
     -- the install goes on as i', and nothing else changes
     let goes (r : Instr) (i' : Install) : Prop := ∃ s', exec r s = .next s' ∧ s'.die? d = some { x with inst := some i' } ∧
       s' = { s with dies := s'.dies }
     -- the install goes on as i' after a read of its image
     let readOn (r : Instr) (i' : Install) : Prop := ∃ s', exec r s = .next s' ∧
       s'.die? d = some { x with inst := some i' } ∧ s'.mem = s.mem ∧ s'.loads = s.loads ∧ s'.elems = s.elems ∧
       ∀ q, s.seq? i.tile = some q → ∃ q', s'.seq? i.tile = some q' ∧ q' = { q with tc := q'.tc }
     -- the install is over: the word of sq.INSTST and the INSTDONE event of its tile
     let ends (r : Instr) (v : Word) : Prop := ∃ s' y, exec r s = .next s' ∧ s'.die? d = some y ∧ y.inst = none ∧
       y.csDue = (x.csDue || (i.pl.isSome && decide (fld v 0 16 ≠ 2))) ∧ ∀ q, s.seq? i.tile = some q →
         ∃ q', s'.seq? i.tile = some q' ∧ q'.instst = v ∧ q'.evpend = q.evpend ||| 2 ∧
           q' = { q with instst := q'.instst, evpend := q'.evpend, tc := q'.tc }
     (∀ q h, now 1 → i.hdr = [] → s.seq? i.tile = some q →
       let img := s.readImage q i.va 192
       h = wordsOf img.bytes →
       ((∃ k, 8 * k + 8 ≤ img.good ∧ hdrWordOk h k = false) →
         ends .installPlacement (instst Cause.badfield 0 0 0 0 3)) ∧
       ((∀ k, 8 * k + 8 ≤ img.good → hdrWordOk h k = true) → img.cause ≠ 0 →
         ends .installPlacement (instst img.cause 0 0 0 0 3))) ∧
     (∀ secs img p, now 1 → i.hdr ≠ [] → s.readSections i = some (img, secs) →
       s.mapTiles x (hdrCfgid i.hdr) i.allowed [] (secs.map fun t => ⟨t.lt, t.sites.map (·.ecw)⟩)
         (secs.flatMap (TileSec.boxes ⟨d, 0⟩)) = some p →
       goes .installPlacement { i with step := 2, pl := some p.pl, origin := p.origin, fences := s.fenceKey d p.pl.tiles
                                       due := s.clock + if p.hit then 16 else 200 + 40 * hdrNtile i.hdr + 100 * p.pl.subs.length }) ∧
     (now 2 → i.pl = none → ends .installPlacement (instst Cause.noplace 0 0 0 0 3)) ∧
     (now 2 → i.pl ≠ none → goes .installWake { i with step := 3, due := s.clock + 400 }) ∧
     (now 3 → goes .installStream
       { i with step := 4, due := s.clock + max (ceilDiv (imageBytes (hdrNtile i.hdr)) 256) 1024 }) ∧
     (∀ p img secs, now 4 → i.pl = some p → s.readSections i = some (img, secs) →
       (∀ b, sectionsBreach i.hdr secs img.good = some b → ends .installStream (instst b.cause b.sec b.site b.item 0 3)) ∧
       (sectionsBreach i.hdr secs img.good = none → img.cause ≠ 0 → ends .installStream (instst img.cause 0 0 0 0 3)) ∧
       (sectionsBreach i.hdr secs img.good = none → img.cause = 0 →
         let l : LoadRef := ⟨d, 48⟩
         let bs := p.apply l (secs.flatMap (TileSec.boxes l))
         readOn .installStream { i with
           step := 5, boxes := bs, groups := secs.map TileSec.groups, due := s.clock + 64 + 2 * dmWords bs
           elems := (secs.zip p.tiles).flatMap fun y => secElems l p y.1 y.2.2
           hash := imageId (i.hdr.flatMap (fun w => bytesOf 8 w.toNat) ++ img.bytes) })) ∧
     (∀ e p, now 5 → i.pl = some p → grantAll (p.tiles.map (·.1)) i.elems i.boxes = .error e →
       ends .installDepthGrant (instst Cause.depth e.sec e.site e.input e.tokens 3)) ∧
     (∀ bs p, now 5 → i.pl = some p → grantAll (p.tiles.map (·.1)) i.elems i.boxes = .ok bs →
       goes .installDepthGrant { i with step := 6, boxes := bs, due := s.clock + 8 }) ∧
     (∀ p, now 6 → i.pl = some p →
       (i.hash ≠ hdrCfgid i.hdr → ends .installCommit (instst Cause.badid 0 0 0 0 3)) ∧
       (i.hash = hdrCfgid i.hdr → x.csRestore = [] → s.load? ⟨d, s.freeFab d⟩ = none → ∃ s' l,
         ends .installCommit (instst 0 0 0 0 0 2) ∧ exec .installCommit s = .next s' ∧ s'.loads = s.loads ++ [l] ∧
         l.ref = ⟨d, s.freeFab d⟩ ∧
         l.cfgid = hdrCfgid i.hdr ∧ l.phase = .resident ∧ l.slots = List.replicate 8 none ∧
         l.entries.length = hdrNentry i.hdr ∧ l.tiles = (p.tiles.zip i.groups).map (fun y => ⟨y.1.1, y.1.2, y.2⟩) ∧
         s'.mem = s.mem ∧
         s'.boxes = s.boxes ++ i.boxes.map (fun (b : Box) => { b with load := ⟨d, s.freeFab d⟩ }) ∧
         s'.elems = s.elems ++ i.elems.map (fun (e : Elem) =>
           { s.seeded e with ref := { e.ref with fab := s.freeFab d }, stopped := false }) ∧
         ∀ e q, s.seq? (pkgTile e.ref.die e.ptile) = some q →
           s.seeded e = { e with rank := q.rndrank.toNat, step := q.rndstep.toNat })) ∧
     (∀ a, i.abandon = some a → a ≤ s.clock → ends .installAbandon (instst 0 0 0 0 0 4))) ∧
   -- fields of sq.INSTST, at R375's places
   (∀ cause sec site item amount state : Nat, cause < 2 ^ 16 → sec < 2 ^ 8 → site < 2 ^ 8 → item < 16 → state < 16 →
     let v := instst cause sec site item amount state
     fld v 48 16 = cause ∧ fld v 40 8 = sec ∧ fld v 32 8 = site ∧ fld v 28 4 = item ∧ fld v 16 12 = min 0xFFF amount ∧
     fld v 0 16 = state) ∧
   -- an element as a used site record makes it, and the elements of a section
   (∀ (r : ElemRef) (pt ps : Nat) (x : SiteRec), let e := mkElem r pt ps x
     e.ref = r ∧ e.ptile = pt ∧ e.psite = ps ∧ e.ecw = x.ecw ∧ e.slots = x.slots ∧
     e.c = x.consts.map (fun w => ⟨w, residue w⟩) ∧ (∀ k, k < 8 → e.p.getD k false = x.ecw.getLsbD (24 + k)) ∧
     (∀ ts ∈ e.ins, ts = []) ∧ (∀ ts ∈ e.outs, ts = []) ∧ (∀ y ∈ e.d, y.val = 0 ∧ y.pres = false) ∧ e.spe.bank = [] ∧
     (∀ y ∈ e.mxe.t, y.st = 0 ∧ y.fill = 0 ∧ y.data = []) ∧ (∀ y ∈ e.mxe.a, y.st = 0 ∧ y.words = []) ∧ e.trap = none) ∧
   (∀ (l : LoadRef) (p : Placing) (t : TileSec) (pt site : Nat) (x : SiteRec), site < 192 → t.sites[site]? = some x →
     let r : ElemRef := ⟨l.die, l.fab, t.lt, site⟩
     (x.ecw ≠ 0 → mkElem r pt (p.siteOf t.lt site) x ∈ secElems l p t pt) ∧
     (x.ecw = 0 → kindAt site ≠ .spe → ∀ e ∈ secElems l p t pt, e.ref ≠ r)) ∧
   (∀ (s : State) (l : LoadRef) (x : Load), s.actor = .load l → s.load? l = some x → x.phase = .retiring →
     (s.loadDrained l = false → exec .reconfigurationTokenPass s = .next s) ∧
     (s.loadDrained l = true → ∃ s', exec .reconfigurationTokenPass s = .next s' ∧ s'.load? l = none ∧
       (∀ m, m ≠ l → s'.load? m = s.load? m) ∧ (∀ e ∈ s'.elems, e.ref.load ≠ l) ∧ s'.mem = s.mem ∧
       ∀ t ∈ x.retireFor, ∀ q, s.seq? t = some q → ∃ q', s'.seq? t = some q' ∧ q'.evpend.getLsbD 2 = true))) ∧
  (∀ (s : State) (n tile k lo hi : Nat) (w : Access) (q : Seq), s.actor = .id n → s.acc? n = some w →
     w.op = .drain (tile * 2 ^ 40 + k) lo hi → k < 2 ^ 40 → w.due ≤ s.clock → s.drained w lo hi = true →
     s.seq? tile = some q →
     ∃ s' q', exec .drainArrival s = .next s' ∧ s'.acc? n = none ∧ s'.seq? tile = some q' ∧
       ((∀ y ∈ q.tinvs, y.1 = k → y.2 ≠ 1 ∧ y.2 ≠ 0) → q'.tinvdone = q.tinvdone ∧ q'.evpend = q.evpend) ∧
       ((k, 1) ∈ q.tinvs → q'.tinvdone = BitVec.ofNat 40 k ∧ q'.evpend = q.evpend ||| 8 ∧ ∀ y ∈ q'.tinvs, y.1 ≠ k))

/-- Pre-emption of a fabric load: a request stops its elements, or for one that needs tiles of the install in progress
abandons that and is held for 64 clocks; when it is drained, every tile's sequencer has PREEMPT pending, or a kill ends its
tasks ABANDONED with its cause, and where no task with a frame is left a request ends them with SAVE_NOFRAME, but a scheduler's
is not made and the fabric load goes on (that it goes on is the model's choice, log 100); once every tile has returned its tasks
are SAVED and hold what they held, the frame owner
is READY or its page request posted, and it retires; a quarantine writes a fence map (R340, R427, R431 to R435, R440, R443,
R450). -/
def Obligations.PreemptionSteps : Prop :=
  (∀ (s : State) (l : LoadRef) (n : Nat) (x : Load) (o : SlotX), s.actor = .loadN l n → s.load? l = some x →
    x.owner = some o → x.phase = .resident → n < 16 ∨ (∀ y, s.die? l.die = some y → y.inst = none) →
    ∃ s', exec .preempt s = .next s' ∧ s'.mem = s.mem ∧ s'.load? l = some { x with
        phase := .draining, disp := some ⟨1, 0, 0⟩, reason := n % 16, returned := [], phaseAt := s.clock } ∧
      (∀ e ∈ s'.elems, e.ref.load = l → e.stopped = true) ∧ ∀ r, r.load ≠ l → s'.elem? r = s.elem? r) ∧
  (∀ (s : State) (l : LoadRef) (n : Nat) (x : Die) (i : Install), s.actor = .loadN l n → s.die? l.die = some x →
    x.inst = some i → i.abandon = none → 16 ≤ n → ∃ s', exec .preempt s = .next s' ∧
      s'.die? l.die = some { x with inst := some { i with abandon := some (s.clock + 64) } } ∧
      s' = { s with dies := s'.dies, inputs := s.inputs ++ [(s.clock + 64, .preempt, .loadN l (n % 16))] }) ∧
  (∀ (s : State) (l : LoadRef) (x : Load), s.actor = .load l → s.load? l = some x → Memory.wf s.mem = true →
    -- the records of its tasks are distinct records of State
    let clear : Prop := (x.slots.filterMap id).Pairwise (fun t u => ∀ a b, s.recAddr t.handle = some a →
        s.recAddr u.handle = some b → a ≠ b) ∧ ∀ t ∈ x.slots.filterMap id, s.recAddr t.handle ≠ none
    (∀ dsp, x.phase = .draining → x.disp = some dsp → s.cancelDeferred l = s → s.loadDrained l = true →
      s.completing x = false → (∀ e ∈ s.elems, e.ref.load = l → e.drained = true) →
      -- its tasks end ABANDONED with the cause
      let killed (cause : Nat) : Prop := ∃ s' y, exec .preemptDrainEnd s = .next s' ∧ s'.load? l = some y ∧ y.phase = .retiring ∧
        y.slots = List.replicate 8 none ∧
        (clear → (∀ t ∈ x.slots.filterMap id, s.vote? t.handle = none) → cause < 2 ^ 16 →
          ∀ t ∈ x.slots.filterMap id, s'.trState t.handle = 7 ∧
            s'.trErr t.handle = if s.trErr t.handle = 0 then cause else s.trErr t.handle)
      (∀ o, x.owner = some o → dsp.level ≠ 3 → ∃ s' y, exec .preemptDrainEnd s = .next s' ∧ s'.load? l = some y ∧
        y.phase = .saving ∧
        y.slots = x.slots ∧
        s'.elems.map (fun (e : Elem) => { e with mpe := { e.mpe with replay := [] } }) =
          s.elems.map (fun (e : Elem) => { e with mpe := { e.mpe with replay := [] } }) ∧
        ∀ t ∈ x.tiles, ∀ q, s.seq? (pkgTile l.die t.pt) = some q →
          ∃ q' p, s'.seq? (pkgTile l.die t.pt) = some q' ∧ p ∈ q'.pend ∧ p.src = .preempt l ∧ p.cause = Cause.preempt) ∧
      (dsp.level = 3 → killed dsp.cause) ∧
      (x.owner = none → dsp.level ≠ 3 → x.reason ≠ 0 → killed Cause.saveNoframe) ∧
      (x.owner = none → dsp.level ≠ 3 → x.reason = 0 → (∀ e ∈ s.elems, e.ref.load = l → e.mpe.reissue = []) →
        ∃ s', exec .preemptDrainEnd s = .next s' ∧
          s'.load? l = some { x with phase := .resident, disp := none, reason := 0, phaseAt := s.clock } ∧
          s' = { s with loads := s'.loads, elems := s.elems.map fun (e : Elem) =>
            if e.ref.load = l then { e with stopped := false } else e })) ∧
    (∀ o, x.phase = .saving → x.phaseAt < s.clock → (∀ t ∈ x.tiles, t.lt ∈ x.returned) → x.owner = some o →
      ∃ s' y v, exec .preemptCommit s = .next s' ∧ s'.load? l = some y ∧ y.phase = .retiring ∧
        y.slots = List.replicate 8 none ∧ s'.saved = s.saved ++ [v] ∧ v.owner = o.handle ∧ v.die = l.die ∧
        v.cfgid = x.cfgid ∧ v.frame = o.frame ∧ v.tasks = x.slots ∧
        (clear → ∀ t ∈ x.slots.filterMap id, t.handle ≠ o.handle ∨ v.page = true → s'.trState t.handle = 4) ∧
        (∀ dsp, x.disp = some dsp → dsp.level = 2 → v.page = true ∧ s'.pgpend = s.pgpend ++ [o.handle]) ∧
        (∀ dsp a, x.disp = some dsp → dsp.level ≠ 2 → s.recAddr o.handle = some a →
          v.page = false ∧ s'.trState o.handle = 2))) ∧
  (∀ (s : State),
    (∀ h rest, s.pgpend = h :: rest → s.pgreq.length < 256 →
      exec .pageRequestPost s = .next { s with pgreq := s.pgreq ++ [h], pgpend := rest }) ∧
    (256 ≤ s.pgreq.length → exec .pageRequestPost s = .next s)) ∧
  (∀ (s : State) (t n : Nat) (v : Word) (q : Seq), s.actor = .reg t n v → s.seq? t = some q → n < 4 → q.fmap.length = 4 →
    ∃ s' q', exec .quarantine s = .next s' ∧ s'.seq? t = some q' ∧ q' = { q with fmap := q'.fmap } ∧ onlySeq s s' t ∧
      ∀ k, k < 4 → q'.fmap.getD k 0 = if k = n then (if n = 3 then v &&& 1 else v) else q.fmap.getD k 0)

/-- A restore that every tile has returned from makes the fabric load resident, with its saved tasks in their slots again
and RUNNING, or retires it when nothing is saved for it; one whose tasks no longer translate ends them ABANDONED, as an
uncorrectable word that the HTS meets in the save image does
with UNCORRECTABLE and an entry of KIND 6 (that it ends the restore is the model's choice, log 101; R451). A vote
closes on what its executions say: two equal signatures complete the task, three unequal ones fail it with VOTE_FAIL, and a
second execution alone completes it when the first was killed (R340, R434, R439, R446). -/
def Obligations.RestoresAndVotes : Prop :=
  (∀ (s : State) (l : LoadRef) (x : Load), s.actor = .load l → s.load? l = some x → x.phase = .restoring →
    (∀ t ∈ x.tiles, t.lt ∈ x.returned) →
    ((s.saved.find? fun v => some v.owner == x.restoreOf) = none → ∃ s' y, exec .restoreCompletion s = .next s' ∧
      s'.load? l = some y ∧ y.phase = .retiring ∧ s'.mem = s.mem) ∧
    (∀ v s1 slots, (s.saved.find? fun v => some v.owner == x.restoreOf) = some v → Memory.wf s.mem = true →
      s.renewSlots x 0 v.tasks = (s1, slots, 0) → s1.imageBad x v.frame = false → s.newProbes x v slots = [] →
        (∀ p ∈ x.probes, p.answered = true) →
      (∀ t, some t ∈ slots → s.weightHeld t = false) →
      v.held = [] → v.page = false → x.heldReq = none → x.entries = [] →
      (∀ e ∈ s.elems, e.ref.load = l → e.mpe.reissue = [] ∧ e.shadow = [] ∧ e.mpe.travs = [] ∧ e.mpe.reemit = [] ∧
        ∀ y ∈ e.mpe.replay, y.standing = false) →
      ∃ s' y, exec .restoreCompletion s = .next s' ∧ s'.load? l = some y ∧ y.phase = .resident ∧ y.restoreOf = none ∧
        y.slots = slots ∧ slots.map (fun t => t.map (·.handle)) = v.tasks.map (fun t => t.map (·.handle)) ∧
        (∀ e ∈ s'.elems, e.ref.load = l → e.stopped = false) ∧ (∀ z ∈ s'.saved, z.owner ≠ v.owner) ∧
        ((slots.filterMap id).Pairwise (fun t u => ∀ a b, s.recAddr t.handle = some a → s.recAddr u.handle = some b → a ≠ b) →
          ∀ t, some t ∈ slots → s.recAddr t.handle ≠ none → s'.trState t.handle = 3)) ∧
    (∀ v s1 slots c, (s.saved.find? fun v => some v.owner == x.restoreOf) = some v →
      s.renewSlots x 0 v.tasks = (s1, slots, c) → c ≠ 0 → ∃ s' y, exec .restoreCompletion s = .next s' ∧
        s'.load? l = some y ∧ y.phase = .retiring ∧ ∀ z ∈ s'.saved, z.owner ≠ v.owner) ∧
    (∀ v s1 slots, (s.saved.find? fun v => some v.owner == x.restoreOf) = some v →
      s.renewSlots x 0 v.tasks = (s1, slots, 0) → s1.imageBad x v.frame = true → Memory.wf s.mem = true →
      ∃ s' y, exec .restoreCompletion s = .next s' ∧ s'.load? l = some y ∧ y.phase = .retiring ∧
        (∀ z ∈ s'.saved, z.owner ≠ v.owner) ∧ (s.selog.length < 64 → ⟨6, 0, 0, v.owner⟩ ∈ s'.selog) ∧
        (((v.tasks.filterMap id).Pairwise fun t u => ∀ a b, s.recAddr t.handle = some a → s.recAddr u.handle = some b → a ≠ b) →
          ∀ t ∈ v.tasks.filterMap id, s.recAddr t.handle ≠ none → s.vote? t.handle = none →
            s'.trState t.handle = 7 ∧ (s.trErr t.handle = 0 → s'.trErr t.handle = Cause.uncorrectable)))) ∧
  (∀ (s : State) (d h a : Nat) (v : Vote), s.actor = .dieN d h → s.vote? h = some v → Memory.wf s.mem = true →
    s.recAddr h = some a → s.recBad h = false → v.fail = false →
    let logged (s' : State) (kind : Nat) (tiles : List Nat) : Prop :=
      s.selog.length + tiles.length ≤ 64 → s'.selog = s.selog ++ tiles.map fun t => ⟨kind, t, 0, h⟩
    let closes (kind : Nat) (tiles : List Nat) (st : Nat) : Prop := ∃ s', exec .voteClose s = .next s' ∧
      s'.vote? h = none ∧ s'.trState h = st ∧ logged s' kind tiles
    let good := if s.trErr h = 0 then 5 else 7
    (∀ y, v.s1 = none → v.s2 = some y → ∃ s', exec .voteClose s = .next s' ∧ s'.vote? h = none ∧ s'.trState h = good ∧
      s'.selog = s.selog) ∧
    (∀ x y, v.s1 = some x → v.s2 = some y → v.s3 = none →
      (x = y → closes 2 v.excl good) ∧ (x ≠ y → exec .voteClose s = .next s)) ∧
    (∀ x y z, v.s1 = some x → v.s2 = some y → v.s3 = some z →
      (z = y → closes 3 v.excl good) ∧ (z ≠ y → z = x → closes 4 v.e2tiles good) ∧
      (z ≠ y → z ≠ x → closes 5 v.excl 7 ∧ ∃ s', exec .voteClose s = .next s' ∧ s'.trErr h = Cause.voteFail))) ∧
  -- a vote that has failed
  (∀ (s : State) (d h a : Nat) (v : Vote), s.actor = .dieN d h → s.vote? h = some v → Memory.wf s.mem = true →
    s.recAddr h = some a → v.fail = true → ∃ s', exec .voteClose s = .next s' ∧ s'.vote? h = none ∧ s'.trState h = 7 ∧
      s'.trErr h = Cause.voteFail)

/-! ### The host link, power and reset -/

/-- Messages of a master, taken in while the package is awake: RD answers words of memory and registers; WR of the
owner writes memory, and any other master's is refused with NOTOWNER; CAS on dv.CLAIM answers the old word and takes
the new one where it may; TKEN of the owner enters the admission queue; ATTEST answers the report, or BADMSG for an address
that does not exist; memory is read as HBM holds it; a message with a
wrong CRC, or of a tag that is outstanding, has no such effect, a failed boot takes no write, and a package in a power
state wakes first (R454 to R459, R461, R462, R464). That a WR sets presence (log 42), the order of BADMSG, NOTOWNER and
READONLY (log 67), that a message wakes the package and is then served (log 41), and that a WR's registers and its RESP come in
later steps (log 69) are the model's choice. -/
def Obligations.HostMessages : Prop :=
  ∀ (s : State) (m : Msg), s.actor = .msg m → Memory.wf s.mem = true →
    (s.dv.bootfail = true → exec .hostWr s = .next s ∧ exec .hostCas s = .next s ∧ exec .hostTken s = .next s) ∧
    (s.dv.bootfail = false → s.dv.pstate ≠ 0 → m.intact = true →
      let woken (i : Instr) : Prop := exec i s =
        .next { s with agenda := Turn.event .wake .none :: .event i (.msg m) :: s.agenda }
      (m.type = 1 → woken .hostRd) ∧ (m.type = 2 → woken .hostWr) ∧ (m.type = 3 → woken .hostCas) ∧
      (m.type = 4 → woken .hostTken) ∧ (m.type = 5 → woken .attest)) ∧
    (s.dv.bootfail = false → s.dv.pstate = 0 →
    let taken : State := { s with tags := s.tags ++ [(m.master, m.tag)] }
    let fresh : Prop := m.intact = true ∧ (s.tags.contains (m.master, m.tag)) = false
    (m.intact = false → exec .hostRd s = .next s ∧ exec .hostWr s = .next s ∧ exec .hostCas s = .next s ∧
      exec .hostTken s = .next s ∧ exec .attest s = .next s) ∧
    (m.intact = true → (s.tags.contains (m.master, m.tag)) = true →
      let refused : State := s.sendResp m.master m.tag stBadMsg []
      (m.type = 1 → exec .hostRd s = .next refused) ∧ (m.type = 2 → exec .hostWr s = .next refused) ∧
      (m.type = 3 → exec .hostCas s = .next refused) ∧ (m.type = 4 → exec .hostTken s = .next refused) ∧
      (m.type = 5 → exec .attest s = .next refused)) ∧
    (fresh → m.type = 1 → rdBad m = false →
      (∀ a ∈ m.words (fld (m.word 0) 0 5), dvNum a = none → s.isBad a = false) → ∃ s', exec .hostRd s = .next s' ∧
        (let read (a : Nat) : Word := match dvNum a with
          | some n => s.dvRead n
          | none => s.hbmWord a
        let answered := taken.respond m.master m.tag 0 ((m.words (fld (m.word 0) 0 5)).map read)
        s' = { answered with agenda := s'.agenda })) ∧
    (fresh → m.type = 2 → wrBad m = false →
      (s.ownedBy m.master = false → exec .hostWr s = .next (taken.respond m.master m.tag stNotOwner [])) ∧
      (∀ v, s.ownedBy m.master = true → m.len = 1 → m.data = [v] → dvNum m.addr = none → s.storeCause m.addr ≠ Cause.eqarea →
        ∃ s', exec .hostWr s = .next s' ∧ s'.word m.addr = v ∧ onlyBytes s s' m.addr 8 ∧ s'.present m.addr = true ∧
          s'.agenda = .event .hostWr (.done m.master m.tag) :: s.agenda) ∧
      (∀ v n, s.ownedBy m.master = true → m.len = 1 → m.data = [v] → dvNum m.addr = some n → dvReadonly n = true →
        exec .hostWr s = .next (taken.respond m.master m.tag stReadOnly [])) ∧
      (∀ v, s.ownedBy m.master = true → m.len = 1 → m.data = [v] → dvNum m.addr = some 1 →
        let turns := Turn.event .registerWrite (.reg 0 1 v) :: .event .hostWr (.done m.master m.tag) :: s.agenda
        exec .hostWr s = .next { taken with agenda := turns })) ∧
    (fresh → m.type = 3 → casBad m = false → m.addr ≠ dvBase → exec .hostCas s =
      .next (taken.respond m.master m.tag (if s.ownedBy m.master then stBadMsg else stNotOwner) [])) ∧
    (fresh → m.type = 3 → casBad m = true → exec .hostCas s = .next (taken.respond m.master m.tag stBadMsg [])) ∧
    (fresh → m.type = 3 → casBad m = false → m.addr = dvBase → ∃ s', exec .hostCas s = .next s' ∧
      s' = { (taken.respond m.master m.tag 0 [s.dv.claim]) with dv := s'.dv } ∧
      s'.dv = { s.dv with claim := s'.dv.claim } ∧
      (claimAllows m.master s.dv.claim (m.word 0) (m.word 1) = false → s'.dv.claim = s.dv.claim) ∧
      (claimAllows m.master s.dv.claim (m.word 0) (m.word 1) = true →
        fld s'.dv.claim 34 30 = fld (m.word 1) 34 30 ∧
        fld s'.dv.claim 0 32 = (fld s.dv.claim 0 32 +
          if okind s.dv.claim ≠ okind (m.word 1) ∨ opkg s.dv.claim ≠ opkg (m.word 1) then 1 else 0) % 2 ^ 32)) ∧
    (fresh → m.type = 4 → m.len = 0 →
      (s.ownedBy m.master = false → exec .hostTken s = .next (taken.respond m.master m.tag stNotOwner [])) ∧
      (∀ x, s.ownedBy m.master = true → s.die? (handleDie (fld m.header 0 32)) = some x → ∃ s' q,
        exec .hostTken s = .next s' ∧ s'.die? (handleDie (fld m.header 0 32)) = some { x with adm := x.adm ++ [q] } ∧
        q.op = .tken ∧ q.handle = fld m.header 0 32 ∧ q.who = .host m.master m.tag ∧ s'.mem = s.mem)) ∧
    (fresh → m.type = 5 → m.len = 4 → addrsOk [m.addr] = true → ∃ s' ps, exec .attest s = .next s' ∧ s'.mem = s.mem ∧
      s'.dv = s.dv ∧ s'.out = s.out ++ ps ∧ (∀ p ∈ ps, ∃ header ws crc, p = .msg m.master header ws crc ∧ ws.length ≤ 31) ∧
      (ps.flatMap fun p => match p with
        | .msg _ _ ws _ => ws
        | _ => []) = s.report m.data) ∧
    (fresh → m.type = 5 → m.len ≠ 4 ∨ addrsOk [m.addr] = false →
      exec .attest s = .next (taken.respond m.master m.tag stBadMsg [])))

/-- Device registers: a write takes the writable fields and no other register; dv.SYESTAT is cleared by a 1; reads of
dv.PGREQ and dv.SELOG by the owner remove what they returned, and another master's remove nothing; dv.PGDONE makes the
SAVED owner READY; the first dv.BOOTVA with V releases every sequencer at its address, privileged (R249, R338, R347,
R412, R443, R445, R449, R457, R461). -/
def Obligations.DeviceRegisters : Prop :=
  ∀ (s : State) (t n : Nat) (v : Word),
    (s.actor = .reg t n v →
      (∃ s', exec .registerWrite s = .next s' ∧ s' = { s with dv := s'.dv } ∧
        ∀ k, k ≠ n → k ≠ 20 → k ≠ 23 → s'.dvRead k = s.dvRead k) ∧
      (n = 1 → ∃ s', exec .registerWrite s = .next s' ∧ s'.dvRead 1 = v &&& 0x00000FFFFFFC0000) ∧
      (2 ≤ n → n ≤ 5 → ∃ s', exec .registerWrite s = .next s' ∧ s'.dvRead n = v &&& 0x007FFFFFFFFF0000) ∧
      (6 ≤ n → n ≤ 9 → ∃ s', exec .registerWrite s = .next s' ∧ s'.dvRead n = v &&& 0xFFFFFFFF) ∧
      (n = 16 → ∃ s', exec .registerWrite s = .next s' ∧ s'.dvRead 16 = v &&& 0xFFFFFFFF) ∧
      (n = 22 → ∃ s', exec .registerWrite s = .next s' ∧ s'.dvRead 22 = v &&& 0xFF03) ∧
      (n = 24 → ∃ s', exec .registerWrite s = .next s' ∧ s'.dvRead 24 = v &&& 0x80000000FFFFFFFF) ∧
      (exec .syestatClear s = .next (if v.getLsbD 0 then { s with dv := { s.dv with syestat := 0 } } else s)) ∧
      (∀ a x, Memory.wf s.mem = true → s.recAddr (fld v 0 32) = some a → s.die? (handleDie (fld v 0 32)) = some x →
        (s.saved.any fun z => z.owner == fld v 0 32 && z.page) = true → s.trState (fld v 0 32) = 4 →
        ∃ s' y, exec .pgdone s = .next s' ∧ s'.trState (fld v 0 32) = 2 ∧ s'.die? (handleDie (fld v 0 32)) = some y ∧
          y.ready = x.ready ++ [s.readyEnt (fld v 0 32)] ∧ (s.readyEnt (fld v 0 32)).handle = fld v 0 32 ∧
          (s.readyEnt (fld v 0 32)).since = s.clock ∧ (s.readyEnt (fld v 0 32)).prio = s.trPrio (fld v 0 32)) ∧
      (s.trState (fld v 0 32) ≠ 4 → exec .pgdone s = .next s) ∧
      (v.getLsbD 63 = true → s.released = false → ∃ s', exec .bootva s = .next s' ∧ s'.released = true ∧
        s'.dv = { s.dv with bootva := v &&& 0x81FFFFFFFFFFFFFF } ∧
        ∀ u q, s.seq? u = some q → ∃ q', s'.seq? u = some q' ∧ q'.held = false ∧ q'.priv = true ∧ q'.inTrap = false ∧
          q'.pc = BitVec.ofNat 57 (fld v 2 55 * 4) ∧ q'.tvec = BitVec.ofNat 64 (fld v 2 55 * 4) ∧
          q' = { q with held := false, pc := q'.pc, tvec := q'.tvec, status := q'.status }) ∧
      (v.getLsbD 63 = false ∨ s.released = true →
        exec .bootva s = .next { s with dv := { s.dv with bootva := v &&& 0x81FFFFFFFFFFFFFF } })) ∧
    (s.actor = .owner false → exec .pgreqRead s = .next s ∧ exec .selogRead s = .next s) ∧
    (s.actor = .owner true →
      (s.pgpend = [] → exec .pgreqRead s = .next { s with pgreq := s.pgreq.drop 1 }) ∧
      (s.pgpend ≠ [] → exec .pgreqRead s = .next { s with
        pgreq := s.pgreq.drop 1, agenda := .event .pageRequestPost .none :: s.agenda }) ∧
      (∀ x xs, s.selog = x :: xs → exec .selogRead s = .next { s with selog := xs }) ∧
      (s.selog = [] → exec .selogRead s = .next { s with selogLost := 0 }))

/-- Every row of a block runs for the actor of its block, and answers a next state: a row of an element, of a die or of a
sequencer when that is there, a row of a fabric load, of an access, request, command or instance for any name, and a row of
the package as a whole always (what each does is stated row by row; a step whose object is gone or not due yet changes
nothing). -/
def Obligations.BlocksAnswer : Prop :=
  ∀ s : State,
    let answer (is : List Instr) : Prop := ∀ i ∈ is, ∃ t, exec i s = .next t
    (∀ r e, s.actor = .elem r → s.elem? r = some e → answer [.escapement, .microprogramStep, .microprogramCompletion,
      .microprogramSuspend, .bankClock, .yieldClock, .crossReservation, .crossRequest, .arrayStart, .arrayComplete,
      .drainPortToken]) ∧
    (∀ r n e, s.actor = .elemN r n → s.elem? r = some e → answer [.balanceReweight, .deferredReply, .crossReply,
      .addressGeneratorIssue, .accessIssue, .memoryReply, .traversalStep, .commandBlockCheck]) ∧
    (∀ n, s.actor = .id n → answer [.memoryEdgeAccess, .atomicPerform, .depDecrement, .arborPoint, .commandAcceptance,
      .copyChunk, .conversionPhase, .densChunk, .commandEnd, .remoteTimeout, .contributionSent, .portDown, .portUp,
      .drainArrival]) ∧
    (∀ d x, s.actor = .die d → s.die? d = some x → answer [.admissionRequest, .dispatch, .configurationChoice,
      .reductionAcceptance, .installPlacement, .installWake, .installStream, .installDepthGrant, .installCommit,
      .installAbandon, .hardwareTrip]) ∧
    (∀ d n x, s.actor = .dieN d n → s.die? d = some x → answer [.memoryEdgeAccess, .gdeDelivery, .admissionRequest,
      .voteClose]) ∧
    (∀ l, s.actor = .load l → answer [.stageAdvance, .reconfigurationTokenPass, .preemptDrainEnd, .preemptCommit,
      .restoreCompletion]) ∧
    (∀ l n, s.actor = .loadN l n → answer [.taskCompletion, .threadTokenWrite, .refillRequest, .refillReturn, .entryEmit,
      .preempt]) ∧
    (∀ q, s.actor = .req q → answer [.remoteRequest]) ∧
    (∀ p, s.actor = .rep p → answer [.remoteReply]) ∧
    (∀ p, s.actor = .packet p → answer [.reductionPacket, .receivePacket]) ∧
    (∀ b ws, s.actor = .flits b ws → answer [.reductionPacket]) ∧
    (∀ g n, s.actor = .inst g n → answer [.deadlineExpiry, .closeDeadlineExpiry]) ∧
    (∀ m, s.actor = .msg m → answer [.hostRd, .hostWr, .hostCas, .hostTken, .attest]) ∧
    (∀ m n, s.actor = .done m n → answer [.hostWr]) ∧
    (∀ b, s.actor = .owner b → answer [.pgreqRead, .selogRead]) ∧
    (∀ t n v, s.actor = .reg t n v → answer [.registerWrite, .pgdone, .syestatClear, .bootva]) ∧
    (∀ t n v q, s.actor = .reg t n v → s.seq? t = some q → answer [.quarantine]) ∧
    (∀ g ws, s.actor = .table g ws → answer [.groupTableWrite]) ∧
    (∀ t q, s.actor = .seq t → s.seq? t = some q → answer [.illegal, .trapEntry, .tret]) ∧
    answer [.weightRefreshWindow, .pageRequestPost, .reset, .powerStateEntry, .wake, .ownerLoss, .boardPowerUp]

/-- Reset and power: a reset and a power-up leave every sequencer held, nothing resident and the registers at their
reset values, a reset with the next incarnation; the task records and queues read zero; the deepest state that may be
entered is entered, state 3 with memory lost; a wake ends states 1 and 2 with everything kept; a reset leaves other memory,
but for nodes of arbors that were not written back; the loss of the owner clears OKIND and NKIND; a
trip of the element clock changes nothing a program can read (R404, R459 to R461, R464, R465). What a reset keeps (log 40), what
the power states keep and lose, that no element clock passes in them, and what a wake from state 3 keeps (log 41), how the loss
of the owner is found (log 70), and that the trip is not modelled further (log 77) are the model's choice. -/
def Obligations.ResetAndPower : Prop :=
  ∀ (s : State),
    let fresh (s' : State) (incarn : BitVec 32) : Prop :=
      s'.seqs = State.reset.seqs ∧ s'.dies = State.reset.dies ∧ s'.loads = [] ∧ s'.elems = [] ∧ s'.boxes = [] ∧
      s'.accs = [] ∧ s'.cmds = [] ∧ s'.tags = [] ∧ s'.groups = [] ∧ s'.selog = [] ∧ s'.released = false ∧
      s'.dv = { Dv.atReset incarn with bootfail := s'.dv.bootfail } ∧ s'.agenda = []
    (∃ s', exec .reset s = .next s' ∧ fresh s' (s.dv.incarn + 1) ∧
      (∀ a, 0x30000000000 ≤ a ∨ (s.recAt a).isSome = true → s'.byte a = 0) ∧
      (Memory.wf s.mem = true → ∀ a, a < 0x30000000000 → s.recAt a = none →
        s'.byte a = s.byte a ∨ ∃ p ∈ s.unwritten, p.pa ≤ a ∧ a < p.pa + 8 * p.words.length)) ∧
    (∃ s' i, exec .boardPowerUp s = .next s' ∧ fresh s' i ∧ s'.mem = []) ∧
    (s.dv.bootfail = true → exec .powerStateEntry s = .next s) ∧
    (let p := max s.dv.pstate s.deepest
     let entered : State := { s with dv := { s.dv with pstate := p } }
     s.dv.bootfail = false → (p ≠ 3 ∨ s.dv.pstate = 3 → exec .powerStateEntry s = .next entered) ∧
       (p = 3 → s.dv.pstate ≠ 3 → exec .powerStateEntry s =
         .next { entered with mem := [], presence := [], bad := [], unwritten := [] })) ∧
    (s.working = true → s.deepest = 0) ∧ (fld s.dv.ltol 0 32 < 1600 → s.deepest = 0) ∧
    (s.dv.pstate ≠ 3 → exec .wake s = .next { s with dv := { s.dv with pstate := 0 } }) ∧
    (s.dv.pstate = 3 → ∃ s', exec .wake s = .next s' ∧ s'.seqs = State.reset.seqs ∧ s'.loads = [] ∧ s'.mem = [] ∧
      s'.dv = { Dv.atReset (s.dv.incarn + 1) with claim := s.dv.claim, pkgnum := s.dv.pkgnum } ∧ s'.clock = s.clock ∧
      s'.tags = s.tags) ∧
    (∃ s', exec .ownerLoss s = .next s' ∧ okind s'.dv.claim = 0 ∧ nkind s'.dv.claim = 0 ∧
      s'.dv = { s.dv with claim := s'.dv.claim } ∧ s'.mem = s.mem ∧
      (okind s.dv.claim ≠ 0 → fld s'.dv.claim 0 32 = (fld s.dv.claim 0 32 + 1) % 2 ^ 32)) ∧
    (∀ d x, s.actor = .die d → s.die? d = some x → ∃ s', exec .hardwareTrip s = .next s' ∧
      s'.die? d = some { x with trip := true } ∧ s' = { s with dies := s'.dies } ∧ ∀ u, u ≠ d → s'.die? u = s.die? u)

/-! ### Words, steps and the whole machine -/

/-- The sequencer words of the spec's examples (after R65) and words of other rows of R63, and the slots of the spec's
worked encodings (after R46 and R130), decode to what they stand for; some undefined words and an opcode that no kind
has do not decode (R50, R51, R62 to R64). -/
def Obligations.WorkedWords : Prop :=
  decodeTableWord 32 0x08A2FFFC = some (.addi 5 2 0xFFFC) ∧ decodeTableWord 32 0x30620010 = some (.ldd 3 2 16) ∧
  decodeTableWord 32 0x44200003 = some (.beq 1 0 3) ∧ decodeTableWord 32 0xAC000002 = some (.seqFence 2) ∧
  decodeTableWord 32 0x0443280D = some (.remu 2 3 5) ∧ decodeTableWord 32 0x5FFFFFFE = some (.jal 31 0x1FFFFE) ∧
  decodeTableWord 32 0x18A20083 = some (.srai 5 2 3) ∧ decodeTableWord 32 0x8041C012 = some (.scrc 2 1 0x12) ∧
  decodeTableWord 32 0x8C640028 = some (.erd 3 4 0x28) ∧ decodeTableWord 32 0xA0000000 = some .tret ∧
  decodeTableWord 32 0x00000000 = none ∧ decodeTableWord 32 0x0443280E = none ∧
  decodeTableWord 32 0xAC000005 = none ∧ decodeTableWord 32 0xA0000001 = none ∧
  decodeSlot .ce 0x208009B502003185 = .ok (.add
    { pcare := 2, pval := 0, irdy := 3, ospc := 1, ten := 1, tch := 0, tval := 1, grp := 1, lane := 1, dst := 0,
      srca := 0, srcb := 1, deq := 3, pidx := 3, pmode := 1, otag := 1 }) ∧
  decodeSlot .ce 0x2022600000000001 = .ok (.add
    { pcare := 0, pval := 0, irdy := 0, ospc := 0, ten := 0, tch := 0, tval := 0, grp := 1, lane := 0, dst := 4,
      srca := 4, srcb := 12, deq := 0, pidx := 0, pmode := 0, otag := 0 }) ∧
  decodeSlot .mpe 0x208009B502003185 = .ok (.ld
    { pcare := 2, pval := 0, irdy := 3, ospc := 1, ten := 1, tch := 0, tval := 1, grp := 1, lane := 1, dst := 0,
      srca := 0, srcb := 1, deq := 3, pidx := 3, pmode := 1, otag := 1 }) ∧
  decodeSlot .ce 0xFE00000000000000 = .error .badOpcode

/-- Which words are undefined, and that an undefined word traps ILLEGAL with no effect on any register or memory, in
either mode (R64; the list of fields that must be zero is R63's). That a word both undefined and privileged traps ILLEGAL in
user mode is the model's choice (log 84). -/
def Obligations.UndefinedWords : Prop :=
  (∀ x : BitVec 32,
    let n := x.toNat
    let maj := n / 2 ^ 26
    let gd := fld (BitVec.ofNat 64 n) 21 5
    let ga := fld (BitVec.ofNat 64 n) 16 5
    let gb := fld (BitVec.ofNat 64 n) 11 5
    let fn := n % 2 ^ 11
    let reserved : Prop := maj = 0 ∨ (0x19 ≤ maj ∧ maj ≤ 0x1F) ∨ 0x2C ≤ maj
    let notZero : Prop :=
      (maj = 0x06 ∧ n / 2 ^ 8 % 2 ^ 8 ≠ 0) ∨ (maj = 0x08 ∧ ga ≠ 0) ∨ (maj = 0x21 ∧ (gd ≠ 0 ∨ fn ≠ 0)) ∨
      (maj = 0x22 ∧ (gb ≠ 0 ∨ fn ≠ 0)) ∨ (maj = 0x23 ∧ gb ≠ 0) ∨ (maj = 0x24 ∧ gd ≠ 0) ∨
      (maj = 0x25 ∧ (gb ≠ 0 ∨ fn ≠ 0)) ∨ (maj = 0x26 ∧ (gd ≠ 0 ∨ fn ≠ 0)) ∨ (maj = 0x27 ∧ fn ≠ 0) ∨
      (maj = 0x28 ∧ (gd ≠ 0 ∨ ga ≠ 0 ∨ gb ≠ 0 ∨ fn ≠ 0)) ∨ (maj = 0x29 ∧ (gb ≠ 0 ∨ fn ≠ 0)) ∨ (maj = 0x2A ∧ gb ≠ 0) ∨
      (maj = 0x2B ∧ (gd ≠ 0 ∨ ga ≠ 0 ∨ gb ≠ 0 ∨ fn / 2 ^ 4 ≠ 0))
    (∃ u, decodeSeq x = .error u) ↔
      reserved ∨ (maj = 0x01 ∧ 14 ≤ fn) ∨ (maj = 0x06 ∧ n / 2 ^ 6 % 2 ^ 2 = 3) ∨
      (maj = 0x2B ∧ 5 ≤ n % 16 ∧ n % 16 ≤ 7) ∨ notZero) ∧
  (∀ (s : State) (t : Nat) (q : Seq), seqThere s t q → trapsSeq .illegal s t q Cause.illegal) ∧
  (∀ (s : State) (rest : List Turn) (t : Nat) (q : Seq) (u : Undef), s.agenda = .seq t :: rest → s.seq? t = some q →
    q.held = false → q.busy ≤ s.clock → q.pend = [] ∨ q.inTrap = true → q.wev = none →
    let x := s.seqXlat q .fetch q.pc.toNat 4
    x.cause = 0 → s.isBad (wordOf x.pa) = false → decodeSeq (BitVec.ofNat 32 (s.readN x.pa 4)) = .error u →
    ∃ s' q' dt, step s = .next s' ∧ s'.seq? t = some q' ∧ q'.regs = q.regs ∧ s'.mem = s.mem ∧
      q' = Seq.enter { q with tc := x.tc } ⟨.word, Cause.illegal, dt, s.clock, 0⟩ ∧
      s' = { s with agenda := rest, actor := .seq t, seqs := s'.seqs, freeCount := s'.freeCount })

/-- The decoder and the encoder of sequencer words agree in both directions: no bit of a word is dropped, and each
instruction has one word. -/
def Obligations.SeqRoundTrip : Prop :=
  (∀ (i : Instr) (x : BitVec 32), i.wf = true → encodeSeq i = some x → decodeSeq x = .ok i) ∧
  (∀ (i : Instr) (x : BitVec 32), decodeSeq x = .ok i → i.wf = true ∧ encodeSeq i = some x)

/-- The decoder and the encoder of slots agree: every slot instruction whose fields keep their limits decodes, in an
element of its kind, to itself; and a slot that decodes is the word of what it decodes to. -/
def Obligations.SlotRoundTrip : Prop :=
  (∀ (i : Instr) (e : Entry) (k : Kind), i.wf = true → entry i = some e → e.kind = none ∨ e.kind = some k →
    ∃ x, encodeSlot i = some x ∧ decodeSlot k x = .ok i) ∧
  (∀ (i : Instr) (k : Kind) (x : Word), decodeSlot k x = .ok i → encodeSlot i = some x)

/-- A step runs the decoded instruction: a sequencer that is due fetches the word at PC through its translation and
runs what it decodes to, ILLEGAL for an undefined one; a fetch that fails traps with PC unchanged; a firing runs what
its slot decodes to; and a step of a block runs its row (R64, R264, R365, R368). -/
def Obligations.StepRunsDecoded : Prop :=
  ∀ (s : State) (rest : List Turn),
    let s0 : State := { s with agenda := rest }
    (∀ (t : Nat) (q : Seq), s.agenda = .seq t :: rest → s.seq? t = some q → q.held = false → q.busy ≤ s.clock →
      q.pend = [] ∨ q.inTrap = true → q.wev = none →
      let x := s.seqXlat q .fetch q.pc.toNat 4
      let i := wordInstr (BitVec.ofNat 32 (s.readN x.pa 4))
      let fetched : State := s0.xlated t x
      (x.cause = 0 → s.isBad (wordOf x.pa) = false → s.seqWaits q i = false →
        step s = exec i { fetched with actor := .seq t }) ∧
      (x.cause ≠ 0 → ∃ s' q' dt, step s = .next s' ∧ s'.seq? t = some q' ∧ s'.mem = s.mem ∧
        q' = Seq.enter { q with tc := x.tc } ⟨.word, x.cause, dt, s.clock, 0⟩)) ∧
    (∀ (t : Nat) (q : Seq), s.agenda = .seq t :: rest → s.seq? t = some q → q.held = false → q.busy ≤ s.clock →
      q.pend ≠ [] → q.inTrap = false → step s = exec .trapEntry { s0 with actor := .seq t }) ∧
    (∀ (t : Nat) (q : Seq), s.agenda = .seq t :: rest → s.seq? t = some q → q.held = true → step s = .next s0) ∧
    (∀ (r : ElemRef) (n a b : Nat) (e : Elem) (i : Instr), s.agenda = .fire r n a b :: rest → s.elem? r = some e →
      decodeSlot e.kind (e.slotWord n) = .ok i → step s = exec i { s0 with actor := .slot r n a b }) ∧
    (∀ (i : Instr) (a : Actor), s.agenda = .event i a :: rest → step s = exec i { s0 with actor := a })

/-- What reset leaves: the registers of every sequencer and of the device at the values the spec gives them, every
sequencer held, nothing resident, and memory in its canonical form (R365 to R367, R461, R465). The values of TVEC and
dv.INCARN, and what memory that nothing has written reads as, are the model's own choices (log 7, log 5, log 1). -/
def Obligations.ResetValues : Prop :=
  let r := State.reset
  (∀ t, t < 192 → ∃ q, r.seq? t = some q ∧ q.priv = true ∧ q.held = true ∧ q.pc = BitVec.truncate 57 q.tvec ∧
    (∀ k, q.reg k = 0) ∧ r.scrRead t q 0x000 = some 1 ∧
    (∀ n ∈ [0x001, 0x002, 0x003, 0x005, 0x010, 0x012, 0x020, 0x021, 0x022, 0x040, 0x043, 0x050, 0x051, 0x052, 0x053],
      r.scrRead t q n = some 0) ∧
    (∃ v, r.scrRead t q 0x011 = some v ∧ fld v 34 6 = 63 ∧ fld v 28 6 = 0 ∧ fld v 48 8 = t ∧
      v.getLsbD 27 = decide (t % 48 = 0))) ∧
  r.dvRead 0 = 0 ∧ r.dvRead 1 = 0 ∧ (∀ n, 2 ≤ n → n ≤ 5 → r.dvRead n = 0) ∧
  Memory.wf r.mem = true ∧ r.released = false ∧ r.loads = [] ∧ r.elems = [] ∧ r.cmds = [] ∧ r.selog = [] ∧
  (∀ q ∈ r.seqs, q.pc.toNat % 4 = 0 ∧ q.tvec.toNat % 4 = 0)

/-- Every step keeps memory in its canonical form, and PC and sq.TVEC of every sequencer multiples of four (R365,
R366). -/
def Obligations.StepKeepsForm : Prop :=
  ∀ s s' : State, step s = .next s' → Memory.wf s.mem = true →
    (∀ q ∈ s.seqs, q.pc.toNat % 4 = 0 ∧ q.tvec.toNat % 4 = 0) →
    Memory.wf s'.mem = true ∧ ∀ q ∈ s'.seqs, q.pc.toNat % 4 = 0 ∧ q.tvec.toNat % 4 = 0

/-- User mode is left only by a trap, which goes to sq.TVEC and saves PC and the mode, by the release of the
sequencers after a reset, or by a reset (R365, R368, R383, R461, R465). -/
def Obligations.UserModeLeft : Prop :=
  ∀ (s s' : State) (t : Nat) (q q' : Seq), step s = .next s' → s.seq? t = some q → s'.seq? t = some q' →
    q.priv = false → q'.priv = true →
    (q'.inTrap = true ∧ q'.pPriv = false ∧ q'.pInTrap = q.inTrap ∧ q'.pc = BitVec.truncate 57 q.tvec ∧
      q'.epc = BitVec.zeroExtend 64 q.pc ∧ q'.regs = q.regs) ∨
    (s.released = false ∧ s'.released = true ∧ ∃ a, q' = q.boot a) ∨
    q' = Seq.atReset t

/-- Memory reads what was written, lowest byte first, and a write changes no other byte and keeps the canonical form
(R3, R246). -/
def Obligations.MemoryReadsBack : Prop :=
  ∀ (s : State) (a n v : Nat), Memory.wf s.mem = true →
    let s' := s.writeN a n v
    Memory.wf s'.mem = true ∧ s'.readN a n = v % 2 ^ (8 * n) ∧ onlyBytes s s' a n ∧ s' = { s with mem := s'.mem } ∧
    (∀ k, k < n → (s'.byte (a + k)).toNat = v / 2 ^ (8 * k) % 2 ^ 8) ∧
    (∀ x : Word, (s.putWord a x).word a = x ∧ onlyBytes s (s.putWord a x) a 8 ∧
      Memory.wf (s.putWord a x).mem = true)

end
end

