-- ==== Sys2Proof/Laws/Fire.lean ====
section
/-! SUPPORT. What a firing leaves (R116): one lemma for each part, and the one that statements about slots cite. -/

namespace Sys2Proof.Machine

open Sys2Proof Sys2Proof.Safety

theorem putAt_getD {α : Type} (d : α) (l : List α) (k j : Nat) (a : α) :
    (putAt d l k a).getD j d = if j = k then a else l.getD j d := by
  induction l generalizing k j with
  | nil =>
    induction k generalizing j with
    | zero => cases j <;> simp [putAt]
    | succ k ih => cases j <;> simp [putAt]; simpa using ih _
  | cons x r ih =>
    cases k <;> cases j <;> simp [putAt]
    simpa using ih _ _

theorem find_map {α β : Type} [DecidableEq β] (key : α → β) (r : β) (f : α → α) (hf : ∀ a, key a = r → key (f a) = r)
    (l : List α) (b : β) :
    (l.map fun a => if key a = r then f a else a).find? (fun a => decide (key a = b)) =
      if b = r then (l.find? fun a => decide (key a = b)).map f else l.find? fun a => decide (key a = b) := by
  induction l with
  | nil => simp
  | cons a l ih =>
    by_cases ha : key a = r
    · by_cases hb : b = r
      · subst hb; simp [ha, hf a ha]
      · have h1 : key (f a) ≠ b := by rw [hf a ha]; exact fun h => hb h.symm
        have h2 : ¬ r = b := fun h => hb h.symm
        simp only [List.map_cons, ha, if_true, List.find?_cons, h1, h2, decide_false]
        simpa [hb] using ih
    · by_cases hb : key a = b
      · have : b ≠ r := by rw [← hb]; exact ha
        simp [hb, this]
      · simpa [ha, hb] using ih

theorem elem_ref {s : State} {r : ElemRef} {e : Elem} (h : s.elem? r = some e) : e.ref = r := by
  have := List.find?_some h
  simpa using this

theorem modElem_elem (s : State) (r r' : ElemRef) (f : Elem → Elem) (hf : ∀ e, e.ref = r → (f e).ref = r) :
    (s.modElem r f).elem? r' = if r' = r then (s.elem? r').map f else s.elem? r' :=
  find_map Elem.ref r f hf s.elems r'

theorem seq_tile {s : State} {t : Nat} {q : Seq} (h : s.seq? t = some q) : q.tile = t := by
  have := List.find?_some h
  simpa using this

theorem modSeq_seq (s : State) (t u : Nat) (f : Seq → Seq) (hf : ∀ q, q.tile = t → (f q).tile = t) :
    (s.modSeq t f).seq? u = if u = t then (s.seq? u).map f else s.seq? u :=
  find_map Seq.tile t f hf s.seqs u

theorem range_map_getD {α : Type} (d : α) (f : Nat → α) (n k : Nat) (h : k < n) :
    ((List.range n).map f).getD k d = f k := by
  simp [List.getD, List.getElem?_range h]

theorem writeDst_outs (e : Elem) (clock : Nat) (rid : Nat → BitVec 5) (dst : Nat) (ct : BitVec 3) (v : Word)
    (tag res : BitVec 4) (k : Nat) (hk : k < 4) :
    (e.writeDst clock rid dst ct v tag res).out k =
      e.out k ++ if (outsOf dst).contains k = true then [⟨⟨ct, ftagFor ct tag, res, rid k, v⟩, clock⟩] else [] := by
  unfold Elem.writeDst
  split
  · have h : outsOf dst = [] := by
      unfold outsOf; split <;> first | rfl | omega
    simp [h, Elem.writeD, Elem.out]
  · unfold Elem.put
    simp only [Elem.out]
    rw [range_map_getD _ _ _ _ hk]
    split <;> simp_all

theorem writeDst_dreg (e : Elem) (clock : Nat) (rid : Nat → BitVec 5) (dst : Nat) (ct : BitVec 3) (v : Word)
    (tag res : BitVec 4) (k : Nat) (hk : k < 8) :
    (e.writeDst clock rid dst ct v tag res).dreg k = if dst = k + 4 then ⟨v, tag, true, res⟩ else e.dreg k := by
  unfold Elem.writeDst
  split
  · simp only [Elem.writeD, Elem.dreg, putAt_getD]
    split <;> split <;> first | rfl | omega
  · rw [if_neg (by omega)]; rfl

theorem writeDst_rest (e : Elem) (clock : Nat) (rid : Nat → BitVec 5) (dst : Nat) (ct : BitVec 3) (v : Word)
    (tag res : BitVec 4) : ∃ d o, e.writeDst clock rid dst ct v tag res = { e with d := d, outs := o } := by
  unfold Elem.writeDst
  split
  · exact ⟨_, e.outs, rfl⟩
  · exact ⟨e.d, _, rfl⟩

theorem consume_rest (e : Elem) (f : SlotF) : ∃ d, e.consume f = { e with d := d } := by
  unfold Elem.consume
  split
  · exact ⟨_, rfl⟩
  · exact ⟨e.d, rfl⟩

theorem writeAlso_rest (e : Elem) (a : Option (Nat × Word)) : ∃ d, e.writeAlso a = { e with d := d } := by
  unfold Elem.writeAlso
  split
  · exact ⟨_, rfl⟩
  · exact ⟨e.d, rfl⟩

theorem writeAlso_out (e : Elem) (a : Option (Nat × Word)) (k : Nat) : (e.writeAlso a).out k = e.out k := by
  obtain ⟨d, h⟩ := writeAlso_rest e a
  rw [h]; rfl

/-- The pointer and the count of firings of a group after a firing (R113, R115). -/
theorem groupFired_rot (e : Elem) (n g : Nat) : (e.groupFired n).rot.getD g 0 =
    if g ≠ 0 ∧ fld (e.slotWord n) 0 2 = g ∧ e.gmode g ≠ 1 then
      ((e.members g).find? fun m => decide (n < m)).getD ((e.members g).headD 0)
    else e.rot.getD g 0 := by
  unfold Elem.groupFired Elem.rotNext
  dsimp only
  by_cases h0 : fld (e.slotWord n) 0 2 = 0
  · rw [if_pos h0, if_neg (fun h => h.1 (h.2.1 ▸ h0))]
  · rw [if_neg h0]
    by_cases h1 : e.gmode (fld (e.slotWord n) 0 2) = 1
    · rw [if_pos h1, if_neg (fun h => h.2.2 (h.2.1 ▸ h1))]
    · rw [if_neg h1]
      by_cases hg : fld (e.slotWord n) 0 2 = g
      · subst hg
        rw [if_pos ⟨h0, rfl, h1⟩]
        simp only [putAt_getD, if_true]
        cases (e.members (fld (e.slotWord n) 0 2)).find? fun m => decide (n < m) <;> rfl
      · rw [if_neg (fun h => hg h.2.1)]
        simp only [putAt_getD, if_neg (fun h => hg h.symm : ¬ g = fld (e.slotWord n) 0 2)]

theorem groupFired_bal (e : Elem) (n g : Nat) : (e.groupFired n).balFired.getD g 0 =
    e.balFired.getD g 0 + boolN (decide (g ≠ 0 ∧ fld (e.slotWord n) 0 2 = g ∧ e.gmode g = 1)) := by
  unfold Elem.groupFired
  dsimp only
  by_cases h0 : fld (e.slotWord n) 0 2 = 0
  · rw [if_pos h0, decide_eq_false (fun h => h.1 (h.2.1 ▸ h0))]; rfl
  · rw [if_neg h0]
    by_cases h1 : e.gmode (fld (e.slotWord n) 0 2) = 1
    · rw [if_pos h1]
      by_cases hg : fld (e.slotWord n) 0 2 = g
      · subst hg
        rw [decide_eq_true (⟨h0, rfl, h1⟩ : _ ∧ _ ∧ _)]
        simp only [putAt_getD, if_true]; rfl
      · rw [decide_eq_false (fun h => hg h.2.1)]
        simp only [putAt_getD, if_neg (fun h => hg h.symm : ¬ g = fld (e.slotWord n) 0 2)]; rfl
    · rw [if_neg h1, decide_eq_false (fun h : g ≠ 0 ∧ fld (e.slotWord n) 0 2 = g ∧ e.gmode g = 1 => h1 (h.2.1 ▸ h.2.2))]; rfl

theorem groupFired_rest (e : Elem) (n : Nat) : ∃ b c, e.groupFired n = { e with balFired := b, rot := c } := by
  unfold Elem.groupFired
  dsimp only
  split
  · exact ⟨e.balFired, e.rot, rfl⟩
  · split
    · exact ⟨_, e.rot, rfl⟩
    · exact ⟨e.balFired, _, rfl⟩

theorem dequeue_inq (e : Elem) (ks : List Nat) (k : Nat) (hk : k < 4) :
    (e.dequeue ks).inq k =
      if ks.contains k && e.viewReal k && (e.brokenAt k).isNone then (e.inq k).drop 1 else e.inq k := by
  unfold Elem.dequeue
  simp only [Elem.inq]
  rw [range_map_getD _ _ _ _ hk]

theorem dequeue_broken (e : Elem) (ks : List Nat) (k : Nat) (hk : k < 4) :
    (e.dequeue ks).brokenAt k = if ks.contains k then none else e.brokenAt k := by
  unfold Elem.dequeue
  simp only [Elem.brokenAt]
  rw [range_map_getD _ _ _ _ hk]

theorem firedDst_dreg (s : State) (e : Elem) (f : SlotF) (x : Fired) (k : Nat) (hk : k < 8) :
    (e.firedDst s.clock (s.outRid e) f x).dreg k =
      if x.dst ≠ .none ∧ f.dst.toNat = k + 4 then ⟨x.result, x.tag, true, x.res.getD (residue x.result)⟩
      else ((x.e.consume f).writeAlso x.also).dreg k := by
  have hd :
      ((Elem.consume { x.e with ins := (e.dequeue x.deq).ins, broken := (e.dequeue x.deq).broken } f).writeAlso x.also).dreg k =
      ((x.e.consume f).writeAlso x.also).dreg k := by
    unfold Elem.consume Elem.mirror Elem.writeAlso; split <;> split <;> rfl
  unfold Elem.firedDst
  cases x.dst <;> simp [writeDst_dreg _ _ _ _ _ _ _ _ _ hk, hd]

theorem firedDst_out (s : State) (e : Elem) (f : SlotF) (x : Fired) (k : Nat) (hk : k < 4) :
    (e.firedDst s.clock (s.outRid e) f x).out k = x.e.out k ++
      if x.dst ≠ .none ∧ (outsOf f.dst.toNat).contains k = true then
        [⟨⟨firedCtag e f x, ftagFor (firedCtag e f x) x.tag, x.res.getD (residue x.result), s.outRid e k, x.result⟩, s.clock⟩]
          else [] := by
  have ho :
      ((Elem.consume { x.e with ins := (e.dequeue x.deq).ins, broken := (e.dequeue x.deq).broken } f).writeAlso x.also).out k =
        x.e.out k := by
    rw [writeAlso_out]; unfold Elem.consume; split <;> rfl
  unfold Elem.firedDst firedCtag
  cases x.dst <;> simp [writeDst_outs _ _ _ _ _ _ _ _ _ hk, ho]

theorem firedDst_rest (e : Elem) (clock : Nat) (rid : Nat → BitVec 5) (f : SlotF) (x : Fired) :
    ∃ d o, e.firedDst clock rid f x =
      { x.e with ins := (e.dequeue x.deq).ins, broken := (e.dequeue x.deq).broken, d := d, outs := o } := by
  obtain ⟨d1, h1⟩ := consume_rest ({ x.e with ins := (e.dequeue x.deq).ins, broken := (e.dequeue x.deq).broken } : Elem) f
  obtain ⟨d2, h2⟩ := writeAlso_rest
    (Elem.consume { x.e with ins := (e.dequeue x.deq).ins, broken := (e.dequeue x.deq).broken } f) x.also
  rw [h1] at h2
  unfold Elem.firedDst
  cases x.dst with
  | none => exact ⟨d2, x.e.outs, by dsimp only; rw [h1, h2]⟩
  | result =>
    obtain ⟨d, o, h⟩ := writeDst_rest
      ((Elem.consume { x.e with ins := (e.dequeue x.deq).ins, broken := (e.dequeue x.deq).broken } f).writeAlso x.also) clock rid
      f.dst.toNat (otagCtag f (e.source f.srca.toNat)) x.result x.tag (x.res.getD (residue x.result))
    exact ⟨d, o, by dsimp only; rw [h, h1, h2]⟩
  | token ct =>
    obtain ⟨d, o, h⟩ := writeDst_rest
      ((Elem.consume { x.e with ins := (e.dequeue x.deq).ins, broken := (e.dequeue x.deq).broken } f).writeAlso x.also) clock rid
      f.dst.toNat ct x.result x.tag (x.res.getD (residue x.result))
    exact ⟨d, o, by dsimp only; rw [h, h1, h2]⟩

/-- The element of a firing before its group is counted: x's, but for what every firing changes. -/
theorem firedStep_rest (e : Elem) (clock : Nat) (rid : Nat → BitVec 5) (n : Nat) (f : SlotF) (stall starve : Nat)
    (x : Fired) : ∃ d o p c, (((e.firedDst clock rid f x).firedPred f x).count (some n) stall starve).firedStep x =
      { x.e with
        ins := (e.dequeue x.deq).ins, broken := (e.dequeue x.deq).broken, d := d, outs := o, p := p, counters := c,
        ticking := true, step := if x.rounds then (x.e.step + 1) % 2 ^ 32 else x.e.step } := by
  obtain ⟨d, o, hr⟩ := firedDst_rest e clock rid f x
  rw [hr]
  unfold Elem.firedPred
  split <;> exact ⟨d, o, _, _, rfl⟩

/-- An element after a firing, part by part. -/
theorem fired_firedAs (s : State) (n : Nat) (stall starve : Nat) (e : Elem) (f : SlotF) (x : Fired) :
    firedAs s n stall starve e f x (e.fired s.clock (s.outRid e) n f stall starve x) := by
  obtain ⟨d', o', p', c', hs⟩ := firedStep_rest e s.clock (s.outRid e) n f stall starve x
  have hrot := groupFired_rot ((((e.firedDst s.clock (s.outRid e) f x).firedPred f x).count (some n) stall starve).firedStep x) n
  have hbal := groupFired_bal ((((e.firedDst s.clock (s.outRid e) f x).firedPred f x).count (some n) stall starve).firedStep x) n
  rw [hs] at hrot hbal
  obtain ⟨b, c, hg⟩ := groupFired_rest ((((e.firedDst s.clock (s.outRid e) f x).firedPred f x).count (some n) stall starve).firedStep x) n
  obtain ⟨d, o, hr⟩ := firedDst_rest e s.clock (s.outRid e) f x
  have hd := firedDst_dreg s e f x
  have ho := firedDst_out s e f x
  rw [hr] at hd ho
  unfold firedAs Elem.fired
  refine ⟨fun k h => ?_, fun k h => ?_, fun k h => ?_, fun k h => ?_, fun k => ?_, fun k h => ?_, ?_, fun g => ?_, fun g => ?_,
    ?_, ?_⟩
  · rw [← hd k h, hg, hr]; unfold Elem.firedPred; split <;> rfl
  · rw [← ho k h, hg, hr]; unfold Elem.firedPred; split <;> rfl
  · rw [← dequeue_inq e x.deq k h, hg, hr]; unfold Elem.firedPred; split <;> rfl
  · rw [← dequeue_broken e x.deq k h, hg, hr]; unfold Elem.firedPred; split <;> rfl
  · rw [hg, hr]; unfold Elem.firedPred
    cases hp : x.predLater
    · refine (putAt_getD false x.e.p _ k _).trans ?_
      by_cases hk : k = f.pidx.toNat <;> simp [hk, eq_comm]
    · simp; rfl
  · rw [hg, hr]; unfold Elem.firedPred
    cases x.predLater <;> exact range_map_getD _ _ _ _ h
  · rw [hg, hr]; unfold Elem.firedPred; split <;> rfl
  · rw [hs]; exact hrot g
  · rw [hs]; exact hbal g
  · rw [hg, hr]; unfold Elem.firedPred; split <;> rfl
  · rw [hg, hr]; unfold Elem.firedPred; split <;> rfl

/-- What committing a plain firing leaves. -/
theorem commit_plain (s : State) (r : ElemRef) (n stall starve : Nat) (e : Elem) (f : SlotF) (x : Fired)
    (he : s.elem? r = some e) (hx : x.e.ref = e.ref) (h1 : x.cross = []) (h2 : x.after = none) (h3 : x.uncorr = false) :
    ∃ e', (commit s e n f stall starve x).elem? r = some e' ∧ firedAs s n stall starve e f x e' ∧
      onlyElem s (commit s e n f stall starve x) r := by
  have hr : e.ref = r := elem_ref he
  have hf : (e.fired s.clock (s.outRid e) n f stall starve x).ref = r := by
    rw [(fired_firedAs s n stall starve e f x).2.2.2.2.2.2.2.2.2.2, hx, hr]
  have hc : ∃ a, commit s e n f stall starve x =
      { s.modElem r fun _ => e.fired s.clock (s.outRid e) n f stall starve x with
        agenda := a, nextId := s.nextId + x.ids, freeCount := s.freeCount + x.free } := by
    unfold commit
    simp only [h1, h2, h3, hr, List.foldl_nil]
    split <;> exact ⟨_, rfl⟩
  obtain ⟨a, hc⟩ := hc
  have hm : ∀ r', (commit s e n f stall starve x).elem? r' =
      (s.modElem r fun _ => e.fired s.clock (s.outRid e) n f stall starve x).elem? r' := by
    intro r'; rw [hc]; rfl
  refine ⟨_, ?_, fired_firedAs s n stall starve e f x, ?_, fun r' h => ?_⟩
  · rw [hm, modElem_elem _ _ _ _ (fun _ _ => hf)]; simp [he]
  · rw [hc]; rfl
  · rw [hm, modElem_elem _ _ _ _ (fun _ _ => hf), if_neg h]

/-- Where no comparison fails, no result is refused (R133). -/
theorem upsets_calm {e : Elem} (h : e.upset = false) (x : Fired) : e.upsets x = false := by
  unfold Elem.upsets; rw [h]; rfl

/-- A slot whose computation answers a plain firing fires as it. -/
theorem fireSlot_fires {s : State} {r : ElemRef} {n stall starve : Nat} {e : Elem} {f : SlotF}
    {body : Ctx → Except ETrap Fired} {x : Fired} {i : Instr} (hi : exec i s = fireSlot s f body)
    (h : elemThere s r n stall starve e) (hb : body ⟨s, e, n, f⟩ = .ok x) (hx : x.e.ref = e.ref)
    (h1 : x.cross = []) (h2 : x.after = none) (h3 : x.uncorr = false) :
    fires i s r n stall starve e f x := by
  obtain ⟨e', h4, h5, h6⟩ := commit_plain s r n stall starve e f x h.2.1 hx h1 h2 h3
  refine ⟨_, e', ?_, h4, h5, h6⟩
  rw [hi]; unfold fireSlot; rw [h.1]; simp only [h.2.1, hb, upsets_calm h.2.2, Bool.false_eq_true, if_false]

/-- A slot whose computation answers a trap does not fire. -/
theorem fireSlot_traps {s : State} {r : ElemRef} {n stall starve : Nat} {e : Elem} {f : SlotF}
    {body : Ctx → Except ETrap Fired} {t : ETrap} {i : Instr} (hi : exec i s = fireSlot s f body)
    (h : elemThere s r n stall starve e) (hb : body ⟨s, e, n, f⟩ = .error t) : trapsWith i s r t := by
  unfold trapsWith; rw [hi]; unfold fireSlot; rw [h.1]; simp only [h.2.1, hb]

/-- A trap of an element does not depend on the agenda. -/
theorem trapElem_push (s : State) (r : ElemRef) (t : ETrap) (ts : List Turn) :
    (s.push ts).trapElem r t = (s.trapElem r t).push ts := by
  unfold State.trapElem State.push State.elem?
  dsimp only
  cases s.elems.find? fun e => decide (e.ref = r) with
  | none => rfl
  | some e => by_cases h : e.trap.isSome = true <;> simp only [h] <;> rfl

/-- A slot whose computation answers a firing that then traps fires as it, and then its element halts. -/
theorem fireSlot_then_traps {s : State} {r : ElemRef} {n stall starve : Nat} {e : Elem} {f : SlotF}
    {body : Ctx → Except ETrap Fired} {x : Fired} {t : ETrap} {i : Instr} (hi : exec i s = fireSlot s f body)
    (h : elemThere s r n stall starve e) (hb : body ⟨s, e, n, f⟩ = .ok { x with after := some t })
    (hx : x.e.ref = e.ref) (h1 : x.cross = []) (h2 : x.after = none) (h3 : x.uncorr = false) :
    firesThen i s r n stall starve e f x fun s1 => s1.trapElem r t := by
  obtain ⟨e', h4, h5, h6⟩ := commit_plain s r n stall starve e f x h.2.1 hx h1 h2 h3
  refine ⟨commit s e n f stall starve x, e', ?_, h4, h5, h6⟩
  rw [hi]; unfold fireSlot; rw [h.1]; simp only [h.2.1, hb, upsets_calm h.2.2, Bool.false_eq_true, if_false]
  have hr : e.ref = r := elem_ref h.2.1
  have hf : e.fired s.clock (s.outRid e) n f stall starve { x with after := some t } =
      e.fired s.clock (s.outRid e) n f stall starve x := rfl
  unfold commit
  rw [hf]
  generalize e.fired s.clock (s.outRid e) n f stall starve x = y
  simp only [h1, h2, h3, hr, List.foldl_nil, Bool.false_eq_true, if_false]
  by_cases hg : fld (e.slotWord n) 0 2 ≠ 0 ∧ e.gmode (fld (e.slotWord n) 0 2) = 1 ∧
      y.balFired.getD (fld (e.slotWord n) 0 2) 0 ≥ 256
  · rw [if_pos hg, if_pos hg]
    exact congrArg _ (trapElem_push _ _ _ _).symm
  · rw [if_neg hg, if_neg hg]

theorem checkRes_clean {c : Ctx} {a : BitVec 4} (h : clean c.e a) : c.checkRes a.toNat = .ok () := by
  unfold Ctx.checkRes; exact if_pos h

theorem checkCls_ok {c : Ctx} {a : BitVec 4} {k : Cls} (h : k.accepts (c.e.source a.toNat).tag = true) :
    c.checkCls a.toNat k = .ok () := by
  unfold Ctx.checkCls; exact if_pos h

/-- Reading one source that is good. -/
theorem read1_good {c : Ctx} {a : BitVec 4} {k : Cls} (h : good c.e a k) :
    c.read1 a.toNat k = .ok (c.e.source a.toNat) := by
  unfold Ctx.read1; rw [checkRes_clean h.1, checkCls_ok h.2]; rfl

/-- Reading two sources that are good. -/
theorem read2_good {c : Ctx} {a b : BitVec 4} {k l : Cls} (ha : good c.e a k) (hb : good c.e b l) :
    c.read2 a.toNat k b.toNat l = .ok (c.e.source a.toNat, c.e.source b.toNat) := by
  unfold Ctx.read2; rw [checkRes_clean ha.1, checkRes_clean hb.1, checkCls_ok ha.2, checkCls_ok hb.2]; rfl

/-- Reading three sources that are good. -/
theorem read3_good {c : Ctx} {a b d : BitVec 4} {k l m : Cls} (ha : good c.e a k) (hb : good c.e b l)
    (hd : good c.e d m) : c.read3 a.toNat k b.toNat l d.toNat m =
      .ok (c.e.source a.toNat, c.e.source b.toNat, c.e.source d.toNat) := by
  unfold Ctx.read3
  rw [checkRes_clean ha.1, checkRes_clean hb.1, checkRes_clean hd.1, checkCls_ok ha.2, checkCls_ok hb.2,
    checkCls_ok hd.2]; rfl

/-- A source of a class it does not accept, where the sources are clean: FMT_MISMATCH names it (R132). -/
theorem read1_bad {c : Ctx} {a : BitVec 4} {k : Cls} (h : clean c.e a)
    (hk : k.accepts (c.e.source a.toNat).tag = false) :
    c.read1 a.toNat k = .error (c.fmt a.toNat (c.e.source a.toNat).tag) := by
  unfold Ctx.read1 Ctx.checkCls; rw [checkRes_clean h]; simp [hk]; rfl

theorem read2_bad {c : Ctx} {a b : BitVec 4} {k l : Cls} (ha : clean c.e a) (hb : clean c.e b)
    (hk : k.accepts (c.e.source a.toNat).tag = false) :
    c.read2 a.toNat k b.toNat l = .error (c.fmt a.toNat (c.e.source a.toNat).tag) := by
  unfold Ctx.read2 Ctx.checkCls; rw [checkRes_clean ha, checkRes_clean hb]; simp [hk]; rfl

end Sys2Proof.Machine
end

