-- ==== Sys2Proof/Laws/Home.lean ====
section
/-! SUPPORT. What the choice of the words that a unit acts on can be, and what HBM holds when every node is written
back. -/

namespace Sys2Proof.Machine

theorem State.actNow_mem {s : State} {n k : Nat} (h : k ∈ s.actNow n) : k < n := by
  simp only [State.actNow] at h
  split at h
  · exact Nat.lt_of_lt_of_le (List.mem_range.mp h) (Nat.min_le_right 1 n)
  · exact List.mem_range.mp (List.mem_filter.mp (List.mem_of_mem_take h)).1

theorem State.actNow_length (s : State) (n : Nat) : (s.actNow n).length ≤ 32 := by
  simp only [State.actNow]
  split
  · simp only [List.length_range]; omega
  · exact List.length_take_le _ _

theorem State.actNow_ne_nil {s : State} {n : Nat} (h : 0 < n) : s.actNow n ≠ [] := by
  simp only [State.actNow]
  split
  · simp; omega
  · rename_i hk
    simpa [List.isEmpty_iff] using hk

/-- A unit that may act on one word acts on it. -/
@[simp] theorem State.actNow_one (s : State) : s.actNow 1 = [0] := by
  simp only [State.actNow]
  cases h : s.partNow 0 <;> simp [List.range_succ, h]

theorem State.hbmWord_eq {s : State} (h : s.unwritten = []) (a : Nat) : s.hbmWord a = s.word a := by
  simp [State.hbmWord, h]

end Sys2Proof.Machine
end

