-- ==== Sys2Proof/Laws/Lanes.lean ====
section
/-! SUPPORT. Lanes of a word: what packing puts in each, and the firing of an instruction that works lane by lane. -/

namespace Sys2Proof.Machine

open Sys2Proof Sys2Proof.Safety

theorem packLanes_lt (w : Nat) (ls : List Nat) : packLanes w ls < 2 ^ (w * ls.length) := by
  induction ls with
  | nil => simp [packLanes]
  | cons l r ih =>
    have h1 : l % 2 ^ w < 2 ^ w := Nat.mod_lt _ (by positivity)
    have h2 : 2 ^ (w * (r.length + 1)) = 2 ^ w * 2 ^ (w * r.length) := by rw [← pow_add]; ring_nf
    simp only [packLanes, List.length_cons, h2]
    have h3 : 2 ^ w * (packLanes w r + 1) ≤ 2 ^ w * 2 ^ (w * r.length) := Nat.mul_le_mul_left _ ih
    rw [mul_add] at h3
    omega

theorem packLanes_lane (w : Nat) (ls : List Nat) (k : Nat) (hk : k < ls.length) :
    packLanes w ls / 2 ^ (w * k) % 2 ^ w = ls.getD k 0 % 2 ^ w := by
  induction ls generalizing k with
  | nil => simp at hk
  | cons l r ih =>
    have hp : 0 < 2 ^ w := by positivity
    cases k with
    | zero => simp [packLanes, Nat.add_mul_mod_self_left]
    | succ k =>
      have : 2 ^ (w * (k + 1)) = 2 ^ w * 2 ^ (w * k) := by rw [← pow_add]; ring_nf
      rw [this, ← Nat.div_div_eq_div_mul]
      have h : packLanes w (l :: r) / 2 ^ w = packLanes w r := by
        simp only [packLanes]
        rw [Nat.add_mul_div_left _ _ hp, Nat.div_eq_of_lt (Nat.mod_lt _ hp), zero_add]
      rw [h]
      simpa using ih k (by simpa using hk)

/-- Lane k of a word packed from a list of lanes. -/
theorem laneN_packW (w : Nat) (ls : List Nat) (k : Nat) (hw : w * ls.length ≤ 64) (hk : k < ls.length) :
    laneN w k (packW w ls) = ls.getD k 0 % 2 ^ w := by
  have h : packLanes w ls < 2 ^ 64 := lt_of_lt_of_le (packLanes_lt w ls) (Nat.pow_le_pow_right (by norm_num) hw)
  unfold laneN packW fldN
  rw [BitVec.toNat_ofNat, Nat.mod_eq_of_lt h]
  exact packLanes_lane w ls k hk

/-- The same for lanes given by number. -/
theorem laneN_packW_range (w n k : Nat) (g : Nat → Nat) (hw : w * n ≤ 64) (hk : k < n) :
    laneN w k (packW w ((List.range n).map g)) = g k % 2 ^ w := by
  rw [laneN_packW w _ k (by simpa using hw) (by simpa using hk), range_map_getD _ _ _ _ hk]

theorem laneN_lt (w k : Nat) (x : Word) : laneN w k x < 2 ^ w := Nat.mod_lt _ (by positivity)

theorem laneW_pos (l : BitVec 2) : 0 < laneW l ∧ laneW l * (64 / laneW l) ≤ 64 ∧ laneW l ∣ 64 ∧ 8 ≤ laneW l := by
  revert l; decide

/-- A slot that answers a word packed from its lanes. -/
theorem firesLanes_of {i : Instr} {s : State} {r : ElemRef} {n stall starve : Nat} {e : Elem} {f : SlotF} {w m : Nat}
    {tag : BitVec 4} {outcome : Word → Bool} {g lane : Nat → Nat} {body : Ctx → Except ETrap Fired}
    (hi : exec i s = fireSlot s f body) (h : elemThere s r n stall starve e) (hm : m = 64 / w)
    (hb : body ⟨s, e, n, f⟩ = .ok (Ctx.result ⟨s, e, n, f⟩ (packW w ((List.range m).map g)) tag
      (outcome (packW w ((List.range m).map g)))))
    (hg : ∀ k, k < 64 / w → g k % 2 ^ w = lane k) :
    firesLanes i s r n stall starve e f w tag outcome lane := by
  refine ⟨_, fun k hk => ?_, fireSlot_fires hi h hb rfl rfl rfl rfl⟩
  rw [laneN_packW_range w m k g (by rw [hm]; exact Nat.mul_div_le 64 w) (hm ▸ hk), hg k hk]

/-- An instruction of two INT sources (R137). -/
theorem laneOp2_fires {i : Instr} {s : State} {r : ElemRef} {n stall starve : Nat} {e : Elem} {f : SlotF}
    {g : Nat → Nat → Nat → Nat} {lane : Nat → Nat} (hi : exec i s = fireSlot s f (laneOp2 g))
    (h : elemThere s r n stall starve e) (ha : good e f.srca .int) (hb : good e f.srcb .int)
    (hg : ∀ k, g (laneW f.lane) (laneN (laneW f.lane) k (e.source f.srca.toNat).val)
      (laneN (laneW f.lane) k (e.source f.srcb.toNat).val) % 2 ^ laneW f.lane = lane k) :
    firesLanes i s r n stall starve e f (laneW f.lane) (BitVec.zeroExtend 4 f.lane) (fun v => v != 0) lane := by
  refine firesLanes_of hi h rfl ?_ fun k _ => hg k
  unfold laneOp2; rw [read2_good ha hb]; rfl

/-- An instruction of one INT source (R137). -/
theorem laneOp1_fires {i : Instr} {s : State} {r : ElemRef} {n stall starve : Nat} {e : Elem} {f : SlotF}
    {g : Nat → Nat → Nat} {lane : Nat → Nat} (hi : exec i s = fireSlot s f (laneOp1 g))
    (h : elemThere s r n stall starve e) (ha : good e f.srca .int)
    (hg : ∀ k, g (laneW f.lane) (laneN (laneW f.lane) k (e.source f.srca.toNat).val) % 2 ^ laneW f.lane = lane k) :
    firesLanes i s r n stall starve e f (laneW f.lane) (BitVec.zeroExtend 4 f.lane) (fun v => v != 0) lane := by
  refine firesLanes_of hi h rfl ?_ fun k _ => hg k
  unfold laneOp1; rw [read1_good ha]; rfl

theorem mask_lt (w : Nat) (b : Bool) : mask w b % 2 ^ w = if b then 2 ^ w - 1 else 0 := by
  have : 0 < 2 ^ w := by positivity
  unfold mask
  split
  · exact Nat.mod_eq_of_lt (by omega)
  · exact Nat.zero_mod _

/-- A comparison (R137, R46). -/
theorem laneCmp_fires {i : Instr} {s : State} {r : ElemRef} {n stall starve : Nat} {e : Elem} {f : SlotF}
    {g : Nat → Nat → Nat → Bool} (hi : exec i s = fireSlot s f (laneCmp g))
    (h : elemThere s r n stall starve e) (ha : good e f.srca .int) (hb : good e f.srcb .int) :
    let w := laneW f.lane
    let t (k : Nat) : Bool := g w (laneN w k (e.source f.srca.toNat).val) (laneN w k (e.source f.srcb.toNat).val)
    firesLanes i s r n stall starve e f w (BitVec.zeroExtend 4 f.lane) (fun _ => t 0) (fun k => if t k then 2 ^ w - 1 else 0) := by
  intro w t
  have hw := laneW_pos f.lane
  have h0 : 0 < 64 / w := Nat.div_pos (Nat.le_of_dvd (by norm_num) hw.2.2.1) hw.1
  have h2 : 2 ≤ 2 ^ w := le_trans (by norm_num) (Nat.pow_le_pow_right (show 0 < 2 by norm_num) (le_trans (by norm_num) hw.2.2.2 : 1 ≤ w))
  have hl : ∀ k, k < 64 / w → laneN w k (map2Lanes w (fun x y => mask w (g w x y)) (e.source f.srca.toNat).val
      (e.source f.srcb.toNat).val) = if t k then 2 ^ w - 1 else 0 := by
    intro k hk
    unfold map2Lanes
    rw [laneN_packW_range w _ k _ hw.2.1 hk, mask_lt]
  refine ⟨_, hl, fireSlot_fires (x := Ctx.result ⟨s, e, n, f⟩ (map2Lanes w (fun x y => mask w (g w x y))
    (e.source f.srca.toNat).val (e.source f.srcb.toNat).val) _ _) hi h ?_ rfl rfl rfl rfl⟩
  unfold laneCmp; rw [read2_good ha hb]
  show Except.ok (Ctx.result _ _ _ (outLane0 w _)) = _
  unfold outLane0
  rw [hl 0 h0]
  congr 2
  cases t 0 <;> simp; omega

end Sys2Proof.Machine
end

