-- ==== Sys2Proof/Laws/State.lean ====
section
/-! SUPPORT. One lemma for each field under each update of State: what an update of one field leaves of the others. -/

namespace Sys2Proof.Machine

/-! setBytes changes mem. -/

@[simp] theorem setBytes_clock (s : State) (a : Nat) (bs : List Byte) : (s.setBytes a bs).clock = s.clock := rfl
@[simp] theorem setBytes_actor (s : State) (a : Nat) (bs : List Byte) : (s.setBytes a bs).actor = s.actor := rfl
@[simp] theorem setBytes_agenda (s : State) (a : Nat) (bs : List Byte) : (s.setBytes a bs).agenda = s.agenda := rfl
@[simp] theorem setBytes_inputs (s : State) (a : Nat) (bs : List Byte) : (s.setBytes a bs).inputs = s.inputs := rfl
@[simp] theorem setBytes_out (s : State) (a : Nat) (bs : List Byte) : (s.setBytes a bs).out = s.out := rfl
@[simp] theorem setBytes_freeCount (s : State) (a : Nat) (bs : List Byte) : (s.setBytes a bs).freeCount = s.freeCount := rfl
@[simp] theorem setBytes_nextId (s : State) (a : Nat) (bs : List Byte) : (s.setBytes a bs).nextId = s.nextId := rfl
@[simp] theorem setBytes_presence (s : State) (a : Nat) (bs : List Byte) : (s.setBytes a bs).presence = s.presence := rfl
@[simp] theorem setBytes_bad (s : State) (a : Nat) (bs : List Byte) : (s.setBytes a bs).bad = s.bad := rfl
@[simp] theorem setBytes_unwritten (s : State) (a : Nat) (bs : List Byte) : (s.setBytes a bs).unwritten = s.unwritten := rfl
@[simp] theorem setBytes_seqs (s : State) (a : Nat) (bs : List Byte) : (s.setBytes a bs).seqs = s.seqs := rfl
@[simp] theorem setBytes_dies (s : State) (a : Nat) (bs : List Byte) : (s.setBytes a bs).dies = s.dies := rfl
@[simp] theorem setBytes_loads (s : State) (a : Nat) (bs : List Byte) : (s.setBytes a bs).loads = s.loads := rfl
@[simp] theorem setBytes_elems (s : State) (a : Nat) (bs : List Byte) : (s.setBytes a bs).elems = s.elems := rfl
@[simp] theorem setBytes_boxes (s : State) (a : Nat) (bs : List Byte) : (s.setBytes a bs).boxes = s.boxes := rfl
@[simp] theorem setBytes_accs (s : State) (a : Nat) (bs : List Byte) : (s.setBytes a bs).accs = s.accs := rfl
@[simp] theorem setBytes_decs (s : State) (a : Nat) (bs : List Byte) : (s.setBytes a bs).decs = s.decs := rfl
@[simp] theorem setBytes_cmds (s : State) (a : Nat) (bs : List Byte) : (s.setBytes a bs).cmds = s.cmds := rfl
@[simp] theorem setBytes_dv (s : State) (a : Nat) (bs : List Byte) : (s.setBytes a bs).dv = s.dv := rfl
@[simp] theorem setBytes_pgreq (s : State) (a : Nat) (bs : List Byte) : (s.setBytes a bs).pgreq = s.pgreq := rfl
@[simp] theorem setBytes_pgpend (s : State) (a : Nat) (bs : List Byte) : (s.setBytes a bs).pgpend = s.pgpend := rfl
@[simp] theorem setBytes_selog (s : State) (a : Nat) (bs : List Byte) : (s.setBytes a bs).selog = s.selog := rfl
@[simp] theorem setBytes_selogLost (s : State) (a : Nat) (bs : List Byte) : (s.setBytes a bs).selogLost = s.selogLost := rfl
@[simp] theorem setBytes_saved (s : State) (a : Nat) (bs : List Byte) : (s.setBytes a bs).saved = s.saved := rfl
@[simp] theorem setBytes_tags (s : State) (a : Nat) (bs : List Byte) : (s.setBytes a bs).tags = s.tags := rfl
@[simp] theorem setBytes_ports (s : State) (a : Nat) (bs : List Byte) : (s.setBytes a bs).ports = s.ports := rfl
@[simp] theorem setBytes_linkClk (s : State) (a : Nat) (bs : List Byte) : (s.setBytes a bs).linkClk = s.linkClk := rfl
@[simp] theorem setBytes_remotes (s : State) (a : Nat) (bs : List Byte) : (s.setBytes a bs).remotes = s.remotes := rfl
@[simp] theorem setBytes_remDefers (s : State) (a : Nat) (bs : List Byte) : (s.setBytes a bs).remDefers = s.remDefers := rfl
@[simp] theorem setBytes_groups (s : State) (a : Nat) (bs : List Byte) : (s.setBytes a bs).groups = s.groups := rfl
@[simp] theorem setBytes_insts (s : State) (a : Nat) (bs : List Byte) : (s.setBytes a bs).insts = s.insts := rfl
@[simp] theorem setBytes_places (s : State) (a : Nat) (bs : List Byte) : (s.setBytes a bs).places = s.places := rfl
@[simp] theorem setBytes_unclaimed (s : State) (a : Nat) (bs : List Byte) : (s.setBytes a bs).unclaimed = s.unclaimed := rfl
@[simp] theorem setBytes_released (s : State) (a : Nat) (bs : List Byte) : (s.setBytes a bs).released = s.released := rfl
@[simp] theorem setBytes_boot (s : State) (a : Nat) (bs : List Byte) : (s.setBytes a bs).boot = s.boot := rfl

/-! setPresent changes presence. -/

@[simp] theorem setPresent_clock (s : State) (a : Nat) : (s.setPresent a).clock = s.clock := rfl
@[simp] theorem setPresent_actor (s : State) (a : Nat) : (s.setPresent a).actor = s.actor := rfl
@[simp] theorem setPresent_agenda (s : State) (a : Nat) : (s.setPresent a).agenda = s.agenda := rfl
@[simp] theorem setPresent_inputs (s : State) (a : Nat) : (s.setPresent a).inputs = s.inputs := rfl
@[simp] theorem setPresent_out (s : State) (a : Nat) : (s.setPresent a).out = s.out := rfl
@[simp] theorem setPresent_freeCount (s : State) (a : Nat) : (s.setPresent a).freeCount = s.freeCount := rfl
@[simp] theorem setPresent_nextId (s : State) (a : Nat) : (s.setPresent a).nextId = s.nextId := rfl
@[simp] theorem setPresent_mem (s : State) (a : Nat) : (s.setPresent a).mem = s.mem := rfl
@[simp] theorem setPresent_bad (s : State) (a : Nat) : (s.setPresent a).bad = s.bad := rfl
@[simp] theorem setPresent_unwritten (s : State) (a : Nat) : (s.setPresent a).unwritten = s.unwritten := rfl
@[simp] theorem setPresent_seqs (s : State) (a : Nat) : (s.setPresent a).seqs = s.seqs := rfl
@[simp] theorem setPresent_dies (s : State) (a : Nat) : (s.setPresent a).dies = s.dies := rfl
@[simp] theorem setPresent_loads (s : State) (a : Nat) : (s.setPresent a).loads = s.loads := rfl
@[simp] theorem setPresent_elems (s : State) (a : Nat) : (s.setPresent a).elems = s.elems := rfl
@[simp] theorem setPresent_boxes (s : State) (a : Nat) : (s.setPresent a).boxes = s.boxes := rfl
@[simp] theorem setPresent_accs (s : State) (a : Nat) : (s.setPresent a).accs = s.accs := rfl
@[simp] theorem setPresent_decs (s : State) (a : Nat) : (s.setPresent a).decs = s.decs := rfl
@[simp] theorem setPresent_cmds (s : State) (a : Nat) : (s.setPresent a).cmds = s.cmds := rfl
@[simp] theorem setPresent_dv (s : State) (a : Nat) : (s.setPresent a).dv = s.dv := rfl
@[simp] theorem setPresent_pgreq (s : State) (a : Nat) : (s.setPresent a).pgreq = s.pgreq := rfl
@[simp] theorem setPresent_pgpend (s : State) (a : Nat) : (s.setPresent a).pgpend = s.pgpend := rfl
@[simp] theorem setPresent_selog (s : State) (a : Nat) : (s.setPresent a).selog = s.selog := rfl
@[simp] theorem setPresent_selogLost (s : State) (a : Nat) : (s.setPresent a).selogLost = s.selogLost := rfl
@[simp] theorem setPresent_saved (s : State) (a : Nat) : (s.setPresent a).saved = s.saved := rfl
@[simp] theorem setPresent_tags (s : State) (a : Nat) : (s.setPresent a).tags = s.tags := rfl
@[simp] theorem setPresent_ports (s : State) (a : Nat) : (s.setPresent a).ports = s.ports := rfl
@[simp] theorem setPresent_linkClk (s : State) (a : Nat) : (s.setPresent a).linkClk = s.linkClk := rfl
@[simp] theorem setPresent_remotes (s : State) (a : Nat) : (s.setPresent a).remotes = s.remotes := rfl
@[simp] theorem setPresent_remDefers (s : State) (a : Nat) : (s.setPresent a).remDefers = s.remDefers := rfl
@[simp] theorem setPresent_groups (s : State) (a : Nat) : (s.setPresent a).groups = s.groups := rfl
@[simp] theorem setPresent_insts (s : State) (a : Nat) : (s.setPresent a).insts = s.insts := rfl
@[simp] theorem setPresent_places (s : State) (a : Nat) : (s.setPresent a).places = s.places := rfl
@[simp] theorem setPresent_unclaimed (s : State) (a : Nat) : (s.setPresent a).unclaimed = s.unclaimed := rfl
@[simp] theorem setPresent_released (s : State) (a : Nat) : (s.setPresent a).released = s.released := rfl
@[simp] theorem setPresent_boot (s : State) (a : Nat) : (s.setPresent a).boot = s.boot := rfl

/-! clearPresent changes presence. -/

@[simp] theorem clearPresent_clock (s : State) (a : Nat) : (s.clearPresent a).clock = s.clock := rfl
@[simp] theorem clearPresent_actor (s : State) (a : Nat) : (s.clearPresent a).actor = s.actor := rfl
@[simp] theorem clearPresent_agenda (s : State) (a : Nat) : (s.clearPresent a).agenda = s.agenda := rfl
@[simp] theorem clearPresent_inputs (s : State) (a : Nat) : (s.clearPresent a).inputs = s.inputs := rfl
@[simp] theorem clearPresent_out (s : State) (a : Nat) : (s.clearPresent a).out = s.out := rfl
@[simp] theorem clearPresent_freeCount (s : State) (a : Nat) : (s.clearPresent a).freeCount = s.freeCount := rfl
@[simp] theorem clearPresent_nextId (s : State) (a : Nat) : (s.clearPresent a).nextId = s.nextId := rfl
@[simp] theorem clearPresent_mem (s : State) (a : Nat) : (s.clearPresent a).mem = s.mem := rfl
@[simp] theorem clearPresent_bad (s : State) (a : Nat) : (s.clearPresent a).bad = s.bad := rfl
@[simp] theorem clearPresent_unwritten (s : State) (a : Nat) : (s.clearPresent a).unwritten = s.unwritten := rfl
@[simp] theorem clearPresent_seqs (s : State) (a : Nat) : (s.clearPresent a).seqs = s.seqs := rfl
@[simp] theorem clearPresent_dies (s : State) (a : Nat) : (s.clearPresent a).dies = s.dies := rfl
@[simp] theorem clearPresent_loads (s : State) (a : Nat) : (s.clearPresent a).loads = s.loads := rfl
@[simp] theorem clearPresent_elems (s : State) (a : Nat) : (s.clearPresent a).elems = s.elems := rfl
@[simp] theorem clearPresent_boxes (s : State) (a : Nat) : (s.clearPresent a).boxes = s.boxes := rfl
@[simp] theorem clearPresent_accs (s : State) (a : Nat) : (s.clearPresent a).accs = s.accs := rfl
@[simp] theorem clearPresent_decs (s : State) (a : Nat) : (s.clearPresent a).decs = s.decs := rfl
@[simp] theorem clearPresent_cmds (s : State) (a : Nat) : (s.clearPresent a).cmds = s.cmds := rfl
@[simp] theorem clearPresent_dv (s : State) (a : Nat) : (s.clearPresent a).dv = s.dv := rfl
@[simp] theorem clearPresent_pgreq (s : State) (a : Nat) : (s.clearPresent a).pgreq = s.pgreq := rfl
@[simp] theorem clearPresent_pgpend (s : State) (a : Nat) : (s.clearPresent a).pgpend = s.pgpend := rfl
@[simp] theorem clearPresent_selog (s : State) (a : Nat) : (s.clearPresent a).selog = s.selog := rfl
@[simp] theorem clearPresent_selogLost (s : State) (a : Nat) : (s.clearPresent a).selogLost = s.selogLost := rfl
@[simp] theorem clearPresent_saved (s : State) (a : Nat) : (s.clearPresent a).saved = s.saved := rfl
@[simp] theorem clearPresent_tags (s : State) (a : Nat) : (s.clearPresent a).tags = s.tags := rfl
@[simp] theorem clearPresent_ports (s : State) (a : Nat) : (s.clearPresent a).ports = s.ports := rfl
@[simp] theorem clearPresent_linkClk (s : State) (a : Nat) : (s.clearPresent a).linkClk = s.linkClk := rfl
@[simp] theorem clearPresent_remotes (s : State) (a : Nat) : (s.clearPresent a).remotes = s.remotes := rfl
@[simp] theorem clearPresent_remDefers (s : State) (a : Nat) : (s.clearPresent a).remDefers = s.remDefers := rfl
@[simp] theorem clearPresent_groups (s : State) (a : Nat) : (s.clearPresent a).groups = s.groups := rfl
@[simp] theorem clearPresent_insts (s : State) (a : Nat) : (s.clearPresent a).insts = s.insts := rfl
@[simp] theorem clearPresent_places (s : State) (a : Nat) : (s.clearPresent a).places = s.places := rfl
@[simp] theorem clearPresent_unclaimed (s : State) (a : Nat) : (s.clearPresent a).unclaimed = s.unclaimed := rfl
@[simp] theorem clearPresent_released (s : State) (a : Nat) : (s.clearPresent a).released = s.released := rfl
@[simp] theorem clearPresent_boot (s : State) (a : Nat) : (s.clearPresent a).boot = s.boot := rfl

/-! tick changes freeCount. -/

@[simp] theorem tick_clock (s : State) : (s.tick).clock = s.clock := rfl
@[simp] theorem tick_actor (s : State) : (s.tick).actor = s.actor := rfl
@[simp] theorem tick_agenda (s : State) : (s.tick).agenda = s.agenda := rfl
@[simp] theorem tick_inputs (s : State) : (s.tick).inputs = s.inputs := rfl
@[simp] theorem tick_out (s : State) : (s.tick).out = s.out := rfl
@[simp] theorem tick_nextId (s : State) : (s.tick).nextId = s.nextId := rfl
@[simp] theorem tick_mem (s : State) : (s.tick).mem = s.mem := rfl
@[simp] theorem tick_presence (s : State) : (s.tick).presence = s.presence := rfl
@[simp] theorem tick_bad (s : State) : (s.tick).bad = s.bad := rfl
@[simp] theorem tick_unwritten (s : State) : (s.tick).unwritten = s.unwritten := rfl
@[simp] theorem tick_seqs (s : State) : (s.tick).seqs = s.seqs := rfl
@[simp] theorem tick_dies (s : State) : (s.tick).dies = s.dies := rfl
@[simp] theorem tick_loads (s : State) : (s.tick).loads = s.loads := rfl
@[simp] theorem tick_elems (s : State) : (s.tick).elems = s.elems := rfl
@[simp] theorem tick_boxes (s : State) : (s.tick).boxes = s.boxes := rfl
@[simp] theorem tick_accs (s : State) : (s.tick).accs = s.accs := rfl
@[simp] theorem tick_decs (s : State) : (s.tick).decs = s.decs := rfl
@[simp] theorem tick_cmds (s : State) : (s.tick).cmds = s.cmds := rfl
@[simp] theorem tick_dv (s : State) : (s.tick).dv = s.dv := rfl
@[simp] theorem tick_pgreq (s : State) : (s.tick).pgreq = s.pgreq := rfl
@[simp] theorem tick_pgpend (s : State) : (s.tick).pgpend = s.pgpend := rfl
@[simp] theorem tick_selog (s : State) : (s.tick).selog = s.selog := rfl
@[simp] theorem tick_selogLost (s : State) : (s.tick).selogLost = s.selogLost := rfl
@[simp] theorem tick_saved (s : State) : (s.tick).saved = s.saved := rfl
@[simp] theorem tick_tags (s : State) : (s.tick).tags = s.tags := rfl
@[simp] theorem tick_ports (s : State) : (s.tick).ports = s.ports := rfl
@[simp] theorem tick_linkClk (s : State) : (s.tick).linkClk = s.linkClk := rfl
@[simp] theorem tick_remotes (s : State) : (s.tick).remotes = s.remotes := rfl
@[simp] theorem tick_remDefers (s : State) : (s.tick).remDefers = s.remDefers := rfl
@[simp] theorem tick_groups (s : State) : (s.tick).groups = s.groups := rfl
@[simp] theorem tick_insts (s : State) : (s.tick).insts = s.insts := rfl
@[simp] theorem tick_places (s : State) : (s.tick).places = s.places := rfl
@[simp] theorem tick_unclaimed (s : State) : (s.tick).unclaimed = s.unclaimed := rfl
@[simp] theorem tick_released (s : State) : (s.tick).released = s.released := rfl
@[simp] theorem tick_boot (s : State) : (s.tick).boot = s.boot := rfl

/-! modElem changes elems. -/

@[simp] theorem modElem_clock (s : State) (r : ElemRef) (f : Elem → Elem) : (s.modElem r f).clock = s.clock := rfl
@[simp] theorem modElem_actor (s : State) (r : ElemRef) (f : Elem → Elem) : (s.modElem r f).actor = s.actor := rfl
@[simp] theorem modElem_agenda (s : State) (r : ElemRef) (f : Elem → Elem) : (s.modElem r f).agenda = s.agenda := rfl
@[simp] theorem modElem_inputs (s : State) (r : ElemRef) (f : Elem → Elem) : (s.modElem r f).inputs = s.inputs := rfl
@[simp] theorem modElem_out (s : State) (r : ElemRef) (f : Elem → Elem) : (s.modElem r f).out = s.out := rfl
@[simp] theorem modElem_freeCount (s : State) (r : ElemRef) (f : Elem → Elem) : (s.modElem r f).freeCount = s.freeCount := rfl
@[simp] theorem modElem_nextId (s : State) (r : ElemRef) (f : Elem → Elem) : (s.modElem r f).nextId = s.nextId := rfl
@[simp] theorem modElem_mem (s : State) (r : ElemRef) (f : Elem → Elem) : (s.modElem r f).mem = s.mem := rfl
@[simp] theorem modElem_presence (s : State) (r : ElemRef) (f : Elem → Elem) : (s.modElem r f).presence = s.presence := rfl
@[simp] theorem modElem_bad (s : State) (r : ElemRef) (f : Elem → Elem) : (s.modElem r f).bad = s.bad := rfl
@[simp] theorem modElem_unwritten (s : State) (r : ElemRef) (f : Elem → Elem) : (s.modElem r f).unwritten = s.unwritten := rfl
@[simp] theorem modElem_seqs (s : State) (r : ElemRef) (f : Elem → Elem) : (s.modElem r f).seqs = s.seqs := rfl
@[simp] theorem modElem_dies (s : State) (r : ElemRef) (f : Elem → Elem) : (s.modElem r f).dies = s.dies := rfl
@[simp] theorem modElem_loads (s : State) (r : ElemRef) (f : Elem → Elem) : (s.modElem r f).loads = s.loads := rfl
@[simp] theorem modElem_boxes (s : State) (r : ElemRef) (f : Elem → Elem) : (s.modElem r f).boxes = s.boxes := rfl
@[simp] theorem modElem_accs (s : State) (r : ElemRef) (f : Elem → Elem) : (s.modElem r f).accs = s.accs := rfl
@[simp] theorem modElem_decs (s : State) (r : ElemRef) (f : Elem → Elem) : (s.modElem r f).decs = s.decs := rfl
@[simp] theorem modElem_cmds (s : State) (r : ElemRef) (f : Elem → Elem) : (s.modElem r f).cmds = s.cmds := rfl
@[simp] theorem modElem_dv (s : State) (r : ElemRef) (f : Elem → Elem) : (s.modElem r f).dv = s.dv := rfl
@[simp] theorem modElem_pgreq (s : State) (r : ElemRef) (f : Elem → Elem) : (s.modElem r f).pgreq = s.pgreq := rfl
@[simp] theorem modElem_pgpend (s : State) (r : ElemRef) (f : Elem → Elem) : (s.modElem r f).pgpend = s.pgpend := rfl
@[simp] theorem modElem_selog (s : State) (r : ElemRef) (f : Elem → Elem) : (s.modElem r f).selog = s.selog := rfl
@[simp] theorem modElem_selogLost (s : State) (r : ElemRef) (f : Elem → Elem) : (s.modElem r f).selogLost = s.selogLost := rfl
@[simp] theorem modElem_saved (s : State) (r : ElemRef) (f : Elem → Elem) : (s.modElem r f).saved = s.saved := rfl
@[simp] theorem modElem_tags (s : State) (r : ElemRef) (f : Elem → Elem) : (s.modElem r f).tags = s.tags := rfl
@[simp] theorem modElem_ports (s : State) (r : ElemRef) (f : Elem → Elem) : (s.modElem r f).ports = s.ports := rfl
@[simp] theorem modElem_linkClk (s : State) (r : ElemRef) (f : Elem → Elem) : (s.modElem r f).linkClk = s.linkClk := rfl
@[simp] theorem modElem_remotes (s : State) (r : ElemRef) (f : Elem → Elem) : (s.modElem r f).remotes = s.remotes := rfl
@[simp] theorem modElem_remDefers (s : State) (r : ElemRef) (f : Elem → Elem) : (s.modElem r f).remDefers = s.remDefers := rfl
@[simp] theorem modElem_groups (s : State) (r : ElemRef) (f : Elem → Elem) : (s.modElem r f).groups = s.groups := rfl
@[simp] theorem modElem_insts (s : State) (r : ElemRef) (f : Elem → Elem) : (s.modElem r f).insts = s.insts := rfl
@[simp] theorem modElem_places (s : State) (r : ElemRef) (f : Elem → Elem) : (s.modElem r f).places = s.places := rfl
@[simp] theorem modElem_unclaimed (s : State) (r : ElemRef) (f : Elem → Elem) : (s.modElem r f).unclaimed = s.unclaimed := rfl
@[simp] theorem modElem_released (s : State) (r : ElemRef) (f : Elem → Elem) : (s.modElem r f).released = s.released := rfl
@[simp] theorem modElem_boot (s : State) (r : ElemRef) (f : Elem → Elem) : (s.modElem r f).boot = s.boot := rfl

/-! modSeq changes seqs. -/

@[simp] theorem modSeq_clock (s : State) (t : Nat) (f : Seq → Seq) : (s.modSeq t f).clock = s.clock := rfl
@[simp] theorem modSeq_actor (s : State) (t : Nat) (f : Seq → Seq) : (s.modSeq t f).actor = s.actor := rfl
@[simp] theorem modSeq_agenda (s : State) (t : Nat) (f : Seq → Seq) : (s.modSeq t f).agenda = s.agenda := rfl
@[simp] theorem modSeq_inputs (s : State) (t : Nat) (f : Seq → Seq) : (s.modSeq t f).inputs = s.inputs := rfl
@[simp] theorem modSeq_out (s : State) (t : Nat) (f : Seq → Seq) : (s.modSeq t f).out = s.out := rfl
@[simp] theorem modSeq_freeCount (s : State) (t : Nat) (f : Seq → Seq) : (s.modSeq t f).freeCount = s.freeCount := rfl
@[simp] theorem modSeq_nextId (s : State) (t : Nat) (f : Seq → Seq) : (s.modSeq t f).nextId = s.nextId := rfl
@[simp] theorem modSeq_mem (s : State) (t : Nat) (f : Seq → Seq) : (s.modSeq t f).mem = s.mem := rfl
@[simp] theorem modSeq_presence (s : State) (t : Nat) (f : Seq → Seq) : (s.modSeq t f).presence = s.presence := rfl
@[simp] theorem modSeq_bad (s : State) (t : Nat) (f : Seq → Seq) : (s.modSeq t f).bad = s.bad := rfl
@[simp] theorem modSeq_unwritten (s : State) (t : Nat) (f : Seq → Seq) : (s.modSeq t f).unwritten = s.unwritten := rfl
@[simp] theorem modSeq_dies (s : State) (t : Nat) (f : Seq → Seq) : (s.modSeq t f).dies = s.dies := rfl
@[simp] theorem modSeq_loads (s : State) (t : Nat) (f : Seq → Seq) : (s.modSeq t f).loads = s.loads := rfl
@[simp] theorem modSeq_elems (s : State) (t : Nat) (f : Seq → Seq) : (s.modSeq t f).elems = s.elems := rfl
@[simp] theorem modSeq_boxes (s : State) (t : Nat) (f : Seq → Seq) : (s.modSeq t f).boxes = s.boxes := rfl
@[simp] theorem modSeq_accs (s : State) (t : Nat) (f : Seq → Seq) : (s.modSeq t f).accs = s.accs := rfl
@[simp] theorem modSeq_decs (s : State) (t : Nat) (f : Seq → Seq) : (s.modSeq t f).decs = s.decs := rfl
@[simp] theorem modSeq_cmds (s : State) (t : Nat) (f : Seq → Seq) : (s.modSeq t f).cmds = s.cmds := rfl
@[simp] theorem modSeq_dv (s : State) (t : Nat) (f : Seq → Seq) : (s.modSeq t f).dv = s.dv := rfl
@[simp] theorem modSeq_pgreq (s : State) (t : Nat) (f : Seq → Seq) : (s.modSeq t f).pgreq = s.pgreq := rfl
@[simp] theorem modSeq_pgpend (s : State) (t : Nat) (f : Seq → Seq) : (s.modSeq t f).pgpend = s.pgpend := rfl
@[simp] theorem modSeq_selog (s : State) (t : Nat) (f : Seq → Seq) : (s.modSeq t f).selog = s.selog := rfl
@[simp] theorem modSeq_selogLost (s : State) (t : Nat) (f : Seq → Seq) : (s.modSeq t f).selogLost = s.selogLost := rfl
@[simp] theorem modSeq_saved (s : State) (t : Nat) (f : Seq → Seq) : (s.modSeq t f).saved = s.saved := rfl
@[simp] theorem modSeq_tags (s : State) (t : Nat) (f : Seq → Seq) : (s.modSeq t f).tags = s.tags := rfl
@[simp] theorem modSeq_ports (s : State) (t : Nat) (f : Seq → Seq) : (s.modSeq t f).ports = s.ports := rfl
@[simp] theorem modSeq_linkClk (s : State) (t : Nat) (f : Seq → Seq) : (s.modSeq t f).linkClk = s.linkClk := rfl
@[simp] theorem modSeq_remotes (s : State) (t : Nat) (f : Seq → Seq) : (s.modSeq t f).remotes = s.remotes := rfl
@[simp] theorem modSeq_remDefers (s : State) (t : Nat) (f : Seq → Seq) : (s.modSeq t f).remDefers = s.remDefers := rfl
@[simp] theorem modSeq_groups (s : State) (t : Nat) (f : Seq → Seq) : (s.modSeq t f).groups = s.groups := rfl
@[simp] theorem modSeq_insts (s : State) (t : Nat) (f : Seq → Seq) : (s.modSeq t f).insts = s.insts := rfl
@[simp] theorem modSeq_places (s : State) (t : Nat) (f : Seq → Seq) : (s.modSeq t f).places = s.places := rfl
@[simp] theorem modSeq_unclaimed (s : State) (t : Nat) (f : Seq → Seq) : (s.modSeq t f).unclaimed = s.unclaimed := rfl
@[simp] theorem modSeq_released (s : State) (t : Nat) (f : Seq → Seq) : (s.modSeq t f).released = s.released := rfl
@[simp] theorem modSeq_boot (s : State) (t : Nat) (f : Seq → Seq) : (s.modSeq t f).boot = s.boot := rfl

/-! modLoad changes loads. -/

@[simp] theorem modLoad_clock (s : State) (l : LoadRef) (f : Load → Load) : (s.modLoad l f).clock = s.clock := rfl
@[simp] theorem modLoad_actor (s : State) (l : LoadRef) (f : Load → Load) : (s.modLoad l f).actor = s.actor := rfl
@[simp] theorem modLoad_agenda (s : State) (l : LoadRef) (f : Load → Load) : (s.modLoad l f).agenda = s.agenda := rfl
@[simp] theorem modLoad_inputs (s : State) (l : LoadRef) (f : Load → Load) : (s.modLoad l f).inputs = s.inputs := rfl
@[simp] theorem modLoad_out (s : State) (l : LoadRef) (f : Load → Load) : (s.modLoad l f).out = s.out := rfl
@[simp] theorem modLoad_freeCount (s : State) (l : LoadRef) (f : Load → Load) : (s.modLoad l f).freeCount = s.freeCount := rfl
@[simp] theorem modLoad_nextId (s : State) (l : LoadRef) (f : Load → Load) : (s.modLoad l f).nextId = s.nextId := rfl
@[simp] theorem modLoad_mem (s : State) (l : LoadRef) (f : Load → Load) : (s.modLoad l f).mem = s.mem := rfl
@[simp] theorem modLoad_presence (s : State) (l : LoadRef) (f : Load → Load) : (s.modLoad l f).presence = s.presence := rfl
@[simp] theorem modLoad_bad (s : State) (l : LoadRef) (f : Load → Load) : (s.modLoad l f).bad = s.bad := rfl
@[simp] theorem modLoad_unwritten (s : State) (l : LoadRef) (f : Load → Load) : (s.modLoad l f).unwritten = s.unwritten := rfl
@[simp] theorem modLoad_seqs (s : State) (l : LoadRef) (f : Load → Load) : (s.modLoad l f).seqs = s.seqs := rfl
@[simp] theorem modLoad_dies (s : State) (l : LoadRef) (f : Load → Load) : (s.modLoad l f).dies = s.dies := rfl
@[simp] theorem modLoad_elems (s : State) (l : LoadRef) (f : Load → Load) : (s.modLoad l f).elems = s.elems := rfl
@[simp] theorem modLoad_boxes (s : State) (l : LoadRef) (f : Load → Load) : (s.modLoad l f).boxes = s.boxes := rfl
@[simp] theorem modLoad_accs (s : State) (l : LoadRef) (f : Load → Load) : (s.modLoad l f).accs = s.accs := rfl
@[simp] theorem modLoad_decs (s : State) (l : LoadRef) (f : Load → Load) : (s.modLoad l f).decs = s.decs := rfl
@[simp] theorem modLoad_cmds (s : State) (l : LoadRef) (f : Load → Load) : (s.modLoad l f).cmds = s.cmds := rfl
@[simp] theorem modLoad_dv (s : State) (l : LoadRef) (f : Load → Load) : (s.modLoad l f).dv = s.dv := rfl
@[simp] theorem modLoad_pgreq (s : State) (l : LoadRef) (f : Load → Load) : (s.modLoad l f).pgreq = s.pgreq := rfl
@[simp] theorem modLoad_pgpend (s : State) (l : LoadRef) (f : Load → Load) : (s.modLoad l f).pgpend = s.pgpend := rfl
@[simp] theorem modLoad_selog (s : State) (l : LoadRef) (f : Load → Load) : (s.modLoad l f).selog = s.selog := rfl
@[simp] theorem modLoad_selogLost (s : State) (l : LoadRef) (f : Load → Load) : (s.modLoad l f).selogLost = s.selogLost := rfl
@[simp] theorem modLoad_saved (s : State) (l : LoadRef) (f : Load → Load) : (s.modLoad l f).saved = s.saved := rfl
@[simp] theorem modLoad_tags (s : State) (l : LoadRef) (f : Load → Load) : (s.modLoad l f).tags = s.tags := rfl
@[simp] theorem modLoad_ports (s : State) (l : LoadRef) (f : Load → Load) : (s.modLoad l f).ports = s.ports := rfl
@[simp] theorem modLoad_linkClk (s : State) (l : LoadRef) (f : Load → Load) : (s.modLoad l f).linkClk = s.linkClk := rfl
@[simp] theorem modLoad_remotes (s : State) (l : LoadRef) (f : Load → Load) : (s.modLoad l f).remotes = s.remotes := rfl
@[simp] theorem modLoad_remDefers (s : State) (l : LoadRef) (f : Load → Load) : (s.modLoad l f).remDefers = s.remDefers := rfl
@[simp] theorem modLoad_groups (s : State) (l : LoadRef) (f : Load → Load) : (s.modLoad l f).groups = s.groups := rfl
@[simp] theorem modLoad_insts (s : State) (l : LoadRef) (f : Load → Load) : (s.modLoad l f).insts = s.insts := rfl
@[simp] theorem modLoad_places (s : State) (l : LoadRef) (f : Load → Load) : (s.modLoad l f).places = s.places := rfl
@[simp] theorem modLoad_unclaimed (s : State) (l : LoadRef) (f : Load → Load) : (s.modLoad l f).unclaimed = s.unclaimed := rfl
@[simp] theorem modLoad_released (s : State) (l : LoadRef) (f : Load → Load) : (s.modLoad l f).released = s.released := rfl
@[simp] theorem modLoad_boot (s : State) (l : LoadRef) (f : Load → Load) : (s.modLoad l f).boot = s.boot := rfl

/-! modDie changes dies. -/

@[simp] theorem modDie_clock (s : State) (n : Nat) (f : Die → Die) : (s.modDie n f).clock = s.clock := rfl
@[simp] theorem modDie_actor (s : State) (n : Nat) (f : Die → Die) : (s.modDie n f).actor = s.actor := rfl
@[simp] theorem modDie_agenda (s : State) (n : Nat) (f : Die → Die) : (s.modDie n f).agenda = s.agenda := rfl
@[simp] theorem modDie_inputs (s : State) (n : Nat) (f : Die → Die) : (s.modDie n f).inputs = s.inputs := rfl
@[simp] theorem modDie_out (s : State) (n : Nat) (f : Die → Die) : (s.modDie n f).out = s.out := rfl
@[simp] theorem modDie_freeCount (s : State) (n : Nat) (f : Die → Die) : (s.modDie n f).freeCount = s.freeCount := rfl
@[simp] theorem modDie_nextId (s : State) (n : Nat) (f : Die → Die) : (s.modDie n f).nextId = s.nextId := rfl
@[simp] theorem modDie_mem (s : State) (n : Nat) (f : Die → Die) : (s.modDie n f).mem = s.mem := rfl
@[simp] theorem modDie_presence (s : State) (n : Nat) (f : Die → Die) : (s.modDie n f).presence = s.presence := rfl
@[simp] theorem modDie_bad (s : State) (n : Nat) (f : Die → Die) : (s.modDie n f).bad = s.bad := rfl
@[simp] theorem modDie_unwritten (s : State) (n : Nat) (f : Die → Die) : (s.modDie n f).unwritten = s.unwritten := rfl
@[simp] theorem modDie_seqs (s : State) (n : Nat) (f : Die → Die) : (s.modDie n f).seqs = s.seqs := rfl
@[simp] theorem modDie_loads (s : State) (n : Nat) (f : Die → Die) : (s.modDie n f).loads = s.loads := rfl
@[simp] theorem modDie_elems (s : State) (n : Nat) (f : Die → Die) : (s.modDie n f).elems = s.elems := rfl
@[simp] theorem modDie_boxes (s : State) (n : Nat) (f : Die → Die) : (s.modDie n f).boxes = s.boxes := rfl
@[simp] theorem modDie_accs (s : State) (n : Nat) (f : Die → Die) : (s.modDie n f).accs = s.accs := rfl
@[simp] theorem modDie_decs (s : State) (n : Nat) (f : Die → Die) : (s.modDie n f).decs = s.decs := rfl
@[simp] theorem modDie_cmds (s : State) (n : Nat) (f : Die → Die) : (s.modDie n f).cmds = s.cmds := rfl
@[simp] theorem modDie_dv (s : State) (n : Nat) (f : Die → Die) : (s.modDie n f).dv = s.dv := rfl
@[simp] theorem modDie_pgreq (s : State) (n : Nat) (f : Die → Die) : (s.modDie n f).pgreq = s.pgreq := rfl
@[simp] theorem modDie_pgpend (s : State) (n : Nat) (f : Die → Die) : (s.modDie n f).pgpend = s.pgpend := rfl
@[simp] theorem modDie_selog (s : State) (n : Nat) (f : Die → Die) : (s.modDie n f).selog = s.selog := rfl
@[simp] theorem modDie_selogLost (s : State) (n : Nat) (f : Die → Die) : (s.modDie n f).selogLost = s.selogLost := rfl
@[simp] theorem modDie_saved (s : State) (n : Nat) (f : Die → Die) : (s.modDie n f).saved = s.saved := rfl
@[simp] theorem modDie_tags (s : State) (n : Nat) (f : Die → Die) : (s.modDie n f).tags = s.tags := rfl
@[simp] theorem modDie_ports (s : State) (n : Nat) (f : Die → Die) : (s.modDie n f).ports = s.ports := rfl
@[simp] theorem modDie_linkClk (s : State) (n : Nat) (f : Die → Die) : (s.modDie n f).linkClk = s.linkClk := rfl
@[simp] theorem modDie_remotes (s : State) (n : Nat) (f : Die → Die) : (s.modDie n f).remotes = s.remotes := rfl
@[simp] theorem modDie_remDefers (s : State) (n : Nat) (f : Die → Die) : (s.modDie n f).remDefers = s.remDefers := rfl
@[simp] theorem modDie_groups (s : State) (n : Nat) (f : Die → Die) : (s.modDie n f).groups = s.groups := rfl
@[simp] theorem modDie_insts (s : State) (n : Nat) (f : Die → Die) : (s.modDie n f).insts = s.insts := rfl
@[simp] theorem modDie_places (s : State) (n : Nat) (f : Die → Die) : (s.modDie n f).places = s.places := rfl
@[simp] theorem modDie_unclaimed (s : State) (n : Nat) (f : Die → Die) : (s.modDie n f).unclaimed = s.unclaimed := rfl
@[simp] theorem modDie_released (s : State) (n : Nat) (f : Die → Die) : (s.modDie n f).released = s.released := rfl
@[simp] theorem modDie_boot (s : State) (n : Nat) (f : Die → Die) : (s.modDie n f).boot = s.boot := rfl

/-! modBox changes boxes. -/

@[simp] theorem modBox_clock (s : State) (l : LoadRef) (lt site : Nat) (f : Box → Box) : (s.modBox l lt site f).clock = s.clock := rfl
@[simp] theorem modBox_actor (s : State) (l : LoadRef) (lt site : Nat) (f : Box → Box) : (s.modBox l lt site f).actor = s.actor := rfl
@[simp] theorem modBox_agenda (s : State) (l : LoadRef) (lt site : Nat) (f : Box → Box) : (s.modBox l lt site f).agenda = s.agenda := rfl
@[simp] theorem modBox_inputs (s : State) (l : LoadRef) (lt site : Nat) (f : Box → Box) : (s.modBox l lt site f).inputs = s.inputs := rfl
@[simp] theorem modBox_out (s : State) (l : LoadRef) (lt site : Nat) (f : Box → Box) : (s.modBox l lt site f).out = s.out := rfl
@[simp] theorem modBox_freeCount (s : State) (l : LoadRef) (lt site : Nat) (f : Box → Box) : (s.modBox l lt site f).freeCount = s.freeCount := rfl
@[simp] theorem modBox_nextId (s : State) (l : LoadRef) (lt site : Nat) (f : Box → Box) : (s.modBox l lt site f).nextId = s.nextId := rfl
@[simp] theorem modBox_mem (s : State) (l : LoadRef) (lt site : Nat) (f : Box → Box) : (s.modBox l lt site f).mem = s.mem := rfl
@[simp] theorem modBox_presence (s : State) (l : LoadRef) (lt site : Nat) (f : Box → Box) : (s.modBox l lt site f).presence = s.presence := rfl
@[simp] theorem modBox_bad (s : State) (l : LoadRef) (lt site : Nat) (f : Box → Box) : (s.modBox l lt site f).bad = s.bad := rfl
@[simp] theorem modBox_unwritten (s : State) (l : LoadRef) (lt site : Nat) (f : Box → Box) : (s.modBox l lt site f).unwritten = s.unwritten := rfl
@[simp] theorem modBox_seqs (s : State) (l : LoadRef) (lt site : Nat) (f : Box → Box) : (s.modBox l lt site f).seqs = s.seqs := rfl
@[simp] theorem modBox_dies (s : State) (l : LoadRef) (lt site : Nat) (f : Box → Box) : (s.modBox l lt site f).dies = s.dies := rfl
@[simp] theorem modBox_loads (s : State) (l : LoadRef) (lt site : Nat) (f : Box → Box) : (s.modBox l lt site f).loads = s.loads := rfl
@[simp] theorem modBox_elems (s : State) (l : LoadRef) (lt site : Nat) (f : Box → Box) : (s.modBox l lt site f).elems = s.elems := rfl
@[simp] theorem modBox_accs (s : State) (l : LoadRef) (lt site : Nat) (f : Box → Box) : (s.modBox l lt site f).accs = s.accs := rfl
@[simp] theorem modBox_decs (s : State) (l : LoadRef) (lt site : Nat) (f : Box → Box) : (s.modBox l lt site f).decs = s.decs := rfl
@[simp] theorem modBox_cmds (s : State) (l : LoadRef) (lt site : Nat) (f : Box → Box) : (s.modBox l lt site f).cmds = s.cmds := rfl
@[simp] theorem modBox_dv (s : State) (l : LoadRef) (lt site : Nat) (f : Box → Box) : (s.modBox l lt site f).dv = s.dv := rfl
@[simp] theorem modBox_pgreq (s : State) (l : LoadRef) (lt site : Nat) (f : Box → Box) : (s.modBox l lt site f).pgreq = s.pgreq := rfl
@[simp] theorem modBox_pgpend (s : State) (l : LoadRef) (lt site : Nat) (f : Box → Box) : (s.modBox l lt site f).pgpend = s.pgpend := rfl
@[simp] theorem modBox_selog (s : State) (l : LoadRef) (lt site : Nat) (f : Box → Box) : (s.modBox l lt site f).selog = s.selog := rfl
@[simp] theorem modBox_selogLost (s : State) (l : LoadRef) (lt site : Nat) (f : Box → Box) : (s.modBox l lt site f).selogLost = s.selogLost := rfl
@[simp] theorem modBox_saved (s : State) (l : LoadRef) (lt site : Nat) (f : Box → Box) : (s.modBox l lt site f).saved = s.saved := rfl
@[simp] theorem modBox_tags (s : State) (l : LoadRef) (lt site : Nat) (f : Box → Box) : (s.modBox l lt site f).tags = s.tags := rfl
@[simp] theorem modBox_ports (s : State) (l : LoadRef) (lt site : Nat) (f : Box → Box) : (s.modBox l lt site f).ports = s.ports := rfl
@[simp] theorem modBox_linkClk (s : State) (l : LoadRef) (lt site : Nat) (f : Box → Box) : (s.modBox l lt site f).linkClk = s.linkClk := rfl
@[simp] theorem modBox_remotes (s : State) (l : LoadRef) (lt site : Nat) (f : Box → Box) : (s.modBox l lt site f).remotes = s.remotes := rfl
@[simp] theorem modBox_remDefers (s : State) (l : LoadRef) (lt site : Nat) (f : Box → Box) : (s.modBox l lt site f).remDefers = s.remDefers := rfl
@[simp] theorem modBox_groups (s : State) (l : LoadRef) (lt site : Nat) (f : Box → Box) : (s.modBox l lt site f).groups = s.groups := rfl
@[simp] theorem modBox_insts (s : State) (l : LoadRef) (lt site : Nat) (f : Box → Box) : (s.modBox l lt site f).insts = s.insts := rfl
@[simp] theorem modBox_places (s : State) (l : LoadRef) (lt site : Nat) (f : Box → Box) : (s.modBox l lt site f).places = s.places := rfl
@[simp] theorem modBox_unclaimed (s : State) (l : LoadRef) (lt site : Nat) (f : Box → Box) : (s.modBox l lt site f).unclaimed = s.unclaimed := rfl
@[simp] theorem modBox_released (s : State) (l : LoadRef) (lt site : Nat) (f : Box → Box) : (s.modBox l lt site f).released = s.released := rfl
@[simp] theorem modBox_boot (s : State) (l : LoadRef) (lt site : Nat) (f : Box → Box) : (s.modBox l lt site f).boot = s.boot := rfl

/-! modCmd changes cmds. -/

@[simp] theorem modCmd_clock (s : State) (n : Nat) (f : Cmd → Cmd) : (s.modCmd n f).clock = s.clock := rfl
@[simp] theorem modCmd_actor (s : State) (n : Nat) (f : Cmd → Cmd) : (s.modCmd n f).actor = s.actor := rfl
@[simp] theorem modCmd_agenda (s : State) (n : Nat) (f : Cmd → Cmd) : (s.modCmd n f).agenda = s.agenda := rfl
@[simp] theorem modCmd_inputs (s : State) (n : Nat) (f : Cmd → Cmd) : (s.modCmd n f).inputs = s.inputs := rfl
@[simp] theorem modCmd_out (s : State) (n : Nat) (f : Cmd → Cmd) : (s.modCmd n f).out = s.out := rfl
@[simp] theorem modCmd_freeCount (s : State) (n : Nat) (f : Cmd → Cmd) : (s.modCmd n f).freeCount = s.freeCount := rfl
@[simp] theorem modCmd_nextId (s : State) (n : Nat) (f : Cmd → Cmd) : (s.modCmd n f).nextId = s.nextId := rfl
@[simp] theorem modCmd_mem (s : State) (n : Nat) (f : Cmd → Cmd) : (s.modCmd n f).mem = s.mem := rfl
@[simp] theorem modCmd_presence (s : State) (n : Nat) (f : Cmd → Cmd) : (s.modCmd n f).presence = s.presence := rfl
@[simp] theorem modCmd_bad (s : State) (n : Nat) (f : Cmd → Cmd) : (s.modCmd n f).bad = s.bad := rfl
@[simp] theorem modCmd_unwritten (s : State) (n : Nat) (f : Cmd → Cmd) : (s.modCmd n f).unwritten = s.unwritten := rfl
@[simp] theorem modCmd_seqs (s : State) (n : Nat) (f : Cmd → Cmd) : (s.modCmd n f).seqs = s.seqs := rfl
@[simp] theorem modCmd_dies (s : State) (n : Nat) (f : Cmd → Cmd) : (s.modCmd n f).dies = s.dies := rfl
@[simp] theorem modCmd_loads (s : State) (n : Nat) (f : Cmd → Cmd) : (s.modCmd n f).loads = s.loads := rfl
@[simp] theorem modCmd_elems (s : State) (n : Nat) (f : Cmd → Cmd) : (s.modCmd n f).elems = s.elems := rfl
@[simp] theorem modCmd_boxes (s : State) (n : Nat) (f : Cmd → Cmd) : (s.modCmd n f).boxes = s.boxes := rfl
@[simp] theorem modCmd_accs (s : State) (n : Nat) (f : Cmd → Cmd) : (s.modCmd n f).accs = s.accs := rfl
@[simp] theorem modCmd_decs (s : State) (n : Nat) (f : Cmd → Cmd) : (s.modCmd n f).decs = s.decs := rfl
@[simp] theorem modCmd_dv (s : State) (n : Nat) (f : Cmd → Cmd) : (s.modCmd n f).dv = s.dv := rfl
@[simp] theorem modCmd_pgreq (s : State) (n : Nat) (f : Cmd → Cmd) : (s.modCmd n f).pgreq = s.pgreq := rfl
@[simp] theorem modCmd_pgpend (s : State) (n : Nat) (f : Cmd → Cmd) : (s.modCmd n f).pgpend = s.pgpend := rfl
@[simp] theorem modCmd_selog (s : State) (n : Nat) (f : Cmd → Cmd) : (s.modCmd n f).selog = s.selog := rfl
@[simp] theorem modCmd_selogLost (s : State) (n : Nat) (f : Cmd → Cmd) : (s.modCmd n f).selogLost = s.selogLost := rfl
@[simp] theorem modCmd_saved (s : State) (n : Nat) (f : Cmd → Cmd) : (s.modCmd n f).saved = s.saved := rfl
@[simp] theorem modCmd_tags (s : State) (n : Nat) (f : Cmd → Cmd) : (s.modCmd n f).tags = s.tags := rfl
@[simp] theorem modCmd_ports (s : State) (n : Nat) (f : Cmd → Cmd) : (s.modCmd n f).ports = s.ports := rfl
@[simp] theorem modCmd_linkClk (s : State) (n : Nat) (f : Cmd → Cmd) : (s.modCmd n f).linkClk = s.linkClk := rfl
@[simp] theorem modCmd_remotes (s : State) (n : Nat) (f : Cmd → Cmd) : (s.modCmd n f).remotes = s.remotes := rfl
@[simp] theorem modCmd_remDefers (s : State) (n : Nat) (f : Cmd → Cmd) : (s.modCmd n f).remDefers = s.remDefers := rfl
@[simp] theorem modCmd_groups (s : State) (n : Nat) (f : Cmd → Cmd) : (s.modCmd n f).groups = s.groups := rfl
@[simp] theorem modCmd_insts (s : State) (n : Nat) (f : Cmd → Cmd) : (s.modCmd n f).insts = s.insts := rfl
@[simp] theorem modCmd_places (s : State) (n : Nat) (f : Cmd → Cmd) : (s.modCmd n f).places = s.places := rfl
@[simp] theorem modCmd_unclaimed (s : State) (n : Nat) (f : Cmd → Cmd) : (s.modCmd n f).unclaimed = s.unclaimed := rfl
@[simp] theorem modCmd_released (s : State) (n : Nat) (f : Cmd → Cmd) : (s.modCmd n f).released = s.released := rfl
@[simp] theorem modCmd_boot (s : State) (n : Nat) (f : Cmd → Cmd) : (s.modCmd n f).boot = s.boot := rfl

/-! modAcc changes accs. -/

@[simp] theorem modAcc_clock (s : State) (n : Nat) (f : Access → Access) : (s.modAcc n f).clock = s.clock := rfl
@[simp] theorem modAcc_actor (s : State) (n : Nat) (f : Access → Access) : (s.modAcc n f).actor = s.actor := rfl
@[simp] theorem modAcc_agenda (s : State) (n : Nat) (f : Access → Access) : (s.modAcc n f).agenda = s.agenda := rfl
@[simp] theorem modAcc_inputs (s : State) (n : Nat) (f : Access → Access) : (s.modAcc n f).inputs = s.inputs := rfl
@[simp] theorem modAcc_out (s : State) (n : Nat) (f : Access → Access) : (s.modAcc n f).out = s.out := rfl
@[simp] theorem modAcc_freeCount (s : State) (n : Nat) (f : Access → Access) : (s.modAcc n f).freeCount = s.freeCount := rfl
@[simp] theorem modAcc_nextId (s : State) (n : Nat) (f : Access → Access) : (s.modAcc n f).nextId = s.nextId := rfl
@[simp] theorem modAcc_mem (s : State) (n : Nat) (f : Access → Access) : (s.modAcc n f).mem = s.mem := rfl
@[simp] theorem modAcc_presence (s : State) (n : Nat) (f : Access → Access) : (s.modAcc n f).presence = s.presence := rfl
@[simp] theorem modAcc_bad (s : State) (n : Nat) (f : Access → Access) : (s.modAcc n f).bad = s.bad := rfl
@[simp] theorem modAcc_unwritten (s : State) (n : Nat) (f : Access → Access) : (s.modAcc n f).unwritten = s.unwritten := rfl
@[simp] theorem modAcc_seqs (s : State) (n : Nat) (f : Access → Access) : (s.modAcc n f).seqs = s.seqs := rfl
@[simp] theorem modAcc_dies (s : State) (n : Nat) (f : Access → Access) : (s.modAcc n f).dies = s.dies := rfl
@[simp] theorem modAcc_loads (s : State) (n : Nat) (f : Access → Access) : (s.modAcc n f).loads = s.loads := rfl
@[simp] theorem modAcc_elems (s : State) (n : Nat) (f : Access → Access) : (s.modAcc n f).elems = s.elems := rfl
@[simp] theorem modAcc_boxes (s : State) (n : Nat) (f : Access → Access) : (s.modAcc n f).boxes = s.boxes := rfl
@[simp] theorem modAcc_decs (s : State) (n : Nat) (f : Access → Access) : (s.modAcc n f).decs = s.decs := rfl
@[simp] theorem modAcc_cmds (s : State) (n : Nat) (f : Access → Access) : (s.modAcc n f).cmds = s.cmds := rfl
@[simp] theorem modAcc_dv (s : State) (n : Nat) (f : Access → Access) : (s.modAcc n f).dv = s.dv := rfl
@[simp] theorem modAcc_pgreq (s : State) (n : Nat) (f : Access → Access) : (s.modAcc n f).pgreq = s.pgreq := rfl
@[simp] theorem modAcc_pgpend (s : State) (n : Nat) (f : Access → Access) : (s.modAcc n f).pgpend = s.pgpend := rfl
@[simp] theorem modAcc_selog (s : State) (n : Nat) (f : Access → Access) : (s.modAcc n f).selog = s.selog := rfl
@[simp] theorem modAcc_selogLost (s : State) (n : Nat) (f : Access → Access) : (s.modAcc n f).selogLost = s.selogLost := rfl
@[simp] theorem modAcc_saved (s : State) (n : Nat) (f : Access → Access) : (s.modAcc n f).saved = s.saved := rfl
@[simp] theorem modAcc_tags (s : State) (n : Nat) (f : Access → Access) : (s.modAcc n f).tags = s.tags := rfl
@[simp] theorem modAcc_ports (s : State) (n : Nat) (f : Access → Access) : (s.modAcc n f).ports = s.ports := rfl
@[simp] theorem modAcc_linkClk (s : State) (n : Nat) (f : Access → Access) : (s.modAcc n f).linkClk = s.linkClk := rfl
@[simp] theorem modAcc_remotes (s : State) (n : Nat) (f : Access → Access) : (s.modAcc n f).remotes = s.remotes := rfl
@[simp] theorem modAcc_remDefers (s : State) (n : Nat) (f : Access → Access) : (s.modAcc n f).remDefers = s.remDefers := rfl
@[simp] theorem modAcc_groups (s : State) (n : Nat) (f : Access → Access) : (s.modAcc n f).groups = s.groups := rfl
@[simp] theorem modAcc_insts (s : State) (n : Nat) (f : Access → Access) : (s.modAcc n f).insts = s.insts := rfl
@[simp] theorem modAcc_places (s : State) (n : Nat) (f : Access → Access) : (s.modAcc n f).places = s.places := rfl
@[simp] theorem modAcc_unclaimed (s : State) (n : Nat) (f : Access → Access) : (s.modAcc n f).unclaimed = s.unclaimed := rfl
@[simp] theorem modAcc_released (s : State) (n : Nat) (f : Access → Access) : (s.modAcc n f).released = s.released := rfl
@[simp] theorem modAcc_boot (s : State) (n : Nat) (f : Access → Access) : (s.modAcc n f).boot = s.boot := rfl

/-! dropAcc changes accs. -/

@[simp] theorem dropAcc_clock (s : State) (n : Nat) : (s.dropAcc n).clock = s.clock := rfl
@[simp] theorem dropAcc_actor (s : State) (n : Nat) : (s.dropAcc n).actor = s.actor := rfl
@[simp] theorem dropAcc_agenda (s : State) (n : Nat) : (s.dropAcc n).agenda = s.agenda := rfl
@[simp] theorem dropAcc_inputs (s : State) (n : Nat) : (s.dropAcc n).inputs = s.inputs := rfl
@[simp] theorem dropAcc_out (s : State) (n : Nat) : (s.dropAcc n).out = s.out := rfl
@[simp] theorem dropAcc_freeCount (s : State) (n : Nat) : (s.dropAcc n).freeCount = s.freeCount := rfl
@[simp] theorem dropAcc_nextId (s : State) (n : Nat) : (s.dropAcc n).nextId = s.nextId := rfl
@[simp] theorem dropAcc_mem (s : State) (n : Nat) : (s.dropAcc n).mem = s.mem := rfl
@[simp] theorem dropAcc_presence (s : State) (n : Nat) : (s.dropAcc n).presence = s.presence := rfl
@[simp] theorem dropAcc_bad (s : State) (n : Nat) : (s.dropAcc n).bad = s.bad := rfl
@[simp] theorem dropAcc_unwritten (s : State) (n : Nat) : (s.dropAcc n).unwritten = s.unwritten := rfl
@[simp] theorem dropAcc_seqs (s : State) (n : Nat) : (s.dropAcc n).seqs = s.seqs := rfl
@[simp] theorem dropAcc_dies (s : State) (n : Nat) : (s.dropAcc n).dies = s.dies := rfl
@[simp] theorem dropAcc_loads (s : State) (n : Nat) : (s.dropAcc n).loads = s.loads := rfl
@[simp] theorem dropAcc_elems (s : State) (n : Nat) : (s.dropAcc n).elems = s.elems := rfl
@[simp] theorem dropAcc_boxes (s : State) (n : Nat) : (s.dropAcc n).boxes = s.boxes := rfl
@[simp] theorem dropAcc_decs (s : State) (n : Nat) : (s.dropAcc n).decs = s.decs := rfl
@[simp] theorem dropAcc_cmds (s : State) (n : Nat) : (s.dropAcc n).cmds = s.cmds := rfl
@[simp] theorem dropAcc_dv (s : State) (n : Nat) : (s.dropAcc n).dv = s.dv := rfl
@[simp] theorem dropAcc_pgreq (s : State) (n : Nat) : (s.dropAcc n).pgreq = s.pgreq := rfl
@[simp] theorem dropAcc_pgpend (s : State) (n : Nat) : (s.dropAcc n).pgpend = s.pgpend := rfl
@[simp] theorem dropAcc_selog (s : State) (n : Nat) : (s.dropAcc n).selog = s.selog := rfl
@[simp] theorem dropAcc_selogLost (s : State) (n : Nat) : (s.dropAcc n).selogLost = s.selogLost := rfl
@[simp] theorem dropAcc_saved (s : State) (n : Nat) : (s.dropAcc n).saved = s.saved := rfl
@[simp] theorem dropAcc_tags (s : State) (n : Nat) : (s.dropAcc n).tags = s.tags := rfl
@[simp] theorem dropAcc_ports (s : State) (n : Nat) : (s.dropAcc n).ports = s.ports := rfl
@[simp] theorem dropAcc_linkClk (s : State) (n : Nat) : (s.dropAcc n).linkClk = s.linkClk := rfl
@[simp] theorem dropAcc_remotes (s : State) (n : Nat) : (s.dropAcc n).remotes = s.remotes := rfl
@[simp] theorem dropAcc_remDefers (s : State) (n : Nat) : (s.dropAcc n).remDefers = s.remDefers := rfl
@[simp] theorem dropAcc_groups (s : State) (n : Nat) : (s.dropAcc n).groups = s.groups := rfl
@[simp] theorem dropAcc_insts (s : State) (n : Nat) : (s.dropAcc n).insts = s.insts := rfl
@[simp] theorem dropAcc_places (s : State) (n : Nat) : (s.dropAcc n).places = s.places := rfl
@[simp] theorem dropAcc_unclaimed (s : State) (n : Nat) : (s.dropAcc n).unclaimed = s.unclaimed := rfl
@[simp] theorem dropAcc_released (s : State) (n : Nat) : (s.dropAcc n).released = s.released := rfl
@[simp] theorem dropAcc_boot (s : State) (n : Nat) : (s.dropAcc n).boot = s.boot := rfl

/-! push changes agenda. -/

@[simp] theorem push_clock (s : State) (ts : List Turn) : (s.push ts).clock = s.clock := rfl
@[simp] theorem push_actor (s : State) (ts : List Turn) : (s.push ts).actor = s.actor := rfl
@[simp] theorem push_inputs (s : State) (ts : List Turn) : (s.push ts).inputs = s.inputs := rfl
@[simp] theorem push_out (s : State) (ts : List Turn) : (s.push ts).out = s.out := rfl
@[simp] theorem push_freeCount (s : State) (ts : List Turn) : (s.push ts).freeCount = s.freeCount := rfl
@[simp] theorem push_nextId (s : State) (ts : List Turn) : (s.push ts).nextId = s.nextId := rfl
@[simp] theorem push_mem (s : State) (ts : List Turn) : (s.push ts).mem = s.mem := rfl
@[simp] theorem push_presence (s : State) (ts : List Turn) : (s.push ts).presence = s.presence := rfl
@[simp] theorem push_bad (s : State) (ts : List Turn) : (s.push ts).bad = s.bad := rfl
@[simp] theorem push_unwritten (s : State) (ts : List Turn) : (s.push ts).unwritten = s.unwritten := rfl
@[simp] theorem push_seqs (s : State) (ts : List Turn) : (s.push ts).seqs = s.seqs := rfl
@[simp] theorem push_dies (s : State) (ts : List Turn) : (s.push ts).dies = s.dies := rfl
@[simp] theorem push_loads (s : State) (ts : List Turn) : (s.push ts).loads = s.loads := rfl
@[simp] theorem push_elems (s : State) (ts : List Turn) : (s.push ts).elems = s.elems := rfl
@[simp] theorem push_boxes (s : State) (ts : List Turn) : (s.push ts).boxes = s.boxes := rfl
@[simp] theorem push_accs (s : State) (ts : List Turn) : (s.push ts).accs = s.accs := rfl
@[simp] theorem push_decs (s : State) (ts : List Turn) : (s.push ts).decs = s.decs := rfl
@[simp] theorem push_cmds (s : State) (ts : List Turn) : (s.push ts).cmds = s.cmds := rfl
@[simp] theorem push_dv (s : State) (ts : List Turn) : (s.push ts).dv = s.dv := rfl
@[simp] theorem push_pgreq (s : State) (ts : List Turn) : (s.push ts).pgreq = s.pgreq := rfl
@[simp] theorem push_pgpend (s : State) (ts : List Turn) : (s.push ts).pgpend = s.pgpend := rfl
@[simp] theorem push_selog (s : State) (ts : List Turn) : (s.push ts).selog = s.selog := rfl
@[simp] theorem push_selogLost (s : State) (ts : List Turn) : (s.push ts).selogLost = s.selogLost := rfl
@[simp] theorem push_saved (s : State) (ts : List Turn) : (s.push ts).saved = s.saved := rfl
@[simp] theorem push_tags (s : State) (ts : List Turn) : (s.push ts).tags = s.tags := rfl
@[simp] theorem push_ports (s : State) (ts : List Turn) : (s.push ts).ports = s.ports := rfl
@[simp] theorem push_linkClk (s : State) (ts : List Turn) : (s.push ts).linkClk = s.linkClk := rfl
@[simp] theorem push_remotes (s : State) (ts : List Turn) : (s.push ts).remotes = s.remotes := rfl
@[simp] theorem push_remDefers (s : State) (ts : List Turn) : (s.push ts).remDefers = s.remDefers := rfl
@[simp] theorem push_groups (s : State) (ts : List Turn) : (s.push ts).groups = s.groups := rfl
@[simp] theorem push_insts (s : State) (ts : List Turn) : (s.push ts).insts = s.insts := rfl
@[simp] theorem push_places (s : State) (ts : List Turn) : (s.push ts).places = s.places := rfl
@[simp] theorem push_unclaimed (s : State) (ts : List Turn) : (s.push ts).unclaimed = s.unclaimed := rfl
@[simp] theorem push_released (s : State) (ts : List Turn) : (s.push ts).released = s.released := rfl
@[simp] theorem push_boot (s : State) (ts : List Turn) : (s.push ts).boot = s.boot := rfl

end Sys2Proof.Machine
end

