-- ==== Sys2Proof/Laws/Memory.lean ====
section
/-! SUPPORT. Sparse contents keep their canonical form and read back what was written; memory operations keep the form
of State.mem. -/

namespace Sys2Proof.Machine

open Sys2Proof

theorem sabove_mono {α : Type} {a b : Nat} (h : a ≤ b) (m : List (Nat × α)) (hb : sabove b m = true) :
    sabove a m = true := by
  induction m with
  | nil => rfl
  | cons x r ih =>
    simp only [sabove, Bool.and_eq_true, decide_eq_true_eq] at hb ⊢
    exact ⟨by omega, ih hb.2⟩

theorem sget_above {α : Type} (d : α) {a : Nat} (m : List (Nat × α)) (h : sabove a m = true) : sget d m a = d := by
  cases m with
  | nil => rfl
  | cons x r =>
    simp only [sabove, Bool.and_eq_true, decide_eq_true_eq] at h
    unfold sget
    rw [if_neg (by omega), if_pos h.1]

theorem sabove_sset {α : Type} [DecidableEq α] (d : α) (m : List (Nat × α)) (a b : Nat) (v : α) (hb : b < a)
    (h : sabove b m = true) : sabove b (sset d m a v) = true := by
  induction m with
  | nil => unfold sset; split <;> simp [sabove, hb]
  | cons x r ih =>
    simp only [sabove, Bool.and_eq_true, decide_eq_true_eq] at h
    unfold sset
    split
    · split <;> simp [sabove, h.1, h.2, hb]
    · split
      · split <;> simp [sabove, h.2, hb]
      · simp [sabove, h.1, ih h.2]

/-- A write keeps the canonical form. -/
theorem swf_sset {α : Type} [DecidableEq α] (d : α) (m : List (Nat × α)) (a : Nat) (v : α) (h : swf d m = true) :
    swf d (sset d m a v) = true := by
  induction m with
  | nil => unfold sset; split <;> simp_all [swf, sabove]
  | cons x r ih =>
    obtain ⟨k, w⟩ := x
    simp only [swf, Bool.and_eq_true, decide_eq_true_eq] at h
    unfold sset
    split
    · split
      · simp [swf, h]
      · have : sabove a r = true := sabove_mono (by omega) r h.1.2
        simp_all [swf, sabove]
    · split
      · split
        · exact h.2
        · simp_all [swf]
      · have : sabove k (sset d r a v) = true := sabove_sset d r a k v (by omega) h.1.2
        simp_all [swf]

/-- A write is what the next read of its address gives, and no other address reads otherwise. -/
theorem sget_sset {α : Type} [DecidableEq α] (d : α) (m : List (Nat × α)) (a b : Nat) (v : α) (h : swf d m = true) :
    sget d (sset d m a v) b = if b = a then v else sget d m b := by
  induction m with
  | nil =>
    unfold sset
    split
    · subst_vars; simp [sget]
    · simp only [sget]
      split
      · rfl
      · split <;> rfl
  | cons x r ih =>
    obtain ⟨k, w⟩ := x
    simp only [swf, Bool.and_eq_true, decide_eq_true_eq] at h
    unfold sset
    split
    · rename_i hak
      split
      · rename_i hv
        split
        · rename_i hb
          subst hb; rw [hv]; unfold sget; rw [if_neg (by omega), if_pos hak]
        · rfl
      · conv_lhs => unfold sget
        split
        · rfl
        · rename_i hb
          split
          · unfold sget; rw [if_neg (by omega), if_pos (by omega)]
          · rfl
    · rename_i hak
      split
      · rename_i hk
        subst hk
        split
        · rename_i hv
          split
          · rename_i hb; subst hb; rw [hv]; exact sget_above d r h.1.2
          · rename_i hb
            by_cases hlt : b < a
            · rw [sget_above d r (sabove_mono (by omega) r h.1.2)]
              unfold sget; rw [if_neg hb, if_pos hlt]
            · conv_rhs => unfold sget
              rw [if_neg hb, if_neg hlt]
        · conv_lhs => unfold sget
          split
          · rfl
          · rename_i hb
            conv_rhs => unfold sget
            rw [if_neg hb]
      · rename_i hk
        conv_lhs => unfold sget
        conv_rhs => unfold sget
        split
        · rename_i hb; rw [if_neg (by omega)]
        · split
          · rename_i hb hlt; rw [if_neg (by omega)]
          · exact ih h.2

theorem swf_ssetList {α : Type} [DecidableEq α] (d : α) (m : List (Nat × α)) (a : Nat) (vs : List α)
    (h : swf d m = true) : swf d (ssetList d m a vs) = true := by
  induction vs generalizing m a with
  | nil => exact h
  | cons v vs ih => exact ih _ _ (swf_sset d m a v h)

/-- Bytes outside a run that is written read as before; the bytes of the run read as written. -/
theorem sget_ssetList {α : Type} [DecidableEq α] (d : α) (m : List (Nat × α)) (a b : Nat) (vs : List α)
    (h : swf d m = true) :
    sget d (ssetList d m a vs) b = if a ≤ b ∧ b < a + vs.length then vs.getD (b - a) d else sget d m b := by
  induction vs generalizing m a with
  | nil => rw [if_neg (by simp)]; rfl
  | cons v vs ih =>
    unfold ssetList
    rw [ih _ _ (swf_sset d m a v h), sget_sset d m a b v h]
    simp only [List.length_cons]
    by_cases hb : b = a
    · subst hb; simp
    · by_cases hr : a + 1 ≤ b ∧ b < a + 1 + vs.length
      · rw [if_pos hr, if_pos (by omega)]
        obtain ⟨j, hj⟩ : ∃ j, b - a = j + 1 := ⟨b - a - 1, by omega⟩
        rw [hj, show b - (a + 1) = j by omega]; rfl
      · rw [if_neg hr, if_neg hb, if_neg (by omega)]

/-! ### Every memory operation keeps the canonical form -/

theorem setBytes_wf (s : State) (a : Nat) (bs : List Byte) (h : Memory.wf s.mem = true) :
    Memory.wf (s.setBytes a bs).mem = true := swf_ssetList 0 s.mem a bs h

theorem writeN_wf (s : State) (a n v : Nat) (h : Memory.wf s.mem = true) : Memory.wf (s.writeN a n v).mem = true :=
  setBytes_wf s a _ h

theorem setWord_wf (s : State) (a : Nat) (v : Word) (h : Memory.wf s.mem = true) :
    Memory.wf (s.setWord a v).mem = true := setBytes_wf s a _ h

theorem putWord_wf (s : State) (a : Nat) (v : Word) (h : Memory.wf s.mem = true) :
    Memory.wf (s.putWord a v).mem = true := setWord_wf s a v h

theorem setRecField_wf (s : State) (n off lo w v : Nat) (h : Memory.wf s.mem = true) :
    Memory.wf (s.setRecField n off lo w v).mem = true := by
  unfold State.setRecField
  split
  · exact setWord_wf s _ _ h
  · exact h

theorem filter_above {α : Type} (p : Nat × α → Bool) (m : List (Nat × α)) (a : Nat) (h : sabove a m = true) :
    sabove a (m.filter p) = true := by
  induction m with
  | nil => rfl
  | cons x r ih =>
    simp only [sabove, Bool.and_eq_true, decide_eq_true_eq] at h
    rw [List.filter_cons]
    split <;> simp_all [sabove]

/-- Forgetting some addresses keeps the canonical form (a reset that clears memories). -/
theorem filter_wf {α : Type} [DecidableEq α] (d : α) (p : Nat × α → Bool) (m : List (Nat × α)) (h : swf d m = true) :
    swf d (m.filter p) = true := by
  induction m with
  | nil => rfl
  | cons x r ih =>
    obtain ⟨k, w⟩ := x
    simp only [swf, Bool.and_eq_true, decide_eq_true_eq] at h
    rw [List.filter_cons]
    split
    · simp only [swf, Bool.and_eq_true, decide_eq_true_eq]
      exact ⟨⟨h.1.1, filter_above p r k h.1.2⟩, ih h.2⟩
    · exact ih h.2

theorem reset_wf : Memory.wf State.reset.mem = true := rfl

theorem bytesOf_length (n x : Nat) : (bytesOf n x).length = n := by
  induction n generalizing x with
  | zero => rfl
  | succ n ih => simp [bytesOf, ih]

/-- Every byte outside a write of n bytes reads as before. -/
theorem byte_writeN (s : State) (a n v b : Nat) (h : Memory.wf s.mem = true) (hb : b < a ∨ a + n ≤ b) :
    (s.writeN a n v).byte b = s.byte b := by
  unfold State.writeN State.setBytes State.byte
  dsimp only
  rw [sget_ssetList 0 s.mem a b _ h, bytesOf_length, if_neg (by omega)]

end Sys2Proof.Machine
end

