-- ==== Sys2Proof/Laws/Seq.lean ====
section
/-! SUPPORT. What a sequencer word can do: one lemma for the general registers, and one each for a word that writes a
register, a word that traps and a return from a trap. -/

namespace Sys2Proof.Machine

open Sys2Proof Sys2Proof.Safety

theorem reg_setReg (q : Seq) (d k : BitVec 5) (v : Word) :
    (q.setReg d v).reg k = if k = d ∧ d ≠ 0 then v else q.reg k := by
  unfold Seq.setReg Seq.reg
  by_cases hd : d = 0
  · have hn : ¬(k = d ∧ d ≠ 0) := fun h => h.2 hd
    rw [if_pos hd, if_neg hn]
  · by_cases hk : k = 0
    · have hn : ¬(k = d ∧ d ≠ 0) := fun h => hd (h.1.symm.trans hk)
      rw [if_neg hd, if_pos hk, if_neg hn, if_pos hk]
    · rw [if_neg hd, if_neg hk, if_neg hk]
      dsimp only
      rw [putAt_getD]
      by_cases h : k = d
      · rw [if_pos (by rw [h]), if_pos ⟨h, hd⟩]
      · have hn : ¬(k = d ∧ d ≠ 0) := fun hc => h hc.1
        rw [if_neg (fun hc => h (BitVec.eq_of_toNat_eq hc)), if_neg hn]

@[simp] theorem reg_zero (q : Seq) : q.reg 0 = 0 := rfl

theorem setReg_rest (q : Seq) (d : BitVec 5) (v : Word) :
    ∃ x l ls, q.setReg d v = { q with regs := x, late := l, loads := ls } := by
  unfold Seq.setReg
  split
  · exact ⟨q.regs, q.late, q.loads, rfl⟩
  · exact ⟨_, _, _, rfl⟩

/-- A word that writes gd ends the loads that were to write it (R369). -/
theorem setReg_loads (q : Seq) (d : BitVec 5) (v : Word) : loadsLeft q (q.setReg d v) d := by
  unfold loadsLeft Seq.setReg
  split
  · next h => simp [h]
  · next h =>
    have h0 : d ≠ 0#5 := h
    simp [h0]

/-- What an update of one sequencer leaves. -/
theorem modSeq_spec (s : State) (t : Nat) (q : Seq) (f : Seq → Seq) (hq : s.seq? t = some q)
    (hf : ∀ x, x.tile = t → (f x).tile = t) :
    (s.modSeq t f).seq? t = some (f q) ∧ onlySeq s (s.modSeq t f) t := by
  refine ⟨?_, rfl, fun u hu => ?_⟩
  · rw [modSeq_seq _ _ _ _ hf]; simp [hq]
  · rw [modSeq_seq _ _ _ _ hf, if_neg hu]

/-- A meaning that acts on its sequencer, when the sequencer is there. -/
theorem withSeq_there {s : State} {t : Nat} {q : Seq} (g : Nat → Seq → State) (h : seqThere s t q) :
    withSeq s g = .next (g t q) := by
  unfold withSeq; rw [h.1]; simp [h.2]

/-- A word that writes gd and goes on. -/
theorem writesReg_of {i : Instr} {s : State} {t : Nat} {q : Seq} {d : BitVec 5} {v : Word} {pc : BitVec 57}
    {f : Seq → Seq} (hi : exec i s = .next (s.modSeq t f)) (h : seqThere s t q) (ht : ∀ x, x.tile = t → (f x).tile = t)
    (hp : (f q).pc = pc) (hr : ∀ k, (f q).reg k = if k = d ∧ d ≠ 0 then v else q.reg k) (hs : sameControl q (f q))
    (hl : loadsLeft q (f q) d) : writesReg i s t q d v pc :=
  let ⟨h1, h2⟩ := modSeq_spec s t q f h.2 ht
  ⟨_, _, hi, h1, hp, hr, hs, hl, h2⟩

theorem setReg_tile (q : Seq) (d : BitVec 5) (v : Word) : (q.setReg d v).tile = q.tile := by
  obtain ⟨x, l, ls, h⟩ := setReg_rest q d v; rw [h]

theorem setReg_pc (q : Seq) (d : BitVec 5) (v : Word) : (q.setReg d v).pc = q.pc := by
  obtain ⟨x, l, ls, h⟩ := setReg_rest q d v; rw [h]

/-- A word of one clock (R369). -/
theorem seqDone_writes {i : Instr} {s : State} {t : Nat} {q : Seq} {d : BitVec 5} {v : Word} {lat : Nat}
    (hi : exec i s = .next (s.seqDone t d v lat)) (h : seqThere s t q) : writesReg i s t q d v (q.pc + 4) := by
  refine writesReg_of hi h (fun q h => (setReg_tile q d v).trans h) ?_ (fun k => reg_setReg q d k v) ?_ (setReg_loads q d v)
  · show (q.setReg d v).pc + 4 = _; rw [setReg_pc]
  · obtain ⟨x, l, ls, hr⟩ := setReg_rest q d v
    unfold sameControl Seq.next
    rw [hr]

/-- A word whose result comes later (R369). -/
theorem seqLate_writes {i : Instr} {s : State} {t : Nat} {q : Seq} {d : BitVec 5} {v : Word} {lat : Nat}
    (hi : exec i s = .next (s.seqLate t d v lat)) (h : seqThere s t q) : writesReg i s t q d v (q.pc + 4) := by
  refine writesReg_of hi h (fun q h => (setReg_tile q d v).trans h) ?_ (fun k => reg_setReg q d k v) ?_ (setReg_loads q d v)
  · show (q.setReg d v).pc + 4 = _; rw [setReg_pc]
  · obtain ⟨x, l, ls, hr⟩ := setReg_rest q d v
    unfold sameControl Seq.next
    dsimp only
    rw [hr]

/-- Taking a trap (R368): what it saves, where it goes, and that no general register changes. -/
theorem enter_spec (q : Seq) (p : PTrap) :
    (q.enter p).epc = BitVec.zeroExtend 64 q.pc ∧ (q.enter p).detail = p.detail &&& p.detailBits ∧
      (q.enter p).dmask = p.detailBits ∧
      (q.enter p).pc = BitVec.truncate 57 q.tvec ∧ (q.enter p).taken = p :: q.taken ∧
      (∀ k, (q.enter p).reg k = q.reg k) ∧ (q.enter p).tvec = q.tvec ∧ (q.enter p).tile = q.tile :=
  ⟨rfl, rfl, rfl, rfl, rfl, fun _ => rfl, rfl, rfl⟩

/-- Returning from one (R383). -/
theorem leave_spec (q : Seq) :
    (q.leave).taken = q.taken.drop 1 ∧ (∀ k, (q.leave).reg k = q.reg k) ∧ (q.leave).epc = q.epc ∧
      (q.leave).tile = q.tile := ⟨rfl, fun _ => rfl, rfl, rfl⟩

/-- A trap of the sequencer's own word (R368, R427). -/
theorem trapSeq_spec (s : State) (t : Nat) (q : Seq) (src : TrapSrc) (c : Nat) (d : Word) (hq : s.seq? t = some q) :
    (s.trapSeq t src c d).seq? t = some (q.enter ⟨src, c, d, s.clock, 0⟩) ∧ onlySeq s (s.trapSeq t src c d) t :=
  modSeq_spec s t q _ hq fun _ h => h

end Sys2Proof.Machine
end

