-- ==== Sys2Proof/Tests/Slice0.lean ====
section
/-! SUPPORT. Tests: ill-formed terms that the check refuses, words decoded as the spec writes them, single steps whose
results the spec's text gives, and for each statement's hypotheses a state and operands that meet them. -/

namespace Sys2Proof.Tests

open Sys2Proof Sys2Proof.Machine Sys2Proof.Safety

set_option maxRecDepth 100000
set_option Elab.async false

/-! ### WellFormed: one ill-formed term for each check -/

/-- A slot with nothing in it but OPC 0, whose fields are all zero. -/
def f0 : SlotF :=
  { pcare := 0, pval := 0, irdy := 0, ospc := 0, ten := 0, tch := 0, tval := 0, grp := 0, lane := 0, dst := 0,
    srca := 0, srcb := 0, deq := 0, pidx := 0, pmode := 0, otag := 0 }

theorem test_wf_plain : (Instr.add f0).wf = true ∧ (Instr.nop f0).wf = true ∧ (Instr.addi 1 2 3).wf = true := by decide +kernel

/-- R37: PVAL within PCARE; TCH and TVAL zero without TEN. R44: PIDX zero without PMODE. R45: OTAG 11. -/
theorem test_wf_common : (Instr.add { f0 with pval := 1 }).wf = false ∧ (Instr.add { f0 with tval := 1 }).wf = false ∧
    (Instr.add { f0 with pidx := 1 }).wf = false ∧ (Instr.add { f0 with otag := 3 }).wf = false ∧
    (Instr.add { f0 with otag := 1, srca := 4 }).wf = false := by decide +kernel

/-- R41, R122: a source that must be zero, a LANE that the entry does not list, a DST that it does not admit, a DEQ
that must not be empty. -/
theorem test_wf_uses : (Instr.mov { f0 with srcb := 1 }).wf = false ∧ (Instr.mov { f0 with lane := 1 }).wf = false ∧
    (Instr.nop { f0 with dst := 1 }).wf = false ∧ (Instr.join f0).wf = false := by decide +kernel

/-- R138: n below w. R143: k below 64/w. R130: selector 4 has no .clr. -/
theorem test_wf_extra : (Instr.satn { f0 with lane := 3, srcb := 7 }).wf = false ∧
    (Instr.bcast { f0 with srcb := 1 }).wf = false ∧ (Instr.perf { f0 with lane := 1, srcb := 4 }).wf = false := by decide +kernel

/-- R64: FENCE scopes 5 to 7. -/
theorem test_wf_scope : (Instr.seqFence 5).wf = false ∧ (Instr.seqFence 8).wf = true := by decide +kernel

/-! ### Decoding, from the encodings of R35 to R65 -/

/-- What the decoder gives, or none. -/
def seqOf (w : Nat) : Option Instr := (decodeSeq (BitVec.ofNat 32 w)).toOption
def slotOf (k : Kind) (x : Nat) : Option Instr := (decodeSlot k (BitVec.ofNat 64 x)).toOption

/-- Slot fields of the spec's worked encoding (after R46) but OPC and LANE, and the word that holds them. -/
def fx (lane : BitVec 2) : SlotF :=
  { pcare := 2, pval := 0, irdy := 3, ospc := 1, ten := 1, tch := 0, tval := 1, grp := 1, lane := lane, dst := 0,
    srca := 0, srcb := 1, deq := 3, pidx := 3, pmode := 1, otag := 1 }
def wx (opc lane : Nat) : Nat := opc * 2 ^ 57 + lane * 2 ^ 55 + 0x000009B502003185

/-- The opcodes of a list decode in a kind to their instructions, with LANE 00. -/
def decodes (k : Kind) (l : List (Nat × (SlotF → Instr))) : Bool :=
  l.all fun x => slotOf k (wx x.1 0) == some (x.2 (fx 0))
/-- The same, with the LANE of a form. -/
def decodesForm (k : Kind) (l : List (Nat × Nat × (SlotF → Instr))) : Bool :=
  l.all fun x => slotOf k (wx x.1 x.2.1) == some (x.2.2 (fx (BitVec.ofNat 2 x.2.1)))

/-- R50, the opcodes of every kind. -/
theorem test_decode_common : decodes .mxe [
    (0x00, .nop), (0x01, .mov), (0x02, .emit), (0x03, .plog), (0x04, .tagrd), (0x05, .join), (0x06, .joinc),
    (0x07, .trap), (0x08, .perf), (0x09, .sel)] = true := by decide +kernel

/-- R50, CE: integer and lane operations. -/
theorem test_decode_ce_integer : decodes .ce [
    (0x10, .add), (0x18, .min), (0x20, .cmpltu), (0x28, .sar), (0x11, .sub), (0x19, .minu), (0x21, .cmple),
    (0x29, .rotl), (0x12, .adds), (0x1A, .max), (0x22, .and), (0x2A, .rshr), (0x13, .subs), (0x1B, .maxu),
    (0x23, .or), (0x2B, .satn), (0x14, .mul), (0x1C, .abs), (0x24, .xor), (0x2C, .clz), (0x15, .mulh), (0x1D, .neg),
    (0x25, .andn), (0x2D, .popc), (0x16, .mulhu), (0x1E, .cmpeq), (0x26, .shl), (0x2E, .ppopc), (0x17, .mac),
    (0x1F, .cmplt), (0x27, .shr), (0x2F, .dot4)] = true := by decide +kernel

/-- R50, CE: rearrangement, floating point and conversion. -/
theorem test_decode_ce_float : decodes .ce [
    (0x30, .pack), (0x36, .ins), (0x3C, .fmin), (0x42, .frcp), (0x31, .unpkl), (0x37, .extr), (0x3D, .fmax),
    (0x43, .frsq), (0x32, .unpkh), (0x38, .fadd), (0x3E, .fcmplt), (0x44, .fexp2), (0x33, .shuf), (0x39, .fsub),
    (0x3F, .fcmpeq), (0x45, .flog2), (0x34, .bcast), (0x3A, .fmul), (0x40, .fabs), (0x46, .cvt), (0x35, .lanesum),
    (0x3B, .fma), (0x41, .fneg), (0x47, .cvts), (0x48, .bxenc), (0x49, .bxdec)] = true := by decide +kernel

/-- R50, CE: streams and sparsity. -/
theorem test_decode_ce_stream : decodes .ce [
    (0x50, .fopen), (0x54, .fpos), (0x58, .bmand), (0x51, .fadv), (0x55, .cpair), (0x59, .cmerge), (0x52, .fend),
    (0x56, .csplitC), (0x5A, .topk), (0x53, .fclose), (0x57, .bmexp), (0x5B, .topkrd)] = true := by decide +kernel

/-- R50, SPE. -/
theorem test_decode_spe : decodes .spe [
    (0x10, .srd), (0x16, .cbrd), (0x1C, .prd), (0x11, .swr), (0x17, .cbwr), (0x1D, .pclr), (0x12, .sadd),
    (0x18, .cbadvr), (0x1E, .mpgo), (0x13, .smax), (0x19, .cbadvw), (0x1F, .mpst), (0x14, .smin), (0x1A, .cbset),
    (0x20, .xrd), (0x15, .sxch), (0x1B, .pwr), (0x21, .xwr)] = true := by decide +kernel

/-- R50, MXE. -/
theorem test_decode_mxe : decodes .mxe [
    (0x10, .tcfg), (0x13, .tmma), (0x16, .tstat), (0x11, .tfill), (0x14, .tdrain), (0x17, .tscale), (0x12, .tzero),
    (0x15, .trel), (0x18, .tacc)] = true := by decide +kernel

/-- R50, MPE. -/
theorem test_decode_mpe : decodes .mpe [
    (0x10, .ld), (0x18, .astrm), (0x24, .aor), (0x30, .ald), (0x11, .ldf), (0x19, .astwr), (0x25, .axch),
    (0x31, .ast), (0x12, .st), (0x1A, .agcfg), (0x26, .acas), (0x32, .aaddc), (0x13, .sto), (0x1B, .fence),
    (0x27, .afadd), (0x33, .aiter), (0x14, .pld), (0x20, .aadd), (0x28, .tken), (0x34, .acnt), (0x15, .wld),
    (0x21, .amin), (0x29, .tkdec), (0x38, .cpy), (0x16, .gld), (0x22, .amax), (0x2A, .qput), (0x39, .cve),
    (0x17, .sst), (0x23, .aand), (0x2B, .tkst), (0x3A, .densQ), (0x40, .rld), (0x41, .rst), (0x42, .dred),
    (0x43, .drrecvR), (0x44, .drclose)] = true := by decide +kernel

/-- The forms that LANE selects (R166, R208, R215, R276, R353, R360, R396, R408, R421), and the flush of BXENC, which
SRCB selects (R152). -/
theorem test_decode_forms :
    decodesForm .ce [(0x56, 1, .csplitV)] = true ∧
    decodesForm .spe [(0x16, 2, .cbrdPop), (0x1F, 1, .mpstSusp), (0x1F, 2, .mpstRes), (0x20, 1, .xrdP),
      (0x21, 1, .xwrP)] = true ∧
    decodesForm .mpe [(0x12, 1, .stClr), (0x13, 1, .stoClr), (0x29, 1, .tkdecRet), (0x2B, 1, .tkstClr),
      (0x2B, 2, .tkstAbn), (0x34, 1, .acntH), (0x3A, 1, .densS), (0x41, 1, .rstAck), (0x43, 1, .drrecvW),
      (0x44, 1, .drcloseW)] = true ∧
    slotOf .ce (0x48 * 2 ^ 57 + 4 * 2 ^ 43) = some (.bxencFlush { f0 with srcb := 4 }) := by decide +kernel

/-- R51: opcodes that a kind does not have. -/
theorem test_decode_bad_opcode : ([0x0A, 0x0F, 0x4A, 0x7F].all fun o => slotOf .ce (wx o 0) == none) = true ∧
    ([0x22, 0x7F].all fun o => slotOf .spe (wx o 0) == none) = true ∧ slotOf .mxe (wx 0x19 0) = none ∧
    ([0x1C, 0x2C, 0x35, 0x3B, 0x45].all fun o => slotOf .mpe (wx o 0) == none) = true := by decide +kernel

/-- R62, R63: form R, its MAJ and FN in the table's order, with GD = 3, GA = 5, GB = 6. -/
theorem test_decode_form_r :
    ([(0, Instr.seqAdd), (1, .seqSub), (2, .seqAnd), (3, .seqOr), (4, .seqXor), (5, .sll), (6, .srl), (7, .sra),
      (8, .slt), (9, .sltu), (10, .seqMul), (11, .seqMulh), (12, .divu), (13, .remu)].all fun x =>
        seqOf (0x01 * 2 ^ 26 + 3 * 2 ^ 21 + 5 * 2 ^ 16 + 6 * 2 ^ 11 + x.1) == some (x.2 3 5 6)) = true := by decide +kernel

/-- R62, R63: forms I, B and S. -/
theorem test_decode_form_i :
    ([(0x02, Instr.addi), (0x03, .andi), (0x04, .ori), (0x05, .xori), (0x07, .slti), (0x09, .ldb), (0x0A, .ldh),
      (0x0B, .ldw), (0x0C, .ldd), (0x0D, .stb), (0x0E, .sth), (0x0F, .stw), (0x10, .std), (0x11, .beq), (0x12, .bne),
      (0x13, .blt), (0x14, .bge), (0x15, .bltu), (0x16, .bgeu), (0x18, .jalr)].all fun x =>
        seqOf (x.1 * 2 ^ 26 + 3 * 2 ^ 21 + 5 * 2 ^ 16 + 0x8001) == some (x.2 3 5 0x8001)) = true := by decide +kernel

/-- R62, R63: the shifts by a constant, LUI, form J and form C. -/
theorem test_decode_other_forms :
    seqOf (0x06 * 2 ^ 26 + 3 * 2 ^ 21 + 5 * 2 ^ 16 + 63) = some (.slli 3 5 63) ∧
    seqOf (0x06 * 2 ^ 26 + 3 * 2 ^ 21 + 5 * 2 ^ 16 + 64 + 63) = some (.srli 3 5 63) ∧
    seqOf (0x06 * 2 ^ 26 + 3 * 2 ^ 21 + 5 * 2 ^ 16 + 128 + 63) = some (.srai 3 5 63) ∧
    seqOf (0x08 * 2 ^ 26 + 3 * 2 ^ 21 + 0x8001) = some (.lui 3 0x8001) ∧
    seqOf (0x17 * 2 ^ 26 + 3 * 2 ^ 21 + 0x100001) = some (.jal 3 0x100001) ∧
    seqOf (0x20 * 2 ^ 26 + 3 * 2 ^ 21 + 5 * 2 ^ 16 + 0x0004) = some (.scrr 3 5 4) ∧
    seqOf (0x20 * 2 ^ 26 + 3 * 2 ^ 21 + 5 * 2 ^ 16 + 0x4004) = some (.scrw 3 5 4) ∧
    seqOf (0x20 * 2 ^ 26 + 3 * 2 ^ 21 + 5 * 2 ^ 16 + 0x8004) = some (.scrs 3 5 4) ∧
    seqOf (0x20 * 2 ^ 26 + 3 * 2 ^ 21 + 5 * 2 ^ 16 + 0xC004) = some (.scrc 3 5 4) := by decide +kernel

/-- R63: the words of MAJ 0x21 to 0x2B. -/
theorem test_decode_system :
    seqOf (0x21 * 2 ^ 26 + 5 * 2 ^ 16 + 6 * 2 ^ 11) = some (.instWord 5 6) ∧
    seqOf (0x22 * 2 ^ 26 + 3 * 2 ^ 21 + 5 * 2 ^ 16) = some (.abnd 3 5) ∧
    seqOf (0x23 * 2 ^ 26 + 3 * 2 ^ 21 + 5 * 2 ^ 16 + 0x131) = some (.erd 3 5 0x131) ∧
    seqOf (0x24 * 2 ^ 26 + 5 * 2 ^ 16 + 6 * 2 ^ 11 + 0x131) = some (.ewr 5 6 0x131) ∧
    seqOf (0x25 * 2 ^ 26 + 3 * 2 ^ 21 + 5 * 2 ^ 16) = some (.occr 3 5) ∧
    seqOf (0x26 * 2 ^ 26 + 5 * 2 ^ 16 + 6 * 2 ^ 11) = some (.tinv 5 6) ∧
    seqOf (0x27 * 2 ^ 26 + 3 * 2 ^ 21 + 5 * 2 ^ 16 + 6 * 2 ^ 11) = some (.savec 3 5 6) ∧
    seqOf (0x28 * 2 ^ 26) = some .tret ∧ seqOf (0x29 * 2 ^ 26 + 3 * 2 ^ 21 + 5 * 2 ^ 16) = some (.wev 3 5) ∧
    seqOf (0x2A * 2 ^ 26 + 3 * 2 ^ 21 + 5 * 2 ^ 16 + 8) = some (.sysr 3 5 8) ∧
    seqOf (0x2B * 2 ^ 26 + 2) = some (.seqFence 2) := by decide +kernel

/-- R63, R64: undefined words. -/
theorem test_decode_undefined :
    ([0, 0x19 * 2 ^ 26, 0x2C * 2 ^ 26, 0x01 * 2 ^ 26 + 14, 0x06 * 2 ^ 26 + 0xC0, 0x06 * 2 ^ 26 + 0x100,
      0x08 * 2 ^ 26 + 2 ^ 16, 0x21 * 2 ^ 26 + 2 ^ 21, 0x22 * 2 ^ 26 + 1, 0x23 * 2 ^ 26 + 2 ^ 11, 0x24 * 2 ^ 26 + 2 ^ 21,
      0x25 * 2 ^ 26 + 2 ^ 11, 0x26 * 2 ^ 26 + 1, 0x27 * 2 ^ 26 + 1, 0x28 * 2 ^ 26 + 2 ^ 25, 0x29 * 2 ^ 26 + 1,
      0x2A * 2 ^ 26 + 2 ^ 11, 0x2B * 2 ^ 26 + 5, 0x2B * 2 ^ 26 + 2 ^ 4].all fun w => seqOf w == none) = true := by
  decide +kernel

/-! ### Sequencer words -/

/-- The state that an instruction leaves (the state itself where it stops). -/
def run (i : Instr) (s : State) : State :=
  match exec i s with
  | .next s' => s'
  | _ => s
/-- Registers of tile 0's sequencer after an instruction. -/
def after (i : Instr) (s : State) : Seq := ((run i s).seq? 0).getD (Seq.atReset 0)

/-- A sequencer of tile 0: g1 = 3, g2 = −1, g3 = 0x108, g4 = 0x109, g5 = 2^63, g6 = the events' mask. -/
def tq : Seq :=
  { Seq.atReset 0 with
    held := false, pc := 0x100, tvec := 0x200
    regs := [0, 3, 0xFFFFFFFFFFFFFFFF, 0x108, 0x109, 0x8000000000000000, 1] ++ List.replicate 25 0 }
/-- The same in user mode. -/
def tu : Seq := { tq with status := 0 }
/-- One die, whose tile 0 has a sequencer and moves. -/
def tsq (q : Seq) : State := { State.reset with seqs := [q], dies := [Die.atReset 0], actor := .seq 0 }
/-- Tables and a page with R, W and X that map virtual addresses 0 to 0xFFFF to local addresses from 0x60000, as R250 and
R251 lay them out, and 0x10000 to 0x1FFFF to the entry-queue area of die 0; a doubleword 0x1122334455667788 stands at
virtual address 0x108. -/
def tmap (s : State) : State :=
  let leaf (ppn : Nat) : Word := BitVec.ofNat 64 (15 * 2 ^ 60 + s.ownPkg * 2 ^ 28 + ppn)
  ((((s.putWord 0 (BitVec.ofNat 64 (2 ^ 63 + 3 * 2 ^ 46 + 4))).putWord 0x40000
    (BitVec.ofNat 64 (2 ^ 63 + 3 * 2 ^ 46 + 5))).putWord 0x50000 (leaf 6)).putWord 0x50008 (leaf 0x3000000)).putWord
    0x60108 0x1122334455667788

theorem wit_SeqArithmetic : seqThere (tsq tq) 0 tq := ⟨rfl, rfl⟩

/-- R369: wrap, a signed and an unsigned compare, the high product, and division by zero. -/
theorem test_alu : (after (.seqAdd 7 2 1) (tsq tq)).reg 7 = 2 ∧ (after (.seqSub 7 0 1) (tsq tq)).reg 7 = -3 ∧
    (after (.slt 7 2 1) (tsq tq)).reg 7 = 1 ∧ (after (.sltu 7 2 1) (tsq tq)).reg 7 = 0 ∧
    (after (.seqMulh 7 2 1) (tsq tq)).reg 7 = 0xFFFFFFFFFFFFFFFF ∧
    (after (.divu 7 1 0) (tsq tq)).reg 7 = 0xFFFFFFFFFFFFFFFF ∧ (after (.remu 7 1 0) (tsq tq)).reg 7 = 3 ∧
    (after (.sra 7 5 1) (tsq tq)).reg 7 = 0xF000000000000000 ∧ (after (.seqAdd 0 1 1) (tsq tq)).reg 0 = 0 ∧
    (after (.seqAnd 7 2 1) (tsq tq)).reg 7 = 3 ∧ (after (.seqXor 7 2 1) (tsq tq)).reg 7 = -4 ∧
    (after (.srl 7 5 1) (tsq tq)).reg 7 = 0x1000000000000000 ∧ (after (.seqMul 7 2 1) (tsq tq)).reg 7 = -3 := by
  decide +kernel

/-- R369: immediates are sign-extended for ADDI and SLTI and zero-extended for the bitwise ones; LUI shifts by 16. -/
theorem test_immediates : (after (.addi 7 1 0xFFFC) (tsq tq)).reg 7 = -1 ∧
    (after (.andi 7 2 0xFFFC) (tsq tq)).reg 7 = 0xFFFC ∧ (after (.slti 7 1 0xFFFC) (tsq tq)).reg 7 = 0 ∧
    (after (.lui 7 0x8001) (tsq tq)).reg 7 = 0xFFFFFFFF80010000 ∧ (after (.srai 7 5 63) (tsq tq)).reg 7 = -1 ∧
    (after (.slli 7 1 63) (tsq tq)).reg 7 = 0x8000000000000000 ∧ (after (.addi 7 1 1) (tsq tq)).pc = 0x104 := by decide +kernel

/-- R369: offsets count words from the branch itself; JAL links the next word; a target that is no multiple of 4. -/
theorem test_branches : (after (.beq 1 0 3) (tsq tq)).pc = 0x104 ∧ (after (.bne 1 0 3) (tsq tq)).pc = 0x10C ∧
    (after (.blt 2 1 0xFFFF) (tsq tq)).pc = 0xFC ∧ (after (.bltu 2 1 3) (tsq tq)).pc = 0x104 ∧
    (after (.jal 7 0x1FFFFE) (tsq tq)).pc = 0xF8 ∧ (after (.jal 7 0x1FFFFE) (tsq tq)).reg 7 = 0x104 ∧
    (after (.jalr 7 3 4) (tsq tq)).pc = 0x10C ∧ (after (.jalr 7 4 0) (tsq tq)).pc = 0x200 := by decide +kernel

theorem wit_SeqBranchesAndJumps_traps : seqThere (tsq tq) 0 tq ∧
    (tq.reg 4 + BitVec.ofInt 64 (BitVec.toInt (0 : BitVec 16))).toNat % 4 ≠ 0 := ⟨⟨rfl, rfl⟩, by decide +kernel⟩

/-- Hypotheses of SeqLoadsAndStores: a load and a store that succeed at the last doubleword of the page, an address that
no table maps and a misaligned one. -/
theorem wit_SeqLoadsAndStores : seqThere (tmap (tsq tq)) 0 tq ∧ Memory.wf (tmap (tsq tq)).mem = true ∧
    ((tmap (tsq tq)).seqXlat tq .load 0xFFF8 8).cause = 0 ∧ ((tmap (tsq tq)).seqXlat tq .load 0xFFF8 8).pa = 0x6FFF8 ∧
    (tmap (tsq tq)).mayFail 0x6FFF8 = false ∧ (tmap (tsq tq)).isBad 0x6FFF8 = false ∧
    (tmap (tsq tq)).storeCause 0x6FFF8 = 0 ∧ ((tmap (tsq tq)).seqXlat tq .load 0x20000 8).cause ≠ 0 ∧
    ((tmap (tsq tq)).seqXlat tq .load 0x20000 8).cause ≠ Cause.uncorrectable ∧ (tq.reg 4).toNat % 2 ≠ 0 ∧
    (tq.reg 3 + 2).toNat % 4 ≠ 0 ∧ (tq.reg 3 + 4).toNat % 8 ≠ 0 := ⟨⟨rfl, rfl⟩, by decide +kernel⟩

/-- A word with an uncorrectable error, loaded or written in part, and a descriptor with one. -/
theorem wit_SeqLoads_uncorrectable :
    ({ tmap (tsq tq) with bad := [0x6FFF8] }.seqXlat tq .load 0xFFF8 8).cause = 0 ∧
    { tmap (tsq tq) with bad := [0x6FFF8] }.isBad (wordOf 0x6FFF8) = true ∧
    { tmap (tsq tq) with bad := [0x6FFF8] }.mayFail 0x6FFF8 = false ∧
    { tmap (tsq tq) with bad := [0x6FFF8] }.storeCause 0x6FFF8 = 0 ∧
    ({ tmap (tsq tq) with bad := ((tmap (tsq tq)).walk tq.tc 0 0xFFF8).reads }.seqXlat tq .load 0xFFF8 8).cause =
      Cause.uncorrectable := by decide +kernel

/-- An access of tile 0's sequencer. -/
def sacc (id : Nat) (op : MemOp) (pa : Nat) : Access :=
  ⟨id, seqRef 0, 0, 0, 0, op, pa, 0x108, 0, 0, 0, 0, 1, 0, 0, 0, false, false, false⟩
/-- The entry queues of die 0, refused at once; a completion area, with and without an access of the sequencer before it. -/
theorem wit_SeqStores_refused : ((tmap (tsq tq)).seqXlat tq .store 0x10000 8).cause = 0 ∧
    ((tmap (tsq tq)).seqXlat tq .store 0x10000 8).pa = 0x30000000000 ∧ (tmap (tsq tq)).mayFail 0x30000000000 = true ∧
    (tmap (tsq tq)).seqHeld 0 0x30000000000 = false ∧ (tmap (tsq tq)).storeCause 0x30000000000 ≠ 0 ∧
    { tmap (tsq tq) with accs := [sacc 9 (.seqRead 7 8) 0x30000000000] }.seqHeld 0 0x30000000000 = true ∧
    (tmap (tsq tq)).mayFail 0x30000300080 = true ∧ (tmap (tsq tq)).seqHeld 0 0x30000300080 = false ∧
    (tmap (tsq tq)).storeCause 0x30000300080 = 0 := by decide +kernel

/-- A load and a store that are performed, of a sequencer that loads register 7, and one that a later word has written. -/
def tacc (loads : List (Nat × Nat)) (w : Access) : State :=
  { tmap (tsq { tq with loads := loads }) with accs := [w], actor := .id 9 }
theorem wit_SeqAccesses_performed : (tacc [(7, 9)] (sacc 9 (.seqRead 7 2) 0x6010A)).acc? 9 = some (sacc 9 (.seqRead 7 2) 0x6010A) ∧
    Memory.wf (tacc [(7, 9)] (sacc 9 (.seqRead 7 2) 0x6010A)).mem = true ∧
    (tacc [(7, 9)] (sacc 9 (.seqRead 7 2) 0x6010A)).seqBehind (sacc 9 (.seqRead 7 2) 0x6010A) = false ∧
    (tacc [(7, 9)] (sacc 9 (.seqRead 7 2) 0x6010A)).readHeld (sacc 9 (.seqRead 7 2) 0x6010A).obs 0x6010A = false ∧
    (tacc [(7, 9)] (sacc 9 (.seqRead 7 2) 0x6010A)).seenWrites (sacc 9 (.seqRead 7 2) 0x6010A).obs 0x6010A = [] ∧
    (tacc [] (sacc 9 (.seqWrite 2 0xFFFF) 0x6010A)).seqBehind (sacc 9 (.seqWrite 2 0xFFFF) 0x6010A) = false := by decide +kernel

/-- R292: a load does not obtain a later store of its sequencer to its bytes; a later load obtains an earlier one. -/
theorem test_load_before_store :
    let st := sacc 10 (.seqWrite 2 0xFFFF) 0x6010A
    let two (w : Access) := { tacc [(7, 9)] w with accs := [sacc 9 (.seqRead 7 2) 0x6010A, st] }
    (two st).seenWrites st.obs 0x6010A = [] ∧ (two st).seqBehind st = true ∧
    ((tacc [] st).seenWrites st.obs 0x6010A).length = 1 ∧ (tacc [] st).seqBehind (sacc 11 (.seqRead 7 2) 0x6010A) = false := by
  decide +kernel

/-- R369: a load and a store leave for their address and are performed there: loads zero-extend, a store changes its own
bytes only; R265: ALIGN. -/
theorem test_memory : (run (.ldh 7 3 2) (tmap (tsq tq))).accs.map (fun w => (w.op, w.pa)) = [(.seqRead 7 2, 0x6010A)] ∧
    (run (.sth 2 3 2) (tmap (tsq tq))).accs.map (fun w => (w.op, w.pa)) = [(.seqWrite 2 0xFFFFFFFFFFFFFFFF, 0x6010A)] ∧
    (after .memoryEdgeAccess (tacc [(7, 9)] (sacc 9 (.seqRead 7 2) 0x6010A))).reg 7 = 0x5566 ∧
    (after .memoryEdgeAccess (tacc [(7, 9)] (sacc 9 (.seqRead 7 1) 0x6010F))).reg 7 = 0x11 ∧
    (after .memoryEdgeAccess (tacc [] (sacc 9 (.seqRead 7 8) 0x60108))).reg 7 = 0 ∧
    (run .memoryEdgeAccess (tacc [] (sacc 9 (.seqWrite 2 0xFFFF) 0x6010A))).word 0x60108 = 0x11223344FFFF7788 ∧
    (after (.ldw 7 4 0) (tmap (tsq tq))).cause = BitVec.ofNat 64 (Cause.align * 2 ^ 48) := by decide +kernel

/-- Hypotheses of ControlRegisters: a register that is read, one that no one lists, one without user access. -/
theorem wit_ControlRegisters : seqThere (tsq tq) 0 tq ∧ (tsq tq).scrRead 0 tq 0x000 = some 1 ∧ tq.priv = true ∧
    seqThere (tsq tu) 0 tu ∧ tu.priv = false ∧ (0x053 : Nat) ∉ [0x001, 0x002, 0x003, 0x004, 0x005, 0x040, 0x043] ∧
    (tsq tu).scrRead 0 tu 0x053 = some 0 := ⟨⟨rfl, rfl⟩, by decide +kernel, by decide +kernel, ⟨rfl, rfl⟩, by decide +kernel⟩
theorem wit_ControlRegisters_traps : (0x006 : Nat) ∉ [0x000, 0x001, 0x002, 0x003, 0x004, 0x005, 0x010, 0x011, 0x012, 0x020,
    0x021, 0x022, 0x030, 0x031, 0x040, 0x043, 0x050, 0x051, 0x052, 0x053] ∧
    (0x043 : Nat) ∈ [0x001, 0x002, 0x003, 0x004, 0x005, 0x040, 0x043] := by decide +kernel

/-- R370: SCRS and SCRC give the old value; SCRW of sq.STATUS leaves PRIV, which is RO; a W1C field clears. -/
theorem test_scr : (after (.scrs 7 1 4) (tsq tq)).tvec = 0x200 ∧ (after (.scrs 7 1 4) (tsq tq)).reg 7 = 0x200 ∧
    (after (.scrw 7 2 0) (tsq tq)).status = 0xF ∧ (after (.scrc 7 2 4) (tsq tq)).tvec = 0 ∧
    (after (.scrs 7 1 0x12) (tsq { tq with evpend := 7 })).evpend = 4 ∧
    (after (.scrr 7 0 1) (tsq tu)).cause = BitVec.ofNat 64 (Cause.privilege * 2 ^ 48) ∧
    (after (.scrw 7 2 0x20) (tsq tu)).rndrank = 0 ∧
    (after (.scrw 7 2 3) (tsq { tq with dmask := 0xFFF0FFFFFFFFFFFF, detail := 1 })).detail = 0xFFF0FFFFFFFFFFFF := by decide +kernel

/-- Hypotheses of SeqEventsAndRequests: an empty mask, an event that is pending, one that is not. -/
theorem wit_SeqEventsAndRequests : seqThere (tsq tq) 0 tq ∧ BitVec.truncate 4 (tq.reg 0) = (0 : BitVec 4) ∧
    ({ tq with evpend := 1 } : Seq).evpend &&& BitVec.truncate 4 (tq.reg 6) ≠ 0 ∧
    tq.evpend &&& BitVec.truncate 4 (tq.reg 6) = 0 ∧ BitVec.truncate 4 (tq.reg 6) ≠ (0 : BitVec 4) :=
  ⟨⟨rfl, rfl⟩, by decide +kernel⟩

/-- R372: WEV gives and clears what it waited for, and waits; R381: SYSR reads and traps. -/
theorem test_wev_sysr : (after (.wev 7 6) (tsq { tq with evpend := 3 })).reg 7 = 1 ∧
    (after (.wev 7 6) (tsq { tq with evpend := 3 })).evpend = 2 ∧ (after (.wev 7 6) (tsq tq)).pc = 0x100 ∧
    (after (.sysr 7 1 2) (tsq tq)).reg 7 = 0x1FFF ∧ (after (.sysr 7 1 8) (tsq tu)).pc = 0x200 ∧
    (after (.sysr 7 1 8) (tsq tu)).detail = 8 ∧ (after (.sysr 7 1 8) (tsq tu)).epc = 0x100 ∧
    (after (.seqFence 2) (tsq tq)).pc = 0x104 := by decide +kernel

/-- A FENCE of scope 0 before which a store is performed, and one that a load of the sequencer holds (R303). -/
theorem wit_Fence : (tacc [] (sacc 9 (.seqWrite 2 0xFFFF) 0x6010A)).accs.all (fun w =>
      (tacc [] (sacc 9 (.seqWrite 2 0xFFFF) 0x6010A)).writtenAt w 0) = true ∧
    (sacc 9 (.seqRead 7 2) 0x6010A).op.ofSeq = true ∧
    (tacc [] (sacc 9 (.seqRead 7 2) 0x6010A)).writtenAt (sacc 9 (.seqRead 7 2) 0x6010A) 0 = false := by decide +kernel
theorem test_fence : (after (.seqFence 0) { tacc [] (sacc 9 (.seqRead 7 2) 0x6010A) with actor := .seq 0 }).pc = 0x100 := by
  decide +kernel

theorem wit_PrivilegedWords : seqThere (tsq tu) 0 tu ∧ tu.priv = false := ⟨⟨rfl, rfl⟩, by decide +kernel⟩
theorem test_privileged : (after .tret (tsq tu)).cause = BitVec.ofNat 64 (0x0802 * 2 ^ 48) ∧
    (after (.instWord 0 0) (tsq tu)).cause = BitVec.ofNat 64 (0x0802 * 2 ^ 48) := by decide +kernel

/-- Hypotheses of TrapEntryAndReturn: a pending trap, with INTRAP 0; a trap taken from a word, a SYSCALL and an element;
nothing taken. -/
def tp (src : TrapSrc) : PTrap := ⟨src, Cause.userTrap, 5, 0, 0⟩
theorem wit_TrapEntryAndReturn : seqThere (tsq { tq with pend := [tp .word] }) 0 { tq with pend := [tp .word] } ∧
    tq.inTrap = false ∧ tq.priv = true ∧ tq.taken = [] ∧
    seqThere (tsq { tq with taken := [tp (.sys 7)] }) 0 { tq with taken := [tp (.sys 7)] } :=
  ⟨⟨rfl, rfl⟩, by decide +kernel, by decide +kernel, rfl, ⟨rfl, rfl⟩⟩

/-- R368: a trap saves PC and the mode and goes to TVEC. R383: TRET restores them; a SYSCALL completes. -/
theorem test_traps :
    (after .trapEntry (tsq { tu with pend := [tp .word] })).status = 5 ∧
    (after .trapEntry (tsq { tu with pend := [tp .word] })).epc = 0x100 ∧
    (after .trapEntry (tsq { tu with pend := [tp .word] })).pc = 0x200 ∧
    (after .tret (tsq { tq with status := 0xD, epc := 0x300 })).status = 4 ∧
    (after .tret (tsq { tq with status := 0xD, epc := 0x300 })).pc = 0x300 ∧
    (after .tret (tsq { tq with epc := 0x300, sysret := 9, taken := [tp (.sys 7)] })).pc = 0x304 ∧
    (after .tret (tsq { tq with epc := 0x300, sysret := 9, taken := [tp (.sys 7)] })).reg 7 = 9 ∧
    (after .illegal (tsq tq)).cause = BitVec.ofNat 64 (0x0801 * 2 ^ 48) := by decide +kernel

/-! ### Sequencer words that reach elements, installs and translations -/

/-- A fabric load of one tile. -/
def tl : Load :=
  { ref := ⟨0, 0⟩, cfgid := 7, tiles := [⟨0, 0, 1⟩], entries := [], slots := List.replicate 8 none, since := 0,
    lastDisp := 0, phase := .resident, reason := 0, disp := none, returned := [], retireFor := [], restoreOf := none,
    heldReq := none, probes := [], phaseAt := 0 }

/-- A data register and an input token with their residues. -/
def dr (v : Word) (tag : BitVec 4) : DReg := ⟨v, tag, true, residue v⟩
def tok (ct : BitVec 3) (tag : BitVec 4) (v : Word) : Tok := ⟨ct, tag, residue v, 0, v⟩

/-- An element that runs, with D0 to D3 and C0 to C3 as given. Site 17 is a CE, 1 an SPE, 34 an MXE, 0 an MPE. -/
def mk (site : Nat) (d : List DReg) (c : List Word) : Elem :=
  { Elem.blank ⟨0, 0, 0, site⟩ 0 site with
    stopped := false, d := d ++ List.replicate (8 - d.length) DReg.zero, c := c.map fun w => ⟨w, residue w⟩ }
/-- The machine with that element, whose slot 2 fires. -/
def te (e : Elem) : State := { tmap (tsq tq) with elems := [e], loads := [tl], actor := .slot e.ref 2 0 0 }
/-- The element after a firing. -/
def fire (i : SlotF → Instr) (f : SlotF) (e : Elem) : Elem := ((run (i f) (te e)).elem? e.ref).getD e
/-- D0 after a firing with DST D0, SRCA D1 and SRCB D2. -/
def fd : SlotF := { f0 with dst := 4, srca := 5, srcb := 6 }
def d0 (i : SlotF → Instr) (lane : BitVec 2) (e : Elem) : DReg := (fire i { fd with lane := lane } e).dreg 0

/-- A sequencer of the same machine that names site 17 in g1 and a doubleword in g3. -/
def qs : Seq := { tq with regs := [0, 17, 1, 0x108] ++ List.replicate 28 0 }
def tsite (e : Elem) (q : Seq) : State := { te e with seqs := [q], actor := .seq 0 }
def halt (e : Elem) : Elem := { e with trap := some ⟨Cause.userTrap, 0, none⟩ }
def ce0 : Elem := mk 17 [dr 5 0, dr 7 0] []

/-- Hypotheses of ElementReadsAndWrites: a site of a resident fabric load, an item that is there and one that is not, a
halted and a live element, and a site out of range. -/
theorem wit_ElementReadsAndWrites : seqThere (tsite (halt ce0) qs) 0 qs ∧ qs.priv = true ∧
    ((tsite (halt ce0) qs).siteOf 0 (qs.reg 1)).isSome = true ∧
    ((tsite (halt ce0) qs).siteOf 0 (qs.reg 1)).all (fun x =>
      ((tsite (halt ce0) qs).siteItem x 0x18).isSome && ((tsite (halt ce0) qs).siteItem x 0x7FF).isNone &&
      ((tsite (halt ce0) qs).setSiteItem x 0x18 9).isSome && ((tsite (halt ce0) qs).setSiteItem x 0x7FF 9).isNone &&
      ((tsite (halt ce0) qs).siteElem x).halted && !((tsite ce0 qs).siteElem x).halted && x.idx == 0 &&
      ((tsite (halt ce0) qs).elem? x.ref).isSome) = true ∧
    (tsite ce0 qs).siteOf 0 192 = none ∧ (tsq qs).residentOn 0 = none := ⟨⟨rfl, rfl⟩, by decide +kernel⟩

/-- R378: a data register is read, written on a halted element, and not on a live one. -/
theorem test_erd_ewr : (after (.erd 7 1 0x18) (tsite ce0 qs)).reg 7 = 5 ∧
    ((run (.ewr 1 3 0x18) (tsite (halt ce0) qs)).elem? ce0.ref).map (fun e => (e.dreg 0).val) = some 0x108 ∧
    (after (.ewr 1 3 0x18) (tsite ce0 qs)).cause = BitVec.ofNat 64 (Cause.elemlive * 2 ^ 48) ∧
    (after (.occr 7 1) (tsite ce0 { qs with regs := [0, 192] ++ List.replicate 30 0 })).cause =
      BitVec.ofNat 64 (Cause.elemsel * 2 ^ 48) := by decide +kernel

/-- Hypotheses of InstallAndAbandonWords: an image address and a mask that are in order, one of each that is not; a
fabric load that is idle and one that is busy; none, with and without an install in progress. -/
def busyLoad : Load := { tl with entries := [⟨0, 17, 0, 0, 1, [], [], 0⟩] }
def inst0 : Install :=
  { tile := 0, va := 0, allowed := 1, step := 1, due := 120, hdr := [], pl := none, origin := 0, fences := [], elems := [],
    boxes := [], groups := [], hash := 0, abandon := none }
def withInst (s : State) : State := { s with dies := s.dies.map fun d => { d with inst := some inst0 } }
theorem wit_InstallAndAbandonWords : seqThere (tsq tq) 0 tq ∧ tq.priv = true ∧ (tsq tq).die? 0 = some (Die.atReset 0) ∧
    (tq.reg 3).toNat % 8 = 0 ∧ (tq.reg 1).toNat / 2 ^ 48 = 0 ∧ (tq.reg 1).toNat % 8 ≠ 0 ∧ (tq.reg 2).toNat / 2 ^ 48 ≠ 0 ∧
    (Die.atReset 0).inst = none ∧ (tsite ce0 qs).load? ⟨0, 0⟩ = some tl ∧ tl.phase = .resident ∧
    (tsite ce0 qs).noThreads tl = true ∧ (tsite ce0 qs).noThreads busyLoad = false ∧ (tsq tq).load? ⟨0, 3⟩ = none ∧
    (((withInst (tsq tq)).die? 0).bind (·.inst)).isSome = true ∧ (withInst (tsq tq)).freeFab 0 = 0 ∧
    (withInst (tsq tq)).load? ⟨0, 0⟩ = none := ⟨⟨rfl, rfl⟩, by decide +kernel⟩

/-- R373: INST returns at once with INSTST RUNNING and step 1 in 120 clocks. R376: ABND's answers. -/
theorem test_inst_abnd : fld (after (.instWord 3 1) (tsq tq)).instst 0 16 = 1 ∧
    (((run (.instWord 3 1) (tsq tq)).die? 0).bind (·.inst)).map (fun i => (i.va, i.due)) = some (0x108, 120) ∧
    (after (.instWord 3 1) (withInst (tsq tq))).evpend = 2 ∧
    (after (.abnd 7 0) (tsite ce0 qs)).reg 7 = 0 ∧ (after (.abnd 7 1) (tsq tq)).reg 7 = 2 ∧
    (after (.abnd 7 0) { tsite ce0 qs with loads := [busyLoad] }).reg 7 = 1 ∧
    (after (.abnd 7 0) (withInst (tsq tq))).reg 7 = 3 := by decide +kernel

/-- Hypotheses of InvalidationAndBankSave: no port to drain, and one; a halted SPE, a live one, another kind, a
misaligned address. -/
def spe0 : Elem := mk 1 [dr 5 0, dr 7 0] []
def qb : Seq := { tq with regs := [0, 1, 1, 0x109] ++ List.replicate 28 0 }
def runMap : Run := ⟨0, 1, 0, true, true, true, 0, 0, 0, 0x1FFF, 6, true, 0, [(0, 0)]⟩
def drainLoad : Load := { tl with slots := [some ⟨0x10001, [runMap], [], 0, 1, 0, [], 0, 0, 0, []⟩] ++ List.replicate 7 none }
theorem wit_InvalidationAndBankSave : seqThere (tsq tq) 0 tq ∧ tq.priv = true ∧ (tsq tq).drainPorts 0 (2 ^ 41) = [] ∧
    { tsite (mk 0 [] []) qb with loads := [drainLoad] }.drainPorts 0 (2 ^ 41) ≠ [] ∧
    seqThere (tsite (halt spe0) qb) 0 qb ∧
    ((tsite (halt spe0) qb).siteOf 0 (qb.reg 1 &&& 0xFF)).all (fun x =>
      kindAt x.site == .spe && ((tsite (halt spe0) qb).siteElem x).halted &&
      ((tsite (halt spe0) qb).siteElem x).spe.mp.st == 0 && !((tsite spe0 qb).siteElem x).halted &&
      ((tsite (halt spe0) qb).seqWrites 0 0x108 ((tsite (halt spe0) qb).siteElem x).spe.stream).2 == 0) = true ∧
    ((tsite (halt ce0) qs).siteOf 0 (qs.reg 1 &&& 0xFF)).all (fun x => kindAt x.site != .spe) = true ∧
    (qb.reg 3).toNat % 8 ≠ 0 ∧ (tq.reg 3).toNat % 8 = 0 :=
  ⟨⟨rfl, rfl⟩, by decide +kernel, by decide +kernel, by decide +kernel, ⟨rfl, rfl⟩, by decide +kernel⟩

/-- R261: with nothing to drain a TINV completes at once. R380: an empty bank's stream is its one final word. -/
theorem test_tinv_savec : (after (.tinv 1 0) (tsq tq)).tinvdone = 1 ∧ (after (.tinv 1 0) (tsq tq)).evpend = 8 ∧
    (after (.savec 7 1 3) (tsite (halt spe0) { qb with regs := [0, 1, 1, 0x108] ++ List.replicate 28 0 })).reg 7 = 8 ∧
    (run (.savec 7 1 3) (tsite (halt spe0) { qb with regs := [0, 1, 1, 0x108] ++ List.replicate 28 0 })).word 0x60108 = 0 ∧
    (after (.savec 7 1 3) (tsite spe0 qb)).cause = BitVec.ofNat 64 (Cause.elemlive * 2 ^ 48) := by decide +kernel

/-- Hypotheses of TrapEntryAndReturn: an element that RESIDUE or ROUTE stopped at input 0, a token held by a switch word; a
fabric load without and with a frame owner, resident and in a pre-emption or a restore. -/
def etrap (cause detail : Nat) (k : Option Nat) : Elem :=
  { ce0 with ins := [[⟨0, 0, 3, 0, 9⟩], [], [], []], trap := some ⟨cause, detail, k⟩ }
def qtrap (src : TrapSrc) (cause code : Nat) : Seq :=
  { tq with taken := [⟨src, cause, 0, 0, 0⟩], cause := BitVec.ofNat 64 (code * 2 ^ 48), epc := 0x300 }
def rce : ElemRef := ⟨0, 0, 0, 17⟩
def hbox : Box :=
  ⟨⟨0, 0⟩, 0, 17, 0x5480 :: List.replicate 15 0, 0x1F, List.replicate 16 0,
    { Stage.empty with held := some ⟨0, 0, 0, 1, 9⟩ } :: List.replicate 15 Stage.empty, []⟩
def ownSlot : SlotX := { (⟨1, [], [], 0, 2, 0, [], 0, 0, 0, []⟩ : SlotX) with frame := 0x8000 }
def ownLoad (ph : LPhase) : Load := { tl with slots := some ownSlot :: List.replicate 7 none, phase := ph }
theorem wit_TrapReturns : (tsite (etrap Cause.residue 0 (some 0)) (qtrap (.elem rce) Cause.residue 0)).elem? rce =
      some (etrap Cause.residue 0 (some 0)) ∧ { tsq tq with dv := { (tsq tq).dv with sepol := 0 } }.voting = false ∧
    fld (qtrap (.elem rce) Cause.residue 0).cause 48 16 = 0 ∧ (etrap Cause.residue 0 (some 0)).inq 0 = [⟨0, 0, 3, 0, 9⟩] ∧
    fld (BitVec.ofNat 64 (4 * 2 ^ 36)) 36 4 = 4 + 0 ∧ { tsite ce0 (qtrap (.box ⟨0, 0⟩ 0 17 0) Cause.route 0) with
      boxes := [hbox] }.box? ⟨0, 0⟩ 0 17 = some hbox ∧ (hbox.stage 0).held = some ⟨0, 0, 0, 1, 9⟩ ∧
    fld (qtrap (.elem rce) Cause.userTrap Cause.preempt).cause 48 16 = Cause.preempt ∧ tl.owner = none ∧
    (ownLoad .resident).owner = some ownSlot ∧ (ownLoad .resident).phase = .resident ∧
    fld (BitVec.ofNat 64 (Cause.page * 2 ^ 32)) 32 16 = Cause.page ∧
    ((ownLoad .saving).tiles.find? fun y => decide (pkgTile 0 y.pt = 0)) = some ⟨0, 0, 1⟩ ∧ tl.owner = none := by decide +kernel

/-- R431, R432: a failed head stays with its residue made anew, a misrouted head goes, a held token takes the word's
identifier; PREEMPT saves a fabric load that has a frame owner; R433: the tile's part of a save, and a cause that ends it. -/
theorem test_returns :
    ((run .tret (tsite (etrap Cause.residue 0 (some 0)) (qtrap (.elem rce) Cause.residue 0))).elem? rce).map
      (fun e => (e.inq 0, e.trap)) = some ([⟨0, 0, residue 9, 0, 9⟩], none) ∧
    ((run .tret (tsite (etrap Cause.route (4 * 2 ^ 36) none) (qtrap (.elem rce) Cause.route 0))).elem? rce).map
      (fun e => e.inq 0) = some [] ∧
    ((run .tret { tsite ce0 (qtrap (.box ⟨0, 0⟩ 0 17 0) Cause.route 0) with boxes := [hbox] }).box? ⟨0, 0⟩ 0 17).map
      (fun b => (b.stage 0).held.map (·.rid)) = some (some (ridAt 0x1F 5)) ∧
    ((run .tret { tsite ce0 (qtrap (.elem rce) Cause.userTrap Cause.preempt) with loads := [ownLoad .resident] }).load? ⟨0, 0⟩).map
      (fun x => (x.phase, x.disp.map (·.level))) = some (.draining, some 1) ∧
    ((run .tret (tsite ce0 (qtrap (.elem rce) Cause.userTrap Cause.preempt))).load? ⟨0, 0⟩).map
      (fun x => x.disp.map (·.level)) = some (some 3) ∧
    ((run .tret { tsite ce0 (qtrap (.preempt ⟨0, 0⟩) Cause.preempt 0) with loads := [ownLoad .saving] }).load? ⟨0, 0⟩).map
      (fun x => x.returned) = some [0] ∧
    ((run .tret { tsite ce0 (qtrap (.restore ⟨0, 0⟩) Cause.preempt 0x0102) with loads := [ownLoad .restoring] }).load? ⟨0, 0⟩).map
      (fun x => x.phase) = some .retiring := by decide +kernel

/-! ### Slots of every kind, and the compute element -/

/-- A CE with D0 = 5, D1 = 0xFFFEEE90000003E8 (I32 lanes 1,000 and −70,000), D2 = 8 in both 32-bit lanes. -/
def ce1 : Elem := mk 17 [dr 5 1, dr 0xFFFEEE90000003E8 1, dr 0x0000000800000008 1] [3]
/-- A CE with floating data of LANE 00: D1 = (1.0, NaN), D2 = (2.0, 1.0), D0 = (0.5, 0.5). -/
def cef : Elem := mk 17 [dr 0x3F0000003F000000 4, dr 0x7FC000003F800000 4, dr 0x3F80000040000000 4] []

theorem wit_there : elemThere (te ce1) ce1.ref 2 0 0 ce1 := ⟨rfl, rfl, rfl⟩
theorem wit_clean : clean ce1 fd.srca ∧ clean ce1 fd.srcb ∧ clean ce1 fd.dst := by unfold clean; decide +kernel
/-- A token of another class, one whose residue is wrong, a state with and one without a trap. -/
def ceBad : Elem := mk 17 [dr 5 1, ⟨7, 1, true, 3⟩, dr 8 1] []
theorem wit_FiringTraps : elemThere (te cef) cef.ref 2 0 0 cef ∧ clean cef fd.srca ∧ clean cef fd.srcb ∧
    Cls.int.accepts (cef.source 5).tag = false ∧ elemThere (te ce1) ce1.ref 2 0 0 ce1 ∧
    (fpCls (0 : BitVec 2)).accepts (ce1.source 5).tag = false ∧ elemThere (te ceBad) ceBad.ref 2 0 0 ceBad ∧
    ¬ clean ceBad fd.srca ∧ (te ce1).elem? ce1.ref = some ce1 ∧ ce1.trap = none ∧ (halt ce1).trap.isSome = true ∧
    (te ce1).seq? (pkgTile 0 0) = some tq :=
  ⟨⟨rfl, rfl, rfl⟩, rfl, rfl, by decide +kernel, ⟨rfl, rfl, rfl⟩, by decide +kernel, ⟨rfl, rfl, rfl⟩, by unfold clean; decide, rfl, rfl, rfl, rfl⟩

/-- R132, R134, R430: the slot does not fire; the element holds the trap with site, slot, source code and tag. -/
theorem test_traps_of_firings : (fire .add fd cef).trap.map (·.cause) = some Cause.fmtMismatch ∧
    (fire .add fd ceBad).trap = some ⟨Cause.residue, eDetail 17 2 0, some 5⟩ ∧ (fire .add fd cef).dreg 0 = cef.dreg 0 ∧
    ((run (.add fd) (te cef)).seq? 0).map (fun q => q.pend.length) = some 1 := by decide +kernel

theorem wit_OpsOfEveryKind : elemThere (te ce1) ce1.ref 2 0 0 ce1 ∧ clean ce1 4 ∧ clean ce1 12 := ⟨⟨rfl, rfl, rfl⟩, rfl, rfl⟩

/-- R123 to R130, R362, R363: MOV keeps the tag, EMIT sets it, JOINC counts to N = 3 and emits scope 0. -/
theorem test_common_ops : d0 .mov 0 ce1 = dr 0xFFFEEE90000003E8 1 ∧ (d0 .emit 0 ce1).tag = 6 ∧
    (d0 .perf 0 ce1).val = 0 ∧ (fire .trap { f0 with srca := 9 } ce1).trap = some ⟨Cause.userTrap, eDetail 17 2 9, none⟩ ∧
    (fire .trap { f0 with srca := 9 } ce1).counters.getD 2 ⟨0, 0, 0⟩ = ⟨1, 0, 0⟩ ∧
    ((fire .join { f0 with srca := 2, deq := 1 } ce1).out 0).map (fun x => (x.tok.ctag, x.tok.pay)) = [(5, 2)] ∧
    (fire .joinc { f0 with srca := 4, srcb := 12, deq := 1 } ce1).dreg 0 = dr 3 0 := by decide +kernel

/-- The sources of the integer statements are clean and of class INT, at every lane width. -/
theorem wit_integer : elemThere (te ce1) ce1.ref 2 0 0 ce1 ∧ good ce1 fd.srca .int ∧ good ce1 fd.srcb .int ∧
    good ce1 fd.dst .int ∧ good ce1 fd.srca .any ∧ (0 : BitVec 2) ≠ 3 ∧ 0 + 1 < laneW 0 ∧ 7 < 64 / laneW 3 :=
  ⟨⟨rfl, rfl, rfl⟩, by unfold good clean; decide +kernel⟩

/-- R137, the worked example after R151: RSHR.32 of 1,000 and −70,000 by 8 gives 4 and −273, with residue 2. -/
theorem test_rshr : d0 .rshr 1 ce1 = ⟨0xFFFFFEEF00000004, 1, true, 2⟩ := by decide +kernel
/-- The same example: SATN to 8 bits gives 4 and −128. -/
theorem test_satn : ((fire .satn { fd with lane := 1, srcb := 7 } (mk 17 [dr 0 1, dr 0xFFFFFEEF00000004 1] [])).dreg 0).val
      = 0xFFFFFF8000000004 := by decide +kernel

/-- R137: lanes of 8 bits at their limits: a = (127, −128, 255, 1, …), b = (1, 1, 2, 9, …). -/
def ce8 : Elem := mk 17 [dr 0x0101010101010101 3, dr 0x00000000_01FF807F 3, dr 0x00000000_09020101 3] []
theorem test_lanes : (d0 .add 3 ce8).val = 0x0A018180 ∧ (d0 .adds 3 ce8).val = 0x0A01817F ∧
    (d0 .sub 3 ce8).val = 0xF8FD7F7E ∧ (d0 .subs 3 ce8).val = 0xF8FD807E ∧ (d0 .mul 3 ce8).val = 0x09FE807F ∧
    (d0 .mulh 3 ce8).val = 0x00FFFF00 ∧ (d0 .mulhu 3 ce8).val = 0x00010000 ∧ (d0 .min 3 ce8).val = 0x01FF8001 ∧
    (d0 .maxu 3 ce8).val = 0x09FF807F ∧ (d0 .abs 3 ce8).val = 0x0101807F ∧ (d0 .neg 3 ce8).val = 0xFF018081 ∧
    (d0 .minu 3 ce8).val = 0x01020101 ∧ (d0 .max 3 ce8).val = 0x0902017F := by decide +kernel
theorem test_lane_shifts : (d0 .shl 3 ce8).val = 0x02FC00FE ∧ (d0 .shr 3 ce8).val = 0x003F403F ∧
    (d0 .sar 3 ce8).val = 0x00FFC03F ∧ (d0 .rotl 3 ce8).val = 0x02FF01FE ∧ (d0 .clz 3 ce8).val = 0x0808080807000001 ∧
    (d0 .popc 3 ce8).val = 0x01080107 ∧ (d0 .ppopc 3 ce8).val = 0x01020001 := by decide +kernel
theorem test_bitwise : (d0 .and 3 ce8).val = 0x01020001 ∧ (d0 .or 3 ce8).val = 0x09FF817F ∧
    (d0 .xor 3 ce8).val = 0x08FD817E ∧ (d0 .andn 3 ce8).val = 0x00FD807E := by decide +kernel
theorem test_compares : (d0 .cmpeq 3 ce8).val = 0xFFFFFFFF00000000 ∧ (d0 .cmplt 3 ce8).val = 0xFFFFFF00 ∧
    (d0 .cmpltu 3 ce8).val = 0xFF000000 ∧ (d0 .cmple 3 ce8).val = 0xFFFFFFFFFFFFFF00 := by decide +kernel
/-- R139, R140: −1 × 2 + 1, and lanes 127 × 1 − 128 × 1 − 1 × 2 + 1 × 9 = 6 with signs, 127 + 128 + 510 + 9 without. -/
theorem test_mac_dot : (d0 .mac 3 ce8).val = 0x010101010AFF8180 ∧ (d0 .dot4 0 ce8).val = 6 ∧
    (d0 .dot4 2 ce8).val = 774 ∧ (d0 .dot4 1 ce8).val = 774 := by decide +kernel
/-- R141 to R143. -/
theorem test_moves : (d0 .pack 3 ce8).val = 0x000002010000FF7F ∧
    ((fire .unpkl { fd with lane := 3, srcb := 0 } ce8).dreg 0).val = 0x0001FFFFFF80007F ∧
    ((fire .unpkl { fd with lane := 3, srcb := 1 } ce8).dreg 0).val = 0x000100FF0080007F ∧
    ((fire .unpkh { fd with lane := 3, srcb := 1 } ce8).dreg 0).val = 0 ∧
    ((fire .bcast { fd with lane := 3, srcb := 1 } ce8).dreg 0).val = 0x8080808080808080 ∧
    ((fire .lanesum { fd with lane := 3, srcb := 0 } ce8).dreg 0).val = 0xFFFFFFFFFFFFFFFF ∧
    ((fire .ins { fd with lane := 3, srcb := 7 } ce8).dreg 0).val = 0x7F01010101010101 ∧
    ((fire .extr { fd with lane := 3, srcb := 2 } ce8).dreg 0).val = 0xFF := by decide +kernel
/-- R142: nibbles 0, 1, 3, 9, of which 9 gives zero. -/
theorem test_shuf : (d0 .shuf 0 (mk 17 [dr 0 0, dr 0x00000000_01FF807F 3, dr 0x9310 1] [])).val
    = 0x7F7F7F7F0001807F := by decide +kernel

/-- The sources of the floating statements, and of the conversions: F32 to I8 (more lanes), I32 (as many), and a part
number beyond the source. -/
theorem wit_float : elemThere (te cef) cef.ref 2 0 0 cef ∧ good cef fd.srca (fpCls 0) ∧ good cef fd.srcb (fpCls 0) ∧
    good cef fd.dst (fpCls 0) := ⟨⟨rfl, rfl, rfl⟩, by unfold good clean; decide +kernel⟩
theorem wit_Conversions : elemThere (te cef) cef.ref 2 0 0 cef ∧ good cef fd.srca .cvt ∧ good cef fd.dst .cvt ∧
    (cef.source 5).tag.toNat = 4 ∧ 64 / tagWidth 4 = 2 ∧ 64 / tagWidth 0 = 1 ∧ 64 / tagWidth 1 = 2 ∧ 64 / tagWidth 3 = 8 ∧
    ¬(4 ≤ (0 : BitVec 4).toNat ∧ (0 : BitVec 4).toNat ≤ 11) := ⟨⟨rfl, rfl, rfl⟩, by unfold good clean; decide +kernel⟩

/-- R144 to R147: 1 + 2 and a NaN lane; 0.5 + 1 × 2. -/
theorem test_float : (d0 .fadd 0 cef).val = 0x7FC0000040400000 ∧ (d0 .fsub 0 cef).val = 0x7FC00000BF800000 ∧
    (d0 .fmul 0 cef).val = 0x7FC0000040000000 ∧ (d0 .fma 0 cef).val = 0x7FC0000040200000 ∧
    (d0 .fmin 0 cef).val = 0x3F8000003F800000 ∧ (d0 .fmax 0 cef).val = 0x3F80000040000000 ∧
    (d0 .fcmplt 0 cef).val = 0x00000000FFFFFFFF ∧ (d0 .fcmpeq 0 cef).val = 0 ∧
    (d0 .fneg 0 cef).val = 0x7FC00000BF800000 ∧ (d0 .fabs 0 cef).val = 0x7FC000003F800000 := by decide +kernel
/-- R148: exact cases. -/
theorem test_transcendental : (d0 .frcp 0 (mk 17 [dr 0 4, dr 0x0000000040000000 4] [])).val = 0x7F8000003F000000 ∧
    (d0 .frsq 0 (mk 17 [dr 0 4, dr 0x8000000040800000 4] [])).val = 0xFF8000003F000000 ∧
    (d0 .fexp2 0 (mk 17 [dr 0 4, dr 0x0000000040400000 4] [])).val = 0x3F80000041000000 ∧
    (d0 .flog2 0 (mk 17 [dr 0 4, dr 0x3F80000041000000 4] [])).val = 0x0000000040400000 := by decide +kernel
/-- R149: F32 to I32 under RNE, and I32 to F32. -/
theorem test_cvt : ((fire .cvt { fd with srcb := 1 } (mk 17 [dr 0 0, dr 0x4020000040600000 4] [])).dreg 0)
      = dr 0x0000000200000004 1 ∧
    ((fire .cvts { fd with srcb := 4 } (mk 17 [dr 0 0, dr 0x0000000200000004 1] [])).dreg 0)
      = dr 0x4000000040800000 4 := by decide +kernel

/-- R88, the worked block: x0 = 1.0, x1 = −0.75, x4 = 0.2, x5 = 0.1 and zeros. -/
def cebx : Elem := mk 17 ([0xBF4000003F800000, 0, 0x3DCCCCCD3E4CCCCD, 0, 0, 0, 0, 0].map fun v => dr v 4) []
theorem wit_BlockCoding : elemThere (te cebx) cebx.ref 2 0 0 cebx ∧
    (∀ i, i < 16 / (64 / tagWidth 4) → goodAt cebx (4 + 0 + i) (.fp 4)) ∧
    cebx.ce.pack.fmt = 0 ∧ good (mk 17 [dr 0 4, dr 0x7F0C000000013032 11] []) fd.srca .bxd :=
  ⟨⟨rfl, rfl, rfl⟩, by unfold goodAt; decide, rfl, by unfold good clean; decide +kernel⟩
theorem test_bxenc : (fire .bxenc f0 cebx).out 0 =
    [⟨⟨0, 11, residue 0x7F0C000000013032, 0, 0x7F0C000000013032⟩, 0⟩] := by decide +kernel
/-- The same block decodes to 1.0, −1.0 in elements 0 and 1 and 0.1875, 0.125 in elements 4 and 5. -/
theorem test_bxdec : (fire .bxdec { fd with srcb := 0 } (mk 17 [dr 0 4, dr 0x7F0C000000013032 11] [])).dreg 0 =
      dr 0xBF8000003F800000 4 ∧
    (fire .bxdec { fd with srcb := 2 } (mk 17 [dr 0 4, dr 0x7F0C000000013032 11] [])).dreg 0 =
      dr 0x3E0000003E400000 4 := by decide +kernel

/-- A CE with tokens at I0 and I1. -/
def cein (a b : Tok) : Elem := { ce1 with ins := [[a], [b], [], []] }
def fi : SlotF := { f0 with dst := 4, srca := 0, srcb := 1, deq := 3 }
/-- Hypotheses of FibresAndCoordinates: DATA, END0, END3 and FAULT heads, coordinates, and a bitmap with none, one and
more bits left. -/
theorem wit_FibresAndCoordinates : elemThere (te (cein (tok 1 0 0) (tok 4 0 0))) ce1.ref 2 0 0 (cein (tok 1 0 0) (tok 4 0 0)) ∧
    clean (cein (tok 1 0 0) (tok 4 0 0)) 0 ∧ ((cein (tok 1 0 0) (tok 4 0 0)).source 0).ctag.toNat = 1 ∧
    ((cein (tok 1 0 0) (tok 4 0 0)).source 1).ctag.toNat = 4 ∧ ((cein (tok 6 0 0) (tok 0 0 0)).source 0).ctag = Ctag.fault ∧
    good (cein (tok 0 14 0x500000007) (tok 0 0 0)) 0 .coord ∧ good (cein (tok 0 14 0x500000007) (tok 0 0 0)) 0 .int ∧
    good (cein (tok 0 0 0) (tok 0 0 0)) 1 .int ∧ (6 : Nat) ≠ 2 ^ ctzN 64 6 ∧ (4 : Nat) = 2 ^ ctzN 64 4 :=
  ⟨⟨rfl, rfl, rfl⟩, rfl, by decide +kernel, by decide +kernel, by decide +kernel, by unfold good clean; decide +kernel⟩
/-- R165: FADV counts; FCLOSE on END1 (rank 1) closes two levels. R166: a pair and its parts. R167: the lowest bit. -/
theorem test_fibres : ((fire .fadv { fi with srcb := 2 } (cein (tok 0 0 9) (tok 0 0 0))).fibre 2).pos = 1 ∧
    ((fire .fclose { fi with srcb := 2 } ((cein (tok 2 0 0) (tok 0 0 0)).setFibre 2 ⟨0, 3, 4, 5, 6, 7⟩)).dreg 0).val
      = 0x0000000100000007 ∧
    (fire .fclose { fi with srcb := 2 } ((cein (tok 2 0 0) (tok 0 0 0)).setFibre 2 ⟨0, 3, 4, 5, 6, 7⟩)).fibre 2
      = ⟨0, 0, 5, 5, 6, 0⟩ ∧
    ((fire .fend fi (cein (tok 1 0 0) (tok 0 0 0))).dreg 0).val = 0x0000000100000000 ∧
    ((fire .fpos { fi with srca := 1, srcb := 2, deq := 0 } (ce1.setFibre 2 ⟨0, 3, 4, 5, 6, 7⟩)).dreg 0).val = 3 ∧
    (fire .fopen { fi with srca := 0, srcb := 2, dst := 15, deq := 0 } (ce1.setFibre 2 ⟨1, 3, 4, 5, 6, 7⟩)).fibre 2
      = Fib.zero := by decide +kernel
theorem test_coordinates : (fire .cpair fi (cein (tok 0 1 5) (tok 0 1 7))).dreg 0 = dr 0x500000007 14 ∧
    (fire .csplitC { fi with srcb := 0 } (cein (tok 0 14 0x500000007) (tok 0 0 0))).dreg 0 = dr 5 0 ∧
    (fire .csplitV { fi with srcb := 1 } (cein (tok 0 14 0x500000007) (tok 0 0 0))).dreg 0 = dr 7 1 ∧
    (fire .bmexp { fi with srcb := 0, deq := 0 } (cein (tok 0 0 0x14) (tok 0 0 0))).dreg 0 = dr 0x200000000 14 ∧
    (fire .bmand { fi with deq := 0 } (cein (tok 0 0 0x1C) (tok 0 0 0x28))).dreg 0 = dr 0x300000003 14 := by decide +kernel

/-- Hypotheses of MergingAndTopK: two DATA heads with lesser, equal and greater coordinates, DATA beside END, two ENDs; a
list with room, a full list, an empty one. -/
theorem wit_MergingAndTopK : elemThere (te (cein (tok 0 14 0x500000007) (tok 0 14 0x500000001))) ce1.ref 2 0 0
      (cein (tok 0 14 0x500000007) (tok 0 14 0x500000001)) ∧
    good (cein (tok 0 14 0x500000007) (tok 0 14 0x500000001)) 0 .coord ∧
    good (cein (tok 0 14 0x500000007) (tok 0 14 0x500000001)) 1 .coord ∧
    coordOf 0x500000007 = coordOf 0x500000001 ∧ coordOf 0x4FFFFFFFF < coordOf 0x500000001 ∧
    clean (cein (tok 1 0 0) (tok 4 0 0)) 0 ∧ clean (cein (tok 1 0 0) (tok 4 0 0)) 1 ∧ ce1.ce.topk = [] ∧
    [(0x100000002 : Word)].length = 0 + 1 ∧ [(0x100000002 : Word)].getLast? = some 0x100000002 ∧
    ranksBefore 0 0x100000003 0x100000002 = true ∧ ranksBefore 0 0x100000001 0x100000002 = false ∧
    (fF32.dec 0x7FC00000).isNaN = true ∧ (fF32.dec 0x3F800000).isNaN = false :=
  ⟨⟨rfl, rfl, rfl⟩, by unfold good clean; decide, by unfold good clean; decide, by decide +kernel, by decide +kernel, rfl, rfl, by decide +kernel⟩
def cetop (l : List Word) (t : Option Nat) (a : Tok) : Elem :=
  { cein a (tok 0 0 0) with ce := { ce1.ce with topk := l, topType := t } }
theorem test_merge_topk :
    ((fire .cmerge { fi with lane := 1, deq := 0 } (cein (tok 0 14 0x500000007) (tok 0 14 0x500000001))).dreg 0).val
      = 0x500000008 ∧
    (fire .cmerge { fi with deq := 0 } (cein (tok 0 14 0x500000007) (tok 0 14 0x400000001))).inq 1 = [] ∧
    ((fire .cmerge { fi with dst := 0, deq := 0 } (cein (tok 1 0 0) (tok 2 0 0))).out 0).map (·.tok.ctag) = [1] ∧
    (fire .topk { fi with dst := 15, srcb := 0 } (cetop [0x100000002] (some 0) (tok 0 14 0x900000003))).ce.topk
      = [0x900000003] ∧
    ((fire .topkrd { f0 with dst := 0 } (cetop [0x900000003] (some 0) (tok 0 0 0))).out 0).map (·.tok.pay)
      = [0x900000003] ∧
    ((fire .topkrd { f0 with dst := 0 } (cetop [] none (tok 0 0 0))).out 0).map (·.tok.ctag) = [1] := by decide +kernel

/-! ### The scratchpad element -/

/-- An SPE whose bank holds (8 ↦ 5), and whose D0 names word 8. -/
def bw (v : Word) (p : Bool) : BWord := ⟨v, 1, residue v, p⟩
def sp (pres : Bool) : Elem :=
  { mk 1 [dr 8 0, dr 7 1] [] with
    spe := { SpeState.init with bank := [(8, bw 5 pres)], handles := ⟨8, 4, 2, 3, 1, 2⟩ :: List.replicate 7 Handle.zero } }
def fs : SlotF := { f0 with dst := 6, srca := 4, srcb := 5, lane := 1 }
theorem wit_spe : elemThere (te (sp false)) ⟨0, 0, 0, 1⟩ 2 0 0 (sp false) ∧ good (sp false) fs.srca .int ∧
    good (sp false) fs.srcb .int ∧ clean (sp false) fs.srcb ∧ wordOk (sp false) 8 ∧ wordOk (sp true) 8 ∧
    setHas (sp false).spe.bad 8 = false ∧ ((sp false).spe.read 8).pres = false ∧ ((sp true).spe.read 8).pres = true ∧
    Cls.int.accepts ((sp false).spe.read 8).tag = true ∧ swf BWord.zero (sp false).spe.bank = true :=
  ⟨⟨rfl, rfl, rfl⟩, by unfold good clean wordOk; decide +kernel⟩
theorem wit_BankAccesses : swf BWord.zero (sp false).spe.bank = true ∧
    ((sp false).spe.old.any fun o => decide (o.1 = 8)) = false ∧
    (((sp false).spe.write 8 (bw 9 true)).old.any fun o => decide (o.1 = 8)) = true ∧ (9 : Nat) ≠ 8 := by decide +kernel
/-- Hypotheses of CircularBuffers: an unset handle, one that is set, a descriptor at the end of the bank and one past it. -/
theorem wit_CircularBuffers : elemThere (te (sp false)) ⟨0, 0, 0, 1⟩ 2 0 0 (sp false) ∧ ((sp false).spe.handle 1).size = 0 ∧
    ((sp false).spe.handle 0).size ≠ 0 ∧ wordOk (sp false) 11 ∧ good (sp false) fs.srca .int ∧
    fld (8191 : Word) 39 25 = 0 ∧ fld (8191 : Word) 0 13 + fld (8191 : Word) 13 13 ≤ 8191 ∧
    8191 < fld (0x3FFF : Word) 0 13 + fld (0x3FFF : Word) 13 13 :=
  ⟨⟨rfl, rfl, rfl⟩, by unfold good clean wordOk; decide +kernel⟩

/-- R201, R211: the read gives what stood at the start of the clock, the write keeps presence. -/
theorem test_bank : (fire .srd { fs with srcb := 0 } (sp false)).dreg 2 = dr 5 1 ∧
    (fire .swr { fs with dst := 15 } (sp true)).spe.now 8 = bw 7 true ∧
    (fire .sxch fs (sp false)).dreg 2 = dr 5 1 ∧ (fire .sxch fs (sp false)).spe.now 8 = bw 7 false ∧
    (fire .sadd fs (sp false)).spe.now 8 = bw 12 false ∧ (fire .smax fs (sp false)).spe.now 8 = bw 7 false ∧
    (fire .smin fs (sp false)).spe.now 8 = bw 5 false ∧ (fire .sadd fs (sp false)).dreg 2 = dr 5 1 := by decide +kernel
/-- R203 to R205: base 8, size 4, RD 3, WR 1, FILL 2: word 8 + (3 + 1) mod 4, and pointers that wrap. -/
theorem test_circular : (fire .cbrd { fs with srca := 0, srcb := 1, lane := 0 } (sp false)).dreg 2 = dr 5 1 ∧
    (fire .cbrdPop { fs with srca := 0, srcb := 0, lane := 2 } (sp false)).spe.handle 0 = ⟨8, 4, 2, 0, 1, 1⟩ ∧
    (fire .cbwr { fs with srca := 0, dst := 15, lane := 0 } (sp false)).spe.now 9 = bw 7 false ∧
    (fire .cbwr { fs with srca := 0, dst := 15, lane := 0 } (sp false)).spe.handle 0 = ⟨8, 4, 2, 3, 2, 3⟩ ∧
    (fire .cbadvr { fs with srca := 0, srcb := 0, lane := 0 } (sp false)).dreg 2 = dr 0x300000001 0 ∧
    (fire .cbadvw { fs with srca := 0, srcb := 0, lane := 0 } (sp false)).dreg 2 = dr 0x100000003 0 ∧
    (fire .cbset { fs with srcb := 3, dst := 15, lane := 0 } (sp false)).spe.handle 3 = ⟨8, 1, 0, 0, 0, 0⟩ ∧
    (fire .cbrd { fs with srca := 1, srcb := 0, lane := 0 } (sp false)).trap.map (·.cause) = some Cause.cbunset := by decide +kernel
/-- R206, R207: a deferral; a write that makes the word present; a rewrite; a clear. -/
theorem test_presence : ((fire .prd { fs with srcb := 0, lane := 0 } (sp false)).spe.defers).map (·.word) = [8] ∧
    (fire .prd { fs with srcb := 0, lane := 0 } (sp true)).dreg 2 = dr 5 1 ∧
    (fire .pwr { fs with dst := 15, lane := 0 } (sp false)).spe.now 8 = bw 7 true ∧
    (fire .pwr { fs with dst := 15, lane := 0 } (sp true)).trap.map (·.cause) = some Cause.presenceRewrite ∧
    (fire .pclr { fs with srcb := 0, lane := 0 } (sp true)).spe.now 8 = BWord.zero ∧
    (fire .pclr { fs with srcb := 0, lane := 0 } (sp true)).dreg 2 = dr 5 1 := by decide +kernel

/-- A microprogram that copies one row of one word from word 8 to word 16, with its read and then its write reserved. -/
def mpd : Word := BitVec.ofNat 64 (16 * 2 ^ 13 + 8)
def spm (st : Nat) (m : MicroProg) (rd wr : Nat) : Elem :=
  { sp false with spe := { (sp false).spe with mp := { m with st := st, desc := mpd }, resv := ⟨rd, wr, 0, 0⟩ } }
def tev (e : Elem) : State := { te e with actor := .elem e.ref }
theorem wit_Microprograms : elemThere (te (sp false)) ⟨0, 0, 0, 1⟩ 2 0 0 (sp false) ∧ good (sp false) fs.srca .int ∧
    good (sp false) fs.srcb .none ∧ mpBad mpd = false ∧ mpBad 8 = false ∧ mpBad 0xC000000000000000 = true ∧
    elemAct (tev (spm 1 .idle 1 0)) ⟨0, 0, 0, 1⟩ (spm 1 .idle 1 0) ∧ swf BWord.zero (spm 1 .idle 1 0).spe.bank = true ∧
    wordOk (spm 1 .idle 1 0) (mpSrc mpd + 0 * mpPitch mpd + 0) ∧ mpOp mpd = 0 ∧
    (spm 2 { MicroProg.idle with row := 1 } 0 0).spe.mp.atBoundary = true ∧ (spm 1 .idle 0 0).spaceFor 0 = true :=
  ⟨⟨rfl, rfl, rfl⟩, by unfold good clean wordOk elemAct; decide +kernel⟩
theorem test_microprogram : 
    (fire .mpgo { fs with dst := 15, lane := 0 } (mk 1 [dr (3 <<< 62) 0, dr 7 1] [])).trap.map (·.cause) =
      some Cause.mpdesc ∧
    (fire .mpgo { fs with dst := 15, lane := 0 } (mk 1 [dr mpd 0, dr 7 1] [])).spe.mp.st = 1 ∧
    (((run .microprogramStep (tev (spm 1 .idle 1 0))).elem? ⟨0, 0, 0, 1⟩).bind (·.spe.mp.write)) = some ⟨16, bw 5 false⟩ ∧
    ((run .microprogramStep (tev (spm 1 { MicroProg.idle with write := some ⟨16, bw 5 false⟩ } 0 1))).elem? ⟨0, 0, 0, 1⟩).map
      (fun e => e.spe.now 16) = some (bw 5 false) ∧
    (fire .mpstSusp { f0 with dst := 6, lane := 1 } (spm 1 .idle 0 0)).spe.mp.st = 2 ∧
    (fire .mpstRes { f0 with dst := 6, lane := 2 } (spm 3 { MicroProg.idle with byprog := true } 0 0)).spe.mp.st = 1 ∧
    ((run .microprogramSuspend (tev (spm 2 { MicroProg.idle with row := 1 } 0 0))).elem? ⟨0, 0, 0, 1⟩).map (·.spe.mp.st) = some 3 := by decide +kernel

/-- Two SPEs of the tile, sites 1 and 3: the address 0x2008 names word 8 of SPE 1, and 0xFFFFFF names none. -/
def te2 (e f : Elem) : State := { te e with elems := [e, f] }
def sx (a : Word) : Elem := { mk 1 [dr a 0, dr 7 1] [] with spe := SpeState.init }
theorem wit_CrossRequests : elemThere (te2 (sx 0x2008) (mk 3 [] [])) ⟨0, 0, 0, 1⟩ 2 0 0 (sx 0x2008) ∧
    good (sx 0x2008) 4 .int ∧ clean (sx 0x2008) 5 ∧
    (te2 (sx 0x2008) (mk 3 [] [])).crossTarget ⟨0, 0, 0, 1⟩ 0x2008 = some ⟨0, 0, 0, 3⟩ ∧
    (te2 (sx 0x2008) (mk 3 [] [])).crossTarget ⟨0, 0, 0, 1⟩ 0xFFFFFF = none :=
  ⟨⟨rfl, rfl, rfl⟩, by unfold good clean; decide +kernel⟩
theorem test_cross : ((run (.xwr { fs with dst := 0, lane := 0 }) (te2 (sx 0x2008) (mk 3 [] []))).elem? ⟨0, 0, 0, 3⟩).map
      (fun e => e.spe.crossIn.map fun q => (q.op, q.word, q.val)) = some [(.wr, 8, 7)] ∧
    ((run (.xrd { fs with dst := 0, lane := 0 }) (te2 (sx 0xFFFFFF) (mk 3 [] []))).elem? ⟨0, 0, 0, 1⟩).map
      (fun e => (e.spe.credits, e.spe.owed.map fun c => c.reply.map (·.ctag))) = some (7, [some 6]) := by decide +kernel

/-! ### The matrix element -/

/-- Two I8 tile registers of one row of 8 bytes, (1, 2, −1, 0, …) and (3, 4, 5, 0, …), full; an S32 accumulator 1. -/
def treg (v : Word) : TReg := { TReg.unset with data := [(0, v)], st := 3, fmt := 3, rows := 1, cb := 8, fill := 1 }
def mx (run : Option ArrJob) (ending : List ArrJob) : Elem :=
  { mk 34 [dr 3 0, dr 0x0000000000FF0201 3] [] with
    mxe := { MxeState.init with
      t := [treg 0xFF0201, treg 0x050403] ++ List.replicate 6 TReg.unset
      a := [Acc.zero, { Acc.zero with kind := true }, Acc.zero, Acc.zero], run := run, ending := ending } }
def job : ArrJob := ⟨1, 0, some 1, 1, 8, none, []⟩
def fm : SlotF := { f0 with dst := 15, srca := 0, srcb := 1, lane := 1 }
theorem wit_TilesAndProducts : elemThere (te (mx none [])) ⟨0, 0, 0, 34⟩ 2 0 0 (mx none []) ∧ good (mx none []) 4 .int ∧
    clean (mx none []) 5 ∧ tcfgBad 3 = false ∧ tcfgBad 0x100003 = true ∧ ((mx none []).mxe.treg 2).st = 0 ∧
    ((mx none []).mxe.treg 0).st = 3 ∧ ((mx none []).source 5).tag.toNat = 3 ∧
    ((mx none []).mxe.treg 0).k = ((mx none []).mxe.treg 1).k ∧ ((mx none []).mxe.treg 0).rows ≤ 32 ∧
    mxAccepts ((mx none []).mxe.acc 1).kind 3 = true ∧ mxAccepts ((mx none []).mxe.acc 0).kind 3 = false ∧
    ((mx none []).mxe.treg 0).k ≠ (TReg.unset.k + 1) :=
  ⟨⟨rfl, rfl, rfl⟩, by unfold good clean; decide +kernel⟩
/-- R225, R226, R232, R240: TCFG sets a shape; a word fills a register; a product is taken by a free array for 8 clocks. -/
theorem test_tiles : (fire .tcfg { fm with srca := 4, srcb := 2, lane := 0 } (mx none [])).mxe.treg 2 =
      { TReg.unset with st := 1, fmt := 3, rows := 1, cb := 8 } ∧
    ((fire .tfill { fm with srca := 5, srcb := 2, lane := 0 }
      (fire .tcfg { fm with srca := 4, srcb := 2, lane := 0 } (mx none []))).mxe.treg 2).st = 3 ∧
    (fire .tzero { fm with lane := 2, srca := 1, srcb := 0 } (mx none [])).mxe.acc 2 = ⟨[], 0, true, 0, 0, 0⟩ ∧
    ((fire .trel { fm with srca := 0, srcb := 0, lane := 0 } (mx none [])).mxe.treg 0).st = 1 ∧
    (fire .tscale { fm with srca := 4, srcb := 0, lane := 0 } (mx none [])).mxe.treg 0 = { treg 0xFF0201 with sigma := 3 } ∧
    (fire .tmma fm (mx none [])).mxe.run = some { job with start := 1 } ∧
    (fire .tmma { fm with lane := 0 } (mx none [])).trap.map (·.cause) = some Cause.fmtMismatch ∧
    (fire .tacc { fm with srca := 0, srcb := 2 } (mx none [])).trap.map (·.cause) = some Cause.mxstate ∧
    (fire .tdrain { fm with dst := 0, srca := 1, srcb := 1, lane := 0 } (mx none [])).mxe.drain.map (·.acc) = some 1 ∧
    ((fire .tstat { fm with dst := 4, srca := 0, srcb := 0, lane := 0 } (mx none [])).dreg 0).val = 0x1000033 := by decide +kernel

theorem wit_ArrayAndDrain : elemAct (tev (mx (some job) [])) ⟨0, 0, 0, 34⟩ (mx (some job) []) ∧
    (job.start + job.b - 1 ≤ 8) ∧ 7 < job.start + job.b - 1 ∧ ((mx none []).mxe.readOps job).poison = job.poison ∧
    job.start + job.b - 1 + 4 ≤ 12 ∧ ((mx none []).mxe.acc 1).st ≠ 3 ∧ (mx none []).spaceFor 0 = true ∧
    ((mx none []).mxe.readOps job).ops = [treg 0xFF0201, treg 0x050403] := by unfold elemAct; decide +kernel
def at_ (c : Nat) (s : State) : State := { s with clock := c }
/-- R233: 1 × 3 + 2 × 4 − 1 × 5 = 6 in word (0, 0), in the clock 4 after the array's last. R237: a row of one value, its
END0 or END1. -/
def mxd (snap : Acc) (pos : Nat) : Elem :=
  { mx none [] with mxe := { (mx none []).mxe with a := [Acc.zero, snap], drain := some ⟨1, 1, false, false, 0, 0, pos, 0⟩ } }
theorem test_array : ((run .arrayStart (at_ 8 (tev (mx (some job) [])))).elem? ⟨0, 0, 0, 34⟩).map
      (fun e => (e.mxe.run, e.mxe.ending.length)) = some (none, 1) ∧
    run .arrayStart (at_ 7 (tev (mx (some job) []))) = at_ 7 (tev (mx (some job) [])) ∧
    ((run .arrayComplete (at_ 12 (tev (mx none [(mx none []).mxe.readOps job])))).elem? ⟨0, 0, 0, 34⟩).map
      (fun e => e.mxe.acc 1) = some ⟨[(0, 6)], 1, true, 1, 1, 0⟩ ∧
    ((run .drainPortToken (at_ 2 (tev (mxd ⟨[(0, 6)], 1, true, 1, 1, 0⟩ 0)))).elem? ⟨0, 0, 0, 34⟩).map
      (fun e => (e.out 0).map fun x => (x.tok.ctag, x.tok.ftag, x.tok.pay)) = some [(0, 1, 6)] ∧
    ((run .drainPortToken (at_ 2 (tev (mxd ⟨[(0, 6)], 1, true, 1, 1, 0⟩ 1)))).elem? ⟨0, 0, 0, 34⟩).map
      (fun e => (e.out 0).map fun x => x.tok.ctag) = some [2] ∧
    ((run .drainPortToken (at_ 2 (tev (mxd ⟨[], 3, true, 1, 1, 0x203⟩ 0)))).elem? ⟨0, 0, 0, 34⟩).map
      (fun e => (e.out 0).map fun x => x.tok.ctag) = some [6] := by decide +kernel

/-! ### The memory port element -/

/-- An MPE of a fabric load whose extent-table slot 0 maps virtual 0 to 0xFFFF; D0 = 0x108, D1 = 7, D2 = 0x101 (I64). -/
def mp : Elem := mk 0 [dr 0x108 0, dr 7 0, dr 0x101 14] []
def tp0 (e : Elem) : State := { te e with loads := [drainLoad] }
def fp : SlotF := { f0 with dst := 4, srca := 4, srcb := 5 }
def fireP (i : SlotF → Instr) (f : SlotF) (e : Elem) : Elem := ((run (i f) (tp0 e)).elem? e.ref).getD e
theorem wit_PortAsks : elemThere (tp0 mp) ⟨0, 0, 0, 0⟩ 2 0 0 mp ∧ good mp 4 .int ∧ good mp 5 .int ∧ clean mp 5 ∧
    good mp 5 (.fp 4) ∧ good mp 6 .coord ∧ ((tp0 mp).slotTask ⟨0, 0⟩ 0).isSome = true ∧
    (tp0 mp).slotTask ⟨0, 0⟩ 7 = none ∧
    ((tp0 mp).slotTask ⟨0, 0⟩ 0).all (fun x => x.wins.getD 0 none == none) = true :=
  ⟨⟨rfl, rfl, rfl⟩, by unfold good clean; decide +kernel⟩
/-- R274 to R280: the credits taken and the access asked for; R273: an unbound parameter traps. -/
theorem test_port : (fireP .ld { fp with srcb := 0 } mp).mpe.issueQ.map (fun i => (i.op, i.a)) = [(.ld, 0x108)] ∧
    (fireP .ld { fp with srcb := 0 } mp).mpe.rdCred + 1 = mp.mpe.rdCred ∧
    (fireP .st { fp with dst := 15 } mp).mpe.issueQ.map (fun i => (i.op, i.a, i.b)) = [(.st, 0x108, 7)] ∧
    (fireP .st { fp with dst := 15 } mp).mpe.wrCred + 1 = mp.mpe.wrCred ∧
    (fireP .ldf { fp with srcb := 3 } mp).mpe.rdCred + 4 = mp.mpe.rdCred ∧
    (fireP .pld { fp with srcb := 0 } mp).trap.map (·.cause) = some Cause.paramUnbound ∧
    (fireP .acas fp mp).mpe.groups.map (·.pred.isSome) = [true] := by decide +kernel

/-- Hypotheses of GathersAndGenerators: descriptors in order and in breach, loop parameters in order and in breach. -/
theorem wit_GathersAndGenerators : elemThere (tp0 mp) ⟨0, 0, 0, 0⟩ 2 0 0 mp ∧ good mp 4 .int ∧ clean mp 5 ∧ good mp 6 .coord ∧
    gdescBad 3 11 0 = true ∧ gdescBad 3 11 (BitVec.ofNat 64 (3 * 2 ^ 57)) = false ∧
    gdescBad 2 2 (BitVec.ofNat 64 (2 * 2 ^ 57)) = false ∧ gdescBad 2 2 0 = true ∧
    fld (0x0000000800000003 : Word) 0 32 ≠ 0 ∧ sgn 32 (fld (0x0000000800000003 : Word) 32 32) % 8 = 0 ∧
    sgn 32 (fld (0x0000000900000003 : Word) 32 32) % 8 ≠ 0 ∧ fld (3 : Word) 2 62 = 0 ∧ fld (4 : Word) 2 62 ≠ 0 :=
  ⟨⟨rfl, rfl, rfl⟩, by unfold good clean; decide +kernel⟩
theorem test_generators : (fireP .agcfg { fp with dst := 15, srcb := 1 } (mk 0 [dr 0x0000000800000003 0] [])).mpe.gen 0 =
      { AddrGen.init with c := [1, 3, 1, 1], s := [0, 8, 0, 0] } ∧
    (fireP .agcfg { fp with dst := 15, srcb := 1 } (mk 0 [dr 0x0000000900000003 0] [])).trap.map (·.cause) =
      some Cause.agdesc ∧
    (fireP .agcfg { fp with dst := 15, srcb := 12 } (mk 0 [dr 0x40 0] [])).mpe.gen 1 = { AddrGen.init with base := 0x40 } ∧
    ((fireP .astrm { fp with dst := 0, srca := 0, srcb := 0 } mp).mpe.gen 0).st = 1 ∧
    ((fireP .astwr { fp with dst := 15, srca := 4, srcb := 0 } mp).mpe.gen 0).st = 0 ∧
    (fireP .gld fp mp).trap.map (·.cause) = some Cause.gdesc := by decide +kernel

/-! ### Events of an element's clock -/

/-- A CE whose slots 0 and 1 (NOP, always true) are enabled, in group g. -/
def cesl (g : Nat) (ins : List (List Tok)) : Elem :=
  { ce1 with slots := [BitVec.ofNat 64 g, BitVec.ofNat 64 g] ++ List.replicate 14 0, ecw := 0x0000000300000000, ins := ins }
theorem wit_ElementClocks : elemAct (tev (cesl 0 [[], [], [], []])) ⟨0, 0, 0, 17⟩ (cesl 0 [[], [], [], []]) ∧
    (∀ k, k < 4 → (cesl 0 [[], [], [], []]).partBreak k = false) ∧ (cesl 0 [[], [], [], []]).halted = false ∧
    (halt (cesl 0 [[], [], [], []])).halted = true ∧ (cesl 0 [[], [], [], []]).faultTrap = none ∧
    (cesl 0 [[], [], [], []]).drainTrap = none ∧ (cesl 0 [[tok 6 0 0], [], [], []]).faultTrap.isSome = true ∧
    (cesl 0 [[tok 7 0 0], [], [], []]).drainTrap.isSome = true ∧
    ((cesl 0 [[], [], [], []]).choose (eligible ((cesl 0 [[], [], [], []]).evals 0))).map (·.1) = some 0 ∧
    { cesl 0 [[], [], [], []] with ecw := 0 }.choose (eligible ({ cesl 0 [[], [], [], []] with ecw := 0 }.evals 0)) = none := by
  unfold elemAct; decide +kernel
theorem test_escapement : (run .escapement (tev (cesl 0 [[], [], [], []]))).agenda = [.fire ⟨0, 0, 0, 17⟩ 0 0 2] ∧
    ((run .escapement (tev (cesl 0 [[tok 6 0 0], [], [], []]))).elem? ⟨0, 0, 0, 17⟩).bind (·.trap) =
      some ⟨Cause.faultUnconsumed, eDetail 17 0 0, none⟩ ∧
    ((run .escapement (tev { cesl 0 [[], [], [], []] with ecw := 0 })).elem? ⟨0, 0, 0, 17⟩).map (·.ticking) = some true := by decide +kernel
/-- R115: occupancy sums 3 and 9 give weights 1 + ⌊45 / 9⌋ = 6 and 16. -/
def cebal : Elem := { cesl 1 [[], [], [], []] with bal := [⟨8, 1, 3, 2⟩, ⟨8, 1, 9, 0⟩] ++ List.replicate 14 ⟨8, 0, 0, 0⟩ }
theorem test_reweight : ((run .balanceReweight { tev cebal with actor := .elemN ⟨0, 0, 0, 17⟩ 1 }).elem? ⟨0, 0, 0, 17⟩).map
    (fun e => e.bal.take 2) = some [⟨6, 0, 0, 2⟩, ⟨16, 0, 0, 0⟩] := by decide +kernel
theorem wit_Reweighting : elemActN { tev cebal with actor := .elemN ⟨0, 0, 0, 17⟩ 1 } ⟨0, 0, 0, 17⟩ 1 cebal := ⟨rfl, rfl⟩
/-- A box whose word 0 leads O0 to I1 of its own site, with route identifier 0. -/
def box : Box :=
  ⟨⟨0, 0⟩, 0, 17, 0x5400 :: List.replicate 15 0, 0, List.replicate 16 0, List.replicate 16 Stage.empty, []⟩
def cer : Elem := { ce1 with outs := [[⟨tok 0 1 9, 0⟩], [], [], []] }
def trt : State := { te cer with boxes := [box], actor := .load ⟨0, 0⟩, clock := 1 }
theorem wit_RouteClock : trt.elemAt ⟨0, 0⟩ 0 17 = some cer ∧ box.words = 0x5400 :: List.replicate 15 0 ∧ swReg 0x5400 = false ∧
    swSource 0x5400 = 4 + 0 ∧ swDest 0x5400 = 4 + 1 ∧ box.stage 0 = Stage.empty ∧ cer.out 0 = [⟨tok 0 1 9, 0⟩] ∧
    (tok 0 1 9).rid = ridAt box.rids (4 + 1) ∧ (tok 0 1 9).ftag ≠ 15 ∧ (cer.inq 1).length < 4 := by decide +kernel
theorem test_route : ((run .stageAdvance trt).elem? ⟨0, 0, 0, 17⟩).map (fun e => (e.inq 1, e.out 0)) = some ([tok 0 1 9], []) := by
  decide +kernel

/-- The same with a queue of two places in the word, empty and with a token. -/
def qbox (ts : List Tok) : Box :=
  ⟨⟨0, 0⟩, 0, 17, 0x5490 :: List.replicate 15 0, 0, List.replicate 16 2,
    { Stage.empty with toks := ts } :: List.replicate 15 Stage.empty, []⟩
def tstg (e : Elem) (ts : List Tok) : State := { te e with boxes := [qbox ts], actor := .load ⟨0, 0⟩, clock := 1 }
theorem wit_StageClock : swReg 0x5490 = true ∧ swMode 0x5490 = 1 ∧ ((qbox []).stage 0).toks = [] ∧
    0 < stageCap 0x5490 ((qbox []).depth.getD 0 0) ∧ ((qbox [tok 0 1 9]).stage 0).toks = [tok 0 1 9] ∧ ce1.out 0 = [] ∧
    (ce1.inq 1).length < 4 ∧ cer.ce.checked.getD 1 false = false := by decide +kernel
theorem test_stage : ((run .stageAdvance (tstg cer [])).box? ⟨0, 0⟩ 0 17).map (fun b => (b.stage 0).toks) = some [tok 0 1 9] ∧
    ((run .stageAdvance (tstg ce1 [tok 0 1 9])).elem? ⟨0, 0, 0, 17⟩).map (fun e => e.inq 1) = some [tok 0 1 9] := by decide +kernel

/-- A group of two parts of BX6 (FTAG 11) in tile register 0, before which a DATA token of another format stands; a slot
that a balanced group and a rotating one choose. -/
def mbr (h : Tok) : Elem :=
  { mk 34 [] [] with ins := [[h], [], [], []],
                     mxe := { MxeState.init with
                       t := [{ TReg.unset with st := 2, fmt := 11, rows := 1, cb := 8, fill := 16 }] ++ List.replicate 7 TReg.unset
                       parts := [(2, 0), (0, 0), (0, 0), (0, 0)] } }
theorem wit_PartBreaks : elemAct (tev (mbr (tok 0 4 1))) ⟨0, 0, 0, 34⟩ (mbr (tok 0 4 1)) ∧ (mbr (tok 0 4 1)).halted = false ∧
    (mbr (tok 0 4 1)).front 0 = some (tok 0 4 1) ∧ ((mbr (tok 0 4 1)).mxe.treg 0).st = 2 ∧
    (mbr (tok 0 4 1)).partBreak 1 = false ∧ (mbr (tok 0 4 1)).faultTested 0 = false ∧
    (mbr (tok 0 11 1)).partBreak 0 = false := by unfold elemAct; decide +kernel
/-- R88: the parts go, and a BXPART FAULT stands before the head, which traps. -/
theorem test_part_break : ((run .escapement (tev (mbr (tok 0 4 1)))).elem? ⟨0, 0, 0, 34⟩).map (fun e =>
      ((e.mxe.treg 0).st, (e.mxe.treg 0).fill, (e.brokenAt 0).isSome, e.inq 0)) =
    some (1, 0, true, [tok 0 4 1]) := by decide +kernel
theorem wit_Choices : (cesl 0 [[], [], [], []]).choose (eligible ((cesl 0 [[], [], [], []]).evals 0)) = some (0, (cesl 0 [[], [], [], []]).bal) ∧
    (cebal.choose (eligible (cebal.evals 0))).isSome = true := by decide +kernel

/-- A bank with a request at the head of its queue, a reply that is due and a deferred reply. -/
def spq (op : CrossOp) (used : Nat) : Elem :=
  { sp false with spe := { (sp false).spe with
      crossIn := [⟨⟨0, 0, 0, 3⟩, 4, op, 8, 7, 1, residue 7, 0⟩], used := ⟨0, 0, used, used⟩
      owed := [⟨4, 0, false, 0, true, some (tok 0 1 9), none, 0⟩], replies := [(1, tok 0 1 9)] } }
theorem wit_BankPort : (tev (spq .rd 0)).elem? ⟨0, 0, 0, 1⟩ = some (spq .rd 0) ∧ swf BWord.zero (spq .rd 0).spe.bank = true ∧
    ((spq .rd 0).spe.crossIn.all fun q => (spq .rd 0).spe.crossFree q && decide (q.due ≤ 0)) = true ∧
    ((spq .rd 1).spe.crossIn.any fun q => (spq .rd 1).spe.crossFree q) = false ∧
    ((spq .rd 0).spe.owed.find? fun c => decide (c.cell = 4)).isSome = true ∧
    ((spq .rd 0).spe.owed.all fun c => (spq .rd 0).spe.crossTurn c) = true ∧ (spq .rd 0).spaceFor 0 = true ∧
    ((spq .rd 0).spe.replies.find? fun x => decide (x.1 = 1)) = some (1, tok 0 1 9) ∧ (spq .rd 0).spaceFor 1 = true := by decide +kernel
theorem test_bank_port : ((run .crossRequest (tev (spq .wr 0))).elem? ⟨0, 0, 0, 1⟩).map
      (fun e => (e.spe.now 8, e.spe.crossIn)) = some (bw 7 false, []) ∧
    ((run .crossReservation (tev (spq .wr 0))).elem? ⟨0, 0, 0, 1⟩).map (·.spe.resv.xWrite) = some 1 ∧
    ((run .yieldClock (tev (spq .wr 0))).elem? ⟨0, 0, 0, 1⟩).map (·.spe.wait) = some 4 ∧
    ((run .bankClock (tev (spq .wr 0))).elem? ⟨0, 0, 0, 1⟩).map (·.spe.used) = some Resv.none ∧
    ((run .crossReply { tev (spq .wr 0) with actor := .elemN ⟨0, 0, 0, 1⟩ 4 }).elem? ⟨0, 0, 0, 1⟩).map
      (fun e => ((e.out 0).map (·.tok.pay), e.spe.credits)) = some ([9], 9) ∧
    ((run .deferredReply { tev (spq .wr 0) with actor := .elemN ⟨0, 0, 0, 1⟩ 1 }).elem? ⟨0, 0, 0, 1⟩).map
      (fun e => (e.out 1).map (·.tok.pay)) = some [9] := by decide +kernel

/-! ### Memory ports and memory edges -/

/-- A reply group of the MPE, its next access to be issued, and the element with both. -/
def grp (op : MOp) (cells : List Cell) : RGroup := ⟨5, op, 0, 0, 0, 0x108, 7, 0, 2, cells, false, false, none, false⟩
def iss (op : MOp) (a : Word) : Issue := ⟨5, op, 0, 0, a, 7, 0, false, []⟩
def mpg (op : MOp) (a : Word) (cells : List Cell) : Elem :=
  { mp with mpe := { mp.mpe with issueQ := [iss op a], groups := [grp op cells] } }
def tpn (e : Elem) (n : Nat) : State := { tp0 e with actor := .elemN ⟨0, 0, 0, 0⟩ n, clock := 1 }
/-- Generator 0, which steps 8 bytes, twice, from 0x108. -/
def gen0 : AddrGen := { AddrGen.init with c := [2, 1, 1, 1], s := [8, 0, 0, 0], base := 0x108, st := 1, more := true }
def mpgen : Elem := { mp with mpe := { mp.mpe with ag := [gen0, AddrGen.init] } }
/-- A group whose first reply has arrived. -/
def mpr : Elem := mpg .ld 0x108 [⟨3, .tok (dataTok 14 9), 1, 1⟩]
/-- A gather entry of one requester whose row has returned. -/
def gent : GdeEntry := ⟨7, 0x60108, 3, 0, [⟨⟨0, 0, 0, 0⟩, 5, [3], 0, 0, 0, 14⟩], 0, [.fixed 9], 0⟩
def tgde : State :=
  { tpn (mpg .gld 0x108 [⟨3, .wait, 2, 0⟩]) 5 with
    dies := [{ Die.atReset 0 with gde := [gent] }], actor := .dieN 0 7 }

theorem wit_PortIssues : elemActN (tpn (mpg .ld 0x108 []) 5) ⟨0, 0, 0, 0⟩ 5 (mpg .ld 0x108 []) ∧
    ((mpg .ld 0x108 []).mpe.issueQ.find? fun i => decide (i.gid = 5)) = some (iss .ld 0x108) ∧
    (iss .ld 0x108).born < (tpn (mpg .ld 0x108 []) 5).clock ∧
    ((tpn mp 5).check ⟨0, 0⟩ 0xFFF8 (needRead 8)).cause = 0 ∧ ((tpn mp 5).check ⟨0, 0⟩ 0x20000 (needRead 8)).cause ≠ 0 ∧
    ((tpn mp 5).check ⟨0, 0⟩ 0xFFF8 needWrite).cause = 0 ∧ ((tpn mp 5).check ⟨0, 0⟩ 0x109 needWrite).cause ≠ 0 ∧
    elemActN (tpn mpgen 0) ⟨0, 0, 0, 0⟩ 0 mpgen ∧ (mpgen.mpe.gen 0).st = 1 ∧ (mpgen.mpe.gen 0).more = true ∧
    (mpgen.mpe.gen 0).born < (tpn mpgen 0).clock ∧ 0 < mpgen.mpe.rdCred ∧ mpgen.mpe.ag.length = 2 := by
  unfold elemActN; decide +kernel
theorem wit_PortReplies : elemActN (tpn mpr 5) ⟨0, 0, 0, 0⟩ 5 mpr ∧
    mpr.mpe.group? 5 = some (grp .ld [⟨3, .tok (dataTok 14 9), 1, 1⟩]) ∧ mpr.spaceFor 0 = true ∧
    tgde.die? 0 = some { Die.atReset 0 with gde := [gent] } ∧ gent.got.all RWord.isFixed = true ∧ gent.cause = 0 ∧
    (tgde.elem? ⟨0, 0, 0, 0⟩).bind (fun e => e.mpe.group? 5) = some (grp .gld [⟨3, .wait, 2, 0⟩]) := by
  unfold elemActN; decide +kernel
/-- R258: virtual 0x108 of the slot's run stands at local 0x60108; an address outside it answers a FAULT. R282: the
generator's second address is 8 further. R275: the reply enters O0. R175: the row is delivered. -/
theorem test_port_events :
    (run .accessIssue (tpn (mpg .ld 0x108 []) 5)).accs.map (fun w => (w.op, w.pa)) = [(.read, 0x60108)] ∧
    (run .accessIssue (tpn (mpg .st 0x108 []) 5)).accs.map (fun w => (w.op, w.pa)) = [(.write 7, 0x60108)] ∧
    (run .accessIssue (tpn (mpg .ld 0x20000 []) 5)).accs = [] ∧
    ((run .addressGeneratorIssue (tpn mpgen 0)).elem? ⟨0, 0, 0, 0⟩).map (fun e => (e.mpe.gen 0).addr) = some 0x110 ∧
    ((run .memoryReply (tpn mpr 5)).elem? ⟨0, 0, 0, 0⟩).map (fun e => (e.out 0).map (·.tok.pay)) = some [9] ∧
    ((run .gdeDelivery tgde).die? 0).map (·.gde) = some [] := by decide +kernel

/-- An access at its home, of an op, a class and an address. -/
def acc (op : MemOp) (cls pa : Nat) : Access := 
  ⟨9, ⟨0, 0, 0, 0⟩, 0, 5, 3, op, pa, 0x108, 14, cls, 0, 1, 20, 0, 0, 0, false, false, false⟩
def ta (op : MemOp) (cls pa : Nat) (present : List Nat) : State :=
  { tpn (mpg .ld 0x108 [⟨3, .wait, 1, 0⟩]) 5 with actor := .id 9, accs := [acc op cls pa], presence := present }
theorem wit_AccessesAtHome : (ta .read 0 0x60108 []).acc? 9 = some (acc .read 0 0x60108) ∧
    Memory.wf (ta .read 0 0x60108 []).mem = true ∧ (ta .read 0 0x60108 []).sbHeld (wordOf 0x60108) 8 true = false ∧
    refreshing 1 0x60108 = false ∧ refreshing 1 0x10000000000 = true ∧ (ta .read 0 0x60108 []).isBad 0x60108 = false ∧
    (ta .read 1 0x60108 []).present 0x60108 = false ∧ (ta .read 1 0x60108 [0x60108]).present 0x60108 = true ∧
    (ta .read 1 0x60108 []).deferred (stackOf 0x60108) < 2048 ∧ (ta .read 0 0x60108 []).storeCause 0x60108 = 0 ∧
    (ta .read 0 0x60108 []).storeCause 0x30000000000 ≠ 0 ∧
    ((ta .read 0 0x60108 []).group? ⟨0, 0, 0, 0⟩ 5).map (·.op) ≠ some .rst ∧
    (ta (.atomic .aadd 3 1) 0 0x60108 []).reached (acc .read 0 0x60108).obs 0x60108 = [] ∧
    (ta .read 0 0x60108 []).readHeld (acc .read 0 0x60108).obs 0x60108 = false ∧
    (ta .read 0 0x60108 []).seenWrites (acc .read 0 0x60108).obs 0x60108 = [] ∧
    (acc (.write32 7) 0 0x6010C).pa % 4 = 0 ∧ (ta .read 0 0x60108 []).storeCause (wordOf 0x6010C) = 0 ∧
    { ta .read 0 0x60108 [] with bad := [0x60108] }.isBad (wordOf 0x6010C) = true ∧
    ((ta .read 0 0x60108 []).group? ⟨0, 0, 0, 0⟩ 5).map (fun g => (g.cells.map (·.id), g.dst)) = some ([3], 0) ∧
    (ta .read 0 0x60108 []).opBusy 0 = false ∧
    fld (0x0000000500000007 : Word) 32 32 = fld (0x0000000900000005 : Word) 0 32 ∧
    fld (0x0000000500000007 : Word) 0 32 ≠ fld (0x0000000900000005 : Word) 0 32 ∧
    fld (0x0000000500000007 : Word) 0 32 = fld (0x0000000900000007 : Word) 0 32 ∧
    fld (0x0000000500000007 : Word) 32 32 ≠ fld (0x0000000900000007 : Word) 0 32 := by decide +kernel
/-- R266, R267: a read answers the word, or is deferred; a write sets presence and a second one is not performed; a
clear. R353: AADD in one lane of 64 bits wraps; ACAS puts the new half where the old one is as asked. -/
theorem test_home : (run .memoryEdgeAccess (ta .read 0 0x60108 [])).accs = [] ∧
    ((run .memoryEdgeAccess (ta .read 0 0x60108 [])).group? ⟨0, 0, 0, 0⟩ 5).map (·.cells) =
      some [⟨3, .tok (dataTok 14 0x1122334455667788), 1, 21⟩] ∧
    (run .memoryEdgeAccess (ta .read 1 0x60108 [])).accs.map (·.deferred) = [true] ∧
    (run .memoryEdgeAccess (ta (.write 5) 1 0x60108 [])).presence = [0x60108] ∧
    (run .memoryEdgeAccess (ta (.write 5) 1 0x60108 [])).word 0x60108 = 5 ∧
    (run .memoryEdgeAccess (ta (.write 5) 1 0x60108 [0x60108])).word 0x60108 = 0x1122334455667788 ∧
    (run .memoryEdgeAccess (ta .clear 1 0x60108 [0x60108])).presence = [] ∧
    (run .atomicPerform (ta (.atomic .aadd 0 0xEEDDCCBBAA998879) 0 0x60108 [])).word 0x60108 = 1 ∧
    (atomicNew .acas 1 0x0000000500000007 0x0000000900000007).1 = some 0x0000000500000009 ∧
    (atomicNew .acas 2 0x0000000500000007 0x0000000900000005).1 = some 0x0000000900000007 ∧
    (atomicNew .acas 2 0x0000000500000007 0x0000000900000007) = (none, false) ∧
    (atomicNew .amin 2 0x00000005FFFFFFFF 0xFFFFFFFE00000001).1 = some 0xFFFFFFFEFFFFFFFF ∧
    (atomicNew .amax 2 0x00000005FFFFFFFF 0xFFFFFFFE00000001).1 = some 0x0000000500000001 ∧
    (atomicNew .afadd 0 0x3F80000040000000 0x3F80000000000000).1 = some 0x4000000040000000 ∧
    (run .memoryEdgeAccess (ta (.write32 7) 0 0x6010C [])).word 0x60108 = 0x0000000755667788 ∧
    (run .weightRefreshWindow { ta .read 3 0x10000000000 [] with
      clock := 512, accs := [{ acc .read 3 0x10000000000 with held := true }] }).accs.map (·.held) = [false] := by decide +kernel

/-! ### Task records and scheduling -/

/-- Task record 1 of die 0, of configuration 7, in a state, with COUNT, DEP and PEND. -/
def rec1 (st count dep pend : Nat) (s : State) : State :=
  ((s.putWord 0x30000300080 (BitVec.ofNat 64 (st * 2 ^ 44 + count))).putWord 0x30000300088
    (BitVec.ofNat 64 (dep * 2 ^ 32 + pend))).putWord 0x30000300090 7
/-- Die 0, which owns record 1 or not. -/
def die0 (own : Bool) : Die := { Die.atReset 0 with owned := if own then [1] else [] }
def tr (own : Bool) (st count dep pend : Nat) (a : Actor) : State :=
  rec1 st count dep pend { State.reset with dies := [die0 own], loads := [tl], actor := a, decs := [⟨4, 1, 0, 0⟩] }
/-- A TKEN of record 1 that arrives, or is queued. -/
def tken (h : Nat) (queued : Bool) : AdmReq := ⟨3, .tken, .mpe ⟨0, 0, 0, 0⟩ 5 6, h, 0, 0, 0, 0, 10, queued⟩
def tadm (own : Bool) (count dep pend h : Nat) (queued : Bool) : State :=
  { tr own 0 count dep pend (if queued then .die 0 else .dieN 0 3) with
    dies := [{ die0 own with adm := [tken h queued] }] }
/-- The fabric load with the task of record 1 in slot 0. -/
def slot1 (written : Nat) : SlotX := ⟨1, [], [], 0, 2, written, [], 0, 0, 0, []⟩
def tl1 (written : Nat) : Load := { tl with slots := some (slot1 written) :: List.replicate 7 none }
def tcomp : State := { tr true 3 2 0 0 (.loadN ⟨0, 0⟩ 0) with loads := [tl1 2] }

theorem wit_TaskRecords_decrements : Memory.wf (tr true 1 2 2 0 (.id 4)).mem = true ∧ setWf (die0 true).owned = true ∧
    ((tr true 1 2 2 0 (.id 4)).decs.find? fun d => decide (d.id = 4)) = some ⟨4, 1, 0, 0⟩ ∧
    (tr true 1 2 2 0 (.id 4)).recAddr 1 = some 0x30000300080 ∧ handleDie 1 = 0 ∧
    (tr true 1 2 2 0 (.id 4)).die? 0 = some (die0 true) ∧ (tr true 1 2 2 0 (.id 4)).recBad 1 = false ∧
    (tr true 1 2 2 0 (.id 4)).recState 1 = 1 ∧ (tr true 6 2 2 0 (.id 4)).recState 1 = 6 ∧
    (tr true 1 2 2 0 (.id 4)).trDep 1 = 2 ∧ (tr true 1 2 1 0 (.id 4)).trDep 1 = 1 ∧ (tr true 1 2 1 0 (.id 4)).trErr 1 = 0 ∧
    (tr true 1 2 1 0 (.id 4)).trCount 1 = 2 ∧ (tr true 1 0 1 0 (.id 4)).trCount 1 = 0 ∧
    (∀ k, k < 4 → handleIdx ((tr true 1 0 1 0 (.id 4)).trSucc 1 k) = 0) ∧ (tr false 1 2 2 0 (.id 4)).recState 1 = 0 := by
  decide +kernel
theorem wit_TaskRecords_admission : (tadm false 2 0 0 1 false).die? 0 = some { die0 false with adm := [tken 1 false] } ∧
    ((tadm false 2 0 0 1 true).die? 0).bind (fun x => x.adm.find? fun q => q.queued) = some (tken 1 true) ∧
    256 ≤ ((List.replicate 256 (tken 1 true)).filter fun y => y.queued).length ∧
    (tadm false 2 0 0 0 true).recAddr 0 = none ∧ (tadm true 2 0 0 1 true).ownsH 1 = true ∧
    (tadm false 2 0 0 1 true).ownsH 1 = false ∧ (tadm false 2 0 0 1 true).recBreach 1 = none ∧
    (tadm false 2 0 3 1 true).recBreach 1 = some 8 ∧ (tadm false 2 5 0 1 true).trDep 1 ≠ 0 ∧
    (tadm false 2 0 0 1 true).trDep 1 = 0 ∧ ((tadm false 2 0 0 1 true).die? (handleDie 1)).isSome = true := by decide +kernel
theorem wit_TaskRecords_completion : tcomp.load? ⟨0, 0⟩ = some (tl1 2) ∧ (tl1 2).slots.getD 0 none = some (slot1 2) ∧
    tcomp.trPend 1 = 0 ∧ tcomp.slotDrained ⟨0, 0⟩ 0 = true ∧ tcomp.undisposed ⟨0, 0⟩ 0 = false ∧ tcomp.vote? 1 = none ∧
    tcomp.recBad 1 = false := by decide +kernel
/-- R342: DEP falls; a COUNT of 0 makes the record DONE; a record that waits for none counts a dropped decrement. R356:
TKEN makes it WAITING, and a PEND that is not 0 stands 8 bytes in. R341: the task is DONE. -/
theorem test_task_records : (run .depDecrement (tr true 1 2 2 0 (.id 4))).trDep 1 = 1 ∧
    (run .depDecrement (tr true 1 0 1 0 (.id 4))).trState 1 = 5 ∧
    (run .depDecrement (tr false 0 2 2 0 (.id 4))).dv.syestat = 0x0000000100010001 ∧
    ((run .admissionRequest (tadm false 2 5 0 1 false)).die? 0).map (fun d => d.adm.map (·.queued)) = some [true] ∧
    ((run .admissionRequest (tadm false 2 5 0 1 true)).die? 0).map (fun d => (d.owned, d.adm.length)) = some ([1], 0) ∧
    ((run .admissionRequest (tadm false 2 5 3 1 true)).die? 0).map (·.owned) = some [] ∧
    (run .taskCompletion tcomp).trState 1 = 5 ∧
    (run .taskCompletion tcomp).loads.map (fun x => x.slots) = [List.replicate 8 none] := by decide +kernel

/-- A ready task for the fabric load's one entry, and an entry element. -/
def ent (count : Nat) (reqs : List (Nat × Nat)) (buf : List Word) : EntryQ := ⟨0, 0, 1, 0, count, reqs, buf, 0⟩
def tle (q : EntryQ) : Load := { tl1 0 with entries := [q] }
def tready : State :=
  { tr true 2 2 0 0 (.die 0) with
    loads := [{ tl with entries := [ent 0 [] []] }], dies := [{ die0 true with ready := [⟨1, 0, 0, 0, []⟩] }] }
def tdisp : State :=
  { tready with dies := [{ die0 true with disp := some ⟨1, ⟨0, 0⟩, 0, 0, [], slot1 0⟩ }] }
/-- The same with a ready task of a configuration that no fabric load serves, and a tile 0 that is the die's installer. -/
def tchoice : State := { tready with loads := [], seqs := [Seq.atReset 0] }
def tent (q : EntryQ) : State := { tr true 3 2 0 0 (.loadN ⟨0, 0⟩ 0) with loads := [tle q], elems := [mp] }

theorem wit_TaskScheduling_dispatch : Memory.wf tready.mem = true ∧
    (tready.die? 0).bind (fun d => (tready.chooseTask d).map fun p => (p.1.handle, p.2.ref)) = some (1, ⟨0, 0⟩) ∧
    (tready.die? 0).bind (·.disp) = none ∧ handleDie 1 = 0 ∧ tready.recBad 1 = false ∧ tready.trEntry 1 < 1 ∧
    (tready.windows 1 (tready.translate 1)).1.cause = 0 ∧ (tready.windows 1 (tready.translate 1)).1.runs = [] ∧
    (tdisp.die? 0).bind (·.disp) = some ⟨1, ⟨0, 0⟩, 0, 0, [], slot1 0⟩ ∧ tdisp.weightHeld (slot1 0) = false ∧
    tdisp.load? ⟨0, 0⟩ = some { tl with entries := [ent 0 [] []] } ∧ tdisp.vote? 1 = none ∧
    tdisp.recAddr 1 = some 0x30000300080 ∧
    (tchoice.die? 0).bind (fun d => (tchoice.chooseConfig d).map (·.cfgid)) = some 7 ∧
    tchoice.installer 0 = some 0 ∧ tchoice.seq? 0 = some (Seq.atReset 0) := by decide +kernel
theorem wit_TaskScheduling_threads : (tent (ent 0 [] [])).load? ⟨0, 0⟩ = some (tle (ent 0 [] [])) ∧
    (tle (ent 0 [] [])).mayWrite 0 = true ∧ nextTurn 0 ((tle (ent 0 [] [])).feeding 0) = some 0 ∧
    (ent 2 [] []).mayAsk = true ∧ (ent 2 [(0, 2)] []).reqs = (0, 2) :: [] ∧ (ent 0 [] [9]).buf = 9 :: [] ∧
    (tent (ent 0 [] [9])).elem? ⟨0, 0, 0, 0⟩ = some mp ∧ mp.space 1 = true := by decide +kernel
/-- R345, R350, R351: the task takes slot 0; payload 0 of slot 0 is 0, and payload 1 is 1; a request fetches what is in
the ring 30 clocks later; a payload enters the entry output. R346: the configuration and its event. -/
theorem test_scheduling : ((run .dispatch tready).die? 0).bind (fun d => d.disp.map fun p => (p.handle, p.slot)) = some (1, 0) ∧
    (run .dispatch tdisp).trState 1 = 3 ∧ (run .dispatch tdisp).trPend 1 = 2 ∧
    (run .dispatch tdisp).loads.map (fun x => x.slots.map fun t => t.map (·.handle)) = [some 1 :: List.replicate 7 none] ∧
    ((run .configurationChoice tchoice).die? 0).map (·.csreq) = some 7 ∧
    ((run .configurationChoice tchoice).seq? 0).map (·.evpend) = some 1 ∧
    (run .threadTokenWrite (tent (ent 1 [] []))).loads.map (fun x => x.entries.map (·.count)) = [[2]] ∧
    (run .refillRequest (tent (ent 2 [] []))).loads.map (fun x => x.entries.map (·.reqs)) = [[[(30, 2)]]] ∧
    (run .refillReturn ((tent (ent 2 [(0, 2)] [])).putWord 0x30000000008 5)).loads.map
      (fun x => x.entries.map fun q => (q.buf, q.head, q.count)) = [[([0, 5], 2, 0)]] ∧
    ((run .entryEmit (tent (ent 0 [] [9]))).elem? ⟨0, 0, 0, 0⟩).map (fun e => (e.out 1).map fun x => (x.tok.ctag, x.tok.pay)) =
      some [(0, 9)] := by decide +kernel

/-! ### Engines and arbors -/

/-- The task of record 1 (COUNT 2, PEND 1) in slot 0, which maps virtual 0 to 0xFFFF; at 0x200 a block that copies the
doubleword at 0x108 to 0x400; at 0x1000 an arbor of two dimensions of 16 bits with keys 0x10002 and 0x20001 and values 5
and 6; at 0x500 the U32 values 3 and 1. -/
def meng : List Host.Cell :=
  [(0x60108, 0x88), (0x60109, 0x77), (0x6010a, 0x66), (0x6010b, 0x55), (0x6010c, 0x44), (0x6010d, 0x33), (0x6010e,
   0x22), (0x6010f, 0x11), (0x60201, 0x4), (0x60208, 0x8), (0x60209, 0x1), (0x60210, 0x8), (0x60500, 0x3), (0x60504,
   0x1), (0x61000, 0x4), (0x61003, 0x1), (0x61004, 0x10), (0x61005, 0x4), (0x61007, 0xc5), (0x61008, 0x2), (0x6100c,
   0x1), (0x61010, 0x2), (0x61014, 0x2), (0x61106, 0x2), (0x61107, 0x40), (0x61110, 0x5), (0x61114, 0x2), (0x61116,
   0x1), (0x61118, 0x6), (0x6111c, 0x1), (0x6111e, 0x2), (0x30000300080, 0x2), (0x30000300085, 0x30), (0x30000300088,
   0x1), (0x30000300090, 0x7)]
def teng (e : Elem) (a : Actor) : State :=
  { State.reset with
    loads := [{ tl with slots := some { slot1 2 with runs := [runMap] } :: List.replicate 7 none }]
    elems := [e], dies := [die0 true], actor := a, mem := meng, clock := 1 }
/-- A copy whose block is read: at 0x200, or zeros. -/
def gcpy (a : Word) : List (Nat × Nat × Word) :=
  [(0, 0, if a = 0x200 then 0x400 else 0), (1, 0, if a = 0x200 then 0x108 else 0), (2, 0, if a = 0x200 then 8 else 0), (3, 0, 0)]
def icpy (a : Word) : Issue := ⟨5, .cpy, 0, 0, a, 0, 0, false, gcpy a⟩
def mpc (a : Word) : Elem := { mp with mpe := { mp.mpe with issueQ := [icpy a], groups := [grp .cpy []] } }
/-- A command of the task: its op, state, block and bytes. -/
def cmd1 (op : MOp) (st : Nat) (b : List Word) (len : Nat) : Cmd :=
  { id := 9, die := 0, op := op, ref := ⟨0, 0, 0, 0⟩, gid := 5, cell := 3, slot := 0, task := 1, handle := 0, blk := b,
    blkVa := 0x200, blkPa := 0x60200, st := st, srcs := [⟨0x60108, 8⟩], dsts := [⟨0x60400, 8⟩], len := len, done := 0,
    cause := 0, due := 0, hdr := 0x61000, size := 0x9000, words := [],
    next := 0, fail := none, snap := [], ents := [], key := none, planned := false, spots := [], phases := [] }
def bcpy : List Word := [0x400, 0x108, 8, 0]
def bdens : List Word := [0x1000, 0x400, 0x0001000300010001, 0]
def bcve : List Word := [0x0140000000000000, 0x500, 0x600, 0x0000000200000001, 0x0000000800000008, 0, 0, 0]
def tcmd (c : Cmd) : State := { teng mp (.id 9) with cmds := [c] }
def ccve : Cmd := cmd1 .cve 1 bcve 0
def ccve1 (ps : List (List (Nat × Word))) : Cmd := { ccve with planned := true, phases := ps }

theorem wit_Engines_commands : elemActN (teng (mpc 0x200) (.elemN ⟨0, 0, 0, 0⟩ 5)) ⟨0, 0, 0, 0⟩ 5 (mpc 0x200) ∧
    ((mpc 0x200).mpe.issueQ.find? fun i => decide (i.gid = 5)) = some (icpy 0x200) ∧ isCommand .cpy = true ∧
    (teng (mpc 0x200) (.id 9)).blockRead (mpc 0x200) (icpy 0x200) = true ∧
    (teng (mpc 0x200) (.id 9)).blockRead (mpc 0x200) { icpy 0x200 with got := [] } = false ∧
    (teng (mpc 0x200) (.id 9)).blockHeld (mpc 0x200) 0x60200 = false ∧
    (tcmd (cmd1 .cpy 0 bcpy 8)).landing (cmd1 .cpy 0 bcpy 8) = false ∧
    (tcmd (cmd1 .cpy 0 bcpy 8)).walkerWrites (cmd1 .cpy 0 bcpy 8) = false ∧
    (match (teng (mpc 0x200) (.id 9)).checkBlock (mpc 0x200) (icpy 0x200) with
      | .queue pa b ss ds => pa == 0x60200 && b == bcpy && ss == [⟨0x60108, 8⟩] && ds == [⟨0x60400, 8⟩]
      | _ => false) = true ∧
    (match (teng (mpc 0x240) (.id 9)).checkBlock (mpc 0x240) (icpy 0x240) with
      | .status code info => code == 4 && info == 0x10
      | _ => false) = true ∧
    (teng (mpc 0x240) (.id 9)).group? ⟨0, 0, 0, 0⟩ 5 = some (grp .cpy []) ∧
    (tcmd (cmd1 .cpy 0 bcpy 8)).cmd? 9 = some (cmd1 .cpy 0 bcpy 8) ∧
    Memory.wf (tcmd (cmd1 .cpy 0 bcpy 8)).mem = true ∧
    (tcmd (cmd1 .cpy 0 bcpy 8)).sbFree (cmd1 .cpy 0 bcpy 8) = true ∧
    (tcmd (cmd1 .cpy 0 bcpy 8)).sbConflict (cmd1 .cpy 0 bcpy 8) = false ∧
    (tcmd (cmd1 .cpy 0 bcpy 8)).recAddr 1 = some 0x30000300080 ∧ (tcmd (cmd1 .cpy 0 bcpy 8)).trPend 1 = 1 ∧
    ((tcmd (cmd1 .cpy 2 bcpy 8)).cmdPa (cmd1 .cpy 2 bcpy 8) 0x218).toOption = some 0x60218 ∧
    (tcmd (cmd1 .cpy 2 bcpy 8)).storeCause 0x60218 = 0 := by unfold elemActN; decide +kernel
def ccpy : Cmd := cmd1 .cpy 1 bcpy 8
/-- The word of the copy as its chunk starts, read, and written. -/
def wcpy (v : Option Word) (d : Bool) : CopyWord := ⟨0, 0x108, 0x60108, 0x400, 0x60400, v, d⟩
def cdens : Cmd := { cmd1 .densS 1 bdens 12 with key := some 0x10001 }
def cdens1 : Cmd :=
  { cdens with planned := true, key := none, ents := [(0x10002, 5)], spots := [(0x400, 0x60400), (0x408, 0x60408)] }
/-- The conversion with its source word read. -/
def ccveS : Cmd := { ccve with snap := [⟨0x500, 0, 0x0000000100000003⟩] }
theorem wit_Engines_work : (tcmd ccpy).served ccpy = true ∧ (tcmd ccpy).copyStart ccpy = { ccpy with words := [wcpy none false], next := 1 } ∧
    ((tcmd ccpy).copyWords ccpy).toOption = some [wcpy none false] ∧ ([wcpy none false].map (·.srcVa)).Nodup ∧
    (match (tcmd { ccpy with blk := [0x20000, 0x108, 8, 0] }).copyWords { ccpy with blk := [0x20000, 0x108, 8, 0] } with
      | .error x => x == Cause.extent
      | .ok _ => false) = true ∧
    (tcmd ccpy).sourceHeld 0 0x60108 = false ∧ (tcmd ccpy).isBad 0x60108 = false ∧ (tcmd ccpy).mayFail 0x60400 = false ∧
    ((tcmd cdens).cmdPa cdens 0x1000).toOption = some 0x61000 ∧
    ((0x1000 :: cdens.densVas).mapM ((tcmd cdens).cmdPa cdens)).toOption = some [0x61000, 0x60400, 0x60408] ∧
    (match readArb (tcmd cdens) 0x61000 0x9000 with
      | .ok t => (match t.step 0x10001 0x10003 with | .ok (es, _) => es == [(0x10002, 5)] | .error _ => false)
      | .error _ => false) = true ∧
    cdens1.ents.all (fun p => decide (p.2 < 2 ^ 32)) = true ∧ ccve.sources (cveF bcve) = [0x500] ∧ ccveS.cvePlan.2 = 0 := by
  decide +kernel
/-- Words of a chunk whose places its runs give: one word, and one whose place is a task record of the queue's kind. -/
theorem wit_Engines_chunk : (match (tcmd { ccve with spots := [(0x600, 0x60600)] }).putChunk
        { ccve with spots := [(0x600, 0x60600)] } [(0x600, 7)] [0] with
      | .ok (s1, left) => s1.word 0x60600 == 7 && left.isEmpty
      | .error _ => false) = true ∧
    (tcmd ccve).risky [(0x600, 0x60600)] = false ∧ (tcmd ccve).risky [(0x600, 0x30000000000)] = true ∧
    (match (tcmd { ccve with spots := [(0x600, 0x30000000000)] }).putChunk
        { ccve with spots := [(0x600, 0x30000000000)] } [(0x600, 7)] [0] with
      | .ok _ => false
      | .error x => x == Cause.eqarea) = true := by decide +kernel
/-- R390: the word of a copy as it is read, and as it is written, which ends the copy's only chunk. -/
theorem test_copy : ((tcmd ccpy).copyReads { ccpy with words := [wcpy none false], next := 1 }).words =
      [wcpy (some 0x1122334455667788) false] ∧
    ((tcmd ccpy).copyWrites { ccpy with words := [wcpy (some 7) false], next := 1 }).1.word 0x60400 = 7 ∧
    ((tcmd ccpy).copyWrites { ccpy with words := [wcpy (some 7) false], next := 1 }).2.done = 8 := by
  have h0 : (List.filter (fun w => w.val.isNone) [wcpy none false]).length = 1 := by decide
  have h1 : (List.filter (fun w => !w.done) (List.filter (fun w => decide (w.chunk = ccpy.done / 256))
      [wcpy (some 7) false])).length = 1 := by decide
  refine ⟨?_, ?_, ?_⟩
  · simp only [State.copyReads, h0, State.actNow_one]
    decide +kernel
  · simp only [State.copyWrites, h1, State.actNow_one]
    decide +kernel
  · simp only [State.copyWrites, h1, State.actNow_one]
    decide +kernel
/-- R386: the command is queued, and a block of zeros is in breach at byte 0x10; R387: PEND 2 at acceptance; R391: the
RESULT of 8 bytes and PEND 0 at the end; R390, R394, R397: what the commands write. -/
theorem test_engines : (run .commandBlockCheck (teng (mpc 0x200) (.elemN ⟨0, 0, 0, 0⟩ 5))).cmds.map
      (fun c => (c.op, c.srcs, c.dsts, c.task)) = [(.cpy, [⟨0x60108, 8⟩], [⟨0x60400, 8⟩], 1)] ∧
    ((run .commandBlockCheck (teng (mpc 0x240) (.elemN ⟨0, 0, 0, 0⟩ 5))).group? ⟨0, 0, 0, 0⟩ 5).map
      (fun g => g.cells.map (·.r)) = some [.tok (statusTok 4 0x10)] ∧
    (run .commandAcceptance (tcmd (cmd1 .cpy 0 bcpy 8))).trPend 1 = 2 ∧
    (run .commandEnd (tcmd { cmd1 .cpy 2 bcpy 8 with done := 8 })).word 0x60218 = 0x0000010000000008 ∧
    (run .commandEnd (tcmd { cmd1 .cpy 2 bcpy 8 with done := 8 })).trPend 1 = 0 ∧
    (run .densChunk (tcmd cdens)).cmds.map (·.planned) = [true] ∧
    (run .densChunk (tcmd { cdens with planned := true })).cmds.map (fun c => (c.ents, c.key)) =
      [([(0x10002, 5)], none)] ∧
    (run .densChunk (tcmd cdens1)).cmds.map (·.phases) = [[[(0x400, 0x0000000500000000), (0x408, 0)]]] ∧
    (run .conversionPhase (tcmd ccveS)).cmds.map (·.phases) = [[[(0x600, 0x3F80000040400000)]]] := by decide +kernel

def tarb (op : MOp) (k v : Nat) : State :=
  { teng (mpg .ald 0x1000 [⟨3, .wait, 1, 0⟩]) (.id 9) with accs := [{ acc (.arbor op k v 0x9000) 2 0x61000 with taken := true }] }
def trav (form : Nat) : Trav := ⟨5, 3, 0x1000, 0x61000, 0x9000, 0, 0xFFFFFFFF, none, form, true, 0, 0, 0x1000, true⟩
def mpt (form : Nat) : Elem := { mp with mpe := { mp.mpe with groups := [grp .aiter []], travs := [trav form] } }
def ttrav (form hi : Nat) : State :=
  let e := mpt form
  teng { e with mpe := { e.mpe with travs := [{ trav form with hi := hi }] } } (.elemN ⟨0, 0, 0, 0⟩ 5)
theorem wit_ArborSteps : (tarb .ald 0x10002 0).acc? 9 = some { acc (.arbor .ald 0x10002 0 0x9000) 2 0x61000 with taken := true } ∧
    (tarb .ald 0x10002 0).arborBusy 0x61000 false = false ∧ (tarb .ald 0x10002 0).walkerFree 0 = true ∧
    { tarb .ald 0x10002 0 with dies := [{ die0 true with walkAt := 1, walkN := 2 }] }.walkerFree 0 = false ∧
    (tarb .ald 0x10002 0).arborHeld 0x61000 .ast = false ∧
    (match readArb (tarb .ald 0x10002 0) 0x61000 0x9000 with
      | .ok t => (t.find 0x10002).isOk && (t.store 0x10003 8).isOk && (t.store 0x10002 (t.add 5 8)).isOk
      | .error _ => false) = true ∧
    (match readArb (tarb .ald 0x10002 0) 0x60000 0x9000 with | .ok _ => false | .error _ => true) = true ∧
    elemActN (teng (mpt 0) (.elemN ⟨0, 0, 0, 0⟩ 5)) ⟨0, 0, 0, 0⟩ 5 (mpt 0) ∧ (mpt 0).mpe.trav? 5 = some (trav 0) ∧
    (mpt 0).mpe.group? 5 = some (grp .aiter []) ∧
    (match readArb (teng (mpt 0) (.elemN ⟨0, 0, 0, 0⟩ 5)) 0x61000 0x9000 with
      | .ok t => (match t.step 0 0xFFFFFFFF with
        | .ok (es, stop) => es == [(0x10002, 5), (0x20001, 6)] && stop
        | .error _ => false)
      | .error _ => false) = true := by unfold elemActN; decide +kernel
/-- R321: the walker accepts two operations in a clock. -/
theorem test_walker : (run .arborPoint { tarb .ald 0x10002 0 with accs := [acc (.arbor .ald 0x10002 0 0x9000) 2 0x61000] }).accs.map (·.taken) =
      [true] ∧
    ((run .traversalStep { ttrav 0 0xFFFFFFFF with
      elems := [{ mpt 0 with mpe := { (mpt 0).mpe with travs := [{ trav 0 with taken := false }] } }] }).elem? ⟨0, 0, 0, 0⟩).map
        (fun e => e.mpe.travs.map (·.taken)) = some [true] := by decide +kernel
/-- R322, R325, R326: a lookup, a store of a third key, a store of zero, which removes
its key, a count of free nodes and entries, and a traversal to its end. -/
theorem test_arbors :
    ((run .arborPoint (tarb .ald 0x10002 0)).group? ⟨0, 0, 0, 0⟩ 5).map (fun g => g.cells.map (·.r)) =
      some [.tok (coordTok 0x10002 5)] ∧
    (match readArb (tarb .ald 0x10002 0) 0x61000 0x9000 with
      | .ok t => (match t.store 0x10003 8 with | .ok x => some x.nodes | .error _ => none)
      | .error _ => none) = some [(1, ⟨1, 0, 0, [(0x10002, 5), (0x10003, 8), (0x20001, 6)]⟩)] ∧
    (match readArb (tarb .ald 0x10002 0) 0x61000 0x9000 with
      | .ok t => (match t.store 0x10002 0 with | .ok x => some x.nodes | .error _ => none)
      | .error _ => none) = some [(1, ⟨1, 0, 0, [(0x20001, 6)]⟩)] ∧
    ((run .arborPoint (tarb .acntH 0 0)).group? ⟨0, 0, 0, 0⟩ 5).map (fun g => g.cells.map (·.r)) =
      some [.tok (dataTok 0 0x0000000200000002)] ∧
    ((run .traversalStep (ttrav 0 0xFFFFFFFF)).group? ⟨0, 0, 0, 0⟩ 5).map (fun g => g.cells.map (·.r)) =
      some [.tok (coordTok 0x10002 5), .tok (coordTok 0x20001 6), .tok (endTok 0)] := by decide +kernel

/-! ### The domain -/

/-- A request of package 9 for the doubleword at local 0x60108. -/
def req (op : RemOp) (cls : Nat) : RemReq := ⟨9, 0x1FFF, 4, 0, op, 0x60108, cls, 7⟩
def trq (op : RemOp) (cls : Nat) (present : List Nat) : State :=
  { tsq tq with actor := .req (req op cls), mem := [(0x60108, 0x88), (0x6010F, 0x11)], presence := present }
/-- A load of this package that is outstanding, and its reply. -/
def rem1 : Remote := ⟨4, ⟨0, 0, 0, 0⟩, 0, 0x60108, 0, 0, 0, 0, 0, 5, 0, 9, .rld [3], 0x108, 14, 50⟩
def trm (a : Actor) (c : Nat) : State :=
  { tpn (mpg .rld 0x108 [⟨3, .wait, 1, 0⟩]) 5 with remotes := [rem1], actor := a, clock := c }
def rp : RemRep := ⟨0x1FFF, 4, 0, [(9, residue 9)]⟩
def tport (pkg n : Nat) : State :=
  { tsq tq with actor := .id n, ports := [2, 5], dv := { Dv.atReset 0 with pkgnum := pkg } }

theorem wit_RemoteMemory_requests : (trq .probe 0 []).actor = .req (req .probe 0) ∧ (trq .probe 0 []).dv.pstate = 0 ∧
    Memory.wf (trq .probe 0 []).mem = true ∧ (req (.read 1) 0).inc = (trq .probe 0 []).dv.incarn.toNat ∧
    { req (.read 1) 0 with inc := 3 }.inc ≠ (trq .probe 0 []).dv.incarn.toNat ∧
    (∀ a ∈ (req (.read 1) 0).words, regionOf a 8 ≠ .none ∧ allowedAt a 0 = true) ∧ allowedAt 0x10000000000 0 = false ∧
    regionOf 0x10000000000 8 = .weight ∧ (trq .write 0 []).reading? (req .write 0) = none ∧
    (∃ a ∈ { req .write 0 with addr := 0x6000000000 }.words, regionOf a 8 = .none) ∧
    (trq (.read 1) 0 []).reqHeld (req (.read 1) 0) = false ∧
    (∀ a ∈ (req (.read 1) 1).words, (trq (.read 1) 1 [0x60108]).isBad a = false ∧
      (trq (.read 1) 1 [0x60108]).present a = true) ∧
    (trq .write 0 []).storeCause 0x60108 = 0 ∧ (trq .write 1 [0x60108]).present 0x60108 = true ∧
    (trq (.atomic 0 0) 0 []).isBad 0x60108 = false := by decide +kernel
theorem wit_RemoteMemory_replies : ((trm (.rep rp) 1).remotes.find? fun y => decide (y.tag = 4)) = some rem1 ∧ rp.tag = 4 ∧
    rem1.limit ≤ (trm (.id 4) 50).clock ∧ (trm (.id 4) 49).clock < rem1.limit ∧ rem1.what = .rld [3] ∧
    (trm (.rep rp) 1).group? ⟨0, 0, 0, 0⟩ 5 = some (grp .rld [⟨3, .wait, 1, 0⟩]) ∧ rp.cause = 0 ∧
    rp.words = [(9, residue 9)] ∧ setWf (tport 7 3).ports = true ∧ (tport 7 3).dv.pkgnum ≠ 0x1FFF ∧
    (tport 0x1FFF 3).dv.pkgnum = 0x1FFF := by decide +kernel
/-- R405, R406, R409, R410, R412, R400: what a request is answered, a late reply, and ports. -/
theorem test_remote : (run .remoteRequest (trq .probe 0 [])).out = [.rep ⟨9, 4, 0, [(0, residue 0)]⟩] ∧
    (run .remoteRequest (trq (.read 1) 2 [])).out = [.rep ⟨9, 4, Cause.cls, []⟩] ∧
    (run .remoteRequest (trq .write 0 [])).word 0x60108 = 7 ∧
    (run .remoteRequest (trq .write 1 [0x60108])).out = [.rep ⟨9, 4, Cause.presenceRewrite, []⟩] ∧
    (run .remoteRequest (trq (.atomic 0 0) 0 [])).word 0x60108 = 0x110000000000008F ∧
    ((run .remoteReply (trm (.rep rp) 1)).group? ⟨0, 0, 0, 0⟩ 5).map (·.cells) = some [⟨3, .tok (dataTok 14 9), 1, 2⟩] ∧
    ((run .remoteTimeout (trm (.id 4) 50)).group? ⟨0, 0, 0, 0⟩ 5).map (·.cells) =
      some [⟨3, .tok (faultTok Cause.remoteTimeout 0), 1, 51⟩] ∧
    (run .portDown (tport 7 5)).ports = [2] ∧ (run .portUp (tport 7 3)).ports = [2, 3, 5] ∧
    (run .portUp (tport 0x1FFF 3)).ports = [2, 5] := by decide +kernel

/-- Group 3 of two members: an entry of the role given, D 10, DC 20, parent port 4, children 5 and 6. -/
def gent3 (role : Nat) : GroupEnt :=
  ⟨3, BitVec.ofNat 64 (2 ^ 63 + role * 2 ^ 61 + 2 * 2 ^ 43 + 10), BitVec.ofNat 64 (20 * 2 ^ 44 + 4 * 2 ^ 25),
    [⟨5, 0, 1, 1⟩, ⟨6, 1, 1, 2⟩]⟩
/-- A contribution of F32 values 1 and 2 (or 1 and 3) by the child of a node. -/
def pk (kind node mbase : Nat) (v : Word) : Packet := ⟨kind, 0, 0, 4, 0, 2, 3, node, 0, mbase, 1, 1, [(v, residue v)], 1⟩
def pk5 : Packet := pk 0 5 0 0x3F80000040000000
def pk6 : Packet := pk 0 6 1 0x3F80000040400000
def ins (v : Option (List Word)) (bits : Nat) : Inst := ⟨3, 2, 0, 4, 0, 0, [⟨v, bits, 0⟩, ⟨none, 0, 0⟩], none, false, false⟩
def ins1 : Inst := ins (some [0x3F80000040000000]) 1
def tnode (x : Inst) (a : Actor) (clk : Nat) : State :=
  { State.reset with groups := [gent3 1], ports := [4], insts := [x], actor := a, linkClk := List.replicate 18 clk }

theorem wit_ReductionNodes : (∀ w ∈ pk6.payload, residue w.1 = w.2) ∧
    (tnode ins1 (.packet pk6) 0).actor = .packet pk6 ∧ pk6.kind ≤ 5 ∧ pk6.op ≤ 1 ∧
    5 < { pk6 with kind := 6 }.kind ∧
    (∃ w ∈ { pk6 with payload := [(7, 0)] }.payload, residue w.1 ≠ w.2) ∧
    (tnode ins1 (.packet pk6) 0).groupEnt 9 = none ∧ (tnode ins1 (.packet pk6) 0).groupEnt 3 = some (gent3 1) ∧
    pk6.dir ≠ 1 ∧ (gent3 1).role = 1 ∧ (tnode ins1 (.packet pk6) 0).kidOf (gent3 1) pk6 = some 1 ∧
    (tnode ins1 (.packet pk6) 0).inst? 3 2 = some ins1 ∧ ins1.released = false ∧ ins1.sent = none ∧
    ins1.expired = false ∧ (gent3 1).pport ∈ (tnode ins1 (.packet pk6) 0).ports ∧
    (tnode (ins none 0) (.packet pk5) 0).kidOf (gent3 1) pk5 = some 0 ∧
    { ins none 0 with kids := (ins none 0).kids.set 0 ⟨some [7], 1, 0⟩ }.accounted (gent3 1) = false ∧
    { ins1 with kids := ins1.kids.set 1 ⟨some [7], 1, 0⟩ }.accounted (gent3 1) = true ∧
    { ins1 with kids := ins1.kids.set 1 ⟨some [7], 1, 0⟩ }.vals ≠ [] ∧
    { ins1 with kids := ins1.kids.set 1 ⟨some [7], 1, 0⟩ }.union (gent3 1) (·.miss) = 0 ∧
    (gent3 1).d ≤ (tnode ins1 (.inst 3 2) 10).instAge (gent3 1) ins1 ∧ ins1.vals ≠ [] ∧ (ins none 0).vals = [] ∧
    (gent3 1).dc ≤ (tnode ins1 (.inst 3 2) 20).instAge (gent3 1) ins1 := ⟨List.forall_mem_singleton.mpr rfl, by decide +kernel⟩
/-- R417, R418: the sum 1 + 1 and 2 + 3 goes up as FINAL of both members; a deadline sends PARTIAL of the one that is
there; the close deadline sends CLOSE of the members whose value is missing. -/
theorem test_nodes : (run .reductionPacket (tnode ins1 (.packet pk6) 0)).out =
      [.packet 4 (Packet.words ⟨1, 0, 0, 4, 0, 2, 3, 0x1FFF, 0, 0, 2, 2, [(0x4000000040A00000, residue 0x4000000040A00000)], 3⟩)] ∧
    (run .reductionPacket (tnode (ins none 0) (.packet pk5) 0)).out = [] ∧
    (run .reductionPacket (tnode ins1 (.packet { pk6 with payload := [(7, 0)] }) 0)).dv.drbad = 1 ∧
    (run .deadlineExpiry (tnode ins1 (.inst 3 2) 10)).out =
      [.packet 4 (Packet.words ⟨2, 0, 0, 4, 0, 2, 3, 0x1FFF, 0, 0, 2, 1, [(0x3F80000040000000, residue 0x3F80000040000000)], 1⟩)] ∧
    (run .deadlineExpiry (tnode ins1 (.inst 3 2) 9)).out = [] ∧
    (run .closeDeadlineExpiry (tnode { ins1 with sent := some 0 } (.inst 3 2) 20)).out =
      [.packet 4 (Packet.words ⟨4, 0, 0, 4, 0, 2, 3, 0x1FFF, 0, 0, 2, 1, [], 2⟩)] ∧
    (run .groupTableWrite { tnode ins1 (.table 3 [0xFFFFFFFFFFFFFFFF, 0xFFFFFFFFFFFFFFFF]) 0 with groups := [] }).groups.map
      (fun g => (g.w0, g.w1)) = [(0xFFFFFFFFC00FFFFF, 0xFFFFFFFFFFFFFF00)] ∧
    (run .groupTableWrite (tnode ins1 (.table 3 [0, 0]) 0)).insts = [] := by decide +kernel

/-- A reduction command at the head of its die's queue, and receive place 0, armed for the instance or not. -/
def cred (op : MOp) (st : Nat) : Cmd := cmd1 op st [BitVec.ofNat 64 (3 * 2 ^ 52 + 2 * 2 ^ 36 + 4 * 2 ^ 30), 0x108, 0, 0] 0
/-- The contribution's command with its word read. -/
def csnap (op : MOp) : Cmd := { cred op 1 with snap := [⟨0x108, 0, 0x1122334455667788⟩] }
def plc (st : Nat) (form : Bool) : Place :=
  { Place.free with
    st := st, group := 3, seq := 2, form := form, dst := [⟨0x60400, 8⟩], map := [⟨0x60408, 8⟩], res := 0x60410, m := 2
    fmt := 4 }
def tred (op : MOp) (st : Nat) (p : Place) (a : Actor) : State :=
  { teng mp a with
    cmds := [cred op st], dies := [{ die0 true with redQ := [9] }], groups := [gent3 0], ports := [4],
    places := p :: List.replicate 63 Place.free }
def pkr (kind count bits : Nat) : Packet := ⟨kind, 1, 0, 4, 0, 2, 3, 8, 0, 0, 2, count, [(7, residue 7)], bits⟩
/-- A receive that finalises, its words written. -/
def pfin : Place := { plc 3 false with val := some (pkr 1 2 3) }
theorem wit_ReductionMembers_finalise : (tred .dred 0 pfin (.id 0)).places[0]? = some pfin ∧ pfin.todo = [] ∧
    handleIdx pfin.handle = 0 ∧ (tred .dred 0 pfin (.id 0)).storeCause pfin.res = 0 ∧
    (tred .dred 0 pfin (.id 0)).mayFail 0x60400 = false ∧ (tred .dred 0 pfin (.id 0)).mayFail 0x30000000000 = true ∧
    (tred .dred 0 pfin (.id 0)).storeCause 0x30000000000 ≠ 0 := by decide +kernel
theorem wit_ReductionMembers_commands : (tred .dred 0 Place.free (.die 0)).die? 0 = some { die0 true with redQ := [9] } ∧
    ({ die0 true with redQ := [9] } : Die).redQ.head?.bind (tred .dred 0 Place.free (.die 0)).cmd? = some (cred .dred 0) ∧
    (cred .dred 0).due ≤ 1 ∧ rbGroup (cred .dred 0).blk = 3 ∧ rbSeq (cred .dred 0).blk = 2 ∧
    (tred .drclose 0 Place.free (.die 0)).placeOf 3 2 1 = none ∧
    (tred .drclose 0 (plc 1 false) (.die 0)).placeOf 3 2 1 = some 0 ∧
    (tred .drclose 0 Place.free (.die 0)).placeOf 3 2 2 = none ∧
    (tred .drrecvR 0 Place.free (.die 0)).freePlace = some 0 ∧
    (tred .drcloseW 0 Place.free (.die 0)).groupEnt 3 = some (gent3 0) ∧ (gent3 0).role = 0 ∧
    (gent3 0).pport ∈ (tred .drcloseW 0 Place.free (.die 0)).ports ∧
    dredVas (cred .dred 1) = [0x108] ∧
    ((dredVas (cred .dred 1)).mapM (csnap .dred).read).toOption = some [0x1122334455667788] := by
  decide +kernel
theorem wit_ReductionMembers_packets : (tred .dred 0 (plc 1 true) (.packet (pkr 2 1 1))).placeOf 3 2 1 = some 0 ∧
    (tred .dred 0 (plc 2 true) (.packet (pkr 2 1 1))).placeOf 3 2 2 ≠ none ∧
    (tred .dred 0 Place.free (.packet (pkr 2 1 1))).placeOf 3 2 2 = none ∧
    (tred .dred 0 Place.free (.packet (pkr 2 1 1))).unclaimed.length < 16 ∧
    (tred .dred 0 (plc 1 true) (.packet (pkr 2 1 1))).places.getD 0 Place.free = plc 1 true ∧
    (pkr 2 1 1).op = (plc 1 true).op ∧ (pkr 2 1 1).fmt = (plc 1 true).fmt ∧ (pkr 2 1 1).lenm1 = (plc 1 true).lenm1 ∧
    { pkr 2 1 1 with fmt := 5 }.fmt ≠ (plc 1 true).fmt ∧ (plc 1 true).close = none := by decide +kernel
/-- R421 to R425: a contribution of the source's word; a receive that is armed; a close without one; a packet that
finalises a `.r` receive, one that a `.w` receive keeps, one that is late and one that is kept. -/
theorem test_members : (run .contributionSent { tred .dred 1 Place.free (.id 9) with cmds := [csnap .dred] }).out =
      [.packet 4 (Packet.words ⟨0, 0, 0, 4, 0, 2, 3, 0x1FFF, 0, 0, 1, 1, [(0x1122334455667788, residue 0x1122334455667788)], 1⟩)] ∧
    (run .reductionAcceptance (tred .drrecvR 0 Place.free (.die 0))).places.head?.map
      (fun p => (p.st, p.group, p.seq, p.form, p.m, p.res)) = some (1, 3, 2, false, 2, 0x60218) ∧
    (run .reductionAcceptance (tred .drcloseW 0 Place.free (.die 0))).out =
      [.packet 4 (Packet.words ⟨5, 0, 0, 4, 0, 2, 3, 0x1FFF, 0, 0, 1, 1, [], 1⟩)] := by decide +kernel
/-- R422 to R424: a receive that finalises has its words to write; RESULT and the tag of its place come with the last. -/
theorem test_receives :
    (run .receivePacket (tred .dred 0 (plc 1 false) (.packet (pkr 1 2 3)))).places.head?.map (fun p => (p.st, p.todo)) =
      some (3, [(0x60400, 7), (0x60408, 3)]) ∧
    (run .receivePacket (tred .dred 0 pfin (.id 0))).word 0x60410 = 0x0000100001000801 ∧
    (run .receivePacket (tred .dred 0 pfin (.id 0))).places.head?.map (·.st) = some 2 ∧
    (run .receivePacket (tred .dred 0 { pfin with todo := [(0x30000000000, 7)] } (.id 0))).places.head?.map
      (fun p => (p.cause, p.todo)) = some (Cause.eqarea, []) ∧
    (run .receivePacket (tred .dred 0 (plc 1 true) (.packet (pkr 2 1 1)))).places.head?.map (·.st) = some 1 ∧
    (run .receivePacket (tred .dred 0 (plc 2 true) (.packet (pkr 2 1 1)))).dv.drlate = 1 ∧
    (run .receivePacket (tred .dred 0 Place.free (.packet (pkr 2 1 1)))).unclaimed.length = 1 := by decide +kernel

/-! ### Installs, pre-emption and votes -/

/-- An install at a step, of an image whose header names configuration 9 and no tile. -/
def plac : Placing := ⟨[(0, 0)], [], []⟩
def insAt (step : Nat) (pl : Option Placing) (hash : Word) : Install :=
  { inst0 with step := step, due := 0, hdr := [0, 9], pl := pl, hash := hash, elems := [ce0] }
def tins (i : Install) : State := { tsq tq with dies := [{ Die.atReset 0 with inst := some i }], actor := .die 0 }
def tlr : Load := { tl with phase := .retiring, retireFor := [0] }
def tret (accs : List Access) : State := { tsite ce0 tq with loads := [tlr], actor := .load ⟨0, 0⟩, accs := accs }
/-- The last DRAIN token of TINV 5 of tile 0, and one of two. -/
def tdrain (tinvs : List (Nat × Nat)) : State :=
  { tsq { tq with tinvs := tinvs } with actor := .id 9, accs := [acc (.drain 5 0 1) 0 0], clock := 1 }

theorem wit_InstallSteps : (tins (insAt 1 none 0)).die? 0 = some { Die.atReset 0 with inst := some (insAt 1 none 0) } ∧
    (insAt 1 none 0).due ≤ (tins (insAt 1 none 0)).clock ∧ (insAt 1 none 0).hdr ≠ [] ∧
    ((tins (insAt 1 none 0)).readSections (insAt 1 none 0)).map (fun x => x.2.length) = some 0 ∧
    ((tins (insAt 1 none 0)).mapTiles (Die.atReset 0) 9 1 [] [] []).map (fun p => (p.origin, p.pl)) = some (0, ⟨[], [], []⟩) ∧
    (insAt 2 none 0).pl = none ∧ (insAt 2 (some plac) 0).pl ≠ none ∧
    (grantAll (plac.tiles.map (·.1)) (insAt 5 (some plac) 0).elems (insAt 5 (some plac) 0).boxes).toOption = some [] ∧
    (insAt 6 (some plac) 8).hash ≠ hdrCfgid (insAt 6 (some plac) 8).hdr ∧
    (insAt 6 (some plac) 9).hash = hdrCfgid (insAt 6 (some plac) 9).hdr ∧
    (Die.atReset 0).csRestore = [] ∧
    (tins (insAt 6 (some plac) 9)).load? ⟨0, (tins (insAt 6 (some plac) 9)).freeFab 0⟩ = none ∧
    { insAt 4 none 0 with abandon := some 0 }.abandon = some 0 := by decide +kernel
theorem wit_Retirement : (tret []).load? ⟨0, 0⟩ = some tlr ∧ tlr.phase = .retiring ∧ (tret []).loadDrained ⟨0, 0⟩ = true ∧
    (tret [acc .read 0 0]).loadDrained ⟨0, 0⟩ = false ∧ (tdrain [(5, 1)]).acc? 9 = some (acc (.drain (0 * 2 ^ 40 + 5) 0 1) 0 0) ∧
    (acc (.drain 5 0 1) 0 0).due ≤ (tdrain [(5, 1)]).clock ∧
    (tdrain [(5, 1)]).drained (acc (.drain 5 0 1) 0 0) 0 1 = true ∧ (5, 1) ∈ [((5 : Nat), (1 : Nat))] ∧
    (∀ y ∈ [((5 : Nat), (2 : Nat))], y.1 = 5 → y.2 ≠ 1 ∧ y.2 ≠ 0) := by decide +kernel
/-- R373: the clocks of the steps; INSTST NOPLACE and BADID refused, and a commit with INSTDONE. R376: RETIRE. R261. -/
theorem test_installs : ((run .installPlacement (tins (insAt 1 none 0))).die? 0).bind (fun d => d.inst.map fun i => (i.step, i.due)) =
      some (2, 200) ∧
    ((run .installPlacement (tins (insAt 2 none 0))).seq? 0).map (fun q => (q.instst, q.evpend)) =
      some (BitVec.ofNat 64 (Cause.noplace * 2 ^ 48 + 3), 2) ∧
    ((run .installWake (tins (insAt 2 (some plac) 0))).die? 0).bind (fun d => d.inst.map fun i => (i.step, i.due)) = some (3, 400) ∧
    ((run .installStream (tins (insAt 3 (some plac) 0))).die? 0).bind (fun d => d.inst.map fun i => (i.step, i.due)) = some (4, 1024) ∧
    ((run .installDepthGrant (tins (insAt 5 (some plac) 0))).die? 0).bind (fun d => d.inst.map fun i => (i.step, i.due)) = some (6, 8) ∧
    ((run .installCommit (tins (insAt 6 (some plac) 8))).seq? 0).map (fun q => fld q.instst 48 16) = some Cause.badid ∧
    (run .installCommit (tins (insAt 6 (some plac) 9))).loads.map (fun x => (x.ref, x.cfgid)) = [(⟨0, 0⟩, 9)] ∧
    ((run .installCommit (tins (insAt 6 (some plac) 9))).seq? 0).map (fun q => (fld q.instst 0 16, q.evpend)) = some (2, 2) ∧
    ((run .installAbandon (tins { insAt 4 none 0 with abandon := some 0 })).seq? 0).map (fun q => fld q.instst 0 16) = some 4 ∧
    (run .reconfigurationTokenPass (tret [])).loads = [] ∧ (run .reconfigurationTokenPass (tret [])).elems = [] ∧
    ((run .reconfigurationTokenPass (tret [])).seq? 0).map (·.evpend) = some 4 ∧
    ((run .drainArrival (tdrain [(5, 1)])).seq? 0).map (fun q => (q.tinvdone, q.evpend, q.tinvs)) = some (5, 8, []) ∧
    ((run .drainArrival (tdrain [(5, 2)])).seq? 0).map (fun q => (q.tinvdone, q.evpend)) = some (0, 0) := by decide +kernel

/-- The fabric load with a frame owner, in a phase of a pre-emption. -/
def own1 : SlotX := { slot1 2 with frame := 0x8000 }
def tlp (ph : LPhase) (level : Nat) : Load :=
  { tl with slots := some own1 :: List.replicate 7 none, phase := ph, disp := some ⟨level, Cause.userTrap, 0⟩, returned := [0] }
def tpre (x : Load) (a : Actor) : State :=
  rec1 3 2 0 1 { State.reset with
    dies := [die0 true], seqs := [tq], loads := [x], elems := [{ ce0 with stopped := true }], actor := a, clock := 1 }
theorem wit_PreemptionSteps : (tpre (tlp .resident 0) (.loadN ⟨0, 0⟩ 4)).load? ⟨0, 0⟩ = some (tlp .resident 0) ∧
    (tlp .resident 0).owner = some own1 ∧ (withInst (tsq tq)).dies.all (fun d => d.inst.isSome) = true ∧ inst0.abandon = none ∧
    (tpre (tlp .draining 1) (.load ⟨0, 0⟩)).cancelDeferred ⟨0, 0⟩ = tpre (tlp .draining 1) (.load ⟨0, 0⟩) ∧
    (tpre (tlp .draining 1) (.load ⟨0, 0⟩)).loadDrained ⟨0, 0⟩ = true ∧
    (tpre (tlp .draining 1) (.load ⟨0, 0⟩)).completing (tlp .draining 1) = false ∧
    (∀ t ∈ (tlp .draining 3).slots.filterMap id, (tpre (tlp .draining 3) (.load ⟨0, 0⟩)).vote? t.handle = none) ∧
    ((tlp .draining 3).slots.filterMap id).map (·.handle) = [1] ∧
    (∀ e ∈ (tpre (tlp .draining 1) (.load ⟨0, 0⟩)).elems, e.ref.load = ⟨0, 0⟩ → e.drained = true) ∧
    Memory.wf (tpre (tlp .draining 1) (.load ⟨0, 0⟩)).mem = true ∧ (tlp .saving 1).phaseAt < 1 ∧
    (∀ t ∈ (tlp .saving 1).tiles, t.lt ∈ (tlp .saving 1).returned) ∧
    (tpre (tlp .saving 1) (.load ⟨0, 0⟩)).recAddr 1 = some 0x30000300080 ∧ 256 ≤ (List.replicate 256 (1 : Nat)).length ∧
    (tsq tq).seq? 0 = some tq ∧ tq.fmap.length = 4 := by decide +kernel
/-- R434: the elements stop, every tile has PREEMPT pending, and the owner is READY with its frame saved; a kill ends
the task ABANDONED; R443: a page request is posted. R450: the fence map. -/
theorem test_preemption : ((run .preempt (tpre (tlp .resident 0) (.loadN ⟨0, 0⟩ 4))).load? ⟨0, 0⟩).map
      (fun x => (x.phase, x.reason)) = some (.draining, 4) ∧
    ((run .preempt (withInst { tsq tq with actor := .loadN ⟨0, 0⟩ 16 })).die? 0).bind (fun d => d.inst.bind (·.abandon)) = some 64 ∧
    ((run .preemptDrainEnd (tpre (tlp .draining 1) (.load ⟨0, 0⟩))).seq? 0).map (fun q => q.pend.map (·.cause)) =
      some [Cause.preempt] ∧
    (run .preemptDrainEnd (tpre (tlp .draining 3) (.load ⟨0, 0⟩))).trState 1 = 7 ∧
    (run .preemptCommit (tpre (tlp .saving 1) (.load ⟨0, 0⟩))).saved.map (fun v => (v.owner, v.frame)) = [(1, 0x8000)] ∧
    (run .preemptCommit (tpre (tlp .saving 2) (.load ⟨0, 0⟩))).pgpend = [1] ∧
    (run .preemptCommit (tpre (tlp .saving 2) (.load ⟨0, 0⟩))).trState 1 = 4 ∧
    (run .pageRequestPost { State.reset with pgpend := [1] }).pgreq = [1] ∧
    ((run .quarantine { tsq tq with actor := .reg 0 3 7 }).seq? 0).map (·.fmap) = some [0, 0, 0, 1] := by decide +kernel

/-- A restore that is over, with and without what was saved. -/
def trest (saved : List Saved) : State :=
  rec1 4 2 0 0 { State.reset with
    dies := [die0 true], loads := [{ tl with phase := .restoring, returned := [0], restoreOf := some 1 }], saved := saved
    elems := [{ ce0 with stopped := true }], actor := .load ⟨0, 0⟩, clock := 1 }
def sav1 : Saved := ⟨0, 1, 7, 0x8000, some own1 :: List.replicate 7 none, false, [], []⟩
/-- A vote with signatures. -/
def vot (s1 s2 s3 : Option Word) : Vote := ⟨1, [3], s1, s2, s3, [4], 2, false, false, false, []⟩
def tvote (v : Vote) : State :=
  rec1 3 2 0 0 { State.reset with dies := [{ die0 true with votes := [v] }], actor := .dieN 0 1 }
theorem wit_RestoresAndVotes : (trest []).load? ⟨0, 0⟩ = (trest []).loads.head? ∧
    ((trest []).saved.find? fun v => some v.owner == some 1) = none ∧
    ((trest [sav1]).saved.find? fun v => some v.owner == some 1) = some sav1 ∧
    ((trest [sav1]).renewSlots { tl with phase := .restoring, returned := [0], restoreOf := some 1 } 0 sav1.tasks).2.2 = 0 ∧
    (∀ e ∈ (trest [sav1]).elems, e.ref.load = ⟨0, 0⟩ → e.mpe.reissue = [] ∧ e.shadow = []) ∧
    (tvote (vot (some 5) (some 5) none)).vote? 1 = some (vot (some 5) (some 5) none) ∧
    Memory.wf (tvote (vot (some 5) (some 5) none)).mem = true ∧
    (tvote (vot (some 5) (some 6) none)).recAddr 1 = some 0x30000300080 ∧ (tvote (vot (some 5) (some 6) none)).recBad 1 = false ∧
    (tvote (vot (some 5) (some 6) none)).selog.length + 1 ≤ 64 := by decide +kernel
/-- R439: the tasks run again, and the frame is given up. R446: two equal signatures, two unequal ones, a third that is
equal to the second, to the first, and to none. -/
theorem test_votes : (run .restoreCompletion (trest [])).loads.map (·.phase) = [.retiring] ∧
    (run .restoreCompletion (trest [sav1])).loads.map (·.phase) = [.resident] ∧
    (run .restoreCompletion (trest [sav1])).trState 1 = 3 ∧ (run .restoreCompletion (trest [sav1])).saved = [] ∧
    (run .voteClose (tvote (vot (some 5) (some 5) none))).trState 1 = 5 ∧
    (run .voteClose (tvote (vot (some 5) (some 5) none))).selog = [⟨2, 3, 0, 1⟩] ∧
    run .voteClose (tvote (vot (some 5) (some 6) none)) = tvote (vot (some 5) (some 6) none) ∧
    (run .voteClose (tvote (vot (some 5) (some 6) (some 6)))).selog = [⟨3, 3, 0, 1⟩] ∧
    (run .voteClose (tvote (vot (some 5) (some 6) (some 5)))).selog = [⟨4, 4, 0, 1⟩] ∧
    (run .voteClose (tvote (vot (some 5) (some 6) (some 7)))).trErr 1 = Cause.voteFail ∧
    (run .voteClose (tvote (vot (some 5) (some 6) (some 7)))).trState 1 = 7 := by decide +kernel

/-! ### The host link, registers, power and reset -/

/-- A message of a master with its CRC, for a machine whose owner is the host. -/
def mkMsg (m : Master) (type len addr : Nat) (data : List Word) : Msg :=
  let h : Word := BitVec.ofNat 64 (type * 2 ^ 60 + 3 * 2 ^ 52 + len * 2 ^ 47 + addr)
  ⟨m, h, data, BitVec.zeroExtend 64 (crc32 (h :: data))⟩
def tmsg (m : Msg) : State :=
  { State.reset with
    seqs := [], dies := [die0 false], actor := .msg m, mem := [(0x60108, 5)]
    dv := { Dv.atReset 0 with claim := 0x4000000000000000 } }
def mrd : Msg := mkMsg .host 1 1 0x60108 [1]
def mwr (m : Master) (a : Nat) (v : Word) : Msg := mkMsg m 2 1 a [v]
def mcas (e n : Word) : Msg := mkMsg .host 3 2 0x80000000000 [e, n]
def mtk : Msg := mkMsg .host 4 0 1 []
def mat : Msg := mkMsg .host 5 4 0 [1, 2, 3, 4]

theorem wit_HostMessages : (tmsg mrd).actor = .msg mrd ∧ Memory.wf (tmsg mrd).mem = true ∧ (tmsg mrd).dv.bootfail = false ∧
    (tmsg mrd).dv.pstate = 0 ∧ mrd.intact = true ∧ { mrd with trailer := 0 }.intact = false ∧
    (tmsg mrd).tags.contains (mrd.master, mrd.tag) = false ∧
    [(Master.host, (3 : Nat))].contains (mrd.master, mrd.tag) = true ∧ mrd.type = 1 ∧ rdBad mrd = false ∧
    (∀ a ∈ mrd.words (fld (mrd.word 0) 0 5), dvNum a = none → (tmsg mrd).isBad a = false) ∧
    (mwr .host 0x60108 7).type = 2 ∧ wrBad (mwr .host 0x60108 7) = false ∧
    (tmsg (mwr .board 0x60108 7)).ownedBy .board = false ∧ (tmsg (mwr .host 0x60108 7)).ownedBy .host = true ∧
    dvNum 0x60108 = none ∧ (tmsg mrd).storeCause 0x60108 ≠ Cause.eqarea ∧ dvNum 0x80000000050 = some 10 ∧
    dvReadonly 10 = true ∧ dvNum 0x80000000008 = some 1 ∧ (mcas 0 0).type = 3 ∧ casBad (mcas 0 0) = false ∧
    claimAllows .host 0x4000000000000000 0x4000000000000000 0 = true ∧
    claimAllows .board 0x4000000000000000 0x4000000000000000 0 = false ∧ mtk.type = 4 ∧ mtk.len = 0 ∧
    (tmsg mtk).die? (handleDie (fld mtk.header 0 32)) = some (die0 false) ∧ mat.type = 5 ∧ mat.len = 4 := by decide +kernel
/-- R454: the CRC-32 of eight zero bytes and of 1, as tables of that CRC give them. -/
theorem test_crc : crc32 [0] = 0x6522DF69 ∧ crc32 [1] = 0xA988DFF7 := by decide +kernel
/-- R455 to R459: a read, a write of the owner and one of another master, a CAS that gives up the package, a TKEN. -/
theorem test_messages : (run .hostRd (tmsg mrd)).out.map (fun x => match x with | .msg m _ d _ => (m, d) | _ => (.board, [])) =
      [(.host, [5])] ∧
    (run .hostWr (tmsg (mwr .host 0x60108 7))).word 0x60108 = 7 ∧
    (run .hostWr (tmsg (mwr .host 0x60108 7))).agenda = [.event .hostWr (.done .host 3)] ∧
    (run .hostWr (tmsg (mwr .board 0x60108 7))).word 0x60108 = 5 ∧
    (run .hostCas (tmsg (mcas 0x4000000000000000 0))).dv.claim = 1 ∧
    (run .hostCas (tmsg (mcas 0 0))).dv.claim = 0x4000000000000000 ∧
    ((run .hostTken (tmsg mtk)).die? 0).map (fun d => d.adm.map (·.handle)) = some [1] ∧
    run .hostRd (tmsg { mrd with trailer := 0 }) = tmsg { mrd with trailer := 0 } ∧
    (run .hostWr { tmsg (mwr .host 0x60108 7) with dv := { Dv.atReset 0 with pstate := 1 } }).agenda =
      [.event .wake .none, .event .hostWr (.msg (mwr .host 0x60108 7))] := by decide +kernel

def treg' (n : Nat) (v : Word) : State :=
  { rec1 4 2 0 0 State.reset with dies := [die0 true], seqs := [Seq.atReset 0], actor := .reg 0 n v, saved := [{ sav1 with page := true }] }
theorem wit_DeviceRegisters : (treg' 21 1).actor = .reg 0 21 1 ∧ Memory.wf (treg' 21 1).mem = true ∧
    (treg' 21 1).recAddr (fld (1 : Word) 0 32) = some 0x30000300080 ∧ (treg' 21 1).die? 0 = some (die0 true) ∧
    ((treg' 21 1).saved.any fun z => z.owner == fld (1 : Word) 0 32 && z.page) = true ∧ (treg' 21 1).trState 1 = 4 ∧
    (treg' 21 2).trState 2 ≠ 4 ∧ (0x8000000000001000 : Word).getLsbD 63 = true ∧ (treg' 12 0).released = false := by decide +kernel
/-- R249, R457, R461, R443, R449: writable fields, DROP, the boot address, and what the owner's reads remove. -/
theorem test_registers : (run .registerWrite (treg' 1 0xFFFFFFFFFFFFFFFF)).dvRead 1 = 0x00000FFFFFFC0000 ∧
    (run .registerWrite (treg' 24 0xFFFFFFFFFFFFFFFF)).dvRead 24 = 0x80000000FFFFFFFF ∧
    (run .syestatClear { treg' 19 1 with dv := { Dv.atReset 0 with syestat := 7 } }).dv.syestat = 0 ∧
    ((run .bootva (treg' 12 0x8000000000001000)).seq? 0).map (fun q => (q.pc, q.tvec, q.held)) = some (0x1000, 0x1000, false) ∧
    (run .pgreqRead { State.reset with actor := .owner true, pgreq := [4, 5] }).pgreq = [5] ∧
    (run .pgreqRead { State.reset with actor := .owner false, pgreq := [4, 5] }).pgreq = [4, 5] ∧
    (run .selogRead { State.reset with actor := .owner true, selogLost := 2 }).selogLost = 0 ∧
    (run .pgdone (treg' 21 1)).trState 1 = 2 := by decide +kernel

theorem wit_ResetAndPower : (tsq tq).die? 0 = some (Die.atReset 0) ∧ State.reset.dv.pstate ≠ 3 ∧
    { State.reset with dv := { Dv.atReset 0 with pstate := 3 } }.dv.pstate = 3 ∧ (withInst (tsq tq)).working = true ∧
    fld State.reset.dv.ltol 0 32 < 1600 := by decide +kernel
/-- R459, R464, R465: a reset draws the next incarnation and holds the sequencers; the loss of the owner; a wake. -/
theorem test_reset : (run .reset (tsq tq)).dv.incarn = 1 ∧ (run .reset (tsq tq)).seqs = State.reset.seqs ∧
    (run .ownerLoss (tmsg mrd)).dv.claim = 1 ∧
    (run .wake { State.reset with dv := { Dv.atReset 0 with pstate := 2 } }).dv.pstate = 0 ∧
    (run .powerStateEntry { State.reset with dv := { Dv.atReset 0 with ltol := 0x8000000000000640 } }).dv.pstate = 1 ∧
    ((run .hardwareTrip { tsq tq with actor := .die 0 }).die? 0).map (·.trip) = some true := by decide +kernel

/-! ### Steps -/

/-- A sequencer that is due: a word of zeros stands at its PC, virtual 0x100; at 0x108 stands 0x55667788. -/
def tstep (q : Seq) : State := { tmap (tsq q) with agenda := [.seq 0] }
def seqAfter (s : State) : Option Seq :=
  match step s with
  | .next s' => s'.seq? 0
  | _ => none
theorem wit_StepRunsDecoded : (tstep tq).agenda = .seq 0 :: [] ∧ (tstep tq).seq? 0 = some tq ∧ tq.held = false ∧ tq.busy ≤ 0 ∧
    tq.pend = [] ∧ tq.wev = none ∧ ((tstep tq).seqXlat tq .fetch 0x100 4).cause = 0 ∧
    (tstep tq).isBad (wordOf ((tstep tq).seqXlat tq .fetch 0x100 4).pa) = false ∧
    (tstep tq).seqWaits tq (.addi 1 2 3) = false ∧ ((tstep tq).seqXlat tq .fetch 0x20000 4).cause ≠ 0 ∧
    { tq with pend := [tp .word] }.pend ≠ [] ∧ tq.inTrap = false ∧ (Seq.atReset 0).held = true ∧
    (decodeSlot ce0.kind (ce0.slotWord 2)).isOk = true ∧
    (decodeSeq (BitVec.ofNat 32 ((tstep tq).readN ((tstep tq).seqXlat tq .fetch 0x100 4).pa 4))).isOk = false := by
  decide +kernel
/-- A step of a user-mode word that is undefined: what UserModeLeft and StepKeepsForm speak of. -/
theorem wit_StepKeepsForm : ((seqAfter (tstep tu)).map fun q => (q.priv, q.pPriv, q.pc)) = some (true, false, 0x200) ∧ tu.priv = false ∧
    Memory.wf (tstep tu).mem = true ∧ (∀ q ∈ (tstep tu).seqs, q.pc.toNat % 4 = 0 ∧ q.tvec.toNat % 4 = 0) ∧
    Memory.wf State.reset.mem = true := by decide +kernel
/-- R63, R369: the word 0x08200005 is ADDI g1, g0, 5, and it runs as the first word after reset; R64: an undefined one
traps. A NOP slot of a CE runs too. -/
theorem test_step : ((seqAfter (State.reset.withFetchWord 32 0x08200005)).map fun q => (q.reg 1, q.pc)) =
      (State.reset.withFetchWord 32 0x08200005).seqs.head?.map (fun q => (5, q.pc + 4)) ∧
    (seqAfter (tstep tq)).map (fun q => q.cause) = some (BitVec.ofNat 64 (Cause.illegal * 2 ^ 48)) ∧
    (match step { te ce0 with agenda := [.fire ce0.ref 2 0 0] } with
      | .next s => (s.elem? ce0.ref).map fun e => (e.counters.getD 2 ⟨0, 0, 0⟩).fired
      | _ => none) = some 1 := by decide +kernel
/-- Words of SeqRoundTrip and SlotRoundTrip, and one that no one is encoded as. -/
theorem wit_RoundTrips : (Instr.addi 5 2 0xFFFC).wf = true ∧ encodeSeq (.addi 5 2 0xFFFC) = some 0x08A2FFFC ∧
    (decodeSeq 0x08A2FFFC).toOption = some (.addi 5 2 0xFFFC) ∧ (Instr.add f0).wf = true ∧
    (entry (.add f0)).map (·.kind) = some (some .ce) ∧ (entry (.nop f0)).map (·.kind) = some none := by decide +kernel
/-- R3, R246: the lowest byte at the lowest address; a byte of zero is not listed. -/
theorem test_bytes : (State.reset.writeN 0x10 4 0x11220044).mem = [(0x10, 0x44), (0x12, 0x22), (0x13, 0x11)] ∧
    Memory.wf State.reset.mem = true := by decide +kernel

/-! ### Hypotheses of the clauses on steps of an image, an arbor, a restore and a packet -/

/-- Every actor of BlocksAnswer, and an object of each kind that it names. -/
theorem wit_BlocksAnswer : (teng (mpc 0x200) (.elem ⟨0, 0, 0, 0⟩)).actor = .elem ⟨0, 0, 0, 0⟩ ∧
    (teng (mpc 0x200) (.elem ⟨0, 0, 0, 0⟩)).elem? ⟨0, 0, 0, 0⟩ = some (mpc 0x200) ∧
    (teng (mpc 0x200) (.elemN ⟨0, 0, 0, 0⟩ 5)).actor = .elemN ⟨0, 0, 0, 0⟩ 5 ∧ (tcmd ccpy).actor = .id 9 ∧
    (tsq tq).die? 0 = some (Die.atReset 0) ∧ (tsq tq).seq? 0 = some tq ∧ (tsq tq).actor = .seq 0 ∧
    (tret []).actor = .load ⟨0, 0⟩ ∧ (tpre (tlp .resident 0) (.loadN ⟨0, 0⟩ 4)).actor = .loadN ⟨0, 0⟩ 4 ∧
    (tnode ins1 (.inst 3 2) 10).actor = .inst 3 2 ∧ (tnode ins1 (.flits false []) 0).actor = .flits false [] ∧
    (tmsg mrd).actor = .msg mrd ∧ (treg' 21 1).actor = .reg 0 21 1 ∧ (treg' 21 1).seq? 0 = some (Seq.atReset 0) := by
  decide +kernel

/-- A second node that stands where a leaf should, a header of zeros, and an operation that frees no node. -/
theorem wit_ArborSteps_breaches : (tarb .ald 0x10002 0).arborBusy 0x61000 true = false ∧
    (∀ k, k < 32 → (tarb .ald 0 0).isBad (0x60000 + 8 * k) = false) ∧ fld ((tarb .ald 0 0).word 0x60000) 62 2 ≠ 3 ∧
    (readArb (tarb .ald 0 0) 0x61000 0x9000).isOk = true ∧
    (match readArb (tarb .ald 0 0) 0x61000 0x9000 with
      | .ok t => t.nodes.isEmpty && decide (t.nn ≤ 4) && (match t.store 0x10003 8 with
        | .ok x => !x.struct && (x.commit.byte 0x61110 == 5) | .error _ => false) &&
        (match t.node 1 1 0 0 with | .error x => x == ⟨Cause.arborOrder, 1⟩ | .ok _ => false) &&
        (match t.node 9 0 0 0x100000000 with | .error x => x == ⟨Cause.arborOrder, 9⟩ | .ok _ => false)
      | .error _ => false) = true := by decide +kernel
/-- R313, R314, R322: what a store leaves in memory is read back, with the other keys. -/
theorem test_arbor_store : (match readArb (run .arborPoint (tarb .ast 0x10003 8)) 0x61000 0x9000 with
    | .ok t => [0x10002, 0x10003, 0x20001, 0x20002].map fun k => match t.find k with
      | .ok f => f.value k
      | .error _ => 99
    | .error _ => []) = [5, 8, 6, 0] := by decide +kernel

/-- An install whose image has not been read, in the machine with a page of zeros at virtual 0x400 and none elsewhere. -/
def tins1 (step va : Nat) (hdr : List Word) (pl : Option Placing) : State :=
  tmap { tins { insAt step pl 0 with va := va, hdr := hdr } with actor := .die 0 }
theorem wit_InstallImages : ((tins1 1 0x400 [] none).readImage tq 0x400 192).good = 192 ∧
    hdrWordOk (wordsOf ((tins1 1 0x400 [] none).readImage tq 0x400 192).bytes) 0 = false ∧
    ((tins1 1 0x20000 [] none).readImage tq 0x20000 192).good = 0 ∧
    ((tins1 1 0x20000 [] none).readImage tq 0x20000 192).cause ≠ 0 ∧
    ((tins1 4 0x400 [0, 9] (some plac)).readSections { insAt 4 (some plac) 0 with va := 0x400, hdr := [0, 9] }).map
      (fun x => (x.1.cause, sectionsBreach [0, 9] x.2 x.1.good)) = some (0, none) ∧
    (mkElem ⟨0, 0, 0, 17⟩ 0 17 ⟨0, [], [], [], 0⟩).ptile = 0 ∧
    instst Cause.badfield 3 17 2 0 3 = 0x0103031120000003 := by decide +kernel
/-- R373, R375: a header of zeros is refused with BADFIELD, one that cannot be read with PAGE; step 4 of an image with no
tile goes on to step 5. -/
theorem test_images : ((run .installPlacement (tins1 1 0x400 [] none)).seq? 0).map (fun q => (fld q.instst 48 16, fld q.instst 0 16)) =
      some (Cause.badfield, 3) ∧
    ((run .installPlacement (tins1 1 0x20000 [] none)).seq? 0).map (fun q => fld q.instst 48 16) = some Cause.page ∧
    ((run .installStream (tins1 4 0x400 [0, 9] (some plac))).die? 0).bind (fun d => d.inst.map fun i => (i.step, i.due)) =
      some (5, 64) := by decide +kernel

/-- The conditions of a restore that completes, and votes with no first signature and with a failure. -/
theorem wit_Restores : (let l : Load := { tl with phase := .restoring, returned := [0], restoreOf := some 1 }
      (trest [sav1]).load? ⟨0, 0⟩ = some l ∧ l.probes = [] ∧ l.heldReq = none ∧ l.entries = [] ∧
      (trest [sav1]).newProbes l sav1 ((trest [sav1]).renewSlots l 0 sav1.tasks).2.1 = [] ∧
      (((trest [sav1]).renewSlots l 0 sav1.tasks).2.1.filterMap id).map (·.handle) = [1] ∧
      ((((trest [sav1]).renewSlots l 0 sav1.tasks).2.1.filterMap id).all fun t => !(trest [sav1]).weightHeld t) = true) ∧
    sav1.held = [] ∧ sav1.page = false ∧ (trest [sav1]).recAddr 1 ≠ none ∧
    (∀ e ∈ (trest [sav1]).elems, e.mpe.travs = [] ∧ e.mpe.reemit = [] ∧ e.mpe.replay = []) ∧
    (vot none (some 5) none).fail = false ∧ { vot none none none with fail := true }.fail = true := by decide +kernel
/-- R446: an execution that was killed leaves the second alone, and a vote that has failed ends the task. -/
theorem test_vote_ends : (run .voteClose (tvote (vot none (some 5) none))).trState 1 = 5 ∧
    (run .voteClose (tvote { vot none none none with fail := true })).trErr 1 = Cause.voteFail ∧
    (run .voteClose (tvote { vot none none none with fail := true })).trState 1 = 7 := by decide +kernel

/-- R416: the header words of a PARTIAL packet of SUM, F32, of group 3 and instance 2, for members 0 and 1. -/
def pkh : Packet := ⟨2, 1, 0, 4, 0, 2, 3, 8, 0, 0, 2, 1, [(7, residue 7)], 1⟩
theorem test_packet_words : pkh.words.length = 8 ∧ Packet.ofWords pkh.words = pkh ∧
    (pkh.words.map fun w => decide (residue w.1 = w.2)) = List.replicate 8 true ∧
    (pkh.words.drop 2).map (·.1) = [7, 1, 0, 0, 0, 0] := by decide +kernel
/-- R419: a value for the members goes to the children of a node of the tree, and to the receive places where the package
is a member; one routed to this package is taken here alone. -/
def tdir (routed : Bool) (role : Nat) : State :=
  { tnode ins1 (.flits routed pkh.words) 0 with groups := [gent3 role], ports := [4, 5, 6] }
theorem wit_ReductionNodes_flits : (tdir false 1).dv.pstate ≠ 3 ∧ Packet.ofWords pkh.words = pkh ∧ pkh.dir = 1 ∧
    (tdir false 1).groupEnt 3 = some (gent3 1) ∧ (gent3 0).role ≠ 1 ∧ pkh.bitmap < 2 ^ pkh.mspan ∧
    pkh.payload.length = pkh.lenm1 + 1 := by decide +kernel
theorem test_flits : (run .reductionPacket (tdir true 1)).agenda = [.event .receivePacket (.packet pkh)] ∧
    (run .reductionPacket (tdir true 1)).out = [] ∧ (run .reductionPacket (tdir false 0)).out = [] := by decide +kernel

/-- The clauses on a read of one word: its presence, its error, and a claim of ATTEST's address. -/
theorem wit_reads : (trq (.read 1) 1 []).present 0x60108 = false ∧ (trq (.read 1) 1 []).deferred (stackOf 0x60108) < 2048 ∧
    refreshing (trq (.read 1) 1 []).clock 0x60108 = false ∧ (trq (.read 1) 1 []).sbHeld 0x60108 8 false = false ∧
    { trq (.read 1) 0 [] with bad := [0x60108] }.isBad 0x60108 = true ∧ addrsOk [mat.addr] = true ∧ addrsOk [7] = false ∧
    ((∃ va ∈ dredVas (cred .dred 1), ∀ w ∈ (cred .dred 1).snap, w.va ≠ va) ∧ ∀ va ∈ dredVas (csnap .dred), ∃ w ∈ (csnap .dred).snap, w.va = va) ∧
    (tred .dred 1 Place.free (.id 9)).opBusy 0 = false := by decide +kernel
def trd (cls : Nat) (present bad : List Nat) : State :=
  { trq (.read 1) cls present with remDefers := [⟨req (.read 1) cls, [.todo]⟩], bad := bad }
/-- R267, R408: a word is read, one without presence is deferred, and one with an error answers UNCORRECTABLE. -/
theorem test_reads : ((trd 0 [] []).reqWord (req (.read 1) 0) 0).remDefers.map (·.got) = [[.fixed 0x1100000000000088]] ∧
    ((trd 1 [] []).reqWord (req (.read 1) 1) 0).remDefers.map (·.got) = [[.deferred]] ∧
    ((trd 0 [] [0x60108]).reqWord (req (.read 1) 0) 0).out = [.rep ⟨9, 4, Cause.uncorrectable, []⟩] ∧
    ((trd 0 [] [0x60108]).reqWord (req (.read 1) 0) 0).selog.length = 1 := by decide +kernel
/-- R416 as the worked values after R426 and of the program of file 22 write it: the headers of a PARTIAL. -/
theorem test_packet_headers :
    (⟨2, 1, 0, 4, 0, 5, 33, 0x2000, 0, 0, 3, 2, [], 0⟩ : Packet).header = [0x28800000A0430000, 0x00000000C0040000] ∧
    (⟨3, 1, 0, 4, 0, 5, 33, 0x2000, 1, 0, 3, 3, [], 0⟩ : Packet).header = [0x38800000A0430000, 0x01000000C0060000] ∧
    (⟨2, 1, 0, 4, 3, 9, 64, 0x2008, 0, 0, 4, 3, [], 0⟩ : Packet).header = [0x2880600120810040, 0x0000000100060000] := by
  decide +kernel

/-! ### Hypotheses of further clauses -/

/-- TINV waits for an access of its sequencer in its range (O10); classes that SPE, MPE and floating sources do not accept,
beside a source that is good, and a result that fails its check (O12). -/
theorem wit_TinvHeld : ((tacc [] (sacc 9 (.seqWrite 2 0xFFFF) 0x6010A)).accs.any fun w =>
      w.op.ofSeq && tinvHits 0 (2 ^ 41) w.va) = true ∧
    ((tacc [] (sacc 9 (.seqWrite 2 0xFFFF) 0x6010A)).accs.any fun w => w.op.ofSeq && tinvHits 1 2 w.va) = false := by
  decide +kernel
def cemix : Elem := mk 17 [dr 5 1, dr 7 1, dr 0x3F800000 4] []
theorem wit_FiringTraps_classes : good cemix fd.srca .int ∧ clean cemix fd.srcb ∧
    Cls.int.accepts (cemix.source fd.srcb.toNat).tag = false ∧ Cls.coord.accepts (cemix.source 5).tag = false ∧
    (Cls.fp 4).accepts (cemix.source 5).tag = false ∧ good cemix fd.srca .int ∧ { cemix with upset := true }.upset = true ∧
    cemix.kind = .ce := by unfold good clean; decide +kernel

/-- 1.0 in F32 and in BF16 (O20); BX6 behind a group that is full and over a group of BX9 (O22); a list of two entries where
K is 1, and one of another key type (O24). -/
theorem wit_Nearest : (0x3F800000 : Nat) < fF32.infBits ∧ fF32.dec 0x3F800000 = .fin false (2 ^ 23) (-23) ∧
    (0x3F80 : Nat) < fBF16.infBits ∧ fBF16.dec 0x3F80 = .fin false (2 ^ 7) (-7) := by decide +kernel
def cepack (fmt enc : Nat) : Elem := { cebx with ce := { cebx.ce with pack := ⟨0, 0, fmt, enc, 0⟩ } }
theorem wit_BlockCoding_groups : (∀ i, i < 16 / (64 / tagWidth 4) → goodAt (cepack 12 (bxGroupBlocks 12)) (4 + 0 + i) (.fp 4)) ∧
    bxGroupBlocks 12 ≤ (cepack 12 (bxGroupBlocks 12)).ce.pack.enc ∧ (cepack 13 1).ce.pack.fmt ≠ 0 ∧
    (cepack 13 1).ce.pack.fmt ≠ 12 := by unfold goodAt; decide +kernel
theorem test_bx_other : (fire .bxenc { f0 with srcb := 1 } (cepack 13 1)).trap.map (·.cause) = some Cause.fmtMismatch := by decide +kernel
theorem wit_TopK_lists : 1 ≤ [(0x100000002 : Word), 0x100000001].length ∧
    ([(0x100000002 : Word), 0x100000001].take 1).getLast? = some 0x100000002 ∧
    (cetop [0x100000002] (some 1) (tok 0 14 0x900000003)).ce.topType ≠ some 0 ∧
    (cetop [0x100000002] (some 1) (tok 0 14 0x900000003)).ce.topk ≠ [] := by decide +kernel
theorem test_topk_lists : (fire .topk { fi with dst := 15, srcb := 0 } (cetop [0x900000004, 0x100000002] (some 0) (tok 0 14 0x200000003))).ce.topk
      = [0x900000004] ∧
    (fire .topk { fi with dst := 15, srcb := 0 } (cetop [0x100000002] (some 1) (tok 0 14 0x900000003))).trap.map (·.cause) =
      some Cause.fmtMismatch := by decide +kernel

/-- A word with an uncorrectable error, and one with a wrong residue (O25); a word for which the own port and another element
wait (O27). -/
def spbad : Elem := { sp true with spe := { (sp true).spe with bad := [8] } }
def spres : Elem := { sp true with spe := { (sp true).spe with bank := [(8, ⟨5, 1, 0, true⟩)] } }
theorem wit_BankErrors : setHas spbad.spe.bad 8 = true ∧ outsOf (fs.dst).toNat = [] ∧ outsOf (0 : BitVec 4).toNat ≠ [] ∧
    setHas spres.spe.bad 8 = false ∧ (spres.spe.read 8).res ≠ residue (spres.spe.read 8).val := by decide +kernel
/-- R451, R200: a FAULT token, or a trap where DST is no output; RESIDUE without a firing. -/
theorem test_bank_errors : ((fire .srd { fs with dst := 0, lane := 0 } spbad).out 0).map (·.tok.ctag) = [6] ∧
    (fire .srd { fs with lane := 0 } spbad).trap.map (·.cause) = some Cause.uncorrectable ∧
    (fire .srd { fs with lane := 0 } spres).trap = some ⟨Cause.residue, eDetail 1 2 0, some 24⟩ := by decide +kernel
def spwait : Elem := { sp false with spe := { (sp false).spe with defers := [⟨8, .own 1 0⟩, ⟨8, .cross ⟨0, 0, 0, 3⟩ 4⟩, ⟨9, .own 0 0⟩] } }
def spask : Elem := { mk 3 [] [] with spe := { SpeState.init with owed := [⟨4, 0, false, 0, true, none, none, 0⟩] } }
theorem test_serve : ((te2 spwait spask).serveWord ⟨0, 0, 0, 1⟩ 8 (bw 7 true)).elems.map (fun e =>
      (e.spe.defers.map (·.word), e.spe.replies.map (fun x => (x.1, x.2.pay)), e.spe.owed.map fun c => c.reply.map (·.pay))) =
    [([9], [(1, 7)], []), ([], [], [some 7])] := by decide +kernel

/-- TACC of a register of 32-bit words that fits, of one with 40 rows and of one of another format (O30). -/
def mxa (t : TReg) : Elem := { mx none [] with mxe := { (mx none []).mxe with t := t :: List.replicate 7 TReg.unset } }
def tacr : TReg := { treg 7 with fmt := 1 }
theorem wit_Tacc : ((mxa tacr).mxe.treg 0).st = 3 ∧ ((mxa tacr).mxe.acc 1).kind = true ∧ tacr.rows ≤ 32 ∧ tacr.cb / 4 ≤ 32 ∧
    32 < { tacr with rows := 40 }.rows ∧ (treg 7).fmt ≠ 1 := by decide +kernel
theorem test_tacc : (fire .tacc { fm with srca := 0, srcb := 0 } (mxa tacr)).mxe.run.map (fun j => (j.acc, j.b)) = some (1, 1) ∧
    (fire .tacc { fm with srca := 0, srcb := 0 } (mxa { tacr with rows := 40 })).trap.map (·.cause) = some Cause.mxshape ∧
    (fire .tacc { fm with srca := 0, srcb := 0 } (mxa (treg 7))).trap.map (·.cause) = some Cause.fmtMismatch := by decide +kernel

/-- A field of AGCFG that is not listed: its word decodes, and an image that holds it is refused (O32). -/
def agw (k : BitVec 4) : Word := (encodeSlot (.agcfg { fp with dst := 15, srcb := k })).getD 0
theorem wit_AgcfgFields : (decodeSlot .mpe (agw 6)).toOption = some (.agcfg { fp with dst := 15, srcb := 6 }) ∧
    (decodeSlot .mpe (agw 15)).toOption = some (.agcfg { fp with dst := 15, srcb := 15 }) ∧
    slotBreach true none 0xC000000000000000 [] 0 (agw 6) = some Cause.badfield := by decide +kernel

/-- Requests at a record of State (O38): its DEP at, above and below k, its ring with a place and full, and a slot without a
task. -/
def tmod (op : MOp) (k : Nat) (st count dep pend : Nat) : State :=
  { rec1 st count dep pend { State.reset with loads := [tle (ent 0 [] [])], actor := .die 0 } with
    dies := [{ die0 (decide (st ≠ 0)) with adm := [{ tken 1 true with op := op, k := k, payload := 0x108 }] }] }
theorem wit_TaskRequests : ((tmod .tkdec 2 1 2 2 0).die? 0).bind (fun x => (x.adm.find? fun q => q.queued).map (·.op)) = some .tkdec ∧
    (tmod .tkdec 2 1 2 2 0).recState 1 = 1 ∧ (tmod .tkdec 2 1 2 2 0).trDep 1 = 2 ∧ (tmod .tkdec 2 6 2 2 0).recState 1 = 6 ∧
    (tmod .tkdec 3 1 2 2 0).trDep 1 < 3 ∧ (tmod .tkdec 2 5 2 2 0).recState 1 = 5 ∧ (tmod .tkdec 2 1 2 2 0).recBad 1 = false ∧
    (tmod .qput 0 3 2 0 2).slotTask ⟨0, 0⟩ (opSlot 0x108) = some (slot1 0) ∧ (tmod .qput 0 3 2 0 2).bound 1 = 0 ∧
    (tmod .qput 0 3 2 0 2).slotTask ⟨0, 0⟩ 7 = none ∧ (ent 512 [] []).count = 512 ∧
    ringAddr 0 0 0 0 + 8 ≤ 0x30000300080 := by decide +kernel
/-- R357 to R359: DEP falls, and underflows; PEND falls; a payload enters the ring and PEND rises; TKST's answers leave the
record or change its state. -/
theorem test_task_requests : (run .admissionRequest (tmod .tkdec 1 1 2 2 0)).trDep 1 = 1 ∧
    (run .admissionRequest (tmod .tkdec 2 1 2 2 0)).trState 1 = 2 ∧
    (run .admissionRequest (tmod .tkdec 3 1 2 2 0)).trErr 1 = Cause.depUnderflow ∧
    (run .admissionRequest (tmod .tkdecRet 1 3 2 0 2)).trPend 1 = 1 ∧
    (run .admissionRequest (tmod .tkdecRet 3 3 2 0 2)).trErr 1 = Cause.retireUnderflow ∧
    (run .admissionRequest (tmod .qput 0 3 2 0 2)).trPend 1 = 3 ∧
    (run .admissionRequest (tmod .qput 0 3 2 0 2)).word (ringAddr 0 0 0 0) = 0x108 ∧
    (run .admissionRequest (tmod .tkst 0 1 2 2 0)).trState 1 = 1 ∧
    (run .admissionRequest (tmod .tkstClr 0 6 2 2 0)).trState 1 = 1 ∧
    (run .admissionRequest (tmod .tkstAbn 0 1 2 2 0)).trState 1 = 7 := by decide +kernel

/-- A fabric load without a frame owner that drains for a request and for the scheduler (PreemptionSteps); a save image with
an error (RestoresAndVotes); a CAS on another address, and one of a wrong length (HostMessages). -/
def tnoown (reason : Nat) : Load :=
  { tl with slots := some (slot1 2) :: List.replicate 7 none, phase := .draining, disp := some ⟨1, 0, 0⟩, reason := reason }
theorem wit_NoOwner : (tnoown 3).owner = none ∧ (tnoown 3).reason ≠ 0 ∧ (tnoown 0).reason = 0 ∧
    (tpre (tnoown 3) (.load ⟨0, 0⟩)).cancelDeferred ⟨0, 0⟩ = tpre (tnoown 3) (.load ⟨0, 0⟩) ∧
    (tpre (tnoown 3) (.load ⟨0, 0⟩)).loadDrained ⟨0, 0⟩ = true ∧
    (tpre (tnoown 3) (.load ⟨0, 0⟩)).completing (tnoown 3) = false := by decide +kernel
theorem test_no_owner : (run .preemptDrainEnd (tpre (tnoown 3) (.load ⟨0, 0⟩))).trErr 1 = Cause.saveNoframe ∧
    (run .preemptDrainEnd (tpre (tnoown 0) (.load ⟨0, 0⟩))).loads.map (·.phase) = [.resident] := by decide +kernel
def tbadimg : State := { trest [sav1] with bad := [0x8000 + 0x13000] }
theorem wit_ImageBad : ((trest [sav1]).saved.find? fun v => some v.owner == some 1) = some sav1 ∧
    (trest [sav1]).imageBad { tl with phase := .restoring, returned := [0], restoreOf := some 1 } 0x8000 = false ∧
    tbadimg.imageBad { tl with phase := .restoring, returned := [0], restoreOf := some 1 } 0x8000 = true := by decide +kernel
theorem test_image_bad : (run .restoreCompletion tbadimg).loads.map (·.phase) = [.retiring] ∧
    (run .restoreCompletion tbadimg).selog = [⟨6, 0, 0, 1⟩] := by decide +kernel
theorem wit_HostCas : casBad (mkMsg .host 3 1 0x80000000000 [1]) = true ∧ casBad (mkMsg .host 3 2 0x60108 [1, 2]) = false ∧
    (mkMsg .host 3 2 0x60108 [1, 2]).addr ≠ dvBase ∧ (tmsg (mkMsg .host 3 2 0x60108 [1, 2])).ownedBy .host = true ∧
    (tmsg (mkMsg .board 3 2 0x60108 [1, 2])).ownedBy .board = false := by decide +kernel

end Sys2Proof.Tests
end

