-- ==== Sys2Proof/Proofs/MemoryReadBack.lean ====
section
/-! SUPPORT. What bytes, numbers and words of memory read as after a write (R3), and the obligation about it. -/

namespace Sys2Proof.Machine

open Sys2Proof Sys2Proof.Safety

/-- Byte k of the bytes of a number, lowest first (R3). -/
theorem bytesOf_getD (n x k : Nat) (hk : k < n) : (bytesOf n x).getD k 0 = BitVec.ofNat 8 (x / 2 ^ (8 * k)) := by
  induction n generalizing x k with
  | zero => omega
  | succ n ih =>
    cases k with
    | zero => simp [bytesOf]
    | succ k =>
      have hpow : 256 * 2 ^ (8 * k) = 2 ^ (8 * (k + 1)) := by rw [Nat.mul_succ, Nat.pow_add, Nat.mul_comm]
      simpa [bytesOf, Nat.div_div_eq_div_mul, hpow] using ih (x / 256) k (by omega)

/-- The bytes of a number put together again: its low n bytes. -/
theorem ofBytes_bytesOf (n x : Nat) : ofBytes (bytesOf n x) = x % 2 ^ (8 * n) := by
  induction n generalizing x with
  | zero => simp [bytesOf, ofBytes, Nat.mod_one]
  | succ n ih =>
    calc ofBytes (bytesOf (n + 1) x)
      _ = x % 256 + 256 * (x / 256 % 2 ^ (8 * n)) := by simp [bytesOf, ofBytes, ih]
      _ = x % (256 * 2 ^ (8 * n)) := Nat.mod_mul.symm
      _ = x % 2 ^ (8 * (n + 1)) := by rw [Nat.mul_succ, Nat.pow_add, Nat.mul_comm (2 ^ _)]

/-- Every byte of a write reads as the byte of the number at its place. -/
theorem byte_writeN_inside (s : State) (a n v k : Nat) (h : Memory.wf s.mem = true) (hk : k < n) :
    (s.writeN a n v).byte (a + k) = BitVec.ofNat 8 (v / 2 ^ (8 * k)) := by
  unfold State.writeN State.setBytes State.byte
  dsimp only
  rw [sget_ssetList 0 s.mem a (a + k) _ h, bytesOf_length, if_pos (by omega), Nat.add_sub_cancel_left,
    bytesOf_getD n v k hk]

theorem bytes_writeN (s : State) (a n v : Nat) (h : Memory.wf s.mem = true) :
    (s.writeN a n v).bytes a n = bytesOf n v := by
  apply List.ext_getElem
  · simp [State.bytes, sgetList, bytesOf_length]
  · intro k _ hk
    have hkn : k < n := by simpa [bytesOf_length] using hk
    calc ((s.writeN a n v).bytes a n)[k]
      _ = (s.writeN a n v).byte (a + k) := by simp [State.bytes, sgetList, State.byte]
      _ = (bytesOf n v).getD k 0 := by rw [byte_writeN_inside s a n v k h hkn, bytesOf_getD n v k hkn]
      _ = (bytesOf n v)[k] := List.getElem_eq_getD 0 |>.symm

/-- A read of the place of a write gives the low n bytes of the number written. -/
theorem readN_writeN (s : State) (a n v : Nat) (h : Memory.wf s.mem = true) :
    (s.writeN a n v).readN a n = v % 2 ^ (8 * n) := by
  rw [State.readN, bytes_writeN s a n v h, ofBytes_bytesOf]

theorem word_setWord (s : State) (a : Nat) (x : Word) (h : Memory.wf s.mem = true) : (s.setWord a x).word a = x := by
  rw [State.word, State.setWord, readN_writeN s a 8 _ h, Nat.mod_eq_of_lt x.isLt, BitVec.ofNat_toNat,
    BitVec.setWidth_eq]

theorem writeN_onlyBytes (s : State) (a n v : Nat) (h : Memory.wf s.mem = true) :
    onlyBytes s (s.writeN a n v) a n :=
  fun b hb => byte_writeN s a n v b h hb

/-- A whole word written reads back: the errors that putWord also clears (R248) are no part of what is read. -/
theorem word_putWord (s : State) (a : Nat) (x : Word) (h : Memory.wf s.mem = true) : (s.putWord a x).word a = x :=
  word_setWord s a x h

theorem putWord_onlyBytes (s : State) (a : Nat) (x : Word) (h : Memory.wf s.mem = true) :
    onlyBytes s (s.putWord a x) a 8 :=
  writeN_onlyBytes s a 8 x.toNat h

/-- Settles O60, from what one byte reads as after a write inside and outside of it. -/
theorem memoryReadsBack : Obligations.MemoryReadsBack := by
  intro s a n v h
  refine ⟨writeN_wf s a n v h, readN_writeN s a n v h, writeN_onlyBytes s a n v h, rfl, ?_, ?_⟩
  · intro k hk
    rw [byte_writeN_inside s a n v k h hk, BitVec.toNat_ofNat]
  · exact fun x => ⟨word_putWord s a x h, putWord_onlyBytes s a x h, putWord_wf s a x h⟩

end Sys2Proof.Machine
end

