-- ==== Sys2Proof/Proofs/InstallsAndDrains.lean ====
section
/-! SUPPORT. What the steps of an install, a retirement and the arrival of a DRAIN token leave (R27, R71 to R76, R261,
R263, R371 to R377), and the obligation about them. -/

namespace Sys2Proof.Machine

open Sys2Proof

/-! ### One die of a state -/

theorem modDie_die (s : State) (n m : Nat) (f : Die → Die) (hf : ∀ x, x.n = n → (f x).n = n) :
    (s.modDie n f).die? m = if m = n then (s.die? m).map f else s.die? m :=
  find_map Die.n n f hf s.dies m

theorem modDie_there {s : State} {d : Nat} {x : Die} (h : s.die? d = some x) (f : Die → Die)
    (hf : ∀ x, x.n = d → (f x).n = d) : (s.modDie d f).die? d = some (f x) := by
  simp [modDie_die s d d f hf, h]

theorem setEvent_there {s : State} {t : Nat} {q : Seq} (h : s.seq? t = some q) (bit : Nat) :
    (s.setEvent t bit).seq? t = some { q with evpend := q.evpend ||| BitVec.ofNat 4 (2 ^ bit) } :=
  (modSeq_spec s t q (fun q => { q with evpend := q.evpend ||| BitVec.ofNat 4 (2 ^ bit) }) h fun _ h => h).1

theorem setEvent_other (s : State) {t u : Nat} (h : u ≠ t) (bit : Nat) : (s.setEvent t bit).seq? u = s.seq? u :=
  (modSeq_seq s t u (fun q => { q with evpend := q.evpend ||| BitVec.ofNat 4 (2 ^ bit) }) fun _ h => h).trans (if_neg h)

/-- A fold keeps a relation to its first state that every step keeps. -/
theorem foldl_keeps {σ α : Type} {R : σ → σ → Prop} (hrefl : ∀ s, R s s) (htrans : ∀ {a b c}, R a b → R b c → R a c)
    (f : σ → α → σ) (hf : ∀ s a, R s (f s a)) (xs : List α) (s : σ) : R s (xs.foldl f s) :=
  List.foldlRecOn xs f (hrefl s) fun b hb a _ => htrans hb (hf b a)

/-! ### Task records that end leave installs alone -/

/-- What an install has of its die. -/
def Die.installPart (x : Die) : Nat × Option Install × Bool := (x.n, x.inst, x.csDue)

/-- Sequencers, the installs of all dies and the choices that are due stay. -/
def leavesInstalls (s s' : State) : Prop :=
  s'.seqs = s.seqs ∧ s'.dies.map Die.installPart = s.dies.map Die.installPart

theorem leavesInstalls.refl (s : State) : leavesInstalls s s := ⟨rfl, rfl⟩

theorem leavesInstalls.trans {a b c : State} (h1 : leavesInstalls a b) (h2 : leavesInstalls b c) : leavesInstalls a c :=
  ⟨h2.1.trans h1.1, h2.2.trans h1.2⟩

theorem leavesInstalls.setRecField {s s' : State} (h : leavesInstalls s s') (n off lo w v : Nat) :
    leavesInstalls s (s'.setRecField n off lo w v) := by
  unfold State.setRecField
  split
  · exact h
  · exact h

theorem leavesInstalls.modDie {s s' : State} (h : leavesInstalls s s') (n : Nat) (f : Die → Die)
    (hf : ∀ x, (f x).installPart = x.installPart) : leavesInstalls s (s'.modDie n f) := by
  refine h.trans ⟨rfl, ?_⟩
  simp only [State.modDie, List.map_map]
  refine List.map_congr_left fun x _ => ?_
  simp only [Function.comp]
  split
  · exact hf x
  · rfl

theorem leavesInstalls.die {s s' : State} {d : Nat} {x : Die} (h : leavesInstalls s s') (hx : s.die? d = some x) :
    ∃ y, s'.die? d = some y ∧ y.inst = x.inst ∧ y.csDue = x.csDue := by
  have hmap (s : State) : (s.die? d).map Die.installPart = (s.dies.map Die.installPart).find? fun p => decide (p.1 = d) := by
    rw [List.find?_map]; rfl
  have heq : (s'.die? d).map Die.installPart = some x.installPart := by rw [hmap, h.2, ← hmap, hx]; rfl
  obtain ⟨y, hy, hp⟩ := Option.map_eq_some_iff.mp heq
  simp only [Die.installPart, Prod.mk.injEq] at hp
  exact ⟨y, hy, hp.2.1, hp.2.2⟩

theorem leavesInstalls.foldl {α : Type} {f : State → α → State} (hf : ∀ s a, leavesInstalls s (f s a)) (xs : List α)
    (s : State) : leavesInstalls s (xs.foldl f s) :=
  foldl_keeps refl trans f hf xs s

theorem sendDecs_leavesInstalls (s : State) (h err : Nat) : leavesInstalls s (s.sendDecs h err) := by
  refine leavesInstalls.foldl (fun s k => ?_) _ s
  dsimp only
  split
  · exact .refl s
  · exact .refl s

theorem finishRec_leavesInstalls (s : State) (h : Nat) (abandoned : Bool) : leavesInstalls s (s.finishRec h abandoned) := by
  have hrec := (((leavesInstalls.refl s).setRecField h 0x00 44 4 (if abandoned then 7 else 5)).setRecField h 0x08 0 32 0)
    |>.setRecField h 0x70 0 64 (0 : Word).toNat
  have hend := (hrec.modDie (handleDie h) (fun d => { d with owned := setDel d.owned (handleIdx h) }) fun _ => rfl).modDie
    (handleDie h) (fun d => { d with
      ready := d.ready.filter fun r => decide (r.handle ≠ h), votes := d.votes.filter fun v => decide (v.handle ≠ h) })
    fun _ => rfl
  unfold State.finishRec
  dsimp only
  split
  · exact hend
  · exact hend.trans (sendDecs_leavesInstalls _ _ _)

theorem abandonRec_leavesInstalls (s : State) (h cause : Nat) : leavesInstalls s (s.abandonRec h cause) := by
  have herr : leavesInstalls s (s.addErr h cause) := by
    unfold State.addErr
    split
    · exact (leavesInstalls.refl s).setRecField _ _ _ _ _
    · exact .refl s
  exact herr.trans (finishRec_leavesInstalls _ _ _)

theorem abandonReady_leavesInstalls (s : State) (d : Nat) (cfgid : Word) (cause : Nat) :
    leavesInstalls s (s.abandonReady d cfgid cause) := by
  unfold State.abandonReady
  split
  · exact .refl s
  · exact leavesInstalls.foldl (fun s _ => abandonRec_leavesInstalls s _ _) _ s

/-! ### How an install goes on and ends (R371, R373, R375) -/

/-- The step is one of the die d, whose install i is in progress. -/
structure Installing (s : State) (d : Nat) (x : Die) (i : Install) : Prop where
  actor : s.actor = .die d
  die : s.die? d = some x
  inst : x.inst = some i

/-- Step k of an install is over and the install is not abandoned. -/
def Install.over (i : Install) (s : State) (k : Nat) : Prop := i.step = k ∧ i.due ≤ s.clock ∧ i.abandon = none

/-- A sequencer keeps all but its translation cache. -/
def keepsSeq (s s' : State) (t : Nat) : Prop :=
  ∀ q, s.seq? t = some q → ∃ q', s'.seq? t = some q' ∧ q' = { q with tc := q'.tc }

/-- An install i of a die x is over, and the word of sq.INSTST is v: the die y that is left looks again for a configuration
where tiles have come free, and the issuing tile has its INSTDONE event. -/
def installEnded (s s' : State) (d : Nat) (x : Die) (i : Install) (v : Word) (y : Die) : Prop :=
  s'.die? d = some y ∧ y.inst = none ∧ y.csDue = (x.csDue || (i.pl.isSome && decide (fld v 0 16 ≠ 2))) ∧
    ∀ q, s.seq? i.tile = some q → ∃ q', s'.seq? i.tile = some q' ∧ q'.instst = v ∧ q'.evpend = q.evpend ||| 2 ∧
      q' = { q with instst := q'.instst, evpend := q'.evpend, tc := q'.tc }

/-- An install i of a die x is over, with a word of sq.INSTST. -/
def installOver (s s' : State) (d : Nat) (x : Die) (i : Install) (v : Word) : Prop := ∃ y, installEnded s s' d x i v y

/-- A row ends an install with a word of sq.INSTST. -/
def endsInstall (s : State) (d : Nat) (x : Die) (i : Install) (r : Instr) (v : Word) : Prop :=
  ∃ s' y, exec r s = .next s' ∧ installEnded s s' d x i v y

/-- A row makes an install i', and changes nothing else. -/
def goesOn (s : State) (d : Nat) (x : Die) (r : Instr) (i' : Install) : Prop :=
  ∃ s', exec r s = .next s' ∧ s'.die? d = some { x with inst := some i' } ∧ s' = { s with dies := s'.dies }

theorem installOver.ends {s s' : State} {d : Nat} {x : Die} {i : Install} {v : Word} {r : Instr}
    (h : installOver s s' d x i v) (hr : exec r s = .next s') : endsInstall s d x i r v :=
  let ⟨y, hy⟩ := h
  ⟨s', y, hr, hy⟩

theorem installOver.leaves {s s' s'' : State} {d : Nat} {x : Die} {i : Install} {v : Word}
    (h : installOver s s' d x i v) (hl : leavesInstalls s' s'') : installOver s s'' d x i v := by
  obtain ⟨y, hy, hinst, hdue, hq⟩ := h
  obtain ⟨z, hz, hzi, hzd⟩ := hl.die hy
  refine ⟨z, hz, hzi.trans hinst, hzd.trans hdue, ?_⟩
  unfold State.seq? at hq ⊢
  rwa [hl.1]

/-- An install that ends after its image was read, or after its die has changed otherwise. -/
theorem installOver.after {s s1 s' : State} {d : Nat} {x x1 : Die} {i : Install} {v : Word}
    (h : installOver s1 s' d x1 i v) (hx : x1.csDue = x.csDue) (hk : keepsSeq s s1 i.tile) :
    installOver s s' d x i v := by
  obtain ⟨y, hy, hinst, hdue, hq1⟩ := h
  refine ⟨y, hy, hinst, by rw [hdue, hx], fun q hq => ?_⟩
  obtain ⟨q1, h1, htc⟩ := hk q hq
  obtain ⟨q', h', hst, hev, hrest⟩ := hq1 q1 h1
  rw [htc] at hev hrest
  exact ⟨q', h', hst, hev, hrest⟩

theorem endInstall_over {s : State} {d : Nat} {x : Die} (hx : s.die? d = some x) (i : Install) (v : Word) :
    installOver s (s.endInstall d i v) d x i v := by
  refine ⟨_, modDie_there hx _ fun _ h => h, rfl, ?_, fun q hq => ?_⟩
  · simp [bne, beq_eq_decide]
  · have hst := (modSeq_spec
      (s.modDie d fun x => { x with inst := none, csDue := x.csDue || (i.pl.isSome && fld v 0 16 != 2) })
      i.tile q (fun q => { q with instst := v }) hq fun _ h => h).1
    exact ⟨_, setEvent_there hst 1, rfl, rfl, rfl⟩

theorem refuseInstall_over {s : State} {d : Nat} {x : Die} (hx : s.die? d = some x) (i : Install)
    (cause sec site item amount : Nat) : installOver s (s.refuseInstall d i cause sec site item amount) d x i
      (instst cause sec site item amount 3) := by
  unfold State.refuseInstall
  dsimp only
  split
  · exact (endInstall_over hx i _).leaves (abandonReady_leavesInstalls _ _ _ _)
  · exact endInstall_over hx i _

theorem imgDone_keepsSeq (s : State) (t : Nat) (z : ImgRead) : keepsSeq s (s.imgDone t z) t :=
  fun q hq => ⟨_, (modSeq_spec s t q (fun q => { q with tc := z.tc }) hq fun _ h => h).1, rfl⟩

theorem logRead_rest (s : State) (t cause : Nat) :
    ∃ l n, s.logRead t cause = { s with selog := l, selogLost := n } := by
  unfold State.logRead State.logSe
  split
  · split
    · exact ⟨_, _, rfl⟩
    · exact ⟨_, _, rfl⟩
  · exact ⟨_, _, rfl⟩

/-- An install that is refused for what its image holds. -/
theorem refuse_read {s : State} {d : Nat} {x : Die} (hx : s.die? d = some x) (i : Install) (z : ImgRead)
    (cause sec site item amount : Nat) : installOver s
      ((s.imgDone i.tile z).refuseInstall d i cause sec site item amount) d x i (instst cause sec site item amount 3) :=
  (refuseInstall_over (s := s.imgDone i.tile z) hx i _ _ _ _ _).after rfl (imgDone_keepsSeq s _ z)

/-- An install that is refused because its image could not be read (R264, R373; log 103). -/
theorem refuse_unread {s : State} {d : Nat} {x : Die} (hx : s.die? d = some x) (i : Install) (z : ImgRead) (cause : Nat) :
    installOver s (((s.imgDone i.tile z).logRead i.tile cause).refuseInstall d i cause 0 0 0 0) d x i
      (instst cause 0 0 0 0 3) := by
  obtain ⟨l, n, hlog⟩ := logRead_rest (s.imgDone i.tile z) i.tile cause
  rw [hlog]
  exact (refuseInstall_over (s := { s.imgDone i.tile z with selog := l, selogLost := n }) hx i _ _ _ _ _).after rfl
    (imgDone_keepsSeq s _ z)

section
variable {s : State} {d : Nat} {x : Die} {i : Install}

theorem Installing.instAt (h : Installing s d x i) {k : Nat} (hk : i.over s k) (j : Nat) :
    s.instAt d j = if k = j then some i else none := by
  obtain ⟨hstep, hdue, hab⟩ := hk
  by_cases hj : k = j
  · simp [State.instAt, h.die, h.inst, Option.filter, hstep, hdue, hab, hj]
  · simp [State.instAt, h.die, h.inst, Option.filter, hstep, hj]

theorem modInstall_die (h : Installing s d x i) (f : Install → Install) :
    (s.modInstall d f).die? d = some { x with inst := some (f i) } := by
  have hm := modDie_there h.die (fun x => { x with inst := x.inst.map f }) fun _ h => h
  rwa [h.inst] at hm

theorem modInstall_goesOn (h : Installing s d x i) {r : Instr} {f : Install → Install}
    (hr : exec r s = .next (s.modInstall d f)) : goesOn s d x r (f i) :=
  ⟨_, hr, modInstall_die h f, rfl⟩

/-! ### Steps 1 and 2 -/

theorem exec_installPlacement_step1 (h : Installing s d x i) (hk : i.over s 1) :
    exec .installPlacement s = .next (if i.hdr.isEmpty then s.readHeader d i else s.tryPlace d i) := by
  show execInstallPlacement s = _
  simp [execInstallPlacement, h.actor, h.instAt hk]

theorem exec_installPlacement_step2 (h : Installing s d x i) (hk : i.over s 2) :
    exec .installPlacement s = .next (if i.pl.isNone then s.refuseInstall d i Cause.noplace 0 0 0 0 else s) := by
  show execInstallPlacement s = _
  simp [execInstallPlacement, h.actor, h.instAt hk]

/-- The words of the header that could be read, and whether one is in breach. -/
theorem hdrBreach_iff (hdr : List Word) (good : Nat) :
    ((List.range (good / 8)).any fun n => !hdrWordOk hdr n) = true ↔ ∃ k, 8 * k + 8 ≤ good ∧ hdrWordOk hdr k = false := by
  simp only [List.any_eq_true, List.mem_range, Bool.not_eq_true']
  refine exists_congr fun k => and_congr_left fun _ => ?_
  omega

theorem installPlacement_hdrBreach (h : Installing s d x i) (hk : i.over s 1) (hh : i.hdr = []) {q : Seq}
    (hq : s.seq? i.tile = some q)
    (hb : ∃ k, 8 * k + 8 ≤ (s.readImage q i.va 192).good ∧ hdrWordOk (wordsOf (s.readImage q i.va 192).bytes) k = false) :
    endsInstall s d x i .installPlacement (instst Cause.badfield 0 0 0 0 3) := by
  refine (refuse_read h.die { i with hdr := wordsOf (s.readImage q i.va 192).bytes } (s.readImage q i.va 192)
    Cause.badfield 0 0 0 0).ends ?_
  rw [exec_installPlacement_step1 h hk]
  simp [hh, State.readHeader, hq, (hdrBreach_iff _ _).mpr hb]

theorem installPlacement_hdrUnread (h : Installing s d x i) (hk : i.over s 1) (hh : i.hdr = []) {q : Seq}
    (hq : s.seq? i.tile = some q)
    (hb : ∀ k, 8 * k + 8 ≤ (s.readImage q i.va 192).good → hdrWordOk (wordsOf (s.readImage q i.va 192).bytes) k = true)
    (hc : (s.readImage q i.va 192).cause ≠ 0) :
    endsInstall s d x i .installPlacement (instst (s.readImage q i.va 192).cause 0 0 0 0 3) := by
  have hok : ¬ ((List.range ((s.readImage q i.va 192).good / 8)).any fun n =>
      !hdrWordOk (wordsOf (s.readImage q i.va 192).bytes) n) = true := by
    rw [hdrBreach_iff]
    rintro ⟨k, hg, hbad⟩
    simp [hb k hg] at hbad
  refine (refuse_unread h.die { i with hdr := wordsOf (s.readImage q i.va 192).bytes } (s.readImage q i.va 192) _).ends ?_
  rw [exec_installPlacement_step1 h hk]
  simp only [hh, List.isEmpty_nil, if_true, State.readHeader, hq, if_neg hok, if_pos hc]

theorem installPlacement_placed (h : Installing s d x i) (hk : i.over s 1) (hh : i.hdr ≠ []) {secs : List TileSec}
    {img : ImgRead} {p : Placed} (hr : s.readSections i = some (img, secs))
    (hm : s.mapTiles x (hdrCfgid i.hdr) i.allowed [] (secs.map fun t => ⟨t.lt, t.sites.map (·.ecw)⟩)
      (secs.flatMap (TileSec.boxes ⟨d, 0⟩)) = some p) :
    goesOn s d x .installPlacement { i with
      step := 2, pl := some p.pl, origin := p.origin, fences := s.fenceKey d p.pl.tiles
      due := s.clock + if p.hit then 16 else 200 + 40 * hdrNtile i.hdr + 100 * p.pl.subs.length } := by
  refine modInstall_goesOn h (f := fun j => { j with
    step := 2, pl := some p.pl, origin := p.origin, fences := s.fenceKey d p.pl.tiles
    due := s.clock + if p.hit then 16 else 200 + 40 * hdrNtile i.hdr + 100 * p.pl.subs.length }) ?_
  rw [exec_installPlacement_step1 h hk, if_neg (by simpa using hh)]
  simp only [State.tryPlace, h.die, hr, hm]

theorem installPlacement_noplace (h : Installing s d x i) (hk : i.over s 2) (hp : i.pl = none) :
    endsInstall s d x i .installPlacement (instst Cause.noplace 0 0 0 0 3) := by
  refine (refuseInstall_over h.die i Cause.noplace 0 0 0 0).ends ?_
  rw [exec_installPlacement_step2 h hk]
  simp [hp]

/-! ### Steps 3 and 4 -/

theorem installWake_goesOn (h : Installing s d x i) (hk : i.over s 2) (hp : i.pl ≠ none) :
    goesOn s d x .installWake { i with step := 3, due := s.clock + 400 } := by
  refine modInstall_goesOn h (f := fun j => { j with step := 3, due := s.clock + 400 }) ?_
  show execInstallWake s = _
  simp [execInstallWake, h.actor, h.instAt hk, Option.isSome_iff_ne_none.mpr hp]

theorem installStream_begins (h : Installing s d x i) (hk : i.over s 3) :
    goesOn s d x .installStream
      { i with step := 4, due := s.clock + max (ceilDiv (imageBytes (hdrNtile i.hdr)) 256) 1024 } := by
  refine modInstall_goesOn h (f := fun j =>
    { j with step := 4, due := s.clock + max (ceilDiv (imageBytes (hdrNtile i.hdr)) 256) 1024 }) ?_
  show execInstallStream s = _
  simp [execInstallStream, h.actor, h.instAt hk, State.beginStream]

theorem exec_installStream_step4 (h : Installing s d x i) (hk : i.over s 4) :
    exec .installStream s = .next (s.endStream d i) := by
  show execInstallStream s = _
  simp [execInstallStream, h.actor, h.instAt hk]

theorem installStream_breach (h : Installing s d x i) (hk : i.over s 4) {p : Placing} {img : ImgRead} {secs : List TileSec}
    (hp : i.pl = some p) (hr : s.readSections i = some (img, secs)) {b : Breach}
    (hb : sectionsBreach i.hdr secs img.good = some b) :
    endsInstall s d x i .installStream (instst b.cause b.sec b.site b.item 0 3) := by
  refine (refuse_read h.die i img b.cause b.sec b.site b.item 0).ends ?_
  rw [exec_installStream_step4 h hk]
  simp only [State.endStream, hp, hr, hb]

theorem installStream_unread (h : Installing s d x i) (hk : i.over s 4) {p : Placing} {img : ImgRead} {secs : List TileSec}
    (hp : i.pl = some p) (hr : s.readSections i = some (img, secs)) (hb : sectionsBreach i.hdr secs img.good = none)
    (hc : img.cause ≠ 0) : endsInstall s d x i .installStream (instst img.cause 0 0 0 0 3) := by
  refine (refuse_unread h.die i img img.cause).ends ?_
  rw [exec_installStream_step4 h hk]
  simp only [State.endStream, hp, hr, hb, if_pos hc]

/-- The install that step 4 leaves: the elements of the used site records, the boxes with the words of the placement, and an
identifier. -/
def Install.streamed (i : Install) (hash : Word) (clock d : Nat) (p : Placing) (secs : List TileSec) : Install :=
  let bs := p.apply ⟨d, 48⟩ (secs.flatMap (TileSec.boxes ⟨d, 48⟩))
  { i with
    step := 5, boxes := bs, groups := secs.map TileSec.groups, due := clock + 64 + 2 * dmWords bs
    elems := (secs.zip p.tiles).flatMap fun y => secElems ⟨d, 48⟩ p y.1 y.2.2
    hash := hash }

theorem installStream_streamed (h : Installing s d x i) (hk : i.over s 4) {p : Placing} {img : ImgRead}
    {secs : List TileSec} (hp : i.pl = some p) (hr : s.readSections i = some (img, secs))
    (hb : sectionsBreach i.hdr secs img.good = none) (hc : img.cause = 0) :
    let id := imageId (i.hdr.flatMap (fun w => bytesOf 8 w.toNat) ++ img.bytes)
    ∃ s', exec .installStream s = .next s' ∧
      s'.die? d = some { x with inst := some (i.streamed id s.clock d p secs) } ∧ s'.mem = s.mem ∧ s'.loads = s.loads ∧
      s'.elems = s.elems ∧ keepsSeq s s' i.tile := by
  intro id
  have hread : Installing (s.imgDone i.tile img) d x i := ⟨h.actor, h.die, h.inst⟩
  refine ⟨(s.imgDone i.tile img).modInstall d fun j => j.streamed id s.clock d p secs, ?_, modInstall_die hread _,
    rfl, rfl, rfl, imgDone_keepsSeq s _ img⟩
  rw [exec_installStream_step4 h hk]
  simp only [State.endStream, hp, hr, hb, hc]
  rfl

/-! ### Steps 5 and 6 -/

theorem installDepthGrant_refused (h : Installing s d x i) (hk : i.over s 5) {p : Placing} (hp : i.pl = some p) {e : Short}
    (hg : grantAll (p.tiles.map (·.1)) i.elems i.boxes = .error e) :
    endsInstall s d x i .installDepthGrant (instst Cause.depth e.sec e.site e.input e.tokens 3) := by
  refine (refuseInstall_over h.die i Cause.depth e.sec e.site e.input e.tokens).ends ?_
  show execInstallDepthGrant s = _
  simp [execInstallDepthGrant, h.actor, h.instAt hk, hp, hg]

theorem installDepthGrant_granted (h : Installing s d x i) (hk : i.over s 5) {p : Placing} (hp : i.pl = some p)
    {bs : List Box} (hg : grantAll (p.tiles.map (·.1)) i.elems i.boxes = .ok bs) :
    goesOn s d x .installDepthGrant { i with step := 6, boxes := bs, due := s.clock + 8 } := by
  refine modInstall_goesOn h (f := fun j => { j with step := 6, boxes := bs, due := s.clock + 8 }) ?_
  show execInstallDepthGrant s = _
  simp [execInstallDepthGrant, h.actor, h.instAt hk, hp, hg]

theorem exec_installCommit (h : Installing s d x i) (hk : i.over s 6) {p : Placing} (hp : i.pl = some p) :
    exec .installCommit s = .next (if i.hash ≠ hdrCfgid i.hdr then s.refuseInstall d i Cause.badid 0 0 0 0
      else s.commitInstall d x i p) := by
  show execInstallCommit s = _
  simp only [execInstallCommit, h.actor, h.die, h.instAt hk, if_true, hp]
  split <;> rfl

theorem installCommit_badid (h : Installing s d x i) (hk : i.over s 6) {p : Placing} (hp : i.pl = some p)
    (hid : i.hash ≠ hdrCfgid i.hdr) : endsInstall s d x i .installCommit (instst Cause.badid 0 0 0 0 3) := by
  refine (refuseInstall_over h.die i Cause.badid 0 0 0 0).ends ?_
  rw [exec_installCommit h hk hp, if_pos hid]

theorem restoreFor_none (s : State) (x : Die) (cfgid : Word) (hr : x.csRestore = []) : s.restoreFor x cfgid = none := by
  simp [State.restoreFor, hr]

/-- The fabric load that a commit makes when no restore waits for it (R349, R373). -/
def Install.load (i : Install) (s : State) (d : Nat) (p : Placing) : Load :=
  { ref := ⟨d, s.freeFab d⟩, cfgid := hdrCfgid i.hdr, tiles := (p.tiles.zip i.groups).map fun y => ⟨y.1.1, y.1.2, y.2⟩
    entries := (List.range (hdrNentry i.hdr)).map fun n =>
      { lt := (p.tiles.getD (hdrEntry i.hdr n).1 (0, 0)).1, site := (hdrEntry i.hdr n).2.1, port := (hdrEntry i.hdr n).2.2,
        head := 0, count := 0, reqs := [], buf := [], turn := 7 }
    slots := List.replicate 8 none, since := s.clock, lastDisp := s.clock, phase := .resident, reason := 0, disp := none,
    returned := [], retireFor := [], restoreOf := none, heldReq := none, probes := [], phaseAt := s.clock }

/-- A state with what a commit adds to it: the fabric load, its elements and its boxes. -/
def State.withLoad (s : State) (d : Nat) (i : Install) (p : Placing) : State :=
  { s with
    loads := s.loads ++ [i.load s d p]
    elems := s.elems ++ i.elems.map fun (e : Elem) =>
      { s.seeded e with ref := { e.ref with fab := s.freeFab d }, stopped := false }
    boxes := s.boxes ++ i.boxes.map fun (b : Box) => { b with load := ⟨d, s.freeFab d⟩ } }

theorem commitInstall_eq (s : State) (d : Nat) (x : Die) (i : Install) (p : Placing) (hr : x.csRestore = []) :
    s.commitInstall d x i p = ((s.withLoad d i p).modDie d fun y =>
      y.keepPlacing ⟨hdrCfgid i.hdr, i.origin, i.fences, p⟩).endInstall d i (instst 0 0 0 0 0 2) := by
  unfold State.commitInstall
  dsimp only
  rw [restoreFor_none s x _ hr]
  simp only [Option.all_none, List.filter_true]
  rfl

theorem commitInstall_over (hx : s.die? d = some x) (p : Placing) (hr : x.csRestore = []) :
    installOver s (s.commitInstall d x i p) d x i (instst 0 0 0 0 0 2) := by
  rw [commitInstall_eq s d x i p hr]
  have hx' := modDie_there (s := s.withLoad d i p) hx
    (fun y => y.keepPlacing ⟨hdrCfgid i.hdr, i.origin, i.fences, p⟩) fun _ h => h
  exact (endInstall_over hx' i _).after rfl fun q hq => ⟨q, hq, rfl⟩

theorem seeded_there {e : Elem} {q : Seq} (hq : s.seq? (pkgTile e.ref.die e.ptile) = some q) :
    s.seeded e = { e with rank := q.rndrank.toNat, step := q.rndstep.toNat } := by
  simp only [State.seeded, hq]

theorem installAbandon_ends (h : Installing s d x i) {a : Nat} (ha : i.abandon = some a) (hc : a ≤ s.clock) :
    endsInstall s d x i .installAbandon (instst 0 0 0 0 0 4) := by
  refine (endInstall_over h.die i _).ends ?_
  show execInstallAbandon s = _
  simp [execInstallAbandon, h.actor, h.die, h.inst, ha, hc]

end

/-! ### sq.INSTST (R375) -/

theorem foldl_fields_cons (n lo v : Nat) (fs : List (Nat × Nat)) :
    (((lo, v) :: fs).map fun f => f.2 * 2 ^ f.1).foldl (· + ·) n =
      (fs.map fun f => f.2 * 2 ^ f.1).foldl (· + ·) (n + v * 2 ^ lo) := rfl

/-- The fields do not overlap. They are added up by rewriting: the kernel does not reduce the sum of the literals' powers. -/
theorem instst_toNat {cause sec site item state : Nat} (amount : Nat) (hc : cause < 2 ^ 16) (hsec : sec < 2 ^ 8)
    (hsite : site < 2 ^ 8) (hitem : item < 16) (hstate : state < 16) : (instst cause sec site item amount state).toNat =
      state + min 0xFFF amount * 2 ^ 16 + item * 2 ^ 28 + site * 2 ^ 32 + sec * 2 ^ 40 + cause * 2 ^ 48 := by
  rw [instst, wordOfFields]
  iterate 6 rw [foldl_fields_cons]
  rw [List.map_nil, List.foldl_nil, BitVec.toNat_ofNat, Nat.mod_eq_of_lt (by omega)]
  omega

theorem instst_fields (cause sec site item amount state : Nat) (hc : cause < 2 ^ 16) (hsec : sec < 2 ^ 8)
    (hsite : site < 2 ^ 8) (hitem : item < 16) (hstate : state < 16) :
    let v := instst cause sec site item amount state
    fld v 48 16 = cause ∧ fld v 40 8 = sec ∧ fld v 32 8 = site ∧ fld v 28 4 = item ∧ fld v 16 12 = min 0xFFF amount ∧
      fld v 0 16 = state := by
  simp only [fld, fldN, instst_toNat amount hc hsec hsite hitem hstate]
  refine ⟨?_, ?_, ?_, ?_, ?_, ?_⟩ <;> omega

/-! ### The elements of a tile section (R48, R105, R373) -/

@[simp] theorem mkElem_ref (r : ElemRef) (pt ps : Nat) (x : SiteRec) : (mkElem r pt ps x).ref = r := rfl

theorem mkElem_items (r : ElemRef) (pt ps : Nat) (x : SiteRec) :
    let e := mkElem r pt ps x
    e.ref = r ∧ e.ptile = pt ∧ e.psite = ps ∧ e.ecw = x.ecw ∧ e.slots = x.slots ∧
    e.c = x.consts.map (fun w => ⟨w, residue w⟩) ∧ (∀ k, k < 8 → e.p.getD k false = x.ecw.getLsbD (24 + k)) ∧
    (∀ ts ∈ e.ins, ts = []) ∧ (∀ ts ∈ e.outs, ts = []) ∧ (∀ y ∈ e.d, y.val = 0 ∧ y.pres = false) ∧ e.spe.bank = [] ∧
    (∀ y ∈ e.mxe.t, y.st = 0 ∧ y.fill = 0 ∧ y.data = []) ∧ (∀ y ∈ e.mxe.a, y.st = 0 ∧ y.words = []) ∧ e.trap = none := by
  refine ⟨rfl, rfl, rfl, rfl, rfl, rfl, fun k hk => range_map_getD _ _ _ _ hk, fun ts h => List.eq_of_mem_replicate h,
    fun ts h => List.eq_of_mem_replicate h, fun y h => ?_, rfl, fun y h => ?_, fun y h => ?_, rfl⟩
  · rw [List.eq_of_mem_replicate (b := y) h]; exact ⟨rfl, rfl⟩
  · rw [List.eq_of_mem_replicate (b := y) h]; exact ⟨rfl, rfl, rfl⟩
  · rw [List.eq_of_mem_replicate (b := y) h]; exact ⟨rfl, rfl⟩

theorem mem_range_zip {α : Type} {xs : List α} {n k : Nat} {x : α} :
    (k, x) ∈ (List.range n).zip xs ↔ k < n ∧ xs[k]? = some x := by
  constructor
  · intro h
    obtain ⟨j, hj, he⟩ := List.mem_iff_getElem.mp h
    simp only [List.getElem_zip, List.getElem_range, Prod.mk.injEq] at he
    obtain ⟨rfl, rfl⟩ := he
    simp only [List.length_zip, List.length_range] at hj
    exact ⟨by omega, List.getElem?_eq_getElem (by omega)⟩
  · rintro ⟨hk, hx⟩
    obtain ⟨hl, rfl⟩ := List.getElem?_eq_some_iff.mp hx
    exact List.mem_iff_getElem.mpr ⟨k, by simpa using ⟨hk, hl⟩, by simp⟩

theorem secElems_used (l : LoadRef) (p : Placing) (t : TileSec) (pt site : Nat) (x : SiteRec) (hs : site < 192)
    (hx : t.sites[site]? = some x) (hu : x.ecw ≠ 0) :
    mkElem ⟨l.die, l.fab, t.lt, site⟩ pt (p.siteOf t.lt site) x ∈ secElems l p t pt :=
  List.mem_filterMap.mpr ⟨(site, x), mem_range_zip.mpr ⟨hs, hx⟩, if_pos hu⟩

/-- Every element of a section is that of a record whose site it has, which is used or an SPE's. -/
theorem secElems_of_mem {l : LoadRef} {p : Placing} {t : TileSec} {pt : Nat} {e : Elem} (he : e ∈ secElems l p t pt) :
    ∃ site x, t.sites[site]? = some x ∧ e.ref = ⟨l.die, l.fab, t.lt, site⟩ ∧ (x.ecw = 0 → kindAt site = .spe) := by
  obtain ⟨⟨site, x⟩, hmem, hmk⟩ := List.mem_filterMap.mp he
  refine ⟨site, x, (mem_range_zip.mp hmem).2, ?_⟩
  dsimp only at hmk
  split at hmk
  · next hu => cases hmk; exact ⟨rfl, fun h => absurd h hu⟩
  · split at hmk
    · next hspe => cases hmk; exact ⟨rfl, fun _ => hspe⟩
    · cases hmk

theorem secElems_unused (l : LoadRef) (p : Placing) (t : TileSec) (pt site : Nat) (x : SiteRec)
    (hx : t.sites[site]? = some x) (hu : x.ecw = 0) (hk : kindAt site ≠ .spe) (e : Elem) (he : e ∈ secElems l p t pt) :
    e.ref ≠ ⟨l.die, l.fab, t.lt, site⟩ := by
  obtain ⟨site', x', hx', href, hspe⟩ := secElems_of_mem he
  rw [href]
  intro heq
  cases heq
  cases hx'.symm.trans hx
  exact hk (hspe hu)

/-! ### Retirement (R27, R376) -/

theorem removeLoad_load (s : State) (l m : LoadRef) : (s.removeLoad l).load? m = if m = l then none else s.load? m := by
  simp only [State.load?, State.removeLoad, List.find?_filter]
  by_cases hm : m = l
  · subst hm; simp
  · rw [if_neg hm]
    congr 1
    funext x
    by_cases hx : x.ref = m
    · simp [hx, hm]
    · simp [hx]

theorem removeLoad_seq (s : State) (l : LoadRef) (t : Nat) : (s.removeLoad l).seq? t =
    (s.seq? t).map fun q => { q with pend := q.pend.filter fun p => !p.ofLoad l } := by
  simp only [State.seq?, State.removeLoad, List.find?_map]
  rfl

theorem removeLoad_elems {s : State} {l : LoadRef} {e : Elem} (he : e ∈ (s.removeLoad l).elems) : e.ref.load ≠ l := by
  simpa [State.removeLoad] using (List.mem_filter.mp he).2

/-- Setting an event of several tiles changes events alone, takes none away and sets each. -/
theorem setEvents_sets (bit : Nat) (hbit : bit < 4) (ts : List Nat) (s : State) :
    (∃ qs, ts.foldl (fun s t => s.setEvent t bit) s = { s with seqs := qs }) ∧
    ∀ t q, s.seq? t = some q → t ∈ ts ∨ q.evpend.getLsbD bit = true →
      ∃ q', (ts.foldl (fun s t => s.setEvent t bit) s).seq? t = some q' ∧ q'.evpend.getLsbD bit = true := by
  induction ts generalizing s with
  | nil => exact ⟨⟨s.seqs, rfl⟩, fun t q hq h => ⟨q, hq, h.resolve_left List.not_mem_nil⟩⟩
  | cons u ts ih =>
    obtain ⟨⟨qs, hqs⟩, hev⟩ := ih (s.setEvent u bit)
    refine ⟨⟨qs, hqs⟩, fun t q hq h => ?_⟩
    have hset : (BitVec.ofNat 4 (2 ^ bit)).getLsbD bit = true := by
      rw [BitVec.getLsbD_ofNat, Nat.testBit_two_pow_self, decide_eq_true hbit]; rfl
    by_cases htu : t = u
    · subst htu
      exact hev t _ (setEvent_there hq bit) (Or.inr (by rw [BitVec.getLsbD_or, hset, Bool.or_true]))
    · have hsame : (s.setEvent u bit).seq? t = some q := by
        rw [setEvent_other s htu, hq]
      exact hev t q hsame (h.imp_left fun hm => (List.mem_cons.mp hm).resolve_left htu)

theorem exec_tokenPass {s : State} {l : LoadRef} {x : Load} (ha : s.actor = .load l) (hl : s.load? l = some x)
    (hp : x.phase = .retiring) : exec .reconfigurationTokenPass s = .next (if s.loadDrained l = false then s else
      x.retireFor.foldl (fun s t => s.setEvent t 2) ((s.removeLoad l).wantChoice l.die)) := by
  show execReconfigurationTokenPass s = _
  cases hd : s.loadDrained l <;> simp [execReconfigurationTokenPass, ha, hl, hp, hd]

theorem tokenPass_retires {s : State} {l : LoadRef} {x : Load} (ha : s.actor = .load l) (hl : s.load? l = some x)
    (hp : x.phase = .retiring) (hd : s.loadDrained l = true) :
    ∃ s', exec .reconfigurationTokenPass s = .next s' ∧ s'.load? l = none ∧
      (∀ m, m ≠ l → s'.load? m = s.load? m) ∧ (∀ e ∈ s'.elems, e.ref.load ≠ l) ∧ s'.mem = s.mem ∧
      ∀ t ∈ x.retireFor, ∀ q, s.seq? t = some q → ∃ q', s'.seq? t = some q' ∧ q'.evpend.getLsbD 2 = true := by
  obtain ⟨⟨qs, hqs⟩, hev⟩ := setEvents_sets 2 (by decide) x.retireFor ((s.removeLoad l).wantChoice l.die)
  refine ⟨_, by rw [exec_tokenPass ha hl hp, hd, if_neg Bool.true_eq_false.mp], ?_, ?_, ?_, ?_, fun t ht q hq => ?_⟩
  · rw [hqs]; exact (removeLoad_load s l l).trans (if_pos rfl)
  · intro m hm; rw [hqs]; exact (removeLoad_load s l m).trans (if_neg hm)
  · rw [hqs]; exact fun e he => removeLoad_elems (s := s) he
  · rw [hqs]; rfl
  · have hleft := removeLoad_seq s l t
    rw [hq] at hleft
    exact hev t _ hleft (Or.inl ht)

/-! ### A DRAIN token at its memory edge (R261, R263) -/

/-- The sequencers stay, and no access is new. -/
def noNewAccess (s s' : State) : Prop := s'.seqs = s.seqs ∧ s'.accs ⊆ s.accs

theorem noNewAccess.refl (s : State) : noNewAccess s s := ⟨rfl, List.Subset.refl _⟩

theorem noNewAccess.trans {a b c : State} (h1 : noNewAccess a b) (h2 : noNewAccess b c) : noNewAccess a c :=
  ⟨h2.1.trans h1.1, List.Subset.trans h2.2 h1.2⟩

theorem noNewAccess.acc {s s' : State} {n : Nat} (h : noNewAccess s s') (hn : s.acc? n = none) : s'.acc? n = none :=
  List.find?_eq_none.mpr fun a ha => List.find?_eq_none.mp hn a (h.2 ha)

theorem noNewAccess.foldl {α : Type} {f : State → α → State} (hf : ∀ s a, noNewAccess s (f s a)) (xs : List α)
    (s : State) : noNewAccess s (xs.foldl f s) :=
  foldl_keeps refl trans f hf xs s

theorem dropAcc_noNewAccess (s : State) (n : Nat) : noNewAccess s (s.dropAcc n) := ⟨rfl, fun _ => List.mem_of_mem_filter⟩

theorem dropAcc_acc (s : State) (n : Nat) : (s.dropAcc n).acc? n = none := by
  simp [State.acc?, State.dropAcc, List.find?_eq_none]

theorem addErr_noNewAccess (s : State) (h c : Nat) : noNewAccess s (s.addErr h c) := by
  unfold State.addErr State.setErr State.setRecField
  repeat' split
  all_goals exact .refl s

theorem accFail_noNewAccess (s : State) (w : Access) (cause : Nat) : noNewAccess s (s.accFail w cause) := by
  have hreply (s1 : State) (h : noNewAccess s s1) (r : Reply) : noNewAccess s (s1.accReply w r) :=
    h.trans (dropAcc_noNewAccess s1 w.id)
  refine hreply _ ?_ _
  split
  · split
    · unfold State.taskErr
      split
      · exact addErr_noNewAccess s _ _
      · exact .refl s
    · exact .refl s
  · exact .refl s

theorem reply_noNewAccess (s : State) (r : ElemRef) (gid cell : Nat) (rep : Reply) (due : Nat) :
    noNewAccess s (s.reply r gid cell rep due) := .refl s

theorem deliverRow_noNewAccess (s : State) (g : GdeEntry) (q : GReq) : noNewAccess s (s.deliverRow g q) := by
  unfold State.deliverRow
  dsimp only
  split
  · split
    · exact .refl s
    · next c rest _ =>
      exact (reply_noNewAccess s _ _ c _ _).trans (noNewAccess.foldl (fun s c => reply_noNewAccess s _ _ c _ _) rest _)
  · exact noNewAccess.foldl (fun s p => reply_noNewAccess s _ _ p.1 _ _) (q.cells.zip g.got) s

theorem gdeRequest_noNewAccess (s : State) (w : GdeWait) : noNewAccess s (s.gdeRequest w) := by
  unfold State.gdeRequest
  dsimp only
  repeat' split
  all_goals exact .refl s

theorem freeGde_noNewAccess (s : State) (d n : Nat) : noNewAccess s (s.freeGde d n) := by
  unfold State.freeGde State.gdeDrain
  split
  · exact .refl s
  · exact noNewAccess.foldl gdeRequest_noNewAccess _ _

theorem cancelRow_noNewAccess (s : State) (r : ElemRef) (lo hi d : Nat) (g : GdeEntry) :
    noNewAccess s (s.cancelRow r lo hi d g) := by
  have hgone : noNewAccess s ((s.goneReqs r lo hi g).foldl (fun s q => s.deliverRow { g with cause := Cause.page } q) s) :=
    noNewAccess.foldl (fun s q => deliverRow_noNewAccess s _ q) _ s
  unfold State.cancelRow
  dsimp only
  split
  · exact hgone.trans (freeGde_noNewAccess _ _ _)
  · exact hgone

theorem cancelDefers_noNewAccess (s : State) (r : ElemRef) (lo hi : Nat) : noNewAccess s (s.cancelDefers r lo hi) := by
  have haccs : noNewAccess s ((s.accs.filter fun x => x.ref == r && x.deferred && tinvHits lo hi x.va).foldl
      (fun s x => s.accFail x Cause.page) s) := noNewAccess.foldl (fun s w => accFail_noNewAccess s w _) _ s
  refine haccs.trans (noNewAccess.foldl (fun s d => ?_) _ _)
  exact noNewAccess.foldl (fun s g => cancelRow_noNewAccess s r lo hi d.n g) _ s

theorem dropNodes_noNewAccess (s : State) (l : LoadRef) (lo hi : Nat) : noNewAccess s (s.dropNodes l lo hi) := by
  unfold State.dropNodes
  split <;> exact .refl _

/-- What the memory edge does for a DRAIN token, before its sequencer counts it. -/
def State.atEdge (s : State) (n lo hi : Nat) (r : ElemRef) : State :=
  ((s.dropAcc n).cancelDefers r lo hi).dropNodes r.load lo hi

theorem atEdge_noNewAccess (s : State) (n lo hi : Nat) (r : ElemRef) :
    noNewAccess (s.dropAcc n) (s.atEdge n lo hi r) :=
  (cancelDefers_noNewAccess _ _ _ _).trans (dropNodes_noNewAccess _ _ _ _)

/-- A sequencer counts a DRAIN token of the TINV k. -/
def Seq.countDrain (k : Nat) (q : Seq) : Seq :=
  { q with tinvs := q.tinvs.map fun x => if x.1 = k then (x.1, x.2 - 1) else x }

/-- The last DRAIN token of the TINV k has been counted. -/
def Seq.drainDone (k : Nat) (q : Seq) : Bool := q.tinvs.any fun x => decide (x.1 = k ∧ x.2 = 0)

theorem drainDone_countDrain (k : Nat) (q : Seq) :
    (q.countDrain k).drainDone k = true ↔ ∃ y ∈ q.tinvs, y.1 = k ∧ (y.2 = 1 ∨ y.2 = 0) := by
  simp only [Seq.drainDone, Seq.countDrain, List.any_map, List.any_eq_true, Function.comp, decide_eq_true_eq]
  refine exists_congr fun y => and_congr_right fun _ => ?_
  by_cases hy : y.1 = k
  · simp only [hy, if_true, true_and]; omega
  · simp [hy]

/-- What a DRAIN token leaves that its sequencer has counted. -/
def State.drainCounted (s : State) (n tile k lo hi : Nat) (r : ElemRef) : State :=
  (s.atEdge n lo hi r).modSeq tile (Seq.countDrain k)

theorem drainCounted_acc (s : State) (n tile k lo hi : Nat) (r : ElemRef) :
    (s.drainCounted n tile k lo hi r).acc? n = none :=
  (atEdge_noNewAccess s n lo hi r).acc (dropAcc_acc s n)

theorem drainCounted_seq {s : State} {tile : Nat} {q : Seq} (hq : s.seq? tile = some q) (n k lo hi : Nat) (r : ElemRef) :
    (s.drainCounted n tile k lo hi r).seq? tile = some (q.countDrain k) := by
  have hedge : (s.atEdge n lo hi r).seq? tile = some q := by
    unfold State.seq?; rw [(atEdge_noNewAccess s n lo hi r).1]; exact hq
  exact (modSeq_spec _ tile q (Seq.countDrain k) hedge fun _ h => h).1

theorem exec_drainArrival {s : State} {n tile k lo hi : Nat} {w : Access} {q : Seq} (ha : s.actor = .id n)
    (hw : s.acc? n = some w) (hop : w.op = .drain (tile * 2 ^ 40 + k) lo hi) (hk : k < 2 ^ 40) (hdue : w.due ≤ s.clock)
    (hdr : s.drained w lo hi = true) (hq : s.seq? tile = some q) :
    exec .drainArrival s = .next (if (q.countDrain k).drainDone k then
      (s.drainCounted n tile k lo hi w.ref).tinvComplete tile k else s.drainCounted n tile k lo hi w.ref) := by
  have htile : (tile * 2 ^ 40 + k) / 2 ^ 40 = tile := by omega
  have hmod : (tile * 2 ^ 40 + k) % 2 ^ 40 = k := by omega
  have hcounted := drainCounted_seq hq n k lo hi w.ref
  unfold State.drainCounted State.atEdge Seq.countDrain at hcounted
  show execDrainArrival s = _
  unfold execDrainArrival
  simp only [ha, hw, hop, htile, hmod]
  rw [if_neg (by simp [hdr, Nat.not_lt.mpr hdue])]
  simp only [hcounted]
  rfl

theorem tinvComplete_acc (s : State) (tile k n : Nat) : (s.tinvComplete tile k).acc? n = s.acc? n := rfl

theorem tinvComplete_seq {s : State} {tile k : Nat} {q : Seq} (hq : s.seq? tile = some q) :
    (s.tinvComplete tile k).seq? tile = some { q with
      tinvdone := BitVec.ofNat 40 k, tinvs := q.tinvs.filter fun x => decide (x.1 ≠ k), evpend := q.evpend ||| 8 } :=
  setEvent_there (modSeq_spec s tile q (fun q =>
    { q with tinvdone := BitVec.ofNat 40 k, tinvs := q.tinvs.filter fun x => decide (x.1 ≠ k) }) hq fun _ h => h).1 3

theorem drainArrival_counts (s : State) (n tile k lo hi : Nat) (w : Access) (q : Seq) (ha : s.actor = .id n)
    (hw : s.acc? n = some w) (hop : w.op = .drain (tile * 2 ^ 40 + k) lo hi) (hk : k < 2 ^ 40) (hdue : w.due ≤ s.clock)
    (hdr : s.drained w lo hi = true) (hq : s.seq? tile = some q) :
    ∃ s' q', exec .drainArrival s = .next s' ∧ s'.acc? n = none ∧ s'.seq? tile = some q' ∧
      ((∀ y ∈ q.tinvs, y.1 = k → y.2 ≠ 1 ∧ y.2 ≠ 0) → q'.tinvdone = q.tinvdone ∧ q'.evpend = q.evpend) ∧
      ((k, 1) ∈ q.tinvs → q'.tinvdone = BitVec.ofNat 40 k ∧ q'.evpend = q.evpend ||| 8 ∧ ∀ y ∈ q'.tinvs, y.1 ≠ k) := by
  have hexec := exec_drainArrival ha hw hop hk hdue hdr hq
  have hacc := drainCounted_acc s n tile k lo hi w.ref
  have hseq := drainCounted_seq hq n k lo hi w.ref
  cases hd : (q.countDrain k).drainDone k with
  | true =>
    rw [hd, if_pos rfl] at hexec
    refine ⟨_, _, hexec, (tinvComplete_acc _ _ _ _).trans hacc, tinvComplete_seq hseq, fun hno => ?_, fun _ => ⟨rfl, rfl, fun y hy => ?_⟩⟩
    · obtain ⟨y, hy, hyk, hlast⟩ := (drainDone_countDrain k q).mp hd
      obtain ⟨h1, h0⟩ := hno y hy hyk
      exact (hlast.elim h1 h0).elim
    · simpa using (List.mem_filter.mp hy).2
  | false =>
    rw [hd, if_neg Bool.false_ne_true] at hexec
    refine ⟨_, _, hexec, hacc, hseq, fun _ => ⟨rfl, rfl⟩, fun hlast => ?_⟩
    have hdone := (drainDone_countDrain k q).mpr ⟨(k, 1), hlast, rfl, .inl rfl⟩
    exact absurd (hd.symm.trans hdone) Bool.false_ne_true

/-! ### The obligation -/

/-- Settles O45: each step of an install by the lemma about it, then the layout of sq.INSTST, the elements of a section,
retirement and the DRAIN token. -/
theorem installsAndDrains : Obligations.InstallsAndDrains := by
  refine ⟨⟨fun s d x i ha hd hi => ?_, instst_fields, mkElem_items, fun l p t pt site x hs hx => ?_,
    fun s l x ha hl hp => ?_⟩, drainArrival_counts⟩
  · have h : Installing s d x i := ⟨ha, hd, hi⟩
    refine ⟨?_, ?_, ?_, ?_, ?_, ?_, ?_, ?_, ?_, ?_⟩
    · rintro q _ hk hh hq _ rfl
      exact ⟨installPlacement_hdrBreach h hk hh hq, installPlacement_hdrUnread h hk hh hq⟩
    · exact fun secs img p hk hh hr hm => installPlacement_placed h hk hh hr hm
    · exact installPlacement_noplace h
    · exact installWake_goesOn h
    · exact installStream_begins h
    · exact fun p img secs hk hp hr => ⟨fun b hb => installStream_breach h hk hp hr hb,
        installStream_unread h hk hp hr, installStream_streamed h hk hp hr⟩
    · exact fun e p hk hp hg => installDepthGrant_refused h hk hp hg
    · exact fun bs p hk hp hg => installDepthGrant_granted h hk hp hg
    · refine fun p hk hp => ⟨installCommit_badid h hk hp, fun hid hr _ => ?_⟩
      have hexec : exec .installCommit s = .next (s.commitInstall d x i p) := by
        rw [exec_installCommit h hk hp, if_neg (not_not.mpr hid)]
      refine ⟨s.commitInstall d x i p, i.load s d p, (commitInstall_over hd p hr).ends hexec, hexec, ?_⟩
      rw [commitInstall_eq s d x i p hr]
      exact ⟨rfl, rfl, rfl, rfl, rfl, by simp [Install.load], rfl, rfl, rfl, rfl, fun e q => seeded_there⟩
    · exact fun a => installAbandon_ends h
  · exact ⟨secElems_used l p t pt site x hs hx, secElems_unused l p t pt site x hx⟩
  · refine ⟨fun hdr => ?_, tokenPass_retires ha hl hp⟩
    rw [exec_tokenPass ha hl hp, if_pos hdr]

end Sys2Proof.Machine
end

section
/-! SUPPORT. The decoder and the encoder of sequencer words (R62 to R64): which words are undefined, and that a word and
its instruction give each other. -/

namespace Sys2Proof.Machine

open Sys2Proof

/-! ### The fields of a sequencer word (R62) -/

theorem ofNat_eq_of_mod {w n : Nat} {v : BitVec w} (h : n % 2 ^ w = v.toNat) : BitVec.ofNat w n = v :=
  BitVec.eq_of_toNat_eq ((BitVec.toNat_ofNat n w).trans h)

theorem ofNat_eq_zero_iff (w n : Nat) : BitVec.ofNat w n = 0 ↔ n % 2 ^ w = 0 := by
  simp [← BitVec.toNat_inj]

/-- A field of a sequencer word, which a register of 64 bits holds whole. -/
theorem fld_ofNat {n : Nat} (h : n < 2 ^ 32) (lo k : Nat) : fld (BitVec.ofNat 64 n) lo k = n / 2 ^ lo % 2 ^ k := by
  rw [fld, fldN, BitVec.toNat_ofNat, Nat.mod_eq_of_lt (a := n) (by omega)]

/-- What the decoder takes out of a word of form R. -/
theorem formR_fields {n maj fn : Nat} {d a b : BitVec 5} (h : formR maj d.toNat a.toNat b.toNat fn = n)
    (hfn : fn < 2 ^ 11) :
    n / 2 ^ 26 = maj ∧ BitVec.ofNat 5 (n / 2 ^ 21) = d ∧ BitVec.ofNat 5 (n / 2 ^ 16) = a ∧
      BitVec.ofNat 5 (n / 2 ^ 11) = b ∧ n % 2 ^ 11 = fn ∧ BitVec.ofNat 11 n = BitVec.ofNat 11 fn := by
  unfold formR at h
  have hd := d.isLt
  have ha := a.isLt
  have hb := b.isLt
  have hlow : n % 2 ^ 11 = fn := by omega
  refine ⟨by omega, ofNat_eq_of_mod (by omega), ofNat_eq_of_mod (by omega), ofNat_eq_of_mod (by omega), hlow,
    ofNat_eq_of_mod ?_⟩
  rw [BitVec.toNat_ofNat, hlow, Nat.mod_eq_of_lt hfn]

/-- What the decoder takes out of a word of the forms I, B, S and C. -/
theorem formI_fields {n maj i : Nat} {d a : BitVec 5} (h : formI maj d.toNat a.toNat i = n) (hi : i < 2 ^ 16) :
    n / 2 ^ 26 = maj ∧ BitVec.ofNat 5 (n / 2 ^ 21) = d ∧ BitVec.ofNat 5 (n / 2 ^ 16) = a ∧ n % 2 ^ 16 = i := by
  unfold formI at h
  have hd := d.isLt
  have ha := a.isLt
  exact ⟨by omega, ofNat_eq_of_mod (by omega), ofNat_eq_of_mod (by omega), by omega⟩

/-- A shift: its amount in the low 6 bits of the immediate, which shift it is above them. -/
theorem formI_shift {n maj k : Nat} {d a : BitVec 5} {sh : BitVec 6}
    (h : formI maj d.toNat a.toNat (k * 2 ^ 6 + sh.toNat) = n) (hk : k < 2 ^ 10) :
    n / 2 ^ 26 = maj ∧ BitVec.ofNat 5 (n / 2 ^ 21) = d ∧ BitVec.ofNat 5 (n / 2 ^ 16) = a ∧ n / 2 ^ 6 % 2 ^ 10 = k ∧
      BitVec.ofNat 6 n = sh := by
  have hsh := sh.isLt
  obtain ⟨hmaj, hd, ha, hi⟩ := formI_fields h (by omega)
  exact ⟨hmaj, hd, ha, by omega, ofNat_eq_of_mod (by omega)⟩

/-- A word of a control register: its number in the low 14 bits of the immediate, which word it is above them. -/
theorem formI_control {n maj k : Nat} {d a : BitVec 5} {num : BitVec 14}
    (h : formI maj d.toNat a.toNat (k * 2 ^ 14 + num.toNat) = n) (hk : k < 4) :
    n / 2 ^ 26 = maj ∧ BitVec.ofNat 5 (n / 2 ^ 21) = d ∧ BitVec.ofNat 5 (n / 2 ^ 16) = a ∧ n / 2 ^ 14 % 4 = k ∧
      BitVec.ofNat 14 n = num := by
  have hnum := num.isLt
  obtain ⟨hmaj, hd, ha, hi⟩ := formI_fields h (by omega)
  exact ⟨hmaj, hd, ha, by omega, ofNat_eq_of_mod (by omega)⟩

/-- What the decoder takes out of a word of form J. -/
theorem formJ_fields {n maj : Nat} {d : BitVec 5} {o : BitVec 21} (h : formJ maj d.toNat o.toNat = n) :
    n / 2 ^ 26 = maj ∧ BitVec.ofNat 5 (n / 2 ^ 21) = d ∧ BitVec.ofNat 21 n = o := by
  unfold formJ at h
  have hd := d.isLt
  have ho := o.isLt
  exact ⟨by omega, ofNat_eq_of_mod (by omega), ofNat_eq_of_mod (by omega)⟩

/-- What the decoder takes out of the word of a FENCE. -/
theorem fence_fields {n : Nat} {sc : BitVec 4} (h : formR 0x2B 0 0 0 sc.toNat = n) :
    n / 2 ^ 26 = 0x2B ∧ n / 2 ^ 4 % 2 ^ 22 = 0 ∧ n % 16 = sc.toNat ∧ BitVec.ofNat 4 n = sc := by
  unfold formR at h
  have hsc := sc.isLt
  exact ⟨by omega, by omega, by omega, ofNat_eq_of_mod (by omega)⟩

/-! ### From an instruction to its word and back -/

/-- Decoding the word of an instruction gives the instruction: the forms of R62 one after another, and among them the
rows in which a field must be zero. -/
theorem decodeSeq_of_encodeSeqN {i : Instr} {x : BitVec 32} (hscope : i.scopeWF = true)
    (h : encodeSeqN i = some x.toNat) : decodeSeq x = .ok i := by
  cases i with
  | seqAdd d a b | seqSub d a b | seqAnd d a b | seqOr d a b | seqXor d a b | sll d a b | srl d a b | sra d a b
  | slt d a b | sltu d a b | seqMul d a b | seqMulh d a b | divu d a b | remu d a b =>
    obtain ⟨hmaj, hd, ha, hb, hfn, -⟩ := formR_fields (Option.some.inj h) (by decide)
    simp only [decodeSeq, hmaj, hd, ha, hb, hfn]
  | addi d a i | andi d a i | ori d a i | xori d a i | slti d a i | ldb d a i | ldh d a i | ldw d a i | ldd d a i
  | stb d a i | sth d a i | stw d a i | std d a i | beq d a i | bne d a i | blt d a i | bge d a i | bltu d a i
  | bgeu d a i | jalr d a i =>
    obtain ⟨hmaj, hd, ha, hi⟩ := formI_fields (Option.some.inj h) i.isLt
    simp only [decodeSeq, hmaj, hd, ha, ofNat_eq_of_mod hi]
  | lui d i =>
    obtain ⟨hmaj, hd, ha, hi⟩ := formI_fields (a := 0) (Option.some.inj h) i.isLt
    simp only [decodeSeq, hmaj, hd, ha, ofNat_eq_of_mod hi, if_true]
  | slli d a sh | srli d a sh | srai d a sh =>
    obtain ⟨hmaj, hd, ha, hk, hsh⟩ := formI_shift (Option.some.inj h) (by decide)
    simp only [decodeSeq, hmaj, hd, ha, hk, hsh]
  | scrr d a num | scrw d a num | scrs d a num | scrc d a num =>
    obtain ⟨hmaj, hd, ha, hk, hnum⟩ := formI_control (Option.some.inj h) (by decide)
    simp only [decodeSeq, hmaj, hd, ha, hk, hnum]
  | jal d o =>
    obtain ⟨hmaj, hd, ho⟩ := formJ_fields (Option.some.inj h)
    simp only [decodeSeq, hmaj, hd, ho]
  | instWord a b | tinv a b =>
    obtain ⟨hmaj, hd, ha, hb, -, hfn⟩ := formR_fields (d := 0) (Option.some.inj h) (by decide)
    simp only [decodeSeq, hmaj, hd, ha, hb, hfn, BitVec.ofNat_eq_ofNat, and_self, if_true]
  | abnd d a | occr d a | wev d a =>
    obtain ⟨hmaj, hd, ha, hb, -, hfn⟩ := formR_fields (b := 0) (Option.some.inj h) (by decide)
    simp only [decodeSeq, hmaj, hd, ha, hb, hfn, BitVec.ofNat_eq_ofNat, and_self, if_true]
  | savec d a b =>
    obtain ⟨hmaj, hd, ha, hb, -, hfn⟩ := formR_fields (Option.some.inj h) (by decide)
    simp only [decodeSeq, hmaj, hd, ha, hb, hfn, BitVec.ofNat_eq_ofNat, if_true]
  | erd d a f | sysr d a f =>
    obtain ⟨hmaj, hd, ha, hb, -, hfn⟩ := formR_fields (b := 0) (Option.some.inj h) f.isLt
    simp only [decodeSeq, hmaj, hd, ha, hb, hfn, BitVec.ofNat_toNat, BitVec.setWidth_eq, if_true]
  | ewr a b f =>
    obtain ⟨hmaj, hd, ha, hb, -, hfn⟩ := formR_fields (d := 0) (Option.some.inj h) f.isLt
    simp only [decodeSeq, hmaj, hd, ha, hb, hfn, BitVec.ofNat_toNat, BitVec.setWidth_eq, if_true]
  | tret =>
    have hx : formR 0x28 0 0 0 0 = x.toNat := Option.some.inj h
    simp only [decodeSeq, ← hx]
    rfl
  | seqFence sc =>
    obtain ⟨hmaj, hzero, hlow, hsc⟩ := fence_fields (Option.some.inj h)
    have hdefined : ¬(5 ≤ sc.toNat ∧ sc.toNat ≤ 7) := by simpa [Instr.scopeWF, imp_iff_not_or] using hscope
    simp only [decodeSeq, hmaj, hzero, hlow, hsc, ne_eq, not_true, if_false, hdefined]
  | _ => cases h

/-- A word fits its 32 bits. -/
theorem encodeSeqN_lt {i : Instr} {n : Nat} (h : encodeSeqN i = some n) : n < 2 ^ 32 := by
  cases i <;> cases h <;> simp only [formR, formI, formJ] <;> omega

/-! ### From a word to its instruction and back -/

/-- The words that stand for no instruction (R63, R64): a reserved MAJ, an FN or a shift that no row has, a scope of
FENCE that is reserved, or a field that must be zero and is not. -/
def undefinedWord (n : Nat) : Prop :=
  let maj := n / 2 ^ 26
  let gd := fld (BitVec.ofNat 64 n) 21 5
  let ga := fld (BitVec.ofNat 64 n) 16 5
  let gb := fld (BitVec.ofNat 64 n) 11 5
  let fn := n % 2 ^ 11
  let reserved : Prop := maj = 0 ∨ (0x19 ≤ maj ∧ maj ≤ 0x1F) ∨ 0x2C ≤ maj
  let notZero : Prop :=
    (maj = 0x06 ∧ n / 2 ^ 8 % 2 ^ 8 ≠ 0) ∨ (maj = 0x08 ∧ ga ≠ 0) ∨ (maj = 0x21 ∧ (gd ≠ 0 ∨ fn ≠ 0)) ∨
    (maj = 0x22 ∧ (gb ≠ 0 ∨ fn ≠ 0)) ∨ (maj = 0x23 ∧ gb ≠ 0) ∨ (maj = 0x24 ∧ gd ≠ 0) ∨
    (maj = 0x25 ∧ (gb ≠ 0 ∨ fn ≠ 0)) ∨ (maj = 0x26 ∧ (gd ≠ 0 ∨ fn ≠ 0)) ∨ (maj = 0x27 ∧ fn ≠ 0) ∨
    (maj = 0x28 ∧ (gd ≠ 0 ∨ ga ≠ 0 ∨ gb ≠ 0 ∨ fn ≠ 0)) ∨ (maj = 0x29 ∧ (gb ≠ 0 ∨ fn ≠ 0)) ∨ (maj = 0x2A ∧ gb ≠ 0) ∨
    (maj = 0x2B ∧ (gd ≠ 0 ∨ ga ≠ 0 ∨ gb ≠ 0 ∨ fn / 2 ^ 4 ≠ 0))
  reserved ∨ (maj = 0x01 ∧ 14 ≤ fn) ∨ (maj = 0x06 ∧ n / 2 ^ 6 % 2 ^ 2 = 3) ∨
    (maj = 0x2B ∧ 5 ≤ n % 16 ∧ n % 16 ≤ 7) ∨ notZero

/-- A word that decodes is the word of its instruction, and is not undefined: row by row of MAJ. -/
theorem decodeSeq_ok {x : BitVec 32} {i : Instr} (h : decodeSeq x = .ok i) :
    encodeSeqN i = some x.toNat ∧ ¬ undefinedWord x.toNat := by
  have hx := x.isLt
  unfold decodeSeq at h
  simp only [ofNat_eq_zero_iff] at h
  split at h
  all_goals
    rename_i hmaj
    repeat' split at h
    all_goals cases h
    all_goals
      refine ⟨congrArg some ?_, ?_⟩
      · simp only [formR, formI, formJ, BitVec.toNat_ofNat, imp_false] at *
        omega
      · simp only [undefinedWord, hmaj, fld_ofNat hx]
        omega

/-- A word that does not decode is undefined. -/
theorem decodeSeq_error {x : BitVec 32} {u : Undef} (h : decodeSeq x = .error u) : undefinedWord x.toNat := by
  have hx := x.isLt
  unfold decodeSeq at h
  simp only [ofNat_eq_zero_iff] at h
  split at h
  case h_37 =>
    left
    simp only [imp_false] at *
    omega
  all_goals
    rename_i hmaj
    simp only [undefinedWord, hmaj, fld_ofNat hx]
    repeat' split at h
    all_goals cases h
    all_goals
      simp [imp_false] at *
      omega

theorem decodeSeq_error_iff (x : BitVec 32) : (∃ u, decodeSeq x = .error u) ↔ undefinedWord x.toNat := by
  refine ⟨fun ⟨u, hu⟩ => decodeSeq_error hu, fun h => ?_⟩
  cases hx : decodeSeq x with
  | error u => exact ⟨u, rfl⟩
  | ok i => exact absurd h (decodeSeq_ok hx).2

theorem wf_of_encodeSeqN {i : Instr} {n : Nat} (h : encodeSeqN i = some n) : i.wf = i.scopeWF := by
  cases i <;> cases h <;> rfl

theorem scopeWF_of_defined {i : Instr} {n : Nat} (h : encodeSeqN i = some n) (hn : ¬ undefinedWord n) :
    i.scopeWF = true := by
  cases i with
  | seqFence sc =>
    obtain ⟨hmaj, hzero, hlow, hsc⟩ := fence_fields (Option.some.inj h)
    by_contra hs
    refine hn (.inr (.inr (.inr (.inl ⟨hmaj, ?_⟩))))
    rw [hlow]
    simpa [Instr.scopeWF] using hs
  | _ => rfl

/-- Settles O54: each direction by the lemma about it; a word's number fits its 32 bits. -/
theorem seqRoundTrip : Obligations.SeqRoundTrip := by
  refine ⟨fun i x hwf h => ?_, fun i x h => ?_⟩
  · obtain ⟨n, hn, rfl⟩ := Option.map_eq_some_iff.mp h
    refine decodeSeq_of_encodeSeqN ((wf_of_encodeSeqN hn).symm.trans hwf) ?_
    rw [BitVec.toNat_ofNat, Nat.mod_eq_of_lt (encodeSeqN_lt hn), hn]
  · obtain ⟨hn, hdef⟩ := decodeSeq_ok h
    refine ⟨(wf_of_encodeSeqN hn).trans (scopeWF_of_defined hn hdef), ?_⟩
    rw [encodeSeq, hn, Option.map_some, BitVec.ofNat_toNat, BitVec.setWidth_eq]

end Sys2Proof.Machine
end

section
/-! SUPPORT. Sequencer words that trap with nothing else done (R64, R65), and what the step of a turn runs (R64,
R368). -/

namespace Sys2Proof.Machine

open Sys2Proof Sys2Proof.Safety

/-! ### Words that trap -/

/-- A trap with a free detail (R368, R427; log 20): the sequencer enters it, and nothing else changes. -/
theorem trapQ_spec {s : State} {t : Nat} {q : Seq} (hq : s.seq? t = some q) (cause : Nat) :
    ∃ dt, (s.trapQ t cause).seq? t = some (q.enter ⟨.word, cause, dt, s.clock, 0⟩) ∧
      s.trapQ t cause = { s with seqs := (s.trapQ t cause).seqs, freeCount := (s.trapQ t cause).freeCount } ∧
      othersKept s (s.trapQ t cause) t :=
  have hq' : s.tick.seq? t = some q := hq
  have ⟨hseq, _, hothers⟩ := trapSeq_spec s.tick t q .word cause (Config.detail s.freeCount) hq'
  ⟨_, hseq, rfl, hothers⟩

/-- A meaning that is such a trap does nothing else. -/
theorem trapsSeq_of_trapQ {i : Instr} {s : State} {t : Nat} {q : Seq} {cause : Nat} (h : seqThere s t q)
    (hi : exec i s = .next (s.trapQ t cause)) : trapsSeq i s t q cause :=
  have ⟨dt, hseq, hrest, hothers⟩ := trapQ_spec h.2 cause
  ⟨_, dt, q.tc, hi, hseq, hrest, hothers⟩

theorem exec_illegal {s : State} {t : Nat} {q : Seq} (h : seqThere s t q) :
    exec .illegal s = .next (s.trapQ t Cause.illegal) :=
  withSeq_there (fun t _ => s.trapQ t Cause.illegal) h

theorem illegal_traps {s : State} {t : Nat} {q : Seq} (h : seqThere s t q) : trapsSeq .illegal s t q Cause.illegal :=
  trapsSeq_of_trapQ h (exec_illegal h)

/-- A word whose meaning asks for privileged mode first traps PRIVILEGE in user mode, whatever the rest of it is. -/
theorem privileged_traps {i : Instr} {s : State} {t : Nat} {q : Seq} {g : Nat → Seq → State} (h : seqThere s t q)
    (hq : q.priv = false)
    (hi : exec i s = withSeq s fun t q => if ¬ q.priv then s.trapQ t Cause.privilege else g t q) :
    trapsSeq i s t q Cause.privilege := by
  refine trapsSeq_of_trapQ h ?_
  rw [hi, withSeq_there _ h, if_pos (by simp [hq])]

/-- Settles O6: each of the six meanings asks for privileged mode first. -/
theorem privilegedWords : Obligations.PrivilegedWords := fun _ _ _ _ _ _ _ h hq =>
  ⟨privileged_traps h hq rfl, privileged_traps h hq rfl, privileged_traps h hq rfl, privileged_traps h hq rfl,
    privileged_traps h hq rfl, privileged_traps h hq rfl⟩

/-! ### A turn does not see the rest of the agenda -/

theorem readDesc_agenda (s : State) (rest : List Turn) (tc : List CDesc) (fc level va addr : Nat) :
    ({ s with agenda := rest }).readDesc tc fc level va addr = s.readDesc tc fc level va addr := rfl

theorem walkFrom_agenda (s : State) (rest : List Turn) (va n base : Nat) (w : Walk) :
    ({ s with agenda := rest }).walkFrom va n base w = s.walkFrom va n base w := by
  induction n generalizing base w with
  | zero => rfl
  | succ n ih =>
    simp only [State.walkFrom, ih, readDesc_agenda]
    rfl

theorem seqXlat_agenda (s : State) (rest : List Turn) (q : Seq) (use : SeqUse) (va n : Nat) :
    ({ s with agenda := rest }).seqXlat q use va n = s.seqXlat q use va n := by
  simp only [State.seqXlat, State.walk, walkFrom_agenda]
  rfl

theorem seqTurn_agenda (s : State) (rest : List Turn) (q : Seq) :
    ({ s with agenda := rest }).seqTurn q = s.seqTurn q := by
  simp only [State.seqTurn, seqXlat_agenda]
  rfl

/-! ### What the turn of a sequencer is (R365, R368) -/

/-- The sequencer is due, takes no trap and waits for no event: it fetches the word at its PC. -/
structure Fetches (s : State) (q : Seq) : Prop where
  free : q.held = false
  due : q.busy ≤ s.clock
  noTrap : q.pend = [] ∨ q.inTrap = true
  noWait : q.wev = none

theorem seqIdle_due {s : State} {q : Seq} (hh : q.held = false) (hb : q.busy ≤ s.clock) : s.seqIdle q = false := by
  simp [State.seqIdle, hh, hb]

theorem seqTurn_fetch {s : State} {q : Seq} (h : Fetches s q) :
    s.seqTurn q =
      let x := s.seqXlat q .fetch q.pc.toNat 4
      let i := wordInstr (BitVec.ofNat 32 (s.readN x.pa 4))
      if x.cause ≠ 0 then (.fault x.cause, some x)
      else if s.isBad (wordOf x.pa) then (.fault Cause.uncorrectable, some x)
      else if s.seqWaits q i then (.idle, none) else (.run i, some x) := by
  have htrap : q.takesTrap = false := by
    rcases h.noTrap with hp | hp <;> simp [Seq.takesTrap, hp]
  simp only [State.seqTurn, seqIdle_due h.free h.due, htrap, h.noWait, Bool.false_eq_true, if_false]

theorem seqTurn_word {s : State} {q : Seq} (h : Fetches s q) :
    let x := s.seqXlat q .fetch q.pc.toNat 4
    let i := wordInstr (BitVec.ofNat 32 (s.readN x.pa 4))
    x.cause = 0 → s.isBad (wordOf x.pa) = false → s.seqWaits q i = false → s.seqTurn q = (.run i, some x) := by
  intro x i hx hb hw
  rw [seqTurn_fetch h]
  exact (if_neg (not_not.mpr hx)).trans ((if_neg (by simp [x, hb])).trans (if_neg (by simp [i, x, hw])))

theorem seqTurn_fault {s : State} {q : Seq} (h : Fetches s q) :
    let x := s.seqXlat q .fetch q.pc.toNat 4
    x.cause ≠ 0 → s.seqTurn q = (.fault x.cause, some x) := by
  intro x hx
  rw [seqTurn_fetch h]
  exact if_pos hx

theorem seqTurn_trap {s : State} {q : Seq} (hh : q.held = false) (hb : q.busy ≤ s.clock) (hp : q.pend ≠ [])
    (ht : q.inTrap = false) : s.seqTurn q = (.run .trapEntry, none) := by
  have htrap : q.takesTrap = true := by simp [Seq.takesTrap, hp, ht]
  simp only [State.seqTurn, seqIdle_due hh hb, htrap, Bool.false_eq_true, if_false, if_true]

theorem seqTurn_held {s : State} {q : Seq} (hh : q.held = true) : s.seqTurn q = (.idle, none) := by
  simp only [State.seqTurn, State.seqIdle, hh, Bool.true_or, if_true]

/-! ### What a step runs (R64, R264, R368) -/

/-- What a translation left in the cache is kept. -/
def State.fetched (s : State) (t : Nat) : Option Xlat → State
  | some x => s.xlated t x
  | none => s

/-- What a sequencer's turn makes of the next step. -/
def State.turnAct (s : State) (t : Nat) : SeqTurn × Option Xlat → Act
  | (.idle, x) => .quiet (s.fetched t x)
  | (.fault c, x) => .quiet (((s.fetched t x).logRead t c).trapQ t c)
  | (.run i, x) => .run i { s.fetched t x with actor := .seq t }

section
variable {s : State} {rest : List Turn} {t : Nat} {q : Seq}

theorem step_of_quiet {s' : State} (h : s.act = .quiet s') : step s = .next s' := by rw [step, h]

theorem step_of_run {s' : State} {i : Instr} (h : s.act = .run i s') : step s = exec i s' := by rw [step, h]

theorem act_seq (ha : s.agenda = .seq t :: rest) (hq : s.seq? t = some q) :
    s.act = ({ s with agenda := rest }).turnAct t (s.seqTurn q) := by
  have hq' : ({ s with agenda := rest }).seq? t = some q := hq
  rw [State.act, ha]
  dsimp only
  rw [State.seqAct, hq']
  simp only [seqTurn_agenda]
  rcases s.seqTurn q with ⟨turn, x⟩
  cases turn <;> cases x <;> rfl

theorem step_seq_idle (ha : s.agenda = .seq t :: rest) (hq : s.seq? t = some q) (ht : s.seqTurn q = (.idle, none)) :
    step s = .next { s with agenda := rest } :=
  step_of_quiet ((act_seq ha hq).trans (by rw [ht]; rfl))

theorem step_seq_run (ha : s.agenda = .seq t :: rest) (hq : s.seq? t = some q) {i : Instr} {x : Option Xlat}
    (ht : s.seqTurn q = (.run i, x)) :
    step s = exec i { ({ s with agenda := rest }).fetched t x with actor := .seq t } :=
  step_of_run ((act_seq ha hq).trans (by rw [ht]; rfl))

theorem step_seq_fault (ha : s.agenda = .seq t :: rest) (hq : s.seq? t = some q) {c : Nat} {x : Xlat}
    (ht : s.seqTurn q = (.fault c, some x)) :
    step s = .next (((({ s with agenda := rest }).xlated t x).logRead t c).trapQ t c) :=
  step_of_quiet ((act_seq ha hq).trans (by rw [ht]; rfl))

theorem xlated_seq (hq : s.seq? t = some q) (x : Xlat) : (s.xlated t x).seq? t = some { q with tc := x.tc } :=
  (modSeq_spec s t q (fun q => { q with tc := x.tc }) hq fun _ h => h).1

/-- A fetch that fails traps at the word that could not be fetched; what else the step does is to log the error. -/
theorem step_seq_fault_traps (ha : s.agenda = .seq t :: rest) (hq : s.seq? t = some q) {c : Nat} {x : Xlat}
    (ht : s.seqTurn q = (.fault c, some x)) :
    ∃ s' dt, step s = .next s' ∧ s'.mem = s.mem ∧
      s'.seq? t = some (Seq.enter { q with tc := x.tc } ⟨.word, c, dt, s.clock, 0⟩) := by
  obtain ⟨l, n, hlog⟩ := logRead_rest (({ s with agenda := rest }).xlated t x) t c
  have hseq : ((({ s with agenda := rest }).xlated t x).logRead t c).seq? t = some { q with tc := x.tc } := by
    rw [hlog]
    exact xlated_seq (s := { s with agenda := rest }) hq x
  obtain ⟨dt, htrap, hrest, -⟩ := trapQ_spec hseq c
  refine ⟨_, dt, step_seq_fault ha hq ht, ?_, ?_⟩
  · rw [hrest, hlog]
    rfl
  · rw [htrap, hlog]
    rfl

/-- A step whose fetch gives an undefined word runs ILLEGAL (R64). -/
theorem step_undefined (ha : s.agenda = .seq t :: rest) (hq : s.seq? t = some q) (hf : Fetches s q) {u : Undef} :
    let x := s.seqXlat q .fetch q.pc.toNat 4
    x.cause = 0 → s.isBad (wordOf x.pa) = false → decodeSeq (BitVec.ofNat 32 (s.readN x.pa 4)) = .error u →
      step s = exec .illegal { ({ s with agenda := rest }).xlated t x with actor := .seq t } := by
  intro x hx hb hu
  have hi : wordInstr (BitVec.ofNat 32 (s.readN x.pa 4)) = .illegal := by rw [wordInstr, hu]
  have hw : s.seqWaits q .illegal = false := rfl
  have hturn := seqTurn_word hf hx hb (by rw [hi, hw])
  rw [hi] at hturn
  exact step_seq_run ha hq hturn

end

/-- Settles O53: the decoder's own list of undefined words, and the trap of ILLEGAL, which a fetched word of that list
runs. -/
theorem undefinedWords : Obligations.UndefinedWords := by
  refine ⟨decodeSeq_error_iff, fun s t q h => illegal_traps h, fun s rest t q u ha hq hh hb hp hw => ?_⟩
  intro x hx hbad hu
  have hstep := step_undefined ha hq ⟨hh, hb, hp, hw⟩ hx hbad hu
  have hthere : seqThere { ({ s with agenda := rest }).xlated t x with actor := .seq t } t { q with tc := x.tc } :=
    ⟨rfl, xlated_seq (s := { s with agenda := rest }) hq x⟩
  obtain ⟨dt, hseq, hrest, -⟩ := trapQ_spec hthere.2 Cause.illegal
  refine ⟨_, _, dt, hstep.trans (exec_illegal hthere), hseq, rfl, ?_, rfl, ?_⟩
  · rw [hrest]
    rfl
  · rw [hrest]
    rfl

/-- Settles O56: what the turn at the head of the agenda comes to, one lemma for each. -/
theorem stepRunsDecoded : Obligations.StepRunsDecoded := by
  intro s rest s0
  refine ⟨fun t q ha hq hh hb hp hw => ⟨fun hx hbad hwaits => ?_, fun hx => ?_⟩, fun t q ha hq hh hb hp ht => ?_,
    fun t q ha hq hh => ?_, fun r n a b e i ha he hi => ?_, fun i a ha => ?_⟩
  · exact step_seq_run ha hq (seqTurn_word ⟨hh, hb, hp, hw⟩ hx hbad hwaits)
  · obtain ⟨s', dt, hstep, hmem, hseq⟩ := step_seq_fault_traps ha hq (seqTurn_fault ⟨hh, hb, hp, hw⟩ hx)
    exact ⟨s', _, dt, hstep, hseq, hmem, rfl⟩
  · exact step_seq_run ha hq (seqTurn_trap hh hb hp ht)
  · exact step_seq_idle ha hq (seqTurn_held hh)
  · have he' : s0.elem? r = some e := he
    refine step_of_run ?_
    rw [State.act, ha]
    show s0.fireAct r n a b = _
    rw [State.fireAct, he']
    simp only [hi]
  · exact step_of_run (by rw [State.act, ha])

end Sys2Proof.Machine
end

section
/-! SUPPORT. The decoder and the encoder of slots (R35 to R39, R50, R51): the fields of a slot word, the rows of the
operation codes, and that a slot and its instruction give each other. -/

namespace Sys2Proof.Machine

open Sys2Proof

/-! ### The fields of a slot word (R35, R37, R39) -/

theorem slotNat_lt {opc : Nat} (h : opc < 128) (f : SlotF) : slotNat opc f < 2 ^ 64 := by
  unfold slotNat
  omega

theorem opcOf_slotNat {opc : Nat} (h : opc < 128) (f : SlotF) : opcOf (slotNat opc f) = opc := by
  unfold opcOf slotNat
  omega

theorem fieldsOf_slotNat (opc : Nat) (f : SlotF) : fieldsOf (slotNat opc f) = f := by
  cases f
  simp only [fieldsOf, slotNat, SlotF.mk.injEq]
  refine ⟨?_, ?_, ?_, ?_, ?_, ?_, ?_, ?_, ?_, ?_, ?_, ?_, ?_, ?_, ?_, ?_⟩
  all_goals
    apply ofNat_eq_of_mod
    omega

theorem slotNat_fieldsOf {n : Nat} (h : n < 2 ^ 64) : slotNat (opcOf n) (fieldsOf n) = n := by
  simp only [slotNat, opcOf, fieldsOf, BitVec.toNat_ofNat]
  omega

/-! ### The rows of the operation codes (R50, R51) -/

/-- The decoder once a slot is taken apart: the map of its element's kind, or that of every kind. -/
def decodeOp (k : Kind) (opc : Nat) (f : SlotF) : Except Undef Instr :=
  if opc < 16 then decodeCommon opc f
  else match k with
    | .ce => decodeCe opc f
    | .spe => decodeSpe opc f
    | .mxe => decodeMxe opc f
    | .mpe => decodeMpe opc f

theorem decodeSlot_eq (k : Kind) (x : Word) : decodeSlot k x = decodeOp k (opcOf x.toNat) (fieldsOf x.toNat) := rfl

theorem entry_opc_lt {i : Instr} {e : Entry} (h : entry i = some e) : e.opc < 128 := by
  cases i <;> cases h <;> decide

theorem lane_of_usesOk {e : Entry} {f : SlotF} (h : usesOk e f = true) : f.lane.toNat ∈ e.lanes := by
  simp only [usesOk, Bool.and_eq_true, List.contains_iff_mem] at h
  obtain ⟨⟨⟨⟨⟨hlane, -⟩, -⟩, -⟩, -⟩, -⟩ := h
  exact hlane

theorem srcb_of_usesOk {e : Entry} {f : SlotF} (h : usesOk e f = true) : e.b.ok f.srcb.toNat = true := by
  simp only [usesOk, Bool.and_eq_true] at h
  obtain ⟨⟨⟨-, hb⟩, -⟩, -⟩ := h
  exact hb

/-- The entry of an instruction leads the decoder back to it: LANE tells the forms of one code apart, and SRCB[2] the
two of BXENC. -/
theorem decodeOp_of_entry {i : Instr} {e : Entry} {f : SlotF} (he : entry i = some e) (hf : slotF i = some f)
    (hu : usesOk e f = true) (k : Kind) : decodeOp (e.kind.getD k) e.opc f = .ok i := by
  have hlane := lane_of_usesOk hu
  have hsrcb := srcb_of_usesOk hu
  cases i with
  | csplitC g | csplitV g | cbrdPop g | mpst g | mpstSusp g | mpstRes g | xrd g | xrdP g | xwr g | xwrP g
  | st g | stClr g | sto g | stoClr g | tkdec g | tkdecRet g | tkst g | tkstClr g | tkstAbn g | acnt g | acntH g
  | densQ g | densS g | rst g | rstAck g | drrecvR g | drrecvW g | drclose g | drcloseW g =>
    cases he
    cases hf
    simp [decodeOp, decodeCe, decodeSpe, decodeMpe, List.mem_singleton.mp hlane]
  | cbrd g =>
    cases he
    cases hf
    have hform : f.lane.toNat = 0 ∨ f.lane.toNat = 1 := by simpa using hlane
    rcases hform with h | h <;> simp [decodeOp, decodeSpe, h]
  | bxenc g =>
    cases he
    cases hf
    have hb : f.srcb.toNat ≤ 2 := by simpa [SUse.ok] using hsrcb
    have hbit : f.srcb.getLsbD 2 = false := Nat.testBit_lt_two_pow (by omega)
    exact if_neg (ne_true_of_eq_false hbit)
  | bxencFlush g =>
    cases he
    cases hf
    have hb : f.srcb = 4 := by
      simp only [SUse.ok, Bool.and_eq_true, decide_eq_true_eq] at hsrcb
      exact BitVec.eq_of_toNat_eq (Nat.le_antisymm hsrcb.2 hsrcb.1)
    have hbit : f.srcb.getLsbD 2 = true := by rw [hb]; rfl
    exact if_pos hbit
  | _ => cases he <;> cases hf <;> rfl

/-! ### From a slot to its instruction and back -/

/-- An instruction has these fields, and its row this operation code. -/
def rowOf (opc : Nat) (f : SlotF) (i : Instr) : Prop := slotF i = some f ∧ ∃ e, entry i = some e ∧ e.opc = opc

/-- What the decoder answers has the code and the fields it was given: each map has the rows of its kind (R50). -/
theorem decodeOp_rowOf {k : Kind} {opc : Nat} {f : SlotF} {i : Instr} (h : decodeOp k opc f = .ok i) :
    rowOf opc f i := by
  unfold decodeOp decodeCommon decodeCe decodeSpe decodeMxe decodeMpe at h
  repeat' split at h
  all_goals cases h
  all_goals exact ⟨rfl, _, rfl, rfl⟩

theorem slotF_of_entry {i : Instr} {e : Entry} (h : entry i = some e) : ∃ f, slotF i = some f := by
  cases i <;> cases h <;> exact ⟨_, rfl⟩

theorem usesOk_of_wf {i : Instr} {e : Entry} {f : SlotF} (he : entry i = some e) (hf : slotF i = some f)
    (hwf : i.wf = true) : usesOk e f = true := by
  simp only [Instr.wf, Instr.usesWF, he, hf, Bool.and_eq_true] at hwf
  obtain ⟨⟨⟨-, huses⟩, -⟩, -⟩ := hwf
  exact huses

/-- Settles O55: the word of an instruction holds its code and its fields, and its entry leads the decoder back to it; a
slot that decodes has the code and the fields of its row. -/
theorem slotRoundTrip : Obligations.SlotRoundTrip := by
  refine ⟨fun i e k hwf he hk => ?_, fun i k x h => ?_⟩
  · obtain ⟨f, hf⟩ := slotF_of_entry he
    have hopc := entry_opc_lt he
    have hkind : e.kind.getD k = k := by rcases hk with h | h <;> rw [h] <;> rfl
    refine ⟨BitVec.ofNat 64 (slotNat e.opc f), by rw [encodeSlot, he, hf], ?_⟩
    rw [decodeSlot_eq, BitVec.toNat_ofNat, Nat.mod_eq_of_lt (slotNat_lt hopc f), opcOf_slotNat hopc, fieldsOf_slotNat]
    calc decodeOp k e.opc f
      _ = decodeOp (e.kind.getD k) e.opc f := by rw [hkind]
      _ = .ok i := decodeOp_of_entry he hf (usesOk_of_wf he hf hwf) k
  · obtain ⟨hf, e, he, hopc⟩ := decodeOp_rowOf h
    rw [encodeSlot, he, hf]
    simp only [hopc, slotNat_fieldsOf x.isLt, BitVec.ofNat_toNat, BitVec.setWidth_eq]

/-! ### Words of the spec's examples -/

/-- Settles O52: each word is decoded by evaluation. -/
theorem workedWords : Obligations.WorkedWords :=
  ⟨rfl, rfl, rfl, rfl, rfl, rfl, rfl, rfl, rfl, rfl, rfl, rfl, rfl, rfl, rfl, rfl, rfl, rfl⟩

end Sys2Proof.Machine
end

section
/-! SUPPORT. Taking a trap and returning from one (R64, R368, R383, R429, R431 to R433): what the entry saves, what TRET
restores, and what becomes of the trap that it returns from. -/

namespace Sys2Proof.Machine

open Sys2Proof Sys2Proof.Safety

/-! ### The bits of sq.STATUS (R367) -/

theorem mkStatus_bits (priv pPriv inTrap pInTrap : Bool) :
    bitAt (mkStatus priv pPriv inTrap pInTrap) 0 = priv ∧ bitAt (mkStatus priv pPriv inTrap pInTrap) 1 = pPriv ∧
      bitAt (mkStatus priv pPriv inTrap pInTrap) 2 = inTrap ∧ bitAt (mkStatus priv pPriv inTrap pInTrap) 3 = pInTrap ∧
      fld (mkStatus priv pPriv inTrap pInTrap) 4 60 = 0 := by
  revert priv pPriv inTrap pInTrap
  decide

/-! ### Taking a trap (R368, R429) -/

/-- What taking the trap p leaves of a sequencer, but for which traps are still pending. -/
def takenSeq (q q' : Seq) (p : PTrap) : Prop :=
  q'.epc = BitVec.zeroExtend 64 q.pc ∧ q'.cause = BitVec.ofNat 64 (p.cause % 2 ^ 16 * 2 ^ 48) ∧
    q'.dmask = p.detailBits ∧ q'.detail = p.detail &&& q'.dmask ∧
    q'.priv = true ∧ q'.inTrap = true ∧ q'.pPriv = q.priv ∧ q'.pInTrap = q.inTrap ∧ fld q'.status 4 60 = 0 ∧
    q'.pc = BitVec.truncate 57 q.tvec ∧
    q' = { q with epc := q'.epc, cause := q'.cause, detail := q'.detail, dmask := q'.dmask, status := q'.status,
                  pc := q'.pc, wev := none, taken := p :: q.taken, pend := q'.pend }

theorem enter_taken (q : Seq) (p : PTrap) (ps : List PTrap) : takenSeq q { q.enter p with pend := ps } p :=
  have ⟨hpriv, hpPriv, hin, hpIn, hrest⟩ := mkStatus_bits true q.priv true q.inTrap
  ⟨rfl, rfl, rfl, rfl, hpriv, hin, hpPriv, hpIn, hrest, rfl, rfl⟩

section
variable {s : State} {t : Nat} {q : Seq}

theorem exec_trapEntry_taken (h : seqThere s t q) {p : PTrap} {ps : List PTrap} (hp : q.pend = p :: ps)
    (hi : q.inTrap = false) : exec .trapEntry s = .next (s.modSeq t fun q => { q.enter p with pend := ps }) := by
  show execTrapEntry s = _
  rw [execTrapEntry, withSeq_there _ h]
  simp [hp, hi]

theorem exec_trapEntry_waits (h : seqThere s t q) (hw : q.inTrap = true ∨ q.pend = []) :
    exec .trapEntry s = .next s := by
  show execTrapEntry s = _
  rw [execTrapEntry, withSeq_there _ h]
  cases hp : q.pend with
  | nil => rfl
  | cons p ps =>
    have hin : q.inTrap = true := hw.resolve_right (by simp [hp])
    simp [hin]

/-! ### What TRET leaves of its sequencer (R383) -/

/-- The state after the return itself, before anything becomes of the trap. -/
def State.left (s : State) (t : Nat) : State := s.modSeq t fun q => { q.leave with busy := s.clock + 1 }

/-- What TRET leaves of a sequencer, but for the pc and for what a SYSCALL writes. -/
def returnedSeq (q q' : Seq) : Prop :=
  q'.priv = q.pPriv ∧ q'.pPriv = false ∧ q'.inTrap = q.pInTrap ∧ q'.pInTrap = false ∧ fld q'.status 4 60 = 0 ∧
    q' = { q with pc := q'.pc, regs := q'.regs, late := q'.late, loads := q'.loads, status := q'.status, busy := q'.busy,
                  taken := q.taken.drop 1 }

/-- The return goes to sq.EPC and writes no general register. -/
def plainReturn (q q' : Seq) : Prop :=
  q'.pc = BitVec.ofNat 57 (q.epc.toNat / 4 * 4) ∧ q'.regs = q.regs ∧ q'.loads = q.loads

theorem leave_returned (q : Seq) (pc : BitVec 57) (regs : List Word) (late : List Nat) (loads : List (Nat × Nat))
    (busy : Nat) :
    returnedSeq q { q.leave with pc := pc, regs := regs, late := late, loads := loads, busy := busy } :=
  have ⟨hpriv, hpPriv, hin, hpIn, hrest⟩ := mkStatus_bits q.pPriv false q.pInTrap false
  ⟨hpriv, hpPriv, hin, hpIn, hrest, rfl⟩

theorem leave_plain (q : Seq) (busy : Nat) : plainReturn q { q.leave with busy := busy } := ⟨rfl, rfl, rfl⟩

theorem left_spec (hq : s.seq? t = some q) :
    (s.left t).seq? t = some { q.leave with busy := s.clock + 1 } ∧ onlySeq s (s.left t) t :=
  modSeq_spec s t q (fun q => { q.leave with busy := s.clock + 1 }) hq fun _ h => h

/-- TRET returns to sq.EPC, and what it leaves of the machine is so. -/
def tretLeaves (s : State) (t : Nat) (q : Seq) (after : State → Prop) : Prop :=
  ∃ s' q', exec .tret s = .next s' ∧ s'.seq? t = some q' ∧ returnedSeq q q' ∧ plainReturn q q' ∧ othersKept s s' t ∧
    after s'

/-- A disposition of the trap that leaves sequencers alone. -/
theorem tretLeaves_of {s' : State} {after : State → Prop} (h : seqThere s t q) (hexec : exec .tret s = .next s')
    (hseqs : s'.seqs = (s.left t).seqs) (hafter : after s') : tretLeaves s t q after := by
  have hsame (u : Nat) : s'.seq? u = (s.left t).seq? u := by rw [State.seq?, hseqs, State.seq?]
  obtain ⟨hseq, -, hothers⟩ := left_spec h.2
  exact ⟨s', _, hexec, (hsame t).trans hseq, leave_returned q _ _ _ _ _, leave_plain q _,
    fun u hu => (hsame u).trans (hothers u hu), hafter⟩

/-! ### Which trap TRET returns from (R383; log 45) -/

theorem exec_tret_none (h : seqThere s t q) (hp : q.priv = true) (ht : q.taken = []) :
    exec .tret s = .next (s.left t) := by
  show execTret s = _
  rw [execTret, withSeq_there _ h]
  simp [hp, ht, State.left]

/-- What becomes of a trap p at its return with a code of sq.CAUSE. -/
def State.disposed (s : State) (t : Nat) (sysret : Word) (p : PTrap) (code : Nat) : State :=
  match p.src with
  | .word => s
  | .sys gd => s.modSeq t fun x => { x.setReg (BitVec.ofNat 5 gd) sysret with pc := x.pc + 4 }
  | .preempt l => s.disposeLoad t l .saving code
  | .restore l => s.disposeLoad t l .restoring code
  | .elem r => s.disposeElem p r.load code
  | .box l _ _ _ => s.disposeElem p l code

theorem exec_tret_taken {p : PTrap} {ps : List PTrap} (h : seqThere s t q) (hp : q.priv = true)
    (ht : q.taken = p :: ps) :
    exec .tret s = .next ((s.left t).disposed t q.sysret p (fld q.cause 48 16)) := by
  show execTret s = _
  rw [execTret, withSeq_there _ h]
  cases hs : p.src <;> simp [hp, ht, hs, State.left, State.disposed]

end

/-! ### Dispositions that leave sequencers and fabric loads alone -/

/-- Sequencers and fabric loads stay. -/
def leavesLoads (s s' : State) : Prop := s'.seqs = s.seqs ∧ s'.loads = s.loads

theorem leavesLoads.refl (s : State) : leavesLoads s s := ⟨rfl, rfl⟩

theorem leavesLoads.trans {a b c : State} (h1 : leavesLoads a b) (h2 : leavesLoads b c) : leavesLoads a c :=
  ⟨h2.1.trans h1.1, h2.2.trans h1.2⟩

theorem leavesLoads.foldl {α : Type} {f : State → α → State} (hf : ∀ s a, leavesLoads s (f s a)) (xs : List α)
    (s : State) : leavesLoads s (xs.foldl f s) :=
  foldl_keeps refl trans f hf xs s

theorem setRecField_leavesLoads (s : State) (n off lo w v : Nat) : leavesLoads s (s.setRecField n off lo w v) := by
  unfold State.setRecField
  split <;> exact .refl s

theorem sendDecs_leavesLoads (s : State) (h err : Nat) : leavesLoads s (s.sendDecs h err) := by
  refine leavesLoads.foldl (fun s k => ?_) _ s
  dsimp only
  split <;> exact .refl s

theorem finishRec_leavesLoads (s : State) (h : Nat) (abandoned : Bool) : leavesLoads s (s.finishRec h abandoned) := by
  have hrec := ((setRecField_leavesLoads s h 0x00 44 4 (if abandoned then 7 else 5)).trans
    (setRecField_leavesLoads _ h 0x08 0 32 0)).trans (setRecField_leavesLoads _ h 0x70 0 64 (0 : Word).toNat)
  unfold State.finishRec
  dsimp only
  split
  · exact hrec
  · refine leavesLoads.trans ?_ (sendDecs_leavesLoads _ _ _)
    exact hrec

theorem abandonRec_leavesLoads (s : State) (h cause : Nat) : leavesLoads s (s.abandonRec h cause) := by
  have herr : leavesLoads s (s.addErr h cause) := by
    unfold State.addErr
    split
    · exact setRecField_leavesLoads _ _ _ _ _ _
    · exact .refl s
  exact herr.trans (finishRec_leavesLoads _ _ _)

theorem rerun_leavesLoads (s : State) (h : Nat) : leavesLoads s (s.rerun h) :=
  (setRecField_leavesLoads s h 0x00 44 4 2).trans ⟨rfl, rfl⟩

theorem killTask_leavesLoads (s : State) (cause : Nat) (x : SlotX) : leavesLoads s (s.killTask cause x) := by
  unfold State.killTask
  dsimp only
  split
  · split
    · exact abandonRec_leavesLoads (s.dropVote x.handle) _ _
    · split
      · exact .refl s
      · split
        · exact rerun_leavesLoads (s.modVote x.handle _) _
        · exact rerun_leavesLoads (s.modVote x.handle _) _
  · exact abandonRec_leavesLoads _ _ _

theorem logSe_leavesLoads (s : State) (kind ptile site handle : Nat) :
    leavesLoads s (s.logSe kind ptile site handle) := by
  unfold State.logSe
  split <;> exact .refl s

theorem putWords_leavesLoads (ws : List Word) (s : State) (a : Nat) : leavesLoads s (s.putWords a ws) := by
  induction ws generalizing s a with
  | nil => exact .refl s
  | cons w ws ih => exact ih (s.putWord a w) (a + 8)

theorem putWords_elems (ws : List Word) (s : State) (a : Nat) : (s.putWords a ws).elems = s.elems := by
  induction ws generalizing s a with
  | nil => rfl
  | cons w ws ih => exact ih (s.putWord a w) (a + 8)

/-! ### One fabric load of a state -/

theorem modLoad_load (s : State) (l m : LoadRef) (f : Load → Load) (hf : ∀ x, x.ref = l → (f x).ref = l) :
    (s.modLoad l f).load? m = if m = l then (s.load? m).map f else s.load? m :=
  find_map Load.ref l f hf s.loads m

theorem load_ref {s : State} {l : LoadRef} {x : Load} (h : s.load? l = some x) : x.ref = l := by
  simpa using List.find?_some h

theorem modLoad_there {s : State} {l : LoadRef} {x : Load} (h : s.load? l = some x) (f : Load → Load)
    (hf : ∀ x, x.ref = l → (f x).ref = l) : (s.modLoad l f).load? l = some (f x) := by
  rw [modLoad_load s l l f hf, if_pos rfl, h, Option.map_some]

theorem leavesLoads.load {s s' : State} (h : leavesLoads s s') (l : LoadRef) : s'.load? l = s.load? l := by
  rw [State.load?, h.2, State.load?]

theorem beginRetire_there {s : State} {l : LoadRef} {x : Load} (h : s.load? l = some x) :
    (s.beginRetire l).load? l = some { x with phase := .retiring, phaseAt := s.clock } :=
  modLoad_there h (fun x => { x with phase := .retiring, phaseAt := s.clock }) fun _ h => h

/-- A fabric load that is killed retires with its slots empty (R431). -/
theorem killLoad_retires {s : State} {l : LoadRef} {x : Load} (h : s.load? l = some x) (cause : Nat) :
    (s.killLoad l cause).seqs = s.seqs ∧ ∃ y, (s.killLoad l cause).load? l = some y ∧ y.phase = .retiring ∧
      y.slots = List.replicate 8 none := by
  have hkill := leavesLoads.foldl (fun s t => killTask_leavesLoads s cause t) (x.slots.filterMap id) s
  have hload := (hkill.load l).trans h
  simp only [State.killLoad, h]
  refine ⟨hkill.1, _, beginRetire_there (modLoad_there hload _ fun _ h => h), rfl, rfl⟩

theorem killRestore_retires {s : State} {l : LoadRef} {x : Load} (h : s.load? l = some x) (v : Saved) (cause : Nat) :
    (s.killRestore l v cause).seqs = s.seqs ∧ ∃ y, (s.killRestore l v cause).load? l = some y ∧
      y.phase = .retiring := by
  have hlog : leavesLoads s (if cause = Cause.uncorrectable then s.logSe 6 0 0 v.owner else s) := by
    split
    · exact logSe_leavesLoads _ _ _ _ _
    · exact .refl s
  have hkill := hlog.trans (.foldl (fun s t => killTask_leavesLoads s cause t) (v.tasks.filterMap id) _)
  exact ⟨hkill.1, _, beginRetire_there ((hkill.load l).trans h), rfl⟩

/-! ### PREEMPT and RESTORE (R434, R439) -/

/-- The fabric load once the tile lt has done its part of a save or a restore. -/
def Load.partDone (x : Load) (lt clock : Nat) : Load :=
  { x with returned := if x.returned.contains lt then x.returned else x.returned ++ [lt], phaseAt := clock }

/-- A tile's part of a save or a restore: of the machine, memory alone may change beside the fabric load, and it does so
only where the header of a save image is written. -/
theorem partDone_spec {s : State} {t : Nat} {l : LoadRef} {x : Load} {y : TilePlace} {phase : LPhase}
    (hx : s.load? l = some x)
    (hp : x.phase = phase) (hy : (x.tiles.find? fun y => decide (pkgTile l.die y.pt = t)) = some y) :
    (s.partDone t l phase).seqs = s.seqs ∧ (s.partDone t l phase).elems = s.elems ∧
      (s.partDone t l phase).load? l = some (x.partDone y.lt s.clock) ∧
      (phase ≠ .saving ∨ x.owner = none → (s.partDone t l phase).mem = s.mem) := by
  have href : (x.partDone y.lt s.clock).ref = l := load_ref (x := x) hx
  have hthere : (s.modLoad l fun _ => x.partDone y.lt s.clock).load? l = some (x.partDone y.lt s.clock) :=
    modLoad_there hx (fun _ => x.partDone y.lt s.clock) fun _ _ => href
  have heq : s.partDone t l phase =
      if phase = .saving then (s.modLoad l fun _ => x.partDone y.lt s.clock).writeHeader (x.partDone y.lt s.clock)
      else s.modLoad l fun _ => x.partDone y.lt s.clock := by
    simp only [State.partDone, Load.partDone, hx, hy, hp, ne_eq, not_true, if_false]
  rw [heq]
  split
  case isFalse h => exact ⟨rfl, rfl, hthere, fun _ => rfl⟩
  case isTrue h =>
    unfold State.writeHeader
    split
    · next o ho =>
      have hframe := putWords_leavesLoads (imageHeader (x.partDone y.lt s.clock))
        (s.modLoad l fun _ => x.partDone y.lt s.clock) o.frame
      have hsome : x.owner = some o := ho
      refine ⟨hframe.1, putWords_elems _ _ _, (hframe.load l).trans hthere, fun hno => ?_⟩
      exact absurd (hno.resolve_left (not_not.mpr h)) (by simp [hsome])
    · exact ⟨rfl, rfl, hthere, fun _ => rfl⟩

/-- A code of sq.CAUSE that ends a save or a restore (R431): the fabric load retires, after a save with its slots
empty. -/
theorem disposeLoad_retires {s : State} {l : LoadRef} {x : Load} {phase : LPhase} (hx : s.load? l = some x)
    (hp : x.phase = phase) (t : Nat) {c : Nat} (hc : ¬(c = 0 ∨ c = Cause.page ∨ c = Cause.preempt)) :
    (s.disposeLoad t l phase c).seqs = s.seqs ∧ ∃ y, (s.disposeLoad t l phase c).load? l = some y ∧
      y.phase = .retiring ∧ (phase = .saving → y.slots = List.replicate 8 none) := by
  simp only [State.disposeLoad, hc, hx, hp, if_false, ne_eq, not_true]
  split
  · obtain ⟨hseqs, y, hy, hret, hslots⟩ := killLoad_retires hx c
    exact ⟨hseqs, y, hy, hret, fun _ => hslots⟩
  · next hsave =>
    split
    · next v _ =>
      obtain ⟨hseqs, y, hy, hret⟩ := killRestore_retires hx v c
      exact ⟨hseqs, y, hy, hret, fun h => absurd h hsave⟩
    · exact ⟨rfl, _, beginRetire_there hx, rfl, fun h => absurd h hsave⟩

/-! ### Release of an element (R431) -/

theorem loadShadow_ins (e : Elem) : e.loadShadow.ref = e.ref ∧ e.loadShadow.ins = e.ins := by
  unfold Elem.loadShadow
  dsimp only
  split <;> exact ⟨rfl, rfl⟩

theorem mendOperand_ref (e : Elem) (op : Option Nat) : (e.mendOperand op).ref = e.ref := by
  unfold Elem.mendOperand
  split
  · rfl
  · repeat' split
    all_goals rfl

theorem release_ref (e : Elem) : e.release.ref = e.ref := by
  unfold Elem.release
  split
  · rfl
  · refine (loadShadow_ins _).1.trans ?_
    split
    · exact mendOperand_ref _ _
    · split <;> rfl

theorem release_trap (e : Elem) : e.release.trap = none := by
  unfold Elem.release
  split
  · assumption
  · rfl

theorem getD_modify {α : Type} (d : α) (f : α → α) (hd : f d = d) (xs : List α) (k j : Nat) :
    (xs.modify k f).getD j d = if j = k then f (xs.getD j d) else xs.getD j d := by
  simp only [List.getD_eq_getElem?_getD, List.getElem?_modify]
  by_cases h : j = k
  · subst h
    cases xs[j]? <;> simp [hd]
  · simp [h, Ne.symm h]

/-- An element released after RESIDUE keeps the token at the head of the input that failed, with its residue made
anew. -/
theorem release_residue {e : Elem} {tr : ETrap} {k : Nat} {tk : Tok} {ts : List Tok} (ht : e.trap = some tr)
    (hc : tr.cause = Cause.residue) (ho : tr.operand = some k) (hk : k < 4) (hin : e.inq k = tk :: ts) :
    e.release.inq k = { tk with res := residue tk.pay } :: ts ∧ ∀ j, j ≠ k → e.release.inq j = e.inq j := by
  have hins : e.release.ins = (e.mendInput k).ins := by
    simp only [Elem.release, ht, hc, if_true, loadShadow_ins, Elem.mendOperand, ho, hk]
  unfold Elem.inq at hin ⊢
  rw [hins]
  refine ⟨?_, fun j hj => ?_⟩
  · rw [Elem.mendInput, getD_modify _ _ rfl, if_pos rfl, hin]
    rfl
  · rw [Elem.mendInput, getD_modify _ _ rfl, if_neg hj]

/-- An element released after ROUTE has lost the head of the input that failed. -/
theorem release_route {e : Elem} {tr : ETrap} {k : Nat} {tk : Tok} {ts : List Tok} (ht : e.trap = some tr)
    (hc : tr.cause = Cause.route) (hd : fld (BitVec.ofNat 64 tr.detail) 36 4 = 4 + k) (hin : e.inq k = tk :: ts) :
    e.release.inq k = ts ∧ ∀ j, j ≠ k → e.release.inq j = e.inq j := by
  have hne : tr.cause ≠ Cause.residue := by rw [hc]; decide
  have hins : e.release.ins = e.ins.modify k (List.drop 1) := by
    simp only [Elem.release, ht, hc, if_true, loadShadow_ins, hd, Nat.add_sub_cancel_left]
    rfl
  unfold Elem.inq at hin ⊢
  rw [hins]
  refine ⟨?_, fun j hj => ?_⟩
  · rw [getD_modify _ _ rfl, if_pos rfl, hin]
    rfl
  · rw [getD_modify _ _ rfl, if_neg hj]

/-! ### Disposition of an element's or a switch word's trap (R431, R432, R444) -/

/-- Nothing changes but the silent-error log. -/
def onlyLogs (s s' : State) : Prop := s' = { s with selog := s'.selog, selogLost := s'.selogLost }

theorem logSe_onlyLogs (s : State) (kind ptile site handle : Nat) : onlyLogs s (s.logSe kind ptile site handle) := by
  unfold State.logSe
  split <;> rfl

/-- A detection is logged, and where no vote opens nothing else changes. -/
theorem openVotes_onlyLogs {s : State} (hv : s.voting = false) (l : LoadRef) (p : PTrap) :
    onlyLogs s (s.openVotes l p) := by
  have hlog : onlyLogs s (s.logDetection l p.cause (s.detected p)) :=
    foldl_keeps (R := onlyLogs) (fun _ => rfl) (fun h1 h2 => by rw [onlyLogs, h2, h1]) _
      (fun s _ => logSe_onlyLogs s _ _ _ _) _ s
  unfold State.openVotes
  dsimp only
  rwa [if_pos (ne_true_of_eq_false hv)]

theorem modBox_there {s : State} {l : LoadRef} {lt site : Nat} {b : Box} (h : s.box? l lt site = some b) (f : Box → Box)
    (hf : ∀ b, (f b).load = b.load ∧ (f b).lt = b.lt ∧ (f b).site = b.site) :
    (s.modBox l lt site f).box? l lt site = some (f b) := by
  have hkey := find_map (fun b : Box => (b.load, b.lt, b.site)) (l, lt, site) f
    (fun a ha => by simpa only [hf] using ha) s.boxes (l, lt, site)
  simp only [Prod.mk.injEq, if_true] at hkey
  exact hkey.trans (congrArg (Option.map f) h)

theorem release_held {b : Box} {k : Nat} {tk : Tok} (hk : k < b.stages.length) (hh : (b.stage k).held = some tk) :
    ((b.release k).stage k).held =
      some { tk with rid := ridAt b.rids (swDest (b.word k)), ftag := if tk.ftag = 15 then 0 else tk.ftag } := by
  have hset : (b.release k).stage k = { b.stage k with held := (b.stage k).held.map fun t =>
      { t with rid := ridAt b.rids (swDest (b.word k)), ftag := if t.ftag = 15 then 0 else t.ftag } } := by
    simp [Box.release, Box.setStage, Box.stage, hk]
  rw [hset, hh]
  rfl

/-! ### Stopping a fabric load (R433 to R435) -/

/-- A fabric load that begins to drain: nothing of it is written to memory, every element of it stops, and no element of
another changes. -/
def drains (s s' : State) (l : LoadRef) (x : Load) (disp : Disp) (reason : Nat) : Prop :=
  s'.mem = s.mem ∧
    s'.load? l = some { x with
      phase := .draining, disp := some disp, reason := reason, returned := [], phaseAt := s.clock } ∧
    (∀ e ∈ s'.elems, e.ref.load = l → e.stopped = true) ∧ ∀ r, r.load ≠ l → s'.elem? r = s.elem? r

theorem find_map_other {α : Type} (p : α → Bool) (g : α → α) (xs : List α) (hp : ∀ a, p (g a) = p a)
    (hg : ∀ a, p a = true → g a = a) : (xs.map g).find? p = xs.find? p := by
  rw [List.find?_map, show p ∘ g = p from funext hp]
  cases h : xs.find? p with
  | none => rfl
  | some a => exact congrArg some (hg a (List.find?_some h))

theorem beginDrain_drains {s : State} {l : LoadRef} {x : Load} (hx : s.load? l = some x) (d : Disp) (reason : Nat) :
    drains s (s.beginDrain l d reason) l x d reason := by
  refine ⟨rfl, modLoad_there hx _ fun _ h => h, fun e he hl => ?_, fun r hr => ?_⟩
  · obtain ⟨a, -, rfl⟩ := List.mem_map.mp he
    split at hl
    · next h => rw [if_pos h]
    · next h => exact absurd hl h
  · refine find_map_other _ _ _ (fun a => ?_) fun a ha => if_neg ?_
    · split <;> rfl
    · rw [of_decide_eq_true ha]
      exact hr

/-- How a resident fabric load that is to be stopped ends: without a frame owner a save becomes a kill (R435). -/
def Load.stopFor (x : Load) (d : Disp) : Disp :=
  if d.level < 3 ∧ x.owner = none then ⟨3, Cause.saveNoframe, 0⟩ else d

theorem stopFor_owner {x : Load} (h : x.owner ≠ none) (d : Disp) : x.stopFor d = d := if_neg fun hd => h hd.2

theorem stopFor_noOwner {x : Load} (h : x.owner = none) {d : Disp} (hd : d.level < 3) :
    x.stopFor d = ⟨3, Cause.saveNoframe, 0⟩ := if_pos ⟨hd, h⟩

theorem stopFor_kill (x : Load) (cause va : Nat) : x.stopFor ⟨3, cause, va⟩ = ⟨3, cause, va⟩ :=
  if_neg fun hd => absurd hd.1 (by simp)

theorem requestStop_resident {s : State} {l : LoadRef} {x : Load} (hx : s.load? l = some x) (hp : x.phase = .resident)
    (d : Disp) {reason : Nat} (hr : reason ≠ 0) : s.requestStop l d reason =
      s.beginDrain l (x.stopFor d) reason := by
  simp only [State.requestStop, Load.stopFor, hx, hp, hr, if_false, Option.isNone_iff_eq_none]
  split <;> rfl

/-! ### What becomes of a trap at its return -/

section
variable {s : State} {t : Nat} {q : Seq} {p : PTrap} {ps : List PTrap}

theorem disposeElem_released (s : State) (l : LoadRef) (hres : p.cause ≠ Cause.residue) (hroute : p.cause ≠ Cause.route) :
    s.disposeElem p l 0 = s.releaseTrap p := by
  simp only [State.disposeElem, hres, hroute, or_self, if_false, if_true]

theorem disposeElem_logged (hv : s.voting = false) (l : LoadRef) :
    ∃ s1, onlyLogs s s1 ∧ s.disposeElem p l 0 = s1.releaseTrap p := by
  have heq : s.disposeElem p l 0 =
      (if p.cause = Cause.residue ∨ p.cause = Cause.route then s.openVotes l p else s).releaseTrap p := by
    simp only [State.disposeElem, if_true]
  refine ⟨_, ?_, heq⟩
  split
  · exact openVotes_onlyLogs hv l p
  · rfl

theorem releaseTrap_elem (s : State) {r : ElemRef} (hs : p.src = .elem r) :
    s.releaseTrap p = s.modElem r Elem.release := by
  rw [State.releaseTrap, hs]

theorem releaseTrap_box (s : State) {l : LoadRef} {lt site k : Nat} (hs : p.src = .box l lt site k) :
    s.releaseTrap p = s.modBox l lt site fun b => b.release k := by
  rw [State.releaseTrap, hs]

theorem released_there {r : ElemRef} {e : Elem} (he : s.elem? r = some e) :
    (s.modElem r Elem.release).elem? r = some e.release ∧
      ∀ r', r' ≠ r → (s.modElem r Elem.release).elem? r' = s.elem? r' := by
  have hmod (r' : ElemRef) := modElem_elem s r r' Elem.release fun e he => (release_ref e).trans he
  exact ⟨by rw [hmod, if_pos rfl, he, Option.map_some], fun r' hr => by rw [hmod, if_neg hr]⟩

theorem disposeElem_stops (s : State) (l : LoadRef) {c : Nat} (hc : c ≠ 0) (hres : p.cause ≠ Cause.residue)
    (hroute : p.cause ≠ Cause.route) : ∃ va, s.disposeElem p l c =
      if c = Cause.page ∧ p.cause = Cause.faultUnconsumed ∧ fld p.detail 32 16 = Cause.page then
        s.requestStop l ⟨2, 0, va⟩ 1
      else if c = Cause.preempt then s.requestStop l ⟨1, 0, 0⟩ 3 else s.requestStop l ⟨3, c, 0⟩ 3 := by
  simp only [State.disposeElem, hc, hres, hroute, or_self, if_false]
  exact ⟨_, rfl⟩

/-- A cause that stops a resident fabric load: to be saved, or, where no task has a frame, to be killed. -/
theorem requestStop_drains {l : LoadRef} {x : Load} (hx : s.load? l = some x) (hp : x.phase = .resident) (d : Disp)
    {reason : Nat} (hr : reason ≠ 0) :
    (s.requestStop l d reason).seqs = s.seqs ∧
      drains s (s.requestStop l d reason) l x (x.stopFor d) reason := by
  rw [requestStop_resident hx hp d hr]
  exact ⟨rfl, beginDrain_drains hx _ reason⟩

end

/-! ### Returning from a trap (R383) -/

section
variable {s : State} {t : Nat} {q : Seq} {p : PTrap} {ps : List PTrap}

theorem onlySeq_trans {a b : State} (h1 : onlySeq s a t) (h2 : onlySeq a b t) : onlySeq s b t := by
  refine ⟨?_, fun u hu => (h2.2 u hu).trans (h1.2 u hu)⟩
  rw [h2.1, h1.1]

theorem tret_returns (h : seqThere s t q) (hexec : exec .tret s = .next (s.left t)) :
    ∃ s' q', exec .tret s = .next s' ∧ s'.seq? t = some q' ∧ returnedSeq q q' ∧ plainReturn q q' ∧ onlySeq s s' t :=
  have ⟨hseq, honly⟩ := left_spec h.2
  ⟨_, _, hexec, hseq, leave_returned q _ _ _ _ _, leave_plain q _, honly⟩

section
variable (h : seqThere s t q) (hp : q.priv = true) (ht : q.taken = p :: ps)
include h hp ht

theorem tret_sys {gd : Nat} (hs : p.src = .sys gd) :
    ∃ s' q', exec .tret s = .next s' ∧ s'.seq? t = some q' ∧ returnedSeq q q' ∧ onlySeq s s' t ∧
      q'.pc = BitVec.ofNat 57 (q.epc.toNat / 4 * 4) + 4 ∧
      ∀ j, q'.reg j = if j = BitVec.ofNat 5 gd ∧ BitVec.ofNat 5 gd ≠ 0 then q.sysret else q.reg j := by
  have hexec := exec_tret_taken h hp ht
  rw [State.disposed, hs] at hexec
  obtain ⟨hleft, honly⟩ := left_spec h.2
  obtain ⟨hseq, honly'⟩ := modSeq_spec (s.left t) t _
    (fun x => { x.setReg (BitVec.ofNat 5 gd) q.sysret with pc := x.pc + 4 }) hleft
    fun x hx => (setReg_tile x _ _).trans hx
  refine ⟨_, _, hexec, hseq, ?_, onlySeq_trans honly honly', rfl, fun j => reg_setReg _ _ j _⟩
  obtain ⟨regs, late, loads, hset⟩ :=
    setReg_rest { q.leave with busy := s.clock + 1 } (BitVec.ofNat 5 gd) q.sysret
  rw [hset]
  exact leave_returned q _ regs late loads _

theorem tret_elem {r : ElemRef} {e : Elem} (hs : p.src = .elem r) (he : s.elem? r = some e) (hc : fld q.cause 48 16 = 0)
    (hres : p.cause ≠ Cause.residue) (hroute : p.cause ≠ Cause.route) :
    tretLeaves s t q fun s' => s'.elem? r = some e.release ∧ s' = { s with seqs := s'.seqs, elems := s'.elems } ∧
      ∀ r', r' ≠ r → s'.elem? r' = s.elem? r' := by
  have hexec := exec_tret_taken h hp ht
  rw [State.disposed, hs, hc] at hexec
  dsimp only at hexec
  rw [disposeElem_released _ _ hres hroute, releaseTrap_elem _ hs] at hexec
  obtain ⟨hthere, hothers⟩ := released_there (s := s.left t) he
  exact tretLeaves_of h hexec rfl ⟨hthere, rfl, hothers⟩

theorem tret_elem_detected {r : ElemRef} {e : Elem} (hs : p.src = .elem r) (he : s.elem? r = some e)
    (hc : fld q.cause 48 16 = 0) (hv : s.voting = false) :
    tretLeaves s t q fun s' => s'.elem? r = some e.release ∧
      s' = { s with seqs := s'.seqs, elems := s'.elems, selog := s'.selog, selogLost := s'.selogLost } := by
  have hexec := exec_tret_taken h hp ht
  rw [State.disposed, hs, hc] at hexec
  obtain ⟨s1, hlog, heq⟩ := disposeElem_logged (p := p) (s := s.left t) hv r.load
  dsimp only at hexec
  rw [heq, releaseTrap_elem _ hs, hlog] at hexec
  exact tretLeaves_of h hexec rfl
    ⟨(released_there (s := { s.left t with selog := s1.selog, selogLost := s1.selogLost }) he).1, rfl⟩

theorem tret_box {l : LoadRef} {lt site k : Nat} {b : Box} {tk : Tok} (hs : p.src = .box l lt site k)
    (hb : s.box? l lt site = some b) (hh : (b.stage k).held = some tk) (hk : k < b.stages.length)
    (hc : fld q.cause 48 16 = 0) (hv : s.voting = false) :
    tretLeaves s t q fun s' => ∃ b', s'.box? l lt site = some b' ∧ (b'.stage k).held =
      some { tk with rid := ridAt b.rids (swDest (b.word k)), ftag := if tk.ftag = 15 then 0 else tk.ftag } := by
  have hexec := exec_tret_taken h hp ht
  rw [State.disposed, hs, hc] at hexec
  obtain ⟨s1, hlog, heq⟩ := disposeElem_logged (p := p) (s := s.left t) hv l
  dsimp only at hexec
  rw [heq, releaseTrap_box _ hs, hlog] at hexec
  refine tretLeaves_of h hexec rfl
    ⟨_, modBox_there (s := { s.left t with selog := s1.selog, selogLost := s1.selogLost }) hb _ ?_, release_held hk hh⟩
  exact fun _ => ⟨rfl, rfl, rfl⟩

/-- A cause of sq.CAUSE that stops the element's fabric load (R431). -/
theorem tret_stops {r : ElemRef} {x : Load} (hs : p.src = .elem r) (hx : s.load? r.load = some x)
    (hphase : x.phase = .resident) (hc : fld q.cause 48 16 ≠ 0) (hres : p.cause ≠ Cause.residue)
    (hroute : p.cause ≠ Cause.route) :
    let c := fld q.cause 48 16
    let paged : Prop := c = Cause.page ∧ p.cause = Cause.faultUnconsumed ∧ fld p.detail 32 16 = Cause.page
    let stops (d : Disp) (reason : Nat) : Prop := tretLeaves s t q fun s' => drains s s' r.load x (x.stopFor d) reason
    (paged → ∃ va, stops ⟨2, 0, va⟩ 1) ∧ (c = Cause.preempt → stops ⟨1, 0, 0⟩ 3) ∧
      (c ≠ Cause.preempt → ¬ paged → stops ⟨3, c, 0⟩ 3) := by
  intro c paged stops
  have hexec := exec_tret_taken h hp ht
  rw [State.disposed, hs] at hexec
  obtain ⟨va, heq⟩ := disposeElem_stops (p := p) (s.left t) r.load hc hres hroute
  dsimp only at hexec
  rw [heq] at hexec
  have hstop (d : Disp) {reason : Nat} (hr : reason ≠ 0)
      (he : exec .tret s = .next ((s.left t).requestStop r.load d reason)) : stops d reason :=
    have ⟨hseqs, hdrains⟩ := requestStop_drains (s := s.left t) hx hphase d hr
    tretLeaves_of h he hseqs hdrains
  refine ⟨fun hpg => ⟨va, hstop _ (by decide) ?_⟩, fun hpre => hstop _ (by decide) ?_,
    fun hpre hpg => hstop _ (by decide) ?_⟩
  · rwa [if_pos hpg] at hexec
  · rwa [if_neg (fun hpg : paged => absurd (hpre.symm.trans hpg.1) (by decide)), if_pos hpre] at hexec
  · rwa [if_neg hpg, if_neg hpre] at hexec

/-- The phase of a fabric load during a PREEMPT or a RESTORE trap. -/
def TrapSrc.phase (src : TrapSrc) (l : LoadRef) : LPhase := if src = .preempt l then .saving else .restoring

theorem exec_tret_load {l : LoadRef} (hs : p.src = .preempt l ∨ p.src = .restore l) :
    exec .tret s = .next ((s.left t).disposeLoad t l (p.src.phase l) (fld q.cause 48 16)) := by
  rw [exec_tret_taken h hp ht]
  rcases hs with hs | hs <;> simp [State.disposed, TrapSrc.phase, hs]

theorem tret_part {l : LoadRef} {x : Load} {y : TilePlace} (hs : p.src = .preempt l ∨ p.src = .restore l)
    (hx : s.load? l = some x) (hphase : x.phase = p.src.phase l)
    (hy : (x.tiles.find? fun y => decide (pkgTile l.die y.pt = t)) = some y)
    (hc : fld q.cause 48 16 = 0 ∨ fld q.cause 48 16 = Cause.page ∨ fld q.cause 48 16 = Cause.preempt) :
    tretLeaves s t q fun s' => s'.elems = s.elems ∧ s'.load? l = some (x.partDone y.lt s.clock) ∧
      (p.src = .restore l ∨ x.owner = none → s'.mem = s.mem) := by
  have hexec := exec_tret_load h hp ht hs
  rw [State.disposeLoad, if_pos hc] at hexec
  obtain ⟨hseqs, helems, hload, hmem⟩ := partDone_spec (s := s.left t) hx hphase hy
  refine tretLeaves_of h hexec hseqs ⟨helems, hload, fun hno => hmem (hno.imp_left fun hr => ?_)⟩
  simp [TrapSrc.phase, hr]

theorem tret_retires {l : LoadRef} {x : Load} (hs : p.src = .preempt l ∨ p.src = .restore l) (hx : s.load? l = some x)
    (hphase : x.phase = p.src.phase l)
    (hc : ¬(fld q.cause 48 16 = 0 ∨ fld q.cause 48 16 = Cause.page ∨ fld q.cause 48 16 = Cause.preempt)) :
    tretLeaves s t q fun s' => ∃ y, s'.load? l = some y ∧ y.phase = .retiring ∧
      (p.src = .preempt l → y.slots = List.replicate 8 none) := by
  obtain ⟨hseqs, y, hy, hret, hslots⟩ := disposeLoad_retires (s := s.left t) hx hphase t hc
  exact tretLeaves_of h (exec_tret_load h hp ht hs) hseqs ⟨y, hy, hret, fun hpre => hslots (if_pos hpre)⟩

end
end

/-- Settles O7: entry and return of the sequencer itself, then the disposition of each kind of trap by the
lemma about it. -/
theorem trapEntryAndReturn : Obligations.TrapEntryAndReturn := by
  refine ⟨fun s t q h => ?_, fun s t q h hp => ?_⟩
  · intro taken
    have htaken (p : PTrap) (ps : List PTrap) : taken { q.enter p with pend := ps } p := by
      obtain ⟨hepc, hcause, hdmask, hrest⟩ := enter_taken q p ps
      refine ⟨hepc, hcause, hdmask.trans ?_, hrest⟩
      cases hs : p.src <;> simp only [PTrap.detailBits, hs]
    refine ⟨?_, fun p ps hpend hin => ?_, fun hw => exec_trapEntry_waits h hw⟩
    · obtain ⟨dt, hseq, hrest, hothers⟩ := trapQ_spec h.2 Cause.illegal
      exact ⟨_, _, dt, exec_illegal h, hseq, htaken _ q.pend, rfl, hrest, hothers⟩
    · obtain ⟨hseq, honly⟩ := modSeq_spec s t q (fun q => { q.enter p with pend := ps }) h.2 fun _ h => h
      exact ⟨_, _, exec_trapEntry_taken h hpend hin, hseq, htaken p ps, rfl, honly⟩
  · intro returned plain c returns stops
    refine ⟨fun ht => tret_returns h (exec_tret_none h hp ht), fun p ps ht => ⟨fun hs => ?_, fun gd hs => ?_,
      fun r e hs he hc hres hroute => ?_, fun r e tr hs he htr hcause hc hv => ⟨fun _ => ?_, ?_, ?_⟩,
      fun l lt site k b tk hs hb hh hk hc hv => ?_, fun r x hs hx hphase hc hres hroute => ?_,
      fun l x y hs hx hphase hy => ⟨fun hc => ?_, fun h0 h1 h2 => ?_⟩⟩⟩
    · refine tret_returns h ((exec_tret_taken h hp ht).trans ?_)
      rw [State.disposed, hs]
    · exact tret_sys h hp ht hs
    · obtain ⟨s', q', hexec, hseq, hret, hplain, hothers, helem, hrest, hkept⟩ := tret_elem h hp ht hs he hc hres hroute
      exact ⟨s', q', hexec, hseq, hret, hplain, helem, release_trap e, hrest, hothers, hkept⟩
    · exact tret_elem_detected h hp ht hs he hc hv
    · exact fun k tk ts hpc ho hk hin => release_residue htr (hcause.trans hpc) ho hk hin
    · exact fun k tk ts hpc _ hd hin => release_route htr (hcause.trans hpc) hd hin
    · exact tret_box h hp ht hs hb hh hk hc hv
    · obtain ⟨hpaged, hpreempt, hkill⟩ := tret_stops h hp ht hs hx hphase hc hres hroute
      refine ⟨fun hc ho => ?_, fun hc ho => ?_, fun hpg ho => ?_, fun hpg ho => ?_, fun hc hpg => ?_⟩
      · exact stopFor_owner ho ⟨1, 0, 0⟩ ▸ hpreempt hc
      · exact stopFor_noOwner ho (d := ⟨1, 0, 0⟩) (show 1 < 3 by decide) ▸ hpreempt hc
      · obtain ⟨va, hstop⟩ := hpaged hpg
        exact ⟨va, stopFor_owner ho ⟨2, 0, va⟩ ▸ hstop⟩
      · obtain ⟨va, hstop⟩ := hpaged hpg
        exact stopFor_noOwner ho (d := ⟨2, 0, va⟩) (show 2 < 3 by decide) ▸ hstop
      · exact stopFor_kill x _ 0 ▸ hkill hc hpg
    · exact tret_part h hp ht hs hx hphase hy hc
    · obtain ⟨s', q', hexec, hseq, hret, -, -, y', hy', hret', hslots⟩ :=
        tret_retires h hp ht hs hx hphase (by simp only [not_or]; exact ⟨h0, h1, h2⟩)
      exact ⟨s', q', y', hexec, hseq, hret, hy', hret', hslots⟩

end Sys2Proof.Machine
end

section
/-! SUPPORT. The multiply array and the drain port of a matrix element (R102 to R104, R232, R233, R236 to R239): what a
step of one element leaves of the state, the words of an accumulator after a firing, and the obligation about them. -/

namespace Sys2Proof.Machine

open Sys2Proof Sys2Proof.Safety

/-! ### Steps of one element -/

theorem withElem_there {s : State} {r : ElemRef} {e : Elem} (h : elemAct s r e) (g : ElemRef → Elem → State) :
    withElem s g = .next (g r e) := by
  simp only [withElem, h.1, h.2]

theorem modElem_there {s : State} {r : ElemRef} {e : Elem} (he : s.elem? r = some e) {f : Elem → Elem}
    (hf : ∀ x, x.ref = r → (f x).ref = r) :
    (s.modElem r f).elem? r = some (f e) ∧ ∀ r', r' ≠ r → (s.modElem r f).elem? r' = s.elem? r' := by
  have hmod (r' : ElemRef) := modElem_elem s r r' f hf
  exact ⟨by rw [hmod, if_pos rfl, he, Option.map_some], fun r' hr => by rw [hmod, if_neg hr]⟩

theorem setsElem_of_modElem {i : Instr} {s : State} {r : ElemRef} {e : Elem} {f : Elem → Elem}
    (hi : exec i s = .next (s.modElem r f)) (he : s.elem? r = some e)
    (hf : ∀ x, x.ref = r → (f x).ref = r) : setsElem i s r (f e) :=
  have ⟨hthere, hothers⟩ := modElem_there he hf
  ⟨_, hi, hthere, rfl, hothers⟩

theorem onlyLogs.elem {s s' : State} (h : onlyLogs s s') (r : ElemRef) : s'.elem? r = s.elem? r := by
  rw [h]
  rfl

theorem logElem_onlyLogs (s : State) (e : Elem) : onlyLogs s (s.logElem e) := logSe_onlyLogs s _ _ _ _

/-- An element e1 with the outputs of e, in which a token has been placed from outside a firing (R55, R108). -/
def State.placed (s : State) (e : Elem) (dst : Nat) (t : Tok) (e1 : Elem) : Elem :=
  { e1 with outs := (s.putTok e dst t).outs }

theorem placed_putsTok (s : State) (e : Elem) (dst : Nat) (t : Tok) (e1 : Elem) :
    putsTok s e dst t e1 (s.placed e dst t e1) := by
  refine ⟨fun k hk => ?_, rfl⟩
  simp only [Elem.out, State.placed, State.putTok, Elem.put]
  rw [range_map_getD _ _ _ _ hk]
  split
  · rfl
  · exact (List.append_nil _).symm

/-! ### The words of an accumulator (R102 to R104, R232, R236) -/

/-- Writes at n rising addresses from a on: the canonical form stays, and each address of the run reads as written. -/
theorem foldlRange_sset {α : Type} [DecidableEq α] (d : α) (a : Nat) (v : Nat → α) (n : Nat) {ws : List (Nat × α)}
    (h : swf d ws = true) :
    swf d (foldlRange (fun ws c => sset d ws (a + c) (v c)) n ws) = true ∧
      ∀ k, sget d (foldlRange (fun ws c => sset d ws (a + c) (v c)) n ws) k =
        if a ≤ k ∧ k < a + n then v (k - a) else sget d ws k := by
  induction n with
  | zero => exact ⟨h, fun k => (if_neg (by omega)).symm⟩
  | succ n ih =>
    obtain ⟨hwf, hget⟩ := ih
    refine ⟨swf_sset d _ _ _ hwf, fun k => ?_⟩
    rw [foldlRange, sget_sset d _ _ _ _ hwf, hget]
    by_cases hk : k = a + n
    · rw [if_pos hk, if_pos (by omega), hk, Nat.add_sub_cancel_left]
    · rw [if_neg hk]
      exact if_congr (by omega) rfl rfl

/-- Rows of 32 words, of each of which the first n are written. -/
theorem foldlRange_rows {α : Type} [DecidableEq α] (d : α) (v : Nat → Nat → α) (m : Nat) {n : Nat} (hn : n ≤ 32)
    {ws : List (Nat × α)} (h : swf d ws = true) :
    let rows := foldlRange (fun ws r => foldlRange (fun ws c => sset d ws (32 * r + c) (v r c)) n ws) m ws
    swf d rows = true ∧ ∀ p q, q < 32 →
      sget d rows (32 * p + q) = if p < m ∧ q < n then v p q else sget d ws (32 * p + q) := by
  induction m with
  | zero => exact ⟨h, fun p q _ => (if_neg (by omega)).symm⟩
  | succ m ih =>
    obtain ⟨hwf, hget⟩ := ih
    obtain ⟨hwf', hrow⟩ := foldlRange_sset d (32 * m) (v m) n hwf
    refine ⟨hwf', fun p q hq => ?_⟩
    rw [foldlRange, hrow, hget p q hq]
    by_cases hp : p = m
    · subst hp
      rw [Nat.add_sub_cancel_left, if_neg (by omega : ¬(p < p ∧ q < n))]
      exact if_congr (by omega) rfl rfl
    · rw [if_neg (by omega : ¬(32 * m ≤ 32 * p + q ∧ 32 * p + q < 32 * m + n))]
      exact if_congr (by omega) rfl rfl

theorem update_word {a : Acc} (ha : swf 0 a.words = true) (m : Nat) {n : Nat} (hn : n ≤ 32) (g : Nat → Nat → Nat → Nat)
    (p : Nat) {q : Nat} (hq : q < 32) : sget 0 (a.update m n g).words (32 * p + q) =
      if p < m ∧ q < n then g p q (sget 0 a.words (32 * p + q)) else sget 0 a.words (32 * p + q) :=
  (foldlRange_rows 0 (fun r c => g r c (sget 0 a.words (32 * r + c))) m hn ha).2 p q hq

/-- The chunks of one position in rising K: chunk i has the elements from 32 i on (R102). -/
theorem accDot_eq_foldl (s32 : Bool) (n w : Nat) (a b : List FVal) :
    accDot s32 n w a b = (List.range n).foldl (fun w i =>
      accStep s32 w (dot ((a.drop (32 * i)).take 32) ((b.drop (32 * i)).take 32))) w := by
  induction n generalizing w a b with
  | zero => rfl
  | succ n ih =>
    rw [accDot, ih, List.range_succ_eq_map, List.foldl_cons, List.foldl_map]
    simp only [List.drop_drop, Nat.mul_succ, Nat.add_comm, Nat.mul_zero, List.drop_zero]

theorem tmma_word {a : Acc} {ta tb : TReg} (ha : swf 0 a.words = true) (hb : tb.rows ≤ 32) (p : Nat) {q : Nat}
    (hq : q < 32) : sget 0 (a.tmma ta tb).words (32 * p + q) =
      if p < ta.rows ∧ q < tb.rows then
        (List.range (ceilDiv ta.k 32)).foldl (fun w i => accStep a.kind w
          (dot (((ta.row p).drop (32 * i)).take 32) (((tb.row q).drop (32 * i)).take 32))) (sget 0 a.words (32 * p + q))
      else sget 0 a.words (32 * p + q) := by
  rw [Acc.tmma, update_word ha ta.rows hb _ p hq]
  split
  · next hin => rw [accDot_eq_foldl, range_map_getD _ _ _ _ hin.1, range_map_getD _ _ _ _ hin.2]
  · rfl

/-! ### What a firing leaves in its accumulator (R232, R236, R239) -/

theorem apply_poison {a : Acc} (ha : a.st = 3) (j : ArrJob) : a.apply j = a := if_pos ha

theorem apply_poisoned {a : Acc} (ha : a.st ≠ 3) {j : ArrJob} {c : Nat} (hj : j.poison = some c) :
    a.apply j = { a with st := 3, cause := c } := by
  rw [Acc.apply, if_neg ha, hj]

theorem apply_tmma {a : Acc} (ha : a.st ≠ 3) {j : ArrJob} (hj : j.poison = none) {ta tb : TReg}
    (ho : j.ops = [ta, tb]) : a.apply j = a.tmma ta tb := by
  rw [Acc.apply, if_neg ha, hj, ho]

theorem apply_tacc {a : Acc} (ha : a.st ≠ 3) {j : ArrJob} (hj : j.poison = none) {t : TReg} (ho : j.ops = [t]) :
    a.apply j = a.tacc t := by
  rw [Acc.apply, if_neg ha, hj, ho]

/-! ### ARRAY_START and ARRAY_COMPLETE (R233) -/

/-- The tile registers a firing names. -/
def ArrJob.regs (j : ArrJob) : List Nat := j.ta :: j.tb.toList

/-- Whether one of the reads of a firing meets an uncorrectable error (R220). -/
def MxeState.readErr (x : MxeState) (j : ArrJob) : Bool :=
  j.regs.any (fun t => x.badT.contains t) || x.badA.contains j.acc

theorem readOps_eq (x : MxeState) (j : ArrJob) : x.readOps j = { j with
    ops := j.regs.map x.treg
    poison := if j.poison = none ∧ x.readErr j = true then some Cause.uncorrectable else j.poison } := by
  obtain ⟨acc, ta, tb, start, b, poison, ops⟩ := j
  cases tb <;> cases poison <;> simp [MxeState.readOps, MxeState.readErr, ArrJob.regs]

/-- The array after the last clock of the firing j: the accepted firing starts in the next one. -/
def MxeState.handedOver (x : MxeState) (clock : Nat) (j : ArrJob) : MxeState :=
  { x with
    ending := x.ending ++ [x.readOps j], run := x.next.map fun n => { n with start := clock + 1 }, next := none }

section
variable {s : State} {r : ElemRef} {e : Elem} {j : ArrJob} (h : elemAct s r e)
include h

theorem exec_arrayStart_busy (hj : e.mxe.run = some j) (hb : s.clock < j.last) : exec .arrayStart s = .next s := by
  refine (withElem_there h _).trans ?_
  simp only [hj, if_pos hb]

theorem exec_arrayStart_over (hj : e.mxe.run = some j) (hb : j.last ≤ s.clock) :
    let s1 := s.modElem r fun y => y.setMxe (e.mxe.handedOver s.clock j)
    exec .arrayStart s = .next (if (e.mxe.readOps j).poison ≠ j.poison then s1.logElem e else s1) := by
  refine (withElem_there h _).trans ?_
  simp only [hj, if_neg (Nat.not_lt.mpr hb)]
  rfl

theorem arrayStart_hands_over (hj : e.mxe.run = some j) (hb : j.last ≤ s.clock) :
    ∃ s', exec .arrayStart s = .next s' ∧ s'.elem? r = some { e with mxe := e.mxe.handedOver s.clock j } ∧
      s' = { s with elems := s'.elems, selog := s'.selog, selogLost := s'.selogLost } ∧
      ((e.mxe.readOps j).poison = j.poison → s'.selog = s.selog ∧ s'.selogLost = s.selogLost) ∧
      ∀ r', r' ≠ r → s'.elem? r' = s.elem? r' := by
  obtain ⟨hthere, hothers⟩ :=
    modElem_there (f := fun y => y.setMxe (e.mxe.handedOver s.clock j)) h.2 fun _ hr => hr
  refine ⟨_, exec_arrayStart_over h hj hb, ?_⟩
  split
  · next hp =>
    have hlog := logElem_onlyLogs (s.modElem r fun y => y.setMxe (e.mxe.handedOver s.clock j)) e
    exact ⟨(hlog.elem r).trans hthere, by rw [hlog]; rfl, fun hq => absurd hq hp,
      fun r' hr => (hlog.elem r').trans (hothers r' hr)⟩
  · exact ⟨hthere, rfl, fun _ => ⟨rfl, rfl⟩, hothers⟩

theorem exec_arrayComplete_waits {rest : List ArrJob} (hj : e.mxe.ending = j :: rest) (hb : s.clock < j.last + 4) :
    exec .arrayComplete s = .next s := by
  refine (withElem_there h _).trans ?_
  simp only [hj, if_pos hb]

theorem arrayComplete_applies {rest : List ArrJob} (hj : e.mxe.ending = j :: rest) (hb : j.last + 4 ≤ s.clock) :
    setsElem .arrayComplete s r
      { e with mxe := { e.mxe.setA j.acc ((e.mxe.acc j.acc).apply j) with ending := rest } } := by
  have hexec : exec .arrayComplete s = .next (s.modElem r fun y => y.setMxe
      { e.mxe.setA j.acc ((e.mxe.acc j.acc).apply j) with ending := rest }) := by
    refine (withElem_there h _).trans ?_
    simp only [hj, if_neg (Nat.not_lt.mpr hb)]
  exact setsElem_of_modElem hexec h.2 fun _ hr => hr

end

/-! ### DRAIN_PORT_TOKEN (R233, R237 to R239; log 81) -/

/-- Whether the read of the drain's accumulator makes it POISON (R220, R239). -/
def MxeState.drainErr (x : MxeState) (d : Drain) : Bool := x.badA.contains d.acc && (x.acc d.acc).st != 3

/-- The drain's accumulator as the port reads it. -/
def MxeState.drainAcc (x : MxeState) (d : Drain) : Acc :=
  if x.drainErr d then { x.acc d.acc with st := 3, cause := Cause.uncorrectable } else x.acc d.acc

theorem drainErr_clean {x : MxeState} {d : Drain} (hb : x.badA.contains d.acc = false) : x.drainErr d = false := by
  rw [MxeState.drainErr, hb, Bool.false_and]

theorem drainErr_bad {x : MxeState} {d : Drain} (hb : x.badA.contains d.acc = true) (ha : (x.acc d.acc).st ≠ 3) :
    x.drainErr d = true := by
  rw [MxeState.drainErr, hb, Bool.true_and, bne_iff_ne.mpr ha]

theorem drainAcc_clean {x : MxeState} {d : Drain} (h : x.drainErr d = false) : x.drainAcc d = x.acc d.acc :=
  if_neg (ne_true_of_eq_false h)

theorem drainAcc_bad {x : MxeState} {d : Drain} (h : x.drainErr d = true) :
    x.drainAcc d = { x.acc d.acc with st := 3, cause := Cause.uncorrectable } := if_pos h

/-- The matrix state after a token of the drain d, which read its accumulator as a; last ends the drain. -/
def MxeState.afterToken (x : MxeState) (d : Drain) (a : Acc) (last : Bool) : MxeState :=
  if last then
    if d.clr ∨ a.st = 3 then { x with drain := none }.setA d.acc (Acc.cleared a.kind) else { x with drain := none }
  else { x with drain := some (d.next a) }

/-- The element with a matrix state after a token that advances the step counter or does not (R237), but for its
outputs. -/
def Elem.afterToken (e : Elem) (y : MxeState) (adv : Bool) : Elem :=
  { e with mxe := y, step := if adv then (e.step + 1) % 2 ^ 32 else e.step }

theorem tok_poison {a : Acc} (ha : a.st = 3) (d : Drain) (e : Elem) :
    d.tok a e = (faultTok a.cause d.acc, true, false) := if_pos ha

section
variable {d : Drain} {a : Acc} {e : Elem} (ha : a.st ≠ 3)
include ha

theorem tok_empty (hm : a.m = 0) : d.tok a e = (endTok 1, true, false) := by
  rw [Drain.tok, if_neg ha, if_pos hm]

theorem tok_value (hm : a.m ≠ 0) (hp : d.pos < d.rowTokens a) :
    d.tok a e = (d.valueTok a e, false, d.rounds a && e.isSr) := by
  rw [Drain.tok, if_neg ha, if_neg hm, if_pos hp]

theorem tok_row (hm : a.m ≠ 0) (hp : d.rowTokens a ≤ d.pos) (hr : d.row + 1 < a.m) :
    d.tok a e = (endTok 0, false, false) := by
  rw [Drain.tok, if_neg ha, if_neg hm, if_neg (Nat.not_lt.mpr hp), if_pos hr]

theorem tok_last (hm : a.m ≠ 0) (hp : d.rowTokens a ≤ d.pos) (hr : a.m ≤ d.row + 1) :
    d.tok a e = (endTok 1, true, false) := by
  rw [Drain.tok, if_neg ha, if_neg hm, if_neg (Nat.not_lt.mpr hp), if_neg (Nat.not_lt.mpr hr)]

theorem afterToken_last (x : MxeState) : x.afterToken d a true =
    if d.clr then { x with drain := none }.setA d.acc (Acc.cleared a.kind) else { x with drain := none } := by
  simp only [MxeState.afterToken, ha, or_false, if_true]

end

theorem afterToken_poison {d : Drain} {a : Acc} (ha : a.st = 3) (x : MxeState) : x.afterToken d a true =
    { x with drain := none }.setA d.acc (Acc.cleared a.kind) := by
  simp only [MxeState.afterToken, ha, or_true, if_true]

theorem afterToken_value {d : Drain} {a : Acc} (hp : d.pos < d.rowTokens a) (x : MxeState) :
    x.afterToken d a false = { x with drain := some { d with pos := d.pos + 1 } } := by
  simp only [MxeState.afterToken, Drain.next, if_pos hp, Bool.false_eq_true, if_false]

theorem afterToken_row {d : Drain} {a : Acc} (hp : d.rowTokens a ≤ d.pos) (x : MxeState) :
    x.afterToken d a false = { x with drain := some { d with row := d.row + 1, pos := 0 } } := by
  simp only [MxeState.afterToken, Drain.next, if_neg (Nat.not_lt.mpr hp), Bool.false_eq_true, if_false]

section
variable {s : State} {r : ElemRef} {e : Elem} {d : Drain} (h : elemAct s r e) (hd : e.mxe.drain = some d)
include h hd

theorem exec_drainPortToken_waits (hw : s.clock < d.start ∨ e.spaceFor d.dst = false) :
    exec .drainPortToken s = .next s := by
  refine (withElem_there h _).trans ?_
  simp only [hd, Bool.not_eq_true, if_pos hw]

variable (ht : d.start ≤ s.clock) (hsp : e.spaceFor d.dst = true)
include ht hsp

theorem exec_drainPortToken_places {t : Tok} {last adv : Bool} (htok : d.tok (e.mxe.drainAcc d) e = (t, last, adv)) :
    let s1 := s.modElem r fun _ => s.placed e d.dst t (e.afterToken (e.mxe.afterToken d (e.mxe.drainAcc d) last) adv)
    exec .drainPortToken s = .next (if e.mxe.drainErr d = true then s1.logElem e else s1) := by
  have hnow : ¬(s.clock < d.start ∨ ¬ e.spaceFor d.dst = true) := by simp [hsp, ht]
  refine (withElem_there h _).trans ?_
  rw [MxeState.drainAcc, MxeState.drainErr] at htok ⊢
  simp only [hd, if_neg hnow, htok]
  cases adv <;> rfl

/-- A token of an accumulator that reads without an error. -/
theorem drainPortToken_puts (hb : e.mxe.badA.contains d.acc = false) {t : Tok} {last adv : Bool} {y : MxeState}
    (htok : d.tok (e.mxe.acc d.acc) e = (t, last, adv)) (hy : e.mxe.afterToken d (e.mxe.acc d.acc) last = y) :
    ∃ e', setsElem .drainPortToken s r e' ∧ putsTok s e d.dst t (e.afterToken y adv) e' := by
  have herr := drainErr_clean hb
  rw [← drainAcc_clean herr] at htok hy
  have hexec := exec_drainPortToken_places h hd ht hsp htok
  rw [herr, hy] at hexec
  have href : e.ref = r := elem_ref h.2
  exact ⟨_, setsElem_of_modElem hexec h.2 fun _ _ => href, placed_putsTok s e d.dst t _⟩

/-- An accumulator that reads with an error is drained as a POISON one (R220, R239). -/
theorem drainPortToken_error (hb : e.mxe.badA.contains d.acc = true) (ha : (e.mxe.acc d.acc).st ≠ 3) :
    ∃ s' e', exec .drainPortToken s = .next s' ∧ s'.elem? r = some e' ∧
      putsTok s e d.dst (faultTok Cause.uncorrectable d.acc) (e.afterToken ({ e.mxe with drain := none }.setA d.acc
        (Acc.cleared (e.mxe.acc d.acc).kind)) false) e' := by
  have hacc := drainAcc_bad (drainErr_bad hb ha)
  have hexec := exec_drainPortToken_places h hd ht hsp (tok_poison (by rw [hacc]) d e)
  rw [drainErr_bad hb ha, afterToken_poison (by rw [hacc]), hacc] at hexec
  have href : e.ref = r := elem_ref h.2
  obtain ⟨hthere, -⟩ := modElem_there h.2 (f := fun _ => s.placed e d.dst (faultTok Cause.uncorrectable d.acc)
    (e.afterToken ({ e.mxe with drain := none }.setA d.acc (Acc.cleared (e.mxe.acc d.acc).kind)) false))
    fun _ _ => href
  exact ⟨_, _, hexec, ((logElem_onlyLogs _ e).elem r).trans hthere, placed_putsTok s e d.dst _ _⟩

end

/-! ### The obligation -/

/-- Settles O35: the array by the lemmas about its two steps, with each word of a product by `tmma_word`; the drain port by
the lemma about one token, with one equation of `Drain.tok` for each kind of token. -/
theorem arrayAndDrain : Obligations.ArrayAndDrain := by
  intro s r e h x sets
  refine ⟨fun j hj hb => ?_, fun j hj hb => exec_arrayStart_busy h hj hb,
    fun j rest hj hb => ⟨(x.acc j.acc).apply j, arrayComplete_applies h hj hb, fun ha => apply_poison ha j,
      fun c ha hp => apply_poisoned ha hp, fun ta tb ha hp ho => ?_, fun t ha hp ho => ?_⟩,
    fun j rest hj hb => exec_arrayComplete_waits h hj hb, fun d hd hw => exec_drainPortToken_waits h hd hw,
    fun d hd ht hsp => ?_⟩
  · have hover := arrayStart_hands_over h hj hb
    rwa [MxeState.handedOver, readOps_eq] at hover
  · rw [apply_tmma ha hp ho]
    exact ⟨rfl, fun hw _ hn p q _ hq => tmma_word hw hn p hq⟩
  · rw [apply_tacc ha hp ho]
    exact ⟨rfl, fun hw _ hn p q _ hq => update_word hw t.rows hn _ p hq⟩
  · intro a mx gone cleared puts
    refine ⟨fun hb ha => ?_, fun hb => ?_⟩
    · exact drainPortToken_error h hd ht hsp hb ha
    · have hputs {t : Tok} {last adv : Bool} {y : MxeState} (htok : d.tok a e = (t, last, adv))
          (hy : x.afterToken d a last = y) : puts t (e.afterToken y adv) :=
        drainPortToken_puts h hd ht hsp hb htok hy
      refine ⟨fun ha => ?_, fun ha hm => ?_, fun ha hm hp hr => ?_, fun ha hm hp hr => ?_, fun ha hm hp => ?_⟩
      · exact hputs (tok_poison ha d e) (afterToken_poison ha x)
      · exact hputs (tok_empty ha hm) (afterToken_last ha x)
      · exact hputs (tok_row ha hm hp hr) (afterToken_row hp x)
      · exact hputs (tok_last ha hm hp hr) (afterToken_last ha x)
      · exact hputs (tok_value ha hm hp) (afterToken_value hp x)

end Sys2Proof.Machine
end

section
/-! SUPPORT. The ten opcodes of every element kind (R122 to R130, R362, R363): what the body of each computes, and the
obligation about them. -/

namespace Sys2Proof.Machine

open Sys2Proof Sys2Proof.Safety

/-! ### Sources that any format tag may have (R131) -/

theorem read1_clean {c : Ctx} {a : BitVec 4} (h : clean c.e a) : c.read1 a.toNat .none = .ok (c.e.source a.toNat) :=
  read1_good ⟨h, rfl⟩

theorem read2_clean {c : Ctx} {a b : BitVec 4} (ha : clean c.e a) (hb : clean c.e b) :
    c.read2 a.toNat .none b.toNat .none = .ok (c.e.source a.toNat, c.e.source b.toNat) :=
  read2_good ⟨ha, rfl⟩ ⟨hb, rfl⟩

/-! ### What each body computes -/

section
variable {c : Ctx}

theorem bodyMov_clean (h : clean c.e c.f.srca) :
    let a := c.e.source c.f.srca.toNat
    bodyMov c = .ok { c.result a.val a.tag (a.val != 0) with res := some a.res } := by
  rw [bodyMov, read1_clean h]
  rfl

theorem bodyEmit_clean (h : clean c.e c.f.srca) :
    let a := c.e.source c.f.srca.toNat
    bodyEmit c = .ok (c.result a.val c.f.srcb (a.val != 0)) := by
  rw [bodyEmit, read1_clean h]
  rfl

theorem bodyTagrd_clean (h : clean c.e c.f.srca) :
    let a := c.e.source c.f.srca.toNat
    let tags : Word := BitVec.ofNat 64 (a.ctag.toNat + 8 * a.tag.toNat)
    bodyTagrd c = .ok (c.result tags 0 (tags != 0)) := by
  rw [bodyTagrd, read1_clean h]
  rfl

theorem bodySel_clean (ha : clean c.e c.f.srca) (hb : clean c.e c.f.srcb) :
    let x := if c.e.pred c.f.lane.toNat then c.e.source c.f.srca.toNat else c.e.source c.f.srcb.toNat
    bodySel c = .ok { c.result x.val x.tag (x.val != 0) with res := some x.res } := by
  rw [bodySel, read2_clean ha hb]
  rfl

theorem bodyJoinc_clean (ha : clean c.e c.f.srca) (hb : clean c.e c.f.srcb) :
    let k := c.e.source c.f.srcb.toNat
    let count := (c.e.source c.f.srca.toNat).val.toNat + (deqInputs c.f).length
    let full := decide (fld k.val 0 32 ≤ count)
    bodyJoinc c = .ok { c.result (BitVec.ofNat 64 (fld k.val 60 4)) 0 full with
      dst := if full then .token Ctag.order else .none
      also := some (c.f.srca.toNat - 4, BitVec.ofNat 64 (if full then count - fld k.val 0 32 else count)) } := by
  rw [bodyJoinc, read2_clean ha hb]
  rfl

end

/-- LANE selects AND at 0, OR at 1 and XOR at 2 and 3 (R126). -/
theorem plogOp_lane (lane : BitVec 2) (a b : Bool) : plogOp lane.toNat a b =
    if lane = 0 then a && b else if lane = 1 then a || b else xor a b := by
  obtain ⟨k, hk⟩ := lane
  match k, hk with
  | 0, _ | 1, _ | 2, _ | 3, _ => rfl

theorem ofNat_boolN (p : Bool) : (BitVec.ofNat 64 (boolN p) : Word) = if p then 1 else 0 := by
  cases p <;> rfl

/-- The scope of JOIN, a raw number of four bits, is zero as a word only when it is zero (R362). -/
theorem scope_nonzero : ∀ x : BitVec 4, ((BitVec.zeroExtend 64 x : Word) != 0) = (x != 0) := by decide

theorem bodyJoin_eq (c : Ctx) : bodyJoin c = .ok { c.result (BitVec.zeroExtend 64 c.f.srca) 0 (c.f.srca != 0) with
    dst := .token Ctag.order } := by
  rw [bodyJoin, BitVec.ofNat_toNat, outNz, scope_nonzero]

/-- PERF clears a counter and leaves the element's name (R130). -/
theorem perfClear_ref (e : Elem) (slot sel : Nat) : (e.perfClear slot sel).ref = e.ref := by
  unfold Elem.perfClear
  split <;> rfl

theorem perf_fires {s : State} {r : ElemRef} {n stall starve : Nat} {e : Elem} (h : elemThere s r n stall starve e)
    (f : SlotF) :
    let v : Word := BitVec.ofNat 64 (e.perf f.srca.toNat f.srcb.toNat)
    let read := Ctx.result ⟨s, e, n, f⟩ v 0 (v != 0)
    fires (.perf f) s r n stall starve e f
      (if f.lane = 1 then { read with e := e.perfClear f.srca.toNat f.srcb.toNat } else read) := by
  intro v read
  refine fireSlot_fires (body := bodyPerf) rfl h rfl ?_ ?_ ?_ ?_
  · split
    · exact perfClear_ref e _ _
    · rfl
  all_goals split <;> rfl

/-- Settles O11: each opcode fires as its body computes it, by the lemmas about a firing; PLOG by its table, PERF by its
own lemma, and TRAP as a firing that then traps. -/
theorem opsOfEveryKind : Obligations.OpsOfEveryKind := by
  refine ⟨fun s r n stall starve e f h => ?_, fun s r n stall starve e f h => ?_⟩
  · intro c a b arg p x tags goes
    have hplog : bodyPlog c = .ok (c.result (if p then 1 else 0) 0 p) := by
      simp only [bodyPlog, plogOp_lane, ofNat_boolN]
      rfl
    have fired {i : Instr} {body : Ctx → Except ETrap Fired} {y : Fired} (hi : exec i s = fireSlot s f body)
        (hb : body c = .ok y) : y.e.ref = e.ref → y.cross = [] → y.after = none → y.uncorr = false → goes i y :=
      fireSlot_fires hi h hb
    refine ⟨fired (body := bodyNop) rfl rfl rfl rfl rfl rfl, fired rfl hplog rfl rfl rfl rfl, fun ha => ⟨?_, ?_, ?_⟩,
      fun ha hb => ?_⟩
    · exact fired rfl (bodyMov_clean ha) rfl rfl rfl rfl
    · exact fired rfl (bodyEmit_clean ha) rfl rfl rfl rfl
    · exact fired rfl (bodyTagrd_clean ha) rfl rfl rfl rfl
    · exact fired rfl (bodySel_clean ha hb) rfl rfl rfl rfl
  · intro c d k count full left goes v read
    refine ⟨fireSlot_fires rfl h (bodyJoin_eq c) rfl rfl rfl rfl,
      fun ha hb => fireSlot_fires rfl h (bodyJoinc_clean ha hb) rfl rfl rfl rfl, ?_, perf_fires h f⟩
    exact fireSlot_then_traps (body := bodyTrap) rfl h rfl rfl rfl rfl rfl

end Sys2Proof.Machine
end

section
/-! SUPPORT. The rows of the blocks (spec/opcode_table.json): each answers a next state where its actor is there, and the
obligation that says so. The rows are grouped by the actor that performs them. -/

namespace Sys2Proof.Machine

open Sys2Proof Sys2Proof.Safety

/-- The outcome is a next state. -/
def answers (o : Out) : Prop := ∃ t, o = .next t

theorem answers_next (t : State) : answers (.next t) := ⟨t, rfl⟩

/-- Rows answer when the outcomes that they mean do. -/
theorem rows_answer {s : State} {rows : List Instr} (h : (rows.map fun i => exec i s).Forall answers) :
    ∀ i ∈ rows, ∃ t, exec i s = .next t :=
  fun i hi => List.forall_iff_forall_mem.mp h (exec i s) (List.mem_map_of_mem hi)

theorem row_answers {s : State} {i : Instr} (h : answers (exec i s)) : ∀ j ∈ [i], ∃ t, exec j s = .next t :=
  rows_answer (rows := [i]) h

section
variable {s : State}

/-! ### Rows that go through a lookup of their actor -/

theorem withElem_answers {r : ElemRef} {e : Elem} (h : elemAct s r e) (g : ElemRef → Elem → State) :
    answers (withElem s g) :=
  ⟨_, withElem_there h g⟩

theorem withElemN_answers {r : ElemRef} {n : Nat} {e : Elem} (h : elemActN s r n e)
    (g : ElemRef → Nat → Elem → State) : answers (withElemN s g) := by
  simp only [withElemN, h.1, h.2]
  exact answers_next _

theorem withSeq_answers {t : Nat} {q : Seq} (h : seqThere s t q) (g : Nat → Seq → State) : answers (withSeq s g) :=
  ⟨_, withSeq_there g h⟩

theorem receive_answers {m : Msg} (h : s.actor = .msg m) (i : Instr) (type : Nat) (bad : Msg → Bool)
    (serve : State → Msg → State) : answers (s.receive i type bad serve) := by
  simp only [State.receive, h]
  repeat' split
  all_goals exact answers_next _

theorem escapement_answers {r : ElemRef} {e : Elem} (h : elemAct s r e) : answers (execEscapement s) := by
  simp only [execEscapement, h.1, h.2]
  repeat' split
  all_goals exact answers_next _

theorem balanceReweight_answers {r : ElemRef} {g : Nat} {e : Elem} (h : elemActN s r g e) :
    answers (execBalanceReweight s) := by
  simp only [execBalanceReweight, h.1, h.2]
  exact answers_next _

theorem seqRows_answer {t : Nat} {q : Seq} (h : seqThere s t q) :
    [execIllegal s, execTrapEntry s, execTret s].Forall answers :=
  ⟨withSeq_answers h _, withSeq_answers h _, withSeq_answers h _⟩

theorem elemRows_answer {r : ElemRef} {e : Elem} (h : elemAct s r e) : [execEscapement s, execMicroprogramStep s,
    execMicroprogramCompletion s, execMicroprogramSuspend s, execBankClock s, execYieldClock s, execCrossReservation s,
    execCrossRequest s, execArrayStart s, execArrayComplete s, execDrainPortToken s].Forall answers := by
  have found := withElem_answers h
  exact ⟨escapement_answers h, found _, found _, found _, found _, found _, found _, found _, found _, found _,
    found _⟩

theorem elemNRows_answer {r : ElemRef} {n : Nat} {e : Elem} (h : elemActN s r n e) : [execBalanceReweight s,
    execDeferredReply s, execCrossReply s, execAddressGeneratorIssue s, execAccessIssue s, execMemoryReply s,
    execTraversalStep s, execCommandBlockCheck s].Forall answers := by
  have found := withElemN_answers h
  exact ⟨balanceReweight_answers h, found _, found _, found _, found _, found _, found _, found _⟩

/-! ### Rows with branches of their own: with the actor there, each branch ends in a next state -/

theorem idRows_answer {n : Nat} (h : s.actor = .id n) : [execMemoryEdgeAccess s, execAtomicPerform s,
    execDepDecrement s, execArborPoint s, execCommandAcceptance s, execCopyChunk s, execConversionPhase s, execDensChunk s,
    execCommandEnd s, execRemoteTimeout s, execContributionSent s, execPortDown s, execPortUp s, execDrainArrival s].Forall
    answers := by
  simp only [List.Forall, execMemoryEdgeAccess, execAtomicPerform, execDepDecrement, execArborPoint,
    execCommandAcceptance, execCopyChunk, execConversionPhase, execDensChunk, execCommandEnd, execRemoteTimeout,
    execContributionSent, execPortDown, execPortUp, execDrainArrival, h]
  and_intros
  all_goals repeat' split
  all_goals exact answers_next _

theorem dieRows_answer {d : Nat} {x : Die} (h : s.actor = .die d) (hx : s.die? d = some x) :
    [execAdmissionRequest s, execDispatch s, execConfigurationChoice s, execReductionAcceptance s,
      execInstallPlacement s, execInstallWake s, execInstallStream s, execInstallDepthGrant s, execInstallCommit s,
      execInstallAbandon s, execHardwareTrip s].Forall answers := by
  simp only [List.Forall, execAdmissionRequest, execDispatch, execConfigurationChoice,
    execReductionAcceptance, execInstallPlacement, execInstallWake, execInstallStream, execInstallDepthGrant,
    execInstallCommit, execInstallAbandon, execHardwareTrip, h, hx]
  and_intros
  all_goals repeat' split
  all_goals exact answers_next _

theorem dieNRows_answer {d n : Nat} {x : Die} (h : s.actor = .dieN d n) (hx : s.die? d = some x) :
    [execMemoryEdgeAccess s, execGdeDelivery s, execAdmissionRequest s, execVoteClose s].Forall answers := by
  simp only [List.Forall, execMemoryEdgeAccess, execGdeDelivery, execAdmissionRequest,
    execVoteClose, h, hx]
  and_intros
  all_goals repeat' split
  all_goals exact answers_next _

theorem loadRows_answer {l : LoadRef} (h : s.actor = .load l) : [execStageAdvance s, execReconfigurationTokenPass s,
    execPreemptDrainEnd s, execPreemptCommit s, execRestoreCompletion s].Forall answers := by
  simp only [List.Forall, execStageAdvance, execReconfigurationTokenPass,
    execPreemptDrainEnd, execPreemptCommit, execRestoreCompletion, h]
  and_intros
  all_goals repeat' split
  all_goals exact answers_next _

theorem loadNRows_answer {l : LoadRef} {n : Nat} (h : s.actor = .loadN l n) : [execTaskCompletion s,
    execThreadTokenWrite s, execRefillRequest s, execRefillReturn s, execEntryEmit s, execPreempt s].Forall answers := by
  simp only [List.Forall, execTaskCompletion, execThreadTokenWrite, execRefillRequest,
    execRefillReturn, execEntryEmit, execPreempt, h]
  and_intros
  all_goals repeat' split
  all_goals exact answers_next _

theorem remoteRequest_answers {q : RemReq} (h : s.actor = .req q) : answers (execRemoteRequest s) := by
  simp only [execRemoteRequest, h]
  repeat' split
  all_goals exact answers_next _

theorem remoteReply_answers {p : RemRep} (h : s.actor = .rep p) : answers (execRemoteReply s) := by
  simp only [execRemoteReply, h]
  split <;> exact answers_next _

theorem packetRows_answer {p : Packet} (h : s.actor = .packet p) :
    [execReductionPacket s, execReceivePacket s].Forall answers := by
  simp only [List.Forall, execReductionPacket, execReceivePacket, h]
  exact ⟨answers_next _, answers_next _⟩

theorem reductionPacket_flits_answers {b : Bool} {ws : List (Word × BitVec 4)} (h : s.actor = .flits b ws) :
    answers (execReductionPacket s) := by
  simp only [execReductionPacket, h]
  exact answers_next _

theorem instRows_answer {g n : Nat} (h : s.actor = .inst g n) :
    [execDeadlineExpiry s, execCloseDeadlineExpiry s].Forall answers := by
  simp only [List.Forall, execDeadlineExpiry, execCloseDeadlineExpiry, h]
  and_intros
  all_goals repeat' split
  all_goals exact answers_next _

theorem hostWr_answers {m : Msg} (h : s.actor = .msg m) : answers (execHostWr s) := by
  simp only [execHostWr, h]
  exact receive_answers h _ _ _ _

theorem msgRows_answer {m : Msg} (h : s.actor = .msg m) : [execHostRd s, execHostWr s, execHostCas s,
    execHostTken s, execAttest s].Forall answers := by
  have received := receive_answers h
  exact ⟨received _ _ _ _, hostWr_answers h, received _ _ _ _, received _ _ _ _, received _ _ _ _⟩

theorem hostWr_done_answers {m : Master} {n : Nat} (h : s.actor = .done m n) : answers (execHostWr s) := by
  simp only [execHostWr, h]
  exact answers_next _

theorem ownerRows_answer {b : Bool} (h : s.actor = .owner b) : [execPgreqRead s, execSelogRead s].Forall answers := by
  simp only [List.Forall, execPgreqRead, execSelogRead, h]
  exact ⟨answers_next _, answers_next _⟩

theorem regRows_answer {t n : Nat} {v : Word} (h : s.actor = .reg t n v) : [execRegisterWrite s, execPgdone s,
    execSyestatClear s, execBootva s].Forall answers := by
  simp only [List.Forall, execRegisterWrite, execPgdone, execSyestatClear, execBootva, h]
  exact ⟨answers_next _, answers_next _, answers_next _, answers_next _⟩

theorem quarantine_answers {t n : Nat} {v : Word} {q : Seq} (h : s.actor = .reg t n v) (hq : s.seq? t = some q) :
    answers (execQuarantine s) := by
  simp only [execQuarantine, h, hq]
  exact answers_next _

theorem groupTableWrite_answers {g : Nat} {ws : List Word} (h : s.actor = .table g ws) :
    answers (execGroupTableWrite s) := by
  simp only [execGroupTableWrite, h]
  exact answers_next _

theorem pageRequestPost_answers (s : State) : answers (execPageRequestPost s) := by
  rw [execPageRequestPost]
  split <;> exact answers_next _

theorem packageRows_answer (s : State) : [execWeightRefreshWindow s, execPageRequestPost s, execReset s,
    execPowerStateEntry s, execWake s, execOwnerLoss s, execBoardPowerUp s].Forall answers :=
  ⟨answers_next _, pageRequestPost_answers s, answers_next _, answers_next _, answers_next _, answers_next _,
    answers_next _⟩

end

/-- Settles O50, actor by actor. -/
theorem blocksAnswer : Obligations.BlocksAnswer := by
  intro s answer
  refine ⟨fun r e h he => rows_answer (elemRows_answer ⟨h, he⟩), fun r n e h he => rows_answer (elemNRows_answer ⟨h, he⟩),
    fun n h => rows_answer (idRows_answer h), fun d x h hx => rows_answer (dieRows_answer h hx),
    fun d n x h hx => rows_answer (dieNRows_answer h hx), fun l h => rows_answer (loadRows_answer h),
    fun l n h => rows_answer (loadNRows_answer h), fun q h => row_answers (remoteRequest_answers h),
    fun p h => row_answers (remoteReply_answers h), fun p h => rows_answer (packetRows_answer h),
    fun b ws h => row_answers (reductionPacket_flits_answers h), fun g n h => rows_answer (instRows_answer h),
    fun m h => rows_answer (msgRows_answer h), fun m n h => row_answers (hostWr_done_answers h),
    fun b h => rows_answer (ownerRows_answer h), fun t n v h => rows_answer (regRows_answer h),
    fun t n v q h hq => row_answers (quarantine_answers h hq), fun g ws h => row_answers (groupTableWrite_answers h),
    fun t q h hq => rows_answer (seqRows_answer ⟨h, hq⟩), rows_answer (packageRows_answer s)⟩

end Sys2Proof.Machine
end

section
/-! SUPPORT. The escapement of an element that meets a FAULT head (R110, R117, R121), and the obligation about the clocks of
elements, which fails there: the trap stops the count of the clock, and the obligation has the rest of the element stay. -/

namespace Sys2Proof.Machine

open Sys2Proof Sys2Proof.Safety

/-! ### A trap of an element (R429) -/

/-- An element without a trap holds it, and CLK does not count the clock (R121). -/
theorem trapElem_there {s : State} {r : ElemRef} {e : Elem} (he : s.elem? r = some e) (hn : e.trap = none) (t : ETrap) :
    (s.trapElem r t).elem? r = some { e with trap := some t, ticking := false } := by
  have hthere := (modElem_there he (f := fun x => { x with trap := some t, ticking := false }) fun _ hr => hr).1
  rw [State.trapElem, he]
  dsimp only
  rw [hn, Option.isSome_none, if_neg Bool.false_ne_true]
  exact hthere

/-! ### ESCAPEMENT at a FAULT head (R88, R117) -/

/-- Where no input holds broken parts, none are dropped and no free value is taken (R88). -/
theorem breakParts_whole {e : Elem} (h : ∀ k, k < 4 → e.partBreak k = false) (s : State) :
    s.breakParts e = (e, s.freeCount) := by
  simp [State.breakParts, foldlRange, h 0, h 1, h 2, h 3]

theorem occupy_partBreak (e : Elem) (k : Nat) : e.occupy.partBreak k = e.partBreak k := by
  unfold Elem.partBreak
  rfl

theorem not_halted_trap {e : Elem} (h : e.halted = false) : e.trap = none := by
  simp only [Elem.halted, Bool.or_eq_false_iff, Option.isSome_eq_false_iff, Option.isNone_iff_eq_none] at h
  exact h.1

theorem escapement_faultTrap {s : State} {r : ElemRef} {e : Elem} {t : ETrap} (h : elemAct s r e)
    (hrun : e.halted = false) (hwhole : ∀ k, k < 4 → e.partBreak k = false) (ht : e.occupy.faultTrap = some t) :
    ∃ s', exec .escapement s = .next s' ∧ s'.elem? r = some { e.occupy with trap := some t, ticking := false } := by
  have href : e.ref = r := elem_ref h.2
  have hthere := (modElem_there h.2 (f := fun _ => e.occupy) fun _ _ => href).1
  have hexec : exec .escapement s = .next ((s.modElem r fun _ => e.occupy).trapElem r t) := by
    have hparts : s.breakParts e.occupy = (e.occupy, s.freeCount) :=
      breakParts_whole (fun k hk => (occupy_partBreak e k).trans (hwhole k hk)) s
    change execEscapement s = _
    simp only [execEscapement, h.1, h.2, hrun, Bool.false_eq_true, if_false, hparts, ht]
    rw [← h.1]
  exact ⟨_, hexec, trapElem_there hthere (not_halted_trap hrun) t⟩

/-! ### The state that refutes the obligation -/

/-- A compute element without an enabled slot, with a FAULT token at the head of input 0, and marked as one whose CLK the
clock in progress counts. -/
def faultHead : Elem :=
  { Elem.blank ⟨0, 0, 0, 17⟩ 0 17 with ins := [[faultTok Cause.page 0], [], [], []], stopped := false, ticking := true }

/-- The machine after reset, with that element in its clock. -/
def atFaultHead : State := { State.reset with actor := .elem faultHead.ref, elems := [faultHead] }

/-- The trap that the head gives (R430). -/
def faultHeadTrap : ETrap := ⟨Cause.faultUnconsumed, eDetail 17 0 (Cause.page * 2 ^ 32), none⟩

theorem faultHead_act : elemAct atFaultHead faultHead.ref faultHead := ⟨rfl, rfl⟩

theorem faultHead_whole : ∀ k, k < 4 → faultHead.partBreak k = false := by decide

theorem faultHead_trap : faultHead.occupy.faultTrap = some faultHeadTrap := by decide +kernel

/-- Refutes O33: its clause about a FAULT head has every field of the element stay but the trap, from any state. The trap
also clears the mark by which CLK counts the clock (R121), so an element that already has this mark does not keep it. -/
theorem not_elementClocks : ¬ Obligations.ElementClocks := by
  rintro ⟨hclock, -⟩
  obtain ⟨-, -, -, hruns⟩ := hclock atFaultHead faultHead.ref faultHead faultHead_act
  obtain ⟨s1, hexec1, hclaimed⟩ := (hruns rfl faultHead_whole).1 faultHeadTrap faultHead_trap
  obtain ⟨s2, hexec2, hmodel⟩ := escapement_faultTrap faultHead_act rfl faultHead_whole faultHead_trap
  have hsame : s1 = s2 := Host.Outcome.next.inj (hexec1.symm.trans hexec2)
  have hticking := congrArg (Option.map Elem.ticking) (hclaimed.symm.trans (hsame ▸ hmodel))
  exact absurd hticking (by decide)

end Sys2Proof.Machine
end

section
/-! SUPPORT. Fibre registers, coordinate pairs and bitmap words of a compute element (R155, R163, R165 to R167): what the
body of each computes, and the obligation about them. -/

namespace Sys2Proof.Machine

open Sys2Proof Sys2Proof.Safety

/-! ### The halves of a COORD payload (R90) -/

theorem coordOf_eq_div (x : Word) : coordOf x = x.toNat / 2 ^ 32 :=
  Nat.mod_eq_of_lt (Nat.div_lt_of_lt_mul x.isLt)

theorem valueOf_eq_mod (x : Word) : valueOf x = x.toNat % 2 ^ 32 := by
  rw [valueOf, fld, fldN, pow_zero, Nat.div_one]

theorem coordW_valueOf_left (x : Word) (v : Nat) : coordW (valueOf x) v = coordW x.toNat v := by
  rw [coordW, coordW, valueOf_eq_mod, Nat.mod_mod]

theorem coordW_valueOf_right (c : Nat) (x : Word) : coordW c (valueOf x) = coordW c x.toNat := by
  rw [coordW, coordW, valueOf_eq_mod, Nat.mod_mod]

/-! ### A token that leaves as an END (R155) -/

/-- The control tag of an END. -/
def endTag (ct : BitVec 3) : Prop := 1 ≤ ct.toNat ∧ ct.toNat ≤ 4

theorem endTag.not_data {ct : BitVec 3} (h : endTag ct) : ct ≠ Ctag.data := by
  rintro rfl
  exact absurd h.1 (by decide)

theorem endTag.not_fault {ct : BitVec 3} (h : endTag ct) : ct ≠ Ctag.fault := by
  rintro rfl
  exact absurd h.2 (by decide)

/-- A body whose answer goes through the rule about ENDs fires as that rule leaves it. -/
theorem endWord_fires {s : State} {r : ElemRef} {n stall starve : Nat} {e : Elem} {f : SlotF}
    {body : Ctx → Except ETrap Fired} {x : Fired} {i : Instr} (hi : exec i s = fireSlot s f body)
    (h : elemThere s r n stall starve e) (hb : body ⟨s, e, n, f⟩ = .ok (Ctx.endWord ⟨s, e, n, f⟩ x))
    (hx : x.e.ref = e.ref) (hcross : x.cross = []) (hafter : x.after = none) (huncorr : x.uncorr = false) :
    fires i s r n stall starve e f (Ctx.endWord ⟨s, e, n, f⟩ x) := by
  refine fireSlot_fires hi h hb ?_ ?_ ?_ ?_
  all_goals
    rw [Ctx.endWord]
    split <;> assumption

/-- A firing without a result loses nothing by leaving as an END. -/
theorem endWord_zero (c : Ctx) (outcome : Bool) : c.endWord (c.result 0 0 outcome) = c.result 0 0 outcome := by
  rw [Ctx.endWord]
  split <;> rfl

/-! ### Fibre registers (R163, R165) -/

theorem close_end (x : Fib) {ct : BitVec 3} (h : endTag ct) : x.close (ct.toNat - 1) =
    if ct = 1 then { x with fib0 := inc32 x.fib0, pos := 0, bit := 0 }
    else if ct = 2 then { x with fib0 := 0, fib1 := inc32 x.fib1, pos := 0, bit := 0 }
    else if ct = 3 then { x with fib0 := 0, fib1 := 0, fib2 := inc32 x.fib2, pos := 0, bit := 0 }
    else { x with fib0 := 0, fib1 := 0, fib2 := 0, fib3 := inc32 x.fib3, pos := 0, bit := 0 } := by
  obtain ⟨⟨k, hk⟩⟩ := ct
  match k, hk, h with
  | 1, _, _ | 2, _, _ | 3, _, _ | 4, _, _ => rfl

section
variable {c : Ctx} (h : clean c.e c.f.srca)
include h

theorem bodyFadv_fault (hct : (c.e.source c.f.srca.toNat).ctag = Ctag.fault) :
    let a := c.e.source c.f.srca.toNat
    bodyFadv c = .ok { c.result a.val a.tag false with res := some a.res } := by
  rw [bodyFadv, read1_clean h]
  simp only [bind, Except.bind, hct, beq_self_eq_true, Bool.not_true, Bool.false_and, if_true]
  rfl

theorem bodyFadv_counts (hct : (c.e.source c.f.srca.toNat).ctag ≠ Ctag.fault) :
    let a := c.e.source c.f.srca.toNat
    let k := c.f.srcb.toNat
    let x := c.e.fibre k
    bodyFadv c = .ok { c.result a.val a.tag (a.val != 0) with
      res := some a.res, e := c.e.setFibre k { x with pos := inc32 x.pos } } := by
  rw [bodyFadv, read1_clean h]
  simp only [bind, Except.bind, beq_eq_false_iff_ne.mpr hct, Bool.not_false, Bool.true_and, Bool.false_eq_true, if_false]
  rfl

theorem bodyFclose_fault (hct : (c.e.source c.f.srca.toNat).ctag = Ctag.fault) :
    bodyFclose c = .ok (c.result 0 0 false) := by
  rw [bodyFclose, read1_clean h]
  exact if_pos hct

theorem bodyFclose_closes (hct : (c.e.source c.f.srca.toNat).ctag ≠ Ctag.fault) {y : Fib}
    (hy : (c.e.fibre c.f.srcb.toNat).close ((c.e.source c.f.srca.toNat).ctag.toNat - 1) = y) :
    let j := (c.e.source c.f.srca.toNat).ctag.toNat - 1
    let k := c.f.srcb.toNat
    let count : Word := BitVec.ofNat 64 ((c.e.fibre k).pos + j * 2 ^ 32)
    bodyFclose c = .ok (c.endWord { c.result count 0 (count != 0) with e := c.e.setFibre k y }) := by
  rw [bodyFclose, read1_clean h, ← hy]
  exact if_neg hct

theorem bodyFend_eq :
    let ct := (c.e.source c.f.srca.toNat).ctag.toNat
    let hit := decide (1 ≤ ct ∧ ct ≤ 4 ∧ c.f.lane.toNat ≤ ct - 1)
    bodyFend c = .ok (c.endWord (c.result
      (if hit then BitVec.ofNat 64 ((c.e.fibre c.f.srcb.toNat).pos + (ct - 1 + 1) * 2 ^ 32) else 0) 0 hit)) := by
  rw [bodyFend, read1_clean h]
  rfl

theorem bodyFend_hit {ct : Nat} (hct : (c.e.source c.f.srca.toNat).ctag.toNat = ct) (hend : 1 ≤ ct ∧ ct ≤ 4)
    (hrank : c.f.lane.toNat ≤ ct - 1) : bodyFend c = .ok (c.endWord (c.result
      (BitVec.ofNat 64 ((c.e.fibre c.f.srcb.toNat).pos + ct * 2 ^ 32)) 0 true)) := by
  rw [bodyFend_eq h, hct, decide_eq_true ⟨hend.1, hend.2, hrank⟩, Nat.sub_add_cancel hend.1]
  rfl

theorem bodyFend_miss {ct : Nat} (hct : (c.e.source c.f.srca.toNat).ctag.toNat = ct)
    (hmiss : ¬((1 ≤ ct ∧ ct ≤ 4) ∧ c.f.lane.toNat ≤ ct - 1)) : bodyFend c = .ok (c.result 0 0 false) := by
  rw [bodyFend_eq h, hct, decide_eq_false fun hhit => hmiss ⟨⟨hhit.1, hhit.2.1⟩, hhit.2.2⟩]
  exact congrArg _ (endWord_zero c false)

end

/-- SRCA selects F.POS at 0 and FIB(SRCA - 1) above (R165). -/
theorem bodyFpos_eq (c : Ctx) :
    let x := c.e.fibre c.f.srcb.toNat
    let k := c.f.srca.toNat
    let count : Word := BitVec.ofNat 64 (if k = 0 then x.pos else x.level (k - 1))
    bodyFpos c = .ok (c.result count 0 (count != 0)) := rfl

/-! ### Coordinate pairs (R166) -/

section
variable {c : Ctx}

theorem bodyCsplitC_good (h : good c.e c.f.srca .coord) :
    let r : Word := BitVec.ofNat 64 ((c.e.source c.f.srca.toNat).val.toNat / 2 ^ 32)
    bodyCsplitC c = .ok (c.endWord (c.result r 0 (r != 0))) := by
  rw [bodyCsplitC, Ctx.readCoord, read1_good h, ← coordOf_eq_div]
  rfl

theorem bodyCsplitV_good (h : good c.e c.f.srca .coord) :
    let r : Word := BitVec.ofNat 64 ((c.e.source c.f.srca.toNat).val.toNat % 2 ^ 32)
    bodyCsplitV c = .ok (c.endWord (c.result r c.f.srcb (r != 0))) := by
  rw [bodyCsplitV, Ctx.readCoord, read1_good h, ← valueOf_eq_mod]
  rfl

theorem bodyCpair_good (ha : good c.e c.f.srca .int) (hb : good c.e c.f.srcb .int) :
    let a := (c.e.source c.f.srca.toNat).val.toNat
    let r := coordW (if c.f.lane = 1 then a / 2 ^ 32 else a) (c.e.source c.f.srcb.toNat).val.toNat
    bodyCpair c = .ok (c.endWord (c.result r 14 (r != 0))) := by
  have hhalf (x : Word) (v : Nat) : coordW (if c.f.lane = 1 then coordOf x else valueOf x) v =
      coordW (if c.f.lane = 1 then x.toNat / 2 ^ 32 else x.toNat) v := by
    split
    · rw [coordOf_eq_div]
    · rw [coordW_valueOf_left]
  rw [bodyCpair, read2_good ha hb]
  simp only [bind, Except.bind, coordW_valueOf_right, hhalf]
  rfl

end

/-! ### Bitmap words (R167) -/

theorem pow_ctzN_le (n : Nat) {m : Nat} (hm : m ≠ 0) : 2 ^ ctzN n m ≤ m := by
  induction n generalizing m with
  | zero => exact Nat.one_le_iff_ne_zero.mpr hm
  | succ n ih =>
    rw [ctzN]
    split
    · exact Nat.one_le_iff_ne_zero.mpr hm
    · have hhalf := ih (m := m / 2) (by omega)
      rw [pow_add]
      omega

/-- The fibre register past a word of the bitmap. -/
def Fib.pastWord (x : Fib) : Fib := { x with pos := inc32 x.pos, bit := 0 }

section
variable (c : Ctx) (k w : Nat) (v : Nat → Nat) (ks : List Nat)

theorem bmStep_empty (h : bmRest (c.e.fibre k) w = 0) : bmStep c k w v ks =
    { c.silent false with e := c.e.setFibre k (c.e.fibre k).pastWord, deq := ks } := if_pos h

variable {k w} (h : bmRest (c.e.fibre k) w ≠ 0)
include h

theorem bmStep_more (hmore : bmRest (c.e.fibre k) w ≠ 2 ^ ctzN 64 (bmRest (c.e.fibre k) w)) :
    let x := c.e.fibre k
    let p := ctzN 64 (bmRest x w)
    bmStep c k w v ks = { c.result (coordW (64 * x.pos + p) (v p)) 14 true with
      e := c.e.setFibre k { x with bit := p + 1 }, deq := [] } := by
  have hle := pow_ctzN_le 64 h
  have hleft : bmRest (c.e.fibre k) w - 2 ^ ctzN 64 (bmRest (c.e.fibre k) w) ≠ 0 := by omega
  rw [bmStep]
  simp only [if_neg h, decide_eq_false hleft]
  rfl

theorem bmStep_last (hlast : bmRest (c.e.fibre k) w = 2 ^ ctzN 64 (bmRest (c.e.fibre k) w)) :
    let x := c.e.fibre k
    let p := ctzN 64 (bmRest x w)
    bmStep c k w v ks = { c.result (coordW (64 * x.pos + p) (v p)) 14 true with
      e := c.e.setFibre k x.pastWord, deq := ks } := by
  have hleft : bmRest (c.e.fibre k) w - 2 ^ ctzN 64 (bmRest (c.e.fibre k) w) = 0 := by omega
  rw [bmStep]
  simp only [if_neg h, decide_eq_true hleft]
  rfl

end

section
variable {c : Ctx}

theorem bodyBmexp_good (h : good c.e c.f.srca .int) :
    let w := (c.e.source c.f.srca.toNat).val.toNat
    bodyBmexp c = .ok (bmStep c c.f.srcb.toNat w (fun p => popN p w) [c.f.srca.toNat]) := by
  rw [bodyBmexp, read1_good h]
  rfl

theorem bodyBmand_good (ha : good c.e c.f.srca .int) (hb : good c.e c.f.srcb .int) :
    let w := ((c.e.source c.f.srca.toNat).val &&& (c.e.source c.f.srcb.toNat).val).toNat
    bodyBmand c = .ok (bmStep c c.f.lane.toNat w (fun p => p) [c.f.srca.toNat, c.f.srcb.toNat]) := by
  rw [bodyBmand, read2_good ha hb]
  rfl

end

/-! ### The obligation -/

/-- Settles O23: each firing by the equation of its body; a step over a bitmap word by the three cases of `bmStep`. -/
theorem fibresAndCoordinates : Obligations.FibresAndCoordinates := by
  refine ⟨fun s r n stall starve e f h => ?_, fun s r n stall starve e f h => ?_⟩
  · intro c goes a k x inc closed num isEnd bare
    have fired {i : Instr} {body : Ctx → Except ETrap Fired} {y : Fired} (hi : exec i s = fireSlot s f body)
        (hb : body c = .ok y) : y.e.ref = e.ref → y.cross = [] → y.after = none → y.uncorr = false → goes i y :=
      fireSlot_fires hi h hb
    refine ⟨?_, fun _ => ?_, fun ha => ⟨fun hct => ?_, fun hct => ⟨?_, ?_⟩, fun hend => ?_, fun hend hrank => ?_,
      fun hmiss => ?_⟩⟩
    · exact fired (body := bodyFopen) rfl rfl rfl rfl rfl rfl
    · refine fired rfl ((bodyFpos_eq c).trans ?_) rfl rfl rfl rfl
      dsimp only [c, num, x, k]
      match f.srca.toNat with
      | 0 | 1 | 2 | 3 | _ + 4 => rfl
    · exact fired rfl (bodyFadv_counts ha hct) rfl rfl rfl rfl
    · exact fired rfl (bodyFadv_fault ha hct) rfl rfl rfl rfl
    · exact fired rfl (bodyFclose_fault ha hct) rfl rfl rfl rfl
    · have hct : a.ctag ≠ Ctag.fault := endTag.not_fault hend
      exact endWord_fires rfl h (bodyFclose_closes ha hct (close_end x hend)) rfl rfl rfl rfl
    · exact endWord_fires rfl h (bodyFend_hit ha rfl hend hrank) rfl rfl rfl rfl
    · exact fired rfl (bodyFend_miss ha rfl hmiss) rfl rfl rfl rfl
  · intro c goes a b pair ct bare walks
    have walked {i : Instr} (body : Ctx → Except ETrap Fired) (k w : Nat) (v : Nat → Nat) (ks : List Nat)
        (hi : exec i s = fireSlot s f body) (hb : body c = .ok (bmStep c k w v ks)) : walks i k w v ks := by
      refine ⟨fun h0 => ?_, fun h0 hmore => ?_, fun h0 hlast => ?_⟩
      · exact fireSlot_fires hi h (hb.trans (congrArg _ (bmStep_empty c k w v ks h0))) rfl rfl rfl rfl
      · exact fireSlot_fires hi h (hb.trans (congrArg _ (bmStep_more c v ks h0 hmore))) rfl rfl rfl rfl
      · exact fireSlot_fires hi h (hb.trans (congrArg _ (bmStep_last c v ks h0 hlast))) rfl rfl rfl rfl
    refine ⟨fun ha => ⟨?_, ?_⟩, fun ha => ⟨?_, fun hb => ⟨?_, ?_⟩⟩⟩
    · exact endWord_fires rfl h (bodyCsplitC_good ha) rfl rfl rfl rfl
    · exact endWord_fires rfl h (bodyCsplitV_good ha) rfl rfl rfl rfl
    · exact walked bodyBmexp f.srcb.toNat a.toNat (fun p => popN p a.toNat) [f.srca.toNat] rfl (bodyBmexp_good ha)
    · exact endWord_fires rfl h (bodyCpair_good ha hb) rfl rfl rfl rfl
    · exact walked bodyBmand f.lane.toNat (a &&& b).toNat (fun p => p) [f.srca.toNat, f.srcb.toNat] rfl
        (bodyBmand_good ha hb)

end Sys2Proof.Machine
end

section
/-! SUPPORT. Merging two streams of coordinates and keeping the k best entries (R168 to R170): what CMERGE makes of each
pair of heads, what TOPK does with an entry and TOPKRD with the list, and the obligation about them. -/

namespace Sys2Proof.Machine

open Sys2Proof Sys2Proof.Safety

/-! ### The two heads of CMERGE (R164, R168) -/

theorem mergeCls_data {a : Src} (h : a.ctag = Ctag.data) : mergeCls a = .coord := if_pos h

theorem mergeCls_end {a : Src} (h : endTag a.ctag) : mergeCls a = .int := if_neg h.not_data

/-- The two heads a and b of a merge are read without a trap, each as the class that its control tag asks for. -/
def mergeReads (c : Ctx) (a b : Src) : Prop :=
  c.read2 c.f.srca.toNat (mergeCls (c.e.source c.f.srca.toNat)) c.f.srcb.toNat (mergeCls (c.e.source c.f.srcb.toNat)) =
    .ok (a, b)

theorem mergeReads_good {c : Ctx} {k l : Cls} (hk : mergeCls (c.e.source c.f.srca.toNat) = k)
    (hl : mergeCls (c.e.source c.f.srcb.toNat) = l) (ha : good c.e c.f.srca k) (hb : good c.e c.f.srcb l) :
    mergeReads c (c.e.source c.f.srca.toNat) (c.e.source c.f.srcb.toNat) := by
  subst hk hl
  exact read2_good ha hb

/-- The pair of the coordinate of x and the low half of a number. -/
theorem coordW_coordOf (x : Word) (v : Nat) :
    coordW (coordOf x) v = BitVec.ofNat 64 (coordOf x * 2 ^ 32 + v % 2 ^ 32) := by
  rw [coordW, coordOf, fld, fldN, Nat.mod_mod]

/-- A merge that passes an END on. -/
def Ctx.passEnd (c : Ctx) (ct : BitVec 3) (ks : List Nat) : Fired :=
  { c.result 0 0 false with dst := .token ct, deq := ks }

/-- The control tag of an END is that of its rank (R155). -/
theorem emitEnd_rank (c : Ctx) {ct : BitVec 3} (h : endTag ct) (ks : List Nat) :
    c.emitEnd (ct.toNat - 1) ks = c.passEnd ct ks := by
  rw [Ctx.emitEnd, Nat.sub_add_cancel h.1, BitVec.ofNat_toNat, BitVec.setWidth_eq, Ctx.passEnd]

section
variable {c : Ctx} {a b : Src} (hread : mergeReads c a b)
include hread

section
variable (ha : a.ctag = Ctag.data) (hb : b.ctag = Ctag.data)
include ha hb

theorem mergeHeads_lesser_first (hlt : coordOf a.val < coordOf b.val) :
    mergeHeads c = .ok (c.passHead a [c.f.srca.toNat]) := by
  rw [mergeHeads, hread]
  simp only [bind, Except.bind, ha, hb, and_self, if_true, if_pos hlt]
  rfl

theorem mergeHeads_lesser_second (hlt : coordOf b.val < coordOf a.val) :
    mergeHeads c = .ok (c.passHead b [c.f.srcb.toNat]) := by
  rw [mergeHeads, hread]
  simp only [bind, Except.bind, ha, hb, and_self, if_true, if_neg (Nat.lt_asymm hlt), if_pos hlt]
  rfl

/-- Heads of one coordinate, for each form (R168). -/
theorem mergeHeads_equal (heq : coordOf a.val = coordOf b.val) :
    let both := [c.f.srca.toNat, c.f.srcb.toNat]
    let pair (v : Nat) : Fired := { c.result (coordW (coordOf a.val) v) 14 true with deq := both }
    let sum := FVal.add c.e.rmode (fF32.dec (valueOf a.val)) (fF32.dec (valueOf b.val))
    (c.f.lane = 0 → mergeHeads c = .ok (c.passHead a [c.f.srca.toNat])) ∧
    (c.f.lane = 1 → mergeHeads c = .ok (pair (valueOf a.val + valueOf b.val))) ∧
    (c.f.lane = 2 → mergeHeads c = .ok (pair (c.e.round fF32 0 sum))) ∧
    (c.f.lane = 3 → mergeHeads c = .ok (c.passHead a both)) := by
  rw [mergeHeads, hread]
  simp only [bind, Except.bind, ha, hb, and_self, if_true, heq, Nat.lt_irrefl, if_false]
  refine ⟨?_, ?_, ?_, ?_⟩
  all_goals
    intro hl
    rw [hl]
    rfl

end

theorem mergeHeads_data_end (ha : a.ctag = Ctag.data) (hb : b.ctag ≠ Ctag.data) :
    mergeHeads c = .ok (c.passHead a [c.f.srca.toNat]) := by
  rw [mergeHeads, hread]
  simp only [bind, Except.bind, ha, hb, and_false, if_false, if_true]
  rfl

theorem mergeHeads_end_data (ha : a.ctag ≠ Ctag.data) (hb : b.ctag = Ctag.data) :
    mergeHeads c = .ok (c.passHead b [c.f.srcb.toNat]) := by
  rw [mergeHeads, hread]
  simp only [bind, Except.bind, ha, hb, false_and, if_false, if_true]
  rfl

theorem mergeHeads_ends (ha : endTag a.ctag) (hb : endTag b.ctag) : mergeHeads c = .ok (
    if a.ctag.toNat < b.ctag.toNat then c.passEnd a.ctag [c.f.srca.toNat]
    else if b.ctag.toNat < a.ctag.toNat then c.passEnd b.ctag [c.f.srcb.toNat]
    else c.passEnd a.ctag [c.f.srca.toNat, c.f.srcb.toNat]) := by
  rw [mergeHeads, hread]
  simp only [bind, Except.bind, ha.not_data, hb.not_data, false_and, if_false, Nat.sub_lt_sub_iff_right ha.1,
    Nat.sub_lt_sub_iff_right hb.1, emitEnd_rank c ha, emitEnd_rank c hb]
  split_ifs <;> rfl

end

/-- CMERGE fires as it merges its heads, and counts as one that rounds in the form addf under SR (R96; log 23). -/
theorem cmerge_fires {s : State} {r : ElemRef} {n stall starve : Nat} {e : Elem} {f : SlotF} {x : Fired}
    (h : elemThere s r n stall starve e) (hm : mergeHeads ⟨s, e, n, f⟩ = .ok x) (hx : x.e.ref = e.ref)
    (hcross : x.cross = []) (hafter : x.after = none) (huncorr : x.uncorr = false) :
    fires (.cmerge f) s r n stall starve e f { x with rounds := f.lane == 2 && e.rmode == .sr } := by
  have hbody : bodyCmerge ⟨s, e, n, f⟩ = .ok { x with rounds := f.lane == 2 && e.rmode == .sr } := by
    rw [bodyCmerge, hm]
    rfl
  exact fireSlot_fires rfl h hbody hx hcross hafter huncorr

/-! ### TOPK (R169) -/

theorem topStep_room (kt : Nat) {k : Nat} (a : Word) {l : List Word} (hroom : l.length < k) :
    topStep kt k a l = (topInsert kt a l, true) := by
  rw [topStep, List.take_of_length_le (Nat.le_of_lt hroom), if_pos hroom]

section
variable {kt k : Nat} {a z : Word} {l : List Word} (hfull : k ≤ l.length) (hz : (l.take k).getLast? = some z)
include hfull hz

theorem topStep_full : topStep kt k a l =
    if ranksBefore kt a z then (topInsert kt a (l.take k).dropLast, true) else (l.take k, false) := by
  have hlen : ¬(l.take k).length < k := by
    rw [List.length_take, Nat.min_eq_left hfull]
    exact Nat.lt_irrefl k
  simp only [topStep, if_neg hlen, hz]

theorem topStep_enters (hrank : ranksBefore kt a z = true) :
    topStep kt k a l = (topInsert kt a (l.take k).dropLast, true) :=
  (topStep_full hfull hz).trans (if_pos hrank)

theorem topStep_stays (hrank : ranksBefore kt a z = false) : topStep kt k a l = (l.take k, false) :=
  (topStep_full hfull hz).trans (if_neg (ne_true_of_eq_false hrank))

end

/-- An element whose top-k list and key type are as given. -/
def Elem.setTop (e : Elem) (l : List Word) (t : Option Nat) : Elem :=
  { e with ce := { e.ce with topk := l, topType := t } }

section
variable {c : Ctx} (h : good c.e c.f.srca .coord)
include h

theorem bodyTopk_otherKey (hl : c.e.ce.topk ≠ []) (ht : c.e.ce.topType ≠ some c.f.lane.toNat) :
    bodyTopk c = .error (c.trap Cause.fmtMismatch 0) := by
  rw [bodyTopk, Ctx.readCoord, read1_good h]
  exact if_pos ⟨hl, ht⟩

variable (hkey : c.e.ce.topk = [] ∨ c.e.ce.topType = some c.f.lane.toNat)
include hkey

omit h in
theorem topk_sameKey : ¬(c.e.ce.topk ≠ [] ∧ c.e.ce.topType ≠ some c.f.lane.toNat) :=
  fun ⟨hl, ht⟩ => hkey.elim hl ht

theorem bodyTopk_nan (hk : c.f.lane.toNat = 2)
    (hn : (fF32.dec (valueOf (c.e.source c.f.srca.toNat).val)).isNaN = true) : bodyTopk c = .ok (c.silent false) := by
  rw [bodyTopk, Ctx.readCoord, read1_good h]
  exact (if_neg (topk_sameKey hkey)).trans (if_pos ⟨hk, hn⟩)

theorem bodyTopk_step (hn : c.f.lane.toNat = 2 →
      (fF32.dec (valueOf (c.e.source c.f.srca.toNat).val)).isNaN = false) {l : List Word} {o : Bool}
    (hstep : topStep c.f.lane.toNat (c.f.srcb.toNat + 1) (c.e.source c.f.srca.toNat).val c.e.ce.topk = (l, o)) :
    bodyTopk c = .ok { c.silent o with e := c.e.setTop l (some c.f.lane.toNat) } := by
  have hnum : ¬(c.f.lane.toNat = 2 ∧ (fF32.dec (valueOf (c.e.source c.f.srca.toNat).val)).isNaN = true) :=
    fun ⟨hk, hnan⟩ => ne_true_of_eq_false (hn hk) hnan
  rw [bodyTopk, Ctx.readCoord, read1_good h]
  simp only [bind, Except.bind, if_neg (topk_sameKey hkey), if_neg hnum, hstep]
  rfl

end

/-! ### TOPKRD (R170) -/

section
variable {c : Ctx}

theorem bodyTopkrd_empty (hl : c.e.ce.topk = []) :
    bodyTopkrd c = .ok { c.result 0 0 false with dst := .token 1, e := c.e.setTop [] none } := by
  rw [bodyTopkrd, Elem.setTop]
  simp only [hl]

theorem bodyTopkrd_last {x : Word} (hl : c.e.ce.topk = [x]) :
    bodyTopkrd c = .ok { c.result x 14 true with e := c.e.setTop [] none } := by
  rw [bodyTopkrd]
  simp only [hl, if_true]
  rfl

theorem bodyTopkrd_more {x y : Word} {ys : List Word} (hl : c.e.ce.topk = x :: y :: ys) :
    bodyTopkrd c = .ok { c.result x 14 true with e := c.e.setTop (y :: ys) c.e.ce.topType } := by
  rw [bodyTopkrd]
  simp only [hl, if_neg (List.cons_ne_nil y ys)]
  rfl

end

/-! ### The obligation -/

/-- Settles O24: CMERGE by what it makes of each pair of heads, TOPK by the three cases of `topStep`, TOPKRD by the length
of the list. -/
theorem mergingAndTopK : Obligations.MergingAndTopK := by
  refine ⟨fun s r n stall starve e f h => ?_, fun s r n stall starve e f h => ?_⟩
  · intro c ia ib a b goes pass ends pair isEnd
    have merged {x : Fired} (hm : mergeHeads c = .ok x) :
        x.e.ref = e.ref → x.cross = [] → x.after = none → x.uncorr = false → goes x := cmerge_fires h hm
    refine ⟨fun ha hb hga hgb => ?_, fun ha hb hga hgb => ?_, fun ha hb hga hgb => ?_, fun ha hb hga hgb => ?_⟩
    · have hread : mergeReads c a b := mergeReads_good (mergeCls_data ha) (mergeCls_data hb) hga hgb
      have paired (v : Nat) : pair v = { c.result (coordW (coordOf a.val) v) 14 true with deq := [ia, ib] } := by
        rw [coordW_coordOf]
      refine ⟨fun hlt => ?_, fun hlt => ?_, fun heq => ?_⟩
      · exact merged (mergeHeads_lesser_first hread ha hb hlt) rfl rfl rfl rfl
      · exact merged (mergeHeads_lesser_second hread ha hb hlt) rfl rfl rfl rfl
      · obtain ⟨hkeep, haddi, haddf, hfirst⟩ := mergeHeads_equal hread ha hb heq
        refine ⟨fun hl => ?_, fun hl => ?_, fun hl => ?_, fun hl => ?_⟩
        · exact merged (hkeep hl) rfl rfl rfl rfl
        · rw [paired]
          exact merged (haddi hl) rfl rfl rfl rfl
        · rw [paired]
          exact merged (haddf hl) rfl rfl rfl rfl
        · exact merged (hfirst hl) rfl rfl rfl rfl
    · have hread : mergeReads c a b := mergeReads_good (mergeCls_data ha) (mergeCls_end hb) hga hgb
      exact merged (mergeHeads_data_end hread ha (endTag.not_data hb)) rfl rfl rfl rfl
    · have hread : mergeReads c a b := mergeReads_good (mergeCls_end ha) (mergeCls_data hb) hga hgb
      exact merged (mergeHeads_end_data hread (endTag.not_data ha) hb) rfl rfl rfl rfl
    · have hread : mergeReads c a b := mergeReads_good (mergeCls_end ha) (mergeCls_end hb) hga hgb
      have hends := mergeHeads_ends hread ha hb
      refine ⟨fun hlt => ?_, fun hlt => ?_, fun heq => ?_⟩
      · rw [if_pos hlt] at hends
        exact merged hends rfl rfl rfl rfl
      · rw [if_neg (Nat.lt_asymm hlt), if_pos hlt] at hends
        exact merged hends rfl rfl rfl rfl
      · rw [heq, if_neg (Nat.lt_irrefl _), if_neg (Nat.lt_irrefl _), ← heq] at hends
        exact merged hends rfl rfl rfl rfl
  · intro c goes a kt list l k
    have stepped (hg : good e f.srca .coord) (hkey : l = [] ∨ e.ce.topType = some kt)
        (hn : kt = 2 → (fF32.dec (valueOf a)).isNaN = false) {l' : List Word} {o : Bool}
        (hstep : topStep kt k a l = (l', o)) : goes (.topk f) (list (c.silent o) l' (some kt)) :=
      fireSlot_fires rfl h (bodyTopk_step hg hkey hn hstep) rfl rfl rfl rfl
    refine ⟨fun hg hkey => ⟨fun hk hn => ?_, fun hn => ⟨fun hroom => ?_,
      fun z hfull hz => ⟨fun hrank => ?_, fun hrank => ?_⟩⟩⟩, fun hg hl ht => ?_, fun hl => ?_,
      fun x hl => ?_, fun x y ys hl => ?_⟩
    · exact fireSlot_fires rfl h (bodyTopk_nan hg hkey hk hn) rfl rfl rfl rfl
    · exact stepped hg hkey hn (topStep_room kt a hroom)
    · exact stepped hg hkey hn (topStep_enters hfull hz hrank)
    · exact stepped hg hkey hn (topStep_stays hfull hz hrank)
    · exact fireSlot_traps rfl h (bodyTopk_otherKey (c := c) hg hl ht)
    · exact fireSlot_fires rfl h (bodyTopkrd_empty (c := c) hl) rfl rfl rfl rfl
    · exact fireSlot_fires rfl h (bodyTopkrd_last (c := c) hl) rfl rfl rfl rfl
    · exact fireSlot_fires rfl h (bodyTopkrd_more (c := c) hl) rfl rfl rfl rfl

end Sys2Proof.Machine
end

section
/-! SUPPORT. Gathers, scatters and address generators of a memory port element (R171 to R176, R281 to R283): the firing of
an instruction that asks for an access, what the bodies compute, the fields that install refuses, and the obligation about
them. -/

namespace Sys2Proof.Machine

open Sys2Proof Sys2Proof.Safety

/-! ### A firing that asks for an access (R274, R275) -/

/-- A slot whose computation asks for an operation fires as one that takes its credits, opens its group and leaves its
access to be issued. -/
theorem ask_asks {i : Instr} {s : State} {r : ElemRef} {n stall starve : Nat} {e : Elem} {f : SlotF}
    {body : Ctx → Except ETrap Fired} {op : MOp} {num : Nat} {a b : Word} {cred : Cred} {outcome later : Bool}
    (hi : exec i s = fireSlot s f body) (h : elemThere s r n stall starve e)
    (hb : body ⟨s, e, n, f⟩ = .ok (Ctx.ask ⟨s, e, n, f⟩ op num a b cred outcome later)) :
    asks op num a b cred outcome later i s r n stall starve e f := by
  have hfires := fireSlot_fires hi h hb rfl rfl rfl rfl
  rw [Ctx.ask, Bool.or_false] at hfires
  cases cred <;> exact hfires

/-! ### Gathers and scatters (R171 to R176) -/

section
variable {c : Ctx}

section
variable (ha : good c.e c.f.srca .int) (hb : clean c.e c.f.srcb)
include ha hb

theorem bodyGld_badDesc (hbad : gdescBad 3 11 (c.e.source c.f.srcb.toNat).val = true) :
    bodyGld c = .error (c.trap Cause.gdesc 0) := by
  rw [bodyGld, read2_good ha ⟨hb, rfl⟩]
  exact if_pos hbad

theorem bodyGld_asks (hok : gdescBad 3 11 (c.e.source c.f.srcb.toNat).val = false) :
    let a := (c.e.source c.f.srca.toNat).val
    let b := (c.e.source c.f.srcb.toNat).val
    let ls := gldLanes c.f.lane.toNat a
    bodyGld c = .ok (c.ask .gld 0 a b (.lane ls.length)
      (ls.all fun p => (c.s.checkLane c.e.ref.load b p.2 false).cause == 0) false) := by
  rw [bodyGld, read2_good ha ⟨hb, rfl⟩]
  exact if_neg (ne_true_of_eq_false hok)

end

section
variable (ha : good c.e c.f.srca .coord) (hb : clean c.e c.f.srcb)
include ha hb

theorem bodySst_badDesc (hbad : gdescBad 2 2 (c.e.source c.f.srcb.toNat).val = true) :
    bodySst c = .error (c.trap Cause.gdesc 0) := by
  rw [bodySst, read2_good ha ⟨hb, rfl⟩]
  exact if_pos hbad

theorem bodySst_asks (hok : gdescBad 2 2 (c.e.source c.f.srcb.toNat).val = false) :
    let a := (c.e.source c.f.srca.toNat).val
    let b := (c.e.source c.f.srcb.toNat).val
    bodySst c = .ok (c.ask .sst 0 a b (.lane 1)
      ((c.s.checkLane c.e.ref.load b (coordOf a) true).cause == 0) false) := by
  rw [bodySst, read2_good ha ⟨hb, rfl⟩]
  exact if_neg (ne_true_of_eq_false hok)

end

/-! ### AGCFG (R281) -/

/-- The firing that sets the generator named by SRCB. -/
def Ctx.setsGen (c : Ctx) (x : AddrGen) : Fired :=
  { c.silent true with e := c.e.setMpe (c.e.mpe.setGen (c.f.srcb.toNat / 8) x) }

section
variable (h : good c.e c.f.srca .int)
include h

section
variable (hk : c.f.srcb.toNat % 8 ≤ 3)
include hk

theorem bodyAgcfg_loop (hcnt : fld (c.e.source c.f.srca.toNat).val 0 32 ≠ 0)
    (hstr : sgn 32 (fld (c.e.source c.f.srca.toNat).val 32 32) % 8 = 0) :
    let a := (c.e.source c.f.srca.toNat).val
    let g := c.e.mpe.gen (c.f.srcb.toNat / 8)
    let k := c.f.srcb.toNat % 8
    bodyAgcfg c = .ok (c.setsGen { g with
      c := putAt 1 g.c k (fld a 0 32), s := putAt 0 g.s k (sgn 32 (fld a 32 32)) }) := by
  have hok : ¬(fld (c.e.source c.f.srca.toNat).val 0 32 = 0 ∨
      sgn 32 (fld (c.e.source c.f.srca.toNat).val 32 32) % 8 ≠ 0) := not_or.mpr ⟨hcnt, not_not.mpr hstr⟩
  rw [bodyAgcfg, read1_good h]
  exact (if_pos hk).trans (if_neg hok)

theorem bodyAgcfg_badLoop (hbad : fld (c.e.source c.f.srca.toNat).val 0 32 = 0 ∨
      sgn 32 (fld (c.e.source c.f.srca.toNat).val 32 32) % 8 ≠ 0) :
    bodyAgcfg c = .error (c.trap Cause.agdesc 0) := by
  rw [bodyAgcfg, read1_good h]
  exact (if_pos hk).trans (if_pos hbad)

end

theorem bodyAgcfg_base (hk : c.f.srcb.toNat % 8 = 4) :
    bodyAgcfg c = .ok (c.setsGen { c.e.mpe.gen (c.f.srcb.toNat / 8) with base := (c.e.source c.f.srca.toNat).val }) := by
  rw [bodyAgcfg, read1_good h]
  exact (if_neg (by omega)).trans (if_pos hk)

section
variable (hk : c.f.srcb.toNat % 8 = 5)
include hk

theorem bodyAgcfg_levels (hok : fld (c.e.source c.f.srca.toNat).val 2 62 = 0) :
    bodyAgcfg c = .ok (c.setsGen { c.e.mpe.gen (c.f.srcb.toNat / 8) with
      nl := fld (c.e.source c.f.srca.toNat).val 0 2 + 1 }) := by
  rw [bodyAgcfg, read1_good h]
  exact (if_neg (by omega)).trans ((if_neg (by omega)).trans (if_neg (not_not.mpr hok)))

theorem bodyAgcfg_badLevels (hbad : fld (c.e.source c.f.srca.toNat).val 2 62 ≠ 0) :
    bodyAgcfg c = .error (c.trap Cause.agdesc 0) := by
  rw [bodyAgcfg, read1_good h]
  exact (if_neg (by omega)).trans ((if_neg (by omega)).trans (if_pos hbad))

end

end

/-! ### ASTRM and ASTWR (R282, R283) -/

/-- A generator that has been set reads as set. -/
theorem gen_setGen (m : MpeState) (g : Nat) (x : AddrGen) : (m.setGen g x).gen g = x := by
  rw [MpeState.gen, MpeState.setGen, putAt_getD, if_pos rfl]

/-- A generator as the next address of a write nest finds it: an idle one begins the nest anew (R283). -/
def AddrGen.writing (g : AddrGen) (gid : Nat) : AddrGen :=
  if g.st = 0 then { g with st := 2, idx := List.replicate 4 0, gid := gid } else g

/-- The firing of ASTRM. -/
def Ctx.streams (c : Ctx) : Fired :=
  let gi := c.f.srca.toNat
  let x := c.ask .astrm gi 0 0 .none true false
  let g := { c.e.mpe.gen gi with
    st := 1, idx := List.replicate 4 0, gid := c.s.nextId, more := true, born := c.s.clock }
  { x with e := x.e.setMpe { x.e.mpe.setGen gi g with issueQ := c.e.mpe.issueQ } }

theorem bodyAstrm_eq (c : Ctx) : bodyAstrm c = .ok c.streams := rfl

/-- The firing of ASTWR, which takes a generator's next address. -/
def Ctx.streamsWrite (c : Ctx) : Fired :=
  let gi := c.f.srcb.toNat
  let g := (c.e.mpe.gen gi).writing c.s.nextId
  let last := decide (g.step.2 = g.nl)
  let x := c.ask .astwr gi g.addr (c.e.source c.f.srca.toNat).val .wr true false last g.gid
  { x with e := x.e.setMpe (x.e.mpe.setGen gi (if last then { g.step.1 with st := 0 } else g.step.1)) }

theorem bodyAstwr_clean (h : clean c.e c.f.srca) : bodyAstwr c = .ok c.streamsWrite := by
  rw [bodyAstwr, read1_clean h]
  rfl

end

/-! ### The fields of AGCFG at install (R281) -/

/-- SRCB of a slot that keeps its limits is one that its entry lists (R41). -/
theorem srcb_of_slotOk {i : Instr} {en : Entry} {f : SlotF} (he : entry i = some en) (hf : slotF i = some f)
    (hok : slotOk i = true) : en.b.ok f.srcb.toNat = true := by
  simp only [slotOk, he, hf, Bool.and_eq_true] at hok
  obtain ⟨⟨-, huses⟩, -⟩ := hok
  exact srcb_of_usesOk huses

/-- Fields 6 and 7 are not listed. -/
theorem agcfg_unlisted {f : SlotF} (hk : 6 ≤ f.srcb.toNat % 8) : slotOk (.agcfg f) = false := by
  refine Bool.eq_false_iff.mpr fun hok => ?_
  have hsrcb := srcb_of_slotOk rfl rfl hok
  simp only [SUse.ok, List.contains_iff_mem, List.mem_cons, List.not_mem_nil, or_false] at hsrcb
  omega

/-- A slot that breaks a limit of its own words is refused (R52). -/
theorem slotBreach_badfield {ecw x : Word} {i : Instr} {en : Entry} {f : SlotF}
    (hd : decodeSlot (Kind.ofCode (fld ecw 62 2)) x = .ok i) (he : entry i = some en) (hf : slotF i = some f)
    (hbad : slotOk i = false) (routed : Bool) (box : Option Box) (ports : List Nat) (nentry : Nat) :
    slotBreach routed box ecw ports nentry x = some Cause.badfield := by
  simp only [slotBreach, hd, he, hf, hbad, Bool.not_false, Bool.true_or, if_true]

/-! ### The obligation -/

/-- Settles O32: GLD and SST as firings that ask, AGCFG by its fields, ASTRM and ASTWR by the generator they leave; a field
that is not listed by the limits of the slot's own words. -/
theorem gathersAndGenerators : Obligations.GathersAndGenerators := by
  intro s r n stall starve e f h c a b traps ls m g k sets w0 w
  have trapped {i : Instr} {body : Ctx → Except ETrap Fired} {cause : Nat} (hi : exec i s = fireSlot s f body)
      (hb : body c = .error (c.trap cause 0)) : traps i cause := fireSlot_traps hi h hb
  have hsets {x : AddrGen} (hb : bodyAgcfg c = .ok (c.setsGen x)) : sets x := fireSlot_fires rfl h hb rfl rfl rfl rfl
  refine ⟨fun ha hb => ⟨fun hbad => ?_, fun hok => ?_⟩, fun ha hb => ⟨fun hbad => ?_, fun hok => ?_⟩,
    fun ha => ⟨fun hk hcnt hstr => ?_, fun hk hbad => ?_, fun hk => ?_, fun hk hok => ?_, fun hk hbad => ?_⟩,
    fun hk routed box ecw ports nentry x hd => ?_, ?_, fun ha => ?_⟩
  · exact trapped rfl (bodyGld_badDesc (c := c) ha hb hbad)
  · exact ask_asks rfl h (bodyGld_asks (c := c) ha hb hok)
  · exact trapped rfl (bodySst_badDesc (c := c) ha hb hbad)
  · exact ask_asks rfl h (bodySst_asks (c := c) ha hb hok)
  · exact hsets (bodyAgcfg_loop (c := c) ha hk hcnt hstr)
  · exact trapped rfl (bodyAgcfg_badLoop (c := c) ha hk hbad)
  · exact hsets (bodyAgcfg_base (c := c) ha hk)
  · exact hsets (bodyAgcfg_levels (c := c) ha hk hok)
  · exact trapped rfl (bodyAgcfg_badLevels (c := c) ha hk hbad)
  · exact slotBreach_badfield hd rfl rfl (agcfg_unlisted hk) routed box ports nentry
  · refine ⟨c.streams, fireSlot_fires rfl h (bodyAstrm_eq c) rfl rfl rfl rfl, rfl, rfl, rfl, rfl, ?_, ?_⟩
    · exact List.length_append
    · exact gen_setGen _ _ _
  · have hfires := fireSlot_fires (i := .astwr f) rfl h (bodyAstwr_clean (c := c) ha) rfl rfl rfl rfl
    refine ⟨c.streamsWrite, hfires, rfl, rfl, rfl, rfl, rfl, ?_⟩
    refine (gen_setGen _ _ _).trans ?_
    simp only [decide_eq_true_eq]
    rfl

end Sys2Proof.Machine
end

section
/-! SUPPORT. Accesses of a scratchpad element at its own port (R195 to R202, R206, R211): what a bank word reads as, a firing
with what follows it, the three ways in which a read of a word ends, and the obligation about them. -/

namespace Sys2Proof.Machine

open Sys2Proof Sys2Proof.Safety

/-! ### The bank (R195, R211) -/

section
variable {p : SpeState}

theorem write_now (h : swf BWord.zero p.bank = true) (x y : Nat) (w : BWord) :
    (p.write x w).now y = if y = x then w else p.now y :=
  sget_sset BWord.zero p.bank x y w h

theorem write_bank_swf (h : swf BWord.zero p.bank = true) (x : Nat) (w : BWord) :
    swf BWord.zero (p.write x w).bank = true :=
  swf_sset BWord.zero p.bank x w h

/-- A word not written in this clock reads as it stands. -/
theorem read_unwritten {y : Nat} (hy : (p.old.any fun o => decide (o.1 = y)) = false) : p.read y = p.now y := by
  have hnone : (p.old.find? fun o => decide (o.1 = y)) = none :=
    List.find?_eq_none.mpr fun o ho => List.any_eq_false.mp hy o ho
  rw [SpeState.read, hnone, SpeState.now]

theorem write_old_first {x : Nat} (w : BWord) (hx : (p.old.any fun o => decide (o.1 = x)) = false) :
    (p.write x w).old = (x, p.now x) :: p.old :=
  if_neg (ne_true_of_eq_false hx)

theorem write_old_again {x : Nat} (w : BWord) (hx : (p.old.any fun o => decide (o.1 = x)) = true) :
    (p.write x w).old = p.old :=
  if_pos hx

theorem write_read_same {x : Nat} (w : BWord) (hx : (p.old.any fun o => decide (o.1 = x)) = false) :
    (p.write x w).read x = p.now x := by
  rw [SpeState.read, write_old_first w hx, List.find?_cons_of_pos (by exact decide_eq_true rfl)]

theorem write_unwritten {x y : Nat} (hxy : y ≠ x) (w : BWord) (hy : (p.old.any fun o => decide (o.1 = y)) = false) :
    ((p.write x w).old.any fun o => decide (o.1 = y)) = false := by
  cases hx : p.old.any fun o => decide (o.1 = x) with
  | true => rw [write_old_again w hx, hy]
  | false => rw [write_old_first w hx, List.any_cons, hy, decide_eq_false hxy.symm, Bool.or_false]

/-- A word written before in this clock goes on to read as it stood at the clock's start. -/
theorem write_read_written (x : Nat) {y : Nat} (w : BWord) (hy : (p.old.any fun o => decide (o.1 = y)) = true) :
    (p.write x w).read y = p.read y := by
  have hfind : ((p.write x w).old.find? fun o => decide (o.1 = y)) = p.old.find? fun o => decide (o.1 = y) := by
    cases hx : p.old.any fun o => decide (o.1 = x) with
    | true => rw [write_old_again w hx]
    | false =>
      have hxy : x ≠ y := fun h => by rw [h, hy] at hx; exact absurd hx (by decide)
      rw [write_old_first w hx, List.find?_cons_of_neg (by simpa using hxy)]
  obtain ⟨o, ho⟩ := Option.isSome_iff_exists.mp ((List.find?_isSome).mpr (List.any_eq_true.mp hy))
  rw [SpeState.read, SpeState.read, hfind, ho]

end

theorem localWord_eq (a : Word) : localWord a = a.toNat % 2 ^ 13 := by
  rw [localWord, fld, fldN, pow_zero, Nat.div_one]

/-! ### A firing with what follows it (R129, R200, R208) -/

/-- A cross request joins the arrival queue of an element (R210). -/
def State.arrive (s : State) (t : ElemRef) (q : CrossReq) : State :=
  s.modElem t fun u => { u with spe := { u.spe with crossIn := addCross q u.spe.crossIn } }

/-- A firing without what follows it. -/
def Fired.alone (x : Fired) : Fired := { x with cross := [], after := none, uncorr := false }

/-- What follows a firing of e: an uncorrectable error is logged, cross requests leave, and a trap is raised. -/
def Fired.follow (x : Fired) (e : Elem) (s : State) : State :=
  let s1 := x.cross.foldl (fun s (t, q) => s.arrive t q) (if x.uncorr then s.logElem e else s)
  match x.after with
  | some t => s1.trapElem e.ref t
  | none => s1

/-- Names and free values taken from the model's counts. -/
def State.took (s : State) (ids free : Nat) : State :=
  { s with nextId := s.nextId + ids, freeCount := s.freeCount + free }

theorem logElem_room {s : State} (h : s.selog.length < 64) (e : Elem) : s.logElem e = { s with
    selog := s.selog ++ [⟨6, pkgTile e.ref.die e.ptile, e.psite, s.loadTask e.ref.load⟩] } := if_pos h

theorem logElem_full {s : State} (h : ¬s.selog.length < 64) (e : Elem) :
    s.logElem e = { s with selogLost := s.selogLost + 1 } := if_neg h

theorem logElem_push (s : State) (e : Elem) (ts : List Turn) : (s.push ts).logElem e = (s.logElem e).push ts := by
  by_cases h : s.selog.length < 64
  · rw [logElem_room h, logElem_room (s := s.push ts) h]
    rfl
  · rw [logElem_full h, logElem_full (s := s.push ts) h]
    rfl

theorem logElem_took (s : State) (e : Elem) (ids free : Nat) :
    (s.took ids free).logElem e = (s.logElem e).took ids free := by
  by_cases h : s.selog.length < 64
  · rw [logElem_room h, logElem_room (s := s.took ids free) h]
    rfl
  · rw [logElem_full h, logElem_full (s := s.took ids free) h]
    rfl

theorem arrive_foldl_push (qs : List (ElemRef × CrossReq)) (s : State) (ts : List Turn) :
    qs.foldl (fun s (t, q) => s.arrive t q) (s.push ts) = (qs.foldl (fun s (t, q) => s.arrive t q) s).push ts := by
  induction qs generalizing s with
  | nil => rfl
  | cons q qs ih => exact ih (s.arrive q.1 q.2)

theorem follow_push (x : Fired) (e : Elem) (s : State) (ts : List Turn) :
    x.follow e (s.push ts) = (x.follow e s).push ts := by
  have hlog : (if x.uncorr then (s.push ts).logElem e else s.push ts) =
      (if x.uncorr then s.logElem e else s).push ts := by
    rw [logElem_push]
    split <;> rfl
  rw [Fired.follow, Fired.follow, hlog, arrive_foldl_push]
  cases x.after with
  | none => rfl
  | some t => exact trapElem_push _ _ _ _

/-- A firing enters the machine with its names and free values, what follows it, and the reweighting that its group is due. -/
theorem commit_eq (s : State) (e : Elem) (n : Nat) (f : SlotF) (stall starve : Nat) (x : Fired) :
    let y := e.fired s.clock (s.outRid e) n f stall starve x
    let g := fld (e.slotWord n) 0 2
    let s1 := x.follow e ((s.modElem e.ref fun _ => y).took x.ids x.free)
    commit s e n f stall starve x = if g ≠ 0 ∧ e.gmode g = 1 ∧ y.balFired.getD g 0 ≥ 256 then
      s1.push [.event .balanceReweight (.elemN e.ref g)] else s1 := by
  have hlog (s1 : State) : (if x.uncorr then (s1.took x.ids x.free).logElem e else s1.took x.ids x.free) =
      (if x.uncorr then s1.logElem e else s1).took x.ids x.free := by
    rw [logElem_took]
    split <;> rfl
  dsimp only
  rw [Fired.follow, hlog]
  rfl

theorem commit_follow (s : State) (e : Elem) (n : Nat) (f : SlotF) (stall starve : Nat) (x : Fired) :
    commit s e n f stall starve x = x.follow e (commit s e n f stall starve x.alone) := by
  have hfired : e.fired s.clock (s.outRid e) n f stall starve x.alone =
      e.fired s.clock (s.outRid e) n f stall starve x := rfl
  rw [commit_eq, commit_eq, hfired]
  split
  · exact (follow_push _ _ _ _).symm
  · rfl

section
variable {s : State} {r : ElemRef} {n stall starve : Nat} {e : Elem} {f : SlotF} {body : Ctx → Except ETrap Fired}
  {x : Fired} (h : elemThere s r n stall starve e) (hb : body ⟨s, e, n, f⟩ = .ok x)
include h hb

theorem fireSlot_commits : fireSlot s f body = .next (commit s e n f stall starve x) := by
  obtain ⟨hactor, he, hcalm⟩ := h
  rw [fireSlot, hactor]
  simp only [he, hb, upsets_calm hcalm, Bool.false_eq_true, if_false]

/-- A slot whose computation answers a firing fires as it, and then does what follows. -/
theorem fireSlot_firesThen {i : Instr} (hi : exec i s = fireSlot s f body) (hx : x.e.ref = e.ref) :
    firesThen i s r n stall starve e f x.alone (x.follow e) := by
  obtain ⟨e', hthere, hfired, honly⟩ := commit_plain s r n stall starve e f x.alone h.2.1 hx rfl rfl rfl
  refine ⟨_, e', ?_, hthere, hfired, honly⟩
  rw [hi, fireSlot_commits h hb, commit_follow s e n f stall starve x]

end

/-! ### A read of a bank word (R200, R451) -/

section
variable {c : Ctx} {x : Nat} (p pbad : SpeState)

/-- The firing that reads word x and leaves p. -/
def Ctx.wordRead (c : Ctx) (x : Nat) (p : SpeState) : Fired :=
  let w := c.e.spe.read x
  { c.result w.val w.tag (w.val != 0) with e := c.e.setSpe p, res := some w.res }

theorem readWord_ok (h : wordOk c.e x) : c.readWord x p pbad = .ok (c.wordRead x p) := by
  rw [Ctx.readWord, Ctx.checkWord, if_neg (ne_true_of_eq_false h.1), if_pos h.2]
  rfl

theorem readWord_bad (h : setHas c.e.spe.bad x = true) : c.readWord x p pbad = .ok (c.badRead pbad) :=
  if_pos h

theorem readWord_residue (hb : setHas c.e.spe.bad x = false)
    (hr : (c.e.spe.read x).res ≠ residue (c.e.spe.read x).val) :
    c.readWord x p pbad = .error ⟨Cause.residue, eDetail c.e.ref.site c.n 0, some (16 + x)⟩ := by
  rw [Ctx.readWord, Ctx.checkWord, if_neg (ne_true_of_eq_false hb), if_neg hr]
  rfl

end

section
variable {s : State} {r : ElemRef} {n stall starve : Nat} {e : Elem} {f : SlotF} {i : Instr}
  {body : Ctx → Except ETrap Fired} {x : Nat} {p pbad : SpeState} (hi : exec i s = fireSlot s f body)
  (h : elemThere s r n stall starve e) (hb : body ⟨s, e, n, f⟩ = Ctx.readWord ⟨s, e, n, f⟩ x p pbad)
include hi h hb

theorem readWord_fires (hok : wordOk e x) :
    fires i s r n stall starve e f (Ctx.wordRead ⟨s, e, n, f⟩ x p) :=
  fireSlot_fires hi h (hb.trans (readWord_ok p pbad hok)) rfl rfl rfl rfl

theorem readWord_traps (hgood : setHas e.spe.bad x = false) (hres : (e.spe.read x).res ≠ residue (e.spe.read x).val) :
    trapsWith i s r ⟨Cause.residue, eDetail e.ref.site n 0, some (16 + x)⟩ :=
  fireSlot_traps hi h (hb.trans (readWord_residue p pbad hgood hres))

theorem readWord_met (hbad : setHas e.spe.bad x = true) :
    (outsOf f.dst.toNat ≠ [] → firesThen i s r n stall starve e f
      { Ctx.result ⟨s, e, n, f⟩ (faultTok Cause.uncorrectable (freeDetail s)).pay 0 false with
        e := { e with spe := pbad }, dst := .token Ctag.fault } fun s1 => s1.logElem e) ∧
    (outsOf f.dst.toNat = [] → firesThen i s r n stall starve e f
      { Ctx.silent ⟨s, e, n, f⟩ false with e := { e with spe := pbad } }
      fun s1 => (s1.logElem e).trapElem r ⟨Cause.uncorrectable, eDetail e.ref.site n 0, none⟩) := by
  have hbody := hb.trans (readWord_bad p pbad hbad)
  have href : e.ref = r := elem_ref h.2.1
  refine ⟨fun ho => ?_, fun ho => ?_⟩
  · have hout : isOut f.dst.toNat = true := by rw [isOut, List.isEmpty_eq_false_iff.mpr ho, Bool.not_false]
    rw [Ctx.badRead, if_pos hout] at hbody
    exact fireSlot_firesThen h hbody hi rfl
  · have hout : isOut f.dst.toNat = false := by rw [isOut, List.isEmpty_iff.mpr ho, Bool.not_true]
    rw [Ctx.badRead, if_neg (ne_true_of_eq_false hout)] at hbody
    have hthen := fireSlot_firesThen h hbody hi rfl
    rw [← href] at hthen ⊢
    exact hthen

end

/-! ### The lanes of SADD, SMAX and SMIN (R201) -/

theorem sgn_emod (w a : Nat) : sgn w a % ((2 ^ w : Nat) : Int) = ((a % 2 ^ w : Nat) : Int) := by
  rw [sgn]
  split
  · rw [← Int.natCast_emod, Nat.mod_mod]
  · rw [Int.sub_emod_right, ← Int.natCast_emod, Nat.mod_mod]

theorem pAdd_mod (w a b : Nat) : pAdd w a b % 2 ^ w = (a + b) % 2 ^ w := by
  have hsum : (sgn w a + sgn w b) % ((2 ^ w : Nat) : Int) = (((a + b) % 2 ^ w : Nat) : Int) := by
    rw [Int.add_emod, sgn_emod, sgn_emod, ← Int.natCast_add, ← Int.natCast_emod, ← Nat.add_mod]
  rw [pAdd, wrapN, hsum, Int.toNat_natCast, Nat.mod_mod]

theorem map2Lanes_lane {w k : Nat} (hk : k < 64 / w) (g : Nat → Nat → Nat) (a b : Word) :
    laneN w k (map2Lanes w g a b) = g (laneN w k a) (laneN w k b) % 2 ^ w :=
  laneN_packW_range w (64 / w) k (fun k => g (laneN w k a) (laneN w k b)) (Nat.mul_div_le 64 w) hk

/-! ### The bodies of the port's accesses (R201, R206) -/

section
variable {c : Ctx} (ha : good c.e c.f.srca .int)
include ha

theorem bodySrd_reads :
    let x := (c.e.source c.f.srca.toNat).val.toNat % 2 ^ 13
    bodySrd c = c.readWord x (c.e.spe.useR x) (c.e.spe.useR x) := by
  rw [bodySrd, read1_good ha, ← localWord_eq]
  rfl

theorem bodySwr_writes (hb : clean c.e c.f.srcb) :
    let x := (c.e.source c.f.srca.toNat).val.toNat % 2 ^ 13
    let b := c.e.source c.f.srcb.toNat
    bodySwr c = .ok { c.silent (b.val != 0) with
      e := c.e.setSpe ((c.e.spe.write x ⟨b.val, b.tag, b.res, (c.e.spe.read x).pres⟩).useW x) } := by
  rw [bodySwr, read2_good ha ⟨hb, rfl⟩, ← localWord_eq]
  rfl

theorem bodySxch_reads (hb : clean c.e c.f.srcb) :
    let x := (c.e.source c.f.srca.toNat).val.toNat % 2 ^ 13
    let b := c.e.source c.f.srcb.toNat
    let p := (c.e.spe.useR x).useW x
    bodySxch c = c.readWord x (p.write x ⟨b.val, b.tag, b.res, (c.e.spe.read x).pres⟩) p := by
  rw [bodySxch, read2_good ha ⟨hb, rfl⟩, ← localWord_eq]
  rfl

/-- The class of the stored tag is checked once the word has been read without an error. -/
theorem bodyPortOp_reads (hb : good c.e c.f.srcb .int) (g : Nat → Nat → Nat → Nat) :
    let x := (c.e.source c.f.srca.toNat).val.toNat % 2 ^ 13
    let w := c.e.spe.read x
    let v := map2Lanes (laneW c.f.lane) (g (laneW c.f.lane)) w.val (c.e.source c.f.srcb.toNat).val
    let p := (c.e.spe.useR x).useW x
    (wordOk c.e x → Cls.int.accepts w.tag = true) →
    bodyPortOp g c = c.readWord x (p.write x ⟨v, BitVec.zeroExtend 4 c.f.lane, residue v, w.pres⟩) p := by
  intro x w v p hacc
  have hx : localWord (c.e.source c.f.srca.toNat).val = x := localWord_eq _
  rw [bodyPortOp, read2_good ha hb]
  simp only [bind, Except.bind, hx, keepPres]
  by_cases hbad : setHas c.e.spe.bad x = true
  · rw [readWord_bad _ _ hbad, hbad]
    rfl
  · have hgood := Bool.eq_false_iff.mpr hbad
    by_cases hres : w.res = residue w.val
    · rw [readWord_ok _ _ ⟨hgood, hres⟩, hacc ⟨hgood, hres⟩, Bool.not_true, Bool.and_false]
      rfl
    · rw [readWord_residue _ _ hgood hres]

end

/-! ### The obligation -/

/-- Settles O25: the bank by the rules about a write; each access by its body, which is a read of its word or a write, and
by the three ways in which such a read ends. -/
theorem bankAccesses : Obligations.BankAccesses := by
  refine ⟨fun p x y w h => ⟨write_now h x y w, write_bank_swf h x w, write_read_same w, fun hxy hy => ?_,
    write_read_written x w⟩, fun s r n stall starve e f h ha => ?_⟩
  · rw [read_unwritten (write_unwritten hxy w hy), write_now h, if_neg hxy]
  · intro c goes b x w reads rw wd op
    have hsrd := bodySrd_reads (c := c) ha
    have hsxch (hb : clean e f.srcb) := bodySxch_reads (c := c) ha hb
    have hport (hb : good e f.srcb .int) (g : Nat → Nat → Nat → Nat) := bodyPortOp_reads (c := c) ha hb g
    have ported {i : Instr} (g : Nat → Nat → Nat → Nat) {g' : Nat → Nat → Nat} (hi : exec i s = fireSlot s f (bodyPortOp g))
        (hb : good e f.srcb .int) (hok : wordOk e x) (hacc : Cls.int.accepts w.tag = true)
        (hg : ∀ k, g wd (laneN wd k w.val) (laneN wd k b.val) % 2 ^ wd = g' (laneN wd k w.val) (laneN wd k b.val)) :
        op i g' :=
      ⟨_, fun k hk => (map2Lanes_lane hk _ _ _).trans (hg k), readWord_fires hi h (hport hb g fun _ => hacc) hok⟩
    refine ⟨readWord_fires rfl h hsrd, fun hb => ?_, fun hb => readWord_fires rfl h (hsxch hb),
      fun hb hok hacc => ⟨?_, ?_, ?_⟩, ?_⟩
    · exact fireSlot_fires rfl h (bodySwr_writes (c := c) ha hb) rfl rfl rfl rfl
    · exact ported pAdd (g' := fun a b => (a + b) % 2 ^ wd) rfl hb hok hacc fun k => pAdd_mod _ _ _
    · refine ported pMax rfl hb hok hacc fun k => Nat.mod_eq_of_lt ?_
      rw [pMax]
      split <;> exact laneN_lt _ _ _
    · refine ported pMin rfl hb hok hacc fun k => Nat.mod_eq_of_lt ?_
      rw [pMin]
      split <;> exact laneN_lt _ _ _
    intro met
    have unread (hbad : setHas e.spe.bad x = true) : wordOk e x → Cls.int.accepts w.tag = true :=
      fun hok => absurd hok.1 (by rw [hbad]; decide)
    refine ⟨fun hbad => ⟨?_, fun hb => ?_, fun hb => ⟨?_, ?_, ?_⟩⟩, ?_⟩
    · exact readWord_met rfl h hsrd hbad
    · exact readWord_met rfl h (hsxch hb) hbad
    · exact readWord_met rfl h (hport hb pAdd (unread hbad)) hbad
    · exact readWord_met rfl h (hport hb pMax (unread hbad)) hbad
    · exact readWord_met rfl h (hport hb pMin (unread hbad)) hbad
    intro traps hgood hres
    have failed : wordOk e x → Cls.int.accepts w.tag = true := fun hok => absurd hok.2 hres
    refine ⟨?_, fun hb => ?_, fun hb => ⟨?_, ?_, ?_⟩⟩
    · exact readWord_traps rfl h hsrd hgood hres
    · exact readWord_traps rfl h (hsxch hb) hgood hres
    · exact readWord_traps rfl h (hport hb pAdd failed) hgood hres
    · exact readWord_traps rfl h (hport hb pMax failed) hgood hres
    · exact readWord_traps rfl h (hport hb pMin failed) hgood hres

end Sys2Proof.Machine
end

section
/-! SUPPORT. Circular buffers of a scratchpad element (R203 to R205): what the bodies compute, and the obligation about
them. -/

namespace Sys2Proof.Machine

open Sys2Proof Sys2Proof.Safety

/-! ### What each body computes -/

/-- The words that a form names by a count of words or, under LANE 1, of strides (R205). -/
theorem scaled_eq (h : Handle) (f : SlotF) (k : Nat) :
    h.scaled (f.lane == 1) k = if f.lane = 1 then k * h.stride else k := by
  simp only [Handle.scaled, beq_iff_eq]

section
variable {c : Ctx}

theorem setHandleOr_unset {k : Nat} (h : (c.e.spe.handle k).size = 0) :
    c.setHandleOr k = .error (c.trap Cause.cbunset 0) := if_pos h

theorem setHandleOr_set {k : Nat} (h : (c.e.spe.handle k).size ≠ 0) :
    c.setHandleOr k = .ok (c.e.spe.handle k) := if_neg h

/-! A handle that is not set (R203). -/

section
variable (h : (c.e.spe.handle c.f.srca.toNat).size = 0)
include h

theorem bodyCbrd_unset : bodyCbrd c = .error (c.trap Cause.cbunset 0) := by
  rw [bodyCbrd, setHandleOr_unset h]
  rfl

theorem bodyCbrdPop_unset : bodyCbrdPop c = .error (c.trap Cause.cbunset 0) := by
  rw [bodyCbrdPop, setHandleOr_unset h]
  rfl

theorem bodyCbwr_unset : bodyCbwr c = .error (c.trap Cause.cbunset 0) := by
  rw [bodyCbwr, setHandleOr_unset h]
  rfl

theorem bodyCbadvr_unset : bodyCbadvr c = .error (c.trap Cause.cbunset 0) := by
  rw [bodyCbadvr, setHandleOr_unset h]
  rfl

theorem bodyCbadvw_unset : bodyCbadvw c = .error (c.trap Cause.cbunset 0) := by
  rw [bodyCbadvw, setHandleOr_unset h]
  rfl

end

/-! A handle that is set. -/

section
variable (h : (c.e.spe.handle c.f.srca.toNat).size ≠ 0)
include h

theorem bodyCbrd_reads {k : Nat}
    (hk : (c.e.spe.handle c.f.srca.toNat).scaled (c.f.lane == 1) c.f.srcb.toNat = k) :
    let b := c.e.spe.handle c.f.srca.toNat
    let x := b.word (b.rd + k)
    bodyCbrd c = c.readWord x (c.e.spe.useR x) (c.e.spe.useR x) := by
  rw [bodyCbrd, setHandleOr_set h, ← hk]
  rfl

theorem bodyCbrdPop_reads :
    let k := c.f.srca.toNat
    let b := c.e.spe.handle k
    let p := (c.e.spe.useR (b.word b.rd)).setHandle k { b with rd := (b.rd + 1) % b.size, fill := b.fill - 1 }
    bodyCbrdPop c = c.readWord (b.word b.rd) p p := by
  rw [bodyCbrdPop, setHandleOr_set h]
  rfl

theorem bodyCbwr_writes (hb : clean c.e c.f.srcb) :
    let k := c.f.srca.toNat
    let b := c.e.spe.handle k
    let v := c.e.source c.f.srcb.toNat
    let x := b.word b.wr
    bodyCbwr c = .ok { c.silent (v.val != 0) with
      e := c.e.setSpe (((c.e.spe.write x ⟨v.val, v.tag, v.res, (c.e.spe.read x).pres⟩).useW x).setHandle k
        { b with wr := (b.wr + 1) % b.size, fill := b.fill + 1 }) } := by
  rw [bodyCbwr, setHandleOr_set h, read1_clean hb]
  rfl

theorem bodyCbadvr_advances {go : Nat} (hgo : (c.e.spe.handle c.f.srca.toNat).advance c.f = go) :
    let k := c.f.srca.toNat
    let b := c.e.spe.handle k
    let b' := { b with rd := (b.rd + go) % b.size, fill := b.fill - go }
    bodyCbadvr c = .ok { c.result b'.levels 0 (b'.fill != 0) with e := c.e.setSpe (c.e.spe.setHandle k b') } := by
  rw [bodyCbadvr, setHandleOr_set h, ← hgo]
  rfl

theorem bodyCbadvw_advances {go : Nat} (hgo : (c.e.spe.handle c.f.srca.toNat).advance c.f = go) :
    let k := c.f.srca.toNat
    let b := c.e.spe.handle k
    let b' := { b with wr := (b.wr + go) % b.size, fill := b.fill + go }
    bodyCbadvw c = .ok { c.result b'.levels 0 (b'.size - b'.fill != 0) with
      e := c.e.setSpe (c.e.spe.setHandle k b') } := by
  rw [bodyCbadvw, setHandleOr_set h, ← hgo]
  rfl

end

/-! CBSET (R204). -/

section
variable (h : good c.e c.f.srca .int)
include h

theorem bodyCbset_sets (hzero : fld (c.e.source c.f.srca.toNat).val 39 25 = 0)
    (hend : fld (c.e.source c.f.srca.toNat).val 0 13 + fld (c.e.source c.f.srca.toNat).val 13 13 ≤ 8191) :
    let d := (c.e.source c.f.srca.toNat).val
    bodyCbset c = .ok { c.silent false with
      e := c.e.setSpe (c.e.spe.setHandle c.f.srcb.toNat ⟨fld d 0 13, fld d 13 13 + 1, fld d 26 13, 0, 0, 0⟩) } := by
  rw [bodyCbset, read1_good h]
  exact if_neg (by omega)

theorem bodyCbset_badDesc (hbad : fld (c.e.source c.f.srca.toNat).val 39 25 ≠ 0 ∨
      8191 < fld (c.e.source c.f.srca.toNat).val 0 13 + fld (c.e.source c.f.srca.toNat).val 13 13) :
    bodyCbset c = .error (c.trap Cause.cbdesc 0) := by
  rw [bodyCbset, read1_good h]
  exact if_pos (by omega)

end

end

/-! ### The obligation -/

/-- Settles O26: each form by its body, for a handle that is not set and for one that is; CBSET by its descriptor. -/
theorem circularBuffers : Obligations.CircularBuffers := by
  intro s r n stall starve e f h c goes traps k hd b m strided at_ xr xp xw go with_ reads levels d
  have trapped {i : Instr} {body : Ctx → Except ETrap Fired} {cause : Nat} (hi : exec i s = fireSlot s f body)
      (hb : body c = .error (c.trap cause 0)) : traps i cause := fireSlot_traps hi h hb
  refine ⟨fun h0 => ⟨?_, ?_, ?_, ?_, ?_⟩, fun h0 => ⟨fun hok => ?_, fun hok => ?_, fun hb => ?_, ?_, ?_⟩,
    fun ha => ⟨fun hzero hend => ?_, fun hbad => ?_⟩⟩
  · exact trapped rfl (bodyCbrd_unset (c := c) h0)
  · exact trapped rfl (bodyCbrdPop_unset (c := c) h0)
  · exact trapped rfl (bodyCbwr_unset (c := c) h0)
  · exact trapped rfl (bodyCbadvr_unset (c := c) h0)
  · exact trapped rfl (bodyCbadvw_unset (c := c) h0)
  · exact readWord_fires rfl h (bodyCbrd_reads (c := c) h0 (scaled_eq hd f m)) hok
  · exact readWord_fires rfl h (bodyCbrdPop_reads (c := c) h0) hok
  · exact fireSlot_fires rfl h (bodyCbwr_writes (c := c) h0 hb) rfl rfl rfl rfl
  · exact fireSlot_fires rfl h (bodyCbadvr_advances (c := c) h0 (scaled_eq hd f (m + 1))) rfl rfl rfl rfl
  · exact fireSlot_fires rfl h (bodyCbadvw_advances (c := c) h0 (scaled_eq hd f (m + 1))) rfl rfl rfl rfl
  · exact fireSlot_fires rfl h (bodyCbset_sets (c := c) ha hzero hend) rfl rfl rfl rfl
  · exact trapped rfl (bodyCbset_badDesc (c := c) ha hbad)

end Sys2Proof.Machine
end

section
/-! SUPPORT. Presence words of a scratchpad bank (R206, R207, R209): what PRD, PWR and PCLR compute, what serving a word
leaves in each element, and the obligation about them. -/

namespace Sys2Proof.Machine

open Sys2Proof Sys2Proof.Safety

/-! ### What each body computes (R206) -/

/-- The firing of a PWR that sets presence. -/
def Ctx.presents (c : Ctx) (x : Nat) : Fired :=
  let b := c.e.source c.f.srcb.toNat
  { c.silent true with e := c.e.setSpe ((c.e.spe.write x ⟨b.val, b.tag, b.res, true⟩).useW x) }

section
variable {c : Ctx} {x : Nat} (ha : good c.e c.f.srca .int)
  (hx : (c.e.source c.f.srca.toNat).val.toNat % 2 ^ 13 = x)
include ha hx

theorem bodyPrd_present (hok : wordOk c.e x) (hp : (c.e.spe.read x).pres = true) :
    bodyPrd c = .ok { c.wordRead x (c.e.spe.useR x) with outcome := true } := by
  rw [← localWord_eq] at hx
  rw [bodyPrd, read1_good ha]
  simp only [bind, Except.bind, hx, hp, true_or, if_true, readWord_ok _ _ hok, hok.1, Bool.not_false]
  rfl

theorem bodyPrd_absent (hgood : setHas c.e.spe.bad x = false) (hp : (c.e.spe.read x).pres = false) :
    let p := c.e.spe.useR x
    bodyPrd c = .ok { c.silent false with
      e := c.e.setSpe { p with
        defers := p.defers ++ [⟨x, .own c.f.dst.toNat (otagCtag c.f (c.e.source c.f.srca.toNat))⟩] } } := by
  rw [← localWord_eq] at hx
  rw [bodyPrd, read1_good ha]
  simp only [bind, Except.bind, hx, hp, hgood, Bool.false_eq_true, or_self, if_false]
  rfl

theorem bodyPclr_clears (hok : wordOk c.e x) :
    let w := c.e.spe.read x
    let p := (c.e.spe.useR x).useW x
    bodyPclr c = .ok { c.wordRead x (if w.pres then p.write x BWord.zero else p) with outcome := w.pres } := by
  rw [← localWord_eq] at hx
  rw [bodyPclr, read1_good ha]
  simp only [bind, Except.bind, hx, readWord_ok _ _ hok, hok.1, Bool.not_false, Bool.and_true]
  rfl

section
variable (hb : clean c.e c.f.srcb)
include hb

theorem bodyPwr_sets (hp : (c.e.spe.read x).pres = false) : bodyPwr c = .ok (c.presents x) := by
  rw [← localWord_eq] at hx
  rw [bodyPwr, read2_good ha ⟨hb, rfl⟩]
  simp only [bind, Except.bind, hx, hp, Bool.false_eq_true, if_false]
  rfl

variable (hp : (c.e.spe.read x).pres = true)
include hp

theorem bodyPwr_again_halts (hd : c.f.dst = 15) :
    bodyPwr c = .ok { c.silent false with
      e := c.e.setSpe (c.e.spe.useW x), after := some (c.trap Cause.presenceRewrite 0) } := by
  rw [← localWord_eq] at hx
  rw [bodyPwr, read2_good ha ⟨hb, rfl⟩]
  simp only [bind, Except.bind, hx, hp, if_true, if_pos hd]
  rfl

theorem bodyPwr_again_faults (hd : c.f.dst ≠ 15) :
    bodyPwr c = .ok { c.result (faultTok Cause.presenceRewrite (freeDetail c.s)).pay 0 false with
      e := c.e.setSpe (c.e.spe.useW x), dst := .token Ctag.fault, free := 1 } := by
  rw [← localWord_eq] at hx
  rw [bodyPwr, read2_good ha ⟨hb, rfl⟩]
  simp only [bind, Except.bind, hx, hp, if_true, if_neg hd]
  rfl

end

end

/-! ### PWR (R206, R207) -/

/-- A firing leaves the scratchpad state that its instruction computes. -/
theorem firedAs_spe {s : State} {n stall starve : Nat} {e e' : Elem} {f : SlotF} {x : Fired}
    (h : firedAs s n stall starve e f x e') : e'.spe = x.e.spe := by
  obtain ⟨-, -, -, -, -, -, -, -, -, -, hrest⟩ := h
  rw [hrest]

section
variable {s : State} {r : ElemRef} {n stall starve : Nat} {e : Elem} {f : SlotF} {x : Nat}
  (h : elemThere s r n stall starve e) (hx : (e.source f.srca.toNat).val.toNat % 2 ^ 13 = x)
include h hx

theorem pwrWord_eq : pwrWord s f = if (e.spe.read x).pres then none else some (r, x) := by
  rw [← localWord_eq] at hx
  simp only [pwrWord, h.1, h.2.1, hx]

/-- A PWR of a present word is its firing and no more. -/
theorem exec_pwr_again (hp : (e.spe.read x).pres = true) : exec (.pwr f) s = fireSlot s f bodyPwr := by
  change execPwr f s = _
  rw [execPwr, pwrWord_eq h hx, hp]
  cases fireSlot s f bodyPwr <;> rfl

/-- A PWR that sets presence then serves its word. -/
theorem pwr_serves (ha : good e f.srca .int) (hb : clean e f.srcb) (hp : (e.spe.read x).pres = false)
    (hwf : swf BWord.zero e.spe.bank = true) :
    let b := e.source f.srcb.toNat
    let fresh : BWord := ⟨b.val, b.tag, b.res, true⟩
    firesThen (.pwr f) s r n stall starve e f (Ctx.presents ⟨s, e, n, f⟩ x) fun s1 => s1.serveWord r x fresh := by
  intro b fresh
  have hbody := bodyPwr_sets (c := ⟨s, e, n, f⟩) ha hx hb hp
  obtain ⟨e', hthere, hfired, honly⟩ :=
    commit_plain s r n stall starve e f (Ctx.presents ⟨s, e, n, f⟩ x) h.2.1 rfl rfl rfl rfl
  have hnow : e'.spe.now x = fresh := by
    rw [firedAs_spe hfired]
    exact (write_now hwf x x fresh).trans (if_pos rfl)
  refine ⟨_, e', ?_, hthere, hfired, honly⟩
  change execPwr f s = _
  rw [execPwr, fireSlot_commits h hbody, pwrWord_eq h hx, hp]
  simp only [Bool.false_eq_true, if_false, hthere, hnow]
  rfl

end

/-! ### Steps that change elements only -/

/-- Nothing but the elements changes. -/
def onlyElems (s s' : State) : Prop := s' = { s with elems := s'.elems }

theorem onlyElems.trans {a b c : State} (h1 : onlyElems a b) (h2 : onlyElems b c) : onlyElems a c := by
  rw [onlyElems, h2, h1]

theorem modSpe_elem (s : State) (r u : ElemRef) (g : SpeState → SpeState) : (s.modSpe r g).elem? u =
    if u = r then (s.elem? u).map fun y => y.setSpe (g y.spe) else s.elem? u :=
  modElem_elem s r u _ fun _ h => h

/-! ### Serving a word (R207, R209; log 26) -/

/-- The token that an own PRD gets for its word. -/
def Defer.ownReply (w : BWord) (d : Defer) : Option (Nat × Tok) :=
  match d.who with
  | .own dst ct => some (dst, w.tok ct)
  | .cross _ _ => none

/-- The bank without the entries of word x, whose own reads join the reply list. -/
def SpeState.freed (p : SpeState) (x : Nat) (w : BWord) (mine : List Defer) : SpeState :=
  { p with
    defers := p.defers.filter fun d => decide (d.word ≠ x), replies := p.replies ++ mine.filterMap (Defer.ownReply w) }

/-- An owed cross reply once its word has been written: it travels back. -/
def CrossCell.answered (c : CrossCell) (w : BWord) (due : Nat) : CrossCell :=
  { c with reply := some (w.tok c.ctag), due := due }

/-- An element u once the entries ds have been served. -/
def Elem.crossServed (u : ElemRef) (w : BWord) (due : Nat) (ds : List Defer) (y : Elem) : Elem :=
  y.setSpe { y.spe with owed := y.spe.owed.map fun c =>
    if (ds.any fun d => decide (d.who = .cross u c.cell)) then c.answered w due else c }

/-- One entry served: a cross read by the reply that its issuer is owed. -/
def State.serveCross (r : ElemRef) (w : BWord) (s : State) (d : Defer) : State :=
  match d.who with
  | .own _ _ => s
  | .cross src cell => s.modSpe src fun p => { p with
      owed := p.owed.map fun c => if c.cell = cell then c.answered w (s.clock + crossHalf s r src) else c }

theorem serveWord_eq {s : State} {r : ElemRef} {e : Elem} (he : s.elem? r = some e) (x : Nat) (w : BWord) :
    let mine := e.spe.defers.filter fun d => decide (d.word = x)
    s.serveWord r x w =
      mine.foldl (State.serveCross r w) (s.modSpe r fun p => p.freed x w mine) := by
  rw [State.serveWord, he]
  rfl

section
variable (u : ElemRef) (w : BWord) (due : Nat)

theorem crossServed_unnamed {ds : List Defer} (h : ∀ d ∈ ds, ∀ n, d.who ≠ .cross u n) :
    Elem.crossServed u w due ds = id := by
  have hnone (n : Nat) : (ds.any fun d => decide (d.who = .cross u n)) = false :=
    List.any_eq_false.mpr fun d hd => by simpa using h d hd n
  funext y
  simp only [Elem.crossServed, hnone, Bool.false_eq_true, if_false, List.map_id']
  rfl

theorem crossServed_cons (d : Defer) (ds : List Defer) (y : Elem) :
    (y.crossServed u w due [d]).crossServed u w due ds = y.crossServed u w due (d :: ds) := by
  have hcell (c : CrossCell) : (if (ds.any fun d => decide (d.who = .cross u (c.answered w due).cell)) then
        (c.answered w due).answered w due else c.answered w due) = c.answered w due := by
    split <;> rfl
  simp only [Elem.crossServed, Elem.setSpe, List.map_map, List.any_cons, List.any_nil, Bool.or_false]
  congr 2
  refine List.map_congr_left fun c _ => ?_
  by_cases hd : d.who = .cross u c.cell
  · simpa [hd] using hcell c
  · simp [hd]

end

section
variable (r : ElemRef) (w : BWord)

/-- An entry served: each element as crossServed says. -/
theorem serveCross_elem (s : State) (d : Defer) (u : ElemRef) : (s.serveCross r w d).elem? u =
    (s.elem? u).map (Elem.crossServed u w (s.clock + crossHalf s r u) [d]) := by
  cases hd : d.who with
  | own dst ct =>
    rw [crossServed_unnamed u w _ (by simp [hd]), Option.map_id_fun]
    simp only [State.serveCross, hd, id]
  | cross src cell =>
    simp only [State.serveCross, hd]
    rw [modSpe_elem]
    split
    · next hu =>
      subst hu
      refine congrArg (Option.map · _) (funext fun y => ?_)
      simp only [Elem.crossServed, List.any_cons, List.any_nil, Bool.or_false, hd, Waiter.cross.injEq, true_and,
        decide_eq_true_eq, eq_comm (a := cell)]
    · next hu =>
      rw [crossServed_unnamed u w _ (by simp [hd, Ne.symm hu]), Option.map_id_fun, id]

theorem serveCross_onlyElems (s : State) (d : Defer) : onlyElems s (s.serveCross r w d) := by
  rw [State.serveCross]
  split <;> rfl

/-- Entries served in turn. -/
theorem serveCross_foldl (ds : List Defer) (s : State) :
    let s' := ds.foldl (State.serveCross r w) s
    onlyElems s s' ∧
      ∀ u, s'.elem? u = (s.elem? u).map (Elem.crossServed u w (s.clock + crossHalf s r u) ds) := by
  induction ds generalizing s with
  | nil =>
    refine ⟨rfl, fun u => ?_⟩
    rw [crossServed_unnamed u w _ (List.forall_mem_nil _), Option.map_id_fun]
    rfl
  | cons d ds ih =>
    obtain ⟨hrest, helem⟩ := ih (s.serveCross r w d)
    have hone := serveCross_onlyElems r w s d
    refine ⟨hone.trans hrest, fun u => ?_⟩
    have hdue : (s.serveCross r w d).clock + crossHalf (s.serveCross r w d) r u = s.clock + crossHalf s r u := by
      rw [hone]
      rfl
    rw [List.foldl_cons, helem u, hdue, serveCross_elem, Option.map_map]
    exact congrArg (Option.map · _) (funext fun y => crossServed_cons u w _ d ds y)

end

/-- Serving a word, element by element. -/
theorem serveWord_elem {s : State} {r : ElemRef} {e : Elem} (he : s.elem? r = some e) (x : Nat) (w : BWord) :
    let mine := e.spe.defers.filter fun d => decide (d.word = x)
    onlyElems s (s.serveWord r x w) ∧
      ∀ u y, s.elem? u = some y → (s.serveWord r x w).elem? u = some
        ((if u = r then y.setSpe (y.spe.freed x w mine) else y).crossServed u w (s.clock + crossHalf s r u) mine) := by
  intro mine
  obtain ⟨hrest, helem⟩ := serveCross_foldl r w mine (s.modSpe r fun p => p.freed x w mine)
  rw [← serveWord_eq he] at hrest helem
  refine ⟨hrest, fun u y hy => ?_⟩
  rw [helem u, modSpe_elem]
  split
  · rw [hy]; rfl
  · rw [hy]; rfl

/-! ### The obligation -/

theorem ownReply_filter (w : BWord) (x : Nat) (ds : List Defer) :
    (ds.filter fun d => decide (d.word = x)).filterMap (Defer.ownReply w) = ds.filterMap fun d =>
      match d.who with
      | .own dst ct => if d.word = x then some (dst, w.tok ct) else none
      | .cross _ _ => none := by
  rw [List.filterMap_filter]
  refine List.filterMap_congr fun d _ => ?_
  simp only [Defer.ownReply, decide_eq_true_eq]
  cases d.who with
  | own dst ct => rfl
  | cross src cell => simp only [ite_self]

/-- Settles O27: each body by its equation, PWR by the lemma about the serving that follows it; serving a word by what it
leaves in each element. -/
theorem presenceWords : Obligations.PresenceWords := by
  refine ⟨fun s r n stall starve e f h ha => ?_, fun s r e x w he => ?_⟩
  · intro c goes b x w with_ reads p fresh rw_
    refine ⟨fun hok hp => ?_, fun hgood hp => ?_, fun hb hp hwf => pwr_serves h rfl ha hb hp hwf, fun hb hp hd => ?_,
      fun hb hp hd => ?_, fun hok => ?_⟩
    · exact fireSlot_fires rfl h (bodyPrd_present (c := c) ha rfl hok hp) rfl rfl rfl rfl
    · exact fireSlot_fires rfl h (bodyPrd_absent (c := c) ha rfl hgood hp) rfl rfl rfl rfl
    · have hbody := bodyPwr_again_halts (c := c) ha rfl hb hp hd
      exact fireSlot_then_traps (x := with_ (c.silent false) (e.spe.useW x)) (exec_pwr_again h rfl hp) h hbody
        rfl rfl rfl rfl
    · exact fireSlot_fires (exec_pwr_again h rfl hp) h (bodyPwr_again_faults (c := c) ha rfl hb hp hd) rfl rfl rfl rfl
    · exact fireSlot_fires rfl h (bodyPclr_clears (c := c) ha rfl hok) rfl rfl rfl rfl
  · intro s' tok
    obtain ⟨hrest, helem⟩ := serveWord_elem he x w
    refine ⟨hrest, ⟨_, helem r e he, ?_, ?_⟩, fun u y hy => ⟨_, helem u y hy, ?_, fun hu => ?_, ?_⟩⟩
    · rw [if_pos rfl]
      rfl
    · rw [if_pos rfl]
      exact congrArg _ (ownReply_filter w x e.spe.defers)
    · split <;> rfl
    · rw [if_neg hu]
      exact ⟨rfl, rfl⟩
    · have howed : (if u = r then y.setSpe (y.spe.freed x w (e.spe.defers.filter fun d => decide (d.word = x)))
          else y).spe.owed = y.spe.owed := by
        split <;> rfl
      simp only [Elem.crossServed, Elem.setSpe, List.any_filter, Bool.decide_and] at howed ⊢
      rw [howed]
      rfl

end Sys2Proof.Machine
end

section
/-! SUPPORT. Cross-element requests as their firings leave them (R198, R208 to R210), and the obligation about them. -/

namespace Sys2Proof.Machine

open Sys2Proof Sys2Proof.Safety

/-! ### The firing of a cross request (R208, R209; log 26) -/

/-- The cell of the reply that a cross request is owed. -/
def Ctx.crossCell (c : Ctx) (op : CrossOp) : CrossCell :=
  ⟨c.s.nextId, c.f.dst.toNat, op.writes, otagCtag c.f (c.e.source c.f.srca.toNat), true, none, none, 0⟩

/-- A firing that takes a credit and is owed a reply. -/
def Ctx.owes (c : Ctx) (cell : CrossCell) (o : Bool) : Fired :=
  { c.silent o with
    e := c.e.setSpe { c.e.spe with credits := c.e.spe.credits - 1, owed := c.e.spe.owed ++ [cell] }, ids := 1 }

/-- The request as it travels to an element. -/
def Ctx.crossReq (c : Ctx) (op : CrossOp) (b : Src) (t : ElemRef) : CrossReq :=
  ⟨c.e.ref, c.s.nextId, op, (c.e.source c.f.srca.toNat).val.toNat % 2 ^ 13, b.val, b.tag, b.res,
    c.s.clock + crossHalf c.s c.e.ref t⟩

theorem writes_eq (op : CrossOp) : decide (op = .wr ∨ op = .wrP) = op.writes := by
  cases op <;> rfl

section
variable {c : Ctx} (op : CrossOp) (b : Src)

theorem crossFire_reaches {t : ElemRef}
    (ht : c.s.crossTarget c.e.ref (c.e.source c.f.srca.toNat).val = some t) :
    crossFire c (c.e.source c.f.srca.toNat) op b =
      { c.owes (c.crossCell op) true with cross := [(t, c.crossReq op b t)] } := by
  rw [Ctx.crossReq, Ctx.crossCell, ← writes_eq, ← localWord_eq, crossFire]
  simp only [ht]
  rfl

/-- An address that names no SPE (R198). -/
theorem crossFire_astray (ht : c.s.crossTarget c.e.ref (c.e.source c.f.srca.toNat).val = none) :
    crossFire c (c.e.source c.f.srca.toNat) op b =
      c.owes { c.crossCell op with
        reply := some (faultTok Cause.xaddr (fld (c.e.source c.f.srca.toNat).val 0 24)), due := c.s.clock + 8
        fault := if c.f.dst = 15 then some (c.trap Cause.xaddr 0) else none } false := by
  rw [Ctx.crossCell, ← writes_eq, crossFire]
  simp only [ht]
  rfl

theorem crossRd_fires (ha : good c.e c.f.srca .int) :
    crossRd op c = .ok (crossFire c (c.e.source c.f.srca.toNat) op Src.zero) := by
  rw [crossRd, read1_good ha]
  rfl

theorem crossWr_fires (ha : good c.e c.f.srca .int) (hb : clean c.e c.f.srcb) :
    crossWr op c = .ok (crossFire c (c.e.source c.f.srca.toNat) op (c.e.source c.f.srcb.toNat)) := by
  rw [crossWr, read2_good ha ⟨hb, rfl⟩]
  rfl

end

/-! ### The obligation -/

/-- Settles O29: each form fires as crossFire says, for an address that names an SPE and for one that names none. -/
theorem crossRequests : Obligations.CrossRequests := by
  intro s r n stall starve e f h ha c a b owes asks
  obtain rfl : e.ref = r := elem_ref h.2.1
  have asked {i : Instr} {body : Ctx → Except ETrap Fired} {op : CrossOp} {v : Src} (hi : exec i s = fireSlot s f body)
      (hb : body c = .ok (crossFire c (e.source f.srca.toNat) op v)) : asks i op v.val v.tag v.res := by
    refine ⟨fun t ht => ?_, fun ht => ?_⟩
    · exact fireSlot_firesThen h (hb.trans (congrArg _ (crossFire_reaches op v ht))) hi rfl
    · exact fireSlot_fires hi h (hb.trans (congrArg _ (crossFire_astray op v ht))) rfl rfl rfl rfl
  refine ⟨?_, ?_, fun hb => ⟨?_, ?_⟩⟩
  · exact asked rfl (crossRd_fires (c := c) .rd ha)
  · exact asked rfl (crossRd_fires (c := c) .rdP ha)
  · exact asked rfl (crossWr_fires (c := c) .wr ha hb)
  · exact asked rfl (crossWr_fires (c := c) .wrP ha hb)

end Sys2Proof.Machine
end

section
/-! SUPPORT. Port microprograms (R215 to R219): MPGO and MPST, what a step's write and reads come to, suspension and
completion, and the obligation about them. -/

namespace Sys2Proof.Machine

open Sys2Proof Sys2Proof.Safety

/-! ### MPGO (R215, R216) -/

/-- The class that the descriptor a gives SRCB: a scale has that of its format, and any word does where none is read. -/
def scaleCls (d : Word) : Cls := if mpOp d = 1 then (if mpFmt d = 0 then .int else .fp 4) else .none

section
variable {c : Ctx} (ha : good c.e c.f.srca .int)
  (hb : good c.e c.f.srcb (scaleCls (c.e.source c.f.srca.toNat).val))
include ha hb

theorem bodyMpgo_starts (hok : mpBad (c.e.source c.f.srca.toNat).val = false) :
    bodyMpgo c = .ok { c.silent true with e := c.e.setSpe { c.e.spe with mp := { MicroProg.idle with
      st := 1, desc := (c.e.source c.f.srca.toNat).val
      scale := BitVec.ofNat 64 ((c.e.source c.f.srcb.toNat).val.toNat % 2 ^ 32)
      dst := c.f.dst.toNat, acc := c.e.spe.mp.acc } } } := by
  rw [scaleCls] at hb
  rw [bodyMpgo, read2_good ha hb, ← valueOf_eq_mod]
  exact if_neg (ne_true_of_eq_false hok)

theorem bodyMpgo_badDesc (hbad : mpBad (c.e.source c.f.srca.toNat).val = true) :
    bodyMpgo c = .error (c.trap Cause.mpdesc 0) := by
  rw [scaleCls] at hb
  rw [bodyMpgo, read2_good ha hb]
  exact if_pos hbad

end

/-! ### MICROPROGRAM_STEP: the write of the clock (R212, R216) -/

/-- The bank after the write reserved for the clock, if there is one. -/
def SpeState.mpWritten (p : SpeState) : SpeState :=
  if p.resv.mpWrite ≠ 0 then
    match p.mp.write with
    | some w => p.write w.word { w.val with pres := (p.now w.word).pres }
    | none => p
  else p

/-- The microprogram after that write. -/
def SpeState.mpNext (p : SpeState) : MicroProg := if p.resv.mpWrite ≠ 0 then p.mp.nextSum else p.mp

/-- What the reads reserved for the clock come to, if there are any. -/
def SpeState.mpRead (p : SpeState) (detail : Nat) : MpReads :=
  if p.resv.mpRead ≠ 0 then p.mpReads p.mpNext detail else ⟨p.mpNext, false, none⟩

/-- A microprogram whose writes are all performed has its completion token to place. -/
def MicroProg.ended (m : MicroProg) : MicroProg := if m.finished then { m with done := some (orderTok 2) } else m

/-- The bank after a step whose reads leave the microprogram m. -/
def SpeState.mpStepped (p : SpeState) (m : MicroProg) : SpeState :=
  { p.mpWritten with mp := m.ended, resv := { p.mpWritten.resv with mpRead := 0, mpWrite := 0 } }

section
variable {p : SpeState}

theorem mpWritten_none (h : p.resv.mpWrite = 0) : p.mpWritten = p := if_neg (not_not.mpr h)

theorem mpNext_none (h : p.resv.mpWrite = 0) : p.mpNext = p.mp := if_neg (not_not.mpr h)

theorem mpWritten_now (hwf : swf BWord.zero p.bank = true) {w : MpWrite} (hw : p.mp.write = some w)
    (h : p.resv.mpWrite ≠ 0) (k : Nat) :
    p.mpWritten.now k = if k = w.word then { w.val with pres := (p.now k).pres } else p.now k := by
  rw [SpeState.mpWritten, if_pos h, hw, write_now hwf]
  split
  · next hk => rw [hk]
  · rfl

end

theorem ended_write (m : MicroProg) : m.ended.write = m.write := by
  rw [MicroProg.ended]
  split <;> rfl

theorem ended_acc (m : MicroProg) : m.ended.acc = m.acc := by
  rw [MicroProg.ended]
  split <;> rfl

theorem microprogramStep_sets {s : State} {r : ElemRef} {e : Elem} (h : elemAct s r e) {m : MicroProg}
    (hm : e.spe.mpRead (freeDetail s) = ⟨m, false, none⟩) :
    setsElem .microprogramStep s r (e.setSpe (e.spe.mpStepped m)) := by
  have hexec : exec .microprogramStep s = .next (s.modElem r fun y => y.setSpe (e.spe.mpStepped m)) := by
    refine (withElem_there h _).trans ?_
    rw [SpeState.mpRead, SpeState.mpNext] at hm
    simp only [hm, Bool.false_eq_true, if_false]
    rfl
  exact setsElem_of_modElem hexec h.2 fun _ hr => hr

/-- A clock with reads and no write: the bank stays, and the microprogram goes on as the reads leave it. -/
theorem microprogramStep_reads {s : State} {r : ElemRef} {e : Elem} (h : elemAct s r e) (hwrite : e.spe.resv.mpWrite = 0)
    (hread : e.spe.resv.mpRead ≠ 0) {m : MicroProg}
    (hm : e.spe.mpReads e.spe.mp (freeDetail s) = ⟨m, false, none⟩) :
    ∃ e', setsElem .microprogramStep s r e' ∧ e'.spe.bank = e.spe.bank ∧ e'.spe.mp.write = m.write ∧
      e'.spe.mp.acc = m.acc := by
  have hreads : e.spe.mpRead (freeDetail s) = ⟨m, false, none⟩ := by
    rw [SpeState.mpRead, if_pos hread, mpNext_none hwrite, hm]
  have hbank : e.spe.mpWritten.bank = e.spe.bank := by rw [mpWritten_none hwrite]
  exact ⟨_, microprogramStep_sets h hreads, hbank, ended_write m, ended_acc m⟩

/-! ### MICROPROGRAM_STEP: the reads of the clock (R216, R217) -/

section
variable {p : SpeState} {m : MicroProg} (hphase : m.phase = .read) (hgood : setHas p.bad m.src = false)
  (hres : (p.read m.src).res = residue (p.read m.src).val) (hcls : m.rejects (p.read m.src) = false)
include hphase hgood hres hcls

/-- A copy or a sum reads the source alone. -/
theorem mpReads_source (hop : mpOp m.desc ≠ 1) (detail : Nat) :
    p.mpReads m detail = ⟨m.mpDo (p.read m.src) BWord.zero, false, none⟩ := by
  simp only [SpeState.mpReads, hphase, if_neg hop, hgood, hcls, Bool.false_eq_true, if_false, if_pos hres]

theorem mpReads_both (hop : mpOp m.desc = 1) (hshare : m.src % 8 ≠ m.dstW % 8) (hdone : m.done = none)
    (hgood' : setHas p.bad m.dstW = false) (hres' : (p.read m.dstW).res = residue (p.read m.dstW).val)
    (hcls' : m.rejects (p.read m.dstW) = false) (detail : Nat) :
    p.mpReads m detail = ⟨m.mpDo (p.read m.src) (p.read m.dstW), false, none⟩ := by
  have hshares : m.shares = false := decide_eq_false hshare
  simp only [SpeState.mpReads, hphase, if_pos hop, hshares, hgood, hcls, hgood', hcls', hdone, Option.isSome_none,
    Bool.false_eq_true, if_false, if_pos hres, if_pos hres']

end

/-- A copy takes words of any class, the other operations those of their format (R216). -/
theorem rejects_copy {m : MicroProg} (hop : mpOp m.desc = 0) (w : BWord) : m.rejects w = false := by
  simp only [MicroProg.rejects, hop, bne_self_eq_false, Bool.false_and]

theorem rejects_class {m : MicroProg} {w : BWord}
    (h : (if mpFmt m.desc = 0 then Cls.int else Cls.fp 4).accepts w.tag = true) : m.rejects w = false := by
  rw [MicroProg.rejects, h, Bool.not_true, Bool.and_false]

theorem laneN_zero (w k : Nat) : laneN w k 0 = 0 := by
  simp only [laneN, fldN, BitVec.ofNat_eq_ofNat, BitVec.toNat_ofNat, Nat.zero_mod, Nat.zero_div]

theorem advance_acc (m : MicroProg) : m.advance.acc = m.acc := by
  rw [MicroProg.advance]
  split <;> rfl

section
variable {m : MicroProg} (x y : BWord)

theorem mpDo_copy (hop : mpOp m.desc = 0) :
    m.mpDo x y = { m.advance with write := some ⟨m.dstW, ⟨x.val, x.tag, x.res, false⟩⟩ } := by
  simp only [MicroProg.mpDo, hop, mpPut]

theorem mpDo_scale (hop : mpOp m.desc = 1) :
    let v := map2Lanes 32 (mpLane (mpFmt m.desc) (valueOf m.scale)) x.val y.val
    m.mpDo x y = { m.advance with write := some ⟨m.dstW, ⟨v, m.tag, residue v, false⟩⟩ } := by
  simp only [MicroProg.mpDo, hop, mpPut]

theorem mpDo_sum (hop : mpOp m.desc = 2) :
    let v := map2Lanes 32 (sumLane (mpFmt m.desc)) (if m.row = 0 then 0 else m.acc.getD m.word 0) x.val
    m.mpDo x y = { m.advance with acc := m.acc.set m.word v } := by
  simp only [MicroProg.mpDo, hop]

end

/-! ### MICROPROGRAM_SUSPEND and MICROPROGRAM_COMPLETION (R216, R218) -/

/-- The element with a state of its port microprogram. -/
def Elem.setMp (e : Elem) (m : MicroProg) : Elem := e.setSpe { e.spe with mp := m }

section
variable {s : State} {r : ElemRef} {e : Elem} (h : elemAct s r e)
include h

theorem microprogramSuspend_suspends (hst : e.spe.mp.st = 2) (hb : e.spe.mp.atBoundary = true) :
    setsElem .microprogramSuspend s r (e.setMp { e.spe.mp with st := 3 }) := by
  have hexec : exec .microprogramSuspend s =
      .next (s.modSpe r fun p => { p with mp := { e.spe.mp with st := 3 } }) := by
    refine (withElem_there h _).trans ?_
    simp only [hst, hb, and_self, if_true]
  exact setsElem_of_modElem hexec h.2 fun _ hr => hr

theorem exec_microprogramSuspend_waits (hw : e.spe.mp.st ≠ 2 ∨ e.spe.mp.atBoundary = false) :
    exec .microprogramSuspend s = .next s := by
  refine (withElem_there h _).trans ?_
  have hnot : ¬(e.spe.mp.st = 2 ∧ e.spe.mp.atBoundary = true) :=
    fun ⟨hst, hb⟩ => hw.elim (· hst) (ne_true_of_eq_false · hb)
  simp only [if_neg hnot]

variable {t : Tok} (hst : e.spe.mp.st = 1) (ht : e.spe.mp.done = some t)
include hst ht

theorem microprogramCompletion_places (hd : e.spe.mp.dst ≠ 15) (hsp : e.spaceFor e.spe.mp.dst = true) :
    setsElem .microprogramCompletion s r
      (s.placed e e.spe.mp.dst t (e.setMp { e.spe.mp with st := 0, done := none })) := by
  have href : e.ref = r := elem_ref h.2
  refine setsElem_of_modElem (f := fun _ => s.placed e e.spe.mp.dst t _) ?_ h.2 fun _ _ => href
  refine (withElem_there h _).trans ?_
  simp only [hst, ht, ne_eq, not_true, if_false, if_neg hd, if_pos hsp]
  rfl

theorem microprogramCompletion_silent (hd : e.spe.mp.dst = 15) (hf : t.ctag ≠ Ctag.fault) :
    setsElem .microprogramCompletion s r (e.setMp { e.spe.mp with st := 0, done := none }) := by
  have hfault : t.isFault = false := beq_eq_false_iff_ne.mpr hf
  have href : e.ref = r := elem_ref h.2
  refine setsElem_of_modElem (f := fun _ => e.setMp _) ?_ h.2 fun _ _ => href
  refine (withElem_there h _).trans ?_
  simp only [hst, ht, ne_eq, not_true, if_false, if_pos hd, hfault, Bool.false_eq_true, false_and]
  rfl

end

/-! ### The obligation -/

/-- Settles O28: the instructions by their bodies; a step by its write and by what the reads of each operation give;
suspension and completion by their lemmas. -/
theorem microprograms : Obligations.Microprograms := by
  refine ⟨fun s r n stall starve e f h => ?_, fun s r e h hwf => ?_⟩
  · intro c goes d b scaled k m with_ status
    refine ⟨fun ha hb => ⟨fun hok => ?_, fun hbad => ?_⟩, ?_, ?_, ?_⟩
    · exact fireSlot_fires rfl h (bodyMpgo_starts (c := c) ha hb hok) rfl rfl rfl rfl
    · exact fireSlot_traps rfl h (bodyMpgo_badDesc (c := c) ha hb hbad)
    · exact fireSlot_fires (body := bodyMpst) rfl h rfl rfl rfl rfl rfl
    · exact fireSlot_fires (body := bodyMpstSusp) rfl h rfl rfl rfl rfl rfl
    · exact fireSlot_fires (body := bodyMpstRes) rfl h rfl rfl rfl rfl rfl
  · intro p m src dst x y tag step
    refine ⟨fun w hw hwrite hread => ?_, fun hwrite hread hphase hdone hsrc => ⟨fun hop => ?_,
      fun hop hshare hdst hx hy => ?_, fun hop hword _ hx => ?_⟩, fun hst hb => microprogramSuspend_suspends h hst hb,
      fun hw => exec_microprogramSuspend_waits h hw, fun t hst ht => ⟨fun hd hsp => ?_, fun hd hf => ?_⟩⟩
    · exact ⟨_, microprogramStep_sets h (if_neg (not_not.mpr hread)), mpWritten_now hwf hw hwrite⟩
    · obtain ⟨e', hstep, hbank, hput, hacc⟩ := microprogramStep_reads h hwrite hread
        (mpReads_source hphase hsrc.1 hsrc.2 (rejects_copy hop x) (by rw [hop]; decide) _)
      rw [mpDo_copy _ _ hop] at hput hacc
      exact ⟨e', hstep, hbank, hput, hacc.trans (advance_acc m)⟩
    · obtain ⟨e', hstep, hbank, hput, -⟩ := microprogramStep_reads h hwrite hread
        (mpReads_both hphase hsrc.1 hsrc.2 (rejects_class hx) hop hshare hdone hdst.1 hdst.2 (rejects_class hy) _)
      rw [mpDo_scale _ _ hop] at hput
      exact ⟨e', _, hstep, hbank, hput, fun k hk => map2Lanes_lane hk _ _ _⟩
    · obtain ⟨e', hstep, hbank, -, hacc⟩ := microprogramStep_reads h hwrite hread
        (mpReads_source hphase hsrc.1 hsrc.2 (rejects_class hx) (by rw [hop]; decide) _)
      rw [mpDo_sum _ _ hop] at hacc
      refine ⟨e', hstep, hbank, fun k hk => ?_⟩
      rw [hacc, List.getD_eq_getElem?_getD, List.getElem?_set_self hword, Option.getD_some, map2Lanes_lane hk]
      split
      · rw [laneN_zero]
        rfl
      · rfl
    · exact ⟨_, microprogramCompletion_places h hst ht hd hsp, placed_putsTok s e m.dst t _⟩
    · exact microprogramCompletion_silent h hst ht hd hf

end Sys2Proof.Machine
end

section
/-! SUPPORT. BANK_CLOCK (R212 to R214, R216): what it reserves for the microprogram's write, and the obligation about the port
of a bank, which fails there: its clause about the first sum leaves out that no completion token waits to be placed. -/

namespace Sys2Proof.Machine

open Sys2Proof Sys2Proof.Safety

/-- A step leaves one element in its place. -/
theorem setsElem_unique {i : Instr} {s : State} {r : ElemRef} {a b : Elem} (ha : setsElem i s r a)
    (hb : setsElem i s r b) : a = b := by
  obtain ⟨s1, hexec1, helem1, -⟩ := ha
  obtain ⟨s2, hexec2, helem2, -⟩ := hb
  have hsame : s1 = s2 := Host.Outcome.next.inj (hexec1.symm.trans hexec2)
  exact Option.some.inj (helem1.symm.trans (hsame ▸ helem2))

/-- The slot of the write that a microprogram has to perform. -/
def MicroProg.writeSlot (m : MicroProg) : Nat :=
  match m.write with
  | some w => subBit w.word
  | none => 0

/-- The write reserved for the next clock is that of the microprogram once its first sum, if it is due, stands to be
written. -/
theorem bankClock_mpWrite {s : State} {r : ElemRef} {e : Elem} (h : elemAct s r e) : ∃ e', setsElem .bankClock s r e' ∧
    e'.spe.resv.mpWrite = (e.mpFollow (s.tileTraps e)).sumsFrom.writeSlot :=
  ⟨_, setsElem_of_modElem (withElem_there h _) h.2 fun _ hr => hr, rfl⟩

/-! ### The state that refutes the obligation -/

/-- A scratchpad element whose microprogram sums one row of one word, has read it, and has its completion token to place
although its phase is not that of writing the sums. -/
def summedBank : Elem :=
  { Elem.blank ⟨0, 0, 0, 1⟩ 0 1 with
    stopped := false
    spe := { SpeState.init with mp := { MicroProg.idle with
      st := 1, desc := BitVec.ofNat 64 (2 * 2 ^ 62), row := 1, done := some (orderTok 2) } } }

/-- The machine after reset, at the end of that element's clock. -/
def atSummedBank : State := { State.reset with actor := .elem summedBank.ref, elems := [summedBank] }

theorem summedBank_act : elemAct atSummedBank summedBank.ref summedBank := ⟨rfl, rfl⟩

theorem summedBank_calm : atSummedBank.tileTraps summedBank = false := by decide +kernel

/-- The completion token keeps the sums from being handed over, so nothing is reserved for a write. -/
theorem summedBank_writeSlot : (summedBank.mpFollow false).sumsFrom.writeSlot = 0 := by decide +kernel

/-- Refutes O34: its clause about BANK_CLOCK has the first sum written once the last row of the sums has been read, in any
state of phase read. The model asks besides that no completion token waits; with one waiting, the clock reserves no write. -/
theorem not_bankPort : ¬ Obligations.BankPort := by
  intro h
  obtain ⟨hactor, helem⟩ := summedBank_act
  obtain ⟨-, -, -, e', hsets, -, -, -, -, -, -, -, hsum⟩ := (h atSummedBank summedBank.ref summedBank helem rfl).1 hactor
  obtain ⟨hclaimed, -⟩ := hsum rfl summedBank_calm rfl rfl rfl rfl
  obtain ⟨e1, hsets1, hmodel⟩ := bankClock_mpWrite summedBank_act
  rw [summedBank_calm, summedBank_writeSlot, ← setsElem_unique hsets hsets1, hclaimed] at hmodel
  exact absurd hmodel (by decide)

end Sys2Proof.Machine
end

section
/-! SUPPORT. Tile registers and products of a matrix element as its slots set them going (R225 to R233, R235 to R241): what
each body computes or traps with, and the obligation about them. -/

namespace Sys2Proof.Machine

open Sys2Proof Sys2Proof.Safety

/-! ### What a trap names (R430) -/

/-- A tile register is named by its number alone. -/
theorem mxInfo_tile (n : Nat) : mxInfo false n = n := Nat.zero_add n

/-! ### Shape, scale and fill of a tile register (R225 to R228, R231, R235) -/

/-- A tile register with the shape of a descriptor, empty. -/
def TReg.shaped (t : TReg) (d : Word) : TReg :=
  { t with
    st := 1, fmt := fld d 0 4, rows := fld d 4 6 + 1, cb := (fld d 10 9 + 1) * 8, col := bitAt d 19, fill := 0
    sigma := 0, ovr := false, eovr := 0, dirty := false, cause := 0 }

/-- A tile register with the scale of a descriptor. -/
def TReg.rescaled (t : TReg) (d : Word) : TReg := { t with sigma := fld d 0 8, ovr := bitAt d 8, eovr := fld d 9 8 }

/-- The scales that a tile register refuses: a reserved bit, an exponent given to a format without blocks, the exponent of
NaN, a register without a shape. -/
def TReg.refusesScale (t : TReg) (d : Word) : Prop :=
  fld d 17 47 ≠ 0 ∨ (bitAt d 8 = true ∧ ¬(t.fmt = 11 ∨ t.fmt = 12 ∨ t.fmt = 13)) ∨
    (bitAt d 8 = true ∧ fld d 9 8 = 0xFF) ∨ t.st = 0

/-- The matrix state once tile register n has taken word a from source code. -/
def MxeState.filled (x : MxeState) (code n : Nat) (a : Src) : MxeState :=
  let t := x.treg n
  { x.setT n (t.store a.val) with
    parts := if a.tag.toNat = t.fmt then partsAfter x.parts code n t.fmt else x.parts }

section
variable {c : Ctx}

section
variable (ha : good c.e c.f.srca .int)
include ha

theorem bodyTcfg_shapes (hok : tcfgBad (c.e.source c.f.srca.toNat).val = false) :
    let x := c.e.mxe
    let m := c.f.srcb.toNat
    bodyTcfg c = .ok (c.mx (x.setT m ((x.treg m).shaped (c.e.source c.f.srca.toNat).val)) true) := by
  rw [bodyTcfg, read1_good ha]
  exact if_neg (ne_true_of_eq_false hok)

theorem bodyTcfg_badDesc (hbad : tcfgBad (c.e.source c.f.srca.toNat).val = true) :
    bodyTcfg c = .error (c.trap Cause.mxdesc (mxInfo false c.f.srcb.toNat)) := by
  rw [bodyTcfg, read1_good ha]
  exact if_pos hbad

theorem bodyTscale_rescales
    (hok : ¬(c.e.mxe.treg c.f.srcb.toNat).refusesScale (c.e.source c.f.srca.toNat).val) :
    let x := c.e.mxe
    let m := c.f.srcb.toNat
    bodyTscale c = .ok (c.mx (x.setT m ((x.treg m).rescaled (c.e.source c.f.srca.toNat).val)) true) := by
  rw [bodyTscale, read1_good ha]
  exact if_neg hok

theorem bodyTscale_badDesc (hbad : (c.e.mxe.treg c.f.srcb.toNat).refusesScale (c.e.source c.f.srca.toNat).val) :
    bodyTscale c = .error (c.trap Cause.mxdesc (mxInfo false c.f.srcb.toNat)) := by
  rw [bodyTscale, read1_good ha]
  exact if_pos hbad

end

section
variable (ha : clean c.e c.f.srca)
include ha

theorem bodyTfill_badState {t : TReg} (ht : c.e.mxe.treg c.f.srcb.toNat = t) (hst : t.st = 0 ∨ t.st = 3 ∨ t.st = 4) :
    bodyTfill c = .error (c.trap Cause.mxstate (mxInfo false c.f.srcb.toNat)) := by
  subst ht
  rw [bodyTfill, read1_clean ha]
  exact if_pos hst

section
variable {t : TReg} (ht : c.e.mxe.treg c.f.srcb.toNat = t) (hst : ¬(t.st = 0 ∨ t.st = 3 ∨ t.st = 4))
include ht hst

theorem bodyTfill_fault (hct : (c.e.source c.f.srca.toNat).ctag = Ctag.fault) :
    bodyTfill c = .ok (c.mx (c.e.mxe.setT c.f.srcb.toNat
      { t with st := 4, cause := fld (c.e.source c.f.srca.toNat).val 48 16 }) false) := by
  subst ht
  rw [bodyTfill, read1_clean ha]
  exact (if_neg hst).trans (if_pos hct)

variable (hct : (c.e.source c.f.srca.toNat).ctag ≠ Ctag.fault)
include hct

theorem bodyTfill_otherFormat
    (htag : (c.e.source c.f.srca.toNat).tag ≠ 0 ∧ (c.e.source c.f.srca.toNat).tag.toNat ≠ t.fmt) :
    bodyTfill c = .error (c.fmt c.f.srca.toNat (c.e.source c.f.srca.toNat).tag) := by
  subst ht
  rw [bodyTfill, read1_clean ha]
  exact (if_neg hst).trans ((if_neg hct).trans (if_pos htag))

theorem bodyTfill_fills
    (htag : ¬((c.e.source c.f.srca.toNat).tag ≠ 0 ∧ (c.e.source c.f.srca.toNat).tag.toNat ≠ t.fmt)) :
    bodyTfill c = .ok (c.mx (c.e.mxe.filled c.f.srca.toNat c.f.srcb.toNat (c.e.source c.f.srca.toNat)) true) := by
  subst ht
  rw [bodyTfill, read1_clean ha]
  exact (if_neg hst).trans ((if_neg hct).trans (if_neg htag))

end

end

/-! ### TZERO, TREL, TSTAT and TDRAIN (R230, R231, R237 to R241) -/

theorem bodyTzero_eq (c : Ctx) :
    bodyTzero c = .ok (c.mx (c.e.mxe.setA c.f.lane.toNat ⟨[], 0, c.f.srca == 1, 0, 0, 0⟩) true) := rfl

theorem bodyTrel_unset (hst : (c.e.mxe.treg c.f.srcb.toNat).st = 0) : bodyTrel c = .ok (c.mx c.e.mxe true) :=
  congrArg (fun x => Except.ok (c.mx x true)) (if_pos hst)

theorem bodyTrel_empties (hst : (c.e.mxe.treg c.f.srcb.toNat).st ≠ 0) :
    let m := c.f.srcb.toNat
    let t := c.e.mxe.treg m
    bodyTrel c = .ok (c.mx (c.e.mxe.setT m { t with st := 1, fill := 0, dirty := false, cause := 0 }) true) :=
  congrArg (fun x => Except.ok (c.mx x true)) (if_neg hst)

/-- The status that TSTAT reads under number k: those of the tile registers stand before those of the accumulators. -/
def MxeState.status (x : MxeState) (k : Nat) : Word := if k < 8 then (x.treg k).status else x.accStatus (k - 8)

theorem bodyTstat_eq (c : Ctx) :
    bodyTstat c = .ok (c.result (c.e.mxe.status c.f.srca.toNat) 0 (c.e.mxe.status c.f.srca.toNat != 0)) := rfl

theorem bodyTdrain_eq (c : Ctx) :
    bodyTdrain c = .ok (c.mx { c.e.mxe with drain := some ⟨c.f.srca.toNat, c.f.srcb.toNat, c.f.lane.getLsbD 0,
      c.f.lane.getLsbD 1, c.f.dst.toNat, 0, 0, c.s.clock + 1⟩ } ((c.e.mxe.acc c.f.srca.toNat).st != 3)) := rfl

end

/-! ### A firing of the array (R232, R233, R236) -/

/-- A free array starts the firing in the next clock; a busy one takes it behind the firing in progress. -/
theorem accept_eq (x : MxeState) (clock : Nat) (j : ArrJob) : x.accept clock j =
    if x.run = none then { x with run := some { j with start := clock + 1 } } else { x with next := some j } := by
  rw [MxeState.accept]
  cases x.run <;> rfl

/-- The cause that a product is poisoned with: the first operand's, else the second's. -/
theorem poison_or (a b : TReg) :
    a.poison.or b.poison = if a.st = 4 then some a.cause else if b.st = 4 then some b.cause else none := by
  rw [TReg.poison, TReg.poison]
  by_cases ha : a.st = 4
  · rw [if_pos ha, if_pos ha]
    rfl
  · rw [if_neg ha, if_neg ha]
    rfl

/-- A register that TACC accepts is full unless it is poisoned. -/
theorem poison_isNone {t : TReg} (h : t.st = 3 ∨ t.st = 4) : t.poison.isNone = (t.st == 3) := by
  rw [TReg.poison]
  rcases h with h | h <;> rw [h] <;> rfl

section
variable {c : Ctx} {a b : TReg} (ha : c.e.mxe.treg c.f.srca.toNat = a) (hb : c.e.mxe.treg c.f.srcb.toNat = b)
include ha hb

theorem bodyTmma_badFirst (hbad : a.k ≠ b.k ∨ 32 < a.rows) :
    bodyTmma c = .error (c.trap Cause.mxshape (mxInfo false c.f.srca.toNat)) := by
  subst ha hb
  exact if_pos hbad

section
variable (hok : ¬(a.k ≠ b.k ∨ 32 < a.rows))
include hok

theorem bodyTmma_badSecond (hbad : 32 < b.rows) :
    bodyTmma c = .error (c.trap Cause.mxshape (mxInfo false c.f.srcb.toNat)) := by
  subst ha hb
  exact (if_neg hok).trans (if_pos hbad)

section
variable (hrows : ¬32 < b.rows) {d : Acc} (hd : c.e.mxe.acc c.f.lane.toNat = d)
include hrows hd

theorem bodyTmma_formatFirst (hfmt : mxAccepts d.kind a.fmt = false) :
    bodyTmma c = .error (c.trap Cause.fmtMismatch (mxFmtInfo c.f.srca.toNat a.fmt)) := by
  subst ha hb hd
  exact (if_neg hok).trans ((if_neg hrows).trans (if_pos (congrArg not hfmt)))

section
variable (hfa : mxAccepts d.kind a.fmt = true)
include hfa

theorem bodyTmma_formatSecond (hfmt : mxAccepts d.kind b.fmt = false) :
    bodyTmma c = .error (c.trap Cause.fmtMismatch (mxFmtInfo c.f.srcb.toNat b.fmt)) := by
  have hfirst : (!mxAccepts d.kind a.fmt) = false := congrArg not hfa
  subst ha hb hd
  exact (if_neg hok).trans ((if_neg hrows).trans ((if_neg (ne_true_of_eq_false hfirst)).trans
    (if_pos (congrArg not hfmt))))

/-- A product takes the clocks of its rows' length at the slower of the two formats' rates (R233). -/
theorem bodyTmma_takes (hfb : mxAccepts d.kind b.fmt = true) :
    bodyTmma c = .ok (c.mx (c.e.mxe.accept c.s.clock ⟨c.f.lane.toNat, c.f.srca.toNat, some c.f.srcb.toNat, 0,
      ceilDiv (a.k * 1024) (min (mxRate a.fmt) (mxRate b.fmt)), a.poison.or b.poison, []⟩)
      ((a.poison.or b.poison).isNone && d.st != 3)) := by
  have hfirst : (!mxAccepts d.kind a.fmt) = false := congrArg not hfa
  have hsecond : (!mxAccepts d.kind b.fmt) = false := congrArg not hfb
  subst ha hb hd
  refine (if_neg hok).trans ((if_neg hrows).trans ((if_neg (ne_true_of_eq_false hfirst)).trans
    ((if_neg (ne_true_of_eq_false hsecond)).trans ?_)))
  cases (c.e.mxe.treg c.f.srca.toNat).poison <;> rfl

end
end
end
end

section
variable {c : Ctx} {t : TReg} (ht : c.e.mxe.treg c.f.srcb.toNat = t)
include ht

theorem bodyTacc_badState (hst : t.st ≠ 3 ∧ t.st ≠ 4) :
    bodyTacc c = .error (c.trap Cause.mxstate (mxInfo false c.f.srcb.toNat)) := by
  subst ht
  exact if_pos hst

section
variable (hst : ¬(t.st ≠ 3 ∧ t.st ≠ 4)) {d : Acc} (hd : c.e.mxe.acc c.f.lane.toNat = d)
include hst hd

theorem bodyTacc_otherFormat (hfmt : t.fmt ≠ if d.kind then 1 else 4) :
    bodyTacc c = .error (c.trap Cause.fmtMismatch (mxFmtInfo c.f.srcb.toNat t.fmt)) := by
  subst ht hd
  exact (if_neg hst).trans (if_pos hfmt)

variable (hfmt : t.fmt = if d.kind then 1 else 4)
include hfmt

theorem bodyTacc_badShape (hbad : 32 < t.rows ∨ 32 < t.cb / 4) :
    bodyTacc c = .error (c.trap Cause.mxshape (mxInfo false c.f.srcb.toNat)) := by
  subst ht hd
  exact (if_neg hst).trans ((if_neg (not_not.mpr hfmt)).trans (if_pos hbad))

/-- TACC takes a clock for each row of its register (R236). -/
theorem bodyTacc_takes (hok : ¬(32 < t.rows ∨ 32 < t.cb / 4)) :
    bodyTacc c = .ok (c.mx (c.e.mxe.accept c.s.clock
      ⟨c.f.lane.toNat, c.f.srcb.toNat, none, 0, t.rows, t.poison, []⟩) (t.poison.isNone && d.st != 3)) := by
  subst ht hd
  exact (if_neg hst).trans ((if_neg (not_not.mpr hfmt)).trans (if_neg hok))

end
end

/-! ### The obligation -/

section
variable {s : State} {r : ElemRef} {n stall starve : Nat} {e : Elem} {f : SlotF} (h : elemThere s r n stall starve e)
  {i : Instr} {body : Ctx → Except ETrap Fired} (hi : exec i s = fireSlot s f body)
include h hi

/-- A slot whose computation changes the matrix state fires as one that changes it and writes nothing to DST. -/
theorem mx_fires {o : Bool} {y : MxeState} (hb : body ⟨s, e, n, f⟩ = .ok (Ctx.mx ⟨s, e, n, f⟩ y o)) :
    fires i s r n stall starve e f { Ctx.silent ⟨s, e, n, f⟩ o with e := { e with mxe := y } } :=
  fireSlot_fires hi h hb rfl rfl rfl rfl

theorem mx_traps {cause m : Nat}
    (hb : body ⟨s, e, n, f⟩ = .error (Ctx.trap ⟨s, e, n, f⟩ cause (mxInfo false m))) :
    trapsWith i s r ⟨cause, eDetail e.ref.site n m, none⟩ := by
  rw [mxInfo_tile] at hb
  exact fireSlot_traps hi h hb

end

/-- Settles O30: each body by the branch its registers take, as a firing that changes the matrix state or a trap; a firing of
the array by what accept does with it. -/
theorem tilesAndProducts : Obligations.TilesAndProducts := by
  refine ⟨fun s r n stall starve e f h => ?_, fun s r n stall starve e f h => ?_⟩
  · intro c x goes traps a d m t cfg bx wrong filled status
    have unfilled (h0 : t.st ≠ 0) (h3 : t.st ≠ 3) (h4 : t.st ≠ 4) : ¬(t.st = 0 ∨ t.st = 3 ∨ t.st = 4) :=
      not_or.mpr ⟨h0, not_or.mpr ⟨h3, h4⟩⟩
    refine ⟨fun ha => ⟨fun hok => ?_, fun hbad => ?_, fun hok => ?_, fun hbad => ?_⟩,
      fun ha => ⟨fun hst => ?_, fun h0 h3 h4 => ⟨fun hct => ?_, fun hct h0' hfmt => ?_, fun hct hfmt => ?_⟩⟩,
      ?_, fun hst => ?_, fun hst => ?_, ?_⟩
    · exact mx_fires h rfl (bodyTcfg_shapes (c := c) ha hok)
    · exact mx_traps h rfl (bodyTcfg_badDesc (c := c) ha hbad)
    · exact mx_fires h rfl (bodyTscale_rescales (c := c) ha hok)
    · exact mx_traps h rfl (bodyTscale_badDesc (c := c) ha hbad)
    · exact mx_traps h rfl (bodyTfill_badState (c := c) ha rfl hst)
    · exact mx_fires h rfl (bodyTfill_fault (c := c) ha rfl (unfilled h0 h3 h4) hct)
    · exact fireSlot_traps rfl h (bodyTfill_otherFormat (c := c) ha rfl (unfilled h0 h3 h4) hct ⟨h0', hfmt⟩)
    · exact mx_fires h rfl (bodyTfill_fills (c := c) ha rfl (unfilled h0 h3 h4) hct
        fun hne => hfmt.elim hne.1 hne.2)
    · exact mx_fires h rfl (bodyTzero_eq c)
    · exact mx_fires h rfl (bodyTrel_unset (c := c) hst)
    · exact mx_fires h rfl (bodyTrel_empties (c := c) hst)
    · exact fireSlot_fires rfl h (bodyTstat_eq c) rfl rfl rfl rfl
  · intro c x k ia ib a b d goes traps takes poison fits
    have fitsFirst (hk : a.k = b.k) (hrows : a.rows ≤ 32) : ¬(a.k ≠ b.k ∨ 32 < a.rows) := by omega
    have loaded (hst : b.st = 3 ∨ b.st = 4) : ¬(b.st ≠ 3 ∧ b.st ≠ 4) := by omega
    refine ⟨fun ⟨hk, hra, hrb⟩ hfa hfb => ?_, fun hbad => ?_, fun hk hra hbad => ?_,
      fun ⟨hk, hra, hrb⟩ hfa => ?_, fun ⟨hk, hra, hrb⟩ hfa hfb => ?_, fun hst hfmt hrows hcols => ?_,
      fun h3 h4 => ?_, fun hst hfmt => ?_, fun hst hfmt hbad => ?_, ?_⟩
    · have htakes := bodyTmma_takes (c := c) rfl rfl (fitsFirst hk hra) (Nat.not_lt.mpr hrb) rfl hfa hfb
      rw [accept_eq, poison_or] at htakes
      exact mx_fires h rfl htakes
    · exact mx_traps h rfl (bodyTmma_badFirst (c := c) rfl rfl hbad)
    · exact mx_traps h rfl (bodyTmma_badSecond (c := c) rfl rfl (fitsFirst hk hra) hbad)
    · exact fireSlot_traps rfl h (bodyTmma_formatFirst (c := c) rfl rfl (fitsFirst hk hra) (Nat.not_lt.mpr hrb) rfl hfa)
    · exact fireSlot_traps rfl h
        (bodyTmma_formatSecond (c := c) rfl rfl (fitsFirst hk hra) (Nat.not_lt.mpr hrb) rfl hfa hfb)
    · have htakes := bodyTacc_takes (c := c) rfl (loaded hst) rfl hfmt
        (not_or.mpr ⟨Nat.not_lt.mpr hrows, Nat.not_lt.mpr hcols⟩)
      rw [accept_eq, poison_isNone hst] at htakes
      exact mx_fires h rfl htakes
    · exact mx_traps h rfl (bodyTacc_badState (c := c) rfl ⟨h3, h4⟩)
    · exact fireSlot_traps rfl h (bodyTacc_otherFormat (c := c) rfl (loaded hst) rfl hfmt)
    · exact mx_traps h rfl (bodyTacc_badShape (c := c) rfl (loaded hst) rfl hfmt hbad)
    · exact mx_fires h rfl (bodyTdrain_eq c)

end Sys2Proof.Machine
end

section
/-! SUPPORT. What the instructions of a memory port element ask for (R273, R276 to R280, R318, R352, R353, R385, R421): the
firing of each shape of request, and the obligation about them. -/

namespace Sys2Proof.Machine

open Sys2Proof Sys2Proof.Safety

section
variable {i : Instr} {s : State} {r : ElemRef} {n stall starve : Nat} {e : Elem} {f : SlotF} {op : MOp}

/-- An instruction of one address source asks for what its address and its raw number say. -/
theorem ask1_asks {cred : SlotF → Cred} {outc : Ctx → Word → Bool} (hi : exec i s = fireSlot s f (ask1 op cred outc))
    (h : elemThere s r n stall starve e) (ha : good e f.srca .int) :
    asks op f.srcb.toNat (e.source f.srca.toNat).val 0 (cred f) (outc ⟨s, e, n, f⟩ (e.source f.srca.toNat).val) false i s r n
      stall starve e f := by
  refine ask_asks hi h ?_
  rw [ask1, read1_good ha]
  rfl

/-- An instruction of an address and a value asks for what both say. -/
theorem ask2_asks {kb : Cls} {cred : Cred} {later : Bool} (hi : exec i s = fireSlot s f (ask2 op kb cred later))
    (h : elemThere s r n stall starve e) (ha : good e f.srca .int) (hb : good e f.srcb kb) :
    asks op 0 (e.source f.srca.toNat).val (e.source f.srcb.toNat).val cred true later i s r n stall starve e f := by
  refine ask_asks hi h ?_
  rw [ask2, read2_good ha hb]
  rfl

/-- A task request asks for what its source and its raw number say; its predicate waits for the reply (R352). -/
theorem askTask_asks {ka : Cls} (hi : exec i s = fireSlot s f (askTask op ka)) (h : elemThere s r n stall starve e)
    (ha : good e f.srca ka) :
    asks op f.srcb.toNat (e.source f.srca.toNat).val 0 .wr true true i s r n stall starve e f := by
  refine ask_asks hi h ?_
  rw [askTask, read1_good ha]
  rfl

/-- A close of a receive asks for what its one source says (R421). -/
theorem askClose_asks (hi : exec i s = fireSlot s f (askClose op)) (h : elemThere s r n stall starve e)
    (ha : good e f.srca .int) : asks op 0 (e.source f.srca.toNat).val 0 .wr true true i s r n stall starve e f := by
  refine ask_asks hi h ?_
  rw [askClose, read1_good ha]
  rfl

end

/-! ### PLD (R273) -/

section
variable {c : Ctx} (ha : good c.e c.f.srca .int)
include ha

/-- A slot of no dispatched task is found out by the checks of the issue. -/
theorem bodyPld_noSlot (hx : c.s.slotTask c.e.ref.load (opSlot (c.e.source c.f.srca.toNat).val) = none) :
    bodyPld c = .ok (c.ask .pld c.f.srcb.toNat (c.e.source c.f.srca.toNat).val 0 .none true false) := by
  rw [bodyPld, read1_good ha]
  show (match c.s.slotTask c.e.ref.load (opSlot (c.e.source c.f.srca.toNat).val) with | some x => _ | none => _) = _
  rw [hx]
  rfl

variable {x : SlotX} (hx : c.s.slotTask c.e.ref.load (opSlot (c.e.source c.f.srca.toNat).val) = some x)
include hx

theorem bodyPld_slot : bodyPld c = if (x.wins.getD c.f.srcb.toNat none).isNone then .error (c.trap Cause.paramUnbound 0)
    else .ok (c.ask .pld c.f.srcb.toNat (c.e.source c.f.srca.toNat).val 0 .none true false) := by
  rw [bodyPld, read1_good ha]
  show (match c.s.slotTask c.e.ref.load (opSlot (c.e.source c.f.srca.toNat).val) with | some x => _ | none => _) = _
  rw [hx]
  rfl

end

/-! ### The obligation -/

/-- Settles O31: each instruction by the shape of its request; PLD by the window of the task that its address names. -/
theorem portAsks : Obligations.PortAsks := by
  refine ⟨fun s r n stall starve e f h => ?_, fun s r n stall starve e f h => ?_⟩
  · intro goes a b k
    refine ⟨ask_asks (body := bodyFence) rfl h rfl, fun ha => ⟨?_, ?_, ?_, ?_, ?_, ?_, fun x hx hw => ?_, fun x hx hw => ?_,
      fun hx => ?_⟩, fun ha hb => ?_⟩
    · exact ask1_asks (cred := fun _ => .rd 1) (outc := fun _ a => outNz a) rfl h ha
    · exact ask1_asks (cred := fun f => .rd (f.srcb.toNat + 1)) (outc := ldfOutcome) rfl h ha
    · exact ask1_asks (cred := fun _ => .wr) (outc := fun _ _ => true) rfl h ha
    · exact ask1_asks (cred := fun _ => .wr) (outc := fun _ _ => true) rfl h ha
    · exact ask1_asks (cred := fun f => .rd (2 ^ f.srcb.toNat)) (outc := wldOutcome) rfl h ha
    · exact ask1_asks (cred := fun f => .rd (f.srcb.toNat + 1)) (outc := fun _ _ => true) rfl h ha
    · exact fireSlot_traps rfl h ((bodyPld_slot (c := ⟨s, e, n, f⟩) ha hx).trans (if_pos (by rw [hw]; rfl)))
    · exact ask_asks rfl h ((bodyPld_slot (c := ⟨s, e, n, f⟩) ha hx).trans
        (if_neg fun hnone => hw (Option.isNone_iff_eq_none.mp hnone)))
    · exact ask_asks rfl h (bodyPld_noSlot (c := ⟨s, e, n, f⟩) ha hx)
    · exact ⟨ask2_asks rfl h ha ⟨hb, rfl⟩, ask2_asks rfl h ha ⟨hb, rfl⟩, ask2_asks rfl h ha ⟨hb, rfl⟩,
        ask2_asks rfl h ha ⟨hb, rfl⟩⟩
  · intro a b k two task arbor
    refine ⟨fun ha hb => ?_, fun ha hb => ask2_asks rfl h ha ⟨hb, rfl⟩, fun ha hb => ask2_asks rfl h ha hb,
      fun ha hb => ⟨ask2_asks rfl h ha hb, ask2_asks rfl h ha hb⟩, fun ha => ?_, fun ha => askTask_asks rfl h ⟨ha, rfl⟩⟩
    · exact ⟨ask2_asks rfl h ha hb, ask2_asks rfl h ha hb, ask2_asks rfl h ha hb, ask2_asks rfl h ha hb,
        ask2_asks rfl h ha hb, ask2_asks rfl h ha hb, ask2_asks rfl h ha hb, ask2_asks rfl h ha hb, ask2_asks rfl h ha hb,
        ask2_asks rfl h ha hb, ask2_asks rfl h ha hb, ask2_asks rfl h ha hb, ask2_asks rfl h ha hb, ask2_asks rfl h ha hb,
        ask2_asks rfl h ha hb, ask2_asks rfl h ha hb⟩
    · exact ⟨askTask_asks rfl h ha, askTask_asks rfl h ha, askTask_asks rfl h ha, askTask_asks rfl h ha,
        askTask_asks rfl h ha, askTask_asks rfl h ha, askClose_asks rfl h ha, askClose_asks rfl h ha,
        ask1_asks (cred := fun _ => .rd 1) (outc := fun _ _ => true) rfl h ha⟩

end Sys2Proof.Machine
end

section
/-! SUPPORT. Fields of a word and of a task record (R3, R8, R336, R337): what a field reads as after a write to the same and
to another field, and words of memory after a write elsewhere. -/

namespace Sys2Proof.Machine

open Sys2Proof Sys2Proof.Safety

/-! ### Fields of a word -/

theorem testBit_fldN (w lo n j : Nat) : (fldN w lo n).testBit j = (decide (j < n) && w.testBit (lo + j)) := by
  rw [fldN, Nat.testBit_mod_two_pow, Nat.testBit_div_two_pow, Nat.add_comm]

/-- A number with a field replaced: what lies below the field, the new value, and what lies above. -/
theorem setFldN_eq (w lo n v : Nat) : setFldN w lo n v = 2 ^ lo * (2 ^ n * (w / 2 ^ lo / 2 ^ n) + v % 2 ^ n) + w % 2 ^ lo := by
  have hlow := Nat.div_add_mod w (2 ^ lo)
  have hmid := Nat.div_add_mod (w / 2 ^ lo) (2 ^ n)
  have hsplit : 2 ^ lo * (2 ^ n * (w / 2 ^ lo / 2 ^ n)) + w / 2 ^ lo % 2 ^ n * 2 ^ lo + w % 2 ^ lo = w := by
    rw [Nat.mul_comm _ (2 ^ lo), ← Nat.mul_add, hmid, hlow]
  rw [setFldN, fldN, Nat.mul_add, Nat.mul_comm (v % 2 ^ n)]
  omega

theorem testBit_setFldN (w lo n v j : Nat) :
    (setFldN w lo n v).testBit j = if lo ≤ j ∧ j < lo + n then v.testBit (j - lo) else w.testBit j := by
  have hlow : w % 2 ^ lo < 2 ^ lo := Nat.mod_lt _ (by positivity)
  have hmid : v % 2 ^ n < 2 ^ n := Nat.mod_lt _ (by positivity)
  rw [setFldN_eq, Nat.testBit_two_pow_mul_add _ hlow, Nat.testBit_two_pow_mul_add _ hmid]
  by_cases hj : j < lo
  · rw [if_pos hj, if_neg (by omega), Nat.testBit_mod_two_pow, decide_eq_true hj, Bool.true_and]
  · rw [if_neg hj]
    by_cases hn : j - lo < n
    · rw [if_pos hn, if_pos (by omega), Nat.testBit_mod_two_pow, decide_eq_true hn, Bool.true_and]
    · rw [if_neg hn, if_neg (by omega), Nat.testBit_div_two_pow, Nat.testBit_div_two_pow]
      congr 1
      omega

theorem setFldN_lt {w lo n : Nat} (hw : w < 2 ^ 64) (h : lo + n ≤ 64) (v : Nat) : setFldN w lo n v < 2 ^ 64 := by
  refine Nat.lt_pow_two_of_testBit _ fun j hj => ?_
  rw [testBit_setFldN, if_neg (by omega)]
  exact Nat.testBit_lt_two_pow (lt_of_lt_of_le hw (Nat.pow_le_pow_right (by norm_num) hj))

section
variable {lo n : Nat} (h : lo + n ≤ 64)
include h

theorem toNat_setFld (w : Word) (v : Nat) : (setFld w lo n v).toNat = setFldN w.toNat lo n v := by
  rw [setFld, BitVec.toNat_ofNat, Nat.mod_eq_of_lt (setFldN_lt w.isLt h v)]

/-- A field reads as what was written to it, and the fields beside it as before. -/
theorem fld_setFld (w : Word) (v : Nat) : fld (setFld w lo n v) lo n = v % 2 ^ n := by
  refine Nat.eq_of_testBit_eq fun j => ?_
  rw [fld, toNat_setFld h, testBit_fldN, testBit_setFldN, Nat.testBit_mod_two_pow, Nat.add_sub_cancel_left]
  by_cases hj : j < n
  · rw [if_pos (by omega)]
  · simp [hj]

theorem fld_setFld_other (w : Word) (v : Nat) {lo' n' : Nat} (hd : lo + n ≤ lo' ∨ lo' + n' ≤ lo) :
    fld (setFld w lo n v) lo' n' = fld w lo' n' := by
  refine Nat.eq_of_testBit_eq fun j => ?_
  rw [fld, fld, toNat_setFld h, testBit_fldN, testBit_fldN, testBit_setFldN]
  by_cases hj : j < n'
  · rw [if_neg (by omega)]
  · simp [hj]

end

/-! ### Words of memory -/

theorem bytes_congr {s s' : State} {a n : Nat} (h : ∀ k, k < n → s'.byte (a + k) = s.byte (a + k)) :
    s'.bytes a n = s.bytes a n :=
  List.map_congr_left fun k hk => h k (List.mem_range.mp hk)

theorem word_congr {s s' : State} {a : Nat} (h : ∀ k, k < 8 → s'.byte (a + k) = s.byte (a + k)) : s'.word a = s.word a := by
  rw [State.word, State.word, State.readN, State.readN, bytes_congr h]

/-- A word apart from the bytes that may change reads as before. -/
theorem word_of_onlyBytes {s s' : State} {a n b : Nat} (h : onlyBytes s s' a n) (hb : b + 8 ≤ a ∨ a + n ≤ b) :
    s'.word b = s.word b :=
  word_congr fun k hk => h (b + k) (by omega)

/-- Memory alone says what a word reads as. -/
theorem word_of_mem {s s' : State} (h : s'.mem = s.mem) (a : Nat) : s'.word a = s.word a := by
  simp only [State.word, State.readN, State.bytes, h]

theorem byte_of_mem {s s' : State} (h : s'.mem = s.mem) (a : Nat) : s'.byte a = s.byte a := by
  simp only [State.byte, h]

/-! ### Fields of a task record (R336) -/

theorem setRecField_rest (s : State) (h off lo n v : Nat) : ∃ m, s.setRecField h off lo n v = { s with mem := m } := by
  unfold State.setRecField
  split
  · exact ⟨_, rfl⟩
  · exact ⟨s.mem, rfl⟩

/-- The address of a record depends on the device registers alone (R337, R338). -/
theorem recAddr_of_dv {s s' : State} (h : s'.dv = s.dv) (n : Nat) : s'.recAddr n = s.recAddr n := by
  rw [State.recAddr, State.recAddr, State.ovfGran, State.ovfGran, State.ovfBase, State.ovfBase, h]

@[simp] theorem recAddr_setRecField (s : State) (h off lo n v m : Nat) :
    (s.setRecField h off lo n v).recAddr m = s.recAddr m := by
  obtain ⟨x, hx⟩ := setRecField_rest s h off lo n v
  rw [hx]
  rfl

section
variable {s : State} {h a : Nat} (ha : s.recAddr h = some a)
include ha

theorem recField_eq (off lo n : Nat) : s.recField h off lo n = fld (s.word (a + off)) lo n := by
  rw [State.recField, ha]

theorem setRecField_eq (off lo n v : Nat) :
    s.setRecField h off lo n v = s.setWord (a + off) (setFld (s.word (a + off)) lo n v) := by
  rw [State.setRecField, ha]

variable (hm : Memory.wf s.mem = true) {lo n : Nat} (hl : lo + n ≤ 64)
include hm hl

theorem recField_setRecField (off v : Nat) : (s.setRecField h off lo n v).recField h off lo n = v % 2 ^ n := by
  rw [recField_eq (s := s.setRecField h off lo n v) (by rw [recAddr_setRecField, ha]), setRecField_eq ha, word_setWord _ _ _ hm,
    fld_setFld hl]

/-- Another field of the record, in the same word or in another, reads as before. -/
theorem recField_setRecField_other (off v : Nat) {off' lo' n' : Nat}
    (hd : (off' = off ∧ (lo + n ≤ lo' ∨ lo' + n' ≤ lo)) ∨ off' + 8 ≤ off ∨ off + 8 ≤ off') :
    (s.setRecField h off lo n v).recField h off' lo' n' = s.recField h off' lo' n' := by
  rw [recField_eq (s := s.setRecField h off lo n v) (by rw [recAddr_setRecField, ha]), recField_eq ha, setRecField_eq ha]
  rcases hd with ⟨rfl, hbits⟩ | hwords
  · rw [word_setWord _ _ _ hm, fld_setFld_other hl _ _ hbits]
  · have honly := writeN_onlyBytes s (a + off) 8 (setFld (s.word (a + off)) lo n v).toNat hm
    rw [State.setWord, word_of_onlyBytes honly (by omega)]

end

end Sys2Proof.Machine
end

section
/-! SUPPORT. Device registers (R249, R338, R347, R412, R443, R445, R449, R456, R457, R461): what a write leaves in the register
written and in the others, the rows that their reads and writes begin, and the obligation about them. -/

namespace Sys2Proof.Machine

open Sys2Proof Sys2Proof.Safety

/-! ### Writes of writable fields -/

/-- What two values of the device registers share when only register n may differ. -/
structure Dv.agreesOff (d d' : Dv) (n : Nat) : Prop where
  claim : 0 ≠ n → d'.claim = d.claim
  ptbase : 1 ≠ n → d'.ptbase = d.ptbase
  syeovf : ∀ k, k + 2 ≠ n → d'.syeovf.getD k 0 = d.syeovf.getD k 0
  csage : ∀ k, k + 6 ≠ n → d'.csage.getD k 0 = d.csage.getD k 0
  pkgnum : 10 ≠ n → d'.pkgnum = d.pkgnum
  rtimeout : 16 ≠ n → d'.rtimeout = d.rtimeout
  drbad : 17 ≠ n → d'.drbad = d.drbad
  drlate : 18 ≠ n → d'.drlate = d.drlate
  sepol : 22 ≠ n → d'.sepol = d.sepol
  ltol : 24 ≠ n → d'.ltol = d.ltol
  rest : d'.incarn = d.incarn ∧ d'.bootva = d.bootva ∧ d'.syestat = d.syestat ∧ d'.bootfail = d.bootfail ∧ d'.pstate = d.pstate

theorem Dv.write_agreesOff (d : Dv) (n : Nat) (v : Word) : d.agreesOff (d.write n v) n := by
  unfold Dv.write
  split <;> constructor <;> simp +contextual [putAt_getD, -List.getD_eq_getElem?_getD]

/-- A register beside the one that may differ reads as before; dv.PGREQ and dv.SELOG show no register of Dv (R457). -/
theorem Dv.agreesOff.dvRead {s : State} {d : Dv} {n k : Nat} (h : s.dv.agreesOff d n) (hk : k ≠ n) :
    ({ s with dv := d } : State).dvRead k = s.dvRead k := by
  obtain ⟨hincarn, hbootva, hsyestat, hbootfail, hpstate⟩ := h.rest
  unfold State.dvRead
  split
  · exact h.claim hk
  · exact h.ptbase hk
  · exact h.syeovf 0 hk
  · exact h.syeovf 1 hk
  · exact h.syeovf 2 hk
  · exact h.syeovf 3 hk
  · exact h.csage 0 hk
  · exact h.csage 1 hk
  · exact h.csage 2 hk
  · exact h.csage 3 hk
  · exact congrArg (BitVec.ofNat 64) (h.pkgnum hk)
  · exact congrArg (BitVec.zeroExtend 64) hincarn
  · exact hbootva
  · exact h.rtimeout hk
  · exact congrArg (BitVec.ofNat 64) (h.drbad hk)
  · exact congrArg (BitVec.ofNat 64) (h.drlate hk)
  · exact hsyestat
  · rfl
  · exact h.sepol hk
  · rfl
  · exact h.ltol hk
  · simp only [hbootfail, hpstate]
  · rfl

theorem exec_registerWrite {s : State} {t n : Nat} {v : Word} (ha : s.actor = .reg t n v) :
    exec .registerWrite s = .next { s with dv := s.dv.write n v } := by
  show execRegisterWrite s = _
  rw [execRegisterWrite, ha]

theorem dvRead_write_ptbase (s : State) (v : Word) :
    ({ s with dv := s.dv.write 1 v } : State).dvRead 1 = v &&& 0x00000FFFFFFC0000 := rfl

theorem dvRead_write_rtimeout (s : State) (v : Word) :
    ({ s with dv := s.dv.write 16 v } : State).dvRead 16 = v &&& 0xFFFFFFFF := rfl

theorem dvRead_write_sepol (s : State) (v : Word) : ({ s with dv := s.dv.write 22 v } : State).dvRead 22 = v &&& 0xFF03 := rfl

theorem dvRead_write_ltol (s : State) (v : Word) :
    ({ s with dv := s.dv.write 24 v } : State).dvRead 24 = v &&& 0x80000000FFFFFFFF := rfl

/-- The four registers of dv.SYEOVF (R338). -/
theorem dvRead_write_syeovf (s : State) (v : Word) {n : Nat} (h2 : 2 ≤ n) (h5 : n ≤ 5) :
    ({ s with dv := s.dv.write n v } : State).dvRead n = v &&& 0x007FFFFFFFFF0000 := by
  have hput (k : Nat) : (putAt 0 s.dv.syeovf k (v &&& 0x007FFFFFFFFF0000)).getD k 0 = v &&& 0x007FFFFFFFFF0000 := by
    rw [putAt_getD, if_pos rfl]
  interval_cases n
  · exact hput 0
  · exact hput 1
  · exact hput 2
  · exact hput 3

/-- The four registers of dv.CSAGE (R347). -/
theorem dvRead_write_csage (s : State) (v : Word) {n : Nat} (h6 : 6 ≤ n) (h9 : n ≤ 9) :
    ({ s with dv := s.dv.write n v } : State).dvRead n = v &&& 0xFFFFFFFF := by
  have hput (k : Nat) : (putAt 0 s.dv.csage k (v &&& 0xFFFFFFFF)).getD k 0 = v &&& 0xFFFFFFFF := by
    rw [putAt_getD, if_pos rfl]
  interval_cases n
  · exact hput 0
  · exact hput 1
  · exact hput 2
  · exact hput 3

/-! ### Writes that begin a step -/

section
variable {s : State} {t n : Nat} {v : Word} (ha : s.actor = .reg t n v)
include ha

theorem exec_syestatClear :
    exec .syestatClear s = .next (if v.getLsbD 0 then { s with dv := { s.dv with syestat := 0 } } else s) := by
  show execSyestatClear s = _
  rw [execSyestatClear, ha]
  rfl

theorem exec_pgdone : exec .pgdone s = .next
    (if s.saved.any (fun x => x.owner == fld v 0 32 && x.page) && s.trState (fld v 0 32) == 4 then
      (s.setTrState (fld v 0 32) 2).enqueue (s.readyEnt (fld v 0 32))
    else s) := by
  show execPgdone s = _
  rw [execPgdone, ha]

/-- dv.PGDONE of a record that is not SAVED does nothing (R443). -/
theorem exec_pgdone_notSaved (hst : s.trState (fld v 0 32) ≠ 4) : exec .pgdone s = .next s := by
  rw [exec_pgdone ha, beq_false_of_ne hst, Bool.and_false, if_neg Bool.false_ne_true]

theorem exec_pgdone_saved (hsaved : (s.saved.any fun z => z.owner == fld v 0 32 && z.page) = true)
    (hst : s.trState (fld v 0 32) = 4) :
    exec .pgdone s = .next ((s.setTrState (fld v 0 32) 2).enqueue (s.readyEnt (fld v 0 32))) := by
  rw [exec_pgdone ha, hsaved, hst]
  rfl

theorem exec_bootva : exec .bootva s = .next
    (if bitAt v 63 ∧ ¬ s.released then
      { s with dv := { s.dv with bootva := v &&& 0x81FFFFFFFFFFFFFF }
               seqs := s.seqs.map fun q => q.boot (fld v 2 55 * 4), released := true }
    else { s with dv := { s.dv with bootva := v &&& 0x81FFFFFFFFFFFFFF } }) := by
  show execBootva s = _
  rw [execBootva, ha]

end

/-- An entry of a record of the die enters the die's ready queue, and memory stays (R344). -/
theorem enqueue_there {s : State} {r : ReadyEnt} {x : Die} (hx : s.die? (handleDie r.handle) = some x) :
    (s.enqueue r).die? (handleDie r.handle) = some { x with ready := x.ready ++ [r] } :=
  modDie_there hx (fun d => { d with ready := d.ready ++ [r] }) fun _ h => h

/-- The state of a record that was set reads so. -/
theorem trState_setTrState {s : State} {h a : Nat} (ha : s.recAddr h = some a) (hm : Memory.wf s.mem = true) (st : Nat) :
    (s.setTrState h st).trState h = st % 16 :=
  recField_setRecField ha hm (by norm_num) 0x00 st

theorem setTrState_dies (s : State) (h st : Nat) : (s.setTrState h st).dies = s.dies := by
  obtain ⟨m, hrest⟩ := setRecField_rest s h 0x00 44 4 st
  rw [State.setTrState, hrest]

theorem seq_map_boot {s : State} {u : Nat} {q : Seq} (h : s.seq? u = some q) (va : Nat) :
    (s.seqs.map fun q => q.boot va).find? (fun q => decide (q.tile = u)) = some (q.boot va) := by
  rw [List.find?_map]
  exact congrArg (Option.map fun q => Seq.boot q va) h

theorem boot_status (q : Seq) (va : Nat) : (q.boot va).priv = true ∧ (q.boot va).inTrap = false :=
  have hbits := mkStatus_bits true false false false
  ⟨hbits.1, hbits.2.2.1⟩

/-! ### Reads of dv.PGREQ and dv.SELOG (R443, R449, R456) -/

theorem exec_pgreqRead {s : State} {b : Bool} (ha : s.actor = .owner b) : exec .pgreqRead s = .next
    (if b ∧ s.pgpend ≠ [] then
      { s with pgreq := s.pgreq.drop 1, agenda := .event .pageRequestPost .none :: s.agenda }
    else if b then { s with pgreq := s.pgreq.drop 1 } else s) := by
  show execPgreqRead s = _
  rw [execPgreqRead, ha]
  cases b
  · rfl
  · rfl

/-- Another master's read of dv.SELOG removes nothing (R449). -/
theorem selogRead_other {s : State} (ha : s.actor = .owner false) : exec .selogRead s = .next s := by
  show execSelogRead s = _
  simp only [execSelogRead, ha, Bool.false_eq_true, if_false]

section
variable {s : State} (ha : s.actor = .owner true)
include ha

theorem selogRead_entry {x : SeLog} {xs : List SeLog} (hs : s.selog = x :: xs) :
    exec .selogRead s = .next { s with selog := xs } := by
  show execSelogRead s = _
  simp only [execSelogRead, ha, hs, if_true]

theorem selogRead_empty (hs : s.selog = []) : exec .selogRead s = .next { s with selogLost := 0 } := by
  show execSelogRead s = _
  simp only [execSelogRead, ha, hs, if_true]

end

/-! ### The obligation -/

/-- Settles O49: the writes by the register they name, dv.PGDONE by the record's state, dv.BOOTVA by V and what was released,
the two reads by who reads. -/
theorem deviceRegisters : Obligations.DeviceRegisters := by
  intro s t n v
  refine ⟨fun ha => ?_, fun ha => ⟨?_, ?_⟩, fun ha => ⟨fun hp => ?_, fun hp => ?_, fun x xs hs => ?_, fun hs => ?_⟩⟩
  · have hw := exec_registerWrite ha
    refine ⟨⟨_, hw, rfl, fun k hk _ _ => (s.dv.write_agreesOff n v).dvRead hk⟩, fun hn => ⟨_, hw, ?_⟩,
      fun h2 h5 => ⟨_, hw, dvRead_write_syeovf s v h2 h5⟩, fun h6 h9 => ⟨_, hw, dvRead_write_csage s v h6 h9⟩,
      fun hn => ⟨_, hw, ?_⟩, fun hn => ⟨_, hw, ?_⟩, fun hn => ⟨_, hw, ?_⟩, exec_syestatClear ha,
      fun a x hm hrec hx hsaved hst => ?_, exec_pgdone_notSaved ha, fun hv hr => ?_, fun hno => ?_⟩
    · subst hn; exact dvRead_write_ptbase s v
    · subst hn; exact dvRead_write_rtimeout s v
    · subst hn; exact dvRead_write_sepol s v
    · subst hn; exact dvRead_write_ltol s v
    · have hx' : (s.setTrState (fld v 0 32) 2).die? (handleDie (fld v 0 32)) = some x := by
        rw [State.die?, setTrState_dies]; exact hx
      exact ⟨_, _, exec_pgdone_saved ha hsaved hst, trState_setTrState hrec hm 2,
        enqueue_there (r := s.readyEnt (fld v 0 32)) hx', rfl, rfl, rfl, rfl⟩
    · have hb := (exec_bootva ha).trans (congrArg _ (if_pos ⟨hv, by simp [hr]⟩))
      exact ⟨_, hb, rfl, rfl, fun u q hq => ⟨_, seq_map_boot hq _, rfl, (boot_status q _).1, (boot_status q _).2, rfl, rfl, rfl⟩⟩
    · refine (exec_bootva ha).trans (congrArg _ (if_neg fun ⟨hv, hr⟩ => ?_))
      exact hno.elim (fun h => Bool.false_ne_true (h.symm.trans hv)) hr
  · exact exec_pgreqRead ha
  · exact selogRead_other ha
  · exact (exec_pgreqRead ha).trans (congrArg _ (if_neg fun h => h.2 hp))
  · exact (exec_pgreqRead ha).trans (congrArg _ (if_pos ⟨rfl, hp⟩))
  · exact selogRead_entry ha hs
  · exact selogRead_empty ha hs

end Sys2Proof.Machine
end

section
/-! SUPPORT. TINV and SAVEC (R261 to R263, R380): what an invalidation drops and places, what the words of a save stream stand
for, what writing it leaves, and the obligation about them. -/

namespace Sys2Proof.Machine

open Sys2Proof Sys2Proof.Safety

/-! ### TINV (R261 to R263) -/

theorem tinvRange_eq (a b : Word) : tinvRange a b = (if b = 0 then 0 else a.toNat / 2 ^ 16 % 2 ^ 41,
    if b = 0 then 2 ^ 41 else (if b = 0 then 0 else a.toNat / 2 ^ 16 % 2 ^ 41) + b.toNat) := by
  unfold tinvRange
  by_cases hb : b = 0
  · rw [if_pos hb, if_pos hb, if_pos hb]
  · rw [if_neg hb, if_neg hb, if_neg hb]
    rfl

/-- No kept descriptor and no present run of an extent table meets granules lo to hi. -/
structure dropsRange (s : State) (lo hi : Nat) : Prop where
  seqs : ∀ p ∈ s.seqs, ∀ c ∈ p.tc, c.meets lo hi = false
  dies : ∀ x ∈ s.dies, ∀ c ∈ x.hcache, c.meets lo hi = false
  loads : ∀ x ∈ s.loads, ∀ y, some y ∈ x.slots → ∀ r ∈ y.runs, r.meets lo hi = true → r.p = false

/-- A run that was invalidated covers what it covered, and is absent where it meets the range. -/
theorem Run.inval_absent {lo hi : Nat} {r : Run} (h : (r.inval lo hi).meets lo hi = true) : (r.inval lo hi).p = false := by
  unfold Run.inval at h ⊢
  split
  · rfl
  · next hno => rw [if_neg hno] at h; exact absurd h hno

theorem invalidate_drops (s : State) (lo hi : Nat) : dropsRange (s.invalidate lo hi) lo hi := by
  have kept (cs : List CDesc) : ∀ c ∈ cs.filter fun c => !c.meets lo hi, c.meets lo hi = false := fun c hc => by
    simpa using (List.mem_filter.mp hc).2
  refine ⟨fun p hp => ?_, fun x hx => ?_, fun x hx y hy r hr hmeets => ?_⟩
  · obtain ⟨q, -, rfl⟩ := List.mem_map.mp hp
    exact kept q.tc
  · obtain ⟨d, -, rfl⟩ := List.mem_map.mp hx
    exact kept d.hcache
  · obtain ⟨l, -, rfl⟩ := List.mem_map.mp hx
    obtain ⟨t, -, ht⟩ := List.mem_map.mp hy
    obtain ⟨z, -, rfl⟩ := Option.map_eq_some_iff.mp ht
    obtain ⟨r0, -, rfl⟩ := List.mem_map.mp hr
    exact Run.inval_absent hmeets

/-- An update of a sequencer that keeps its descriptors brings none back. -/
theorem dropsRange.modSeq {s : State} {lo hi : Nat} (h : dropsRange s lo hi) (t : Nat) {f : Seq → Seq}
    (hf : ∀ q, (f q).tc = q.tc) : dropsRange (s.modSeq t f) lo hi := by
  refine ⟨fun p hp => ?_, h.dies, h.loads⟩
  obtain ⟨q, hq, rfl⟩ := List.mem_map.mp hp
  split
  · rw [hf q]; exact h.seqs q hq
  · exact h.seqs q hq

theorem dropsRange.tinvComplete {s : State} {lo hi : Nat} (h : dropsRange s lo hi) (t n : Nat) :
    dropsRange (s.tinvComplete t n) lo hi :=
  (h.modSeq t (f := fun q => { q with tinvdone := BitVec.ofNat 40 n, tinvs := q.tinvs.filter fun x => decide (x.1 ≠ n) })
    fun _ => rfl).modSeq t fun _ => rfl

theorem invalidate_seq {s : State} {t : Nat} {q : Seq} (hq : s.seq? t = some q) (lo hi : Nat) :
    (s.invalidate lo hi).seq? t = some { q with tc := q.tc.filter fun c => !c.meets lo hi } := by
  show (s.seqs.map fun q => { q with tc := q.tc.filter fun c => !c.meets lo hi }).find? (fun q => decide (q.tile = t)) = _
  rw [List.find?_map]
  exact congrArg (Option.map fun q : Seq => { q with tc := q.tc.filter fun c => !c.meets lo hi }) hq

/-- The DRAIN tokens of a TINV are accesses of their own, and nothing else changes but the counts of names and free values. -/
theorem placeDrains_rest (ports : List ElemRef) (k lo hi : Nat) (s : State) : ∃ as n c,
    ports.foldl (fun s r => s.placeDrain r k lo hi) s = { s with accs := as, nextId := n, freeCount := c } ∧
      as.length = s.accs.length + ports.length := by
  induction ports generalizing s with
  | nil => exact ⟨s.accs, s.nextId, s.freeCount, rfl, rfl⟩
  | cons r rs ih =>
    obtain ⟨as, n, c, hrest, hlen⟩ := ih (s.placeDrain r k lo hi)
    have hone : (s.placeDrain r k lo hi).accs.length = s.accs.length + 1 := List.length_append
    refine ⟨as, n, c, hrest, ?_⟩
    rw [hlen, hone, List.length_cons]
    omega

/-- The issuing sequencer after TINV number n, with the DRAIN tokens that it waits for. -/
def Seq.tinvIssued (q : Seq) (n ports clock : Nat) : Seq :=
  { q.next with tinvseq := BitVec.ofNat 40 n, tinvs := q.tinvs ++ [(n, ports)], busy := clock + 1 }

/-- The machine after TINV number n of a tile, before it may be complete. -/
def State.tinvIssued (s : State) (t n lo hi : Nat) : State :=
  (s.drainPorts lo hi).foldl (fun s r => s.placeDrain r (t * 2 ^ 40 + n) lo hi)
    (((s.modSeq t fun q => q.tinvIssued n (s.drainPorts lo hi).length s.clock).invalidate lo hi).dropOrphans)

section
variable {s : State} {t n lo hi : Nat}

theorem tinvIssued_rest : ∃ as k c, s.tinvIssued t n lo hi =
    { (((s.modSeq t fun q => q.tinvIssued n (s.drainPorts lo hi).length s.clock).invalidate lo hi).dropOrphans) with
      accs := as, nextId := k, freeCount := c } ∧ as.length = s.accs.length + (s.drainPorts lo hi).length :=
  placeDrains_rest _ _ _ _ _

theorem tinvIssued_drops : dropsRange (s.tinvIssued t n lo hi) lo hi := by
  obtain ⟨as, k, c, hrest, -⟩ := tinvIssued_rest (s := s) (t := t) (n := n) (lo := lo) (hi := hi)
  have hdrops := invalidate_drops (s.modSeq t fun q => q.tinvIssued n (s.drainPorts lo hi).length s.clock) lo hi
  rw [hrest]
  exact ⟨hdrops.seqs, hdrops.dies, hdrops.loads⟩

theorem tinvIssued_seq {q : Seq} (hq : s.seq? t = some q) : ∃ tc, (s.tinvIssued t n lo hi).seq? t =
    some { q.tinvIssued n (s.drainPorts lo hi).length s.clock with tc := tc } := by
  obtain ⟨as, k, c, hrest, -⟩ := tinvIssued_rest (s := s) (t := t) (n := n) (lo := lo) (hi := hi)
  have hmod := (modSeq_spec s t q (fun q => q.tinvIssued n (s.drainPorts lo hi).length s.clock) hq fun _ h => h).1
  rw [hrest]
  exact ⟨_, invalidate_seq hmod lo hi⟩

theorem tinvIssued_accs : (s.tinvIssued t n lo hi).accs.length = s.accs.length + (s.drainPorts lo hi).length := by
  obtain ⟨as, k, c, hrest, hlen⟩ := tinvIssued_rest (s := s) (t := t) (n := n) (lo := lo) (hi := hi)
  rw [hrest]
  exact hlen

theorem tinvIssued_frame : (s.tinvIssued t n lo hi).mem = s.mem ∧ (s.tinvIssued t n lo hi).elems = s.elems ∧
    (s.tinvIssued t n lo hi).presence = s.presence := by
  obtain ⟨as, k, c, hrest, -⟩ := tinvIssued_rest (s := s) (t := t) (n := n) (lo := lo) (hi := hi)
  rw [hrest]
  exact ⟨rfl, rfl, rfl⟩

end

section
variable {s : State} {t : Nat} {q : Seq} {a b : BitVec 5} {lo hi : Nat} (h : seqThere s t q) (hp : q.priv = true)
  (hr : tinvRange (q.reg a) (q.reg b) = (lo, hi))
include h hp hr

theorem exec_tinv : exec (.tinv a b) s = .next
    (if s.accs.any fun w => w.op.ofSeq && tinvHits lo hi w.va then s
    else if (s.drainPorts lo hi).isEmpty then
      (s.tinvIssued t (q.tinvseq + 1).toNat lo hi).tinvComplete t (q.tinvseq + 1).toNat
    else s.tinvIssued t (q.tinvseq + 1).toNat lo hi) := by
  show execTinv a b s = _
  rw [execTinv, withSeq_there _ h, if_neg (by simp [hp]), hr]
  rfl

theorem exec_tinv_waits (hheld : (s.accs.any fun w => w.op.ofSeq && tinvHits lo hi w.va) = true) :
    exec (.tinv a b) s = .next s := by
  rw [exec_tinv h hp hr, if_pos hheld]

variable (hfree : (s.accs.any fun w => w.op.ofSeq && tinvHits lo hi w.va) = false)
include hfree

theorem exec_tinv_completes (hports : s.drainPorts lo hi = []) : exec (.tinv a b) s = .next
    ((s.tinvIssued t (q.tinvseq + 1).toNat lo hi).tinvComplete t (q.tinvseq + 1).toNat) := by
  rw [exec_tinv h hp hr, if_neg (ne_true_of_eq_false hfree), if_pos (List.isEmpty_iff.mpr hports)]

theorem exec_tinv_drains (hports : s.drainPorts lo hi ≠ []) :
    exec (.tinv a b) s = .next (s.tinvIssued t (q.tinvseq + 1).toNat lo hi) := by
  rw [exec_tinv h hp hr, if_neg (ne_true_of_eq_false hfree), if_neg (mt List.isEmpty_iff.mp hports)]

end

/-! ### What a save stream stands for (R380) -/

/-- What a word of a bank is in a save stream: value, FTAG and presence. -/
def BWord.saved (w : BWord) : Word × Nat × Bool := (w.val, w.tag.toNat, w.pres)

/-- The words that groups stand for. -/
def SGroup.expand (gs : List SGroup) : List (Word × Nat × Bool) :=
  gs.flatMap fun g => List.replicate g.n (g.val, g.tag, g.pres)

/-- A group that a code word can stand for. -/
def SGroup.fits (g : SGroup) : Prop := 1 ≤ g.n ∧ g.n ≤ 64 ∧ g.tag < 16

theorem sGroups_expand (ws : List BWord) : SGroup.expand (sGroups ws) = ws.map BWord.saved := by
  induction ws with
  | nil => rfl
  | cons w ws ih =>
    rw [sGroups, List.map_cons, ← ih]
    split
    · next hnil => rw [hnil]; rfl
    · next g gs hcons =>
      rw [hcons]
      split
      · next hsame =>
        obtain ⟨hval, htag, hpres⟩ := hsame
        simp only [SGroup.expand, List.flatMap_cons, List.replicate_succ, List.cons_append, BWord.saved, hval, htag, hpres]
      · rfl

theorem sGroups_fits (ws : List BWord) : ∀ g ∈ sGroups ws, 1 ≤ g.n ∧ g.n ≤ ws.length ∧ g.tag < 16 := by
  induction ws with
  | nil => exact fun g hg => absurd hg List.not_mem_nil
  | cons w ws ih =>
    have hone : 1 ≤ 1 ∧ 1 ≤ (w :: ws).length ∧ w.tag.toNat < 16 := ⟨le_refl 1, by simp, w.tag.isLt⟩
    have hlater (g : SGroup) (hg : 1 ≤ g.n ∧ g.n ≤ ws.length ∧ g.tag < 16) :
        1 ≤ g.n ∧ g.n ≤ (w :: ws).length ∧ g.tag < 16 := ⟨hg.1, Nat.le_succ_of_le hg.2.1, hg.2.2⟩
    rw [sGroups]
    split
    · exact List.forall_mem_singleton.mpr hone
    · next g gs hcons =>
      rw [hcons] at ih
      obtain ⟨hg, hgs⟩ := List.forall_mem_cons.mp ih
      split
      · exact List.forall_mem_cons.mpr
          ⟨⟨Nat.le_add_left 1 g.n, Nat.succ_le_succ hg.2.1, hg.2.2⟩, fun x hx => hlater x (hgs x hx)⟩
      · exact List.forall_mem_cons.mpr
          ⟨hone, List.forall_mem_cons.mpr ⟨hlater g hg, fun x hx => hlater x (hgs x hx)⟩⟩

theorem sGroups_length (ws : List BWord) : (sGroups ws).length ≤ ws.length := by
  induction ws with
  | nil => exact le_refl 0
  | cons w ws ih =>
    rw [sGroups]
    split
    · exact Nat.le_add_left 1 ws.length
    · next g gs hcons =>
      rw [hcons, List.length_cons] at ih
      split
      · exact Nat.le_succ_of_le ih
      · exact Nat.succ_le_succ ih

/-- The literal words at the front and the rest together are the groups. -/
theorem sLits_expand (tag : Nat) (pres : Bool) (gs : List SGroup) : SGroup.expand gs =
    (sLits tag pres gs).1.map (fun v => (v, tag, pres)) ++ SGroup.expand (sLits tag pres gs).2 := by
  induction gs with
  | nil => rfl
  | cons g gs ih =>
    rw [sLits]
    split
    · next hlit =>
      obtain ⟨hn, -, htag, hpres⟩ := hlit
      rw [SGroup.expand, List.flatMap_cons, hn, htag, hpres]
      exact congrArg ((g.val, tag, pres) :: ·) ih
    · rfl

theorem sLits_suffix (tag : Nat) (pres : Bool) (gs : List SGroup) : (sLits tag pres gs).2 <:+ gs := by
  induction gs with
  | nil => exact List.suffix_refl _
  | cons g gs ih =>
    rw [sLits]
    split
    · exact ih.trans (List.suffix_cons g gs)
    · exact List.suffix_refl _

theorem sLits_length (tag : Nat) (pres : Bool) (gs : List SGroup) :
    (sLits tag pres gs).1.length + (sLits tag pres gs).2.length = gs.length := by
  induction gs with
  | nil => rfl
  | cons g gs ih =>
    rw [sLits]
    split
    · show (sLits tag pres gs).1.length + 1 + (sLits tag pres gs).2.length = gs.length + 1
      omega
    · exact Nat.zero_add _

/-- A single word with a value stands at the front of its literals. -/
theorem sLits_single {g : SGroup} (hone : g.n = 1) (hval : g.val ≠ 0) (gs : List SGroup) : sLits g.tag g.pres (g :: gs) =
    (g.val :: (sLits g.tag g.pres gs).1, (sLits g.tag g.pres gs).2) := by
  rw [sLits, if_pos ⟨hone, hval, rfl, rfl⟩]

/-- The fields of a code word; they are added up by rewriting, as in instst_toNat. -/
theorem sCode_fields {k m tag : Nat} (pres : Bool) (hk : k < 4) (hm : 1 ≤ m ∧ m ≤ 64) (htag : tag < 16) :
    fld (sCode k m pres tag) 62 2 = k ∧ fld (sCode k m pres tag) 56 6 + 1 = m ∧ bitAt (sCode k m pres tag) 50 = pres ∧
      fld (sCode k m pres tag) 46 4 = tag := by
  have hb : boolN pres < 2 := by cases pres <;> decide
  have hval : (sCode k m pres tag).toNat = k * 2 ^ 62 + (m - 1) * 2 ^ 56 + boolN pres * 2 ^ 50 + tag * 2 ^ 46 := by
    rw [sCode, wordOfFields]
    iterate 4 rw [foldl_fields_cons]
    rw [List.map_nil, List.foldl_nil, BitVec.toNat_ofNat, Nat.mod_eq_of_lt (by omega)]
    omega
  have hbit : bitAt (sCode k m pres tag) 50 = decide ((sCode k m pres tag).toNat / 2 ^ 50 % 2 = 1) := by
    rw [bitAt, ← BitVec.testBit_toNat, Nat.testBit_eq_decide_div_mod_eq]
  have hpres : (sCode k m pres tag).toNat / 2 ^ 50 % 2 = boolN pres := by rw [hval]; omega
  refine ⟨?_, ?_, ?_, ?_⟩
  · rw [fld, fldN, hval]; omega
  · rw [fld, fldN, hval]; omega
  · rw [hbit, hpres]; cases pres <;> rfl
  · rw [fld, fldN, hval]; omega

section
variable {k m tag : Nat} {pres : Bool} (hm : 1 ≤ m ∧ m ≤ 64) (htag : tag < 16) (n : Nat) (rest : List Word)
include hm htag

theorem unstream_zeros :
    unstream (n + 1) (sCode 0 m pres tag :: rest) = List.replicate m (0, tag, pres) ++ unstream n rest := by
  obtain ⟨hk, hn, hp, ht⟩ := sCode_fields pres (by norm_num : 0 < 4) hm htag
  rw [unstream, hk, hn, hp, ht]
  rfl

theorem unstream_repeat (v : Word) :
    unstream (n + 1) (sCode 2 m pres tag :: v :: rest) = List.replicate m (v, tag, pres) ++ unstream n rest := by
  obtain ⟨hk, hn, hp, ht⟩ := sCode_fields pres (by norm_num : 2 < 4) hm htag
  rw [unstream, hk, hn, hp, ht]
  rfl

theorem unstream_literals {ls : List Word} (hls : ls.length = m) : unstream (n + 1) (sCode 1 m pres tag :: (ls ++ rest)) =
    ls.map (fun v => (v, tag, pres)) ++ unstream n rest := by
  obtain ⟨hk, hn, hp, ht⟩ := sCode_fields pres (by norm_num : 1 < 4) hm htag
  rw [unstream, hk, hn, hp, ht, ← hls, List.take_left, List.drop_left]
  rfl

end

/-- The code words of groups stand for the words of the groups. -/
theorem unstream_sWords (n : Nat) (gs : List SGroup) (hn : gs.length ≤ n) (hcap : n ≤ 64) (hfit : ∀ g ∈ gs, g.fits) :
    unstream n (sWords n gs) = SGroup.expand gs := by
  induction n generalizing gs with
  | zero => rw [List.length_eq_zero_iff.mp (Nat.le_zero.mp hn)]; rfl
  | succ n ih =>
    cases gs with
    | nil => rfl
    | cons g gs =>
      obtain ⟨⟨hn1, hn64, htag⟩, hgs⟩ := List.forall_mem_cons.mp hfit
      have hlen : gs.length ≤ n := Nat.le_of_succ_le_succ hn
      have htail := ih gs hlen (Nat.le_of_succ_le hcap) hgs
      have hexp : SGroup.expand (g :: gs) = List.replicate g.n (g.val, g.tag, g.pres) ++ SGroup.expand gs := rfl
      rw [sWords]
      by_cases hzero : g.val = 0
      · rw [if_pos hzero, unstream_zeros ⟨hn1, hn64⟩ htag, htail, hexp, hzero]
      · by_cases hmany : 2 ≤ g.n
        · rw [if_neg hzero, if_pos hmany, unstream_repeat ⟨hn1, hn64⟩ htag, htail, hexp]
        · have hone : g.n = 1 := by omega
          have hfirst := sLits_single hone hzero gs
          have hsum := sLits_length g.tag g.pres gs
          have hrest := ih (sLits g.tag g.pres gs).2 (by omega) (by omega) fun x hx => hgs x ((sLits_suffix _ _ _).subset hx)
          rw [if_neg hzero, if_neg hmany, hfirst, sLits_expand g.tag g.pres (g :: gs), hfirst, ← hrest]
          exact unstream_literals ⟨Nat.le_add_left 1 _, by show (sLits g.tag g.pres gs).1.length + 1 ≤ 64; omega⟩ htag n _ rfl

/-- The code words of a run. -/
def SpeState.runWords (p : SpeState) (r : Nat) : List Word :=
  sWords 64 (sGroups ((List.range 64).map fun i => p.now (64 * r + i)))

theorem unstream_runWords (p : SpeState) (r : Nat) :
    unstream 64 (p.runWords r) = (List.range 64).map fun i => (p.now (64 * r + i)).saved := by
  have hlen := sGroups_length ((List.range 64).map fun i => p.now (64 * r + i))
  have hfits := sGroups_fits ((List.range 64).map fun i => p.now (64 * r + i))
  rw [List.length_map, List.length_range] at hlen hfits
  rw [SpeState.runWords, unstream_sWords 64 _ hlen (le_refl 64) hfits, sGroups_expand, List.map_map]
  rfl

/-- Groups have two code words each at most. -/
theorem sWords_length (n : Nat) (gs : List SGroup) (hfit : ∀ g ∈ gs, 1 ≤ g.n) : (sWords n gs).length ≤ 2 * gs.length := by
  induction n generalizing gs with
  | zero => rw [sWords]; exact Nat.zero_le _
  | succ n ih =>
    cases gs with
    | nil => exact Nat.zero_le _
    | cons g gs =>
      obtain ⟨hn1, hgs⟩ := List.forall_mem_cons.mp hfit
      have htail := ih gs hgs
      rw [sWords, List.length_cons]
      split
      · rw [List.length_cons]; omega
      · next hzero =>
        split
        · rw [List.length_cons, List.length_cons]; omega
        · next hmany =>
          have hsum := sLits_length g.tag g.pres gs
          have hrest := ih (sLits g.tag g.pres gs).2 fun x hx => hgs x ((sLits_suffix _ _ _).subset hx)
          rw [sLits_single (by omega) hzero gs]
          show (_ :: (_ ++ _)).length ≤ _
          rw [List.length_cons, List.length_append, List.length_cons]
          omega

/-- The words of a dirty run, with the header that names the run and how many words follow. -/
def SpeState.coded (p : SpeState) (r : Nat) : List Word :=
  wordOfFields [(63, 1), (56, r), (0, (p.runWords r).length)] :: p.runWords r

theorem stream_eq (p : SpeState) : p.stream = (setBits 128 p.dirty).flatMap p.coded ++ [0] := rfl

theorem runWords_length (p : SpeState) (r : Nat) : (p.runWords r).length ≤ 128 := by
  have hlen := sGroups_length ((List.range 64).map fun i => p.now (64 * r + i))
  have hwords := sWords_length 64 (sGroups ((List.range 64).map fun i => p.now (64 * r + i))) fun g hg =>
    (sGroups_fits _ g hg).1
  rw [List.length_map, List.length_range] at hlen
  exact hwords.trans (by omega)

/-- The fields of a run's header. -/
theorem header_fields {r n : Nat} (hr : r < 128) (hn : n ≤ 128) :
    bitAt (wordOfFields [(63, 1), (56, r), (0, n)]) 63 = true ∧ fld (wordOfFields [(63, 1), (56, r), (0, n)]) 0 56 = n ∧
      fld (wordOfFields [(63, 1), (56, r), (0, n)]) 56 7 = r := by
  have hval : (wordOfFields [(63, 1), (56, r), (0, n)]).toNat = 2 ^ 63 + r * 2 ^ 56 + n := by
    rw [wordOfFields]
    iterate 3 rw [foldl_fields_cons]
    rw [List.map_nil, List.foldl_nil, BitVec.toNat_ofNat, Nat.mod_eq_of_lt (by omega)]
    omega
  refine ⟨?_, ?_, ?_⟩
  · rw [bitAt, ← BitVec.testBit_toNat, Nat.testBit_eq_decide_div_mod_eq, hval, decide_eq_true]
    omega
  · rw [fld, fldN, hval]; omega
  · rw [fld, fldN, hval]; omega

/-- The runs before the end of a stream stand for their banks' words. -/
theorem unbank_runs (p : SpeState) (rs : List Nat) (n : Nat) (hn : rs.length < n) (hrs : ∀ r ∈ rs, r < 128) :
    unbank n (rs.flatMap p.coded ++ [0]) =
      rs.map fun r => (r, (List.range 64).map fun i => (p.now (64 * r + i)).saved) := by
  induction rs generalizing n with
  | nil =>
    obtain ⟨n, rfl⟩ := Nat.exists_eq_succ_of_ne_zero (Nat.ne_of_gt hn)
    rfl
  | cons r rs ih =>
    obtain ⟨n, rfl⟩ := Nat.exists_eq_succ_of_ne_zero (Nat.ne_zero_of_lt hn)
    obtain ⟨hr, hrest⟩ := List.forall_mem_cons.mp hrs
    obtain ⟨hbit, hlen, hrun⟩ := header_fields hr (runWords_length p r)
    have htail := ih n (Nat.lt_of_succ_lt_succ hn) hrest
    rw [List.flatMap_cons, SpeState.coded, List.cons_append, List.cons_append, List.append_assoc, unbank, if_pos hbit, hlen,
      hrun]
    dsimp only
    rw [List.take_left, List.drop_left, htail, unstream_runWords, List.map_cons]

/-! ### SAVEC (R380) -/

theorem storeN_rest (s : State) (pa n v : Nat) : ∃ m b, s.storeN pa n v = { s with mem := m, bad := b } := by
  unfold State.storeN
  dsimp only
  split
  · exact ⟨_, _, rfl⟩
  · exact ⟨_, s.bad, rfl⟩

/-- Stores of a sequencer leave of it all but its kept descriptors, and the elements and presence bits. -/
theorem seqWrites_spec (ws : List Word) {s : State} {t : Nat} {q : Seq} (hq : s.seq? t = some q) (va : Nat) :
    (∃ tc, (s.seqWrites t va ws).1.seq? t = some { q with tc := tc }) ∧
      (s.seqWrites t va ws).1.elems = s.elems ∧ (s.seqWrites t va ws).1.presence = s.presence := by
  induction ws generalizing s q va with
  | nil => exact ⟨⟨q.tc, hq⟩, rfl, rfl⟩
  | cons w ws ih =>
    have hx := xlated_seq hq (s.seqXlat q .store va 8)
    rw [State.seqWrites, hq]
    dsimp only
    split
    · obtain ⟨l, n, hlog⟩ := logRead_rest (s.xlated t (s.seqXlat q .store va 8)) t (s.seqXlat q .store va 8).cause
      rw [hlog]
      exact ⟨⟨_, hx⟩, rfl, rfl⟩
    · split
      · exact ⟨⟨_, hx⟩, rfl, rfl⟩
      · obtain ⟨m, b, hstore⟩ := storeN_rest (s.xlated t (s.seqXlat q .store va 8)) (s.seqXlat q .store va 8).pa 8 w.toNat
        rw [hstore]
        obtain ⟨⟨tc, hseq⟩, helems, hpres⟩ :=
          ih (s := { s.xlated t (s.seqXlat q .store va 8) with mem := m, bad := b }) hx (va + 8)
        exact ⟨⟨tc, hseq⟩, helems, hpres⟩

section
variable {s : State} {t : Nat} {q : Seq} {d a b : BitVec 5} {x : Site} (h : seqThere s t q) (hp : q.priv = true)
  (hx : s.siteOf t (q.reg a &&& 0xFF) = some x)
include h hp hx

/-- SAVEC by its checks, in order. -/
theorem exec_savec : exec (.savec d a b) s = .next
    (if kindAt x.site ≠ .spe then s.trapQ t Cause.elemsel
    else if ¬ (s.siteElem x).halted ∨ ¬ ((s.siteElem x).spe.mp.st = 0 ∨ (s.siteElem x).spe.mp.st = 3) then
      s.trapQ t Cause.elemlive
    else if (q.reg b).toNat % 8 ≠ 0 then s.trapQ t Cause.align
    else if (s.seqWrites t (q.reg b).toNat (s.siteElem x).spe.stream).2 ≠ 0 then
      (s.seqWrites t (q.reg b).toNat (s.siteElem x).spe.stream).1.trapQ t
        (s.seqWrites t (q.reg b).toNat (s.siteElem x).spe.stream).2
    else (s.seqWrites t (q.reg b).toNat (s.siteElem x).spe.stream).1.seqDone t d
      (BitVec.ofNat 64 (8 * (s.siteElem x).spe.stream.length))
      (64 * (setBits 128 (s.siteElem x).spe.dirty).length + ceilDiv (8 * (s.siteElem x).spe.stream.length) 64)) := by
  show execSavec d a b s = _
  rw [execSavec, withSeq_there _ h, if_neg (by simp [hp]), hx]

theorem savec_otherKind (hk : kindAt x.site ≠ .spe) : trapsSeq (.savec d a b) s t q Cause.elemsel := by
  refine trapsSeq_of_trapQ h ?_
  rw [exec_savec h hp hx, if_pos hk]

variable (hk : kindAt x.site = .spe)
include hk

theorem savec_live
    (hlive : ¬((s.siteElem x).halted = true ∧ ((s.siteElem x).spe.mp.st = 0 ∨ (s.siteElem x).spe.mp.st = 3))) :
    trapsSeq (.savec d a b) s t q Cause.elemlive := by
  refine trapsSeq_of_trapQ h ?_
  rw [exec_savec h hp hx, if_neg (not_not.mpr hk), if_pos (not_and_or.mp hlive)]

variable (hready : (s.siteElem x).halted = true ∧ ((s.siteElem x).spe.mp.st = 0 ∨ (s.siteElem x).spe.mp.st = 3))
include hready

theorem savec_misaligned (hal : (q.reg b).toNat % 8 ≠ 0) : trapsSeq (.savec d a b) s t q Cause.align := by
  refine trapsSeq_of_trapQ h ?_
  rw [exec_savec h hp hx, if_neg (not_not.mpr hk), if_neg (not_or.mpr ⟨not_not.mpr hready.1, not_not.mpr hready.2⟩),
    if_pos hal]

theorem exec_savec_saves (hal : (q.reg b).toNat % 8 = 0)
    (hok : (s.seqWrites t (q.reg b).toNat (s.siteElem x).spe.stream).2 = 0) : exec (.savec d a b) s = .next
      ((s.seqWrites t (q.reg b).toNat (s.siteElem x).spe.stream).1.seqDone t d
        (BitVec.ofNat 64 (8 * (s.siteElem x).spe.stream.length))
        (64 * (setBits 128 (s.siteElem x).spe.dirty).length + ceilDiv (8 * (s.siteElem x).spe.stream.length) 64)) := by
  rw [exec_savec h hp hx, if_neg (not_not.mpr hk), if_neg (not_or.mpr ⟨not_not.mpr hready.1, not_not.mpr hready.2⟩),
    if_neg (not_not.mpr hal), if_neg (not_not.mpr hok)]

end

/-- What a word of one clock leaves: the register written and the next pc, and memory as it was. -/
theorem seqDone_there {s : State} {t : Nat} {q : Seq} (hq : s.seq? t = some q) (d : BitVec 5) (v : Word) (lat : Nat) :
    ∃ q', (s.seqDone t d v lat).seq? t = some q' ∧ q'.pc = q.pc + 4 ∧
      ∀ j, q'.reg j = if j = d ∧ d ≠ 0 then v else q.reg j := by
  refine ⟨_, (modSeq_spec s t q (fun q => { (q.setReg d v).next with busy := s.clock + lat }) hq
    fun q h => (setReg_tile q d v).trans h).1, ?_, fun j => reg_setReg q d j v⟩
  show (q.setReg d v).pc + 4 = _
  rw [setReg_pc]

/-! ### The obligation -/

/-- Settles O10: TINV by whether an access of a sequencer waits in its range and whether a run is to drain; SAVEC by its checks
in order; the stream by what its code words stand for, run by run. -/
theorem invalidationAndBankSave : Obligations.InvalidationAndBankSave := by
  refine ⟨fun s t q a b h hp => ?_, fun s t q d a b x h hp hx => ?_, fun p => ⟨?_, ?_⟩⟩
  · intro lo hi k held
    have hr : tinvRange (q.reg a) (q.reg b) = (lo, hi) := tinvRange_eq _ _
    refine ⟨exec_tinv_waits h hp hr, fun hfree => ?_⟩
    obtain ⟨tc, hseq⟩ := tinvIssued_seq (n := k) (lo := lo) (hi := hi) h.2
    have hdrops := tinvIssued_drops (s := s) (t := t) (n := k) (lo := lo) (hi := hi)
    obtain ⟨hmem, helems, hpres⟩ := tinvIssued_frame (s := s) (t := t) (n := k) (lo := lo) (hi := hi)
    have hnum : BitVec.ofNat 40 k = q.tinvseq + 1 :=
      (BitVec.ofNat_toNat 40 _).trans (BitVec.setWidth_eq _)
    have inSeqs {s' : State} (hd : dropsRange s' lo hi) (u : Nat) (p : Seq) (hu : s'.seq? u = some p) :=
      hd.seqs p (List.mem_of_find?_eq_some hu)
    by_cases hports : s.drainPorts lo hi = []
    · have hdone := hdrops.tinvComplete t k
      exact ⟨_, _, exec_tinv_completes h hp hr hfree hports, tinvComplete_seq hseq, rfl, rfl, hnum, inSeqs hdone, hdone.dies,
        hdone.loads, fun _ => ⟨hnum, rfl⟩, fun hne => absurd hports hne, hmem, helems, hpres⟩
    · refine ⟨_, _, exec_tinv_drains h hp hr hfree hports, hseq, rfl, rfl, hnum, inSeqs hdrops, hdrops.dies, hdrops.loads,
        fun hnil => absurd hnil hports, fun _ => ⟨rfl, rfl, ?_, tinvIssued_accs⟩, hmem, helems, hpres⟩
      exact List.mem_append_right _ (List.mem_singleton.mpr rfl)
  · intro e ready ws
    refine ⟨savec_otherKind h hp hx, savec_live h hp hx, savec_misaligned h hp hx, fun hk hready hal hok => ?_⟩
    obtain ⟨⟨tc, hseq⟩, helems, hpres⟩ := seqWrites_spec ws h.2 (q.reg b).toNat
    obtain ⟨q', hq', hpc, hreg⟩ := seqDone_there hseq d (BitVec.ofNat 64 (8 * ws.length))
      (64 * (setBits 128 e.spe.dirty).length + ceilDiv (8 * ws.length) 64)
    exact ⟨_, q', exec_savec_saves h hp hx hk hready hal hok, hq', hpc, hreg, rfl, helems, hpres⟩
  · have hlen : (setBits 128 p.dirty).length ≤ 128 := (List.length_filter_le _ _).trans (List.length_range).le
    rw [stream_eq, unbank_runs p _ 129 (Nat.lt_succ_of_le hlen) fun r hr => List.mem_range.mp (List.mem_filter.mp hr).1]
    rfl
  · rw [stream_eq, List.getLast?_append]
    rfl

end Sys2Proof.Machine
end

section
/-! SUPPORT. The hardware task scheduler (R272, R345, R346, R349 to R351): what a dispatch begins and ends with, what the entries
of a fabric load hold after a write, a request, a return and an emission, what a choice leaves, and the obligation about them. -/

namespace Sys2Proof.Machine

open Sys2Proof Sys2Proof.Safety

/-! ### Words written one after another -/

theorem putWords_rest (ws : List Word) (s : State) (a : Nat) : ∃ m b, s.putWords a ws = { s with mem := m, bad := b } := by
  induction ws generalizing s a with
  | nil => exact ⟨s.mem, s.bad, rfl⟩
  | cons w ws ih => exact ih (s.putWord a w) (a + 8)

theorem putWords_wf (ws : List Word) (s : State) (a : Nat) (h : Memory.wf s.mem = true) :
    Memory.wf (s.putWords a ws).mem = true := by
  induction ws generalizing s a with
  | nil => exact h
  | cons w ws ih => exact ih (s.putWord a w) (a + 8) (putWord_wf s a w h)

/-- Only memory and its errors change, and memory keeps its canonical form. -/
def writesMem (s s' : State) : Prop :=
  (∃ m b, s' = { s with mem := m, bad := b }) ∧ (Memory.wf s.mem = true → Memory.wf s'.mem = true)

theorem writesMem.refl (s : State) : writesMem s s := ⟨⟨s.mem, s.bad, rfl⟩, id⟩

theorem writesMem.trans {a b c : State} (h1 : writesMem a b) (h2 : writesMem b c) : writesMem a c := by
  obtain ⟨⟨m, x, rfl⟩, hwf1⟩ := h1
  obtain ⟨⟨m', x', rfl⟩, hwf2⟩ := h2
  exact ⟨⟨m', x', rfl⟩, hwf2 ∘ hwf1⟩

theorem putWords_writesMem (ws : List Word) (s : State) (a : Nat) : writesMem s (s.putWords a ws) :=
  ⟨putWords_rest ws s a, putWords_wf ws s a⟩

theorem copyWindows_writesMem (s : State) (x : Load) (slot : Nat) (ws : List (Option (List Word))) :
    writesMem s (s.copyWindows x slot ws) := by
  refine foldl_keeps (R := writesMem) .refl .trans _ (fun s t => ?_) _ s
  refine foldl_keeps (R := writesMem) .refl .trans _ (fun s p => ?_) _ s
  split
  · exact putWords_writesMem _ s _
  · exact .refl s

/-! ### DISPATCH (R272, R345) -/

theorem die_n {s : State} {n : Nat} {d : Die} (h : s.die? n = some d) : d.n = n := by
  simpa using List.find?_some h

/-- A dispatch whose checks pass and whose runs are all of this package. -/
theorem beginDispatch_local {s : State} {n : Nat} {r : ReadyEnt} {x : Load} (hbad : s.recBad r.handle = false)
    (hentry : s.trEntry r.handle < x.entries.length)
    (hcause : (s.windows r.handle (s.translate r.handle)).1.cause = 0)
    (hruns : ∀ q ∈ (s.windows r.handle (s.translate r.handle)).1.runs, q.p = true → q.pkg = s.ownPkg) :
    ∃ p : Dispatch, s.beginDispatch n r x =
        ((s.unready r.handle).keepTrans n (s.windows r.handle (s.translate r.handle)).1).tick.modDie n
          (fun y => { y with disp := some p }) ∧
      p.handle = r.handle ∧ p.load = x.ref ∧ p.slot = x.freeSlot.getD 0 ∧ p.probes = [] ∧
      s.clock + 40 + 4 * (s.windows r.handle (s.translate r.handle)).1.runs.length ≤ p.due := by
  have hpkgs : (s.windows r.handle (s.translate r.handle)).1.runs.filter (fun q => q.p && q.pkg != s.ownPkg) = [] :=
    List.filter_eq_nil_iff.mpr fun q hq hq' => by
      obtain ⟨hp, hpkg⟩ := Bool.and_eq_true_iff.mp hq'
      exact bne_iff_ne.mp hpkg (hruns q hq hp)
  rw [State.beginDispatch]
  dsimp only
  rw [if_neg (ne_true_of_eq_false hbad), if_neg (by omega), if_neg (not_not.mpr hcause), hpkgs]
  exact ⟨_, rfl, rfl, rfl, rfl, rfl, by dsimp only; omega⟩

section
variable {s : State} {n : Nat} {d : Die} (ha : s.actor = .die n) (hd : s.die? n = some d)
include ha hd

theorem exec_dispatch_chooses {r : ReadyEnt} {x : Load} (hdisp : d.disp = none) (hc : s.chooseTask d = some (r, x)) :
    exec .dispatch s = .next (s.beginDispatch n r x) := by
  show execDispatch s = _
  simp only [execDispatch, ha, hd, hdisp, hc]

theorem exec_dispatch_ends {p : Dispatch} (hdisp : d.disp = some p) (hdue : p.due ≤ s.clock) (hprobes : p.probes = [])
    (hheld : s.weightHeld p.x = false) : exec .dispatch s = .next (s.endDispatch n p) := by
  show execDispatch s = _
  simp only [execDispatch, ha, hd, hdisp]
  rw [if_neg]
  simp [hprobes, hheld, hdue]

end

/-- The die, the ready queue and memory after a dispatch has begun. -/
theorem beginDispatch_die {s : State} {n h : Nat} {d : Die} (hd : s.die? n = some d) (hh : handleDie h = n) (t : Trans)
    (p : Dispatch) : (((s.unready h).keepTrans n t).tick.modDie n fun y => { y with disp := some p }).die? n = some { d with
      ready := d.ready.filter fun z => decide (z.handle ≠ h), hcache := t.tc, disp := some p } := by
  have h1 : (s.unready h).die? n = some { d with ready := d.ready.filter fun z => decide (z.handle ≠ h) } := by
    rw [State.unready, hh]
    exact modDie_there hd _ fun _ h => h
  have h2 : ((s.unready h).keepTrans n t).tick.die? n =
      some { d with ready := d.ready.filter fun z => decide (z.handle ≠ h), hcache := t.tc } :=
    modDie_there h1 (fun d => { d with hcache := t.tc }) fun _ h => h
  exact modDie_there h2 _ fun _ h => h

section
variable {s : State} {n : Nat} {d : Die} {p : Dispatch} {x : Load}

/-- A dispatch that ends on a load with its slot free, and windows that may not be copied (R272). -/
theorem endDispatch_fails (hx : s.load? p.load = some x) (hphase : x.phase = .resident)
    (hslot : x.slots.getD p.slot none = none) {c : Nat} (hc : (s.windows p.handle ⟨[], 0, [], s.freeCount, 0⟩).1.cause = c)
    (hne : c ≠ 0) (hnu : c ≠ Cause.uncorrectable) :
    s.endDispatch n p = (s.modDie n fun y => { y with disp := none }).abandonRec p.handle c := by
  rw [State.endDispatch, hx]
  dsimp only
  rw [if_neg (by simp [hphase, hslot, -List.getD_eq_getElem?_getD]), if_pos (by rwa [hc]), hc, State.abandonTrans, if_neg hnu]

/-- The task of a dispatch as it takes its slot at a clock. -/
def Dispatch.task (p : Dispatch) (clock : Nat) (steps : List (Nat × Nat × Nat)) : SlotX :=
  { p.x with steps := steps, dispAt := clock }

/-- The machine with the task of a dispatch in its slot and its windows copied (R272). -/
def State.dispatched (s : State) (n : Nat) (p : Dispatch) (x : Load) : State :=
  ((s.modDie n fun y => { y with disp := none }).modLoad p.load fun x =>
    { x with slots := x.slots.set p.slot (some (p.task s.clock (s.stepsOf p.load))), lastDisp := s.clock }).copyWindows x
      p.slot (s.windows p.handle ⟨[], 0, [], s.freeCount, 0⟩).2

theorem endDispatch_takes (hx : s.load? p.load = some x) (hphase : x.phase = .resident)
    (hslot : x.slots.getD p.slot none = none) (hvote : s.vote? p.handle = none)
    (hc : (s.windows p.handle ⟨[], 0, [], s.freeCount, 0⟩).1.cause = 0) :
    s.endDispatch n p = ((s.dispatched n p x).setTrState p.handle 3).setPend p.handle (s.trCount p.handle) := by
  rw [State.endDispatch, hx]
  dsimp only
  rw [if_neg (by simp [hphase, hslot, -List.getD_eq_getElem?_getD]), if_neg (not_not.mpr hc), hvote]
  rfl

theorem dispatched_wf (hm : Memory.wf s.mem = true) : Memory.wf (s.dispatched n p x).mem = true :=
  (copyWindows_writesMem _ x p.slot _).2 hm

theorem dispatched_dv : (s.dispatched n p x).dv = s.dv := by
  obtain ⟨m, b, hcopy⟩ := (copyWindows_writesMem _ x p.slot _).1
  rw [State.dispatched, hcopy]
  rfl

theorem dispatched_die (hd : s.die? n = some d) : (s.dispatched n p x).die? n = some { d with disp := none } := by
  obtain ⟨m, b, hcopy⟩ := (copyWindows_writesMem _ x p.slot _).1
  rw [State.dispatched, hcopy]
  exact modDie_there hd (fun y => { y with disp := none }) fun _ h => h

theorem dispatched_load (hx : s.load? p.load = some x) : (s.dispatched n p x).load? p.load = some { x with
    slots := x.slots.set p.slot (some (p.task s.clock (s.stepsOf p.load))), lastDisp := s.clock } := by
  obtain ⟨m, b, hcopy⟩ := (copyWindows_writesMem _ x p.slot _).1
  rw [State.dispatched, hcopy]
  exact modLoad_there (s := s.modDie n fun y => { y with disp := none }) hx (fun x =>
    { x with slots := x.slots.set p.slot (some (p.task s.clock (s.stepsOf p.load))), lastDisp := s.clock }) fun _ h => h

end

/-- A record that becomes RUNNING with a pending count (R345). -/
theorem setTrState_setPend {s : State} {h a : Nat} (ha : s.recAddr h = some a) (hm : Memory.wf s.mem = true) (st n : Nat) :
    ((s.setTrState h st).setPend h n).trState h = st % 16 ∧ ((s.setTrState h st).setPend h n).trPend h = n % 2 ^ 32 := by
  have ha' : (s.setTrState h st).recAddr h = some a := (recAddr_setRecField s h 0x00 44 4 st h).trans ha
  have hm' : Memory.wf (s.setTrState h st).mem = true := setRecField_wf s h 0x00 44 4 st hm
  refine ⟨?_, recField_setRecField ha' hm' (by norm_num) 0x08 n⟩
  exact (recField_setRecField_other ha' hm' (by norm_num) 0x08 n (Or.inr (Or.inl (by norm_num)))).trans
    (trState_setTrState ha hm st)

theorem recField_lt (s : State) (h off lo n : Nat) : s.recField h off lo n < 2 ^ n := by
  unfold State.recField
  split
  · exact Nat.mod_lt _ (by positivity)
  · positivity

theorem setTrState_setPend_rest (s : State) (h st n : Nat) :
    ∃ m, (s.setTrState h st).setPend h n = { s with mem := m } := by
  obtain ⟨m, h1⟩ := setRecField_rest s h 0x00 44 4 st
  obtain ⟨m', h2⟩ := setRecField_rest (s.setTrState h st) h 0x08 0 32 n
  refine ⟨m', h2.trans ?_⟩
  rw [State.setTrState, h1]

/-! ### The configuration scheduler's choice (R346) -/

/-- What the choice of a configuration looks at is none of a die's. -/
theorem chooseConfig_modDie (s : State) (n : Nat) (f : Die → Die) (d : Die) :
    (s.modDie n f).chooseConfig d = s.chooseConfig d := rfl

theorem choiceDue_iff (s : State) (d : Die) : s.choiceDue d = true ↔
    d.csDue = true ∨ d.csAt + 256 ≤ s.clock ∨ ∃ c ∈ s.candidates d, c ∉ d.cands := by
  simp [State.choiceDue, or_assoc]

section
variable {s : State} {n : Nat} {d : Die} (ha : s.actor = .die n) (hd : s.die? n = some d)
include ha hd

theorem exec_configurationChoice : exec .configurationChoice s = .next
    (if s.choiceDue d = true ∧ d.inst.isNone = true then
      (s.modDie n fun x => { x with cands := s.candidates x, csDue := s.choiceDue d }).makeChoice d
    else s.modDie n fun x => { x with cands := s.candidates x, csDue := s.choiceDue d }) := by
  show execConfigurationChoice s = _
  simp only [execConfigurationChoice, ha, hd]

/-- A choice that waits, or is not due (R346, R348). -/
theorem configurationChoice_waits (hw : d.inst ≠ none ∨ s.choiceDue d = false) :
    exec .configurationChoice s =
      .next (s.modDie n fun x => { x with cands := s.candidates x, csDue := s.choiceDue d }) := by
  refine (exec_configurationChoice ha hd).trans (congrArg _ (if_neg fun ⟨hdue, hinst⟩ => ?_))
  exact hw.elim (fun h => h (Option.isNone_iff_eq_none.mp hinst)) fun h => Bool.false_ne_true (h.symm.trans hdue)

theorem configurationChoice_chooses (hinst : d.inst = none) (hdue : s.choiceDue d = true) :
    exec .configurationChoice s =
      .next ((s.modDie n fun x => { x with cands := s.candidates x, csDue := s.choiceDue d }).makeChoice d) :=
  (exec_configurationChoice ha hd).trans (congrArg _ (if_pos ⟨hdue, Option.isNone_iff_eq_none.mpr hinst⟩))

end

/-- The configuration chosen goes to sq.CSREQ, with the CSREQ event at the installer tile (R346). -/
theorem makeChoice_some {s : State} {n : Nat} {d0 d : Die} {k : CKey} (hn : d0.n = n) (hd : s.die? n = some d)
    (hk : s.chooseConfig d0 = some k) :
    (s.makeChoice d0).mem = s.mem ∧
    (∃ y, (s.makeChoice d0).die? n = some y ∧ y.csreq = k.cfgid ∧ y.csDue = false ∧ y.csAt = s.clock ∧ y.cands = d.cands) ∧
    ∀ t q, s.installer n = some t → s.seq? t = some q →
      (s.makeChoice d0).seq? t = some { q with evpend := q.evpend ||| 1 } := by
  have hdie := modDie_there hd (fun d => { d with
    csreq := k.cfgid, csAt := s.clock, csDue := false
    csRestore := union d.csRestore (((s.readyOf d0 k.cfgid).find? fun r => s.isOwner r.handle).map (·.handle)).toList })
    fun _ h => h
  rw [State.makeChoice, hk, hn]
  dsimp only
  cases hi : s.installer n with
  | none => exact ⟨rfl, ⟨_, hdie, rfl, rfl, rfl, rfl⟩, fun t q h => absurd h (by simp)⟩
  | some u =>
    refine ⟨rfl, ⟨_, hdie, rfl, rfl, rfl, rfl⟩, fun t q h hq => ?_⟩
    obtain rfl := Option.some.inj h
    exact setEvent_there hq 0

/-! ### Entries of a fabric load (R349 to R351) -/

theorem modEntry_there {s : State} {l : LoadRef} {x : Load} (hx : s.load? l = some x) (n : Nat) (f : EntryQ → EntryQ) :
    (s.modEntry l n f).load? l = some { x with entries := x.entries.modify n f } :=
  modLoad_there hx _ fun _ h => h

theorem modSlot_there {s : State} {l : LoadRef} {x : Load} (hx : s.load? l = some x) (k : Nat) (f : SlotX → SlotX) :
    (s.modSlot l k f).load? l = some { x with slots := x.slots.mapIdx fun j y => if j = k then y.map f else y } :=
  modLoad_there hx _ fun _ h => h

theorem slots_modSlot {xs : List (Option SlotX)} {k : Nat} {t : SlotX} (h : xs.getD k none = some t) (f : SlotX → SlotX) :
    (xs.mapIdx fun j y => if j = k then y.map f else y).getD k none = some (f t) := by
  rw [List.getD_eq_getElem?_getD] at h ⊢
  rw [List.getElem?_mapIdx]
  cases hk : xs[k]? with
  | none => rw [hk] at h; exact absurd h (by simp)
  | some y =>
    rw [hk] at h
    simp_all

/-- Entry n of a fabric load, where it was as q in x, is now q', and the others are as they were. -/
def entryIs (s' : State) (l : LoadRef) (n : Nat) (x : Load) (q' : EntryQ) : Prop :=
  ∃ y, s'.load? l = some y ∧ y.entries[n]? = some q' ∧ ∀ m, m ≠ n → y.entries[m]? = x.entries[m]?

theorem modEntry_entryIs {s : State} {l : LoadRef} {x : Load} {n : Nat} {q : EntryQ} (hx : s.load? l = some x)
    (hq : x.entries[n]? = some q) (f : EntryQ → EntryQ) : entryIs (s.modEntry l n f) l n x (f q) := by
  refine ⟨_, modEntry_there hx n f, ?_, fun m hm => ?_⟩
  · rw [List.getElem?_modify_eq, hq]; rfl
  · exact List.getElem?_modify_ne f x.entries (Ne.symm hm)

section
variable {s : State} {l : LoadRef} {n : Nat} {x : Load} {q : EntryQ} (hx : s.load? l = some x)
  (hq : x.entries[n]? = some q)
include hx hq

theorem ringPut_eq (v : Word) : s.ringPut l n v =
    (s.putWord (ringAddr l.die l.fab n (q.head + q.count)) v).modEntry l n fun q => { q with count := q.count + 1 } := by
  rw [State.ringPut, hx]
  dsimp only
  rw [hq]

/-- The machine after payload j of the task in slot k has been written to the ring of the entry (R350). -/
def State.tokenWritten (s : State) (l : LoadRef) (n k j : Nat) : State :=
  ((s.ringPut l n (BitVec.ofNat 64 (k * 2 ^ 61 + j))).modSlot l k fun t => { t with written := t.written + 1 }).modEntry l n
    fun q => { q with turn := k }

theorem tokenWritten_mem (k j : Nat) : (s.tokenWritten l n k j).mem =
    (s.putWord (ringAddr l.die l.fab n (q.head + q.count)) (BitVec.ofNat 64 (k * 2 ^ 61 + j))).mem := by
  rw [State.tokenWritten, ringPut_eq hx hq]
  rfl

theorem tokenWritten_load {k : Nat} {t : SlotX} (ht : x.slots.getD k none = some t) (j : Nat) :
    ∃ y, (s.tokenWritten l n k j).load? l = some y ∧ y.slots.getD k none = some { t with written := t.written + 1 } ∧
      y.entries[n]? = some { q with count := q.count + 1, turn := k } ∧ ∀ m, m ≠ n → y.entries[m]? = x.entries[m]? := by
  have h1 := modEntry_there (s := s.putWord (ringAddr l.die l.fab n (q.head + q.count)) (BitVec.ofNat 64 (k * 2 ^ 61 + j))) hx n
    fun q => { q with count := q.count + 1 }
  have h2 := modEntry_there (modSlot_there h1 k fun t => { t with written := t.written + 1 }) n fun q => { q with turn := k }
  rw [State.tokenWritten, ringPut_eq hx hq]
  refine ⟨_, h2, slots_modSlot ht _, ?_, fun m hm => ?_⟩
  · simp only [List.getElem?_modify_eq, hq]
    rfl
  · simp only [List.getElem?_modify_ne _ _ (Ne.symm hm)]

variable (ha : s.actor = .loadN l n)
include ha

theorem exec_threadTokenWrite {k : Nat} {t : SlotX} (hw : x.mayWrite n = true)
    (hk : nextTurn q.turn (x.feeding n) = some k) (ht : x.slots.getD k none = some t) :
    ∃ ts, exec .threadTokenWrite s = .next ((s.tokenWritten l n k t.written).push ts) := by
  obtain ⟨y, hy, -⟩ := tokenWritten_load hx hq ht t.written
  have hexec : exec .threadTokenWrite s = (if y.mayWrite n then
      .next ((s.tokenWritten l n k t.written).push [.event .threadTokenWrite (.loadN l n)])
    else .next (s.tokenWritten l n k t.written)) := by
    rw [State.tokenWritten] at hy ⊢
    show execThreadTokenWrite s = _
    simp only [execThreadTokenWrite, ha, hx, hq, hw, hk, ht, hy, not_true, if_false]
  rw [hexec]
  split
  · exact ⟨_, rfl⟩
  · exact ⟨[], rfl⟩

theorem exec_refillReturn {back rest : List (Nat × Nat)} (hreqs : q.reqs = back ++ rest) (hback : ∀ p ∈ back, p.1 ≤ s.clock)
    (hrest : ∀ p, rest.head? = some p → s.clock < p.1) : exec .refillReturn s = .next (s.modEntry l n fun z =>
      { z with
        reqs := rest
        head := (z.head + (back.map (·.2)).foldl (· + ·) 0) % 512
        count := z.count - (back.map (·.2)).foldl (· + ·) 0
        buf := z.buf ++ (List.range ((back.map (·.2)).foldl (· + ·) 0)).map fun i =>
          s.word (ringAddr l.die l.fab n (q.head + i)) }) := by
  have htake : q.reqs.takeWhile (fun r => decide (r.1 ≤ s.clock)) = back := by
    rw [hreqs, List.takeWhile_append_of_pos fun p hp => decide_eq_true (hback p hp)]
    cases rest with
    | nil => rw [List.takeWhile_nil, List.append_nil]
    | cons p ps => rw [List.takeWhile_cons_of_neg (by simpa using hrest p rfl), List.append_nil]
  have hret : q.returned s.clock = ((back.map (·.2)).foldl (· + ·) 0, rest) := by
    rw [EntryQ.returned, htake, hreqs, List.drop_left]
  show execRefillReturn s = _
  simp only [execRefillReturn, ha, hx, hq, hret]

variable (hphase : x.phase = .resident)
include hphase

theorem exec_refillRequest (hask : q.mayAsk = true) : ∃ ts, exec .refillRequest s = .next ((s.modEntry l n fun _ =>
    { q with reqs := q.reqs ++ [(s.clock + 30, min 8 q.unasked)] }).push ts) := by
  have hexec : exec .refillRequest s = .next
      (if ({ q with reqs := q.reqs ++ [(s.clock + 30, min 8 q.unasked)] } : EntryQ).mayAsk then
        (s.modEntry l n fun _ => { q with reqs := q.reqs ++ [(s.clock + 30, min 8 q.unasked)] }).push
          [.event .refillRequest (.loadN l n)]
      else s.modEntry l n fun _ => { q with reqs := q.reqs ++ [(s.clock + 30, min 8 q.unasked)] }) := by
    show execRefillRequest s = _
    simp only [execRefillRequest, ha, hx, hq, hphase, hask, ne_eq, not_true, or_self, if_false]
  rw [hexec]
  split
  · exact ⟨_, rfl⟩
  · exact ⟨[], rfl⟩

theorem exec_entryEmit {v : Word} {rest : List Word} {e : Elem} (hbuf : q.buf = v :: rest)
    (he : s.elem? ⟨l.die, l.fab, q.lt, q.site⟩ = some e) (hspace : e.space q.port = true) : exec .entryEmit s = .next
      ((s.modElem ⟨l.die, l.fab, q.lt, q.site⟩ fun _ => s.placed e q.port (dataTok 0 v) e).modEntry l n fun z =>
        { z with buf := rest }) := by
  show execEntryEmit s = _
  simp only [execEntryEmit, ha, hx, hq, hbuf, he, hphase, hspace, ne_eq, not_true, or_self, if_false]
  rfl

end

/-! ### The obligation -/

/-- Settles O39: a dispatch by whether one is in progress and what its checks found, a choice by whether it is due, each step of
an entry by the entry that it leaves. -/
theorem taskScheduling : Obligations.TaskScheduling := by
  intro s hm
  refine ⟨fun n d ha hd => ⟨fun r x hdisp hc hh hbad hentry hcause hruns => ?_,
      fun p x a hdisp hdue hprobes hheld hx hphase hslot hlen hvote hrec hcause => ?_,
      fun p c hdisp hdue hprobes hheld hthere hfree hcause hne hnu => ?_, choiceDue_iff s d, fun hinst hdue k hk => ?_,
      fun hw => ?_⟩, fun l n x q ha hx hq hphase => ?_⟩
  · obtain ⟨p, hbegin, hhandle, hload, hslot, hprobes, hdue⟩ := beginDispatch_local (n := n) hbad hentry hcause hruns
    have hexec := (exec_dispatch_chooses ha hd hdisp hc).trans (congrArg _ hbegin)
    have hdie := beginDispatch_die hd hh (s.windows r.handle (s.translate r.handle)).1 p
    refine ⟨_, _, p, hexec, ?_, hdie, ?_, ?_, hhandle, hload, hslot, hprobes, hdue⟩
    · simp only [modDie_mem, tick_mem, State.keepTrans, State.unready]
    · rfl
    · rfl
  · have hexec := (exec_dispatch_ends ha hd hdisp hdue hprobes hheld).trans
      (congrArg _ (endDispatch_takes hx hphase hslot hvote hcause))
    have hrec' := (recAddr_of_dv (dispatched_dv (s := s) (n := n) (p := p) (x := x)) p.handle).trans hrec
    obtain ⟨hst, hpend⟩ := setTrState_setPend hrec' (dispatched_wf hm) 3 (s.trCount p.handle)
    obtain ⟨m, hrest⟩ := setTrState_setPend_rest (s.dispatched n p x) p.handle 3 (s.trCount p.handle)
    have hdie := dispatched_die (p := p) (x := x) hd
    have hload := dispatched_load (n := n) hx
    have hcount : s.trCount p.handle % 2 ^ 32 = s.trCount p.handle := Nat.mod_eq_of_lt (recField_lt s p.handle 0x00 0 32)
    rw [hrest] at hexec hst hpend
    refine ⟨_, _, _, hexec, hdie, rfl, hload, ⟨p.task s.clock (s.stepsOf p.load), ?_, rfl⟩, hst, hpend.trans hcount⟩
    rw [List.getD_eq_getElem?_getD, List.getElem?_set_self hlen]
    rfl
  · obtain ⟨x, hx⟩ := Option.isSome_iff_exists.mp hthere
    obtain ⟨hphase, hslot⟩ := hfree x hx
    exact ⟨_, (exec_dispatch_ends ha hd hdisp hdue hprobes hheld).trans
      (congrArg _ (endDispatch_fails hx hphase hslot hcause hne hnu)), rfl, modDie_there hd _ fun _ h => h⟩
  · have hdie := modDie_there hd (fun x => { x with cands := s.candidates x, csDue := s.choiceDue d }) fun _ h => h
    obtain ⟨hmem, ⟨y, hy, hreq, hcd, hat, hcands⟩, hev⟩ :=
      makeChoice_some (die_n hd) hdie ((chooseConfig_modDie s n _ d).trans hk)
    exact ⟨_, y, configurationChoice_chooses ha hd hinst hdue, hy, hreq, hcd, hat, hcands, hmem, hev⟩
  · exact ⟨_, configurationChoice_waits ha hd hw, modDie_there hd _ fun _ h => h, rfl⟩
  · intro after
    refine ⟨fun k t hw hk ht => ?_, fun hask => ?_, fun back rest hreqs hback hrest => ?_, fun v rest e hbuf he hspace => ?_⟩
    · obtain ⟨ts, hexec⟩ := exec_threadTokenWrite hx hq ha hw hk ht
      obtain ⟨y, hy, hslot, hentry, hothers⟩ := tokenWritten_load hx hq ht t.written
      have hmem := tokenWritten_mem hx hq k t.written
      refine ⟨_, y, ⟨hexec, y, hy, hentry, hothers⟩, ?_, fun b hb => ?_, hy, hslot⟩
      · exact (word_of_mem hmem _).trans (word_putWord s _ _ hm)
      · exact (byte_of_mem hmem b).trans (putWord_onlyBytes s _ _ hm b hb)
    · obtain ⟨ts, hexec⟩ := exec_refillRequest hx hq ha hphase hask
      exact ⟨_, ⟨hexec, modEntry_entryIs hx hq _⟩, rfl⟩
    · intro k
      exact ⟨_, ⟨exec_refillReturn hx hq ha hreqs hback hrest, modEntry_entryIs hx hq _⟩, rfl⟩
    · have hput : (s.placed e q.port (dataTok 0 v) e).ref = ⟨l.die, l.fab, q.lt, q.site⟩ := elem_ref (e := e) he
      exact ⟨_, _, ⟨exec_entryEmit hx hq ha hphase hbuf he hspace,
        modEntry_entryIs (s := s.modElem _ fun _ => s.placed e q.port (dataTok 0 v) e) hx hq _⟩,
        (modElem_there he fun _ _ => hput).1, placed_putsTok s e q.port (dataTok 0 v) e, rfl⟩

end Sys2Proof.Machine
end

section
/-! SUPPORT. Issue of accesses at a memory port and the way back of replies (R175, R258, R269, R275, R276, R278, R282): what
opening, filling and taking the cells of a reply group leaves, what an issue adds, and the obligation about them. -/

namespace Sys2Proof.Machine

open Sys2Proof Sys2Proof.Safety

/-! ### The reply groups of a port (R275) -/

theorem withElemN_there {s : State} {r : ElemRef} {n : Nat} {e : Elem} (h : elemActN s r n e)
    (g : ElemRef → Nat → Elem → State) : withElemN s g = .next (g r n e) := by
  simp only [withElemN, h.1, h.2]

theorem modMpe_there {s : State} {r : ElemRef} {e : Elem} (he : s.elem? r = some e) (f : MpeState → MpeState) :
    (s.modMpe r f).elem? r = some (e.setMpe (f e.mpe)) :=
  (modElem_there he (f := fun e => e.setMpe (f e.mpe)) fun _ h => h).1

theorem group_gid {m : MpeState} {gid : Nat} {g : RGroup} (h : m.group? gid = some g) : g.gid = gid := by
  simpa using List.find?_some h

/-- A group that was changed is there as changed. -/
theorem group_modGroup {m : MpeState} {gid : Nat} {g : RGroup} (h : m.group? gid = some g) {f : RGroup → RGroup}
    (hf : ∀ g, g.gid = gid → (f g).gid = gid) : (m.modGroup gid f).group? gid = some (f g) := by
  show (m.groups.map fun g => if g.gid = gid then f g else g).find? (fun g => decide (g.gid = gid)) = _
  rw [find_map RGroup.gid gid f hf, if_pos rfl]
  exact congrArg (Option.map f) h

theorem state_group {s : State} {r : ElemRef} {e : Elem} (he : s.elem? r = some e) (gid : Nat) :
    s.group? r gid = e.mpe.group? gid := by
  rw [State.group?, he]

/-- The step adds accesses to those in flight, and changes besides only elements and the counts of names and free values; of
the port r it leaves all but its groups and its write, lane and remote credits. -/
structure issuesTo (s s' : State) (r : ElemRef) (as : List Access) : Prop where
  rest : s' = { s with elems := s'.elems, accs := s.accs ++ as, nextId := s'.nextId, freeCount := s'.freeCount }
  port : ∀ e, s.elem? r = some e → ∃ m, s'.elem? r = some (e.setMpe m) ∧
    m.issueQ = e.mpe.issueQ ∧ m.ag = e.mpe.ag ∧ m.rdCred = e.mpe.rdCred

theorem issuesTo.refl (s : State) (r : ElemRef) : issuesTo s s r [] :=
  ⟨by rw [List.append_nil], fun e he => ⟨e.mpe, he, rfl, rfl, rfl⟩⟩

theorem issuesTo.trans {a b c : State} {r : ElemRef} {xs ys : List Access} (h1 : issuesTo a b r xs)
    (h2 : issuesTo b c r ys) : issuesTo a c r (xs ++ ys) := by
  refine ⟨?_, fun e he => ?_⟩
  · rw [h2.rest, h1.rest, List.append_assoc]
  · obtain ⟨m, hm, hq, hag, hrd⟩ := h1.port e he
    obtain ⟨m', hm', hq', hag', hrd'⟩ := h2.port _ hm
    exact ⟨m', hm', hq'.trans hq, hag'.trans hag, hrd'.trans hrd⟩

theorem issuesTo.after {a b c : State} {r : ElemRef} {xs : List Access} (h1 : issuesTo a b r xs) (h2 : issuesTo b c r []) :
    issuesTo a c r xs := by
  simpa using h1.trans h2

/-- A change of the port that keeps its queue of issues, its generators and its read credits. -/
theorem modMpe_issuesTo (s : State) (r : ElemRef) {f : MpeState → MpeState}
    (hf : ∀ m, (f m).issueQ = m.issueQ ∧ (f m).ag = m.ag ∧ (f m).rdCred = m.rdCred) : issuesTo s (s.modMpe r f) r [] := by
  refine ⟨?_, fun e he => ⟨_, modMpe_there he f, hf e.mpe⟩⟩
  rw [List.append_nil]
  rfl

theorem modGroup_issuesTo (s : State) (r : ElemRef) (gid : Nat) (f : RGroup → RGroup) :
    issuesTo s (s.modGroup r gid f) r [] :=
  modMpe_issuesTo s r fun _ => ⟨rfl, rfl, rfl⟩

theorem closeGroup_issuesTo (s : State) (r : ElemRef) (gid : Nat) : issuesTo s (s.closeGroup r gid) r [] :=
  modGroup_issuesTo s r gid _

theorem failAt_issuesTo (s : State) (r : ElemRef) (gid : Nat) (a : Word) : issuesTo s (s.failAt r gid a) r [] :=
  modGroup_issuesTo s r gid _

theorem addCell_issuesTo (s : State) (r : ElemRef) (gid : Nat) (rep : Reply) (credit due : Nat) :
    issuesTo s (s.addCell r gid rep credit due) r [] := by
  obtain ⟨hrest, hport⟩ := modGroup_issuesTo s r gid fun g => { g with cells := g.cells ++ [⟨s.nextId, rep, credit, due⟩] }
  refine ⟨?_, hport⟩
  rw [List.append_nil]
  rfl

theorem failCell_issuesTo (s : State) (r : ElemRef) (gid cause va credit : Nat) :
    issuesTo s (s.failCell r gid cause va credit) r [] :=
  addCell_issuesTo s r gid _ credit _

/-- A write credit that returns. -/
theorem giveWriteCredit_issuesTo (s : State) (r : ElemRef) : issuesTo s (s.giveCredit r 3 1) r [] :=
  modMpe_issuesTo s r fun _ => ⟨rfl, rfl, rfl⟩

/-! ### Issue of one access (R258, R275) -/

theorem le_foldl_max (xs : List Nat) (n : Nat) : n ≤ xs.foldl max n := by
  induction xs generalizing n with
  | nil => exact le_refl n
  | cons x xs ih => exact (le_max_left n x).trans (ih (max n x))

/-- An access of port r of an operand a, to the word that its checks c found. -/
structure accessOf (s : State) (r : ElemRef) (op : MemOp) (a : Word) (c : Checked) (w : Access) : Prop where
  ref : w.ref = r
  op : w.op = op
  pa : w.pa = c.pa
  va : w.va = opVa a
  cls : w.cls = c.run.cls
  fmt : w.fmt = c.run.fmt
  slot : w.slot = opSlot a
  due : s.clock ≤ w.due
  deferred : w.deferred = false

theorem issueAcc_issues (s : State) (e : Elem) (gid : Nat) (op : MemOp) (a : Word) (c : Checked) (credit : Nat) :
    ∃ w, issuesTo s (s.issueAcc e gid op (opSlot a) (opVa a) c credit) e.ref [w] ∧ accessOf s e.ref op a c w := by
  obtain ⟨hrest, hport⟩ := addCell_issuesTo s e.ref gid .wait credit 0
  refine ⟨_, ⟨rfl, hport⟩, ⟨rfl, rfl, rfl, rfl, rfl, rfl, rfl, ?_, rfl⟩⟩
  · dsimp only
    have hdue0 : s.clock ≤ s.clock + accLat op e.ref.die e.ptile c.pa / 2 + s.waitNow := by omega
    split
    · exact hdue0.trans (le_foldl_max _ _)
    · exact hdue0

/-- One access of an operand: it leaves where its checks pass, and none does where they fail. -/
theorem issueOne_issues (s : State) (e : Elem) (gid : Nat) (op : MemOp) (a : Word) (k : Need) (credit : Nat) :
    let c := s.check e.ref.load a k
    (c.cause = 0 → (s.issueOne e gid op a k credit).2 = true ∧
      ∃ w, issuesTo s (s.issueOne e gid op a k credit).1 e.ref [w] ∧ accessOf s e.ref op a c w) ∧
    (c.cause ≠ 0 → (s.issueOne e gid op a k credit).2 = false ∧ issuesTo s (s.issueOne e gid op a k credit).1 e.ref []) := by
  refine ⟨fun hc => ?_, fun hc => ?_⟩
  · rw [State.issueOne, if_pos hc]
    exact ⟨rfl, issueAcc_issues s e gid op a _ credit⟩
  · rw [State.issueOne, if_neg hc]
    exact ⟨rfl, failCell_issuesTo s e.ref gid _ _ credit⟩

/-- The accesses that an operand's checks let leave: one where they pass, none where they fail. -/
def checkedIssue (s s' : State) (r : ElemRef) (op : MemOp) (a : Word) (c : Checked) : Prop :=
  (c.cause = 0 → ∃ w, issuesTo s s' r [w] ∧ accessOf s r op a c w) ∧ (c.cause ≠ 0 → issuesTo s s' r [])

theorem checkedIssue.after {s s' s'' : State} {r : ElemRef} {op : MemOp} {a : Word} {c : Checked}
    (h : checkedIssue s s' r op a c) (hl : issuesTo s' s'' r []) : checkedIssue s s'' r op a c :=
  ⟨fun hc => let ⟨w, hw, ha⟩ := h.1 hc; ⟨w, hw.after hl, ha⟩, fun hc => (h.2 hc).after hl⟩

/-- What the machine keeps, and the access that a passed check adds. -/
theorem checkedIssue.sent {s s' : State} {r : ElemRef} {f : MpeState → MpeState} {op : MemOp} {a : Word} {c : Checked}
    (h : checkedIssue (s.modMpe r f) s' r op a c) : s'.mem = s.mem ∧ s'.presence = s.presence ∧
      (c.cause ≠ 0 → s'.accs = s.accs) ∧
      (c.cause = 0 → ∃ w, s'.accs = s.accs ++ [w] ∧ w.ref = r ∧ w.op = op ∧ w.pa = c.pa ∧ w.va = opVa a ∧
        w.cls = c.run.cls ∧ w.fmt = c.run.fmt ∧ w.slot = opSlot a ∧ s.clock ≤ w.due ∧ w.deferred = false) := by
  obtain ⟨hok, hbad⟩ := h
  have hkeeps : ∃ as, issuesTo (s.modMpe r f) s' r as := by
    by_cases hc : c.cause = 0
    · obtain ⟨w, hw, -⟩ := hok hc
      exact ⟨_, hw⟩
    · exact ⟨_, hbad hc⟩
  obtain ⟨as, hrest, -⟩ := hkeeps
  refine ⟨by rw [hrest]; rfl, by rw [hrest]; rfl, fun hc => ?_, fun hc => ?_⟩
  · rw [(hbad hc).rest, List.append_nil]
    rfl
  · obtain ⟨w, hw, ha⟩ := hok hc
    refine ⟨w, ?_, ha.ref, ha.op, ha.pa, ha.va, ha.cls, ha.fmt, ha.slot, ha.due, ha.deferred⟩
    rw [hw.rest]
    rfl

theorem checkedIssue.port {s s' : State} {r : ElemRef} {e : Elem} {op : MemOp} {a : Word} {c : Checked}
    (h : checkedIssue s s' r op a c) (he : s.elem? r = some e) : ∃ m, s'.elem? r = some (e.setMpe m) ∧
      m.issueQ = e.mpe.issueQ ∧ m.ag = e.mpe.ag ∧ m.rdCred = e.mpe.rdCred := by
  by_cases hc : c.cause = 0
  · obtain ⟨w, hw, -⟩ := h.1 hc
    exact hw.port e he
  · exact (h.2 hc).port e he

theorem issueOne_checked (s : State) (e : Elem) (gid : Nat) (op : MemOp) (a : Word) (k : Need) (credit : Nat) :
    checkedIssue s (s.issueOne e gid op a k credit).1 e.ref op a (s.check e.ref.load a k) :=
  have ⟨hok, hbad⟩ := issueOne_issues s e gid op a k credit
  ⟨fun hc => (hok hc).2, fun hc => (hbad hc).2⟩

theorem issueLd_checked (s : State) (e : Elem) (i : Issue) :
    checkedIssue s (issueLd s e i) e.ref .read i.a (s.check e.ref.load i.a (needRead 8)) :=
  (issueOne_checked s e i.gid .read i.a (needRead 8) 1).after (closeGroup_issuesTo _ e.ref i.gid)

theorem issueSt_checked (s : State) (e : Elem) (i : Issue) :
    checkedIssue s (issueSt s e i) e.ref (.write i.b) i.a (s.check e.ref.load i.a needWrite) := by
  have hone := issueOne_checked s e i.gid (.write i.b) i.a needWrite 0
  have hstore : checkedIssue s (s.issueStore e i.gid (.write i.b) i.a needWrite).1 e.ref (.write i.b) i.a
      (s.check e.ref.load i.a needWrite) := by
    rw [State.issueStore]
    dsimp only
    split
    · exact hone
    · exact hone.after (giveWriteCredit_issuesTo _ e.ref)
  exact hstore.after (closeGroup_issuesTo _ e.ref i.gid)

theorem issue_ld {i : Issue} (hop : i.op = .ld) (s : State) (e : Elem) : s.issue e i = issueLd s e i := by
  simp only [State.issue, hop]

theorem issue_st {i : Issue} (hop : i.op = .st ∨ i.op = .sto) (s : State) (e : Elem) : s.issue e i = issueSt s e i := by
  rcases hop with hop | hop
  · simp only [State.issue, hop]
  · simp only [State.issue, hop]

/-! ### ACCESS_ISSUE and ADDRESS_GENERATOR_ISSUE (R276, R278, R282) -/

/-- What stands on a port's queue when the request of a group has left it. -/
def State.unqueued (s : State) (r : ElemRef) (gid : Nat) : State :=
  s.modMpe r fun m => { m with issueQ := m.issueQ.filter fun x => decide (x.gid ≠ gid) }

/-- The step of a stream after its access has left or failed: the END of the levels that close, and the close of a group
that ends (R282). -/
def State.streamStep (s : State) (r : ElemRef) (g : AddrGen) (ok : Bool) : State :=
  let s1 := if ok then s else s.failAt r g.gid g.addr
  let s2 := if ok && decide (0 < g.step.2) then s1.addCell r g.gid (.tok (endTok (g.step.2 - 1))) 0 0 else s1
  if !ok || decide (g.step.2 = g.nl) then s2.closeGroup r g.gid else s2

theorem streamStep_issuesTo (s : State) (r : ElemRef) (g : AddrGen) (ok : Bool) : issuesTo s (s.streamStep r g ok) r [] := by
  have hfail : issuesTo s (if ok then s else s.failAt r g.gid g.addr) r [] := by
    split
    · exact .refl s r
    · exact failAt_issuesTo s r g.gid g.addr
  have hend : issuesTo s (if ok && decide (0 < g.step.2) then
      (if ok then s else s.failAt r g.gid g.addr).addCell r g.gid (.tok (endTok (g.step.2 - 1))) 0 0
    else if ok then s else s.failAt r g.gid g.addr) r [] := by
    split
    · exact hfail.after (addCell_issuesTo _ r g.gid _ 0 0)
    · exact hfail
  rw [State.streamStep]
  split
  · exact hend.after (closeGroup_issuesTo _ r g.gid)
  · exact hend

section
variable {s : State} {r : ElemRef} {n : Nat} {e : Elem} (h : elemActN s r n e)
include h

theorem exec_accessIssue {i : Issue} (hi : (e.mpe.issueQ.find? fun i => decide (i.gid = n)) = some i)
    (hborn : i.born < s.clock) (hcmd : isCommand i.op = false) (hheld : s.remoteHeld e i = false) :
    exec .accessIssue s = .next ((s.unqueued r n).issue e i) := by
  show execAccessIssue s = _
  rw [execAccessIssue, withElemN_there h]
  simp only [hi]
  rw [if_neg (by simp [hcmd, hheld, hborn])]
  rfl

/-- A request whose issue is a checked access of its operand leaves the queue. -/
theorem accessIssue_left {s' : State} {op : MemOp} {a : Word} {c : Checked} (hc : checkedIssue (s.unqueued r n) s' r op a c) :
    ∃ e', s'.elem? r = some e' ∧ e'.mpe.issueQ = e.mpe.issueQ.filter fun x => decide (x.gid ≠ n) := by
  obtain ⟨m, hm, hq, -, -⟩ := hc.port (modMpe_there h.2 fun m => { m with
    issueQ := m.issueQ.filter fun x => decide (x.gid ≠ n) })
  exact ⟨_, hm, hq⟩

theorem exec_addressGeneratorIssue (hst : (e.mpe.gen n).st = 1) (hmore : (e.mpe.gen n).more = true)
    (hborn : (e.mpe.gen n).born < s.clock) (hcred : 0 < e.mpe.rdCred) :
    let g := e.mpe.gen n
    let one := (s.modMpe r fun m => { m with rdCred := m.rdCred - 1 }).issueOne e g.gid .read g.addr
      (needRead (s.fibreRange r.load g)) 1
    exec .addressGeneratorIssue s = .next ((one.1.streamStep r g one.2).modMpe r fun m =>
      m.setGen n { g.step.1 with more := !(!one.2 || decide (g.step.2 = g.nl)) }) := by
  intro g one
  show execAddressGeneratorIssue s = _
  rw [execAddressGeneratorIssue, withElemN_there h]
  dsimp only
  rw [if_neg (by simp [hst, hmore, hborn, Nat.ne_of_gt hcred])]
  rfl

/-- The next address of a stream: its access leaves, and the generator moves on (R282). -/
theorem addressGeneratorIssue_moves (hst : (e.mpe.gen n).st = 1) (hmore : (e.mpe.gen n).more = true)
    (hborn : (e.mpe.gen n).born < s.clock) (hcred : 0 < e.mpe.rdCred) :
    let g := e.mpe.gen n
    let c := s.check r.load g.addr (needRead (s.fibreRange r.load g))
    ∃ s' s3 e', exec .addressGeneratorIssue s = .next s' ∧
      checkedIssue (s.modMpe r fun m => { m with rdCred := m.rdCred - 1 }) s3 r .read g.addr c ∧
      s' = { s3 with elems := s'.elems } ∧ s'.elem? r = some e' ∧ e'.mpe.rdCred = e.mpe.rdCred - 1 ∧
      e'.mpe.gen n = { g.step.1 with more := c.cause == 0 && decide (g.step.2 ≠ g.nl) } := by
  intro g c
  have href : e.ref = r := elem_ref h.2
  let s0 := s.modMpe r fun m => { m with rdCred := m.rdCred - 1 }
  have hchecked : checkedIssue s0 (s0.issueOne e g.gid .read g.addr (needRead (s.fibreRange r.load g)) 1).1 r .read g.addr c := by
    have hone := issueOne_checked s0 e g.gid .read g.addr (needRead (s.fibreRange r.load g)) 1
    rwa [href] at hone
  have hok : (s0.issueOne e g.gid .read g.addr (needRead (s.fibreRange r.load g)) 1).2 = (c.cause == 0) := by
    have hone := issueOne_issues s0 e g.gid .read g.addr (needRead (s.fibreRange r.load g)) 1
    rw [href] at hone
    by_cases hc : c.cause = 0
    · exact (hone.1 hc).1.trans (beq_iff_eq.mpr hc).symm
    · exact (hone.2 hc).1.trans (beq_false_of_ne hc).symm
  have hstep := hchecked.after (streamStep_issuesTo _ r g
    (s0.issueOne e g.gid .read g.addr (needRead (s.fibreRange r.load g)) 1).2)
  obtain ⟨m, hm, -, -, hrd⟩ := hstep.port (modMpe_there h.2 fun m => { m with rdCred := m.rdCred - 1 })
  refine ⟨_, _, _, exec_addressGeneratorIssue h hst hmore hborn hcred, hstep, rfl, modMpe_there hm _, hrd, ?_⟩
  refine (gen_setGen m n _).trans ?_
  rw [hok, Bool.not_or, Bool.not_not, decide_not]

end

/-! ### A refresh window (R269) -/

theorem exec_weightRefreshWindow (s : State) : exec .weightRefreshWindow s = .next { s with
    accs := s.accs.map fun w => if w.held ∧ ¬ refreshing s.clock w.pa then { w with held := false } else w } := rfl

/-! ### MEMORY_REPLY (R275) -/

/-- A silent reply that is passed over changes of its element the port and the predicates at most. -/
theorem takeCell_rest (e : Elem) (g : RGroup) (c : Cell) (failed : Bool) :
    ∃ m p, e.takeCell g c failed = { e with mpe := m, p := p } := by
  unfold Elem.takeCell Elem.applyPred
  dsimp only
  split
  · exact ⟨_, _, rfl⟩
  · exact ⟨_, e.p, rfl⟩

/-- Only the port and the predicates of the element change. -/
def onlyPort (e e' : Elem) : Prop := e' = { e with mpe := e'.mpe, p := e'.p }

theorem takeCell_onlyPort (e : Elem) (g : RGroup) (c : Cell) (failed : Bool) : onlyPort e (e.takeCell g c failed) := by
  obtain ⟨m, p, h⟩ := takeCell_rest e g c failed
  rw [onlyPort, h]

theorem skipSilent_onlyPort (n : Nat) {s : State} {r : ElemRef} {e : Elem} (he : s.elem? r = some e) (gid : Nat) :
    ∃ e', (s.skipSilent r gid n).elem? r = some e' ∧ onlyPort e e' := by
  induction n generalizing s e with
  | zero => exact ⟨e, he, rfl⟩
  | succ n ih =>
    rw [State.skipSilent, he]
    dsimp only
    split
    · exact ⟨e, he, rfl⟩
    · next g hg =>
      split
      · next c cs hcells =>
        split
        · have hthere := (modElem_there he (f := fun e => e.takeCell g c false) fun x hx => by
            obtain ⟨m, p, htake⟩ := takeCell_rest x g c false
            rw [htake]; exact hx).1
          obtain ⟨e', he', hport⟩ := ih hthere
          have htake := takeCell_onlyPort e g c false
          refine ⟨e', he', ?_⟩
          rw [onlyPort] at hport htake ⊢
          rw [hport, htake]
        · exact ⟨e, he, rfl⟩
      · exact ⟨e, he, rfl⟩

/-- A group whose first reply is no silent one is passed over by nothing. -/
theorem skipSilent_first {s : State} {r : ElemRef} {e : Elem} {gid : Nat} {g : RGroup} {c : Cell} {cs : List Cell}
    (he : s.elem? r = some e) (hg : e.mpe.group? gid = some g) (hcells : g.cells = c :: cs) (hc : c.r ≠ .silent) (n : Nat) :
    s.skipSilent r gid n = s := by
  cases n with
  | zero => rfl
  | succ n =>
    rw [State.skipSilent, he]
    simp only [hg, hcells]
    rw [if_neg fun hsil => hc hsil.1]

theorem skipSilent_empty {s : State} {r : ElemRef} {e : Elem} {gid : Nat} {g : RGroup}
    (he : s.elem? r = some e) (hg : e.mpe.group? gid = some g) (hcells : g.cells = []) (n : Nat) :
    s.skipSilent r gid n = s := by
  cases n with
  | zero => rfl
  | succ n =>
    rw [State.skipSilent, he]
    simp only [hg, hcells]

/-- The element that gives token t as the reply c of its group. -/
def State.emitted (s : State) (e : Elem) (g : RGroup) (c : Cell) (t : Tok) : Elem :=
  let e1 := (s.putTok e g.dst t).takeCell g c t.isFault
  if t.isFault then e1.setMpe ((e1.mpe.stopStream g.gid).record g c t) else e1

/-- Only the outputs, the port and the predicates of the element change. -/
def onlyReplies (e e' : Elem) : Prop := e' = { e with outs := e'.outs, mpe := e'.mpe, p := e'.p }

theorem emitted_onlyPort (s : State) (e : Elem) (g : RGroup) (c : Cell) (t : Tok) :
    onlyPort (s.putTok e g.dst t) (s.emitted e g c t) := by
  obtain ⟨m, p, htake⟩ := takeCell_rest (s.putTok e g.dst t) g c t.isFault
  rw [State.emitted, htake]
  dsimp only
  split
  · rfl
  · rfl

theorem onlyPort.onlyReplies {s : State} {e e' : Elem} {dst : Nat} {t : Tok} (h : onlyPort (s.putTok e dst t) e') :
    onlyReplies e e' ∧ e'.outs = (s.putTok e dst t).outs := by
  rw [onlyPort] at h
  rw [Machine.onlyReplies, h]
  exact ⟨rfl, rfl⟩

theorem credit_groups (m : MpeState) (kind n : Nat) : (m.credit kind n).groups = m.groups := by
  unfold MpeState.credit
  split
  · rfl
  · rfl
  · rfl
  · rfl
  · rfl

theorem record_groups (m : MpeState) (g : RGroup) (c : Cell) (t : Tok) : (m.record g c t).groups = m.groups := by
  unfold MpeState.record
  split
  · dsimp only
    split
    · rfl
    · split
      · rfl
      · rfl
  · rfl

theorem group_of_groups {m m' : MpeState} (h : m'.groups = m.groups) (gid : Nat) : m'.group? gid = m.group? gid := by
  rw [MpeState.group?, MpeState.group?, h]

/-- A group whose first cell is taken. -/
theorem takeCell_group {e : Elem} {gid : Nat} {g : RGroup} (hg : e.mpe.group? gid = some g) (c : Cell) (failed : Bool) :
    (e.takeCell g c failed).mpe.group? gid = some { g with cells := g.cells.drop 1, pred := none } := by
  obtain rfl := group_gid hg
  have hpred : (e.applyPred g failed).mpe = e.mpe := by
    unfold Elem.applyPred
    split
    · rfl
    · rfl
  have hcredit : ((e.applyPred g failed).mpe.credit (if c.credit = 5 then 0 else c.credit) 1).group? g.gid = some g := by
    rw [group_of_groups (credit_groups _ _ _), hpred, hg]
  exact group_modGroup hcredit (f := fun g => { g with cells := g.cells.drop 1, pred := none }) fun _ h => h

/-- Of a group that is no stream, a token leaves the other cells. -/
theorem emitted_group {s : State} {e : Elem} {gid : Nat} {g : RGroup} (hg : e.mpe.group? gid = some g) (hop : g.op ≠ .astrm)
    (c : Cell) (t : Tok) :
    (s.emitted e g c t).mpe.group? gid = some { g with cells := g.cells.drop 1, pred := none } := by
  obtain rfl := group_gid hg
  have htake := takeCell_group (e := s.putTok e g.dst t) hg c t.isFault
  rw [State.emitted]
  split
  · refine (group_of_groups (record_groups _ g c t) g.gid).trans ?_
    rw [MpeState.stopStream, htake]
    dsimp only
    rw [if_neg hop, htake]
  · exact htake

/-- A group without cells is gone when no more follow. -/
theorem endGroup_group {m : MpeState} {gid : Nat} {g : RGroup} (hg : m.group? gid = some g) (hcells : g.cells = []) :
    (m.endGroup gid).group? gid = if g.opened then some g else none := by
  rw [MpeState.endGroup, hg]
  dsimp only
  by_cases ho : g.opened = true
  · rw [if_neg (by simp [ho]), if_pos ho, hg]
  · rw [if_pos (by simp [ho, hcells]), if_neg ho]
    refine List.find?_eq_none.mpr fun x hx => ?_
    simpa using (List.mem_filter.mp hx).2

section
variable {s : State} {r : ElemRef} {gid : Nat} {e : Elem} {g : RGroup} {c : Cell} {cs : List Cell} {t : Tok}
  (h : elemActN s r gid e) (hg : e.mpe.group? gid = some g) (hcells : g.cells = c :: cs) (htok : c.r = .tok t)
  (hdue : c.due ≤ s.clock) (hfence : g.op ≠ .fence) (hrld : g.op ≠ .rld) (hspace : e.spaceFor g.dst = true)
include h hg hcells htok hdue hfence hrld hspace

theorem emitCell_emits : s.emitCell r gid = s.modElem r fun _ => s.emitted e g c t := by
  have hnow : s.cellNow r g c = .tok t := by rw [State.cellNow, if_neg fun hf => hfence hf.1, htok]
  have hready : s.cellReady r g c = true := by simp [State.cellReady, hdue, hnow, hrld]
  rw [State.emitCell, h.2]
  simp only [hg, hcells]
  rw [if_neg (not_not.mpr hready), hnow]
  dsimp only
  rw [if_pos hspace, State.emitted, group_gid hg]

theorem exec_memoryReply : exec .memoryReply s = .next
    (((s.modElem r fun _ => s.emitted e g c t).skipSilent r gid g.cells.length).modMpe r fun m => m.endGroup gid) := by
  have hskip := skipSilent_first h.2 hg hcells (by rw [htok]; exact Reply.noConfusion) g.cells.length
  show execMemoryReply s = _
  rw [execMemoryReply, withElemN_there h]
  simp only [hg]
  rw [hskip, emitCell_emits h hg hcells htok hdue hfence hrld hspace]

theorem memoryReply_emits : ∃ s' e', exec .memoryReply s = .next s' ∧ s'.elem? r = some e' ∧
    (∀ k, k < 4 → e'.out k = e.out k ++
      if (outsOf g.dst).contains k = true then [⟨{ t with rid := s.outRid e k }, s.clock⟩] else []) ∧
    (cs = [] → g.op ≠ .astrm →
      e'.mpe.group? gid = if g.opened then some { g with cells := [], pred := none } else none) ∧
    onlyReplies e e' := by
  have hemit := emitted_onlyPort s e g c t
  have href : (s.emitted e g c t).ref = r := by rw [hemit]; exact (elem_ref h.2 : e.ref = r)
  have hthere := (modElem_there h.2 (f := fun _ => s.emitted e g c t) fun _ _ => href).1
  obtain ⟨e1, he1, hskip⟩ := skipSilent_onlyPort g.cells.length hthere gid
  have hport : onlyPort (s.putTok e g.dst t) (e1.setMpe (e1.mpe.endGroup gid)) := by
    rw [onlyPort] at hskip hemit ⊢
    rw [hskip, hemit]
    rfl
  obtain ⟨honly, houts⟩ := hport.onlyReplies
  refine ⟨_, _, exec_memoryReply h hg hcells htok hdue hfence hrld hspace, modMpe_there he1 _, fun k hk => ?_,
    fun hcs hop => ?_, honly⟩
  · rw [Elem.out, houts]
    exact (placed_putsTok s e g.dst t e).1 k hk
  · have hgroup := emitted_group (s := s) hg hop c t
    have hnil : g.cells.drop 1 = [] := by rw [hcells, hcs]; rfl
    rw [hnil] at hgroup
    have hempty := skipSilent_empty hthere hgroup rfl g.cells.length
    rw [hempty, hthere] at he1
    obtain rfl := Option.some.inj he1
    exact endGroup_group hgroup rfl

end

/-! ### GDE_DELIVERY (R175) -/

theorem reply_there {s : State} {r : ElemRef} {e : Elem} {gid cell : Nat} {m : RGroup} (he : s.elem? r = some e)
    (hm : e.mpe.group? gid = some m) (hop : m.op ≠ .rld) (rep : Reply) (due : Nat) :
    ∃ e', (s.reply r gid cell rep due).elem? r = some e' ∧ e'.mpe.group? gid = some { m with
      cells := m.cells.map fun c => if c.id = cell ∧ c.r = .wait then { c with r := rep, due := due } else c } := by
  refine ⟨_, modMpe_there he _, ?_⟩
  refine (group_modGroup hm fun x hx => ?_).trans ?_
  · split
    · exact hx
    · exact hx
  · rw [if_neg fun hf => hop hf.1]

theorem reply_dies (s : State) (r : ElemRef) (gid cell : Nat) (rep : Reply) (due : Nat) :
    (s.reply r gid cell rep due).dies = s.dies := rfl

theorem foldl_dies {α : Type} {f : State → α → State} (hf : ∀ s a, (f s a).dies = s.dies) (xs : List α) (s : State) :
    (xs.foldl f s).dies = s.dies := by
  induction xs generalizing s with
  | nil => rfl
  | cons x xs ih => exact (ih (f s x)).trans (hf s x)

theorem deliverRow_dies (s : State) (g : GdeEntry) (q : GReq) : (s.deliverRow g q).dies = s.dies := by
  rw [State.deliverRow]
  dsimp only
  split
  · split
    · rfl
    · exact foldl_dies (fun _ _ => reply_dies _ _ _ _ _ _) _ _
  · exact foldl_dies (fun _ _ => reply_dies _ _ _ _ _ _) _ _

theorem freeGde_alone {s : State} {d n : Nat} {x : Die} (hx : s.die? d = some x) (hwait : x.gdeWait = []) :
    (s.freeGde d n).elems = s.elems ∧
      (s.freeGde d n).die? d = some { x with gde := x.gde.filter fun z => decide (z.id ≠ n) } := by
  have h1 := modDie_there hx (fun y => { y with gde := y.gde.filter fun z => decide (z.id ≠ n) }) fun _ h => h
  have h2 := modDie_there h1 (fun x => { x with gdeWait := [] }) fun _ h => h
  rw [State.freeGde, State.gdeDrain, h1]
  dsimp only
  rw [hwait, State.gdeAdmit, List.foldl_nil]
  refine ⟨rfl, h2.trans ?_⟩
  rw [← hwait]

theorem exec_gdeDelivery {s : State} {d n : Nat} {x : Die} {g : GdeEntry} {q : GReq} (ha : s.actor = .dieN d n)
    (hx : s.die? d = some x) (hg : (x.gde.find? fun g => decide (g.id = n)) = some g)
    (hfixed : g.got.all RWord.isFixed = true) (hreqs : g.reqs = [q]) :
    exec .gdeDelivery s = .next ((s.deliverRow g q).freeGde d n) := by
  show execGdeDelivery s = _
  simp only [execGdeDelivery, ha, hx, hg, hfixed, hreqs, not_true, if_false, List.foldl_cons, List.foldl_nil]

/-- The one word of a row, delivered to its requester. -/
theorem deliverRow_word {s : State} {g : GdeEntry} {q : GReq} {k : Nat} {v : Word} (hc : g.cause = 0) (hq : q.cells = [k])
    (hgot : g.got = [.fixed v]) : ∃ due, s.deliverRow g q =
      s.reply q.ref q.gid k (.tok (dataTok (BitVec.ofNat 4 q.fmt) v)) due := by
  rw [State.deliverRow]
  dsimp only
  rw [if_neg (not_not.mpr hc), hq, hgot]
  exact ⟨_, rfl⟩

theorem gdeDelivery_delivers {s : State} {g : GdeEntry} {q : GReq} {e : Elem} {m : RGroup} {k : Nat} {v : Word}
    (hc : g.cause = 0) (he : s.elem? q.ref = some e) (hm : e.mpe.group? q.gid = some m) (hq : q.cells = [k])
    (hgot : g.got = [.fixed v]) (hop : m.op ≠ .rld) (hwaits : ∀ c ∈ m.cells, c.id = k → c.r = .wait) :
    ∃ e' m', (s.deliverRow g q).elem? q.ref = some e' ∧ e'.mpe.group? q.gid = some m' ∧
      ∀ c ∈ m'.cells, c.id = k → c.r = .tok (dataTok (BitVec.ofNat 4 q.fmt) v) := by
  obtain ⟨due, hdeliver⟩ := deliverRow_word (s := s) hc hq hgot
  obtain ⟨e', he', hm'⟩ := reply_there (cell := k) he hm hop (.tok (dataTok (BitVec.ofNat 4 q.fmt) v)) due
  refine ⟨e', _, hdeliver ▸ he', hm', fun c hcell hid => ?_⟩
  obtain ⟨c0, hc0, rfl⟩ := List.mem_map.mp hcell
  split at hid
  · next hw => rw [if_pos hw]
  · next hw => exact absurd ⟨hid, hwaits c0 hc0 hid⟩ hw

/-! ### The obligation -/

/-- Settles O36: a load, a store and a stream's address by the checks of their operand, a refresh window access by access, a
reply by the cell at the front of its group, a row by its one requester. -/
theorem portIssuesAndReplies : Obligations.PortIssuesAndReplies := by
  refine ⟨fun s r n e h => ?_, fun s => ?_, fun s r gid e g c cs t h hg hcells htok hdue hfence hrld hspace => ?_,
    fun s d n x g q ha hx hg hfixed hreqs hwait => ?_⟩
  · intro sent
    have href : e.ref = r := elem_ref h.2
    refine ⟨fun i hi hborn => ?_, fun _ _ hst hmore hborn hcred => ?_⟩
    · intro left
      refine ⟨fun hop => ?_, fun hop => ?_⟩
      · have hexec := exec_accessIssue h hi hborn (by rw [hop]; rfl) (by simp [State.remoteHeld, hop, isAtomic, atomicOps])
        rw [issue_ld hop] at hexec
        have hc := issueLd_checked (s.unqueued r n) e i
        rw [href] at hc
        exact ⟨_, ⟨hexec, hc.sent⟩, accessIssue_left h hc⟩
      · have hexec := exec_accessIssue h hi hborn (by rcases hop with hop | hop <;> rw [hop] <;> rfl)
          (by rcases hop with hop | hop <;> simp [State.remoteHeld, hop, isAtomic, atomicOps])
        rw [issue_st hop] at hexec
        have hc := issueSt_checked (s.unqueued r n) e i
        rw [href] at hc
        exact ⟨_, ⟨hexec, hc.sent⟩, accessIssue_left h hc⟩
    · obtain ⟨s', s3, e', hexec, hc, hrest, he', hrd, hgen⟩ := addressGeneratorIssue_moves h hst hmore hborn hcred
      have hsent := hc.sent
      refine ⟨s', e', ⟨hexec, ?_⟩, he', hrd, hgen⟩
      rw [hrest]
      exact hsent
  · refine ⟨_, exec_weightRefreshWindow s, rfl, List.length_map _, fun k w hw => ?_⟩
    simp only [List.getElem?_map, hw, Option.map_some, Bool.not_eq_true]
  · exact memoryReply_emits h hg hcells htok hdue hfence hrld hspace
  · obtain ⟨helems, hdie⟩ := freeGde_alone (n := n) (s := s.deliverRow g q) (x := x)
      (by rw [State.die?, deliverRow_dies]; exact hx) hwait
    refine ⟨_, exec_gdeDelivery ha hx hg hfixed hreqs, helems, hdie, fun hc e m k v he hm hq hgot hop hwaits => ?_⟩
    rw [State.elem?, helems]
    exact gdeDelivery_delivers hc he hm hq hgot hop hwaits

end Sys2Proof.Machine
end

section
/-! SUPPORT. Bytes of a word of memory (R3): a field of whole bytes is the bytes at its place, and a word put back with such a
field replaced changes no other byte. -/

namespace Sys2Proof.Machine

open Sys2Proof Sys2Proof.Safety

theorem ofBytes_append (xs ys : List Byte) : ofBytes (xs ++ ys) = ofBytes xs + 2 ^ (8 * xs.length) * ofBytes ys := by
  induction xs with
  | nil => simp [ofBytes]
  | cons x xs ih =>
    rw [List.cons_append, ofBytes, ofBytes, ih, List.length_cons, Nat.mul_succ, Nat.pow_add]
    ring

theorem ofBytes_lt (xs : List Byte) : ofBytes xs < 2 ^ (8 * xs.length) := by
  induction xs with
  | nil => simp [ofBytes]
  | cons x xs ih =>
    have hx := x.isLt
    rw [ofBytes, List.length_cons, Nat.mul_succ, Nat.pow_add]
    omega

theorem length_bytes (s : State) (a n : Nat) : (s.bytes a n).length = n := by simp [State.bytes, sgetList]

theorem bytes_add (s : State) (a m n : Nat) : s.bytes a (m + n) = s.bytes a m ++ s.bytes (a + m) n := by
  simp [State.bytes, sgetList, List.range_add, Nat.add_assoc, Function.comp_def]

theorem readN_lt (s : State) (a n : Nat) : s.readN a n < 2 ^ (8 * n) := by
  simpa [State.readN, length_bytes] using ofBytes_lt (s.bytes a n)

theorem readN_add (s : State) (a m n : Nat) : s.readN a (m + n) = s.readN a m + 2 ^ (8 * m) * s.readN (a + m) n := by
  simp only [State.readN, bytes_add, ofBytes_append, length_bytes]

theorem readN_one (s : State) (a : Nat) : s.readN a 1 = (s.byte a).toNat := by
  simp [State.readN, State.bytes, sgetList, State.byte, ofBytes]

/-- The bytes from the i-th on, as a field of all. -/
theorem fldN_readN (s : State) (a : Nat) {i n m : Nat} (h : i + n ≤ m) :
    fldN (s.readN a m) (8 * i) (8 * n) = s.readN (a + i) n := by
  obtain ⟨k, rfl⟩ := Nat.exists_eq_add_of_le h
  rw [Nat.add_assoc, readN_add, fldN, Nat.add_mul_div_left _ _ (by positivity), Nat.div_eq_of_lt (readN_lt s a i), Nat.zero_add,
    readN_add, Nat.add_mul_mod_self_left, Nat.mod_eq_of_lt (readN_lt s _ n)]

theorem fld_word (s : State) (a : Nat) {i n : Nat} (h : i + n ≤ 8) : fld (s.word a) (8 * i) (8 * n) = s.readN (a + i) n := by
  rw [fld, State.word, BitVec.toNat_ofNat, Nat.mod_eq_of_lt (readN_lt s a 8), fldN_readN s a h]

theorem byte_eq_fld (s : State) (a : Nat) {i : Nat} (h : i < 8) : s.byte (a + i) = BitVec.ofNat 8 (fld (s.word a) (8 * i) 8) := by
  have hone := fld_word s a (i := i) (n := 1) h
  rw [Nat.mul_one] at hone
  rw [hone, readN_one, BitVec.ofNat_toNat, BitVec.setWidth_eq]

/-- Memory alone says what bytes read as. -/
theorem readN_of_mem {s s' : State} (h : s'.mem = s.mem) (a n : Nat) : s'.readN a n = s.readN a n := by
  simp only [State.readN, State.bytes, h]

theorem wordOf_add (a : Nat) : wordOf a + a % 8 = a := Nat.div_add_mod' a 8

section
variable {s : State} (h : Memory.wf s.mem = true)
include h

/-- A word put back with n bytes of it replaced. -/
theorem putPart_reads (a v : Nat) {n : Nat} (hn : a % 8 + n ≤ 8) :
    (s.putWord (wordOf a) (setPart (s.word (wordOf a)) a n v)).readN a n = v % 2 ^ (8 * n) := by
  have hfld := fld_word (s.putWord (wordOf a) (setPart (s.word (wordOf a)) a n v)) (wordOf a) hn
  rw [word_putWord _ _ _ h, setPart, Nat.mul_comm 8 (a % 8), fld_setFld (by omega), wordOf_add] at hfld
  rw [setPart, hfld]

theorem putPart_onlyBytes (a v : Nat) {n : Nat} (hn : a % 8 + n ≤ 8) :
    onlyBytes s (s.putWord (wordOf a) (setPart (s.word (wordOf a)) a n v)) a n := by
  intro b hb
  have ha := wordOf_add a
  by_cases hin : b < wordOf a ∨ wordOf a + 8 ≤ b
  · exact putWord_onlyBytes s _ _ h b hin
  · obtain ⟨i, rfl⟩ : ∃ i, b = wordOf a + i := ⟨b - wordOf a, by omega⟩
    rw [byte_eq_fld _ _ (by omega), byte_eq_fld s _ (by omega), word_putWord _ _ _ h, setPart,
      fld_setFld_other (by omega) _ _ (by omega)]

end

end Sys2Proof.Machine
end

section
/-! SUPPORT. Accesses and atomics at the home of a word (R248, R266, R267, R269, R275, R339, R353, R355): what a reply, a failure
and a performed write leave of memory, presence and the accesses in flight, and the obligation about them. -/

namespace Sys2Proof.Machine

open Sys2Proof Sys2Proof.Safety

/-! ### What leaves memory, presence and the accesses in flight -/

/-- Memory and presence stay, and no access is new. -/
structure leavesStore (s s' : State) : Prop where
  mem : s'.mem = s.mem
  presence : s'.presence = s.presence
  accs : s'.accs ⊆ s.accs

theorem leavesStore.refl (s : State) : leavesStore s s := ⟨rfl, rfl, List.Subset.refl _⟩

theorem leavesStore.trans {a b c : State} (h1 : leavesStore a b) (h2 : leavesStore b c) : leavesStore a c :=
  ⟨h2.mem.trans h1.mem, h2.presence.trans h1.presence, List.Subset.trans h2.accs h1.accs⟩

theorem leavesStore.acc {s s' : State} {n : Nat} (h : leavesStore s s') (hn : s.acc? n = none) : s'.acc? n = none :=
  List.find?_eq_none.mpr fun a ha => List.find?_eq_none.mp hn a (h.accs ha)

theorem dropAcc_leavesStore (s : State) (n : Nat) : leavesStore s (s.dropAcc n) :=
  ⟨rfl, rfl, fun _ => List.mem_of_mem_filter⟩

theorem modMpe_leavesStore (s : State) (r : ElemRef) (f : MpeState → MpeState) : leavesStore s (s.modMpe r f) :=
  ⟨rfl, rfl, List.Subset.refl _⟩

theorem addSig_leavesStore (s : State) (l : LoadRef) (slot va : Nat) (v : Word) : leavesStore s (s.addSig l slot va v) :=
  ⟨rfl, rfl, List.Subset.refl _⟩

theorem logRef_onlyLogs (s : State) (r : ElemRef) : onlyLogs s (s.logRef r) := by
  unfold State.logRef
  split
  · exact logElem_onlyLogs s _
  · rfl

theorem onlyLogs.leavesStore {s s' : State} (h : onlyLogs s s') : leavesStore s s' := by
  rw [onlyLogs] at h
  rw [h]
  exact ⟨rfl, rfl, List.Subset.refl _⟩

theorem logRef_leavesStore (s : State) (r : ElemRef) : leavesStore s (s.logRef r) := (logRef_onlyLogs s r).leavesStore

theorem accReply_leavesStore (s : State) (w : Access) (x : Reply) : leavesStore s (s.accReply w x) :=
  (dropAcc_leavesStore s w.id).trans ⟨rfl, rfl, List.Subset.refl _⟩

theorem accReply_acc (s : State) (w : Access) (x : Reply) : (s.accReply w x).acc? w.id = none := dropAcc_acc s w.id

/-- The access is not one of a plain RST, whose failure goes to the ERR of its task (R410). -/
def State.plainFail (s : State) (w : Access) : Prop := (s.group? w.ref w.gid).map (·.op) ≠ some .rst

theorem accFail_leavesStore {s : State} {w : Access} (h : s.plainFail w) (cause : Nat) : leavesStore s (s.accFail w cause) := by
  rw [State.plainFail] at h
  cases hg : s.group? w.ref w.gid with
  | none =>
    simp only [State.accFail, hg]
    exact accReply_leavesStore s w _
  | some g =>
    have hop : g.op ≠ .rst := by simpa [hg] using h
    simp only [State.accFail, hg, hop, if_false]
    exact (modMpe_leavesStore s _ _).trans (accReply_leavesStore _ w _)

theorem accFail_acc (s : State) (w : Access) (cause : Nat) : (s.accFail w cause).acc? w.id = none := accReply_acc _ w _

theorem passOrder_leavesStore (s : State) (r : ElemRef) (pass due : Nat) : leavesStore s (s.passOrder r pass due) := by
  unfold State.passOrder
  split
  · exact .refl s
  · exact modMpe_leavesStore s r _

/-- The deferred reads of a word leave once it is written (R267). -/
theorem serve_leavesStore (s : State) (a : Nat) (v : Word) : leavesStore s (s.serve a v) :=
  (foldl_keeps leavesStore.refl leavesStore.trans _ (fun s w => accReply_leavesStore s w _) _ s).trans
    ⟨rfl, rfl, List.Subset.refl _⟩

/-- A write that failed returns its credit and may end its pass. -/
theorem writeDone_fails (s : State) (w : Access) {cause : Nat} (hc : cause ≠ 0) :
    leavesStore (s.accFail w cause) (s.writeDone w cause) := by
  unfold State.writeDone
  dsimp only
  rw [if_pos hc]
  cases s.passOf w.ref w.gid with
  | none => exact modMpe_leavesStore _ _ _
  | some p => exact (modMpe_leavesStore _ _ _).trans (passOrder_leavesStore _ _ _ _)

/-- One that was performed also counts in its task's signature and has its reply (R275, R447). -/
theorem writeDone_performs (s : State) (w : Access) : ∃ rep,
    leavesStore ((s.addSig w.ref.load w.slot w.va w.op.sigValue).accReply w rep) (s.writeDone w 0) := by
  unfold State.writeDone
  dsimp only
  rw [if_neg (not_not.mpr rfl)]
  cases s.passOf w.ref w.gid with
  | none => exact ⟨_, modMpe_leavesStore _ _ _⟩
  | some p => exact ⟨_, (modMpe_leavesStore _ _ _).trans (passOrder_leavesStore _ _ _ _)⟩

theorem writeDone_acc (s : State) (w : Access) (cause : Nat) : (s.writeDone w cause).acc? w.id = none := by
  by_cases hc : cause = 0
  · obtain ⟨rep, hafter⟩ := writeDone_performs s w
    exact hc ▸ hafter.acc (accReply_acc _ w rep)
  · exact (writeDone_fails s w hc).acc (accFail_acc s w cause)

theorem writeDone_leavesStore {s : State} {w : Access} {cause : Nat} (h : cause ≠ 0 → s.plainFail w) :
    leavesStore s (s.writeDone w cause) := by
  by_cases hc : cause = 0
  · obtain ⟨rep, hafter⟩ := writeDone_performs s w
    exact hc ▸ ((addSig_leavesStore s _ _ _ _).trans (accReply_leavesStore _ w rep)).trans hafter
  · exact (accFail_leavesStore (h hc) cause).trans (writeDone_fails s w hc)

/-! ### A word written at home under its page's class (R266, R339) -/

theorem homeWrite_fails {s : State} {a cls : Nat} (h : s.storeCause a ≠ 0 ∨ cls = 1 ∧ s.present a = true) (v : Word) :
    ∃ c, s.homeWrite a cls v = (s, c) := by
  unfold State.homeWrite
  by_cases hc : s.storeCause a ≠ 0
  · exact ⟨_, if_pos hc⟩
  · obtain ⟨hcls, hp⟩ := h.resolve_left hc
    exact ⟨_, by rw [if_neg hc, if_pos hcls, if_pos hp]⟩

theorem homeWrite_writes {s : State} {a cls : Nat} (hc : s.storeCause a = 0) (h : cls ≠ 1 ∨ s.present a = false) (v : Word) :
    ∃ s1, s.homeWrite a cls v = (s1, 0) ∧ s1.mem = (s.putWord a v).mem ∧
      s1.presence = if cls = 1 then setAdd s.presence a else s.presence := by
  unfold State.homeWrite
  rw [if_neg (not_not.mpr hc)]
  by_cases hcls : cls = 1
  · have hp : ¬ s.present a = true := by simpa [hcls] using h
    have hserve := serve_leavesStore ((s.putWord a v).setPresent a) a v
    rw [if_pos hcls, if_neg hp]
    exact ⟨_, rfl, hserve.mem, hserve.presence.trans (if_pos hcls).symm⟩
  · rw [if_neg hcls]
    exact ⟨_, rfl, rfl, (if_neg hcls).symm⟩

/-! ### An access that its home performs -/

theorem acc_id {s : State} {n : Nat} {w : Access} (h : s.acc? n = some w) : w.id = n := by
  simpa using List.find?_some h

/-- The access that the actor names stands at its home and nothing holds it there. -/
structure atHome (s : State) (n : Nat) (w : Access) : Prop where
  actor : s.actor = .id n
  there : s.acc? n = some w
  deferred : w.deferred = false
  held : w.held = false
  due : w.due ≤ s.clock
  copied : s.ofWld w = true ∨ s.sbHeld (wordOf w.pa) 8 w.op.isWrite = false

/-- What an access of an element's port does at its home once nothing holds it. -/
def State.performOp (s : State) (w : Access) : State :=
  match w.op with
  | .read => s.performRead w
  | .write v => s.performWrite w v
  | .clear => (s.homeClear w.pa).1.writeDone w (s.homeClear w.pa).2
  | .write32 v => s.performHalf w v
  | _ => s

section
variable {s : State} {n : Nat} {w : Access} (h : atHome s n w)
include h

theorem exec_access : exec .memoryEdgeAccess s = .next (s.perform w) := by
  show execMemoryEdgeAccess s = _
  simp only [execMemoryEdgeAccess, h.actor, h.there]

theorem perform_atHome (hop : w.op.ofSeq = false) (hread : w.op = .read → s.readHeld w.obs w.pa = false) :
    s.perform w = s.performOp w := by
  have hcopied : ¬ (¬ s.ofWld w = true ∧ s.sbHeld (wordOf w.pa) 8 w.op.isWrite = true) := by
    rintro ⟨hwld, hsb⟩
    exact Bool.false_ne_true ((h.copied.resolve_left hwld).symm.trans hsb)
  have hwait : ¬ (w.deferred = true ∨ w.held = true ∨ s.clock < w.due) := by
    simp [h.deferred, h.held, h.due]
  have hseq : ¬ w.op.ofSeq = true := by rw [hop]; exact Bool.false_ne_true
  have hnow : ¬ (w.op = .read ∧ s.readHeld w.obs w.pa = true) := fun hr =>
    Bool.false_ne_true ((hread hr.1).symm.trans hr.2)
  exact (if_neg hwait).trans ((if_neg hseq).trans ((if_neg hcopied).trans (if_neg hnow)))

theorem exec_read (hop : w.op = .read) (hread : s.readHeld w.obs w.pa = false) :
    exec .memoryEdgeAccess s = .next (s.performRead w) := by
  rw [exec_access h, perform_atHome h (by rw [hop]; rfl) fun _ => hread]
  simp only [State.performOp, hop]

theorem exec_write {v : Word} (hop : w.op = .write v) : exec .memoryEdgeAccess s = .next (s.performWrite w v) := by
  rw [exec_access h, perform_atHome h (by rw [hop]; rfl) (by simp [hop])]
  simp only [State.performOp, hop]

theorem exec_write32 {v : BitVec 32} (hop : w.op = .write32 v) : exec .memoryEdgeAccess s = .next (s.performHalf w v) := by
  rw [exec_access h, perform_atHome h (by rw [hop]; rfl) (by simp [hop])]
  simp only [State.performOp, hop]

theorem exec_clear (hop : w.op = .clear) :
    exec .memoryEdgeAccess s = .next ((s.homeClear w.pa).1.writeDone w (s.homeClear w.pa).2) := by
  rw [exec_access h, perform_atHome h (by rw [hop]; rfl) (by simp [hop])]
  simp only [State.performOp, hop]

end

/-! ### Reads (R248, R267, R269, R275) -/

section
variable {s : State} {n : Nat} {w : Access}

theorem performRead_replies (hr : refreshing s.clock w.pa = false) (hb : s.isBad w.pa = false)
    (hp : w.cls ≠ 1 ∨ s.present w.pa = true) :
    s.performRead w = s.accReply w (.tok (dataTok (BitVec.ofNat 4 w.fmt) (s.valueFor w.obs w.pa))) := by
  have hthere : ¬ (w.cls = 1 ∧ ¬ s.present w.pa = true) := fun ⟨hcls, hnot⟩ => hp.elim (· hcls) hnot
  simp only [State.performRead, hr, hb, hthere, Bool.false_eq_true, if_false]

theorem performRead_defers (hr : refreshing s.clock w.pa = false) (hb : s.isBad w.pa = false) (hcls : w.cls = 1)
    (hp : s.present w.pa = false) (hroom : s.deferred (stackOf w.pa) < 2048) :
    s.performRead w = { s.dropAcc w.id with accs := (s.dropAcc w.id).accs ++ [{ w with deferred := true }] } := by
  simp only [State.performRead, hr, hb, hcls, hp, hroom, Bool.false_eq_true, not_false_eq_true, and_self, if_false, if_true]

theorem performRead_fails (hr : refreshing s.clock w.pa = false) (hb : s.isBad w.pa = true) :
    s.performRead w = (s.accFail w Cause.uncorrectable).logRef w.ref := by
  simp only [State.performRead, hr, hb, Bool.false_eq_true, if_false, if_true]

theorem performRead_holds (hr : refreshing s.clock w.pa = true) :
    s.performRead w = s.modAcc w.id fun w => { w with held := true } := if_pos hr

/-- Where no write in flight is obtained, home is. -/
theorem valueFor_home {o : Observer} {a : Nat} (hseen : s.seenWrites o a = []) : s.valueFor o a = s.word (wordOf a) := by
  rw [State.valueFor, hseen]
  rfl

theorem modAcc_acc (hw : s.acc? n = some w) {f : Access → Access} (hf : ∀ a, a.id = n → (f a).id = n) :
    (s.modAcc n f).acc? n = some (f w) := by
  show (s.accs.map fun a => if a.id = n then f a else a).find? (fun a => decide (a.id = n)) = _
  rw [find_map Access.id n f hf, if_pos rfl]
  exact congrArg (Option.map f) hw

end

/-! ### Writes (R248, R266, R339) -/

section
variable {s : State} {w : Access}

theorem performWrite_acc (v : Word) : (s.performWrite w v).acc? w.id = none := writeDone_acc _ w _

theorem performWrite_writes (v : Word) (hc : s.storeCause w.pa = 0) (hp : w.cls ≠ 1 ∨ s.present w.pa = false) :
    (s.performWrite w v).mem = (s.putWord w.pa v).mem ∧
      (s.performWrite w v).presence = if w.cls = 1 then setAdd s.presence w.pa else s.presence := by
  obtain ⟨s1, hhome, hmem, hpres⟩ := homeWrite_writes hc hp v
  have hdone : leavesStore s1 (s1.writeDone w 0) := writeDone_leavesStore fun h => absurd rfl h
  rw [State.performWrite, hhome]
  exact ⟨hdone.mem.trans hmem, hdone.presence.trans hpres⟩

theorem performWrite_fails (v : Word) (hc : s.storeCause w.pa ≠ 0 ∨ w.cls = 1 ∧ s.present w.pa = true)
    (hplain : s.plainFail w) :
    leavesStore s (s.performWrite w v) := by
  obtain ⟨c, hhome⟩ := homeWrite_fails hc v
  rw [State.performWrite, hhome]
  exact writeDone_leavesStore fun _ => hplain

theorem performHalf_logs (v : BitVec 32) (hc : s.storeCause (wordOf w.pa) = 0) (hb : s.isBad (wordOf w.pa) = true) :
    s.performHalf w v = (s.writeDone w Cause.uncorrectable).logRef w.ref := if_pos ⟨hc, hb⟩

theorem performHalf_home (v : BitVec 32) (h : ¬ (s.storeCause (wordOf w.pa) = 0 ∧ s.isBad (wordOf w.pa) = true)) :
    s.performHalf w v =
      (s.homeWrite (wordOf w.pa) w.cls (setHalf (s.word (wordOf w.pa)) w.pa v)).1.writeDone w
        (s.homeWrite (wordOf w.pa) w.cls (setHalf (s.word (wordOf w.pa)) w.pa v)).2 := if_neg h

theorem performHalf_acc (v : BitVec 32) : (s.performHalf w v).acc? w.id = none := by
  by_cases h : s.storeCause (wordOf w.pa) = 0 ∧ s.isBad (wordOf w.pa) = true
  · rw [performHalf_logs v h.1 h.2]
    exact (logRef_leavesStore _ _).acc (writeDone_acc s w _)
  · rw [performHalf_home v h]
    exact writeDone_acc _ w _

theorem performHalf_writes (v : BitVec 32) (hc : s.storeCause (wordOf w.pa) = 0) (hb : s.isBad (wordOf w.pa) = false)
    (hp : w.cls ≠ 1 ∨ s.present (wordOf w.pa) = false) :
    (s.performHalf w v).mem = (s.putWord (wordOf w.pa) (setHalf (s.word (wordOf w.pa)) w.pa v)).mem ∧
      (s.performHalf w v).presence = if w.cls = 1 then setAdd s.presence (wordOf w.pa) else s.presence := by
  obtain ⟨s1, hhome, hmem, hpres⟩ := homeWrite_writes hc hp (setHalf (s.word (wordOf w.pa)) w.pa v)
  have hdone : leavesStore s1 (s1.writeDone w 0) := writeDone_leavesStore fun h => absurd rfl h
  rw [performHalf_home v (by simp [hb]), hhome]
  exact ⟨hdone.mem.trans hmem, hdone.presence.trans hpres⟩

theorem performHalf_fails (v : BitVec 32) (h : s.storeCause (wordOf w.pa) ≠ 0 ∨ s.isBad (wordOf w.pa) = true ∨
    w.cls = 1 ∧ s.present (wordOf w.pa) = true) (hplain : s.plainFail w) : leavesStore s (s.performHalf w v) := by
  by_cases hbad : s.storeCause (wordOf w.pa) = 0 ∧ s.isBad (wordOf w.pa) = true
  · rw [performHalf_logs v hbad.1 hbad.2]
    exact (writeDone_leavesStore fun _ => hplain).trans (logRef_leavesStore _ _)
  · obtain ⟨c, hhome⟩ := homeWrite_fails (a := wordOf w.pa) (cls := w.cls) (s := s)
      (by rcases h with h | h | h
          · exact .inl h
          · exact .inl fun hc => hbad ⟨hc, h⟩
          · exact .inr h) (setHalf (s.word (wordOf w.pa)) w.pa v)
    rw [performHalf_home v hbad, hhome]
    exact writeDone_leavesStore fun _ => hplain

theorem homeClear_clears {a : Nat} (hc : s.storeCause a = 0) : s.homeClear a = ((s.putWord a 0).clearPresent a, 0) :=
  if_neg (not_not.mpr hc)

theorem homeClear_fails {a : Nat} (hc : s.storeCause a ≠ 0) : s.homeClear a = (s, s.storeCause a) := if_pos hc

end

/-! ### Atomics (R339, R353, R355) -/

theorem group_of_elems {s s' : State} (h : s'.elems = s.elems) (r : ElemRef) (gid : Nat) : s'.group? r gid = s.group? r gid := by
  simp only [State.group?, State.elem?, h]

theorem modGroup_group {s : State} {r : ElemRef} {gid : Nat} {g : RGroup} (h : s.group? r gid = some g) {f : RGroup → RGroup}
    (hf : ∀ g, g.gid = gid → (f g).gid = gid) : (s.modGroup r gid f).group? r gid = some (f g) := by
  cases he : s.elem? r with
  | none => simp [State.group?, he] at h
  | some e =>
    rw [state_group he] at h
    rw [State.modGroup, state_group (modMpe_there he _)]
    exact group_modGroup h hf

/-- What an owned record turns away does not depend on the clock of its SYE's next operation (R339, R360). -/
theorem storeCause_useOp (s : State) (d a : Nat) : (s.useOp d).storeCause a = s.storeCause a := by
  have howns (k i : Nat) : (s.useOp d).owns k i = s.owns k i := by
    have hdie := modDie_die s d k (fun x => { x with opFree := s.clock + 1 }) fun _ h => h
    rw [State.owns, State.owns, State.useOp, hdie]
    by_cases hk : k = d
    · rw [if_pos hk]
      cases s.die? k <;> rfl
    · rw [if_neg hk]
  have hrec : (s.useOp d).recAt a = s.recAt a := rfl
  simp only [State.storeCause, hrec, howns]

section
variable {s : State} {a : Nat} {op : MOp} {lane : Nat} {b : Word}

theorem atomicAt_elems : (s.atomicAt a op lane b).s.elems = s.elems := by
  unfold State.atomicAt
  dsimp only
  repeat' split
  all_goals rfl

theorem atomicAt_presence : (s.atomicAt a op lane b).s.presence = s.presence := by
  unfold State.atomicAt
  dsimp only
  repeat' split
  all_goals rfl

theorem atomicAt_writes {v : Word} (hb : s.isBad a = false) (hv : (atomicNew op lane (s.word a) b).1 = some v)
    (hc : s.storeCause a = 0) :
    s.atomicAt a op lane b = ⟨s.putWord a v, 0, s.word a, (atomicNew op lane (s.word a) b).2, true⟩ := by
  rcases hnew : atomicNew op lane (s.word a) b with ⟨_ | x, o⟩
  · simp [hnew] at hv
  · obtain rfl : x = v := by simpa [hnew] using hv
    simp only [State.atomicAt, hb, hnew, hc, Bool.false_eq_true, if_false, ne_eq, not_true_eq_false]

theorem atomicAt_reads (hb : s.isBad a = false) (hv : (atomicNew op lane (s.word a) b).1 = none) :
    s.atomicAt a op lane b = ⟨s, 0, s.word a, (atomicNew op lane (s.word a) b).2, false⟩ := by
  rcases hnew : atomicNew op lane (s.word a) b with ⟨_ | x, o⟩
  · simp only [State.atomicAt, hb, hnew, Bool.false_eq_true, if_false]
  · simp [hnew] at hv

theorem atomicAt_stays (h : s.isBad a = true ∨ (atomicNew op lane (s.word a) b).1 = none ∨ s.storeCause a ≠ 0) :
    (s.atomicAt a op lane b).s = s := by
  by_cases hb : s.isBad a = true
  · simp only [State.atomicAt, if_pos hb]
  · rcases hnew : atomicNew op lane (s.word a) b with ⟨_ | x, o⟩
    · simp only [State.atomicAt, if_neg hb, hnew]
    · have hc : s.storeCause a ≠ 0 := by simpa [hb, hnew] using h
      simp only [State.atomicAt, if_neg hb, hnew, if_pos hc]

end

/-- What an atomic counts once performed: an error that is logged, or a write in its task's signature (R447, R451). -/
def AtomicDone.counted (x : AtomicDone) (w : Access) (b : Word) : State :=
  if x.cause = Cause.uncorrectable then x.s.logRef w.ref
  else if x.wrote then x.s.addSig w.ref.load w.slot w.va b else x.s

theorem counted_leavesStore (x : AtomicDone) (w : Access) (b : Word) : leavesStore x.s (x.counted w b) := by
  unfold AtomicDone.counted
  repeat' split
  · exact logRef_leavesStore _ _
  · exact addSig_leavesStore _ _ _ _ _
  · exact .refl _

theorem counted_elems (x : AtomicDone) (w : Access) (b : Word) : (x.counted w b).elems = x.s.elems := by
  unfold AtomicDone.counted
  repeat' split
  · rw [logRef_onlyLogs x.s w.ref]
  · rfl
  · rfl

theorem atomicReply_leavesStore (s : State) (r : ElemRef) (gid cell : Nat) (t : Except Reply Tok) (o : Bool)
    (scope due credit : Nat) : leavesStore s (s.atomicReply r gid cell t o scope due credit) :=
  ⟨rfl, rfl, List.Subset.refl _⟩

/-- The replies of an atomic that was performed, of a group with one cell: the old word and an ORDER token (R355). -/
theorem atomicReply_cells {s : State} {r : ElemRef} {gid : Nat} {g : RGroup} {c : Cell} (hg : s.group? r gid = some g)
    (hc : g.cells = [c]) (hdst : g.dst ≠ 15) (t : Tok) (o : Bool) (scope due credit : Nat) :
    (s.atomicReply r gid c.id (.ok t) o scope due credit).group? r gid = some { g with
      outc := o, opened := false
      cells := [{ c with r := .tok t, due := due }, ⟨s.nextId, .tok (orderTok scope), credit, due⟩] } := by
  have hdst' : ¬ s.groupDst r gid = 15 := by rw [State.groupDst, hg]; exact hdst
  have houtc : (s.setOutc r gid o).group? r gid = some { g with outc := o } := modGroup_group hg fun _ h => h
  rw [State.atomicReply]
  change State.group? (State.modGroup _ r gid _) r gid = _
  rw [modGroup_group houtc fun _ h => by exact h]
  simp only [hc, List.flatMap_cons, List.flatMap_nil, if_true, if_neg hdst', List.append_nil]

section
variable {s : State} {n : Nat} {w : Access} {op : MOp} {lane : Nat} {b : Word} (ha : s.actor = .id n)
  (hw : s.acc? n = some w) (hop : w.op = .atomic op lane b)
include ha hw hop

/-- An atomic that nothing holds at its home, and what it came to there. -/
theorem exec_atomicPerform (hdue : w.due ≤ s.clock) (hbusy : s.opBusy (homeDie w.pa) = false)
    (hsb : s.sbHeld w.pa 8 true = false) (hreached : s.reached w.obs w.pa = []) :
    let x := (s.useOp (homeDie w.pa)).atomicAt w.pa op lane b
    exec .atomicPerform s = .next (((x.counted w b).dropAcc n).atomicReply w.ref w.gid w.cell
      (if x.cause ≠ 0 then .error (s.failReply w.ref w.gid x.cause w.va) else .ok (dataTok (BitVec.ofNat 4 w.fmt) x.old))
      (x.cause == 0 && x.outcome) 3 (s.clock + w.back) 3) := by
  have hgoes : ¬ (s.clock < w.due ∨ s.opBusy (homeDie w.pa) = true ∨ s.sbHeld w.pa 8 true = true ∨
      ¬ (s.reached w.obs w.pa).isEmpty = true) := by
    simp [hdue, hbusy, hsb, hreached]
  show execAtomicPerform s = _
  simp only [execAtomicPerform, ha, hw, hop, if_neg hgoes]
  rfl

/-- The step leaves memory, presence and the accesses as the atomic itself did, and its access is gone; where it did not
fail, a group of one cell has the old word and an ORDER token (R353, R355). -/
theorem atomicPerform_after (hdue : w.due ≤ s.clock) (hbusy : s.opBusy (homeDie w.pa) = false)
    (hsb : s.sbHeld w.pa 8 true = false) (hreached : s.reached w.obs w.pa = []) :
    let x := (s.useOp (homeDie w.pa)).atomicAt w.pa op lane b
    ∃ s', exec .atomicPerform s = .next s' ∧ s'.acc? n = none ∧ leavesStore x.s s' ∧
      (x.cause = 0 → ∀ g c, s.group? w.ref w.gid = some g → g.cells = [c] → c.id = w.cell → g.dst ≠ 15 →
        ∃ g' k, s'.group? w.ref w.gid = some g' ∧ g'.opened = false ∧ g'.outc = x.outcome ∧
          g'.cells = [{ c with r := .tok (dataTok (BitVec.ofNat 4 w.fmt) x.old), due := s.clock + w.back },
            ⟨k, .tok (orderTok 3), 3, s.clock + w.back⟩]) := by
  intro x
  refine ⟨_, exec_atomicPerform ha hw hop hdue hbusy hsb hreached,
    (atomicReply_leavesStore _ _ _ _ _ _ _ _ _).acc (dropAcc_acc _ n),
    (counted_leavesStore x w b).trans ((dropAcc_leavesStore _ n).trans (atomicReply_leavesStore _ _ _ _ _ _ _ _ _)),
    fun hc g c hg hcells hid hdst => ?_⟩
  have hc' : ((s.useOp (homeDie w.pa)).atomicAt w.pa op lane b).cause = 0 := hc
  have helems : ((x.counted w b).dropAcc n).elems = s.elems := (counted_elems x w b).trans atomicAt_elems
  have hg' : ((x.counted w b).dropAcc n).group? w.ref w.gid = some g := (group_of_elems helems _ _).trans hg
  rw [if_neg (not_not.mpr hc'), ← hid]
  refine ⟨_, _, atomicReply_cells hg' hcells hdst _ _ 3 _ 3, rfl, ?_, rfl⟩
  simp only [hc', beq_self_eq_true, Bool.true_and]
  rfl

end

/-! ### What an atomic computes (R352, R353) -/

theorem map2Lanes_lane_of {w k : Nat} (hk : k < 64 / w) (g : Nat → Nat → Nat) (a b : Word)
    (hg : g (laneN w k a) (laneN w k b) < 2 ^ w) : laneN w k (map2Lanes w g a b) = g (laneN w k a) (laneN w k b) := by
  rw [map2Lanes_lane hk, Nat.mod_eq_of_lt hg]

/-- The half that an ACAS compares and replaces. -/
def casLo (lane : Nat) : Nat := if lane = 1 then 0 else 32

theorem casLo_le (lane : Nat) : casLo lane + 32 ≤ 64 := by
  unfold casLo
  split <;> omega

section
variable {lane : Nat} {x b : Word}

theorem atomicNew_acas_matches (h : fld x (casLo lane) 32 = fld b 0 32) :
    atomicNew .acas lane x b = (some (setFld x (casLo lane) 32 (fld b 32 32)), true) := if_pos h

theorem atomicNew_acas_fails (h : fld x (casLo lane) 32 ≠ fld b 0 32) : atomicNew .acas lane x b = (none, false) := if_neg h

/-- An ACAS that matches: its half takes the new value, and the other half stays. -/
theorem acas_sets (h : fld x (casLo lane) 32 = fld b 0 32) {other : Nat}
    (ho : other + 32 ≤ casLo lane ∨ casLo lane + 32 ≤ other) :
    ∃ v, atomicNew .acas lane x b = (some v, true) ∧ fld v (casLo lane) 32 = fld b 32 32 ∧
      fld v other 32 = fld x other 32 :=
  ⟨_, atomicNew_acas_matches h, (fld_setFld (casLo_le lane) x _).trans (Nat.mod_mod _ _),
    fld_setFld_other (casLo_le lane) x _ ho.symm⟩

end

/-! ### The obligation -/

/-- Settles O37: a read by what its word and its page are, a write of any form by what its home's check gives, an atomic by
whether it writes, and the new values lane by lane. -/
theorem accessesAtHome : Obligations.AccessesAtHome := by
  refine ⟨fun s n w ha hw hm hdef hheld hdue hcopied hread => ?_,
    fun s n w op lane b ha hw hop hm hdue hbusy hsb hreached => ?_, fun x b l => ?_, fun x b => ?_⟩
  · have h : atHome s n w := ⟨ha, hw, hdef, hheld, hdue, hcopied⟩
    obtain rfl := acc_id hw
    intro does plain
    refine ⟨fun hop hr hb => ⟨fun hp => ⟨?_, fun hseen halign => ?_⟩, fun hcls hp hroom => ?_⟩, fun hop hr hb hplain => ?_,
      fun hop hr => ?_, fun v hop => ?_, fun v hop halign => ?_, fun hop => ?_⟩
    · exact (exec_read h hop (hread hop)).trans (by rw [performRead_replies hr hb hp])
    · rw [valueFor_home hseen, wordOf, Nat.div_mul_cancel (Nat.dvd_of_mod_eq_zero halign)]
    · have hexec := exec_read h hop (hread hop)
      rw [performRead_defers hr hb hcls hp hroom] at hexec
      exact ⟨_, hexec, rfl, rfl, List.mem_append_right _ (List.mem_singleton.mpr rfl)⟩
    · have hafter := (accFail_leavesStore hplain Cause.uncorrectable).trans (logRef_leavesStore _ w.ref)
      have hexec := exec_read h hop (hread hop)
      rw [performRead_fails hr hb] at hexec
      exact ⟨_, hexec, (logRef_leavesStore _ _).acc (accFail_acc s w _), hafter.mem, hafter.presence⟩
    · have hexec := exec_read h hop (hread hop)
      rw [performRead_holds hr] at hexec
      exact ⟨_, hexec, rfl, rfl, modAcc_acc hw fun _ h => h⟩
    · refine ⟨_, exec_write h hop, performWrite_acc v, fun hc hp => ?_, fun hc hplain => ?_⟩
      · obtain ⟨hmem, hpres⟩ := performWrite_writes v hc hp
        refine ⟨?_, fun a hout => ?_, hpres⟩
        · rw [word_of_mem hmem, word_putWord _ _ _ hm]
        · rw [byte_of_mem hmem, putWord_onlyBytes s _ v hm a hout]
      · have hafter := performWrite_fails v hc hplain
        exact ⟨hafter.mem, hafter.presence⟩
    · refine ⟨_, exec_write32 h hop, performHalf_acc v, fun hc hb hp => ?_, fun hc hplain => ?_⟩
      · obtain ⟨hmem, hpres⟩ := performHalf_writes v hc hb hp
        have hin : w.pa % 8 + 4 ≤ 8 := by omega
        refine ⟨?_, fun a hout => ?_, hpres⟩
        · rw [readN_of_mem hmem, setHalf, putPart_reads hm _ _ hin, Nat.mod_eq_of_lt v.isLt]
        · rw [byte_of_mem hmem, setHalf, putPart_onlyBytes hm _ _ hin a hout]
      · have hafter := performHalf_fails v hc hplain
        exact ⟨hafter.mem, hafter.presence⟩
    · refine ⟨_, exec_clear h hop, writeDone_acc _ w _, fun hc => ?_, fun hc hplain => ?_⟩
      · rw [homeClear_clears hc]
        have hafter := writeDone_leavesStore (s := (s.putWord w.pa 0).clearPresent w.pa) (w := w) (cause := 0)
          fun h => absurd rfl h
        refine ⟨?_, fun a hout => ?_, hafter.presence⟩
        · exact (word_of_mem hafter.mem _).trans (word_putWord s _ 0 hm)
        · exact (byte_of_mem hafter.mem a).trans (putWord_onlyBytes s _ 0 hm a hout)
      · rw [homeClear_fails hc]
        have hafter := writeDone_leavesStore (s := s) (w := w) (cause := s.storeCause w.pa) fun _ => hplain
        exact ⟨hafter.mem, hafter.presence⟩
  · intro new
    obtain ⟨s', hexec, hacc, hafter, hcells⟩ := atomicPerform_after ha hw hop hdue hbusy hsb hreached
    have hcause := storeCause_useOp s (homeDie w.pa) w.pa
    refine ⟨s', hexec, hacc, hafter.presence.trans atomicAt_presence, fun hstay => ?_, fun v hb hv hc => ?_,
      fun g c hb hdone hg hg1 hid hdst => ?_⟩
    · rw [← hcause] at hstay
      rw [hafter.mem, atomicAt_stays hstay]
      rfl
    · rw [← hcause] at hc
      have hat := atomicAt_writes (s := s.useOp (homeDie w.pa)) hb hv hc
      rw [hat] at hafter
      refine ⟨(word_of_mem hafter.mem _).trans (word_putWord (s.useOp (homeDie w.pa)) _ v hm), fun a hout => ?_⟩
      exact (byte_of_mem hafter.mem a).trans (putWord_onlyBytes (s.useOp (homeDie w.pa)) _ v hm a hout)
    · have hdid : ∃ x1 wrote, (s.useOp (homeDie w.pa)).atomicAt w.pa op lane b = ⟨x1, 0, s.word w.pa, new.2, wrote⟩ := by
        cases hv : new.1 with
        | none => exact ⟨_, _, atomicAt_reads (s := s.useOp (homeDie w.pa)) hb hv⟩
        | some v =>
          have hc : s.storeCause w.pa = 0 := hdone.resolve_left (by rw [hv]; exact Option.some_ne_none v)
          exact ⟨_, _, atomicAt_writes (s := s.useOp (homeDie w.pa)) hb hv (hcause.trans hc)⟩
      obtain ⟨x1, wrote, hat⟩ := hdid
      rw [hat] at hcells
      exact hcells rfl g c hg hg1 hid hdst
  · intro w makes
    have hlt (k : Nat) (y : Word) : laneN w k y < 2 ^ w := laneN_lt w k y
    refine ⟨⟨_, rfl, fun k hk => ?_⟩, ⟨_, rfl, fun k hk => ?_⟩, ⟨_, rfl, fun k hk => ?_⟩, rfl, rfl, rfl⟩
    · exact map2Lanes_lane_of hk _ x b (Nat.mod_lt _ (by positivity))
    · rw [map2Lanes_lane_of hk _ x b (by split <;> exact hlt k _)]
      simp only [← not_lt, ite_not]
      rfl
    · rw [map2Lanes_lane_of hk _ x b (by split <;> exact hlt k _)]
      simp only [← not_lt, ite_not]
      rfl
  · exact ⟨⟨_, rfl, fun k hk => map2Lanes_lane (w := 32) hk addF32 x b⟩, fun h => acas_sets (lane := 1) h (.inr le_rfl),
      fun h => atomicNew_acas_fails (lane := 1) h, fun h => acas_sets (lane := 2) h (.inl le_rfl),
      fun h => atomicNew_acas_fails (lane := 2) h⟩

end Sys2Proof.Machine
end

section
/-! SUPPORT. The sequencer's loads and stores (R248, R265, R286, R303, R339, R369, R451): what a word does by the checks of its
address, in their order, and what its access does when it is performed. -/

namespace Sys2Proof.Machine

open Sys2Proof Sys2Proof.Safety

/-! ### The translation of an operand (R265) -/

/-- Bits above 56 do not take part. -/
theorem seqXlat_mod (s : State) (q : Seq) (use : SeqUse) (va n : Nat) :
    s.seqXlat q use (va % 2 ^ 57) n = s.seqXlat q use va n := by
  simp only [State.seqXlat, Nat.mod_mod]

theorem seqXlat_misaligned (s : State) (q : Seq) (use : SeqUse) {va n : Nat} (hn : n ∣ 2 ^ 57) (h : va % n ≠ 0) :
    (s.seqXlat q use va n).cause = Cause.align := by
  rw [← Nat.mod_mod_of_dvd va hn] at h
  simp only [State.seqXlat, if_pos h]

theorem xlated_others (s : State) (t : Nat) (x : Xlat) : othersKept s (s.xlated t x) t := fun u hu =>
  (modSeq_seq s t u (fun q => { q with tc := x.tc }) fun _ h => h).trans (if_neg hu)

theorem othersKept_trans {a b c : State} {t : Nat} (h1 : othersKept a b t) (h2 : othersKept b c t) : othersKept a c t :=
  fun u hu => (h2 u hu).trans (h1 u hu)

/-- Logging an error does not depend on the sequencers. -/
theorem logSe_xlated (s : State) (t : Nat) (x : Xlat) (kind ptile site handle : Nat) :
    (s.xlated t x).logSe kind ptile site handle =
      { s.logSe kind ptile site handle with seqs := (s.xlated t x).seqs, freeCount := x.fc } := by
  have hlog : (s.xlated t x).selog = s.selog := rfl
  unfold State.logSe
  rw [hlog]
  split <;> rfl

section
variable {i : Instr} {s : State} {t : Nat} {q : Seq} {x : Xlat} (h : seqThere s t q)
include h

theorem trapsSeq_of_xlated {c : Nat} (hi : exec i s = .next ((s.xlated t x).trapQ t c)) : trapsSeq i s t q c := by
  obtain ⟨dt, hseq, hrest, hothers⟩ := trapQ_spec (xlated_seq h.2 x) c
  exact ⟨_, dt, x.tc, hi, hseq, hrest, othersKept_trans (xlated_others s t x) hothers⟩

theorem trapsUncorrectable_of_xlated
    (hi : exec i s = .next (((s.xlated t x).logRead t Cause.uncorrectable).trapQ t Cause.uncorrectable)) :
    trapsUncorrectable i s t q := by
  have hlog : (s.xlated t x).logRead t Cause.uncorrectable =
      { s.logSe 6 t 0 0 with seqs := (s.xlated t x).seqs, freeCount := x.fc } :=
    (if_pos rfl).trans (logSe_xlated s t x 6 t 0 0)
  have hclock : (s.logSe 6 t 0 0).clock = s.clock := by rw [logSe_onlyLogs s 6 t 0 0]
  have hthere : ((s.xlated t x).logRead t Cause.uncorrectable).seq? t = some { q with tc := x.tc } := by
    rw [hlog]
    exact xlated_seq h.2 x
  obtain ⟨dt, hseq, hrest, hothers⟩ := trapQ_spec hthere Cause.uncorrectable
  refine ⟨_, dt, x.tc, hi, ?_, ?_, othersKept_trans (fun u hu => ?_) hothers⟩
  · rw [hseq, hlog]
    dsimp only
    rw [hclock]
  · rw [hrest, hlog]
  · rw [hlog]
    exact xlated_others s t x u hu

/-- A translation that failed: its cause, and an error in a descriptor is logged. -/
theorem traps_of_xlated {c : Nat} (hi : exec i s = .next (((s.xlated t x).logRead t c).trapQ t c)) :
    (c = Cause.uncorrectable → trapsUncorrectable i s t q) ∧ (c ≠ Cause.uncorrectable → trapsSeq i s t q c) := by
  refine ⟨fun hc => trapsUncorrectable_of_xlated h (x := x) (hc ▸ hi), fun hc => trapsSeq_of_xlated h (x := x) ?_⟩
  rw [hi, State.logRead, if_neg hc]

end

/-! ### An access that leaves (R286, R369) -/

/-- What a sequencer's access to an address is when it leaves. -/
structure seqAccessOf (s : State) (t : Nat) (op : MemOp) (pa : Nat) (w : Access) : Prop where
  id : w.id = s.nextId
  ref : w.ref = seqRef t
  tile : w.tile = t
  op : w.op = op
  pa : w.pa = pa
  due : s.clock ≤ w.due
  deferred : w.deferred = false
  held : w.held = false

theorem issueSeq_issues (s : State) (t : Nat) (op : MemOp) (pa va : Nat) : ∃ w, seqAccessOf s t op pa w ∧
    s.issueSeq t op pa va = { s with accs := s.accs ++ [w], nextId := s.nextId + 1, freeCount := s.freeCount + 4 } := by
  refine ⟨_, ⟨rfl, rfl, rfl, rfl, rfl, ?_, rfl, rfl⟩, rfl⟩
  have hdue0 : s.clock ≤ s.clock + seqLat t pa / 2 + s.waitNow := by omega
  dsimp only
  split
  · exact (hdue0.trans (le_foldl_max _ _)).trans (le_foldl_max _ _)
  · exact hdue0

/-- A word whose translation passed, whose access leaves, and which goes on. -/
theorem issuesSeq_of_xlated {i : Instr} {s : State} {t : Nat} {q : Seq} {x : Xlat} (h : seqThere s t q) {op : MemOp}
    {pa va : Nat} {loads : List (Nat × Nat)} {f : Seq → Seq}
    (hi : exec i s = .next (((s.xlated t x).issueSeq t op pa va).modSeq t f))
    (hf : f { q with tc := x.tc } = { q with pc := q.pc + 4, busy := (f { q with tc := x.tc }).busy, tc := x.tc, loads := loads })
    (htile : ∀ y, y.tile = t → (f y).tile = t) : issuesSeq i s t q op pa loads := by
  obtain ⟨w, hw, hissue⟩ := issueSeq_issues (s.xlated t x) t op pa va
  have hthere : ((s.xlated t x).issueSeq t op pa va).seq? t = some { q with tc := x.tc } := by
    rw [hissue]
    exact xlated_seq h.2 x
  obtain ⟨hseq, honly, hothers⟩ := modSeq_spec _ t _ f hthere htile
  refine ⟨_, _, w, hi, hseq, ?_, othersKept_trans (fun u hu => ?_) hothers, ?_, hw.id, hw.ref, hw.tile, hw.op, hw.pa, hw.due,
    hw.deferred, hw.held⟩
  · rw [hf]
  · rw [hissue]
    exact xlated_others s t x u hu
  · rw [honly, hissue]
    rfl

/-! ### The words (R369) -/

/-- The translation of the operand of a load or store. -/
def State.seqOperand (s : State) (q : Seq) (use : SeqUse) (a : BitVec 5) (i : BitVec 16) (n : Nat) : Xlat :=
  s.seqXlat q use (q.reg a + BitVec.ofInt 64 i.toInt).toNat n

/-- The loads that are to write a register once a load of d has left. -/
def Seq.loadsWith (q : Seq) (d : BitVec 5) (id : Nat) : List (Nat × Nat) :=
  if d = 0 then q.loads else (d.toNat, id) :: q.loads.filter fun y => decide (y.1 ≠ d.toNat)

section
variable {s : State} {t : Nat} {q : Seq} (h : seqThere s t q) (n : Nat) (d a : BitVec 5) (i : BitVec 16)
include h

/-- A store by its checks, in their order. -/
theorem seqStore_eq : ∃ va, seqStore n d a i s = .next (
    let x := s.seqOperand q .store a i n
    let s1 := s.xlated t x
    let done (q : Seq) : Seq := { q.next with busy := s.clock + 1 }
    if x.cause ≠ 0 then (s1.logRead t x.cause).trapQ t x.cause
    else if s.mayFail x.pa ∧ s.seqHeld t x.pa then s1
    else if s.storeCause x.pa ≠ 0 then s1.trapQ t (s.storeCause x.pa)
    else if n < 8 ∧ s.isBad (wordOf x.pa) then (s1.logRead t Cause.uncorrectable).trapQ t Cause.uncorrectable
    else if s.mayFail x.pa then (s1.storeN x.pa n (q.reg d).toNat).modSeq t done
    else (s1.issueSeq t (.seqWrite n (q.reg d).toNat) x.pa va).modSeq t done) := by
  rw [seqStore, withSeq_there _ h]
  dsimp only
  rw [seqXlat_mod]
  exact ⟨_, rfl⟩

/-- A load by its checks, in their order. -/
theorem seqLoad_eq : ∃ va, seqLoad n d a i s = .next (
    let x := s.seqOperand q .load a i n
    let s1 := s.xlated t x
    if x.cause ≠ 0 then (s1.logRead t x.cause).trapQ t x.cause
    else if s.isBad (wordOf x.pa) then (s1.logRead t Cause.uncorrectable).trapQ t Cause.uncorrectable
    else (s1.issueSeq t (.seqRead d.toNat n) x.pa va).modSeq t fun q =>
      { q.next with busy := s.clock + 1, loads := q.loadsWith d s.nextId }) := by
  rw [seqLoad, withSeq_there _ h]
  dsimp only
  rw [seqXlat_mod]
  exact ⟨_, rfl⟩

end

theorem storeN_mem (s : State) (pa n v : Nat) : (s.storeN pa n v).mem = (s.writeN pa n v).mem := by
  unfold State.storeN
  dsimp only
  split <;> rfl

section
variable {s : State} (hm : Memory.wf s.mem = true)
include hm

theorem storeN_byte (pa v : Nat) {n k : Nat} (hk : k < n) :
    (s.storeN pa n v).byte (pa + k) = BitVec.ofNat 8 (v / 256 ^ k) := by
  rw [byte_of_mem (storeN_mem s pa n v), byte_writeN_inside s pa n v k hm hk, Nat.pow_mul]

theorem storeN_onlyBytes (pa n v : Nat) : onlyBytes s (s.storeN pa n v) pa n := fun b hb =>
  (byte_of_mem (storeN_mem s pa n v) b).trans (writeN_onlyBytes s pa n v hm b hb)

end

section
variable {s : State} {t : Nat} {q : Seq} (h : seqThere s t q) {w : Instr} {n : Nat} {d a : BitVec 5} {i : BitVec 16}
include h

/-- What a load does, by its translation and by the error of its word (R369, R451). -/
theorem load_does (hw : exec w s = seqLoad n d a i s) :
    let x := s.seqOperand q .load a i n
    (x.cause = 0 → s.isBad (wordOf x.pa) = false → issuesSeq w s t q (.seqRead d.toNat n) x.pa (q.loadsWith d s.nextId)) ∧
    (x.cause = Cause.uncorrectable → trapsUncorrectable w s t q) ∧
    (x.cause = 0 → s.isBad (wordOf x.pa) = true → trapsUncorrectable w s t q) ∧
    (x.cause ≠ 0 → x.cause ≠ Cause.uncorrectable → trapsSeq w s t q x.cause) := by
  intro x
  obtain ⟨va, heq⟩ := seqLoad_eq h n d a i
  have hi := hw.trans heq
  have hfail (hc : x.cause ≠ 0) := traps_of_xlated h (hi.trans (congrArg Host.Outcome.next (if_pos hc)))
  refine ⟨fun hc hb => ?_, fun hc => (hfail (by rw [hc]; decide)).1 hc, fun hc hb => ?_, fun hc => (hfail hc).2⟩
  · exact issuesSeq_of_xlated h (hi.trans (congrArg Host.Outcome.next
      ((if_neg (not_not.mpr hc)).trans (if_neg (Bool.eq_false_iff.mp hb))))) rfl fun _ h => h
  · exact trapsUncorrectable_of_xlated h (hi.trans (congrArg Host.Outcome.next
      ((if_neg (not_not.mpr hc)).trans (if_pos hb))))

/-- A store that is performed in its step, of n bytes at pa. -/
theorem accesses_of_storeN {x : Xlat} (hm : Memory.wf s.mem = true) {pa v : Nat} {f : Seq → Seq}
    (hi : exec w s = .next (((s.xlated t x).storeN pa n v).modSeq t f))
    (hf : f { q with tc := x.tc } = { q with pc := q.pc + 4, busy := (f { q with tc := x.tc }).busy, tc := x.tc })
    (htile : ∀ y, y.tile = t → (f y).tile = t) : ∃ s', accesses w s t q s' ∧
      (∀ k, k < n → s'.byte (pa + k) = BitVec.ofNat 8 (v / 256 ^ k)) ∧ onlyBytes s s' pa n := by
  obtain ⟨m, b, hstore⟩ := storeN_rest (s.xlated t x) pa n v
  have hthere : ((s.xlated t x).storeN pa n v).seq? t = some { q with tc := x.tc } := by
    rw [hstore]
    exact xlated_seq h.2 x
  obtain ⟨hseq, honly, hothers⟩ := modSeq_spec _ t _ f hthere htile
  refine ⟨_, ⟨_, hi, hseq, ?_, ?_, othersKept_trans (fun u hu => ?_) hothers⟩, fun k hk => ?_, fun c hc => ?_⟩
  · rw [hf]
  · rw [honly, hstore]
    rfl
  · rw [hstore]
    exact xlated_others s t x u hu
  · exact storeN_byte hm (s := s.xlated t x) pa v hk
  · exact storeN_onlyBytes hm (s := s.xlated t x) pa n v c hc

/-- What a store does, by its translation, by what its home says and by the error of its word (R339, R369, R451; log 16, log 96). -/
theorem store_does (hm : Memory.wf s.mem = true) (hw : exec w s = seqStore n d a i s) :
    let x := s.seqOperand q .store a i n
    let may := s.mayFail x.pa
    let partBad : Prop := n < 8 ∧ s.isBad (wordOf x.pa) = true
    (x.cause = 0 → may = false → s.storeCause x.pa = 0 → ¬ partBad →
      issuesSeq w s t q (.seqWrite n (q.reg d).toNat) x.pa q.loads) ∧
    (x.cause = 0 → may = true → s.seqHeld t x.pa = false → s.storeCause x.pa = 0 → ¬ partBad → ∃ s', accesses w s t q s' ∧
      (∀ k, k < n → s'.byte (x.pa + k) = BitVec.ofNat 8 ((q.reg d).toNat / 256 ^ k)) ∧ onlyBytes s s' x.pa n) ∧
    (x.cause = 0 → may = true → s.seqHeld t x.pa = true → ∃ s' tc, exec w s = .next s' ∧
      s'.seq? t = some { q with tc := tc } ∧ s' = { s with seqs := s'.seqs, freeCount := s'.freeCount } ∧ othersKept s s' t) ∧
    (x.cause = 0 → may = false ∨ s.seqHeld t x.pa = false → s.storeCause x.pa ≠ 0 → trapsSeq w s t q (s.storeCause x.pa)) ∧
    (x.cause = 0 → may = false ∨ s.seqHeld t x.pa = false → s.storeCause x.pa = 0 → partBad → trapsUncorrectable w s t q) ∧
    (x.cause = Cause.uncorrectable → trapsUncorrectable w s t q) ∧
    (x.cause ≠ 0 → x.cause ≠ Cause.uncorrectable → trapsSeq w s t q x.cause) := by
  intro x may partBad
  obtain ⟨va, heq⟩ := seqStore_eq h n d a i
  have hi := hw.trans heq
  have hfail (hc : x.cause ≠ 0) := traps_of_xlated h (hi.trans (congrArg Host.Outcome.next (if_pos hc)))
  -- past the translation and the wait
  have hgoes (hc : x.cause = 0) (hfree : may = false ∨ s.seqHeld t x.pa = false) :=
    hi.trans (congrArg Host.Outcome.next ((if_neg (not_not.mpr hc)).trans (if_neg fun hheld => hfree.elim
      (fun hmay => Bool.false_ne_true (hmay.symm.trans hheld.1)) fun hseq => Bool.false_ne_true (hseq.symm.trans hheld.2))))
  refine ⟨fun hc hmay hst hpart => ?_, fun hc hmay hheld hst hpart => ?_, fun hc hmay hheld => ?_, fun hc hfree hst => ?_,
    fun hc hfree hst hpart => ?_, fun hc => (hfail (by rw [hc]; decide)).1 hc, fun hc => (hfail hc).2⟩
  · exact issuesSeq_of_xlated h ((hgoes hc (.inl hmay)).trans (congrArg Host.Outcome.next
      ((if_neg (not_not.mpr hst)).trans ((if_neg hpart).trans (if_neg (Bool.eq_false_iff.mp hmay)))))) rfl fun _ h => h
  · exact accesses_of_storeN h hm ((hgoes hc (.inr hheld)).trans (congrArg Host.Outcome.next
      ((if_neg (not_not.mpr hst)).trans ((if_neg hpart).trans (if_pos hmay))))) rfl fun _ h => h
  · exact ⟨_, x.tc, hi.trans (congrArg Host.Outcome.next ((if_neg (not_not.mpr hc)).trans (if_pos ⟨hmay, hheld⟩))),
      xlated_seq h.2 x, rfl, xlated_others s t x⟩
  · exact trapsSeq_of_xlated h ((hgoes hc hfree).trans (congrArg Host.Outcome.next (if_pos hst)))
  · exact trapsUncorrectable_of_xlated h ((hgoes hc hfree).trans (congrArg Host.Outcome.next
      ((if_neg (not_not.mpr hst)).trans (if_pos hpart))))

/-- An address that is not a multiple of its size (R265, R369). -/
theorem misaligned_traps {w' : Instr} (hn : n ∣ 2 ^ 57) (hva : (q.reg a + BitVec.ofInt 64 i.toInt).toNat % n ≠ 0)
    (hload : exec w s = seqLoad n d a i s) (hstore : exec w' s = seqStore n d a i s) :
    trapsSeq w s t q Cause.align ∧ trapsSeq w' s t q Cause.align := by
  have hcause (use : SeqUse) : (s.seqOperand q use a i n).cause = Cause.align := seqXlat_misaligned s q use hn hva
  have hne (use : SeqUse) : (s.seqOperand q use a i n).cause ≠ 0 := by rw [hcause]; decide
  have hother (use : SeqUse) : (s.seqOperand q use a i n).cause ≠ Cause.uncorrectable := by rw [hcause]; decide
  constructor
  · obtain ⟨va, heq⟩ := seqLoad_eq h n d a i
    have hi := (hload.trans heq).trans (congrArg Host.Outcome.next (if_pos (hne .load)))
    exact hcause .load ▸ (traps_of_xlated h hi).2 (hother .load)
  · obtain ⟨va, heq⟩ := seqStore_eq h n d a i
    have hi := (hstore.trans heq).trans (congrArg Host.Outcome.next (if_pos (hne .store)))
    exact hcause .store ▸ (traps_of_xlated h hi).2 (hother .store)

end

/-! ### An access of a sequencer that is performed (R286, R369) -/

section
variable {s : State} {n : Nat} {w : Access} (ha : s.actor = .id n) (hw : s.acc? n = some w) (hdef : w.deferred = false)
  (hheld : w.held = false) (hdue : w.due ≤ s.clock) (hbehind : s.seqBehind w = false)
include ha hw hdef hheld hdue hbehind

theorem exec_seqAccess (hop : w.op.ofSeq = true) (hread : w.op.isStore = true ∨ s.readHeld w.obs w.pa = false) :
    exec .memoryEdgeAccess s = .next (s.performSeq w) := by
  have hwait : ¬ (w.deferred = true ∨ w.held = true ∨ s.clock < w.due) := by simp [hdef, hheld, hdue]
  have hgoes : ¬ (s.seqBehind w = true ∨ (¬ w.op.isStore = true ∧ s.readHeld w.obs w.pa = true)) := by
    rcases hread with hr | hr <;> simp [hbehind, hr]
  show execMemoryEdgeAccess s = _
  simp only [execMemoryEdgeAccess, ha, hw]
  exact congrArg Host.Outcome.next ((if_neg hwait).trans ((if_pos hop).trans (if_neg hgoes)))

end

/-- A load gives its register where its sequencer still waits for it. -/
theorem loaded_spec (q : Seq) {reg : Nat} (hreg : reg < 32) (id ready : Nat) (v : Word) :
    let q' := q.loaded reg id ready v
    q' = { q with regs := q'.regs, late := q'.late, loads := q'.loads } ∧
      (q.loads.contains (reg, id) = false → q' = q) ∧
      (q.loads.contains (reg, id) = true → ∀ j, q'.reg j = if j.toNat = reg ∧ reg ≠ 0 then v else q.reg j) := by
  intro q'
  have hnum (j : BitVec 5) : (j = BitVec.ofNat 5 reg ∧ BitVec.ofNat 5 reg ≠ 0) = (j.toNat = reg ∧ reg ≠ 0) := by
    rw [eq_iff_iff]
    bv_omega
  by_cases hwaits : q.loads.contains (reg, id) = true
  · have hq' : q' = { q.setReg (BitVec.ofNat 5 reg) v with
        late := putAt 0 (q.setReg (BitVec.ofNat 5 reg) v).late reg ready } := if_pos hwaits
    refine ⟨?_, fun hnot => absurd hwaits (Bool.eq_false_iff.mp hnot), fun _ j => ?_⟩
    · obtain ⟨x, l, ls, hset⟩ := setReg_rest q (BitVec.ofNat 5 reg) v
      rw [hq', hset]
    · rw [hq']
      refine (reg_setReg q (BitVec.ofNat 5 reg) j v).trans ?_
      simp only [hnum]
  · have hq' : q' = q := if_neg hwaits
    exact ⟨by rw [hq'], fun _ => hq', fun hyes => absurd hyes hwaits⟩

theorem performSeq_read {s : State} {w : Access} {reg k : Nat} (hop : w.op = .seqRead reg k) :
    s.performSeq w = (s.dropAcc w.id).modSeq w.tile fun q => q.loaded reg w.id (s.clock + w.back)
      (BitVec.ofNat 64 (fld (s.valueFor w.obs w.pa) (w.pa % 8 * 8) (8 * k))) := by
  simp only [State.performSeq, hop]

theorem performSeq_write {s : State} {w : Access} {k v : Nat} (hop : w.op = .seqWrite k v) :
    s.performSeq w = (s.dropAcc w.id).storeN w.pa k v := by
  simp only [State.performSeq, hop]

/-- Where no write in flight is obtained, a load reads the bytes at its address. -/
theorem seqRead_bytes {s : State} {w : Access} {k : Nat} (hseen : s.seenWrites w.obs w.pa = []) (hk : w.pa % 8 + k ≤ 8) :
    fld (s.valueFor w.obs w.pa) (w.pa % 8 * 8) (8 * k) = s.readN w.pa k := by
  rw [valueFor_home hseen, Nat.mul_comm (w.pa % 8), fld_word s _ hk, wordOf_add]

/-! ### The obligation -/

/-- Settles O3: a load and a store by the checks of their address, and their accesses by what they do when performed. -/
theorem seqLoadsAndStores : Obligations.SeqLoadsAndStores := by
  refine ⟨fun s t q d a i h => ⟨load_does h rfl, load_does h rfl, load_does h rfl, load_does h rfl⟩,
    fun s t q d a i h hm => ⟨store_does h hm rfl, store_does h hm rfl, store_does h hm rfl, store_does h hm rfl⟩,
    fun s t q d a i h => ⟨fun hva => misaligned_traps h (by norm_num) hva rfl rfl,
      fun hva => misaligned_traps h (by norm_num) hva rfl rfl, fun hva => misaligned_traps h (by norm_num) hva rfl rfl⟩,
    fun s n w ha hw hm hdef hheld hdue hbehind => ?_⟩
  intro frame
  obtain rfl := acc_id hw
  refine ⟨fun reg k hop hreg hread => ⟨fun hseen hk => congrArg (BitVec.ofNat 64) (seqRead_bytes hseen hk), ?_⟩,
    fun k v hop => ?_⟩
  · have hexec := exec_seqAccess ha hw hdef hheld hdue hbehind (by rw [hop]; rfl) (.inr hread)
    rw [performSeq_read hop] at hexec
    have htile (x : Seq) (hx : x.tile = w.tile) (v : Word) : (x.loaded reg w.id (s.clock + w.back) v).tile = w.tile := by
      rw [(loaded_spec x hreg w.id _ v).1]
      exact hx
    refine ⟨_, ⟨hexec, dropAcc_acc s w.id, rfl, fun u hu => ?_⟩, rfl, fun q hq => ?_⟩
    · exact (modSeq_seq (s.dropAcc w.id) w.tile u _ fun x hx => htile x hx _).trans (if_neg hu)
    · exact ⟨_, (modSeq_spec (s.dropAcc w.id) w.tile q _ hq fun x hx => htile x hx _).1, loaded_spec q hreg w.id _ _⟩
  · have hexec := exec_seqAccess ha hw hdef hheld hdue hbehind (by rw [hop]; rfl) (.inl (by rw [hop]; rfl))
    rw [performSeq_write hop] at hexec
    obtain ⟨m, b, hstore⟩ := storeN_rest (s.dropAcc w.id) w.pa k v
    refine ⟨_, ⟨hexec, ?_, ?_, fun u _ => ?_⟩, ?_, fun j hj => storeN_byte hm (s := s.dropAcc w.id) w.pa v hj,
      storeN_onlyBytes hm (s := s.dropAcc w.id) w.pa k v⟩
    · rw [hstore]
      exact dropAcc_acc s w.id
    · rw [hstore]
      rfl
    · rw [hstore]
      rfl
    · rw [hstore]
      rfl

end Sys2Proof.Machine
end

section
/-! SUPPORT. WEV, SYSR and FENCE of a sequencer (R303, R371, R372, R381, R382): what each word comes to, and the obligation
about them. -/

namespace Sys2Proof.Machine

open Sys2Proof Sys2Proof.Safety

/-- A sequencer after a WEV that goes on with the events that it found. -/
def Seq.takeEvents (d : BitVec 5) (hit : BitVec 4) (busy : Nat) (q : Seq) : Seq :=
  { (q.setReg d (BitVec.zeroExtend 64 hit)).next with evpend := q.evpend &&& ~~~hit, wev := none, busy := busy }

theorem seqFenced_iff {s : State} {t scope : Nat} : s.seqFenced t scope = true ↔
    ∀ w ∈ s.accs, w.op.ofSeq = true → w.tile = t → s.writtenAt w scope = true := by
  simp [State.seqFenced, State.seqAccs, List.all_filter, or_iff_not_imp_left, and_imp]

section
variable {s : State} {t : Nat} {q : Seq} (h : seqThere s t q)
include h

/-! ### WEV (R372) -/

theorem exec_wev_waits {d a : BitVec 5} (hm : (BitVec.truncate 4 (q.reg a) : BitVec 4) ≠ 0)
    (hhit : q.evpend &&& BitVec.truncate 4 (q.reg a) = 0) :
    exec (.wev d a) s = .next (s.modSeq t fun x => { x with wev := some (d, a) }) :=
  (withSeq_there _ h).trans (congrArg Host.Outcome.next (if_pos ⟨hm, hhit⟩))

theorem exec_wev_goes {d a : BitVec 5} {m hit : BitVec 4} (hm : BitVec.truncate 4 (q.reg a) = m)
    (hhit : q.evpend &&& m = hit) (hgo : m = 0 ∨ hit ≠ 0) :
    exec (.wev d a) s = .next (s.modSeq t (Seq.takeEvents d hit (s.clock + 1))) := by
  subst hm hhit
  exact (withSeq_there _ h).trans
    (congrArg Host.Outcome.next (if_neg fun hwait => hgo.elim hwait.1 fun hne => hne hwait.2))

/-- A WEV that goes on takes the events it gives, which are then pending no more. -/
theorem wev_takes {d a : BitVec 5} {m hit : BitVec 4} (hm : BitVec.truncate 4 (q.reg a) = m) (hhit : q.evpend &&& m = hit)
    (hgo : m = 0 ∨ hit ≠ 0) : ∃ s' q', exec (.wev d a) s = .next s' ∧ s'.seq? t = some q' ∧ onlySeq s s' t ∧
      q'.pc = q.pc + 4 ∧ (∀ j, q'.reg j = if j = d ∧ d ≠ 0 then BitVec.zeroExtend 64 hit else q.reg j) ∧
      sameControl { q with evpend := q.evpend &&& ~~~hit, wev := none } q' ∧ loadsLeft q q' d := by
  obtain ⟨hthere, honly⟩ := modSeq_spec s t q (Seq.takeEvents d hit (s.clock + 1)) h.2 fun y hy =>
    (setReg_tile y d _).trans hy
  refine ⟨_, _, exec_wev_goes h hm hhit hgo, hthere, honly, ?_, fun j => reg_setReg q d j _, ?_, setReg_loads q d _⟩
  · exact congrArg (· + 4) (setReg_pc q d _)
  · obtain ⟨x, l, ls, hset⟩ := setReg_rest q d (BitVec.zeroExtend 64 hit)
    rw [Seq.takeEvents, hset]
    rfl

/-! ### SYSR (R381) -/

/-- What SYSR reads for each FN below 8. -/
def State.sysrValue (s : State) (t fn : Nat) : Word :=
  match fn with
  | 0 => BitVec.ofNat 64 s.clock
  | 1 => s.tileId t
  | 2 => BitVec.ofNat 64 s.dv.pkgnum
  | _ => 0

theorem exec_sysr_reads {d a : BitVec 5} {fn : BitVec 11} (hfn : fn.toNat < 8) :
    exec (.sysr d a fn) s = .next (s.seqDone t d (s.sysrValue t fn.toNat) 1) := by
  refine (withSeq_there _ h).trans (congrArg Host.Outcome.next ?_)
  match fn.toNat, hfn with
  | 0, _ => rfl
  | 1, _ => rfl
  | 2, _ => rfl
  | n + 3, hn => exact if_pos hn

theorem exec_sysr_traps {d a : BitVec 5} {fn : BitVec 11} (hfn : 8 ≤ fn.toNat) :
    exec (.sysr d a fn) s = .next (s.trapSeq t (.sys d.toNat) Cause.syscall (BitVec.zeroExtend 64 fn)) := by
  refine (withSeq_there _ h).trans (congrArg Host.Outcome.next ?_)
  match fn.toNat, hfn with
  | n + 3, hn => exact if_neg (Nat.not_lt.mpr hn)

/-! ### FENCE (R303, R382) -/

theorem exec_seqFence {sc : BitVec 4} : exec (.seqFence sc) s = .next (
    if s.seqFenced t sc.toNat then s.modSeq t fun x => { x.next with busy := s.clock + 1 } else s) :=
  withSeq_there _ h

theorem seqFence_goes {sc : BitVec 4} (hf : s.seqFenced t sc.toNat = true) :
    writesReg (.seqFence sc) s t q 0 0 (q.pc + 4) :=
  writesReg_of ((exec_seqFence h).trans (congrArg Host.Outcome.next (if_pos hf))) h (fun _ ht => ht) rfl
    (fun k => (if_neg fun hk => hk.2 rfl).symm) rfl (by simp [loadsLeft, Seq.next])

theorem exec_seqFence_waits {sc : BitVec 4} (hf : s.seqFenced t sc.toNat = false) : exec (.seqFence sc) s = .next s :=
  (exec_seqFence h).trans (congrArg Host.Outcome.next (if_neg (Bool.eq_false_iff.mp hf)))

end

/-- Settles O5: WEV by whether an event of its mask is pending, SYSR by its FN, FENCE by the accesses that its sequencer has
not performed. -/
theorem seqEventsAndRequests : Obligations.SeqEventsAndRequests := by
  intro s t q d a fn sc h
  have reads {v : Word} (hfn : fn.toNat < 8) (hv : s.sysrValue t fn.toNat = v) :
      writesReg (.sysr d a fn) s t q d v (q.pc + 4) := seqDone_writes (hv ▸ exec_sysr_reads h hfn) h
  refine ⟨fun hgo => wev_takes h rfl rfl hgo,
    fun hm hhit => ⟨_, exec_wev_waits h hm hhit, modSeq_spec s t q _ h.2 fun _ ht => ht⟩,
    fun hfn => reads (by omega) (by rw [hfn]; rfl), fun hfn => reads (by omega) (by rw [hfn]; rfl),
    fun hfn => reads (by omega) (by rw [hfn]; rfl), fun hlo hhi => reads hhi ?_, fun hfn => ?_, fun hall => ?_,
    fun hwait => ?_⟩
  · obtain ⟨n, hn⟩ := Nat.exists_eq_add_of_le' hlo
    rw [hn]
    rfl
  · obtain ⟨hthere, honly⟩ := trapSeq_spec s t q (.sys d.toNat) Cause.syscall (BitVec.zeroExtend 64 fn) h.2
    exact ⟨_, exec_sysr_traps h hfn, honly, hthere⟩
  · exact seqFence_goes h (seqFenced_iff.mpr hall)
  · obtain ⟨w, hw, hop, htile, hnot⟩ := hwait
    refine exec_seqFence_waits h (Bool.eq_false_iff.mpr fun hf => ?_)
    exact absurd (seqFenced_iff.mp hf w hw hop htile) (Bool.eq_false_iff.mp hnot)

end Sys2Proof.Machine
end

section
/-! SUPPORT. Memory of other packages (R286, R400, R404 to R406, R409, R410, R412): the checks of a request that arrives, its
reads word by word, its write and its atomic; what a reply or a time limit leaves; ports; and the obligation about them. -/

namespace Sys2Proof.Machine

open Sys2Proof Sys2Proof.Safety

/-! ### The checks of a request (R246, R406) -/

theorem allowedAt_region {a cls : Nat} (h : allowedAt a cls = true) : regionOf a 8 ≠ .none := by
  intro hnone
  simp [allowedAt, hnone] at h

theorem allowedAt_iff (a cls : Nat) :
    (regionOf a 8 = .weight → (allowedAt a cls = true ↔ cls = 3)) ∧
    (∀ d t, regionOf a 8 = .tile d t → (allowedAt a cls = true ↔ cls = 0)) ∧
    (regionOf a 8 = .hbm → (allowedAt a cls = true ↔ cls < 3)) := by
  refine ⟨fun h => ?_, fun d t h => ?_, fun h => ?_⟩ <;> simp [allowedAt, h]

/-- The class that an operation of a request may have (R406). -/
def RemReq.opCause (q : RemReq) : Nat :=
  match q.op with
  | .read _ => if q.cls = 2 then Cause.cls else 0
  | .write => if q.cls = 0 ∨ q.cls = 1 then 0 else Cause.cls
  | .atomic _ _ => if q.cls = 0 then 0 else Cause.cls
  | .probe => 0

section
variable {s : State} {q : RemReq}

theorem reqCause_gone (hinc : q.inc ≠ s.dv.incarn.toNat) : s.reqCause q = Cause.remoteGone := if_pos hinc

theorem reqCause_badpa (hinc : q.inc = s.dv.incarn.toNat) (hbad : ∃ a ∈ q.words, regionOf a 8 = .none) :
    s.reqCause q = Cause.badpa := by
  have hany : (q.words.any fun a => decide (regionOf a 8 = .none)) = true := by simpa using hbad
  rw [State.reqCause, if_neg (not_not.mpr hinc), if_pos hany]

theorem reqCause_class (hinc : q.inc = s.dv.incarn.toNat) (hmap : ∀ a ∈ q.words, regionOf a 8 ≠ .none)
    (hcls : ∃ a ∈ q.words, allowedAt a q.cls = false) : s.reqCause q = Cause.cls := by
  have hnone : ¬ (q.words.any fun a => decide (regionOf a 8 = .none)) = true := by simpa using hmap
  have hany : (q.words.any fun a => !allowedAt a q.cls) = true := by simpa using hcls
  rw [State.reqCause, if_neg (not_not.mpr hinc), if_neg hnone, if_pos hany]

theorem reqCause_op (hinc : q.inc = s.dv.incarn.toNat) (hok : ∀ a ∈ q.words, allowedAt a q.cls = true) :
    s.reqCause q = q.opCause := by
  have hnone : ¬ (q.words.any fun a => decide (regionOf a 8 = .none)) = true := by
    simpa using fun a ha => allowedAt_region (hok a ha)
  have hany : ¬ (q.words.any fun a => !allowedAt a q.cls) = true := by simpa using hok
  rw [State.reqCause, if_neg (not_not.mpr hinc), if_neg hnone, if_neg hany]
  rfl

/-! ### REMOTE_REQUEST (R406) -/

theorem exec_remoteRequest (ha : s.actor = .req q) (hp : s.dv.pstate = 0) : exec .remoteRequest s = .next (
    if (s.reading? q).isSome then s.reqRead q
    else if q.op = .probe then s.reqPerform q
    else if s.reqCause q ≠ 0 then s.sendRep q (s.reqCause q) []
    else if s.reqHeld q then s.reqAgain q
    else s.reqPerform q) := by
  change execRemoteRequest s = _
  simp only [execRemoteRequest, ha, if_neg (not_not.mpr hp), apply_ite Host.Outcome.next]

theorem remoteRequest_goesOn (ha : s.actor = .req q) (hp : s.dv.pstate = 0) (hread : (s.reading? q).isSome = true) :
    exec .remoteRequest s = .next (s.reqRead q) := by
  rw [exec_remoteRequest ha hp, if_pos hread]

theorem remoteRequest_probe (ha : s.actor = .req q) (hp : s.dv.pstate = 0) (hread : s.reading? q = none)
    (hop : q.op = .probe) : exec .remoteRequest s = .next (s.sendRep q 0 [BitVec.zeroExtend 64 s.dv.incarn]) := by
  rw [exec_remoteRequest ha hp, if_neg (by simp [hread]), if_pos hop]
  simp only [State.reqPerform, hop]

theorem remoteRequest_refused (ha : s.actor = .req q) (hp : s.dv.pstate = 0) (hread : s.reading? q = none)
    (hop : q.op ≠ .probe) {c : Nat} (hc : s.reqCause q = c) (hne : c ≠ 0) :
    exec .remoteRequest s = .next (s.sendRep q c []) := by
  subst hc
  rw [exec_remoteRequest ha hp, if_neg (by simp [hread]), if_neg hop, if_pos hne]

/-- A request that passes its checks and that nothing holds is performed. -/
theorem remoteRequest_performs (ha : s.actor = .req q) (hp : s.dv.pstate = 0) (hread : s.reading? q = none)
    (hop : q.op ≠ .probe) (hc : s.reqCause q = 0) (hheld : s.reqHeld q = false) :
    exec .remoteRequest s = .next (s.reqPerform q) := by
  rw [exec_remoteRequest ha hp, if_neg (by simp [hread]), if_neg hop, if_neg (not_not.mpr hc),
    if_neg (Bool.eq_false_iff.mp hheld)]

end

/-! ### The words of a read (R269, R284, R286, R409) -/

theorem getD_set {α : Type} (d : α) (l : List α) (k j : Nat) (x : α) :
    (l.set k x).getD j d = if k = j ∧ j < l.length then x else l.getD j d := by
  simp only [List.getD_eq_getElem?_getD, List.getElem?_set]
  by_cases hk : k = j
  · by_cases hj : j < l.length
    · simp [hk, hj]
    · simp [hk, hj]
  · simp [hk]

theorem lt_length_of_todo {got : List RWord} {k : Nat} (h : got.getD k .deferred = .todo) : k < got.length := by
  by_contra hk
  simp [List.getD_eq_getElem?_getD, List.getElem?_eq_none (Nat.not_lt.mp hk)] at h

/-- Word k of a read after a clock in which it may be read: one that is not read yet is fixed. -/
def State.fixWord (s : State) (a : Nat) (got : List RWord) (k : Nat) : List RWord :=
  if got.getD k .deferred = .todo then got.set k (.fixed (s.word (a + 8 * k))) else got

theorem fixWord_getD (s : State) (a : Nat) (got : List RWord) (k j : Nat) : (s.fixWord a got k).getD j .deferred =
    if k = j ∧ got.getD j .deferred = .todo then .fixed (s.word (a + 8 * j)) else got.getD j .deferred := by
  unfold State.fixWord
  by_cases htodo : got.getD k .deferred = .todo
  · rw [if_pos htodo, getD_set]
    by_cases hk : k = j
    · subst hk
      rw [if_pos ⟨rfl, lt_length_of_todo htodo⟩, if_pos ⟨rfl, htodo⟩]
    · rw [if_neg (hk ·.1), if_neg (hk ·.1)]
  · rw [if_neg htodo, if_neg]
    rintro ⟨rfl, h⟩
    exact htodo h

/-- The words of a read once some of them are read. -/
def State.fixWords (s : State) (a : Nat) (got : List RWord) (ks : List Nat) : List RWord := ks.foldl (s.fixWord a) got

theorem fixWords_getD (s : State) (a : Nat) (ks : List Nat) (got : List RWord) (j : Nat) :
    (s.fixWords a got ks).getD j .deferred =
      if j ∈ ks ∧ got.getD j .deferred = .todo then .fixed (s.word (a + 8 * j)) else got.getD j .deferred := by
  induction ks generalizing got with
  | nil => simp [State.fixWords]
  | cons k ks ih =>
    refine (ih (s.fixWord a got k)).trans ?_
    rw [fixWord_getD]
    generalize got.getD j .deferred = w
    by_cases hw : w = .todo
    · by_cases hk : k = j
      · simp [hk, hw]
      · simp [hk, Ne.symm hk]
    · simp [hw]

theorem fixWords_length (s : State) (a : Nat) (ks : List Nat) (got : List RWord) :
    (s.fixWords a got ks).length = got.length := by
  induction ks generalizing got with
  | nil => rfl
  | cons k ks ih =>
    refine (ih (s.fixWord a got k)).trans ?_
    unfold State.fixWord
    split
    · exact List.length_set
    · rfl

/-- The words of a read that are read in a step. -/
def State.readNow (s : State) (got : List RWord) : List Nat :=
  let todo := (List.range got.length).filter fun k => got.getD k .deferred == .todo
  (s.actNow todo.length).filterMap fun k => todo[k]?

/-- Some word that is not read yet is read. -/
theorem readNow_todo (s : State) {got : List RWord} (h : .todo ∈ got) :
    ∃ k ∈ s.readNow got, got.getD k .deferred = .todo := by
  obtain ⟨i, hi, hget⟩ := List.getElem_of_mem h
  let todo := (List.range got.length).filter fun k => got.getD k .deferred == .todo
  have hmem : i ∈ todo := List.mem_filter.mpr ⟨List.mem_range.mpr hi, by simp [List.getD_eq_getElem?_getD, hi, hget]⟩
  obtain ⟨j, hj⟩ := List.exists_mem_of_ne_nil _ (State.actNow_ne_nil (s := s) (List.length_pos_of_mem hmem))
  have hlt : j < todo.length := State.actNow_mem hj
  refine ⟨todo[j], List.mem_filterMap.mpr ⟨j, hj, List.getElem?_eq_getElem hlt⟩, ?_⟩
  exact eq_of_beq (List.mem_filter.mp (List.getElem_mem hlt)).2

theorem readNow_one (s : State) : s.readNow [.todo] = [0] := by
  change (s.actNow 1).filterMap (fun k => [0][k]?) = [0]
  rw [State.actNow_one]
  rfl

/-! ### A read that a package has in progress (R286, R409) -/

/-- The read of a request is in progress with the words got, no other read is of the same request, and no read of any request
is complete. -/
structure ReadsOn (s : State) (q : RemReq) (got : List RWord) : Prop where
  one : (s.remDefers.filter fun d => d.req == q) = [⟨q, got⟩]
  incomplete : ∀ d ∈ s.remDefers, d.got.all RWord.isFixed = false

/-- Word k of a read may be read, and reads without an error and without waiting (R248, R267, R269, R284). -/
structure readable (s : State) (q : RemReq) (k : Nat) : Prop where
  calm : refreshing s.clock (q.addr + 8 * k) = false
  free : s.sbHeld (q.addr + 8 * k) 8 false = false
  good : s.isBad (q.addr + 8 * k) = false
  present : q.cls = 1 → s.present (q.addr + 8 * k) = true

/-- The state with the words got in the read of a request. -/
def State.readAs (s : State) (q : RemReq) (got : List RWord) : State := s.modReading q fun d => { d with got := got }

section
variable {s : State} {q : RemReq} {got : List RWord}

theorem ReadsOn.mem (h : ReadsOn s q got) {d : RemDefer} (hd : d ∈ s.remDefers) (hq : d.req = q) : d = ⟨q, got⟩ := by
  have hmem : d ∈ s.remDefers.filter fun d => d.req == q := List.mem_filter.mpr ⟨hd, by simp [hq]⟩
  rw [h.one] at hmem
  exact List.mem_singleton.mp hmem

theorem reading_of_filter {ds : List RemDefer} (h : (s.remDefers.filter fun d => d.req == q) = ds) : s.reading? q = ds.head? := by
  rw [← h, List.head?_filter]
  rfl

theorem ReadsOn.reading (h : ReadsOn s q got) : s.reading? q = some ⟨q, got⟩ := reading_of_filter h.one

theorem readAs_reading (h : ReadsOn s q got) (got' : List RWord) : (s.readAs q got').reading? q = some ⟨q, got'⟩ := by
  refine (find_map RemDefer.req q (fun d => { d with got := got' }) (fun _ hd => hd) s.remDefers q).trans ?_
  rw [if_pos rfl]
  exact congrArg _ h.reading

theorem readAs_self (h : ReadsOn s q got) : s.readAs q got = s := by
  have hmap : (s.remDefers.map fun d => if d.req = q then { d with got := got } else d) = s.remDefers :=
    (List.map_congr_left fun d hd => by
      split
      · next hq =>
        rw [h.mem hd hq]
        rfl
      · rfl).trans (List.map_id _)
  rw [State.readAs, State.modReading, hmap]

theorem readAs_set (k : Nat) (x : RWord) :
    (s.readAs q got).modReading q (fun d => { d with got := d.got.set k x }) = s.readAs q (got.set k x) := by
  simp only [State.readAs, State.modReading, List.map_map]
  congr 2
  funext d
  by_cases hq : d.req = q
  · simp [hq]
  · simp [hq]

theorem readWord_reads {k : Nat} (h : readable s q k) :
    s.readWord q.cls (q.addr + 8 * k) = .ok (.fixed (s.word (q.addr + 8 * k))) := by
  rw [State.readWord, if_neg (Bool.eq_false_iff.mp h.good), if_neg fun hp => hp.2 (h.present hp.1)]

theorem readWord_defers {cls a : Nat} (hb : s.isBad a = false) (hcls : cls = 1) (hp : s.present a = false)
    (hroom : s.deferred (stackOf a) < 2048) : s.readWord cls a = .ok .deferred := by
  rw [State.readWord, if_neg (Bool.eq_false_iff.mp hb), if_pos ⟨hcls, Bool.eq_false_iff.mp hp⟩, if_pos hroom]

theorem readWord_full {cls a : Nat} (hb : s.isBad a = false) (hcls : cls = 1) (hp : s.present a = false)
    (hfull : 2048 ≤ s.deferred (stackOf a)) : s.readWord cls a = .error Cause.deferFull := by
  rw [State.readWord, if_neg (Bool.eq_false_iff.mp hb), if_pos ⟨hcls, Bool.eq_false_iff.mp hp⟩,
    if_neg (Nat.not_lt.mpr hfull)]

/-- A word of the read that may be read is fixed; one that is read already stays. -/
theorem readAs_reqWord {got0 : List RWord} (h : ReadsOn s q got0) {k : Nat}
    (hready : got.getD k .deferred = .todo → readable s q k) :
    (s.readAs q got).reqWord q k = s.readAs q (s.fixWord q.addr got k) := by
  simp only [State.reqWord, readAs_reading h]
  by_cases htodo : got.getD k .deferred = .todo
  · have hk := hready htodo
    have hnow : ¬ (got.getD k .deferred ≠ .todo ∨ refreshing s.clock (q.addr + 8 * k) = true ∨
        s.sbHeld (q.addr + 8 * k) 8 false = true) := by simp only [htodo, hk.calm, hk.free]; simp
    have hword : (s.readAs q got).readWord q.cls (q.addr + 8 * k) = .ok (.fixed (s.word (q.addr + 8 * k))) :=
      readWord_reads (s := s.readAs q got) ⟨hk.calm, hk.free, hk.good, hk.present⟩
    rw [hword, State.fixWord, if_pos htodo]
    exact (if_neg hnow).trans (readAs_set k _)
  · rw [State.fixWord, if_neg htodo, if_pos (.inl htodo)]

theorem readAs_reqWords {got0 : List RWord} (h : ReadsOn s q got0) (ks : List Nat) (got : List RWord)
    (hready : ∀ k, got.getD k .deferred = .todo → readable s q k) :
    ks.foldl (fun s1 k => s1.reqWord q k) (s.readAs q got) = s.readAs q (s.fixWords q.addr got ks) := by
  induction ks generalizing got with
  | nil => rfl
  | cons k ks ih =>
    rw [List.foldl_cons, readAs_reqWord h (hready k)]
    refine ih _ fun j hj => hready j ?_
    rw [fixWord_getD] at hj
    split at hj
    · cases hj
    · exact hj

/-! ### The answer of a read (R409) -/

theorem reply_getD {k : Nat} (hk : k < got.length) {w : Word} (hw : got.getD k .deferred = .fixed w) :
    (RemDefer.reply ⟨q, got⟩).words.getD k (0, 0) = (w, residue w) := by
  have hget : got[k] = .fixed w := by simpa [List.getD_eq_getElem?_getD, hk] using hw
  simp [RemDefer.reply, List.getD_eq_getElem?_getD, hk, hget, RWord.val]

theorem answerReads_none (h : ∀ d ∈ s.remDefers, d.got.all RWord.isFixed = false) : s.answerReads = s := by
  have hdone : (s.remDefers.filter fun d => d.got.all RWord.isFixed) = [] :=
    List.filter_eq_nil_iff.mpr fun d hd => Bool.eq_false_iff.mp (h d hd)
  have hkept : (s.remDefers.filter fun d => !d.got.all RWord.isFixed) = s.remDefers :=
    List.filter_eq_self.mpr fun d hd => by rw [h d hd]; rfl
  rw [State.answerReads, hdone, hkept, List.map_nil, List.append_nil]

theorem readAs_waits (h : ReadsOn s q got) {got' : List RWord} (hwait : got'.all RWord.isFixed = false) :
    (s.readAs q got').answerReads = s.readAs q got' := by
  refine answerReads_none fun d hd => ?_
  obtain ⟨d0, hd0, rfl⟩ := List.mem_map.mp hd
  split
  · exact hwait
  · exact h.incomplete d0 hd0

/-- The words of a read that is complete leave with their residues, and the read is over. -/
theorem readAs_answers (h : ReadsOn s q got) {got' : List RWord} (hdone : got'.all RWord.isFixed = true) :
    (s.readAs q got').answerReads = { s with
      remDefers := s.remDefers.filter fun d => d.req != q
      out := s.out ++ [.rep (RemDefer.reply ⟨q, got'⟩)] } := by
  have hall : ∀ d ∈ s.remDefers, (if d.req = q then { d with got := got' } else d : RemDefer).got.all RWord.isFixed =
      (d.req == q) := fun d hd => by
    by_cases hq : d.req = q
    · simp only [hq, if_true, hdone, beq_self_eq_true]
    · rw [if_neg hq, h.incomplete d hd, beq_eq_false_iff_ne.mpr hq]
  have hleft : ((s.readAs q got').remDefers.filter fun d => !d.got.all RWord.isFixed) =
      s.remDefers.filter fun d => d.req != q := by
    refine List.filter_map.trans ?_
    refine (congrArg _ (List.filter_congr fun d hd => congrArg not (hall d hd))).trans ?_
    refine (List.map_congr_left fun d hd => ?_).trans (List.map_id _)
    exact if_neg (by simpa using (List.mem_filter.mp hd).2)
  have hover : ((s.readAs q got').remDefers.filter fun d => d.got.all RWord.isFixed) = [⟨q, got'⟩] := by
    refine List.filter_map.trans ?_
    refine (congrArg _ ((List.filter_congr fun d hd => hall d hd).trans h.one)).trans ?_
    simp
  rw [State.answerReads, hleft, hover]
  rfl

/-! ### A step of a read (R286, R409) -/

theorem find_removed (ds : List RemDefer) (q : RemReq) :
    ((ds.filter fun d => d.req != q).find? fun d => d.req == q) = none :=
  List.find?_eq_none.mpr fun d hd => by simpa using (List.mem_filter.mp hd).2

/-- A read with words that are not read yet acts again in the next clock. -/
def State.readAgain (s : State) (q : RemReq) : State :=
  if (s.reading? q).any fun d => d.got.contains .todo then s.reqAgain q else s

theorem reqRead_eq {d : RemDefer} (h : s.reading? q = some d) : s.reqRead q =
    ((s.readNow d.got).foldl (fun s1 k => s1.reqWord q k) s).tick.answerReads.readAgain q := by
  simp only [State.reqRead, h]
  rfl

theorem reqRead_reads (h : ReadsOn s q got) (hready : ∀ k, got.getD k .deferred = .todo → readable s q k)
    {got' : List RWord} (hgot : s.fixWords q.addr got (s.readNow got) = got') :
    s.reqRead q = (s.tick.readAs q got').answerReads.readAgain q := by
  have hfold := readAs_reqWords h (s.readNow got) got hready
  rw [readAs_self h, hgot] at hfold
  rw [reqRead_eq h.reading, hfold]
  rfl

theorem ReadsOn.tick (h : ReadsOn s q got) : ReadsOn s.tick q got := ⟨h.one, h.incomplete⟩

theorem readAgain_stands {d : RemDefer} (h : s.reading? q = some d) (hd : d.got.contains .todo = false) :
    s.readAgain q = s := if_neg (by rw [h, Option.any_some, hd]; decide)

theorem readAgain_over (h : s.reading? q = none) : s.readAgain q = s := if_neg (by simp [h])

/-- The read whose last words are read is answered. -/
theorem reqRead_answers (h : ReadsOn s q got) (hready : ∀ k, got.getD k .deferred = .todo → readable s q k)
    {got' : List RWord} (hgot : s.fixWords q.addr got (s.readNow got) = got') (hdone : got'.all RWord.isFixed = true) :
    s.reqRead q = { s.tick with
      remDefers := s.remDefers.filter fun d => d.req != q
      out := s.out ++ [.rep (RemDefer.reply ⟨q, got'⟩)] } := by
  rw [reqRead_reads h hready hgot, readAs_answers h.tick hdone]
  exact readAgain_over (find_removed s.remDefers q)

/-- Any other read stands with the words that are read, and acts again where some are not read yet. -/
theorem reqRead_waits (h : ReadsOn s q got) (hready : ∀ k, got.getD k .deferred = .todo → readable s q k)
    {got' : List RWord} (hgot : s.fixWords q.addr got (s.readNow got) = got') (hwait : got'.all RWord.isFixed = false) :
    s.reqRead q = if got'.contains .todo then (s.tick.readAs q got').reqAgain q else s.tick.readAs q got' := by
  rw [reqRead_reads h hready hgot, readAs_waits h.tick hwait]
  simp only [State.readAgain, readAs_reading h.tick, Option.any_some]

/-- What a step of a read leaves: words that are not read yet are fixed, one at least; the answer leaves with the last of all;
memory stays. -/
theorem reqRead_step (h : ReadsOn s q got) (hready : ∀ k, got.getD k .deferred = .todo → readable s q k)
    (htodo : .todo ∈ got) : ∃ got', got'.length = got.length ∧
      (s.reqRead q).mem = s.mem ∧ (s.reqRead q).presence = s.presence ∧
      (∀ k, (got.getD k .deferred ≠ .todo → got'.getD k .deferred = got.getD k .deferred) ∧
        (got.getD k .deferred = .todo → got'.getD k .deferred = .todo ∨
          got'.getD k .deferred = .fixed (s.word (q.addr + 8 * k)))) ∧
      (∃ k, got.getD k .deferred = .todo ∧ got'.getD k .deferred ≠ .todo) ∧
      (got'.all RWord.isFixed = true → (s.reqRead q).out = s.out ++ [.rep (RemDefer.reply ⟨q, got'⟩)] ∧
        (s.reqRead q).reading? q = none) ∧
      (got'.all RWord.isFixed = false → (s.reqRead q).out = s.out ∧ (s.reqRead q).reading? q = some ⟨q, got'⟩) ∧
      (.todo ∈ got' → (s.reqRead q).inputs = s.inputs ++ [(s.clock + 1, .remoteRequest, .req q)]) := by
  have hgot := fixWords_getD s q.addr (s.readNow got) got
  obtain ⟨k, hk, hktodo⟩ := readNow_todo s htodo
  refine ⟨s.fixWords q.addr got (s.readNow got), fixWords_length s q.addr _ got, ?_⟩
  have hwords : ∀ j, (got.getD j .deferred ≠ .todo →
      (s.fixWords q.addr got (s.readNow got)).getD j .deferred = got.getD j .deferred) ∧
      (got.getD j .deferred = .todo → (s.fixWords q.addr got (s.readNow got)).getD j .deferred = .todo ∨
        (s.fixWords q.addr got (s.readNow got)).getD j .deferred = .fixed (s.word (q.addr + 8 * j))) := fun j => by
    rw [hgot j]
    refine ⟨fun hj => if_neg (hj ·.2), fun hj => ?_⟩
    split
    · exact .inr rfl
    · exact .inl hj
  have hread : ∃ j, got.getD j .deferred = .todo ∧ (s.fixWords q.addr got (s.readNow got)).getD j .deferred ≠ .todo :=
    ⟨k, hktodo, by rw [hgot k, if_pos ⟨hk, hktodo⟩]; simp⟩
  generalize hnew : s.fixWords q.addr got (s.readNow got) = got' at hwords hread ⊢
  cases hall : got'.all RWord.isFixed with
  | true =>
    rw [reqRead_answers h hready hnew hall]
    refine ⟨rfl, rfl, hwords, hread, fun _ => ⟨rfl, ?_⟩, nofun, fun hleft => ?_⟩
    · exact find_removed s.remDefers q
    · exact absurd (List.all_eq_true.mp hall _ hleft) (by decide)
  | false =>
    have hstands := readAs_reading h.tick got'
    rw [reqRead_waits h hready hnew hall]
    cases hmore : got'.contains .todo with
    | true => exact ⟨rfl, rfl, hwords, hread, nofun, fun _ => ⟨rfl, hstands⟩, fun _ => rfl⟩
    | false =>
      exact ⟨rfl, rfl, hwords, hread, nofun, fun _ => ⟨rfl, hstands⟩,
        fun hleft => absurd (List.contains_iff_mem.mpr hleft) (Bool.eq_false_iff.mp hmore)⟩

end

/-! ### A read that begins (R267, R409, R451) -/

/-- The read of n words of a request begins, with no word read. -/
def State.begun (s : State) (q : RemReq) (n : Nat) : State :=
  { s with remDefers := s.remDefers ++ [⟨q, List.replicate n .todo⟩] }

/-- The read of a request fails with a cause, and an uncorrectable error is logged. -/
def State.readFails (s : State) (q : RemReq) (c : Nat) : State :=
  (if c = Cause.uncorrectable then s.logSe 6 0 0 0 else s).sendRep q c []

theorem readFails_rest (s : State) (q : RemReq) (c : Nat) : (s.readFails q c).remDefers = s.remDefers ∧
    (s.readFails q c).out = s.out ++ [.rep ⟨q.src, q.tag, c, []⟩] := by
  unfold State.readFails
  split
  · rw [logSe_onlyLogs s 6 0 0 0]
    exact ⟨rfl, rfl⟩
  · exact ⟨rfl, rfl⟩

theorem readFails_logs {s : State} (hroom : s.selog.length < 64) (q : RemReq) :
    (s.readFails q Cause.uncorrectable).selog.length = s.selog.length + 1 := by
  have hlog : s.readFails q Cause.uncorrectable = (s.logSe 6 0 0 0).sendRep q Cause.uncorrectable [] :=
    congrArg (State.sendRep · q Cause.uncorrectable []) (if_pos rfl)
  rw [hlog]
  exact (congrArg (fun s1 : State => s1.selog.length) (if_pos hroom)).trans List.length_append

section
variable {s : State} {q : RemReq}

theorem reqPerform_read {n : Nat} (hop : q.op = .read n) : s.reqPerform q = (s.begun q n).reqRead q := by
  simp only [State.reqPerform, hop]
  rfl

theorem begun_readsOn {n : Nat} (hn : 0 < n) (hnew : (s.remDefers.filter fun d => d.req == q) = [])
    (hinc : ∀ d ∈ s.remDefers, d.got.all RWord.isFixed = false) : ReadsOn (s.begun q n) q (List.replicate n .todo) := by
  refine ⟨?_, fun d hd => ?_⟩
  · simp [State.begun, List.filter_append, hnew]
  · obtain hd | hd := List.mem_append.mp hd
    · exact hinc d hd
    · rw [List.mem_singleton.mp hd]
      simp [List.all_replicate, RWord.isFixed, Nat.ne_of_gt hn]

theorem begun_deferred (n st : Nat) : (s.begun q n).deferred st = s.deferred st := by
  have hopen : RemDefer.open ⟨q, List.replicate n .todo⟩ = [] := by
    refine List.map_eq_nil_iff.mpr (List.filter_eq_nil_iff.mpr fun k hk => ?_)
    have hk : k < n := by simpa using hk
    simp [List.getD_eq_getElem?_getD, hk]
  simp only [State.deferred, State.begun, List.flatMap_append, List.flatMap_singleton, hopen, List.append_nil]

theorem begun_readWord (n cls a : Nat) : (s.begun q n).readWord cls a = s.readWord cls a := by
  simp only [State.readWord, begun_deferred]
  rfl

variable (hnew : ∀ d ∈ s.remDefers, d.req ≠ q)
include hnew

theorem reading_none : s.reading? q = none := List.find?_eq_none.mpr fun d hd => by simpa using hnew d hd

theorem reading_append (got : List RWord) :
    ((s.remDefers ++ [(⟨q, got⟩ : RemDefer)]).find? fun d => d.req == q) = some ⟨q, got⟩ := by
  have hnone : (s.remDefers.find? fun d => d.req == q) = none := reading_none hnew
  rw [List.find?_append, hnone]
  simp

theorem begun_reading (n : Nat) : (s.begun q n).reading? q = some ⟨q, List.replicate n .todo⟩ := reading_append hnew _

variable (hcalm : refreshing s.clock q.addr = false) (hfree : s.sbHeld q.addr 8 false = false)
include hcalm hfree

theorem begun_reqWord : (s.begun q 1).reqWord q 0 = match s.readWord q.cls q.addr with
    | .ok x => { s with remDefers := s.remDefers ++ [⟨q, [x]⟩] }
    | .error c => s.readFails q c := by
  have hnow : ¬ ((List.replicate 1 RWord.todo).getD 0 .deferred ≠ .todo ∨ refreshing s.clock (q.addr + 8 * 0) = true ∨
      s.sbHeld (q.addr + 8 * 0) 8 false = true) := by
    rw [Nat.mul_zero, Nat.add_zero, hcalm, hfree]
    simp
  simp only [State.reqWord, begun_reading hnew, begun_readWord]
  refine (if_neg hnow).trans ?_
  rw [Nat.mul_zero, Nat.add_zero]
  cases s.readWord q.cls q.addr with
  | ok x =>
    have hsame : (s.remDefers.map fun d => if d.req = q then { d with got := d.got.set 0 x } else d) = s.remDefers :=
      (List.map_congr_left fun d hd => if_neg (hnew d hd)).trans (List.map_id _)
    simp [State.modReading, State.begun, hsame]
  | error c =>
    have hleft : ((s.begun q 1).remDefers.filter fun d => d.req != q) = s.remDefers := by
      simpa [State.begun, List.filter_append] using hnew
    simp only [hleft]
    rfl

variable (hinc : ∀ d ∈ s.remDefers, d.got.all RWord.isFixed = false)
include hinc

/-- A word that takes a deferral entry keeps its read in progress, and the read does not act again. -/
theorem begun_defers (hword : s.readWord q.cls q.addr = .ok .deferred) :
    (s.begun q 1).reqRead q = { s.tick with remDefers := s.remDefers ++ [⟨q, [.deferred]⟩] } := by
  have hstep := begun_reqWord hnew hcalm hfree
  rw [hword] at hstep
  have hinc1 : ∀ d ∈ s.remDefers ++ [⟨q, [.deferred]⟩], d.got.all RWord.isFixed = false := fun d hd => by
    obtain hd | hd := List.mem_append.mp hd
    · exact hinc d hd
    · rw [List.mem_singleton.mp hd]
      rfl
  rw [reqRead_eq (begun_reading hnew 1)]
  change State.readAgain (State.answerReads (State.tick (((s.begun q 1).readNow [.todo]).foldl _ _))) q = _
  rw [readNow_one, List.foldl_cons, List.foldl_nil, hstep]
  exact (congrArg (State.readAgain · q) (answerReads_none hinc1)).trans
    (readAgain_stands (d := ⟨q, [.deferred]⟩) (reading_append hnew _) rfl)

/-- A word that reads with an error ends its read. -/
theorem begun_fails {c : Nat} (hword : s.readWord q.cls q.addr = .error c) :
    (s.begun q 1).reqRead q = (s.readFails q c).tick := by
  have hstep := begun_reqWord hnew hcalm hfree
  rw [hword] at hstep
  have hsame : (s.readFails q c).tick.remDefers = s.remDefers := (readFails_rest s q c).1
  have hnone : (s.readFails q c).tick.reading? q = none := by
    rw [State.reading?, hsame]
    exact reading_none hnew
  rw [reqRead_eq (begun_reading hnew 1)]
  change State.readAgain (State.answerReads (State.tick (((s.begun q 1).readNow [.todo]).foldl _ _))) q = _
  rw [readNow_one, List.foldl_cons, List.foldl_nil, hstep]
  exact (congrArg (State.readAgain · q) (answerReads_none (hsame ▸ hinc))).trans (readAgain_over hnone)

end

/-! ### A write and an atomic of a request (R248, R266, R339, R355) -/

section
variable {s : State} {q : RemReq}

theorem homeWrite_plain {a cls : Nat} (hc : s.storeCause a = 0) (hcls : cls ≠ 1) (v : Word) :
    s.homeWrite a cls v = (s.putWord a v, 0) := by
  rw [State.homeWrite, if_neg (not_not.mpr hc), if_neg hcls]

theorem homeWrite_again {a : Nat} (hc : s.storeCause a = 0) (hp : s.present a = true) (v : Word) :
    s.homeWrite a 1 v = (s, Cause.presenceRewrite) := by
  rw [State.homeWrite, if_neg (not_not.mpr hc), if_pos rfl, if_pos hp]

theorem reqPerform_write (hop : q.op = .write) {s1 : State} {c : Nat} (h : s.homeWrite q.addr q.cls q.data = (s1, c)) :
    s.reqPerform q = s1.sendRep q c [] := by
  simp only [State.reqPerform, hop, h]

/-- An atomic that its home performs leaves the new word, or the old one where it writes none. -/
theorem atomicAt_performs {a : Nat} {op : MOp} {lane : Nat} {b : Word} (hwf : Memory.wf s.mem = true)
    (hb : s.isBad a = false) (hc : s.storeCause a = 0) : ∃ s1 o w, s.atomicAt a op lane b = ⟨s1, 0, s.word a, o, w⟩ ∧
      onlyBytes s s1 a 8 ∧ s1.word a = ((atomicNew op lane (s.word a) b).1).getD (s.word a) := by
  cases hv : (atomicNew op lane (s.word a) b).1 with
  | none => exact ⟨s, _, _, atomicAt_reads hb hv, fun _ _ => rfl, rfl⟩
  | some v => exact ⟨s.putWord a v, _, _, atomicAt_writes hb hv hc, putWord_onlyBytes s a v hwf, word_putWord s a v hwf⟩

theorem reqPerform_atomic {op lane : Nat} (hop : q.op = .atomic op lane) {s1 : State} {old : Word} {o w : Bool}
    (h : (s.useOp (homeDie q.addr)).atomicAt q.addr (atomicOps.getD op .aadd) lane q.data = ⟨s1, 0, old, o, w⟩) :
    s.reqPerform q = s1.sendRep q 0 [old] := by
  simp only [State.reqPerform, hop, h]
  rfl

end

/-! ### What a request that is over leaves of the others (R412) -/

theorem setRecField_remotes (s : State) (n off lo w v : Nat) : (s.setRecField n off lo w v).remotes = s.remotes := by
  unfold State.setRecField
  split <;> rfl

theorem addErr_remotes (s : State) (h c : Nat) : (s.addErr h c).remotes = s.remotes := by
  unfold State.addErr
  split
  · exact setRecField_remotes _ _ _ _ _ _
  · rfl

theorem foldl_remotes {α : Type} {f : State → α → State} (hf : ∀ s a, (f s a).remotes = s.remotes) (xs : List α)
    (s : State) : (xs.foldl f s).remotes = s.remotes :=
  foldl_keeps (R := fun a b : State => b.remotes = a.remotes) (fun _ => rfl) (fun h1 h2 => h2.trans h1) f hf xs s

theorem sendDecs_remotes (s : State) (h err : Nat) : (s.sendDecs h err).remotes = s.remotes := by
  refine foldl_remotes (fun s k => ?_) _ s
  dsimp only
  split <;> rfl

theorem finishRec_remotes (s : State) (h : Nat) (abandoned : Bool) : (s.finishRec h abandoned).remotes = s.remotes := by
  have hrec := ((setRecField_remotes (((s.setTrState h (if abandoned then 7 else 5)).setPend h 0)) h 0x70 0 64 0).trans
    (setRecField_remotes _ h 0x08 0 32 0)).trans (setRecField_remotes s h 0x00 44 4 (if abandoned then 7 else 5))
  unfold State.finishRec
  dsimp only
  split
  · exact hrec
  · exact (sendDecs_remotes _ _ _).trans hrec

theorem abandonRec_remotes (s : State) (h cause : Nat) : (s.abandonRec h cause).remotes = s.remotes :=
  (finishRec_remotes _ _ _).trans (addErr_remotes s h cause)

theorem endProbe_remotes (s : State) (die pkg tag cause : Nat) (ws : List (Word × BitVec 4)) :
    (s.endProbe die pkg tag cause ws).remotes = s.remotes := by
  unfold State.endProbe
  repeat' split
  · rfl
  · rfl
  · rfl
  · rfl
  · exact abandonRec_remotes _ _ _

theorem taskErr_remotes (s : State) (l : LoadRef) (slot cause : Nat) : (s.taskErr l slot cause).remotes = s.remotes := by
  unfold State.taskErr
  split
  · exact addErr_remotes _ _ _
  · rfl

theorem remSig_remotes (s : State) (x : Remote) : (s.remSig x).remotes = s.remotes := by
  unfold State.remSig
  split <;> rfl

theorem trapElem_remotes (s : State) (r : ElemRef) (t : ETrap) : (s.trapElem r t).remotes = s.remotes := by
  unfold State.trapElem
  repeat' split
  all_goals rfl

theorem endRemote_remotes (s : State) (x : Remote) (cause : Nat) (ws : List (Word × BitVec 4)) :
    (s.endRemote x cause ws).remotes = s.remotes := by
  unfold State.endRemote
  extract_lets r due s1 fail
  have hgone : s1.remotes = s.remotes := by
    unfold s1
    split <;> rfl
  rw [← hgone]
  clear_value s1 fail
  split
  · split
    · rfl
    · have hcells (ps : List (Nat × Word × BitVec 4)) := foldl_remotes
        (f := fun s p => s.reply r x.gid p.1 (.tok (dataTok (BitVec.ofNat 4 x.fmt) p.2.1)) due) (fun _ _ => rfl) ps s1
      dsimp only
      split
      · exact (trapElem_remotes _ _ _).trans (hcells _)
      · exact hcells _
  · change (if cause = 0 then s1.remSig x else _ : State).remotes = _
    split
    · exact remSig_remotes s1 x
    · split
      · split
        · exact taskErr_remotes _ _ _ _
        · rfl
      · rfl
  · have hsig (p : Prop) [Decidable p] : (if p then s1.remSig x else s1 : State).remotes = s1.remotes := by
      split
      · exact remSig_remotes s1 x
      · rfl
    exact hsig _
  · exact endProbe_remotes _ _ _ _ _ _
  · rfl

/-! ### Replies and time limits (R404, R409, R410, R412) -/

section
variable {s : State} {n : Nat} {x : Remote} (hx : (s.remotes.find? fun y => decide (y.tag = n)) = some x)
include hx

theorem exec_remoteReply {p : RemRep} (ha : s.actor = .rep p) (hp : p.tag = n) :
    exec .remoteReply s = .next ((s.dropRemote n).endRemote x p.cause p.words) := by
  subst hp
  change execRemoteReply s = _
  simp only [execRemoteReply, ha, hx]

theorem exec_remoteTimeout (ha : s.actor = .id n) : exec .remoteTimeout s =
    .next (if s.clock < x.limit then s else (s.dropRemote n).endRemote x Cause.remoteTimeout []) := by
  change execRemoteTimeout s = _
  simp only [execRemoteTimeout, ha, hx, apply_ite Host.Outcome.next]

theorem exec_remoteTimeout_over (ha : s.actor = .id n) (hdue : x.limit ≤ s.clock) :
    exec .remoteTimeout s = .next ((s.dropRemote n).endRemote x Cause.remoteTimeout []) := by
  rw [exec_remoteTimeout hx ha, if_neg (Nat.not_lt.mpr hdue)]

theorem exec_remoteTimeout_waits (ha : s.actor = .id n) (hdue : s.clock < x.limit) : exec .remoteTimeout s = .next s := by
  rw [exec_remoteTimeout hx ha, if_pos hdue]

end

/-- A reply fills the one cell of a group that waits for it, a failure as well as a word (R275, R409). -/
theorem reply_single {s : State} {r : ElemRef} {gid : Nat} {g : RGroup} (hg : s.group? r gid = some g) {c : Cell}
    (hc : g.cells = [c]) (hwait : c.r = .wait) (rep : Reply) (due : Nat) :
    (s.reply r gid c.id rep due).group? r gid = some { g with cells := [{ c with r := rep, due := due }] } := by
  refine (modGroup_group hg fun y hy => ?_).trans ?_
  · split
    · exact hy
    · exact hy
  · split
    · simp [hc]
    · simp [hc, hwait]

section
variable {s : State} {x : Remote} {k : Nat} (hwhat : x.what = .rld [k])
include hwhat

theorem endRemote_word {w : Word} : s.endRemote x 0 [(w, residue w)] =
    s.reply x.ref x.gid k (.tok (dataTok (BitVec.ofNat 4 x.fmt) w)) (s.clock + 1) := by
  simp [State.endRemote, hwhat, Cause.remoteGone]

theorem endRemote_timeout {g : RGroup} (hg : s.group? x.ref x.gid = some g) (hop : g.op = .rld) (hdst : g.dst ≠ 15) :
    s.endRemote x Cause.remoteTimeout [] = s.reply x.ref x.gid k
      (.tok (faultTok Cause.remoteTimeout (x.va % 2 ^ 57 / 2 ^ 9))) (s.clock + 1) := by
  have hfail : s.failReply x.ref x.gid Cause.remoteTimeout x.va =
      .tok (faultTok Cause.remoteTimeout (x.va % 2 ^ 57 / 2 ^ 9)) := by
    simp only [State.failReply, hg, RGroup.faultReply, hop, if_neg hdst]
    rfl
  rw [← hfail]
  simp [State.endRemote, hwhat, Cause.remoteGone, Cause.remoteTimeout]

end

/-! ### Ports (R400, R402, R459) -/

theorem setHas_below {r : List Nat} {a : Nat} (h : ∀ x ∈ r, a < x) : setHas r a = false := by
  cases r with
  | nil => rfl
  | cons k r =>
    have hk := h k List.mem_cons_self
    rw [setHas, if_neg (by omega), if_pos hk]

theorem setHas_setAdd (l : List Nat) (a k : Nat) : setHas (setAdd l a) k = (setHas l k || decide (k = a)) := by
  induction l with
  | nil => simp [setAdd, setHas]
  | cons x r ih =>
    rcases Nat.lt_trichotomy a x with hlt | heq | hgt
    · rw [setAdd, if_pos hlt]
      grind [setHas]
    · rw [setAdd, if_neg (by omega), if_pos heq]
      grind [setHas]
    · rw [setAdd, if_neg (by omega), if_neg (by omega)]
      grind [setHas]

theorem setHas_setDel {l : List Nat} (h : setWf l = true) (a k : Nat) :
    setHas (setDel l a) k = (setHas l k && decide (k ≠ a)) := by
  induction l with
  | nil => rfl
  | cons x r ih =>
    obtain ⟨habove, hr⟩ : (∀ y ∈ r, x < y) ∧ setWf r = true := by simpa [setWf] using h
    rcases Nat.lt_trichotomy a x with hlt | heq | hgt
    · rw [setDel, if_pos hlt]
      grind [setHas]
    · have hbelow (hk : k ≤ x) : setHas r k = false := setHas_below fun y hy => Nat.lt_of_le_of_lt hk (habove y hy)
      rw [setDel, if_neg (by omega), if_pos heq]
      grind [setHas]
    · rw [setDel, if_neg (by omega), if_neg (by omega)]
      grind [setHas]

theorem exec_portDown {s : State} {n : Nat} (ha : s.actor = .id n) : exec .portDown s = .next { s with
    ports := setDel s.ports n
    agenda := (if s.ownerPort = some n then [.event .ownerLoss .none] else []) ++ s.agenda } := by
  change execPortDown s = _
  simp only [execPortDown, ha]
  by_cases hown : s.ownerPort = some n
  · rw [if_pos hown, if_pos hown]
    rfl
  · rw [if_neg hown, if_neg hown]
    rfl

theorem exec_portUp {s : State} {n : Nat} (ha : s.actor = .id n) : exec .portUp s =
    .next (if s.dv.pkgnum = 0x1FFF ∨ 18 ≤ n then s else { s with ports := setAdd s.ports n }) := by
  change execPortUp s = _
  simp only [execPortUp, ha]

/-! ### Requests that pass their checks (R406, R409) -/

/-- A request that arrives, passes its checks and is not held. -/
structure Accepted (s : State) (q : RemReq) : Prop where
  actor : s.actor = .req q
  awake : s.dv.pstate = 0
  here : q.inc = s.dv.incarn.toNat
  allowed : ∀ a ∈ q.words, allowedAt a q.cls = true
  free : s.reqHeld q = false

section
variable {s : State} {q : RemReq} (h : Accepted s q)
include h

/-- Its operation may not have the class that it carries. -/
theorem Accepted.refused (hread : s.reading? q = none) (hop : q.op ≠ .probe) (hc : q.opCause = Cause.cls) :
    exec .remoteRequest s = .next (s.sendRep q Cause.cls []) :=
  remoteRequest_refused h.actor h.awake hread hop ((reqCause_op h.here h.allowed).trans hc) (by decide)

theorem Accepted.performs (hread : s.reading? q = none) (hop : q.op ≠ .probe) (hc : q.opCause = 0) :
    exec .remoteRequest s = .next (s.reqPerform q) :=
  remoteRequest_performs h.actor h.awake hread hop ((reqCause_op h.here h.allowed).trans hc) h.free

/-! A read. -/

theorem Accepted.begins {n : Nat} (hop : q.op = .read n) (hcls : q.cls ≠ 2) (hread : s.reading? q = none) :
    exec .remoteRequest s = .next ((s.begun q n).reqRead q) := by
  rw [h.performs hread (by rw [hop]; nofun) (by simp [RemReq.opCause, hop, hcls]), reqPerform_read hop]

/-- A step of a read, of one that begins or of one in progress, is a step of a state in which it is in progress. -/
theorem Accepted.reads {n : Nat} (hop : q.op = .read n) (hcls : q.cls ≠ 2) {got : List RWord} (hn : got.length = n)
    (htodo : .todo ∈ got) (hinc : ∀ d ∈ s.remDefers, d.got.all RWord.isFixed = false)
    (hstands : ((s.remDefers.filter fun d => d.req == q) = [] ∧ got = List.replicate n .todo) ∨
      (s.remDefers.filter fun d => d.req == q) = [⟨q, got⟩]) :
    ∃ ds, exec .remoteRequest s = .next (({ s with remDefers := ds } : State).reqRead q) ∧
      ReadsOn { s with remDefers := ds } q got := by
  rcases hstands with ⟨hnone, rfl⟩ | hone
  · exact ⟨_, h.begins hop hcls (reading_of_filter hnone), begun_readsOn (hn ▸ List.length_pos_of_mem htodo) hnone hinc⟩
  · exact ⟨s.remDefers, remoteRequest_goesOn h.actor h.awake (by rw [reading_of_filter hone]; rfl), hone, hinc⟩

section
variable (hop : q.op = .read 1) (hcls : q.cls ≠ 2) (hnew : ∀ d ∈ s.remDefers, d.req ≠ q)
  (hcalm : refreshing s.clock q.addr = false) (hfree : s.sbHeld q.addr 8 false = false)
  (hinc : ∀ d ∈ s.remDefers, d.got.all RWord.isFixed = false)
include hop hcls hnew hcalm hfree hinc

theorem Accepted.defers (hword : s.readWord q.cls q.addr = .ok .deferred) :
    ∃ s', exec .remoteRequest s = .next s' ∧ s'.out = s.out ∧ s'.reading? q = some ⟨q, [.deferred]⟩ := by
  have hexec := h.begins hop hcls (reading_none hnew)
  rw [begun_defers hnew hcalm hfree hinc hword] at hexec
  exact ⟨_, hexec, rfl, reading_append hnew _⟩

theorem Accepted.fails {c : Nat} (hword : s.readWord q.cls q.addr = .error c) :
    ∃ s', exec .remoteRequest s = .next s' ∧ s'.out = s.out ++ [.rep ⟨q.src, q.tag, c, []⟩] ∧ s'.reading? q = none ∧
      s'.selog = (s.readFails q c).selog := by
  have hexec := h.begins hop hcls (reading_none hnew)
  rw [begun_fails hnew hcalm hfree hinc hword] at hexec
  obtain ⟨hreads, hout⟩ := readFails_rest s q c
  exact ⟨_, hexec, hout, (congrArg (List.find? _) hreads).trans (reading_none hnew), rfl⟩

end

/-! A write and an atomic. -/

theorem Accepted.writes (hop : q.op = .write) (hread : s.reading? q = none) (hcls : q.cls < 2) {s1 : State} {c : Nat}
    (hhome : s.homeWrite q.addr q.cls q.data = (s1, c)) : exec .remoteRequest s = .next (s1.sendRep q c []) := by
  rw [h.performs hread (by rw [hop]; nofun) (by simp [RemReq.opCause, hop]; omega), reqPerform_write hop hhome]

theorem Accepted.acts {op lane : Nat} (hop : q.op = .atomic op lane) (hread : s.reading? q = none) (hcls : q.cls = 0)
    (hwf : Memory.wf s.mem = true) (hc : s.storeCause q.addr = 0) (hgood : s.isBad q.addr = false) :
    ∃ s1, exec .remoteRequest s = .next (s1.sendRep q 0 [s.word q.addr]) ∧ onlyBytes s s1 q.addr 8 ∧
      s1.word q.addr = ((atomicNew (atomicOps.getD op .aadd) lane (s.word q.addr) q.data).1).getD (s.word q.addr) := by
  obtain ⟨s1, o, w, hdone, hbytes, hword⟩ := atomicAt_performs (s := s.useOp (homeDie q.addr)) (a := q.addr)
    (op := atomicOps.getD op .aadd) (lane := lane) (b := q.data) hwf hgood ((storeCause_useOp s _ _).trans hc)
  refine ⟨s1, ?_, hbytes, hword⟩
  rw [h.performs hread (by rw [hop]; nofun) (by simp [RemReq.opCause, hop, hcls]), reqPerform_atomic hop hdone]
  rfl

end

/-! ### The obligation -/

theorem incomplete_iff {s : State} : (∀ d ∈ s.remDefers, ∃ w ∈ d.got, w.isFixed = false) ↔
    ∀ d ∈ s.remDefers, d.got.all RWord.isFixed = false := by
  simp only [List.all_eq_false, Bool.not_eq_true]

/-- Settles O42: a request by its checks, a read by what a step of it reads, a write and an atomic by what their home does; a
reply and a time limit by the entry they end; ports by the set they stand in. -/
theorem remoteMemory : Obligations.RemoteMemory := by
  refine ⟨fun s q ha hp hwf => ?_, fun s n x hx => ?_, fun s n ha hports => ?_⟩
  · intro answers does
    refine ⟨fun hop hread => remoteRequest_probe ha hp hread hop, fun hop =>
      ⟨fun hinc hread => remoteRequest_refused ha hp hread hop (reqCause_gone hinc) (by decide),
       fun hinc hbad hread => remoteRequest_refused ha hp hread hop (reqCause_badpa hinc hbad) (by decide),
       fun hinc hmap hcls hread => remoteRequest_refused ha hp hread hop (reqCause_class hinc hmap hcls) (by decide),
       fun a => allowedAt_iff a q.cls, fun hinc hok hheld => ?_⟩⟩
    have h : Accepted s q := ⟨ha, hp, hinc, hok, hheld⟩
    refine ⟨fun n hread => ⟨fun hcls hnone => ?_, fun got hcls hn htodo hopen hstands hready => ?_,
      fun hone hnew hcls hcalm hfree hopen => ?_⟩,
      fun hwrite hnone => ⟨fun hcls => ?_, fun hcls hc => ?_, fun hcls hc hpres => ?_⟩,
      fun op lane hatom hnone => ⟨fun hcls => ?_, fun hcls hc hgood => h.acts hatom hnone hcls hwf hc hgood⟩⟩
    · exact h.refused hnone hop (by simp [RemReq.opCause, hread, hcls])
    · obtain ⟨ds, hexec, hon⟩ := h.reads hread hcls hn htodo (incomplete_iff.mp hopen) hstands
      have hcan (k : Nat) (hk : got.getD k .deferred = .todo) : readable { s with remDefers := ds } q k := by
        obtain ⟨hcalm, hfree, hgood, hpres⟩ := hready k (hn ▸ lt_length_of_todo hk) hk
        exact ⟨hcalm, hfree, hgood, hpres⟩
      obtain ⟨got', hlen, hmem, hpres, hwords, ⟨k, hktodo, hkread⟩, hdone, hwait, hmore⟩ := reqRead_step hon hcan htodo
      subst hn
      refine ⟨_, got', hexec, hmem, hpres, hlen, fun k _ => hwords k, ⟨k, lt_length_of_todo hktodo, hktodo, hkread⟩,
        fun hall => ?_, hwait, hmore⟩
      obtain ⟨hout, hover⟩ := hdone hall
      exact ⟨_, hout, hover, (List.length_map _).trans hlen, fun k w hk hw => reply_getD (hlen ▸ hk) hw⟩
    · subst hone
      have hinc := incomplete_iff.mp hopen
      refine ⟨fun hgood hcls1 hpres hroom => ?_, fun hgood hcls1 hpres hfull => ?_, fun hbad => ?_⟩
      · exact h.defers hread hcls hnew hcalm hfree hinc (readWord_defers hgood hcls1 hpres hroom)
      · obtain ⟨s', hexec, hout, hover, -⟩ := h.fails hread hcls hnew hcalm hfree hinc
          (readWord_full hgood hcls1 hpres hfull)
        exact ⟨s', hexec, hout, hover⟩
      · obtain ⟨s', hexec, hout, hover, hlog⟩ := h.fails hread hcls hnew hcalm hfree hinc (if_pos hbad)
        exact ⟨s', hexec, hover, hout, fun hroom => hlog ▸ readFails_logs hroom q⟩
    · exact h.refused hnone hop (by simp [RemReq.opCause, hwrite]; omega)
    · exact ⟨_, h.writes hwrite hnone (by omega) (homeWrite_plain hc (by omega) q.data), word_putWord s q.addr q.data hwf,
        putWord_onlyBytes s q.addr q.data hwf, rfl⟩
    · exact h.writes hwrite hnone (by omega) (hcls ▸ homeWrite_again hc hpres q.data)
    · exact h.refused hnone hop (by simp [RemReq.opCause, hatom, hcls])
  · intro gone
    refine ⟨fun p hp htag => ⟨_, exec_remoteReply hx hp htag, endRemote_remotes _ _ _ _⟩,
      fun ha hdue => ⟨_, exec_remoteTimeout_over hx ha hdue, endRemote_remotes _ _ _ _⟩, exec_remoteTimeout_waits hx,
      fun k g w hwhat hg hop hcells hdst => ⟨fun p hp htag hcause hwords => ?_, fun ha hdue => ?_⟩⟩
    · have hexec := exec_remoteReply hx hp htag
      rw [hcause, hwords, endRemote_word hwhat] at hexec
      exact ⟨_, _, hexec, reply_single hg hcells rfl _ _, rfl⟩
    · have hexec := exec_remoteTimeout_over hx ha hdue
      rw [endRemote_timeout hwhat (s := s.dropRemote n) hg hop hdst] at hexec
      exact ⟨_, _, hexec, reply_single hg hcells rfl _ _, rfl⟩
  · exact ⟨⟨_, exec_portDown ha, rfl, setHas_setDel hports n⟩, fun hpkg hn => ⟨_, (exec_portUp ha).trans
      (congrArg _ (if_neg (by omega))), rfl, setHas_setAdd s.ports n⟩,
      fun hpkg => (exec_portUp ha).trans (congrArg _ (if_pos (.inl hpkg)))⟩

end Sys2Proof.Machine
end

section
/-! SUPPORT. A packet from the root that finds its receive finalising (R424; log 49), and the obligation about the members of a
reduction, which fails there: the obligation has such a packet kept, and the model counts it late. -/

namespace Sys2Proof.Machine

open Sys2Proof Sys2Proof.Safety

/-- A value or a CLOSE for a receive that finalises is counted in dv.DRLATE, as one for a receive that has finalised is. -/
theorem receivePacket_finalising {s : State} {p : Packet} {k : Nat} (ha : s.actor = .packet p)
    (hp : p.isValue = true ∨ p.kind = 4) (harmed : s.placeOf p.group p.seq 1 = none)
    (hplace : s.placeOf p.group p.seq 3 = some k) : exec .receivePacket s = .next s.drLate := by
  have hfin : s.finalised p.group p.seq = true := by simp [State.finalised, hplace]
  change execReceivePacket s = _
  simp only [execReceivePacket, ha, if_pos hp, State.receive1, harmed, hfin, if_true]

/-! ### The state that refutes the obligation -/

/-- A FINAL packet of a reduction. -/
def finalPacket : Packet := ⟨1, 1, 0, 4, 0, 2, 3, 8, 0, 0, 2, 2, [], 3⟩

/-- A receive place that is finalising that reduction. -/
def finalisingPlace : Place := { Place.free with st := 3, group := 3, seq := 2 }

/-- The machine after reset, with that place, as that packet arrives. -/
def atFinalising : State := { State.reset with actor := .packet finalPacket, places := [finalisingPlace] }

/-- Refutes O44: its clause about a packet that finds no armed receive and none that has finalised has the packet kept,
whatever else the places hold. With a place that is finalising the same reduction, the model counts the packet late and keeps
nothing. -/
theorem not_reductionMembers : ¬ Obligations.ReductionMembers := by
  rintro ⟨-, -, hpackets, -⟩
  obtain ⟨-, hunarmed, -⟩ := (hpackets atFinalising finalPacket rfl).2 (.inl rfl)
  obtain ⟨s', hexec, hkept⟩ := hunarmed (by decide) (by decide) rfl (by decide)
  have hlate := receivePacket_finalising (s := atFinalising) (k := 0) rfl (.inl rfl) (by decide) (by decide)
  have hsame : s' = atFinalising.drLate := Host.Outcome.next.inj (hexec.symm.trans hlate)
  have hlength := congrArg (fun s1 : State => s1.unclaimed.length) (hkept.symm.trans hsame)
  exact absurd hlength (by decide)

end Sys2Proof.Machine
end

section
/-! SUPPORT. The ALU, immediate, branch and jump words of a sequencer (R369): what each computes is what the rule states, and
the obligations about them. -/

namespace Sys2Proof.Machine

open Sys2Proof Sys2Proof.Safety

/-! ### The rule's arithmetic on words (R369) -/

theorem boolW_ite (p : Prop) [Decidable p] : boolW (decide p) = if p then 1 else 0 := by
  simp [boolW]

theorem boolW_slt (x y : Word) : boolW (x.slt y) = if x.toInt < y.toInt then 1 else 0 := by
  rw [BitVec.slt_eq_decide, boolW_ite]

theorem boolW_ult (x y : Word) : boolW (x.ult y) = if x.toNat < y.toNat then 1 else 0 := by
  rw [BitVec.ult_eq_decide, boolW_ite]

/-- An arithmetic shift divides the signed number, rounding down. -/
theorem sshiftRight_eq_ofInt_div (x : Word) (n : Nat) : x.sshiftRight n = BitVec.ofInt 64 (x.toInt / 2 ^ n) := by
  rw [BitVec.sshiftRight, Int.shiftRight_eq_div_pow]
  norm_cast

theorem mul_eq_ofNat (x y : Word) : x * y = BitVec.ofNat 64 (x.toNat * y.toNat) :=
  BitVec.eq_of_toNat_eq (by simp)

theorem mulh_eq (x y : Word) : mulh x y = BitVec.ofInt 64 (x.toInt * y.toInt / 2 ^ 64) := by
  rw [mulh, Nat.cast_pow, Nat.cast_ofNat]

theorem quot_eq (x y : Word) :
    quot x y = if y = 0 then 0xFFFFFFFFFFFFFFFF else BitVec.ofNat 64 (x.toNat / y.toNat) := by
  unfold quot
  split
  · rfl
  · exact BitVec.eq_of_toNat_eq (by simp [Nat.mod_eq_of_lt (Nat.lt_of_le_of_lt (Nat.div_le_self ..) x.isLt)])

theorem rmdr_eq (x y : Word) : rmdr x y = if y = 0 then x else BitVec.ofNat 64 (x.toNat % y.toNat) := by
  unfold rmdr
  split
  · rfl
  · exact BitVec.eq_of_toNat_eq (by simp [Nat.mod_eq_of_lt (Nat.lt_of_le_of_lt (Nat.mod_le ..) x.isLt)])

theorem sext16_toInt (i : BitVec 16) : (sext16 i).toInt = i.toInt :=
  BitVec.toInt_signExtend_of_le (by decide)

theorem sext16_eq_ofInt (i : BitVec 16) : sext16 i = BitVec.ofInt 64 i.toInt := rfl

theorem zext16_eq_ofNat (i : BitVec 16) : zext16 i = BitVec.ofNat 64 i.toNat :=
  BitVec.eq_of_toNat_eq (by simp [zext16])

theorem sext16_shiftLeft (i : BitVec 16) : sext16 i <<< 16 = BitVec.ofInt 64 (i.toInt * 2 ^ 16) := by
  rw [BitVec.shiftLeft_eq_mul_twoPow, BitVec.ofInt_mul, ← sext16_eq_ofInt]
  rfl

/-- The target of a branch as a 57-bit number (R62). -/
theorem branchPc_eq_ofInt (pc : BitVec 57) (off : Int) : branchPc pc off = BitVec.ofInt 57 ((pc.toNat : Int) + 4 * off) := by
  rw [branchPc, BitVec.ofInt_add, BitVec.ofInt_natCast, BitVec.ofNat_toNat, BitVec.setWidth_eq]

/-! ### What each form of word writes (R369) -/

section
variable {s : State} {t : Nat} {q : Seq} (h : seqThere s t q)
include h

theorem aluR_writes (lat : Nat) (g : Word → Word → Word) {i : Instr} {d a b : BitVec 5} {v : Word}
    (hi : exec i s = aluR lat g d a b s) (hv : g (q.reg a) (q.reg b) = v) : writesReg i s t q d v (q.pc + 4) :=
  hv ▸ seqLate_writes (hi.trans (withSeq_there _ h)) h

theorem aluI_writes (g : Word → Word) {i : Instr} {d a : BitVec 5} {v : Word} (hi : exec i s = aluI g d a s)
    (hv : g (q.reg a) = v) : writesReg i s t q d v (q.pc + 4) :=
  hv ▸ seqDone_writes (hi.trans (withSeq_there _ h)) h

theorem branch_writes (test : Word → Word → Bool) {w : Instr} {d a : BitVec 5} {i : BitVec 16} {c : Bool}
    (hw : exec w s = branch test d a i s) (hc : test (q.reg d) (q.reg a) = c) :
    writesReg w s t q 0 0 (if c then BitVec.ofInt 57 ((q.pc.toNat : Int) + 4 * i.toInt) else q.pc + 4) := by
  refine writesReg_of (hw.trans (withSeq_there _ h)) h (fun _ ht => ht) ?_ (fun k => (if_neg fun hk => hk.2 rfl).symm) rfl
    (by simp [loadsLeft])
  rw [← branchPc_eq_ofInt, ← hc]

/-- A word that writes gd and goes to pc, both made from the registers as they were. -/
theorem jump_writes {w : Instr} {d : BitVec 5} {v : Word} {pc : BitVec 57} {busy : Nat}
    (hw : exec w s = .next (s.modSeq t fun _ => { q.setReg d v with pc := pc, busy := busy })) :
    writesReg w s t q d v pc := by
  refine writesReg_of hw h (fun _ _ => (setReg_tile q d v).trans (seq_tile h.2)) rfl (fun k => reg_setReg q d k v) ?_
    (setReg_loads q d v)
  obtain ⟨x, l, ls, hr⟩ := setReg_rest q d v
  rw [hr]
  rfl

end

/-! ### The obligations -/

/-- Settles O1: each word by the form it has, with what the form's function computes. -/
theorem seqArithmetic : Obligations.SeqArithmetic := by
  refine ⟨fun s t q d a b h => ?_, fun s t q d a i sh h => ?_⟩
  · have regs (lat : Nat) (g : Word → Word → Word) {w : Instr} {v : Word} (hw : exec w s = aluR lat g d a b s)
        (hv : g (q.reg a) (q.reg b) = v) : writesReg w s t q d v (q.pc + 4) := aluR_writes h lat g hw hv
    exact ⟨regs 1 (fun x y => x + y) rfl rfl, regs 1 (fun x y => x - y) rfl rfl, regs 1 (fun x y => x &&& y) rfl rfl,
      regs 1 (fun x y => x ||| y) rfl rfl, regs 1 (fun x y => x ^^^ y) rfl rfl,
      regs 1 (fun x y => x <<< shamt y) rfl (by rw [shamt]), regs 1 (fun x y => x >>> shamt y) rfl (by rw [shamt]),
      regs 1 (fun x y => x.sshiftRight (shamt y)) rfl (sshiftRight_eq_ofInt_div _ _),
      regs 1 (fun x y => boolW (x.slt y)) rfl (boolW_slt _ _), regs 1 (fun x y => boolW (x.ult y)) rfl (boolW_ult _ _),
      regs 3 (fun x y => x * y) rfl (mul_eq_ofNat _ _), regs 3 mulh rfl (mulh_eq _ _), regs 66 quot rfl (quot_eq _ _),
      regs 66 rmdr rfl (rmdr_eq _ _)⟩
  · have imm (g : Word → Word) {w : Instr} {v : Word} (hw : exec w s = aluI g d a s) (hv : g (q.reg a) = v) :
        writesReg w s t q d v (q.pc + 4) := aluI_writes h g hw hv
    exact ⟨imm (fun x => x + sext16 i) rfl rfl,
      imm (fun x => boolW (x.slt (sext16 i))) rfl (by rw [boolW_slt, sext16_toInt]),
      imm (fun x => x &&& zext16 i) rfl (by rw [zext16_eq_ofNat]),
      imm (fun x => x ||| zext16 i) rfl (by rw [zext16_eq_ofNat]),
      imm (fun x => x ^^^ zext16 i) rfl (by rw [zext16_eq_ofNat]), imm (fun x => x <<< sh.toNat) rfl rfl,
      imm (fun x => x >>> sh.toNat) rfl rfl, imm (fun x => x.sshiftRight sh.toNat) rfl (sshiftRight_eq_ofInt_div _ _),
      aluI_writes (a := 0) h (fun _ => sext16 i <<< 16) rfl (sext16_shiftLeft i)⟩

/-- Settles O2: a branch by its test, a jump by its target, and JALR's trap by the alignment of its target. -/
theorem seqBranchesAndJumps : Obligations.SeqBranchesAndJumps := by
  intro s t q d a i o h x y far goes
  have tests (test : Word → Word → Bool) {w : Instr} {c : Bool} (hw : exec w s = branch test d a i s)
      (hc : test x y = c) : goes w c := branch_writes h test hw hc
  refine ⟨tests (fun x y => x == y) rfl (beq_eq_decide _ _), tests (fun x y => x != y) rfl ?_,
    tests (fun x y => x.slt y) rfl BitVec.slt_eq_decide, tests (fun x y => !x.slt y) rfl ?_,
    tests (fun x y => x.ult y) rfl BitVec.ult_eq_decide, tests (fun x y => !x.ult y) rfl ?_, ?_, ?_⟩
  · rw [bne, beq_eq_decide, decide_not]
  · rw [BitVec.slt_eq_decide, ← decide_not, decide_eq_decide, Int.not_lt]
  · rw [BitVec.ult_eq_decide, ← decide_not, decide_eq_decide, Nat.not_lt]
  · exact jump_writes h ((withSeq_there _ h).trans (by rw [branchPc_eq_ofInt]))
  · intro tgt
    split
    next hal => exact jump_writes h ((withSeq_there _ h).trans (congrArg _ (if_neg (not_not.mpr hal))))
    next hal => exact trapsSeq_of_trapQ h ((withSeq_there _ h).trans (congrArg _ (if_pos hal)))

end Sys2Proof.Machine
end

section
/-! SUPPORT. The control registers of a sequencer (R366, R367, R370): what a write leaves of a sequencer, what the words that
read and write them come to, and the obligation about them. -/

namespace Sys2Proof.Machine

open Sys2Proof Sys2Proof.Safety

/-- The bits v of a mask, and the others as they were. -/
def mixBits (m v was : Word) : Word := (was &&& ~~~m) ||| (v &&& m)

theorem mixBits_allOnes (v was : Word) : mixBits (BitVec.allOnes 64) v was = v := by
  rw [mixBits, BitVec.not_allOnes, BitVec.and_zero, BitVec.zero_or, BitVec.and_allOnes]

/-- A sequencer whose writable control registers take a value, each if its number is n. -/
def Seq.controlled (q : Seq) (n : Nat) (v : Word) : Seq :=
  { q with
    status := if n = 0x000 then mixBits 0xE v q.status else q.status
    epc := if n = 0x001 then v else q.epc
    cause := if n = 0x002 then mixBits 0xFFFF000000000000 v q.cause else q.cause
    detail := if n = 0x003 then mixBits q.dmask v q.detail else q.detail
    tvec := if n = 0x004 then mixBits 0xFFFFFFFFFFFFFFFC v q.tvec else q.tvec
    sysret := if n = 0x005 then v else q.sysret
    evpend := if n = 0x012 then q.evpend &&& ~~~(BitVec.truncate 4 v) else q.evpend
    rndrank := if n = 0x020 then BitVec.truncate 32 v else q.rndrank
    rndstep := if n = 0x021 then BitVec.truncate 32 v else q.rndstep }

theorem scrWrite_eq_controlled (q : Seq) (n : Nat) (v : Word) : q.scrWrite n v = q.controlled n v := by
  unfold Seq.scrWrite
  dsimp only
  split
  case h_2 => exact congrArg (fun x => { q with epc := x }) (mixBits_allOnes v q.epc)
  case h_6 => exact congrArg (fun x => { q with sysret := x }) (mixBits_allOnes v q.sysret)
  case h_10 h0 h1 h2 h3 h4 h5 h12 h20 h21 =>
    rw [Seq.controlled, if_neg h0, if_neg h1, if_neg h2, if_neg h3, if_neg h4, if_neg h5, if_neg h12, if_neg h20, if_neg h21]
  all_goals rfl

/-- The numbers of the listed control registers (R366). -/
def scrListed : List Nat := [0x000, 0x001, 0x002, 0x003, 0x004, 0x005, 0x010, 0x011, 0x012, 0x020, 0x021, 0x022, 0x030, 0x031,
  0x040, 0x043, 0x050, 0x051, 0x052, 0x053]

theorem scrRead_unlisted (s : State) (t : Nat) (q : Seq) {n : Nat} (h : n ∉ scrListed) : s.scrRead t q n = none := by
  unfold State.scrRead
  split
  case h_21 => rfl
  all_goals exact absurd (by decide) h

theorem scrPrivOnly_iff (n : Nat) : scrPrivOnly n = true ↔ n ∈ [0x001, 0x002, 0x003, 0x004, 0x005, 0x040, 0x043] := by
  simp [scrPrivOnly, or_assoc]

theorem scrRead_privOnly (s : State) (t : Nat) (q : Seq) {n : Nat} (h : scrPrivOnly n = true) :
    ∃ old, s.scrRead t q n = some old := by
  have hmem := (scrPrivOnly_iff n).mp h
  simp only [List.mem_cons, List.not_mem_nil, or_false] at hmem
  rcases hmem with rfl | rfl | rfl | rfl | rfl | rfl | rfl <;> exact ⟨_, rfl⟩

/-- A sequencer after an access of register n, which read old: f gives the value that is written, and only in privileged mode
(R370). -/
def Seq.accessed (q : Seq) (f : Option (Word → Word → Word)) (n : Nat) (old x : Word) : Seq :=
  match f with
  | some g => if q.priv then q.scrWrite n (g old x) else q
  | none => q

theorem accessed_user {q : Seq} (hp : q.priv = false) (f : Option (Word → Word → Word)) (n : Nat) (old x : Word) :
    q.accessed f n old x = q := by
  cases f <;> simp [Seq.accessed, hp]

theorem accessed_privileged {q : Seq} (hp : q.priv = true) (g : Word → Word → Word) (n : Nat) (old x : Word) :
    q.accessed (some g) n old x = q.controlled n (g old x) := by
  simp [Seq.accessed, hp, scrWrite_eq_controlled]

section
variable {s : State} {t : Nat} {q : Seq} (h : seqThere s t q)
include h

/-- A word that writes a general register and leaves the control registers of another sequencer's state. -/
theorem scr_leaves {i : Instr} {d : BitVec 5} {old : Word} {q1 : Seq} {busy : Nat}
    (hi : exec i s = .next (s.modSeq t fun _ => { (q1.setReg d old).next with busy := busy }))
    (htile : q1.tile = q.tile) (hpc : q1.pc = q.pc) (hregs : q1.regs = q.regs) (hloads : q1.loads = q.loads) :
    ∃ s' q', exec i s = .next s' ∧ s'.seq? t = some q' ∧ onlySeq s s' t ∧ q'.pc = q.pc + 4 ∧
      (∀ j, q'.reg j = if j = d ∧ d ≠ 0 then old else q.reg j) ∧ sameControl q1 q' ∧ loadsLeft q q' d := by
  obtain ⟨hthere, honly⟩ := modSeq_spec s t q (fun _ => { (q1.setReg d old).next with busy := busy }) h.2
    fun _ _ => ((setReg_tile q1 d old).trans htile).trans (seq_tile h.2)
  refine ⟨_, _, hi, hthere, honly, ?_, fun j => ?_, ?_, ?_⟩
  · exact congrArg (· + 4) ((setReg_pc q1 d old).trans hpc)
  · refine (reg_setReg q1 d j old).trans ?_
    rw [Seq.reg, Seq.reg, hregs]
  · obtain ⟨x, l, ls, hset⟩ := setReg_rest q1 d old
    rw [hset]
    rfl
  · exact (setReg_loads q1 d old).trans (by rw [hloads])

theorem scr_unlisted {i : Instr} {f : Option (Word → Word → Word)} {d a : BitVec 5} {n : BitVec 14}
    (hi : exec i s = scr f d a n s) (hn : n.toNat ∉ scrListed) : trapsSeq i s t q Cause.illegal := by
  refine trapsSeq_of_trapQ h (hi.trans ((withSeq_there _ h).trans (congrArg _ ?_)))
  rw [scrRead_unlisted s t q hn]

theorem scr_denied {i : Instr} {f : Option (Word → Word → Word)} {d a : BitVec 5} {n : BitVec 14}
    (hi : exec i s = scr f d a n s) (hn : scrPrivOnly n.toNat = true) (hp : q.priv = false) :
    trapsSeq i s t q Cause.privilege := by
  obtain ⟨old, hold⟩ := scrRead_privOnly s t q hn
  refine trapsSeq_of_trapQ h (hi.trans ((withSeq_there _ h).trans (congrArg _ ?_)))
  rw [hold]
  exact if_pos (by rw [hn, hp]; rfl)

/-- A word that may access its register: what it writes there, in privileged mode only, and that gd takes the old value. -/
theorem scr_goes {i : Instr} {f : Option (Word → Word → Word)} {d a : BitVec 5} {n : BitVec 14} {old : Word}
    (hi : exec i s = scr f d a n s) (hold : s.scrRead t q n.toNat = some old)
    (hmay : scrPrivOnly n.toNat = false ∨ q.priv = true) :
    exec i s = .next (s.modSeq t fun _ =>
      { ((q.accessed f n.toNat old (q.reg a)).setReg d old).next with busy := s.clock + 1 }) := by
  refine hi.trans ((withSeq_there _ h).trans (congrArg _ ?_))
  rw [hold]
  refine if_neg fun hdenied => ?_
  rcases hmay with hmay | hmay <;> simp [hmay] at hdenied

variable {i : Instr} {d a : BitVec 5} {n : BitVec 14} {old : Word}

theorem scr_reads {f : Option (Word → Word → Word)} (hi : exec i s = scr f d a n s) (hold : s.scrRead t q n.toNat = some old)
    (hmay : f = none ∧ q.priv = true ∨ scrPrivOnly n.toNat = false ∧ q.priv = false) :
    ∃ s' q', exec i s = .next s' ∧ s'.seq? t = some q' ∧ onlySeq s s' t ∧ q'.pc = q.pc + 4 ∧
      (∀ j, q'.reg j = if j = d ∧ d ≠ 0 then old else q.reg j) ∧ sameControl q q' ∧ loadsLeft q q' d := by
  have hgoes := scr_goes h hi hold (hmay.symm.imp And.left And.right)
  have hsame : q.accessed f n.toNat old (q.reg a) = q := by
    rcases hmay with ⟨rfl, -⟩ | ⟨-, hp⟩
    · rfl
    · exact accessed_user hp f _ _ _
  exact scr_leaves h (hsame ▸ hgoes) rfl rfl rfl rfl

theorem scr_writes (g : Word → Word → Word) (hi : exec i s = scr (some g) d a n s)
    (hold : s.scrRead t q n.toNat = some old) (hp : q.priv = true) :
    ∃ s' q', exec i s = .next s' ∧ s'.seq? t = some q' ∧ onlySeq s s' t ∧ q'.pc = q.pc + 4 ∧
      (∀ j, q'.reg j = if j = d ∧ d ≠ 0 then old else q.reg j) ∧
      sameControl (q.controlled n.toNat (g old (q.reg a))) q' ∧ loadsLeft q q' d := by
  have hgoes := scr_goes h hi hold (.inr hp)
  rw [accessed_privileged hp] at hgoes
  exact scr_leaves h hgoes rfl rfl rfl rfl

end

/-- What holds of every word of the shape of SCRR to SCRC holds of the four. -/
theorem scr_forms {s : State} {d a : BitVec 5} {n : BitVec 14} {P : Instr → Prop}
    (hP : ∀ (i : Instr) (f : Option (Word → Word → Word)), exec i s = scr f d a n s → P i) :
    P (.scrr d a n) ∧ P (.scrw d a n) ∧ P (.scrs d a n) ∧ P (.scrc d a n) :=
  ⟨hP _ none rfl, hP _ (some fun _ x => x) rfl, hP _ (some fun old x => if n.toNat = 0x012 then x else old ||| x) rfl,
    hP _ (some fun old x => if n.toNat = 0x012 then x else old &&& ~~~x) rfl⟩

/-- Settles O4: each form by whether its register is listed and may be accessed, a write by the registers it leaves. -/
theorem controlRegisters : Obligations.ControlRegisters := by
  refine ⟨fun s t q d a n old h hold => ⟨fun hp => ?_, fun hp hn => ?_⟩, fun s t q d a n h => ⟨fun hn => ?_, fun hn hp => ?_⟩⟩
  · exact ⟨scr_reads (a := a) h (f := none) rfl hold (.inl ⟨rfl, hp⟩), scr_writes h (fun _ x => x) rfl hold hp,
      scr_writes h (fun old x => if n.toNat = 0x012 then x else old ||| x) rfl hold hp,
      scr_writes h (fun old x => if n.toNat = 0x012 then x else old &&& ~~~x) rfl hold hp⟩
  · have hmay : scrPrivOnly n.toNat = false := Bool.eq_false_iff.mpr fun hpriv => hn ((scrPrivOnly_iff _).mp hpriv)
    exact scr_forms fun i f hi => scr_reads h hi hold (.inr ⟨hmay, hp⟩)
  · exact scr_forms fun i f hi => scr_unlisted h hi hn
  · exact scr_forms fun i f hi => scr_denied h hi ((scrPrivOnly_iff _).mpr hn) hp

end Sys2Proof.Machine
end

section
/-! SUPPORT. INST and ABND (R371, R373 to R376): how an install starts or is refused, what becomes of the fabric load that ABND
names, and the obligation about the two words. -/

namespace Sys2Proof.Machine

open Sys2Proof Sys2Proof.Safety

/-- An install of tile t as INST starts it. -/
def Install.begun (t va allowed clock : Nat) : Install :=
  { tile := t, va := va, allowed := allowed, step := 1, due := clock + 120, hdr := [], pl := none, origin := 0, fences := [],
    elems := [], boxes := [], groups := [], hash := 0, abandon := none }

section
variable {s : State} {t : Nat} {q : Seq} (h : seqThere s t q)
include h

/-! ### INST (R371, R373, R375) -/

theorem exec_inst_illegal {a b : BitVec 5} (hp : q.priv = true)
    (hbad : fld (q.reg a) 0 3 ≠ 0 ∨ fld (q.reg b) 48 16 ≠ 0) : exec (.instWord a b) s = .next (s.trapQ t Cause.illegal) :=
  (withSeq_there _ h).trans (congrArg _ ((if_neg (not_not.mpr hp)).trans (if_pos hbad)))

theorem exec_inst_starts {a b : BitVec 5} {x : Die} (hp : q.priv = true) (hx : s.die? (t / 48) = some x)
    (hgood : ¬(fld (q.reg a) 0 3 ≠ 0 ∨ fld (q.reg b) 48 16 ≠ 0)) (hi : x.inst = none) : exec (.instWord a b) s = .next (
      ((s.modSeq t fun q => { q.next with busy := s.clock + 1 }).setInstst t (instst 0 0 0 0 0 1)).modDie (t / 48) fun x =>
        { x with inst := some (Install.begun t (q.reg a).toNat (fld (q.reg b) 0 48) s.clock) }) := by
  refine (withSeq_there _ h).trans (congrArg _ ((if_neg (not_not.mpr hp)).trans ((if_neg hgood).trans ?_)))
  rw [hx]
  exact if_neg (by simp [hi])

theorem exec_inst_busy {a b : BitVec 5} {x : Die} (hp : q.priv = true) (hx : s.die? (t / 48) = some x)
    (hgood : ¬(fld (q.reg a) 0 3 ≠ 0 ∨ fld (q.reg b) 48 16 ≠ 0)) (hi : x.inst ≠ none) : exec (.instWord a b) s = .next (
      ((s.modSeq t fun q => { q.next with busy := s.clock + 1 }).setInstst t (instst Cause.busy 0 0 0 0 3)).setEvent t 1) := by
  refine (withSeq_there _ h).trans (congrArg _ ((if_neg (not_not.mpr hp)).trans ((if_neg hgood).trans ?_)))
  rw [hx]
  exact if_pos (Option.isSome_iff_ne_none.mpr hi)

/-- The sequencer after a word that goes on and sets sq.INSTST. -/
theorem setInstst_there (v : Word) :
    let s1 := (s.modSeq t fun q => { q.next with busy := s.clock + 1 }).setInstst t v
    s1.seq? t = some { q with pc := q.pc + 4, busy := s.clock + 1, instst := v } ∧ othersKept s s1 t := by
  obtain ⟨hnext, -, hkept⟩ := modSeq_spec s t q (fun q => { q.next with busy := s.clock + 1 }) h.2 fun _ ht => ht
  obtain ⟨hset, -, hkept'⟩ := modSeq_spec _ t _ (fun q => { q with instst := v }) hnext fun _ ht => ht
  exact ⟨hset, fun u hu => (hkept' u hu).trans (hkept u hu)⟩

/-! ### ABND (R376) -/

theorem exec_abnd_load {d a : BitVec 5} {x : Load} (hp : q.priv = true)
    (hl : s.load? ⟨t / 48, fld (q.reg a) 0 6⟩ = some x) : exec (.abnd d a) s = .next (
      if x.phase = .retiring then (s.retireFor ⟨t / 48, fld (q.reg a) 0 6⟩ t).seqDone t d 0 1
      else if x.phase = .resident ∧ s.noThreads x then
        ((s.beginRetire ⟨t / 48, fld (q.reg a) 0 6⟩).retireFor ⟨t / 48, fld (q.reg a) 0 6⟩ t).seqDone t d 0 1
      else s.seqDone t d 1 1) := by
  refine (withSeq_there _ h).trans (congrArg _ ((if_neg (not_not.mpr hp)).trans ?_))
  dsimp only
  rw [hl]

theorem exec_abnd_none {d a : BitVec 5} (hp : q.priv = true) (hl : s.load? ⟨t / 48, fld (q.reg a) 0 6⟩ = none) :
    exec (.abnd d a) s = .next (
      if ((s.die? (t / 48)).bind (·.inst)).isSome ∧ fld (q.reg a) 0 6 = s.freeFab (t / 48) then
        ((s.abandonInstall (t / 48) (s.waitNow % 65)).tick).seqDone t d 3 1
      else s.seqDone t d 2 1) := by
  refine (withSeq_there _ h).trans (congrArg _ ((if_neg (not_not.mpr hp)).trans ?_))
  dsimp only
  rw [hl]

/-- A word that writes gd after a step that leaves the sequencers. -/
theorem seqDone_after {s1 : State} (hseqs : s1.seqs = s.seqs) (d : BitVec 5) (v : Word) :
    ∃ q', (s1.seqDone t d v 1).seq? t = some q' ∧ q'.pc = q.pc + 4 ∧ (∀ j, q'.reg j = if j = d ∧ d ≠ 0 then v else q.reg j) ∧
      sameControl q q' ∧ othersKept s (s1.seqDone t d v 1) t := by
  have hq : s1.seq? t = some q := (congrArg (List.find? _) hseqs).trans h.2
  obtain ⟨hthere, -, hkept⟩ := modSeq_spec s1 t q (fun q => { (q.setReg d v).next with busy := s1.clock + 1 }) hq
    fun y ht => (setReg_tile y d v).trans ht
  refine ⟨_, hthere, congrArg (· + 4) (setReg_pc q d v), fun j => reg_setReg q d j v, ?_, fun u hu =>
    (hkept u hu).trans (congrArg (List.find? _) hseqs)⟩
  obtain ⟨x, l, ls, hset⟩ := setReg_rest q d v
  rw [hset]
  rfl

end

theorem retireFor_there {s : State} {l : LoadRef} {x : Load} (h : s.load? l = some x) (t : Nat) :
    ∃ y, (s.retireFor l t).load? l = some y ∧ y.phase = x.phase ∧ t ∈ y.retireFor := by
  refine ⟨_, modLoad_there h _ fun _ h => h, rfl, ?_⟩
  dsimp only
  split
  next hmem => exact List.contains_iff_mem.mp hmem
  next => exact List.mem_append_right _ (List.mem_singleton_self t)

theorem retireFor_other (s : State) {l m : LoadRef} (t : Nat) (h : m ≠ l) : (s.retireFor l t).load? m = s.load? m :=
  (modLoad_load s l m (fun x => { x with retireFor := if x.retireFor.contains t then x.retireFor else x.retireFor ++ [t] })
    fun _ h => h).trans (if_neg h)

theorem beginRetire_other (s : State) {l m : LoadRef} (h : m ≠ l) : (s.beginRetire l).load? m = s.load? m :=
  (modLoad_load s l m (fun x => { x with phase := .retiring, phaseAt := s.clock }) fun _ h => h).trans (if_neg h)

/-- The install in progress is to be abandoned by the clock given, unless an earlier step has said when. -/
theorem abandonInstall_there {s : State} {d : Nat} {x : Die} {i : Install} (hx : s.die? d = some x) (hi : x.inst = some i)
    (n : Nat) : ∃ y j c, (s.abandonInstall d n).die? d = some y ∧ y.inst = some j ∧ j.abandon = some c ∧
      (i.abandon = none → c = s.clock + n) := by
  have hmod := modDie_there hx (fun x => { x with inst := x.inst.map fun i =>
    { i with abandon := some (match i.abandon with | some a => a | none => s.clock + n) } }) fun _ h => h
  rw [hi] at hmod
  refine ⟨_, _, _, hmod, rfl, rfl, fun hnone => ?_⟩
  rw [hnone]

/-! ### The obligation -/

/-- Settles O9: INST by its operands and by whether an install is in progress; ABND by the fabric load that it names. -/
theorem installAndAbandonWords : Obligations.InstallAndAbandonWords := by
  refine ⟨fun s t q a b x h hp hx => ⟨fun hbad => ?_, fun hal hm => ?_⟩, fun s t q d a h hp => ⟨fun x hl => ⟨fun hgo => ?_,
    fun hnot hbusy => ?_⟩, fun hl => ⟨fun hinst hfab => ?_, fun hno => ?_⟩⟩⟩
  · refine trapsSeq_of_trapQ h (exec_inst_illegal h hp (hbad.imp ?_ ?_)) <;> simp only [fld, fldN] <;> omega
  · have hgood : ¬(fld (q.reg a) 0 3 ≠ 0 ∨ fld (q.reg b) 48 16 ≠ 0) := by
      simp only [fld, fldN]
      omega
    cases hi : x.inst with
    | none =>
      obtain ⟨hset, hkept⟩ := setInstst_there h (instst 0 0 0 0 0 1)
      refine ⟨_, _, exec_inst_starts h hp hx hgood hi, hset, rfl, hkept, rfl, fun u hu =>
        (modDie_die _ _ _ (fun x => { x with inst := some (Install.begun t (q.reg a).toNat (fld (q.reg b) 0 48) s.clock) })
          fun _ h => h).trans (if_neg hu),
        fun _ => ⟨?_, rfl, _, modDie_there hx _ fun _ h => h, rfl, rfl, ?_, rfl, rfl⟩, fun hne => absurd rfl hne⟩
      · obtain ⟨-, -, -, -, -, hstate⟩ := instst_fields 0 0 0 0 0 1 (by decide) (by decide) (by decide) (by decide) (by decide)
        exact hstate
      · simp only [Install.begun, fld, fldN, pow_zero, Nat.div_one]
    | some i =>
      obtain ⟨hset, hkept⟩ := setInstst_there h (instst Cause.busy 0 0 0 0 3)
      obtain ⟨hcause, -, -, -, -, hstate⟩ :=
        instst_fields Cause.busy 0 0 0 0 3 (by decide) (by decide) (by decide) (by decide) (by decide)
      exact ⟨_, _, exec_inst_busy h hp hx hgood (hi ▸ nofun), setEvent_there hset 1, rfl, fun u hu => (setEvent_other _ hu 1).trans (hkept u hu), rfl,
        fun _ _ => rfl, fun hnone => absurd hnone nofun, fun _ => ⟨hstate, hcause, rfl, hx⟩⟩
  · have hexec := exec_abnd_load h (d := d) hp hl
    by_cases hphase : x.phase = .retiring
    · obtain ⟨y, hy, hyp, hmem⟩ := retireFor_there hl t
      obtain ⟨q', hq', hrest⟩ := seqDone_after h (s1 := s.retireFor ⟨t / 48, fld (q.reg a) 0 6⟩ t) rfl d 0
      exact ⟨_, y, ⟨q', hexec.trans (congrArg _ (if_pos hphase)), hq', hrest⟩, rfl, hy, hyp.trans hphase, hmem,
        fun l' hl' => retireFor_other s t hl'⟩
    · have hidle := hgo.resolve_left hphase
      obtain ⟨y, hy, hyp, hmem⟩ := retireFor_there (beginRetire_there hl) t
      obtain ⟨q', hq', hrest⟩ := seqDone_after h (s1 := (s.beginRetire ⟨t / 48, fld (q.reg a) 0 6⟩).retireFor _ t) rfl d 0
      exact ⟨_, y, ⟨q', hexec.trans (congrArg _ ((if_neg hphase).trans (if_pos hidle))), hq', hrest⟩, rfl, hy, hyp, hmem,
        fun l' hl' => (retireFor_other _ t hl').trans (beginRetire_other s hl')⟩
  · have hexec := exec_abnd_load h (d := d) hp hl
    obtain ⟨q', hq', hpc, hreg, hsame, hkept⟩ := seqDone_after h rfl d 1
    exact ⟨_, ⟨q', hexec.trans (congrArg _ ((if_neg hnot).trans (if_neg hbusy))), hq', hpc, hreg, hsame, hkept⟩, rfl, hkept⟩
  · have hexec := exec_abnd_none h (d := d) hp hl
    obtain ⟨i, hi⟩ := Option.isSome_iff_exists.mp hinst
    obtain ⟨x, hx, hxi⟩ := Option.bind_eq_some_iff.mp hi
    obtain ⟨y, j, c, hy, hyj, hc, hcn⟩ := abandonInstall_there hx hxi (s.waitNow % 65)
    obtain ⟨q', hq', hrest⟩ := seqDone_after h (s1 := (s.abandonInstall (t / 48) (s.waitNow % 65)).tick) rfl d 3
    refine ⟨_, ⟨q', hexec.trans (congrArg _ (if_pos ⟨hinst, hfab⟩)), hq', hrest⟩, y, j, hy, hyj, c, hc,
      fun y0 i0 hy0 hi0 hnone => ?_⟩
    obtain rfl : x = y0 := Option.some.inj (hx.symm.trans hy0)
    obtain rfl : i = i0 := Option.some.inj (hxi.symm.trans hi0)
    have hmod := Nat.mod_lt s.waitNow (y := 65) (by decide)
    rw [hcn hnone]
    omega
  · have hexec := exec_abnd_none h (d := d) hp hl
    obtain ⟨q', hq', hpc, hreg, hsame, hkept⟩ := seqDone_after h rfl d 2
    refine ⟨_, ⟨q', hexec.trans (congrArg _ (if_neg fun hyes => ?_)), hq', hpc, hreg, hsame, hkept⟩, rfl, hkept⟩
    exact hno.elim (fun hnone => Bool.eq_false_iff.mp hnone hyes.1) fun hne => hne hyes.2

end Sys2Proof.Machine
end

section
/-! SUPPORT. The machine right after reset (R365 to R367, R461, R465), and the obligation about it. -/

namespace Sys2Proof.Machine

open Sys2Proof Sys2Proof.Safety

theorem find_range_map {α : Type} (key : α → Nat) (f : Nat → α) (hf : ∀ t, key (f t) = t) {n t : Nat} (h : t < n) :
    ((List.range n).map f).find? (fun a => decide (key a = t)) = some (f t) := by
  have hsame : (fun a => decide (key a = t)) ∘ f = fun u => decide (u = t) := funext fun u => by simp [hf]
  have hfind : (List.range n).find? (fun u => decide (u = t)) = some t :=
    List.find?_range_eq_some.mpr ⟨by simp, List.mem_range.mpr h, fun u hu => by simpa using Nat.ne_of_lt hu⟩
  rw [List.find?_map, hsame, hfind, Option.map_some]

theorem reset_seq {t : Nat} (h : t < 192) : State.reset.seq? t = some (Seq.atReset t) :=
  find_range_map Seq.tile Seq.atReset (fun _ => rfl) h

theorem atReset_reg (t : Nat) (k : BitVec 5) : (Seq.atReset t).reg k = 0 := by
  rw [Seq.reg, Seq.atReset, List.getD_replicate, ite_self]
  exact k.isLt

/-- No tile is fenced at reset, so the first tile of a die is its installer (R367). -/
theorem reset_installer {d : Nat} (h : d < 4) : State.reset.installer d = some (pkgTile d 0) := by
  have hseq : State.reset.seq? (pkgTile d 0) = some (Seq.atReset (pkgTile d 0)) := reset_seq (by rw [pkgTile]; omega)
  rw [State.installer, List.range_succ_eq_map, List.map_cons, List.find?_cons, hseq]
  simp [Seq.atReset, bitAt]

/-- sq.TILEID of a tile that holds no fabric load (R367). -/
theorem reset_tileId {t : Nat} (h : t < 192) : ∃ v, State.reset.tileId t = v ∧ fld v 34 6 = 63 ∧ fld v 28 6 = 0 ∧
    fld v 48 8 = t ∧ v.getLsbD 27 = decide (t % 48 = 0) := by
  have hinst : decide (State.reset.installer (t / 48) = some t) = decide (t % 48 = 0) := by
    rw [reset_installer (by omega), decide_eq_decide, Option.some.injEq, pkgTile]
    omega
  have hid : (State.reset.tileId t).toNat =
      t * 2 ^ 48 + t / 48 * 2 ^ 46 + t % 48 * 2 ^ 40 + 63 * 2 ^ 34 + boolN (decide (t % 48 = 0)) * 2 ^ 27 := by
    have hres : State.reset.residentOn t = none := rfl
    have hbit : boolN (decide (t % 48 = 0)) ≤ 1 := by
      unfold boolN
      split <;> decide
    rw [State.tileId, hres, hinst, BitVec.toNat_ofNat, Nat.mod_eq_of_lt (by omega)]
    omega
  have hbit : (State.reset.tileId t).getLsbD 27 = decide ((State.reset.tileId t).toNat / 2 ^ 27 % 2 = 1) :=
    Nat.testBit_eq_decide_div_mod_eq
  refine ⟨_, rfl, ?_⟩
  have hlow : t / 48 * 2 ^ 46 + t % 48 * 2 ^ 40 + 63 * 2 ^ 34 + boolN (decide (t % 48 = 0)) * 2 ^ 27 < 2 ^ 48 := by
    unfold boolN
    split <;> omega
  rw [hbit, decide_eq_decide, fld, fld, fld, fldN, fldN, fldN, hid]
  refine ⟨?_, ?_, ?_, ?_⟩
  · unfold boolN
    split <;> omega
  · unfold boolN
    split <;> omega
  · have hdiv (x : Nat) (hx : x < 2 ^ 48) : (t * 2 ^ 48 + x) / 2 ^ 48 % 2 ^ 8 = t := by omega
    simpa only [Nat.add_assoc] using hdiv _ hlow
  · unfold boolN
    split
    next ht =>
      have ht' := of_decide_eq_true ht
      omega
    next ht =>
      have ht' : t % 48 ≠ 0 := fun h0 => ht (decide_eq_true h0)
      omega

theorem reset_csreq {d : Nat} (h : d < 4) : (match State.reset.die? d with | some x => x.csreq | none => 0) = 0 := by
  have hdie : State.reset.die? d = some (Die.atReset d) := find_range_map Die.n Die.atReset (fun _ => rfl) h
  rw [hdie]
  rfl

/-- Settles O57: the registers of a sequencer at reset by what reset makes it, sq.TILEID by its fields. -/
theorem resetValues : Obligations.ResetValues := by
  refine ⟨fun t ht => ⟨_, reset_seq ht, by simp [Seq.priv, Seq.atReset, bitAt], rfl, by simp [Seq.atReset], atReset_reg t, rfl,
    fun n hn => ?_, ?_⟩, rfl, rfl, fun n h2 h5 => ?_, rfl, rfl, rfl, rfl, rfl, rfl, fun q hq => ?_⟩
  · simp only [List.mem_cons, List.not_mem_nil, or_false] at hn
    rcases hn with rfl | rfl | rfl | rfl | rfl | rfl | rfl | rfl | rfl | rfl | rfl | rfl | rfl | rfl | rfl
    case inr.inr.inr.inr.inr.inr.inr.inr.inr.inr.inl => exact congrArg some (reset_csreq (by omega))
    all_goals rfl
  · obtain ⟨v, hv, hrest⟩ := reset_tileId ht
    exact ⟨v, congrArg some hv, hrest⟩
  · obtain rfl | rfl | rfl | rfl : n = 2 ∨ n = 3 ∨ n = 4 ∨ n = 5 := by omega
    all_goals rfl
  · obtain ⟨t, -, rfl⟩ := List.mem_map.mp hq
    exact ⟨rfl, rfl⟩

end Sys2Proof.Machine
end

section
/-! SUPPORT. Steps that leave alone what a sequencer runs on. -/

namespace Sys2Proof.Machine

open Sys2Proof Sys2Proof.Safety

/-- What a sequencer runs on: its general registers, PC, sq.TVEC, the mode and what the last trap saved (R365, R367, R368). -/
structure Core where
  tile : Nat
  regs : List Word
  pc : BitVec 57
  tvec : Word
  status : Word
  epc : Word

def Seq.core (q : Seq) : Core := ⟨q.tile, q.regs, q.pc, q.tvec, q.status, q.epc⟩

def State.cores (s : State) : List Core := s.seqs.map Seq.core

/-- From s to s', nothing changes of what the sequencers run on, and memory keeps its canonical form. -/
structure Calm (s s' : State) : Prop where
  cores : s'.cores = s.cores
  form : Memory.wf s.mem = true → Memory.wf s'.mem = true

variable {a s : State}

theorem Calm.refl (s : State) : Calm s s := ⟨rfl, id⟩

theorem Calm.trans {s' : State} (h : Calm a s) (h' : Calm s s') : Calm a s' :=
  ⟨h'.cores.trans h.cores, fun hf => h'.form (h.form hf)⟩

/-- A state that differs from s in neither sequencers nor memory. -/
theorem Calm.update (h : Calm a s) {clock actor agenda inputs out freeCount nextId presence bad unwritten dies loads elems boxes
    accs decs cmds dv pgreq pgpend selog selogLost saved tags ports linkClk remotes remDefers groups insts places unclaimed
    released boot} : Calm a ⟨clock, actor, agenda, inputs, out, freeCount, nextId, s.mem, presence, bad, unwritten, s.seqs, dies,
      loads, elems, boxes, accs, decs, cmds, dv, pgreq, pgpend, selog, selogLost, saved, tags, ports, linkClk, remotes,
      remDefers, groups, insts, places, unclaimed, released, boot⟩ := ⟨h.cores, h.form⟩

theorem Calm.foldl {α : Type} (h : Calm a s) {f : State → α → State} {xs : List α}
    (hf : ∀ s x, Calm a s → Calm a (f s x)) : Calm a (xs.foldl f s) :=
  List.foldlRecOn xs f h fun s hs x _ => hf s x hs

theorem Calm.modSeq (h : Calm a s) {t : Nat} {f : Seq → Seq} (hf : ∀ q, (f q).core = q.core) : Calm a (s.modSeq t f) := by
  refine ⟨Eq.trans ?_ h.cores, h.form⟩
  simp only [State.cores, State.modSeq, List.map_map]
  refine List.map_congr_left fun q _ => ?_
  simp only [Function.comp]
  split
  · exact hf q
  · rfl

/-- A state that differs from s in its sequencers, each changed in what it does not run on, and not in memory. -/
theorem Calm.mapSeqs (h : Calm a s) {s' : State} {f : Seq → Seq} (hf : ∀ q, (f q).core = q.core)
    (hseqs : s'.seqs = s.seqs.map f) (hmem : s'.mem = s.mem) : Calm a s' := by
  refine ⟨Eq.trans ?_ h.cores, fun hw => hmem ▸ h.form hw⟩
  rw [State.cores, hseqs, List.map_map]
  exact List.map_congr_left fun q _ => hf q

theorem except_bind_ok {ε α β : Type} {x : Except ε α} {f : α → Except ε β} {y : β} (h : (x >>= f) = .ok y) :
    ∃ z, x = .ok z ∧ f z = .ok y := by
  cases x with
  | error e => exact absurd h nofun
  | ok z => exact ⟨z, rfl, h⟩

theorem Calm.setBytes (h : Calm a s) {x : Nat} {bs : List Byte} : Calm a (s.setBytes x bs) :=
  ⟨h.cores, fun hf => setBytes_wf s x bs (h.form hf)⟩

end Sys2Proof.Machine
end

section
/-! SUPPORT. Functions of the machine that leave alone what the sequencers run on and keep memory's canonical form: one lemma
for each. -/

namespace Sys2Proof.Machine

open Sys2Proof Sys2Proof.Safety

variable {a s : State}

theorem Calm.ofEq {α : Type} {x : State × α} {s' : State} {y : α} (h : Calm a x.1) (hx : x = (s', y)) : Calm a s' := by
  subst hx
  exact h

theorem Calm.modDie (h : Calm a s) {n f} : Calm a (s.modDie n f) := h.update

theorem Calm.setOwned (h : Calm a s) {x b} : Calm a (s.setOwned x b) := h.modDie

theorem Calm.writeN (h : Calm a s) {x n v} : Calm a (s.writeN x n v) := h.setBytes

theorem Calm.setWord (h : Calm a s) {x v} : Calm a (s.setWord x v) := h.writeN

theorem Calm.setRecField (h : Calm a s) {x off lo n v} : Calm a (s.setRecField x off lo n v) := by
  unfold State.setRecField
  split
  · exact h.setWord
  · exact h

theorem Calm.setLink (h : Calm a s) {x v} : Calm a (s.setLink x v) := h.setRecField

theorem Calm.setPend (h : Calm a s) {x n} : Calm a (s.setPend x n) := h.setRecField

theorem Calm.setTrState (h : Calm a s) {x st} : Calm a (s.setTrState x st) := h.setRecField

theorem Calm.sendDec (h : Calm a s) {src x err} : Calm a (s.sendDec src x err) := h.update

theorem Calm.sendDecs (h : Calm a s) {x err} : Calm a (s.sendDecs x err) := by
  unfold State.sendDecs
  dsimp only
  refine (h.foldl (fun _ _ h1 => ?_))
  split
  · exact h1
  · exact h1.sendDec

theorem Calm.finishRec (h : Calm a s) {x abandoned} : Calm a (s.finishRec x abandoned) := by
  unfold State.finishRec
  dsimp only
  split
  · exact h.setTrState.setPend.setLink.setOwned.modDie
  · exact h.setTrState.setPend.setLink.setOwned.modDie.sendDecs

theorem Calm.setErr (h : Calm a s) {x c} : Calm a (s.setErr x c) := h.setRecField

theorem Calm.addErr (h : Calm a s) {x c} : Calm a (s.addErr x c) := by
  unfold State.addErr
  split
  · exact h.setErr
  · exact h

theorem Calm.abandonRec (h : Calm a s) {x cause} : Calm a (s.abandonRec x cause) := h.addErr.finishRec

theorem Calm.logSe (h : Calm a s) {kind ptile site handle} : Calm a (s.logSe kind ptile site handle) := by
  unfold State.logSe
  split
  · exact h.update
  · exact h.update

theorem Calm.abandonBad (h : Calm a s) {x} : Calm a (s.abandonBad x) := h.logSe.abandonRec

theorem Calm.modInstall (h : Calm a s) {d f} : Calm a (s.modInstall d f) := h.modDie

theorem Calm.abandonInstall (h : Calm a s) {d clocks} : Calm a (s.abandonInstall d clocks) := h.modInstall

theorem Calm.abandonReady (h : Calm a s) {d cfgid cause} : Calm a (s.abandonReady d cfgid cause) := by
  unfold State.abandonReady
  split
  · exact h
  · exact h.foldl fun _ _ h2 => h2.abandonRec

theorem Calm.abandonTrans (h : Calm a s) {x cause} : Calm a (s.abandonTrans x cause) := by
  unfold State.abandonTrans
  refine .abandonRec ?_
  split
  · exact h.logSe
  · exact h

theorem Calm.taskErr (h : Calm a s) {l slot cause} : Calm a (s.taskErr l slot cause) := by
  unfold State.taskErr
  split
  · exact h.addErr
  · exact h

theorem Calm.modElem (h : Calm a s) {r f} : Calm a (s.modElem r f) := h.update

theorem Calm.modMpe (h : Calm a s) {r f} : Calm a (s.modMpe r f) := h.modElem

theorem Calm.modGroup (h : Calm a s) {r gid f} : Calm a (s.modGroup r gid f) := h.modMpe

theorem Calm.failAt (h : Calm a s) {r gid x} : Calm a (s.failAt r gid x) := h.modGroup

theorem Calm.reply (h : Calm a s) {r gid cell rep due} : Calm a (s.reply r gid cell rep due) := h.modGroup

theorem Calm.dropAcc (h : Calm a s) {id} : Calm a (s.dropAcc id) := h.update

theorem Calm.accReply (h : Calm a s) {w r} : Calm a (s.accReply w r) := h.dropAcc.reply

theorem Calm.accFail (h : Calm a s) {w cause} : Calm a (s.accFail w cause) := by
  unfold State.accFail
  dsimp only
  refine .accReply ?_
  split
  · split
    · exact h.taskErr
    · exact h.failAt
  · exact h

theorem Calm.tick (h : Calm a s) : Calm a s.tick := h.update

theorem Calm.modAcc (h : Calm a s) {id f} : Calm a (s.modAcc id f) := h.update

theorem Calm.useWalker (h : Calm a s) {d} : Calm a (s.useWalker d) := h.modDie

theorem Calm.acceptArbor (h : Calm a s) {w op} : Calm a (s.acceptArbor w op) := by
  unfold State.acceptArbor
  dsimp only
  split
  · exact h
  · exact h.useWalker.modAcc.tick

theorem Calm.addCell (h : Calm a s) {r gid rep credit due} : Calm a (s.addCell r gid rep credit due) := h.modGroup.update

theorem Calm.addReissue (h : Calm a s) {r x} : Calm a (s.addReissue r x) := h.modMpe

theorem Calm.modLoad (h : Calm a s) {l f} : Calm a (s.modLoad l f) := h.update

theorem Calm.modSlot (h : Calm a s) {l slot f} : Calm a (s.modSlot l slot f) := h.modLoad

theorem Calm.addSig (h : Calm a s) {l slot va v} : Calm a (s.addSig l slot va v) := h.modSlot

theorem Calm.setOutc (h : Calm a s) {r gid b} : Calm a (s.setOutc r gid b) := h.modGroup

theorem Calm.sendResp (h : Calm a s) {m tag status data} : Calm a (s.sendResp m tag status data) := h.update

theorem Calm.respond (h : Calm a s) {m tag status data} : Calm a (s.respond m tag status data) := h.sendResp.update

theorem Calm.admAnswer (h : Calm a s) {q code info} : Calm a (s.admAnswer q code info) := by
  unfold State.admAnswer
  split
  · exact h.setOutc.reply
  · exact h.respond

theorem Calm.admFault (h : Calm a s) {q cause} : Calm a (s.admFault q cause) := by
  unfold State.admFault
  split
  · exact h.reply
  · exact h.respond

theorem Calm.enqueue (h : Calm a s) {r} : Calm a (s.enqueue r) := h.modDie

theorem Calm.becomeReady (h : Calm a s) {x} : Calm a (s.becomeReady x) := by
  unfold State.becomeReady
  split
  · exact h.finishRec
  · exact h.setTrState.setLink.tick.enqueue

theorem Calm.tkenAt (h : Calm a s) {x} : Calm a (s.tkenAt x).1 := by
  unfold State.tkenAt
  dsimp only
  split
  · exact h
  · split
    · exact h
    · split
      · exact h.abandonBad
      · split
        · exact h
        · split
          · exact h.setErr.setOwned.becomeReady
          · exact h.setErr.setOwned.setTrState.setLink.tick

theorem Calm.dropDec (h : Calm a s) {x} : Calm a (s.dropDec x) := h.update

theorem Calm.setDep (h : Calm a s) {x n} : Calm a (s.setDep x n) := h.setRecField

theorem Calm.depZero (h : Calm a s) {x} : Calm a (s.depZero x) := by
  unfold State.depZero
  split
  · exact h.becomeReady
  · exact h.finishRec

theorem Calm.tkdecAt (h : Calm a s) {x k} : Calm a (s.tkdecAt x k).1 := by
  unfold State.tkdecAt
  dsimp only
  split
  · exact h
  · split
    · exact h.dropDec
    · split
      · exact h.abandonBad
      · split
        · exact h.addErr
        · split
          · exact h.setDep.depZero
          · exact h.setDep

theorem Calm.lowerPend (h : Calm a s) {x k} : Calm a (s.lowerPend x k) := h.setPend

theorem Calm.retireAt (h : Calm a s) {x k} : Calm a (s.retireAt x k).1 := by
  unfold State.retireAt
  split
  · exact h.setErr.setPend
  · split
    · exact h
    · exact h.lowerPend

theorem Calm.modEntry (h : Calm a s) {l n f} : Calm a (s.modEntry l n f) := h.modLoad

theorem Calm.putWord (h : Calm a s) {x v} : Calm a (s.putWord x v) := h.setWord.update

theorem Calm.ringPut (h : Calm a s) {l n v} : Calm a (s.ringPut l n v) := by
  unfold State.ringPut
  split
  · exact h
  · split
    · exact h
    · exact h.putWord.modEntry

theorem Calm.qputAt (h : Calm a s) {l n x v} : Calm a (s.qputAt l n x v).1 := by
  unfold State.qputAt
  dsimp only
  split
  · split
    · split
      · exact h
      · exact h.ringPut.setPend
    · split
      · exact h
      · exact h.ringPut.setPend
  · split
    · exact h
    · exact h.ringPut.setPend

theorem Calm.tkstAt (h : Calm a s) {op x} : Calm a (s.tkstAt op x).1 := by
  unfold State.tkstAt
  dsimp only
  split
  · exact h
  · split
    · split
      · exact h
      · split
        · exact h.abandonBad
        · split
          · exact h.setErr.setTrState
          · exact h.setErr.becomeReady
    · split
      · exact h
      · exact h.abandonRec
    · exact h

theorem Calm.admAct (h : Calm a s) {q} : Calm a (s.admAct q) := by
  unfold State.admAct
  dsimp only
  split
  · exact h.tkenAt.admAnswer
  · exact h.tkdecAt.admAnswer
  · split
    · split
      · exact h.retireAt.admAnswer
      · exact h.admFault
    · exact h
  · split
    · split
      · exact h.qputAt.admAnswer
      · exact h.admFault
    · exact h
  · exact h.tkstAt.admAnswer

theorem Calm.admArrive (h : Calm a s) {d x q} : Calm a (s.admArrive d x q) := by
  unfold State.admArrive
  split
  · exact h.modDie.admAnswer
  · exact h.modDie

theorem Calm.answerReads (h : Calm a s) : Calm a s.answerReads := h.update

theorem Calm.cmdStatus (h : Calm a s) {r gid cell code info due} : Calm a (s.cmdStatus r gid cell code info due) := h.setOutc.reply

theorem Calm.redStatus (h : Calm a s) {c code info} : Calm a (s.redStatus c code info) := h.cmdStatus

theorem Calm.redBadState (h : Calm a s) {c} : Calm a (s.redBadState c) := h.tick.redStatus

theorem Calm.drBad (h : Calm a s) : Calm a s.drBad := h.update

theorem Calm.finalise (h : Calm a s) {k p} : Calm a (s.finalise k p) := h.update

theorem Calm.feed (h : Calm a s) {k p q} : Calm a (s.feed k p q) := by
  unfold State.feed
  dsimp only
  split
  · exact h.drBad
  · split
    · split
      · exact h.finalise
      · exact h.update
    · split
      · exact h.finalise
      · exact h.update

theorem Calm.drLate (h : Calm a s) : Calm a s.drLate := h.update

theorem Calm.keepPacket (h : Calm a s) {q} : Calm a (s.keepPacket q) := by
  unfold State.keepPacket
  dsimp only
  split
  · exact h.update
  · exact h.update

theorem Calm.receive1 (h : Calm a s) {q} : Calm a (s.receive1 q) := by
  unfold State.receive1
  split
  · exact h.feed
  · split
    · exact h.drLate
    · exact h.keepPacket

theorem Calm.arm (h : Calm a s) {c} : Calm a (s.arm c) := by
  unfold State.arm
  dsimp only
  split
  · exact h.redBadState
  · split
    · exact h.redStatus
    · split
      · exact h.redStatus.update
      · exact h.redStatus.update.foldl fun _ _ h4 => h4.receive1

theorem Calm.markGone (h : Calm a s) {l slot pkg} : Calm a (s.markGone l slot pkg) := h.modSlot

theorem Calm.trapElem (h : Calm a s) {r t} : Calm a (s.trapElem r t) := by
  unfold State.trapElem
  split
  · exact h
  · split
    · exact h
    · exact h.modElem.modSeq fun _ => rfl

theorem Calm.remSig (h : Calm a s) {x} : Calm a (s.remSig x) := by
  unfold State.remSig
  split
  · exact h.addSig
  · exact h

theorem Calm.giveCredit (h : Calm a s) {r kind n} : Calm a (s.giveCredit r kind n) := h.modMpe

theorem Calm.atomicReply (h : Calm a s) {r gid cell t outcome scope due credit} : Calm a (s.atomicReply r gid cell t outcome scope due credit) := h.setOutc.modGroup.update

theorem Calm.endProbe (h : Calm a s) {die pkg tag cause ws} : Calm a (s.endProbe die pkg tag cause ws) := by
  unfold State.endProbe
  dsimp only
  split
  · exact h
  · split
    · exact h
    · split
      · exact h
      · split
        · exact h.modDie
        · exact h.modDie.abandonRec

theorem Calm.endReprobe (h : Calm a s) {l slot tag cause ws} : Calm a (s.endReprobe l slot tag cause ws) := h.modLoad

theorem Calm.endRemote (h : Calm a s) {x cause ws} : Calm a (s.endRemote x cause ws) := by
  unfold State.endRemote
  dsimp only
  split
  · split
    · refine .reply ?_
      split
      · exact h.markGone
      · exact h
    · split
      · refine .trapElem (.foldl (?_) (fun _ _ h4 => h4.reply))
        split
        · exact h.markGone
        · exact h
      · refine .foldl (?_) (fun _ _ h4 => h4.reply)
        split
        · exact h.markGone
        · exact h
  · refine .giveCredit (.reply ?_)
    split
    · refine .remSig ?_
      split
      · exact h.markGone
      · exact h
    · split
      · split
        · refine .taskErr ?_
          split
          · exact h.markGone
          · exact h
        · split
          · exact h.markGone
          · exact h
      · split
        · exact h.markGone
        · exact h
  · refine .atomicReply ?_
    split
    · split
      · split
        · refine .remSig ?_
          split
          · exact h.markGone
          · exact h
        · split
          · exact h.markGone
          · exact h
      · split
        · refine .remSig ?_
          split
          · exact h.markGone
          · exact h
        · split
          · exact h.markGone
          · exact h
    · split
      · refine .remSig ?_
        split
        · exact h.markGone
        · exact h
      · split
        · exact h.markGone
        · exact h
  · refine .endProbe ?_
    split
    · exact h.markGone
    · exact h
  · refine .endReprobe ?_
    split
    · exact h.markGone
    · exact h

theorem Calm.sendRemote (h : Calm a s) {x op addr cls inc data} : Calm a (s.sendRemote x op addr cls inc data) := h.update

theorem Calm.askRemote (h : Calm a s) {e i c what op} : Calm a (s.askRemote e i c what op) := by
  unfold State.askRemote
  dsimp only
  split
  · exact h.endRemote
  · exact h.update.sendRemote

theorem Calm.writeBack (h : Calm a s) {p} : Calm a (s.writeBack p) := h.update

theorem Calm.dropNodes (h : Calm a s) {l lo hi} : Calm a (s.dropNodes l lo hi) := by
  unfold State.dropNodes
  dsimp only
  split
  · exact h
  · exact h.writeBack

theorem Calm.deliverRow (h : Calm a s) {g q} : Calm a (s.deliverRow g q) := by
  unfold State.deliverRow
  dsimp only
  split
  · split
    · exact h
    · exact h.reply.foldl fun _ _ h3 => h3.reply
  · exact h.foldl fun _ _ h2 => h2.reply

theorem Calm.gdeOpen (h : Calm a s) {d w} : Calm a (s.gdeOpen d w) := h.tick.modDie.update

theorem Calm.gdeRequest (h : Calm a s) {w} : Calm a (s.gdeRequest w) := by
  unfold State.gdeRequest
  dsimp only
  split
  · exact h
  · split
    · exact h.gdeOpen
    · exact h.modDie

theorem Calm.gdeAdmit (h : Calm a s) {d ws} : Calm a (s.gdeAdmit d ws) := h.modDie.foldl fun _ _ h1 => h1.gdeRequest

theorem Calm.gdeDrain (h : Calm a s) {d} : Calm a (s.gdeDrain d) := by
  unfold State.gdeDrain
  split
  · exact h
  · exact h.gdeAdmit

theorem Calm.freeGde (h : Calm a s) {d n} : Calm a (s.freeGde d n) := h.modDie.gdeDrain

theorem Calm.modGde (h : Calm a s) {d id f} : Calm a (s.modGde d id f) := h.modDie

theorem Calm.cancelRow (h : Calm a s) {r lo hi d g} : Calm a (s.cancelRow r lo hi d g) := by
  unfold State.cancelRow
  dsimp only
  split
  · exact (h.foldl (fun _ _ h2 => h2.deliverRow)).freeGde
  · exact (h.foldl (fun _ _ h2 => h2.deliverRow)).modGde

theorem Calm.cancelDefers (h : Calm a s) {r lo hi} : Calm a (s.cancelDefers r lo hi) := by
  unfold State.cancelDefers
  dsimp only
  refine .foldl (?_) (fun _ _ h1 => h1.foldl fun _ _ h2 => h2.cancelRow)
  exact h.foldl fun _ _ h2 => h2.accFail

theorem Calm.unready (h : Calm a s) {x} : Calm a (s.unready x) := h.modDie

theorem Calm.keepTrans (h : Calm a s) {die t} : Calm a (s.keepTrans die t) := h.modDie.update

theorem Calm.sendProbes (h : Calm a s) {die pkgs} : Calm a (s.sendProbes die pkgs) := h.foldl fun _ _ h1 => h1.sendRemote

theorem Calm.beginDispatch (h : Calm a s) {d r x} : Calm a (s.beginDispatch d r x) := by
  unfold State.beginDispatch
  dsimp only
  split
  · exact h.unready.abandonBad
  · split
    · exact h.unready.abandonRec
    · split
      · exact h.unready.keepTrans.abandonTrans
      · split
        · exact h.unready.keepTrans.abandonRec
        · exact h.unready.keepTrans.tick.modDie.sendProbes

theorem Calm.beginDrain (h : Calm a s) {l d reason} : Calm a (s.beginDrain l d reason) := h.modLoad.update

theorem Calm.push (h : Calm a s) {ts} : Calm a (s.push ts) := h.update

theorem Calm.beginPhase (h : Calm a s) {k} : Calm a (s.beginPhase k) := by
  unfold State.beginPhase
  dsimp only
  split
  · split
    · exact h.update.push
    · exact h
  · exact h.push

theorem Calm.beginRetire (h : Calm a s) {l} : Calm a (s.beginRetire l) := h.modLoad

theorem Calm.beginStream (h : Calm a s) {d i} : Calm a (s.beginStream d i) := h.modInstall

theorem Calm.closeGroup (h : Calm a s) {r gid} : Calm a (s.closeGroup r gid) := h.modGroup

theorem Calm.logElem (h : Calm a s) {e} : Calm a (s.logElem e) := h.logSe

theorem Calm.blockChecked (h : Calm a s) {e i} : Calm a (s.blockChecked e i) := by
  unfold State.blockChecked
  dsimp only
  split
  · refine .reply ?_
    split
    · exact h.modMpe.addCell.closeGroup.logElem
    · exact h.modMpe.addCell.closeGroup
  · exact h.modMpe.addCell.closeGroup.cmdStatus
  · exact h.modMpe.addCell.closeGroup.modDie.update

theorem Calm.writeBackSome (h : Calm a s) : Calm a s.writeBackSome := h.update

theorem Calm.putWords (h : Calm a s) {x ws} : Calm a (s.putWords x ws) := by
  induction ws generalizing s x with
  | nil => exact h
  | cons w ws ih => exact ih h.putWord

theorem Calm.cachesGone (h : Calm a s) : Calm a s.cachesGone := (h.writeBackSome.foldl (fun _ _ h1 => h1.putWords)).update

theorem Calm.cancelRemotes (h : Calm a s) {l} : Calm a (s.cancelRemotes l) := by
  unfold State.cancelRemotes
  dsimp only
  refine (h.foldl (fun _ _ h1 => ?_)).update
  split
  · exact h1.addReissue
  · exact h1

theorem Calm.cancelEntry (h : Calm a s) {l d g} : Calm a (s.cancelEntry l d g) := by
  unfold State.cancelEntry
  dsimp only
  split
  · exact (h.foldl (fun _ _ h2 => h2.addReissue)).freeGde
  · exact (h.foldl (fun _ _ h2 => h2.addReissue)).modGde

theorem Calm.cancelRows (h : Calm a s) {l} : Calm a (s.cancelRows l) := h.foldl fun _ _ h1 => h1.foldl fun _ _ h2 => h2.cancelEntry

theorem Calm.cancelReads (h : Calm a s) {l} : Calm a (s.cancelReads l) := (h.foldl (fun _ _ h1 => h1.addReissue)).update

theorem Calm.cancelDeferred (h : Calm a s) {l} : Calm a (s.cancelDeferred l) := h.cancelReads.cancelRows.cancelRemotes

theorem Calm.clearPresent (h : Calm a s) {x} : Calm a (s.clearPresent x) := h.update

theorem Calm.linkEdge (h : Calm a s) : Calm a s.linkEdge := by
  unfold State.linkEdge
  split
  · exact h
  · exact h.update

theorem Calm.clockEdge (h : Calm a s) : Calm a s.clockEdge := by
  unfold State.clockEdge
  dsimp only
  split
  · exact h.linkEdge.update
  · exact h.linkEdge.update

theorem Calm.modCmd (h : Calm a s) {id f} : Calm a (s.modCmd id f) := h.update

theorem Calm.cmdOver (h : Calm a s) {c cause} : Calm a (s.cmdOver c cause) := by
  unfold State.cmdOver
  dsimp only
  split
  · split
    · exact h.modCmd.logSe
    · exact h.modCmd.logSe
  · exact h.modCmd

theorem Calm.cmdSnap (h : Calm a s) {c todo} : Calm a (s.cmdSnap c todo) := h.modCmd.tick

theorem Calm.setEvent (h : Calm a s) {tile bit} : Calm a (s.setEvent tile bit) := h.modSeq fun _ => rfl

theorem Calm.setInstst (h : Calm a s) {tile v} : Calm a (s.setInstst tile v) := h.modSeq fun _ => rfl

theorem Calm.endInstall (h : Calm a s) {d i v} : Calm a (s.endInstall d i v) := h.modDie.setInstst.setEvent

theorem Calm.trapLoad (h : Calm a s) {l src cause reason frame} : Calm a (s.trapLoad l src cause reason frame) := by
  unfold State.trapLoad
  split
  · exact h
  · exact h.foldl fun _ _ h2 => h2.modSeq fun _ => rfl

theorem Calm.commitInstall (h : Calm a s) {d x i p} : Calm a (s.commitInstall d x i p) := by
  unfold State.commitInstall
  dsimp only
  split
  · exact h.update.modDie.endInstall.trapLoad
  · exact h.update.modDie.endInstall

theorem Calm.completeRec (h : Calm a s) {x} : Calm a (s.completeRec x) := by
  unfold State.completeRec
  split
  · exact h.abandonBad
  · exact h.finishRec

theorem Calm.copyWindows (h : Calm a s) {x slot ws} : Calm a (s.copyWindows x slot ws) := by
  unfold State.copyWindows
  refine (h.foldl (fun _ _ h1 => ?_))
  refine (h1.foldl (fun _ _ h2 => ?_))
  split
  · exact h2.putWords
  · exact h2

theorem Calm.copyWrites (h : Calm a s) {c} : Calm a (s.copyWrites c).1 := by
  unfold State.copyWrites
  dsimp only
  split
  · exact h
  · split
    · exact h
    · split
      · split
        · exact h.foldl fun _ _ h5 => h5.putWord.addSig
        · exact h.foldl fun _ _ h5 => h5.putWord.addSig
      · split
        · exact h.foldl fun _ _ h5 => h5.putWord.addSig
        · exact h.foldl fun _ _ h5 => h5.putWord.addSig

theorem Calm.modSpe (h : Calm a s) {r f} : Calm a (s.modSpe r f) := h.modElem

theorem Calm.crossAnswer (h : Calm a s) {r q rep} : Calm a (s.crossAnswer r q rep) := h.modSpe

theorem Calm.modBox (h : Calm a s) {l lt site f} : Calm a (s.modBox l lt site f) := h.update

theorem Calm.setStage (h : Calm a s) {b k f} : Calm a (s.setStage b k f) := h.modBox

theorem Calm.holdTok (h : Calm a s) {b k t} : Calm a (s.holdTok b k t) := by
  unfold State.holdTok
  dsimp only
  split
  · exact h.setStage
  · exact h.setStage.modSeq fun _ => rfl

theorem Calm.goOn (h : Calm a s) {l n lt site src t} : Calm a (s.goOn l n lt site src t) := by
  induction n generalizing s lt site src with
  | zero => exact h
  | succ n ih =>
    unfold State.goOn
    split
    · exact h
    · refine h.foldl fun s k h1 => ?_
      dsimp only
      split
      · exact h1.holdTok
      · split
        · exact h1.setStage
        · split
          · split
            · exact h1.modElem
            · exact h1
          · exact ih h1
          · exact h1.setStage
          · exact h1

theorem Calm.knockOn (h : Calm a s) {l t n lt site src} : Calm a (s.knockOn l t n lt site src) := by
  induction n generalizing s lt site src with
  | zero => exact h
  | succ n ih =>
    unfold State.knockOn
    split
    · exact h
    · refine h.foldl fun s k h1 => ?_
      split
      · exact h1
      · split
        · exact h1.setStage
        · split
          · exact h1
          · split
            · exact ih h1
            · exact h1

theorem Calm.crossOver (h : Calm a s) {n b k} : Calm a (s.crossOver n b k) := by
  unfold State.crossOver
  split
  · split
    · exact h.goOn.setStage
    · split
      · exact h
      · exact h.knockOn
  · exact h

theorem Calm.crossWord (h : Calm a s) {r q x w} : Calm a (s.crossWord r q x w) := by
  unfold State.crossWord
  dsimp only
  split
  · exact h.crossAnswer
  · exact h.crossAnswer.modSpe.trapElem

theorem Calm.serveWord (h : Calm a s) {r x w} : Calm a (s.serveWord r x w) := by
  unfold State.serveWord
  dsimp only
  split
  · exact h
  · refine (h.modElem.foldl (fun _ _ h2 => ?_))
    split
    · exact h2
    · exact h2.modElem

theorem Calm.crossPerform (h : Calm a s) {r e q} : Calm a (s.crossPerform r e q) := by
  unfold State.crossPerform
  dsimp only
  split
  · split
    · exact h.logElem.tick.crossAnswer
    · exact h.crossWord
  · split
    · exact h.logElem.tick.crossAnswer
    · split
      · exact h.crossWord
      · split
        · exact h.tick.crossAnswer
        · split
          · exact h.crossWord
          · exact h.modSpe
  · exact h.modSpe.crossAnswer
  · split
    · exact h.tick.crossAnswer
    · exact h.modSpe.serveWord.crossAnswer

theorem Calm.cveChunk (h : Calm a s) {c p} : Calm a (s.cveChunk c p) := by
  unfold State.cveChunk
  split
  · exact h.cmdOver
  · exact h.modCmd

/-- What a chunk is written to. -/
theorem Calm.putChunk (h : Calm a s) {c ws ks s1 left} (hput : s.putChunk c ws ks = .ok (s1, left)) : Calm a s1 := by
  unfold State.putChunk at hput
  dsimp only at hput
  split at hput
  · exact absurd hput nofun
  · obtain ⟨rfl, -⟩ := Prod.mk.inj (Except.ok.inj hput)
    exact h.foldl fun _ _ h1 => h1.putWord.addSig

theorem Calm.cveWrite (h : Calm a s) {c p rest} : Calm a (s.cveWrite c p rest) := by
  unfold State.cveWrite
  dsimp only
  split
  · exact h.cmdOver
  next hput => exact (h.putChunk hput).modCmd.tick

theorem Calm.decrement (h : Calm a s) {x} : Calm a (s.decrement x) := by
  unfold State.decrement
  dsimp only
  split
  · split
    · exact h.setDep.depZero
    · exact h.setDep
  · split
    · exact h.addErr.dropDec
    · exact h.setDep
  · exact h.dropDec

theorem Calm.densWrite (h : Calm a s) {c ws} : Calm a (s.densWrite c ws) := by
  unfold State.densWrite
  dsimp only
  split
  · exact h.cmdOver
  · split
    · exact h.cmdOver
    next hput => exact (h.putChunk hput).modCmd.tick

theorem Calm.logDetection (h : Calm a s) {l cause xs} : Calm a (s.logDetection l cause xs) := h.foldl fun _ _ h1 => h1.logSe

theorem Calm.modVote (h : Calm a s) {x f} : Calm a (s.modVote x f) := h.modDie

theorem Calm.suspect (h : Calm a s) {tiles x} : Calm a (s.suspect tiles x) := by
  unfold State.suspect
  dsimp only
  split
  · exact h.modVote
  · split
    · split
      · exact h
      · exact h.modDie
    · split
      · exact h
      · exact h.modDie

theorem Calm.openVotes (h : Calm a s) {l p} : Calm a (s.openVotes l p) := by
  unfold State.openVotes
  dsimp only
  split
  · exact h.logDetection
  · split
    · exact h.logDetection
    · refine (h.logDetection.foldl (fun _ _ h3 => ?_))
      split
      · exact h3.suspect
      · exact h3

theorem Calm.releaseTrap (h : Calm a s) {p} : Calm a (s.releaseTrap p) := by
  unfold State.releaseTrap
  split
  · exact h.modElem
  · exact h.modBox
  · exact h

theorem Calm.dropVote (h : Calm a s) {x} : Calm a (s.dropVote x) := h.modDie

theorem Calm.rerun (h : Calm a s) {x} : Calm a (s.rerun x) := h.setTrState.enqueue

theorem Calm.killTask (h : Calm a s) {cause t} : Calm a (s.killTask cause t) := by
  unfold State.killTask
  dsimp only
  split
  · split
    · exact h.dropVote.abandonRec
    · split
      · exact h.push
      · split
        · exact h.modVote.rerun
        · exact h.modVote.rerun
  · exact h.abandonRec

theorem Calm.killLoad (h : Calm a s) {l cause} : Calm a (s.killLoad l cause) := by
  unfold State.killLoad
  dsimp only
  split
  · exact h
  · exact (h.foldl (fun _ _ h2 => h2.killTask)).modLoad.beginRetire

theorem Calm.writeHeader (h : Calm a s) {x} : Calm a (s.writeHeader x) := by
  unfold State.writeHeader
  split
  · exact h.putWords
  · exact h

theorem Calm.requestStop (h : Calm a s) {l d reason} : Calm a (s.requestStop l d reason) := by
  unfold State.requestStop
  dsimp only
  split
  · exact h
  · split
    · split
      · split
        · exact h
        · exact h.beginDrain
      · exact h.beginDrain
    · exact h.modLoad
    · split
      · exact h.killLoad
      · exact h.modLoad.writeHeader
    · exact h.modLoad
    · exact h

theorem Calm.disposeElem (h : Calm a s) {p l c} : Calm a (s.disposeElem p l c) := by
  unfold State.disposeElem
  dsimp only
  split
  · refine .releaseTrap ?_
    split
    · exact h.openVotes
    · exact h
  · split
    · refine .requestStop ?_
      split
      · exact h.openVotes
      · exact h
    · split
      · refine .requestStop ?_
        split
        · exact h.openVotes
        · exact h
      · refine .requestStop ?_
        split
        · exact h.openVotes
        · exact h

theorem Calm.partDone (h : Calm a s) {t l phase} : Calm a (s.partDone t l phase) := by
  unfold State.partDone
  dsimp only
  split
  · exact h
  · split
    · exact h
    · split
      · exact h
      · split
        · exact h.modLoad.writeHeader
        · exact h.modLoad

theorem Calm.killRestore (h : Calm a s) {l v cause} : Calm a (s.killRestore l v cause) := by
  unfold State.killRestore
  dsimp only
  refine .beginRetire (.update (.foldl (?_) (fun _ _ h1 => h1.killTask)))
  split
  · exact h.logSe
  · exact h

theorem Calm.disposeLoad (h : Calm a s) {t l phase c} : Calm a (s.disposeLoad t l phase c) := by
  unfold State.disposeLoad
  split
  · exact h.partDone
  · split
    · exact h
    · split
      · exact h
      · split
        · exact h.killLoad
        · split
          · exact h.killRestore
          · exact h.beginRetire

theorem Calm.sendPacket (h : Calm a s) {port p} : Calm a (s.sendPacket port p) := by
  unfold State.sendPacket
  split
  · exact h.update
  · exact h

theorem Calm.downPacket (h : Calm a s) {g p routed} : Calm a (s.downPacket g p routed) := by
  unfold State.downPacket
  dsimp only
  split
  · split
    · refine (h.foldl (fun _ _ h3 => ?_))
      split
      · exact h3
      · exact h3.sendPacket
    · exact h
  · refine .push ?_
    split
    · refine (h.foldl (fun _ _ h4 => ?_))
      split
      · exact h4
      · exact h4.sendPacket
    · exact h

theorem Calm.dropCmd (h : Calm a s) {id} : Calm a (s.dropCmd id) := h.update

theorem Calm.dropOrphans (h : Calm a s) : Calm a s.dropOrphans := by
  unfold State.dropOrphans
  exact h.writeBack

theorem Calm.dropRegion (h : Calm a s) {c} : Calm a (s.dropRegion c) := by
  unfold State.dropRegion
  dsimp only
  split
  · split
    · exact h.writeBack
    · exact h
  · exact h

theorem Calm.dropRemote (h : Calm a s) {tag} : Calm a (s.dropRemote tag) := h.update

theorem Calm.emitCell (h : Calm a s) {r gid} : Calm a (s.emitCell r gid) := by
  unfold State.emitCell
  dsimp only
  split
  · exact h
  · split
    · exact h
    · split
      · exact h
      · split
        · exact h
        · split
          · split
            · exact h.modElem
            · exact h
          · exact h.modElem.trapElem
          · exact h

theorem Calm.emitPacket (h : Calm a s) {g p} : Calm a (s.emitPacket g p) := by
  unfold State.emitPacket
  dsimp only
  split
  · exact h.sendPacket
  · split
    · refine (h.foldl (fun _ _ h3 => ?_))
      split
      · exact h3.push
      · exact h3.sendPacket
    · split
      · exact h.push
      · exact h.update

theorem Calm.succeedInto (h : Calm a s) {x} : Calm a (s.succeedInto x) := by
  unfold State.succeedInto
  split
  · exact h
  · split
    · exact h.abandonBad
    · exact h.decrement

theorem Calm.failInto (h : Calm a s) {x task cause} : Calm a (s.failInto x task cause) := by
  unfold State.failInto
  split
  · exact h.addErr
  · split
    · split
      · exact h.abandonBad
      · exact h.addErr.setTrState
    · exact h.addErr
    · exact h.dropDec.addErr

theorem Calm.cmdWrite (h : Calm a s) {c ws s1} (hput : s.cmdWrite c ws = .ok s1) : Calm a s1 := by
  unfold State.cmdWrite at hput
  obtain ⟨as, -, hok⟩ := except_bind_ok hput
  obtain rfl := Except.ok.inj hok
  exact h.foldl fun _ _ h1 => h1.putWord.addSig

theorem Calm.endCmd (h : Calm a s) {c word result} : Calm a (s.endCmd c word result) := by
  have hended {s1 : State} (h1 : Calm a s1) (cause : Nat) :
      Calm a (if cause = 0 then s1.succeedInto c.handle else s1.failInto c.handle c.task cause) := by
    split
    · exact h1.succeedInto
    · exact h1.failInto
  unfold State.endCmd
  dsimp only
  split
  next hput => exact (hended (h.cmdWrite hput) _).lowerPend.update
  · exact (hended h _).lowerPend.update

theorem Calm.startSteps (h : Calm a s) {l xs} : Calm a (s.startSteps l xs) := h.update

theorem Calm.endDispatch (h : Calm a s) {d p} : Calm a (s.endDispatch d p) := by
  unfold State.endDispatch
  dsimp only
  split
  · exact h.modDie.becomeReady
  · split
    · exact h.modDie.becomeReady
    · split
      · exact h.modDie.abandonTrans
      · refine .setPend (.setTrState (.copyWindows (.modLoad ?_)))
        split
        · exact h.modDie.startSteps
        · exact h.modDie

theorem Calm.endExecution (h : Calm a s) {v sig tiles} : Calm a (s.endExecution v sig tiles) := by
  unfold State.endExecution
  dsimp only
  split
  · exact h.push
  · split
    · exact h.modVote.rerun
    · split
      · exact h.modVote.rerun
      · split
        · split
          · exact h.modVote.push
          · exact h.modVote.modVote.rerun
        · exact h.modVote.push

theorem Calm.failHandle (h : Calm a s) {x cause} : Calm a (s.failHandle x cause) := by
  unfold State.failHandle
  split
  · exact h
  · split
    · split
      · exact h.abandonBad
      · exact h.addErr.setTrState
    · exact h.addErr
    · exact h.dropDec

theorem Calm.endPlace (h : Calm a s) {k p} : Calm a (s.endPlace k p) := by
  unfold State.endPlace
  dsimp only
  refine .update ?_
  split
  · split
    · exact h.putWord.succeedInto
    · exact h.failHandle
  · refine .failHandle ?_
    split
    · exact h.putWord
    · exact h

theorem Calm.imgDone (h : Calm a s) {t x} : Calm a (s.imgDone t x) := (h.modSeq (f := fun q => { q with tc := x.tc }) fun _ => rfl).update

theorem Calm.refuseInstall (h : Calm a s) {d i cause sec site item amount} : Calm a (s.refuseInstall d i cause sec site item amount) := by
  unfold State.refuseInstall
  dsimp only
  split
  · exact h.endInstall.abandonReady
  · exact h.endInstall

theorem Calm.logRead (h : Calm a s) {t cause} : Calm a (s.logRead t cause) := by
  unfold State.logRead
  split
  · exact h.logSe
  · exact h

theorem Calm.endStream (h : Calm a s) {d i} : Calm a (s.endStream d i) := by
  unfold State.endStream
  dsimp only
  split
  · split
    · exact h.imgDone.refuseInstall
    · split
      · exact h.imgDone.logRead.refuseInstall
      · exact h.imgDone.modInstall
  · exact h

theorem Calm.endTrav (h : Calm a s) {r x rep} : Calm a (s.endTrav r x rep) := by
  unfold State.endTrav
  dsimp only
  split
  · exact h.modMpe.reply
  · exact h.modMpe.addCell.closeGroup

theorem Calm.leave (h : Calm a s) {n b k t} : Calm a (s.leave n b k t) := by
  unfold State.leave
  split
  · split
    · exact h.modElem
    · exact h
  · exact h.goOn
  · exact h.setStage
  · exact h

theorem Calm.knockFrom (h : Calm a s) {n b k t} : Calm a (s.knockFrom n b k t) := by
  unfold State.knockFrom
  split
  · exact h
  · split
    · exact h.knockOn
    · exact h

theorem Calm.enterHeld (h : Calm a s) {n b k} : Calm a (s.enterHeld n b k) := by
  unfold State.enterHeld
  dsimp only
  split
  · exact h
  · split
    · exact h
    · split
      · split
        · exact h.setStage
        · split
          · exact h
          · exact h.setStage
      · split
        · exact h.leave.setStage
        · exact h.knockFrom

theorem Calm.escape (h : Calm a s) {e} : Calm a (s.escape e) := by
  unfold State.escape
  dsimp only
  split
  · exact h.modElem
  · exact h.modElem.push

theorem Calm.failCell (h : Calm a s) {r gid cause va credit} : Calm a (s.failCell r gid cause va credit) := h.addCell

theorem Calm.xlated (h : Calm a s) {t x} : Calm a (s.xlated t x) := (h.modSeq (f := fun q => { q with tc := x.tc }) fun _ => rfl).update

theorem Calm.freeSlot (h : Calm a s) {l k} : Calm a (s.freeSlot l k) := h.modLoad.update

theorem Calm.fromOutput (h : Calm a s) {l n lt site k} : Calm a (s.fromOutput l n lt site k) := by
  unfold State.fromOutput
  split
  · exact h
  · split
    · exact h
    · split
      · exact h.goOn.modElem
      · split
        · exact h.knockOn
        · exact h

theorem Calm.homeClear (h : Calm a s) {x} : Calm a (s.homeClear x).1 := by
  unfold State.homeClear
  split
  · exact h
  · exact h.putWord.clearPresent

theorem Calm.serveGde (h : Calm a s) {x v} : Calm a (s.serveGde x v) := h.update

theorem Calm.serveRemote (h : Calm a s) {x v} : Calm a (s.serveRemote x v) := h.update.answerReads

theorem Calm.serve (h : Calm a s) {x v} : Calm a (s.serve x v) := (h.foldl (fun _ _ h1 => h1.accReply)).serveRemote.serveGde

theorem Calm.setPresent (h : Calm a s) {x} : Calm a (s.setPresent x) := h.update

theorem Calm.homeWrite (h : Calm a s) {x cls v} : Calm a (s.homeWrite x cls v).1 := by
  unfold State.homeWrite
  split
  · exact h
  · split
    · split
      · exact h
      · exact h.putWord.setPresent.serve
    · exact h.putWord

theorem Calm.hostRead (h : Calm a s) {x} : Calm a (s.hostRead x).1 := by
  unfold State.hostRead
  split
  · exact h
  · split
    · exact h.logSe.tick
    · exact h

theorem Calm.hostReads (h : Calm a s) {as} : Calm a (s.hostReads as).1 := by
  induction as generalizing s with
  | nil => exact h
  | cons x as ih => exact ih h.hostRead

theorem Calm.hostWrite (h : Calm a s) {x v} : Calm a (s.hostWrite x v) := by
  unfold State.hostWrite
  split
  · exact h
  · exact h.putWord.setPresent.serve

theorem Calm.invalidate (h : Calm a s) {lo hi} : Calm a (s.invalidate lo hi) :=
  h.mapSeqs (f := fun q => { q with tc := q.tc.filter fun c => !c.meets lo hi }) (fun _ => rfl) rfl rfl

theorem Calm.issueAcc (h : Calm a s) {e gid op slot va c credit} : Calm a (s.issueAcc e gid op slot va c credit) := h.addCell.update

theorem Calm.issueOne (h : Calm a s) {e gid op x k credit} : Calm a (s.issueOne e gid op x k credit).1 := by
  unfold State.issueOne
  dsimp only
  split
  · exact h.issueAcc
  · exact h.failCell

theorem Calm.issueLd (h : Calm a s) {e i} : Calm a (issueLd s e i) := h.issueOne.closeGroup

theorem Calm.issueWords (h : Calm a s) {e gid x credit cs k} : Calm a (s.issueWords e gid x credit cs k) := by
  induction cs generalizing s k with
  | nil => exact h
  | cons c cs ih => exact ih h.issueAcc

theorem Calm.issueLdf (h : Calm a s) {e i} : Calm a (issueLdf s e i) := by
  unfold Sys2Proof.Machine.issueLdf
  dsimp only
  refine .closeGroup ?_
  split
  · exact h.addCell.modGroup.failCell.giveCredit
  · exact h.addCell.modGroup.issueWords.giveCredit

theorem Calm.issueWld (h : Calm a s) {e i} : Calm a (issueWld s e i) := by
  unfold Sys2Proof.Machine.issueWld
  dsimp only
  refine .closeGroup ?_
  split
  · exact h.issueWords
  · exact h.failCell.giveCredit

theorem Calm.issuePld (h : Calm a s) {e i} : Calm a (issuePld s e i) := h.addCell.closeGroup

theorem Calm.issueStore (h : Calm a s) {e gid op x k} : Calm a (s.issueStore e gid op x k).1 := by
  unfold State.issueStore
  split
  next hs0 =>
    split
    · exact h.issueOne.ofEq hs0
    · exact (h.issueOne.ofEq hs0).giveCredit

theorem Calm.issueSt (h : Calm a s) {e i} : Calm a (issueSt s e i) := h.issueStore.closeGroup

theorem Calm.issueClr (h : Calm a s) {e i} : Calm a (issueClr s e i) := h.issueStore.closeGroup

theorem Calm.issueFence (h : Calm a s) {e i} : Calm a (issueFence s e i) := h.addCell.closeGroup

theorem Calm.laneCells (h : Calm a s) {r gid n} : Calm a (s.laneCells r gid n).1 := by
  induction n generalizing s with
  | zero => exact h
  | succ n ih => exact ih h.addCell

theorem Calm.issueLane (h : Calm a s) {e i p} : Calm a (s.issueLane e i p) := by
  unfold State.issueLane
  dsimp only
  split
  · exact h.addCell
  · exact h.laneCells.gdeRequest

theorem Calm.issueGld (h : Calm a s) {e i} : Calm a (issueGld s e i) := by
  unfold Sys2Proof.Machine.issueGld
  dsimp only
  refine .closeGroup ?_
  split
  · exact h.foldl fun _ _ h3 => h3.issueLane
  · exact (h.addCell.foldl (fun _ _ h3 => h3.issueLane)).giveCredit

theorem Calm.issueSst (h : Calm a s) {e i} : Calm a (issueSst s e i) := by
  unfold Sys2Proof.Machine.issueSst
  dsimp only
  refine .closeGroup ?_
  split
  · exact h.issueAcc
  · exact h.failCell.giveCredit

theorem Calm.issueAstwr (h : Calm a s) {e i} : Calm a (issueAstwr s e i) := by
  unfold Sys2Proof.Machine.issueAstwr
  dsimp only
  refine .closeGroup ?_
  split
  · split
    · exact h.issueStore.addCell
    · exact h.issueStore
  · exact h.issueStore.modMpe

theorem Calm.wordCells (h : Calm a s) {r gid n} : Calm a (s.wordCells r gid n).1 := by
  induction n generalizing s with
  | zero => exact h
  | succ n ih => exact ih h.addCell

theorem Calm.issueRld (h : Calm a s) {e i} : Calm a (issueRld s e i) := by
  unfold Sys2Proof.Machine.issueRld
  dsimp only
  refine .closeGroup ?_
  split
  · exact h.failCell.giveCredit
  · split
    · exact h.issueWords
    · exact h.wordCells.askRemote

theorem Calm.issueRst (h : Calm a s) {e i} : Calm a (issueRst s e i) := by
  unfold Sys2Proof.Machine.issueRst
  dsimp only
  refine .closeGroup ?_
  split
  · refine .giveCredit (.failCell ?_)
    split
    · exact h.taskErr
    · exact h
  · split
    · exact h.issueAcc
    · exact h.addCell.askRemote

theorem Calm.issuePoint (h : Calm a s) {e i k v credit} : Calm a (s.issuePoint e i k v credit) := by
  unfold State.issuePoint
  dsimp only
  split
  · split
    · exact h.addCell.atomicReply.giveCredit
    · split
      · exact h.failCell.closeGroup.giveCredit
      · exact h.failCell.closeGroup
  · exact h.issueAcc.modAcc.closeGroup

theorem Calm.issueTrav (h : Calm a s) {e i form} : Calm a (s.issueTrav e i form) := by
  unfold State.issueTrav
  dsimp only
  split
  · exact h.failCell.closeGroup
  · refine .modMpe (.tick ?_)
    split
    · exact h.addCell.closeGroup
    · exact h

theorem Calm.issueArbor (h : Calm a s) {e i} : Calm a (issueArbor s e i) := by
  unfold Sys2Proof.Machine.issueArbor
  split
  · exact h.issuePoint
  · exact h.issuePoint
  · exact h.issuePoint
  · exact h.issuePoint
  · exact h.issueTrav
  · exact h.issueTrav

theorem Calm.sendAdm (h : Calm a s) {q die home} : Calm a (s.sendAdm q die home) := h.modDie.update

theorem Calm.issueTask (h : Calm a s) {e i} : Calm a (issueTask s e i) := h.addCell.closeGroup.sendAdm

theorem Calm.issueAtomic (h : Calm a s) {e i} : Calm a (issueAtomic s e i) := by
  unfold Sys2Proof.Machine.issueAtomic
  dsimp only
  split
  · exact h.addCell.atomicReply
  · split
    · exact h.issueAcc.closeGroup
    · exact h.addCell.askRemote

theorem Calm.issue (h : Calm a s) {e i} : Calm a (s.issue e i) := by
  unfold State.issue
  split
  · exact h.issueLd
  · exact h.issueLdf
  · exact h.issueWld
  · exact h.issuePld
  · exact h.issueSt
  · exact h.issueSt
  · exact h.issueClr
  · exact h.issueClr
  · exact h.issueFence
  · exact h.issueGld
  · exact h.issueSst
  · exact h.issueAstwr
  · exact h.issueRld
  · exact h.issueRst
  · exact h.issueRst
  · exact h.issueArbor
  · exact h.issueArbor
  · exact h.issueArbor
  · exact h.issueArbor
  · exact h.issueArbor
  · exact h.issueArbor
  · exact h.issueTask
  · exact h.issueTask
  · exact h.issueTask
  · exact h.issueTask
  · exact h.issueTask
  · exact h.issueTask
  · exact h.issueTask
  · split
    · exact h.issueAtomic
    · exact h

theorem Calm.issueSeq (h : Calm a s) {t op pa va} : Calm a (s.issueSeq t op pa va) := h.update

theorem Calm.logRef (h : Calm a s) {r} : Calm a (s.logRef r) := by
  unfold State.logRef
  split
  · exact h.logElem
  · exact h

theorem Calm.logVote (h : Calm a s) {kind x tiles} : Calm a (s.logVote kind x tiles) := h.foldl fun _ _ h1 => h1.logSe

theorem Calm.makeChoice (h : Calm a s) {d} : Calm a (s.makeChoice d) := by
  unfold State.makeChoice
  dsimp only
  split
  · exact h.modDie
  · split
    · exact h.modDie.setEvent
    · exact h.modDie

theorem Calm.markStanding (h : Calm a s) {l} : Calm a (s.markStanding l) := h.update

theorem Calm.memoryLost (h : Calm a s) : Calm a s.memoryLost := ⟨h.cores, fun _ => rfl⟩

theorem Calm.modInst (h : Calm a s) {group seq f} : Calm a (s.modInst group seq f) := h.update

theorem Calm.modReading (h : Calm a s) {q f} : Calm a (s.modReading q f) := h.update

theorem Calm.modTrav (h : Calm a s) {r gid f} : Calm a (s.modTrav r gid f) := h.modMpe

theorem Calm.passOne (h : Calm a s) {n b k} : Calm a (s.passOne n b k) := by
  unfold State.passOne
  dsimp only
  split
  · exact h.setStage
  · split
    · exact h.setStage
    · split
      · exact h.setStage.leave.setStage
      · exact h.setStage.knockFrom

theorem Calm.passOrder (h : Calm a s) {r pass due} : Calm a (s.passOrder r pass due) := by
  unfold State.passOrder
  split
  · exact h
  · exact h.modMpe

theorem Calm.storeN (h : Calm a s) {pa n v} : Calm a (s.storeN pa n v) := by
  unfold State.storeN
  dsimp only
  split
  · exact h.writeN.update
  · exact h.writeN

theorem Calm.performRead (h : Calm a s) {w} : Calm a (s.performRead w) := by
  unfold State.performRead
  dsimp only
  split
  · exact h.modAcc
  · split
    · exact h.accFail.logRef
    · split
      · split
        · exact h.dropAcc.update
        · exact h.accFail
      · exact h.accReply

theorem Calm.writeDone (h : Calm a s) {w cause} : Calm a (s.writeDone w cause) := by
  unfold State.writeDone
  dsimp only
  split
  · refine .passOrder (.giveCredit ?_)
    split
    · exact h.accFail
    · exact h.addSig.accReply
  · refine .giveCredit ?_
    split
    · exact h.accFail
    · exact h.addSig.accReply

theorem Calm.performWrite (h : Calm a s) {w v} : Calm a (s.performWrite w v) := by
  unfold State.performWrite
  split
  next hs0 =>
    exact (h.homeWrite.ofEq hs0).writeDone

theorem Calm.performHalf (h : Calm a s) {w v} : Calm a (s.performHalf w v) := by
  unfold State.performHalf
  dsimp only
  split
  · exact h.writeDone.logRef
  · exact h.homeWrite.writeDone

theorem Calm.rowWord (h : Calm a s) {d id k} : Calm a (s.rowWord d id k) := by
  unfold State.rowWord
  dsimp only
  split
  · exact h
  · split
    · exact h
    · split
      · exact h.modGde
      · refine .modGde ?_
        split
        · exact h.foldl fun _ _ h6 => h6.logRef
        · exact h

theorem Calm.performRow (h : Calm a s) {d g} : Calm a (s.performRow d g) := (h.foldl (fun _ _ h1 => h1.rowWord)).tick

theorem Calm.placeDrain (h : Calm a s) {r seq lo hi} : Calm a (s.placeDrain r seq lo hi) := h.update

theorem Calm.placeWrites (h : Calm a s) {k p} : Calm a (s.placeWrites k p) := by
  unfold State.placeWrites
  dsimp only
  split
  · exact h.update
  · exact (h.foldl (fun _ _ h2 => h2.putWord)).update.tick

theorem Calm.useOp (h : Calm a s) {d} : Calm a (s.useOp d) := h.modDie

theorem Calm.placeTurn (h : Calm a s) {k} : Calm a (s.placeTurn k) := by
  unfold State.placeTurn
  split
  · exact h
  · split
    · exact h
    · split
      · exact h.placeWrites
      · split
        · exact h.endPlace
        · split
          · exact h
          · exact h.useOp.endPlace

theorem Calm.pump (h : Calm a s) {l n lt site src} : Calm a (s.pump l n lt site src) := by
  induction n generalizing s lt site src with
  | zero => exact h
  | succ n ih =>
    unfold State.pump
    split
    · exact h
    · refine h.foldl fun s k h1 => ?_
      refine .enterHeld (.passOne (.crossOver ?_))
      split
      · exact ih h1
      · exact ih h1
      · exact h1

theorem Calm.putBox (h : Calm a s) {b} : Calm a (s.putBox b) := by
  unfold State.putBox
  split
  · exact h.modBox
  · exact h.update

theorem Calm.putElem (h : Calm a s) {e} : Calm a (s.putElem e) := by
  unfold State.putElem
  split
  · exact h.modElem
  · exact h.update

theorem Calm.raiseAgain (h : Calm a s) {l lt x} : Calm a (s.raiseAgain l lt x) := by
  unfold State.raiseAgain
  dsimp only
  split
  · split
    · split
      · exact h
      · exact h.modBox.modSeq fun _ => rfl
    · exact h
  · exact h.trapElem

theorem Calm.raiseHalts (h : Calm a s) {x frame} : Calm a (s.raiseHalts x frame) := h.foldl fun _ _ h1 => h1.foldl fun _ _ h2 => h2.raiseAgain

theorem Calm.reqAgain (h : Calm a s) {q} : Calm a (s.reqAgain q) := h.update

theorem Calm.readBlock (h : Calm a s) {e i} : Calm a (s.readBlock e i) := h.modMpe.tick

theorem Calm.sendRep (h : Calm a s) {q cause ws} : Calm a (s.sendRep q cause ws) := h.update

theorem Calm.tryPlace (h : Calm a s) {d i} : Calm a (s.tryPlace d i) := by
  unfold State.tryPlace
  dsimp only
  split
  · split
    · exact h.modInstall
    · split
      · exact (h.foldl (fun _ _ h4 => h4.beginRetire)).modInstall
      · split
        · split
          · exact h.modInstall.push
          · exact h.modInstall
        · exact h.modInstall
  · exact h

theorem Calm.readHeader (h : Calm a s) {d i} : Calm a (s.readHeader d i) := by
  unfold State.readHeader
  dsimp only
  split
  · exact h
  · split
    · exact h.imgDone.refuseInstall
    · split
      · exact h.imgDone.logRead.refuseInstall
      · exact h.imgDone.modInstall.tryPlace

theorem Calm.readInto (h : Calm a s) {e gid cell x c} : Calm a (s.readInto e gid cell x c) := h.tick.update

theorem Calm.reemit (h : Calm a s) {r dst} : Calm a (s.reemit r dst) := by
  unfold State.reemit
  dsimp only
  split
  · exact h
  · exact h.modMpe.update

theorem Calm.refillEntry (h : Calm a s) {l frame n} : Calm a (s.refillEntry l frame n) := h.modEntry.foldl fun _ _ h1 => h1.ringPut

theorem Calm.reissue (h : Calm a s) {r x} : Calm a (s.reissue r x) := by
  unfold State.reissue
  dsimp only
  split
  · exact h
  · split
    · split
      · exact h.gdeRequest
      · exact h.reply.foldl fun _ _ h4 => h4.reply
    · split
      · exact h.reply
      · split
        · exact h.foldl fun _ _ h5 => h5.readInto
        · exact h.askRemote
    · split
      · exact h.readInto
      · exact h.reply

theorem Calm.reissueAll (h : Calm a s) {e} : Calm a (s.reissueAll e) := h.modMpe.foldl fun _ _ h1 => h1.reissue

theorem Calm.wakeElems (h : Calm a s) {l v} : Calm a (s.wakeElems l v) := h.update

theorem Calm.resumeTrav (h : Calm a s) {e x} : Calm a (s.resumeTrav e x) := by
  unfold State.resumeTrav
  dsimp only
  split
  · split
    · exact h.modTrav
    · exact h.endTrav
  · split
    · exact h.modTrav
    · exact h.endTrav

theorem Calm.replay (h : Calm a s) {r x} : Calm a (s.replay r x) := by
  unfold State.replay
  dsimp only
  split
  · exact h
  · refine .modMpe ?_
    split
    · exact h.modMpe.update.issueWld
    · exact h.modMpe.update.issueRld
    · exact h.modMpe.update.issueLane.closeGroup
    · exact h.modMpe.update.issueLd

theorem Calm.replayElem (h : Calm a s) {e} : Calm a (s.replayElem e) := by
  unfold State.replayElem
  dsimp only
  refine .modMpe ?_
  split
  · split
    · exact h
    · exact h.reemit
  · exact (h.foldl (fun _ _ h3 => h3.replay)).reemit.replay

theorem Calm.releaseAll (h : Calm a s) {x v} : Calm a (s.releaseAll x v) := by
  unfold State.releaseAll
  dsimp only
  refine .raiseHalts (.foldl (?_) (fun _ _ h1 => h1.replayElem))
  refine .foldl (?_) (fun _ _ h2 => h2.reissueAll.foldl fun _ _ h3 => h3.resumeTrav)
  exact h.wakeElems.foldl fun _ _ h3 => h3.modBox

theorem Calm.releaseInst (h : Calm a s) {x} : Calm a (s.releaseInst x) := h.modInst

theorem Calm.removeLoad (h : Calm a s) {l} : Calm a (s.removeLoad l) :=
  h.mapSeqs (f := fun q => { q with pend := q.pend.filter fun p => !p.ofLoad l }) (fun _ => rfl) rfl rfl

theorem Calm.renewSlots (h : Calm a s) {x k ts} : Calm a (s.renewSlots x k ts).1 := by
  induction ts generalizing s k with
  | nil => exact h
  | cons t ts ih =>
    cases t with
    | none => exact ih h
    | some t =>
      unfold State.renewSlots
      dsimp only
      split
      · exact h.keepTrans
      · exact ih h.keepTrans.copyWindows

theorem Calm.reqWord (h : Calm a s) {q k} : Calm a (s.reqWord q k) := by
  unfold State.reqWord
  dsimp only
  split
  · exact h
  · split
    · exact h
    · split
      · exact h.modReading
      · refine .sendRep ?_
        split
        · exact h.update.logSe
        · exact h.update

theorem Calm.reqRead (h : Calm a s) {q} : Calm a (s.reqRead q) := by
  unfold State.reqRead
  dsimp only
  split
  · exact h
  · split
    · exact (h.foldl (fun _ _ h3 => h3.reqWord)).tick.answerReads.reqAgain
    · exact (h.foldl (fun _ _ h3 => h3.reqWord)).tick.answerReads

/-- An atomic leaves memory written or the same. -/
theorem Calm.atomicAt (h : Calm a s) {x op lane b} : Calm a (s.atomicAt x op lane b).s := by
  unfold State.atomicAt
  split
  · exact h
  · dsimp only
    split
    · split
      · exact h
      · exact h.putWord
    · exact h

theorem Calm.reqPerform (h : Calm a s) {q} : Calm a (s.reqPerform q) := by
  unfold State.reqPerform
  split
  · exact h.update.reqRead
  · exact h.homeWrite.sendRep
  · have hdone {op lane} := (h.useOp (d := homeDie q.addr)).atomicAt (x := q.addr) (op := op) (lane := lane) (b := q.data)
    have hlogged {c : Prop} [Decidable c] {op lane} : Calm a (if c then
        ((s.useOp (homeDie q.addr)).atomicAt q.addr op lane q.data).s.logSe 6 0 0 0
      else ((s.useOp (homeDie q.addr)).atomicAt q.addr op lane q.data).s) := by
      split
      · exact hdone.logSe
      · exact hdone
    dsimp only
    split
    · exact hlogged.sendRep
    · exact hlogged.sendRep
  · exact h.sendRep

theorem Calm.resumeLoad (h : Calm a s) {l} : Calm a (s.resumeLoad l) := (h.foldl (fun _ _ h1 => h1.reissueAll)).modLoad.update

theorem Calm.retireFor (h : Calm a s) {l tile} : Calm a (s.retireFor l tile) := h.modLoad

theorem Calm.saveNoframe (h : Calm a s) {x} : Calm a (s.saveNoframe x) := by
  unfold State.saveNoframe
  split
  · exact h.resumeLoad
  · exact h.killLoad

theorem Calm.sendClose (h : Calm a s) {g x bits} : Calm a (s.sendClose g x bits) := h.emitPacket

theorem Calm.sendMember (h : Calm a s) {g p} : Calm a (s.sendMember g p) := by
  unfold State.sendMember
  split
  · exact h.sendPacket
  · exact h.push

theorem Calm.sendReport (h : Calm a s) {m n ws} : Calm a (s.sendReport m n ws) := by
  induction n generalizing s ws with
  | zero => exact h.respond
  | succ n ih =>
    unfold State.sendReport
    split
    · exact h.respond
    · exact ih h.sendResp.tick

theorem Calm.sendReprobes (h : Calm a s) {l ps} : Calm a (s.sendReprobes l ps) := by
  unfold State.sendReprobes
  refine (h.modLoad.foldl (fun _ _ h1 => ?_))
  split
  · exact h1
  · exact h1.modLoad.sendRemote

theorem Calm.sendValue (h : Calm a s) {g x} : Calm a (s.sendValue g x) := h.emitPacket.modInst

theorem Calm.seqWrites (h : Calm a s) {t va ws} : Calm a (s.seqWrites t va ws).1 := by
  induction ws generalizing s va with
  | nil => exact h
  | cons w ws ih =>
    unfold State.seqWrites
    split
    · exact h
    · dsimp only
      split
      · exact h.xlated.logRead
      · split
        · exact h.xlated
        · exact ih h.xlated.storeN

theorem Calm.settle (h : Calm a s) {g group seq value} : Calm a (s.settle g group seq value) := by
  unfold State.settle
  dsimp only
  split
  · exact h
  · split
    · split
      · exact h.sendValue
      · exact h
    · split
      · refine .releaseInst ?_
        split
        · split
          · exact h.sendValue
          · exact h
        · refine .sendClose ?_
          split
          · exact h.sendValue
          · exact h
      · split
        · exact h.sendValue
        · exact h

theorem Calm.skipSilent (h : Calm a s) {r gid n} : Calm a (s.skipSilent r gid n) := by
  induction n generalizing s with
  | zero => exact h
  | succ n ih =>
    unfold State.skipSilent
    split
    · exact h
    · split
      · exact h
      · split
        · split
          · exact ih h.modElem
          · exact h
        · exact h

theorem Calm.upPacket (h : Calm a s) {g p k} : Calm a (s.upPacket g p k) := by
  unfold State.upPacket
  dsimp only
  split
  · exact h
  · split
    · split
      · exact h
      · exact h.modInst.settle
    · split
      · exact h
      · exact h.modInst.settle

theorem Calm.openInst (h : Calm a s) {g p s1} (hopen : s.openInst g p = some s1) : Calm a s1 := by
  unfold State.openInst at hopen
  dsimp only at hopen
  split at hopen
  · obtain rfl := Option.some.inj hopen
    exact h.update
  · exact absurd hopen nofun

theorem Calm.takePacket (h : Calm a s) {p routed} : Calm a (s.takePacket p routed) := by
  unfold State.takePacket
  split
  · exact h
  · split
    · exact h.drBad
    · split
      · exact h.drBad
      · split
        · exact h.downPacket
        · split
          · exact h.drBad
          · split
            · exact h.drBad
            · split
              · split
                · exact h.drLate
                · split
                  · exact h.drBad
                  · exact h.upPacket
              · split
                · exact h.drLate
                next hopen => exact (h.openInst hopen).upPacket

theorem Calm.tinvComplete (h : Calm a s) {t n} : Calm a (s.tinvComplete t n) :=
  (h.modSeq (f := fun q => { q with tinvdone := BitVec.ofNat 40 n, tinvs := q.tinvs.filter fun x => decide (x.1 ≠ n) })
    fun _ => rfl).setEvent

theorem Calm.useEnd (h : Calm a s) {c} : Calm a (s.useEnd c) := h.foldl fun _ _ h1 => h1.useOp

theorem Calm.wantChoice (h : Calm a s) {d} : Calm a (s.wantChoice d) := h.modDie

theorem Calm.writeImage (h : Calm a s) {x frame} : Calm a (s.writeImage x frame) := h.writeHeader.foldl fun _ _ h1 => h1.putWords

theorem Calm.commit (h : Calm a s) {e0 n f stall starve x} : Calm a (commit s e0 n f stall starve x) := by
  unfold Sys2Proof.Machine.commit
  dsimp only
  split
  · refine .push ?_
    split
    · refine .trapElem (.foldl (.update ?_) (fun _ _ h4 => h4.modElem))
      split
      · exact h.modElem.logElem
      · exact h.modElem
    · refine .foldl (.update ?_) (fun _ _ h4 => h4.modElem)
      split
      · exact h.modElem.logElem
      · exact h.modElem
  · split
    · refine .trapElem (.foldl (.update ?_) (fun _ _ h3 => h3.modElem))
      split
      · exact h.modElem.logElem
      · exact h.modElem
    · refine .foldl (.update ?_) (fun _ _ h3 => h3.modElem)
      split
      · exact h.modElem.logElem
      · exact h.modElem

end Sys2Proof.Machine
end

section
/-! SUPPORT. What the operations of the arbor walker leave of an arbor (R312, R315): the machine that it was read from, its
place, its formats and its size. -/

namespace Sys2Proof.Machine

open Sys2Proof Sys2Proof.Safety

/-- What an operation leaves of an arbor. -/
def Arb.base (t : Arb) : State × Nat × Nat × Nat × List Nat × Nat := (t.s, t.hdr, t.vfmt, t.ndim, t.ws, t.nn)

/-- A step of an operation answers, if it answers, an arbor with the base of t. -/
def KeepsBase (t : Arb) (x : Except AErr Arb) : Prop := ∀ t1, x = .ok t1 → t1.base = t.base

variable {t u : Arb}

theorem KeepsBase.ok (h : u.base = t.base) : KeepsBase t (.ok u) := by
  intro t1 ht
  rw [← Except.ok.inj ht, h]

theorem KeepsBase.error {x : AErr} : KeepsBase t (.error x) := fun _ h => absurd h nofun

theorem KeepsBase.of (h : u.base = t.base) {x : Except AErr Arb} (hx : KeepsBase u x) : KeepsBase t x :=
  fun t1 ht => (hx t1 ht).trans h

theorem KeepsBase.bind {α : Type} {x : Except AErr α} {f : α → Except AErr Arb}
    (hf : ∀ y, x = .ok y → KeepsBase t (f y)) : KeepsBase t (x >>= f) := by
  cases x with
  | error e => exact .error
  | ok y => exact hf y rfl

/-- A check that has passed. -/
theorem except_guard_ok {ε β : Type} {c : Prop} [Decidable c] {e : ε} {k : PUnit → Except ε β} {y : β}
    (h : (if c then throw e >>= k else k ()) = .ok y) : ¬c ∧ k () = .ok y := by
  split at h
  · exact absurd h nofun
  next hc => exact ⟨hc, h⟩

/-- An arbor with a node taken. -/
theorem alloc_base {i : Nat} (h : t.alloc = .ok (u, i)) : u.base = t.base := by
  unfold Arb.alloc at h
  dsimp only at h
  obtain ⟨-, h⟩ := except_guard_ok h
  obtain ⟨-, h⟩ := except_guard_ok h
  obtain ⟨-, h⟩ := except_guard_ok h
  exact (congrArg (fun p => p.1.base) (Except.ok.inj h)).symm

theorem KeepsBase.alloc {f : Arb × Nat → Except AErr Arb} (hf : ∀ u i, u.base = t.base → KeepsBase t (f (u, i))) :
    KeepsBase t (t.alloc >>= f) := .bind fun y hy => hf y.1 y.2 (alloc_base hy)

theorem addChild_base {sep child old level : Nat} {path : List AStep} : KeepsBase t (t.addChild sep child old level path) := by
  induction path generalizing t sep child old level with
  | nil => exact .alloc fun u i hu => .ok hu
  | cons st up ih =>
    unfold Arb.addChild
    dsimp only
    split
    · exact .ok rfl
    · refine .alloc fun u i hu => ?_
      exact .of hu (.of rfl ih)

theorem insert_base {f : AFound} {k v : Nat} : KeepsBase t (t.insert f k v) := by
  unfold Arb.insert
  dsimp only
  split
  · exact .ok rfl
  · split
    · exact .error
    · refine .of (u := { t with nent := t.nent + 1 }) rfl (.alloc fun u i hu => ?_)
      exact .of hu (.of rfl addChild_base)

theorem rebalance_base {es : List (Nat × Nat)} {path : List AStep} : KeepsBase t (t.rebalance es path) := by
  induction path generalizing t es with
  | nil => exact .ok rfl
  | cons st path ih =>
    cases path with
    | nil =>
      unfold Arb.rebalance
      split
      · exact .ok rfl
      · exact .ok rfl
    | cons up rest =>
      unfold Arb.rebalance
      dsimp only
      split
      · exact .ok rfl
      · refine .bind fun sib _ => ?_
        split
        · exact .of rfl ih
        · split
          · exact .of rfl ih
          · exact .of rfl ih

theorem unlink_base {i next : Nat} {st : AStep} {up : List AStep} {ch : List (Nat × Nat)} :
    KeepsBase t (t.unlink i next st up ch) := by
  unfold Arb.unlink
  split
  · exact rebalance_base
  · refine .bind fun prev _ => ?_
    cases prev with
    | none => exact .of rfl rebalance_base
    | some p => exact .of rfl rebalance_base

theorem merge_base {ei li p : Nat} {e l : ANode} {st : AStep} {up : List AStep} : KeepsBase t (t.merge ei e li l p st up) := by
  unfold Arb.merge
  dsimp only
  split
  · exact .of rfl unlink_base
  · exact .of rfl rebalance_base

theorem delete_base {f : AFound} {k : Nat} : KeepsBase t (t.delete f k) := by
  unfold Arb.delete
  dsimp only
  split
  · exact .ok rfl
  · refine .bind fun sib _ => ?_
    split
    · split
      · exact .of rfl merge_base
      · exact .of rfl merge_base
    · split
      · exact .of rfl unlink_base
      · exact .ok rfl

theorem store_base {k v : Nat} : KeepsBase t (t.store k v) := by
  unfold Arb.store
  refine .bind fun f _ => ?_
  split
  · split
    · exact delete_base
    · exact .ok rfl
  · split
    · exact .ok rfl
    · exact insert_base

theorem store_s {k v : Nat} (h : t.store k v = .ok u) : u.s = t.s := congrArg Prod.fst (store_base u h)

/-- The header of an arbor, read from a machine. -/
theorem readArb_s {s : State} {hdr size : Nat} (h : readArb s hdr size = .ok t) : t.s = s := by
  unfold readArb at h
  dsimp only at h
  obtain ⟨-, h⟩ := except_guard_ok h
  obtain ⟨-, h⟩ := except_guard_ok h
  exact (congrArg Arb.s (Except.ok.inj h)).symm

end Sys2Proof.Machine
end

section
/-! SUPPORT. Rows that leave alone what the sequencers run on and keep memory's canonical form. -/

namespace Sys2Proof.Machine

open Sys2Proof Sys2Proof.Safety

variable {a s : State}

/-- A row that answers a next state answers one that is calm from a. -/
def CalmOut (a : State) (o : Out) : Prop := ∀ s', o = .next s' → Calm a s'

theorem CalmOut.next {s' : State} (h : Calm a s') : CalmOut a (.next s') := by
  intro s1 hs
  obtain rfl := Host.Outcome.next.inj hs
  exact h

theorem CalmOut.fault {r : Fault} : CalmOut a (.fault r) := fun _ h => absurd h nofun

theorem CalmOut.withElem {g : ElemRef → Elem → State} (hg : ∀ r e, Calm a (g r e)) : CalmOut a (withElem s g) := by
  unfold Machine.withElem
  split
  · split
    · exact .next (hg _ _)
    · exact .fault
  · exact .fault

theorem CalmOut.withElemN {g : ElemRef → Nat → Elem → State} (hg : ∀ r n e, Calm a (g r n e)) :
    CalmOut a (withElemN s g) := by
  unfold Machine.withElemN
  split
  · split
    · exact .next (hg _ _ _)
    · exact .fault
  · exact .fault

theorem CalmOut.fireSlot (h : Calm a s) {f : SlotF} {body : Ctx → Except ETrap Fired} : CalmOut a (fireSlot s f body) := by
  unfold Machine.fireSlot
  split
  · split
    · exact .fault
    · split
      · exact .next h.trapElem
      · split
        · exact .next h.modElem.trapElem
        · exact .next h.commit
  · exact .fault

theorem CalmOut.crossRequest (h : Calm a s) : CalmOut a (execCrossRequest s) := by
  unfold execCrossRequest
  dsimp only
  refine .withElem fun r e => ?_
  split
  · exact h
  · split
    · exact h
    · split
      · split
        · exact h.modSpe.crossPerform
        · exact h.modSpe
      · exact h.modSpe

theorem CalmOut.crossReply (h : Calm a s) : CalmOut a (execCrossReply s) := by
  unfold execCrossReply
  dsimp only
  refine .withElemN fun r n e => ?_
  split
  · exact h
  · split
    · exact h
    · split
      · exact h
      · split
        · exact h.modElem.trapElem
        · split
          · exact h
          · exact h.modElem

theorem CalmOut.deferredReply (h : Calm a s) : CalmOut a (execDeferredReply s) := by
  unfold execDeferredReply
  dsimp only
  refine .withElemN fun r n e => ?_
  split
  · exact h
  · split
    · exact h.modElem
    · exact h

theorem CalmOut.microprogramStep (h : Calm a s) : CalmOut a (execMicroprogramStep s) := by
  unfold execMicroprogramStep
  dsimp only
  refine .withElem fun r e => ?_
  split
  · refine .trapElem (.modSpe ?_)
    split
    · split
      · split
        · exact h.modElem.logElem.tick
        · exact h.modElem
      · split
        · exact h.modElem.logElem.tick
        · exact h.modElem
    · split
      · split
        · exact h.modElem.logElem.tick
        · exact h.modElem
      · split
        · exact h.modElem.logElem.tick
        · exact h.modElem
  · split
    · split
      · split
        · exact h.modElem.logElem.tick
        · exact h.modElem
      · split
        · exact h.modElem.logElem.tick
        · exact h.modElem
    · split
      · split
        · exact h.modElem.logElem.tick
        · exact h.modElem
      · split
        · exact h.modElem.logElem.tick
        · exact h.modElem

theorem CalmOut.microprogramSuspend (h : Calm a s) : CalmOut a (execMicroprogramSuspend s) := by
  unfold execMicroprogramSuspend
  dsimp only
  refine .withElem fun r e => ?_
  split
  · exact h.modSpe
  · exact h

theorem CalmOut.microprogramCompletion (h : Calm a s) : CalmOut a (execMicroprogramCompletion s) := by
  unfold execMicroprogramCompletion
  dsimp only
  refine .withElem fun r e => ?_
  split
  · exact h
  · split
    · exact h
    · split
      · split
        · exact h.modElem.trapElem
        · exact h.modElem
      · split
        · exact h.modElem
        · exact h

theorem CalmOut.crossReservation (h : Calm a s) : CalmOut a (execCrossReservation s) := by
  unfold execCrossReservation
  dsimp only
  refine .withElem fun r e => ?_
  split
  · exact h
  · split
    · split
      · split
        · exact h
        · exact h.modSpe
      · split
        · exact h
        · exact h.modSpe
    · exact h.modSpe

theorem CalmOut.yieldClock (h : Calm a s) : CalmOut a (execYieldClock s) := by
  unfold execYieldClock
  exact .withElem fun _ _ => h.modSpe

theorem CalmOut.bankClock (h : Calm a s) : CalmOut a (execBankClock s) := by
  unfold execBankClock
  dsimp only
  exact .withElem fun _ _ => h.modElem

theorem CalmOut.addressGeneratorIssue (h : Calm a s) : CalmOut a (execAddressGeneratorIssue s) := by
  unfold execAddressGeneratorIssue
  dsimp only
  refine .withElemN fun r n e => ?_
  split
  · exact h
  · refine .modMpe ?_
    split
    · refine .closeGroup ?_
      split
      · refine .addCell ?_
        split
        · exact h.modMpe.issueOne
        · exact h.modMpe.issueOne.failAt
      · split
        · exact h.modMpe.issueOne
        · exact h.modMpe.issueOne.failAt
    · split
      · refine .addCell ?_
        split
        · exact h.modMpe.issueOne
        · exact h.modMpe.issueOne.failAt
      · split
        · exact h.modMpe.issueOne
        · exact h.modMpe.issueOne.failAt

theorem CalmOut.weightRefreshWindow (h : Calm a s) : CalmOut a (execWeightRefreshWindow s) := by
  unfold execWeightRefreshWindow
  exact .next h.update

theorem CalmOut.gdeDelivery (h : Calm a s) : CalmOut a (execGdeDelivery s) := by
  unfold execGdeDelivery
  split
  · split
    · exact .fault
    · split
      · exact .next h
      · split
        · exact .next h
        · exact .next ((h.foldl (fun _ _ h5 => h5.deliverRow)).freeGde)
  · exact .fault

theorem CalmOut.atomicPerform (h : Calm a s) : CalmOut a (execAtomicPerform s) := by
  unfold execAtomicPerform
  dsimp only
  split
  · split
    · exact .next h
    · split
      · split
        · exact .next h
        · refine .next (.atomicReply (.dropAcc ?_))
          split
          · exact h.useOp.atomicAt.logRef
          · split
            · exact h.useOp.atomicAt.addSig
            · exact h.useOp.atomicAt
      · exact .next h
  · exact .fault

theorem CalmOut.memoryReply (h : Calm a s) : CalmOut a (execMemoryReply s) := by
  unfold execMemoryReply
  dsimp only
  exact .withElemN fun _ _ _ => h.skipSilent.emitCell.skipSilent.modMpe

theorem Calm.arborWrite {t : Arb} (h : Calm a t.s) : Calm a t.write :=
  (h.foldl fun _ _ h1 => h1.putWords).putWords

theorem Calm.arborCommit {t : Arb} (h : Calm a t.s) : Calm a t.commit := h.arborWrite.update.writeBackSome

/-- An arbor operation leaves memory as its nodes and its header are written. -/
theorem Calm.arborDo (h : Calm a s) {op hdr size k v d} (hdo : arborDo s op hdr size k v = .ok d) : Calm a d.s := by
  have hstored {t t1 : Arb} {k v : Nat} (ht : readArb s hdr size = .ok t) (hs : t.store k v = .ok t1) : Calm a t1.commit :=
    .arborCommit (by rw [store_s hs, readArb_s ht]; exact h)
  unfold Machine.arborDo at hdo
  obtain ⟨t, ht, hdo⟩ := except_bind_ok hdo
  split at hdo
  · obtain ⟨f, -, hdo⟩ := except_bind_ok hdo
    obtain rfl := Except.ok.inj hdo
    exact h
  · obtain rfl := Except.ok.inj hdo
    exact h
  · obtain ⟨t1, hs, hdo⟩ := except_bind_ok hdo
    obtain rfl := Except.ok.inj hdo
    exact hstored ht hs
  · obtain ⟨f, -, hdo⟩ := except_bind_ok hdo
    obtain ⟨t1, hs, hdo⟩ := except_bind_ok hdo
    obtain rfl := Except.ok.inj hdo
    exact hstored ht hs

theorem CalmOut.arborPoint (h : Calm a s) : CalmOut a (execArborPoint s) := by
  have hlogged {x : AErr} {r : ElemRef} : Calm a (if x.cause = Cause.uncorrectable then s.logRef r else s) := by
    split
    · exact h.logRef
    · exact h
  have hcounted {c : Prop} [Decidable c] {d : ADone} (hd : Calm a d.s) {l slot va v} :
      Calm a (if c then { d with s := d.s.addSig l slot va v } else d).s := by
    split
    · exact hd.addSig
    · exact hd
  unfold execArborPoint
  split
  · split
    · exact .next h
    · split
      · split
        · exact .next h
        · split
          · exact .next h.acceptArbor
          · split
            · exact .next h
            · dsimp only
              split
              · split
                · exact .next hlogged.dropAcc.atomicReply.giveCredit
                · split
                  · exact .next hlogged.accReply.giveCredit
                  · exact .next hlogged.accReply
              next hdo =>
                have hd := h.arborDo hdo
                split
                · exact .next (hcounted hd).dropAcc.atomicReply.giveCredit
                · split
                  · exact .next (hcounted hd).dropAcc.reply.giveCredit
                  · exact .next (hcounted hd).dropAcc.reply
      · exact .next h
  · exact .fault

theorem CalmOut.traversalStep (h : Calm a s) : CalmOut a (execTraversalStep s) := by
  unfold execTraversalStep
  dsimp only
  refine .withElemN fun r n e => ?_
  split
  · exact h
  · split
    · split
      · exact h
      · split
        · exact h.useWalker.modTrav.tick
        · split
          · refine .endTrav ?_
            split
            · refine .logElem ?_
              split
              · exact h.useWalker
              · exact h
            · split
              · exact h.useWalker
              · exact h
          · split
            · refine .endTrav (.foldl (.modTrav ?_) (fun _ _ h7 => h7.addCell))
              split
              · exact h.useWalker
              · exact h
            · refine .foldl (.modTrav ?_) (fun _ _ h7 => h7.addCell)
              split
              · exact h.useWalker
              · exact h
    · split
      · exact h
      · split
        · exact h.useWalker.modTrav.tick
        · split
          · refine .endTrav ?_
            split
            · refine .logElem ?_
              split
              · exact h.useWalker
              · exact h
            · split
              · exact h.useWalker
              · exact h
          · split
            · refine .endTrav (.foldl (.modTrav ?_) (fun _ _ h7 => h7.addCell))
              split
              · exact h.useWalker
              · exact h
            · refine .foldl (.modTrav ?_) (fun _ _ h7 => h7.addCell)
              split
              · exact h.useWalker
              · exact h

theorem CalmOut.depDecrement (h : Calm a s) : CalmOut a (execDepDecrement s) := by
  unfold execDepDecrement
  dsimp only
  split
  · split
    · exact .next h
    · split
      · exact .next h
      · split
        · exact .next h.useOp.update.abandonBad
        · refine .next (.decrement ?_)
          split
          · exact h.useOp.update.addErr
          · exact h.useOp.update
  · exact .fault

theorem CalmOut.admissionRequest (h : Calm a s) : CalmOut a (execAdmissionRequest s) := by
  unfold execAdmissionRequest
  split
  · split
    · exact .fault
    · split
      · exact .next h
      · split
        · exact .next h
        · exact .next h.admArrive
  · split
    · exact .fault
    · split
      · exact .next h
      · split
        · exact .next h
        · exact .next h.modDie.admAct
  · exact .fault

theorem CalmOut.commandBlockCheck (h : Calm a s) : CalmOut a (execCommandBlockCheck s) := by
  unfold execCommandBlockCheck
  dsimp only
  refine .withElemN fun r n e => ?_
  split
  · exact h
  · split
    · exact h
    · split
      · exact h.blockChecked
      · split
        · exact h.readBlock
        · split
          · split
            · exact h.readBlock.blockChecked
            · exact h.readBlock
          · exact h.readBlock

theorem CalmOut.commandAcceptance (h : Calm a s) : CalmOut a (execCommandAcceptance s) := by
  unfold execCommandAcceptance
  dsimp only
  split
  · split
    · exact .next h
    · split
      · exact .next h
      · exact .next h.modDie.modCmd.setPend.cmdStatus
  · exact .fault

theorem CalmOut.copyChunk (h : Calm a s) : CalmOut a (execCopyChunk s) := by
  unfold execCopyChunk
  dsimp only
  split
  · split
    · exact .next h
    · split
      · exact .next h
      · split
        · exact .next h.copyWrites.modCmd.tick.modCmd
        · split
          · refine .next ?_
            split
            · exact h.copyWrites.modCmd.tick.cmdOver
            · exact h.copyWrites.modCmd.tick
          · exact .next h.copyWrites.modCmd.tick
  · exact .fault

theorem CalmOut.densChunk (h : Calm a s) : CalmOut a (execDensChunk s) := by
  unfold execDensChunk
  dsimp only
  split
  · split
    · exact .next h
    · split
      · exact .next h
      · split
        · split
          · exact .next h.cmdOver
          · exact .next h.modCmd
        · split
          · exact .next h.densWrite
          · split
            · exact .next h.modCmd
            · split
              · exact .next h
              · split
                · exact .next h.useWalker.cmdOver
                · exact .next h.useWalker.modCmd
  · exact .fault

theorem CalmOut.commandEnd (h : Calm a s) : CalmOut a (execCommandEnd s) := by
  unfold execCommandEnd
  split
  · split
    · exact .next h
    · split
      · exact .next h
      · exact .next h.useEnd.endCmd
  · exact .fault

theorem CalmOut.remoteRequest (h : Calm a s) : CalmOut a (execRemoteRequest s) := by
  unfold execRemoteRequest
  split
  · split
    · exact .next h.push
    · split
      · exact .next h.reqRead
      · split
        · exact .next h.reqPerform
        · split
          · exact .next h.sendRep
          · split
            · exact .next h.reqAgain
            · exact .next h.reqPerform
  · exact .fault

theorem CalmOut.remoteReply (h : Calm a s) : CalmOut a (execRemoteReply s) := by
  unfold execRemoteReply
  split
  · split
    · exact .next h
    · exact .next h.dropRemote.endRemote
  · exact .fault

theorem CalmOut.remoteTimeout (h : Calm a s) : CalmOut a (execRemoteTimeout s) := by
  unfold execRemoteTimeout
  split
  · split
    · exact .next h
    · split
      · exact .next h
      · exact .next h.dropRemote.endRemote
  · exact .fault

theorem CalmOut.portDown (h : Calm a s) : CalmOut a (execPortDown s) := by
  unfold execPortDown
  dsimp only
  split
  · refine .next ?_
    split
    · exact h.update.push
    · exact h.update
  · exact .fault

theorem CalmOut.accessIssue (h : Calm a s) : CalmOut a (execAccessIssue s) := by
  unfold execAccessIssue
  refine .withElemN fun r n e => ?_
  split
  · exact h
  · split
    · exact h
    · exact h.modMpe.issue

theorem CalmOut.conversionPhase (h : Calm a s) : CalmOut a (execConversionPhase s) := by
  unfold execConversionPhase
  split
  · split
    · exact .next h
    · split
      · exact .next h
      · split
        · split
          · split
            · exact .next h.dropRegion.modCmd
          · exact .next h.cmdSnap
        · split
          · exact .next h.cmdOver
          · refine .next ?_
            split
            · exact h.cveChunk
            · exact h.cveWrite
  · exact .fault

theorem CalmOut.stageAdvance (h : Calm a s) : CalmOut a (execStageAdvance s) := by
  unfold execStageAdvance
  dsimp only
  split
  · refine .next ?_
    refine (h.foldl (fun _ _ h2 => ?_))
    split
    · exact h2.pump.fromOutput
    · exact h2.pump
  · exact .fault

theorem CalmOut.escapement (h : Calm a s) : CalmOut a (execEscapement s) := by
  unfold execEscapement
  dsimp only
  split
  · split
    · exact .fault
    · split
      · exact .next h.modElem
      · split
        · exact .next h.update.modElem.trapElem
        · split
          · exact .next h.update.modElem.trapElem
          · exact .next h.update.modElem.escape
  · exact .fault

theorem CalmOut.balanceReweight (h : Calm a s) : CalmOut a (execBalanceReweight s) := by
  unfold execBalanceReweight
  split
  · split
    · exact .fault
    · exact .next h.modElem
  · exact .fault

theorem CalmOut.registerWrite (h : Calm a s) : CalmOut a (execRegisterWrite s) := by
  unfold execRegisterWrite
  split
  · exact .next h.update
  · exact .fault

theorem CalmOut.pgreqRead (h : Calm a s) : CalmOut a (execPgreqRead s) := by
  unfold execPgreqRead
  dsimp only
  split
  · refine .next ?_
    split
    · split
      · exact h.update.push
      · exact h.update
    · split
      · exact h.push
      · exact h
  · exact .fault

theorem CalmOut.selogRead (h : Calm a s) : CalmOut a (execSelogRead s) := by
  unfold execSelogRead
  split
  · refine .next ?_
    split
    · split
      · exact h.update
      · exact h.update
    · exact h
  · exact .fault

theorem CalmOut.pgdone (h : Calm a s) : CalmOut a (execPgdone s) := by
  unfold execPgdone
  dsimp only
  split
  · refine .next ?_
    split
    · exact h.setTrState.enqueue
    · exact h
  · exact .fault

theorem CalmOut.syestatClear (h : Calm a s) : CalmOut a (execSyestatClear s) := by
  unfold execSyestatClear
  dsimp only
  split
  · refine .next ?_
    split
    · exact h.update
    · exact h
  · exact .fault

/-- A message of a master, when what serves it is calm. -/
theorem CalmOut.receive (h : Calm a s) {i type bad} {serve : State → Msg → State}
    (hserve : ∀ s1 m, Calm a s1 → Calm a (serve s1 m)) : CalmOut a (s.receive i type bad serve) := by
  unfold State.receive
  split
  · split
    · exact .next h
    · split
      · exact .next h.push
      · split
        · exact .next h.sendResp
        · dsimp only
          split
          · exact .next h.update.respond
          · exact .next (hserve _ _ h.update)
  · exact .fault

theorem CalmOut.hostRd (h : Calm a s) : CalmOut a (execHostRd s) := by
  unfold execHostRd
  exact .receive h fun s1 m h1 => h1.hostReads.respond.push

theorem CalmOut.hostWr (h : Calm a s) : CalmOut a (execHostWr s) := by
  unfold execHostWr
  split
  · exact .next h.respond
  · refine .receive h fun s1 m h1 => ?_
    dsimp only
    split
    · exact h1.respond
    · split
      · exact h1.respond
      · split
        · exact (h1.foldl fun _ _ h2 => h2.hostWrite).respond.tick
        · exact (h1.foldl fun _ _ h2 => h2.hostWrite).push

theorem CalmOut.hostCas (h : Calm a s) : CalmOut a (execHostCas s) := by
  unfold execHostCas
  refine .receive h fun s1 m h1 => ?_
  dsimp only
  split
  · exact h1.respond
  · refine .respond ?_
    split
    · exact h1.update
    · exact h1

theorem CalmOut.hostTken (h : Calm a s) : CalmOut a (execHostTken s) := by
  unfold execHostTken
  refine .receive h fun s1 m h1 => ?_
  dsimp only
  split
  · exact h1.respond
  · exact h1.sendAdm

theorem CalmOut.attest (h : Calm a s) : CalmOut a (execAttest s) := by
  unfold execAttest
  exact .receive h fun s1 m h1 => h1.sendReport

theorem CalmOut.ownerLoss (h : Calm a s) : CalmOut a (execOwnerLoss s) := by
  unfold execOwnerLoss
  dsimp only
  refine .next ?_
  refine (h.update.foldl (fun _ _ h1 => ?_))
  split
  · exact h1.respond
  · exact h1

theorem CalmOut.powerStateEntry (h : Calm a s) : CalmOut a (execPowerStateEntry s) := by
  unfold execPowerStateEntry
  dsimp only
  refine .next ?_
  split
  · exact h
  · refine .update ?_
    split
    · exact h.memoryLost
    · exact h

theorem CalmOut.hardwareTrip (h : Calm a s) : CalmOut a (execHardwareTrip s) := by
  unfold execHardwareTrip
  split
  · exact .next h.modDie
  · exact .fault

theorem CalmOut.portUp (h : Calm a s) : CalmOut a (execPortUp s) := by
  unfold execPortUp
  split
  · refine .next ?_
    split
    · exact h
    · exact h.update
  · exact .fault

theorem CalmOut.groupTableWrite (h : Calm a s) : CalmOut a (execGroupTableWrite s) := by
  unfold execGroupTableWrite
  dsimp only
  split
  · exact .next h.update
  · exact .fault

theorem CalmOut.dispatch (h : Calm a s) : CalmOut a (execDispatch s) := by
  unfold execDispatch
  split
  · split
    · exact .fault
    · split
      · split
        · exact .next h
        · exact .next h.endDispatch
      · split
        · exact .next h.beginDispatch
        · exact .next h
  · exact .fault

theorem CalmOut.threadTokenWrite (h : Calm a s) : CalmOut a (execThreadTokenWrite s) := by
  unfold execThreadTokenWrite
  dsimp only
  split
  · split
    · exact .next h
    · split
      · exact .next h
      · split
        · exact .next h
        · split
          · exact .next h
          · split
            · split
              · exact .next h.ringPut.modSlot.modEntry.push
              · exact .next h.ringPut.modSlot.modEntry
            · exact .next h.ringPut.modSlot.modEntry
  · exact .fault

theorem CalmOut.refillRequest (h : Calm a s) : CalmOut a (execRefillRequest s) := by
  unfold execRefillRequest
  dsimp only
  split
  · split
    · exact .next h
    · split
      · exact .next h
      · split
        · exact .next h
        · refine .next ?_
          split
          · exact h.modEntry.push
          · exact h.modEntry
  · exact .fault

theorem CalmOut.refillReturn (h : Calm a s) : CalmOut a (execRefillReturn s) := by
  unfold execRefillReturn
  dsimp only
  split
  · split
    · exact .next h
    · split
      · exact .next h
      · exact .next h.modEntry
  · exact .fault

theorem CalmOut.entryEmit (h : Calm a s) : CalmOut a (execEntryEmit s) := by
  unfold execEntryEmit
  dsimp only
  split
  · split
    · exact .next h
    · split
      · exact .next h
      · split
        · exact .next h
        · split
          · exact .next h
          · split
            · exact .next h
            · exact .next h.modElem.modEntry
  · exact .fault

theorem CalmOut.configurationChoice (h : Calm a s) : CalmOut a (execConfigurationChoice s) := by
  unfold execConfigurationChoice
  dsimp only
  split
  · split
    · exact .fault
    · refine .next ?_
      split
      · exact h.modDie.makeChoice
      · exact h.modDie
  · exact .fault

theorem CalmOut.reconfigurationTokenPass (h : Calm a s) : CalmOut a (execReconfigurationTokenPass s) := by
  unfold execReconfigurationTokenPass
  split
  · split
    · exact .next h
    · split
      · exact .next h
      · exact .next (h.removeLoad.wantChoice.foldl fun _ _ h4 => h4.setEvent)
  · exact .fault

theorem CalmOut.installPlacement (h : Calm a s) : CalmOut a (execInstallPlacement s) := by
  unfold execInstallPlacement
  split
  · split
    · refine .next ?_
      split
      · exact h.readHeader
      · exact h.tryPlace
    · split
      · refine .next ?_
        split
        · exact h.refuseInstall
        · exact h
      · exact .next h
  · exact .fault

theorem CalmOut.installWake (h : Calm a s) : CalmOut a (execInstallWake s) := by
  unfold execInstallWake
  split
  · split
    · refine .next ?_
      split
      · exact h.modInstall
      · exact h
    · exact .next h
  · exact .fault

theorem CalmOut.installStream (h : Calm a s) : CalmOut a (execInstallStream s) := by
  unfold execInstallStream
  split
  · split
    · exact .next h.beginStream
    · split
      · exact .next h.endStream
      · exact .next h
  · exact .fault

theorem CalmOut.installDepthGrant (h : Calm a s) : CalmOut a (execInstallDepthGrant s) := by
  unfold execInstallDepthGrant
  dsimp only
  split
  · split
    · exact .next h
    · split
      · exact .next h.refuseInstall
      · exact .next h.modInstall
  · exact .fault

theorem CalmOut.installCommit (h : Calm a s) : CalmOut a (execInstallCommit s) := by
  unfold execInstallCommit
  split
  · split
    · split
      · exact .next h
      · split
        · exact .next h.refuseInstall
        · exact .next h.commitInstall
    · exact .next h
  · exact .fault

theorem CalmOut.installAbandon (h : Calm a s) : CalmOut a (execInstallAbandon s) := by
  unfold execInstallAbandon
  split
  · split
    · exact .next h
    · split
      · refine .next ?_
        split
        · exact h.endInstall
        · exact h
      · exact .next h
  · exact .fault

theorem CalmOut.arrayStart (h : Calm a s) : CalmOut a (execArrayStart s) := by
  unfold execArrayStart
  dsimp only
  refine .withElem fun r e => ?_
  split
  · exact h
  · split
    · exact h
    · split
      · exact h.modElem.logElem
      · exact h.modElem

theorem CalmOut.arrayComplete (h : Calm a s) : CalmOut a (execArrayComplete s) := by
  unfold execArrayComplete
  dsimp only
  refine .withElem fun r e => ?_
  split
  · exact h
  · split
    · exact h
    · exact h.modElem

theorem CalmOut.drainPortToken (h : Calm a s) : CalmOut a (execDrainPortToken s) := by
  unfold execDrainPortToken
  dsimp only
  refine .withElem fun r e => ?_
  split
  · exact h
  · split
    · exact h
    · split
      · exact h.modElem.logElem
      · exact h.modElem

theorem CalmOut.voteClose (h : Calm a s) : CalmOut a (execVoteClose s) := by
  unfold execVoteClose
  dsimp only
  split
  · split
    · exact .next h
    · split
      · exact .next h
      · refine .next ?_
        split
        · exact h.dropVote.logVote.setErr.finishRec
        · split
          · exact h.dropVote.completeRec
          · exact h.dropVote.logVote.completeRec
          · split
            · exact h.dropVote.logVote.completeRec
            · split
              · exact h.dropVote.logVote.completeRec
              · exact h.dropVote.logVote.setErr.finishRec
  · exact .fault

theorem CalmOut.taskCompletion (h : Calm a s) : CalmOut a (execTaskCompletion s) := by
  unfold execTaskCompletion
  dsimp only
  split
  · split
    · exact .next h
    · split
      · exact .next h
      · split
        · exact .next h
        · split
          · exact .next h.freeSlot.endExecution
          · exact .next h.freeSlot.completeRec
  · exact .fault

theorem CalmOut.preempt (h : Calm a s) : CalmOut a (execPreempt s) := by
  unfold execPreempt
  dsimp only
  split
  · split
    · exact .next h.requestStop
    · exact .next h.abandonInstall.update
  · exact .fault

theorem CalmOut.preemptCommit (h : Calm a s) : CalmOut a (execPreemptCommit s) := by
  unfold execPreemptCommit
  dsimp only
  split
  · split
    · exact .next h
    · split
      · exact .next h
      · split
        · exact .next h
        · split
          · split
            · exact .next ((h.foldl (fun _ _ h7 => h7.setTrState)).modLoad.update.beginRetire.update.push)
            · exact .next ((h.foldl (fun _ _ h7 => h7.setTrState)).modLoad.update.beginRetire.setTrState.enqueue)
          · split
            · exact .next ((h.foldl (fun _ _ h7 => h7.setTrState)).modLoad.update.beginRetire.update.push)
            · exact .next ((h.foldl (fun _ _ h7 => h7.setTrState)).modLoad.update.beginRetire.setTrState.enqueue)
  · exact .fault

theorem CalmOut.pageRequestPost (h : Calm a s) : CalmOut a (execPageRequestPost s) := by
  unfold execPageRequestPost
  split
  · refine .next ?_
    split
    · exact h.update
    · exact h
  · exact .next h

theorem CalmOut.preemptDrainEnd (h : Calm a s) : CalmOut a (execPreemptDrainEnd s) := by
  unfold execPreemptDrainEnd
  dsimp only
  split
  · split
    · exact .next h
    · split
      · exact .next h
      · split
        · exact .next h.cancelDeferred
        · split
          · exact .next h.cancelDeferred
          · split
            · exact .next h.cancelDeferred.killLoad
            · exact .next h.cancelDeferred.markStanding.modLoad.writeImage.trapLoad
          · refine .next ?_
            split
            · exact h.cancelDeferred.killLoad
            · exact h.cancelDeferred.saveNoframe
  · exact .fault

theorem CalmOut.restoreCompletion (h : Calm a s) : CalmOut a (execRestoreCompletion s) := by
  unfold execRestoreCompletion
  dsimp only
  split
  · split
    · exact .next h
    · split
      · exact .next h
      · split
        · exact .next h.beginRetire
        · split
          · exact .next h.renewSlots.killRestore
          · split
            · exact .next h.renewSlots.killRestore
            · split
              · exact .next h.sendReprobes
              · split
                · exact .next h
                · refine .next ?_
                  split
                  · refine .push (.releaseAll (.foldl (.unready (.update ?_)) (fun _ _ h10 => h10.refillEntry)))
                    exact h.renewSlots.modLoad.foldl fun _ _ h11 => h11.setTrState
                  · refine .releaseAll (.foldl (.unready (.update ?_)) (fun _ _ h10 => h10.refillEntry))
                    exact h.renewSlots.modLoad.foldl fun _ _ h11 => h11.setTrState
  · exact .fault

theorem CalmOut.quarantine (h : Calm a s) : CalmOut a (execQuarantine s) := by
  unfold execQuarantine
  split
  · split
    · exact .fault
    · exact .next (h.modSeq fun _ => rfl)
  · exact .fault

theorem CalmOut.reductionPacket (h : Calm a s) : CalmOut a (execReductionPacket s) := by
  unfold execReductionPacket
  split
  · refine .next ?_
    split
    · exact h
    · exact h.takePacket
  · exact .next h.takePacket
  · exact .fault

theorem CalmOut.deadlineExpiry (h : Calm a s) : CalmOut a (execDeadlineExpiry s) := by
  unfold execDeadlineExpiry
  dsimp only
  split
  · split
    · split
      · exact .next h
      · refine .next ?_
        split
        · exact h.modInst.sendValue
        · exact h.modInst
    · exact .next h
  · exact .fault

theorem CalmOut.closeDeadlineExpiry (h : Calm a s) : CalmOut a (execCloseDeadlineExpiry s) := by
  unfold execCloseDeadlineExpiry
  dsimp only
  split
  · split
    · split
      · exact .next h
      · exact .next h.sendClose.releaseInst
    · exact .next h
  · exact .fault

theorem CalmOut.receivePacket (h : Calm a s) : CalmOut a (execReceivePacket s) := by
  unfold execReceivePacket
  split
  · exact .next h.placeTurn
  · refine .next ?_
    split
    · exact h.receive1
    · exact h
  · exact .fault

theorem CalmOut.reductionAcceptance (h : Calm a s) : CalmOut a (execReductionAcceptance s) := by
  unfold execReductionAcceptance
  dsimp only
  split
  · split
    · exact .fault
    · split
      · exact .next h
      · split
        · exact .next h
        · split
          · exact .next h.modDie.setPend.redStatus.modCmd.tick
          · refine .next (.dropCmd ?_)
            split
            · exact h.modDie.redBadState
            · exact h.modDie.redStatus.finalise
          · refine .next (.dropCmd ?_)
            split
            · exact h.modDie.redStatus.sendMember
            · exact h.modDie.redStatus
          · exact .next h.modDie.arm.dropCmd
  · exact .fault

theorem CalmOut.contributionSent (h : Calm a s) : CalmOut a (execContributionSent s) := by
  unfold execContributionSent
  dsimp only
  split
  · split
    · exact .next h
    · split
      · exact .next h
      · split
        · split
          · exact .next h.cmdOver.useEnd.endCmd
          · refine .next (.endCmd (.useEnd ?_))
            split
            · exact (h.foldl (fun _ _ h8 => h8.addSig)).sendMember
            · exact h.foldl fun _ _ h8 => h8.addSig
        · exact .next h.cmdSnap
  · exact .fault

theorem Calm.countDrain (h : Calm a s) {tile k : Nat} : Calm a (s.modSeq tile fun q =>
    { q with tinvs := q.tinvs.map fun x => if x.1 = k then (x.1, x.2 - 1) else x }) :=
  h.modSeq (f := fun q => { q with tinvs := q.tinvs.map fun x => if x.1 = k then (x.1, x.2 - 1) else x }) fun _ => rfl

theorem CalmOut.drainArrival (h : Calm a s) : CalmOut a (execDrainArrival s) := by
  have hcounted {n lo hi tile k : Nat} {w : Access} :=
    ((((h.dropAcc (id := n)).cancelDefers (r := w.ref) (lo := lo) (hi := hi)).dropNodes (l := w.ref.load) (lo := lo)
      (hi := hi)).countDrain (tile := tile) (k := k))
  unfold execDrainArrival
  split
  · split
    · exact .next h
    · split
      · split
        · exact .next h
        · dsimp only
          refine .next ?_
          split
          · split
            · exact hcounted.tinvComplete
            · exact hcounted
          · split
            · exact hcounted.tinvComplete
            · exact hcounted
      · exact .next h
  · exact .fault

end Sys2Proof.Machine
end

section
/-! SUPPORT. What a step may do to what the sequencers run on and to memory's form (R365, R366, R368, R383, R461, R465), and the
obligations about every step. -/

namespace Sys2Proof.Machine

open Sys2Proof Sys2Proof.Safety

/-! ### What a step may make of one sequencer -/

/-- PC and sq.TVEC are multiples of four (R365, R366). -/
def Core.aligned (c : Core) : Prop := c.pc.toNat % 4 = 0 ∧ c.tvec.toNat % 4 = 0

/-- The sequencer has taken a trap (R368). -/
def Core.trapped (c c' : Core) : Prop :=
  bitAt c'.status 2 = true ∧ bitAt c'.status 1 = false ∧ bitAt c'.status 3 = bitAt c.status 2 ∧
    c'.pc = BitVec.truncate 57 c.tvec ∧ c'.epc = BitVec.zeroExtend 64 c.pc ∧ c'.regs = c.regs

/-- User mode is left only by a trap. -/
def Core.leavesUser (c c' : Core) : Prop := bitAt c.status 0 = false → bitAt c'.status 0 = true → c.trapped c'

/-- A word that goes on: it keeps the mode. -/
def Core.goes (c c' : Core) : Prop :=
  c'.tile = c.tile ∧ bitAt c'.status 0 = bitAt c.status 0 ∧ (c.aligned → c'.aligned)

theorem Core.goes.leavesUser {c c' : Core} (h : c.goes c') : c.leavesUser c' := by
  intro hu hp
  rw [h.2.1, hu] at hp
  exact absurd hp (by decide)

theorem Core.leavesUser.refl (c : Core) : c.leavesUser c := fun hu hp => absurd (hu.symm.trans hp) (by decide)

/-- What the sequencer of a tile runs on. -/
def State.core? (s : State) (t : Nat) : Option Core := s.cores.find? fun c => decide (c.tile = t)

theorem core?_eq (s : State) (t : Nat) : s.core? t = (s.seq? t).map Seq.core := by
  rw [State.core?, State.cores, List.find?_map]
  rfl

/-- A step that is no release and no reset. -/
structure Runs (s s' : State) : Prop where
  form : Memory.wf s.mem = true → Memory.wf s'.mem = true
  aligned : (∀ c ∈ s.cores, c.aligned) → ∀ c ∈ s'.cores, c.aligned
  modes : ∀ t c c', s.core? t = some c → s'.core? t = some c' → c.leavesUser c'

variable {s s1 s' : State}

theorem Calm.core? (h : Calm s s') (t : Nat) : s'.core? t = s.core? t := by
  rw [State.core?, h.cores, State.core?]

theorem Calm.runs (h : Calm s s') : Runs s s' := by
  refine ⟨h.form, fun hal => h.cores ▸ hal, fun t c c' hc hc' => ?_⟩
  rw [h.core? t, hc] at hc'
  exact Option.some.inj hc' ▸ .refl c

theorem Runs.after (h : Calm s s1) (h' : Runs s1 s') : Runs s s' :=
  ⟨fun hf => h'.form (h.form hf), fun hal => h'.aligned (h.cores ▸ hal), fun t c c' hc hc' =>
    h'.modes t c c' ((h.core? t).trans hc) hc'⟩

theorem Runs.before (h : Runs s s1) (h' : Calm s1 s') : Runs s s' :=
  ⟨fun hf => h'.form (h.form hf), fun hal => h'.cores ▸ h.aligned hal, fun t c c' hc hc' =>
    h.modes t c c' hc ((h'.core? t).symm.trans hc')⟩

/-! ### Updates of one sequencer -/

theorem seq_mem {t : Nat} {q : Seq} (h : s.seq? t = some q) : q ∈ s.seqs := List.mem_of_find?_eq_some h

theorem core_mem {q : Seq} (h : q ∈ s.seqs) : q.core ∈ s.cores := List.mem_map_of_mem h

/-- An update of one sequencer that keeps the alignment of all and leaves user mode only by a trap. -/
theorem runs_modSeq {t : Nat} {f : Seq → Seq} (htile : ∀ q, q.tile = t → (f q).tile = t)
    (hal : (∀ c ∈ s.cores, c.aligned) → ∀ q ∈ s.seqs, q.tile = t → (f q).core.aligned)
    (hmode : ∀ q, s.seq? t = some q → q.core.leavesUser (f q).core) : Runs s (s.modSeq t f) := by
  refine ⟨id, fun h c hc => ?_, fun u c c' hc hc' => ?_⟩
  · obtain ⟨q', hq', rfl⟩ := List.mem_map.mp hc
    obtain ⟨q, hq, rfl⟩ := List.mem_map.mp hq'
    split
    next ht => exact hal h q hq ht
    next => exact h _ (core_mem hq)
  · rw [core?_eq] at hc hc'
    obtain ⟨q, hq, rfl⟩ := Option.map_eq_some_iff.mp hc
    rw [modSeq_seq s t u f htile, hq] at hc'
    split at hc'
    next hu =>
      subst hu
      exact Option.some.inj hc' ▸ hmode q hq
    next => exact Option.some.inj hc' ▸ .refl _

/-- Each sequencer of a tile goes on. -/
theorem runs_goes {t : Nat} {f : Seq → Seq} (hf : ∀ q : Seq, q.core.goes (f q).core) : Runs s (s.modSeq t f) :=
  runs_modSeq (fun q ht => (hf q).1.trans ht) (fun h q hq _ => (hf q).2.2 (h _ (core_mem hq))) fun q _ =>
    Core.goes.leavesUser (hf q)

/-- The sequencer of a tile becomes one that it goes on to. -/
theorem runs_becomes {t : Nat} {q y : Seq} (hq : s.seq? t = some q) (hy : q.core.goes y.core) :
    Runs s (s.modSeq t fun _ => y) :=
  runs_modSeq (fun _ _ => hy.1.trans (seq_tile hq)) (fun h _ _ _ => hy.2.2 (h _ (core_mem (seq_mem hq)))) fun _ hq' =>
    Option.some.inj (hq.symm.trans hq') ▸ hy.leavesUser

/-! ### Traps (R368) -/

theorem truncate_toNat_mod_four {v : Word} (h : v.toNat % 4 = 0) : (BitVec.truncate 57 v : BitVec 57).toNat % 4 = 0 := by
  rw [BitVec.truncate_eq_setWidth, BitVec.toNat_setWidth]
  omega

theorem enter_trapped {q : Seq} (p : PTrap) (hu : bitAt q.core.status 0 = false) : q.core.trapped (q.enter p).core := by
  obtain ⟨-, hpriv, htrap, hnest, -⟩ := mkStatus_bits true q.priv true q.inTrap
  exact ⟨htrap, hpriv.trans hu, hnest, rfl, rfl, rfl⟩

theorem enter_aligned {q : Seq} (p : PTrap) (h : q.core.aligned) : (q.enter p).core.aligned :=
  ⟨truncate_toNat_mod_four h.2, h.2⟩

/-- A trap that a sequencer takes. -/
theorem runs_trap {t : Nat} {f : Seq → Seq} {p : PTrap} (hf : ∀ q, (f q).core = (q.enter p).core) : Runs s (s.modSeq t f) :=
  runs_modSeq (fun q ht => (congrArg Core.tile (hf q)).trans ht)
    (fun h q hq _ => hf q ▸ enter_aligned p (h _ (core_mem hq))) fun (q : Seq) _ hu _ => hf q ▸ enter_trapped p hu

theorem runs_trapSeq {t : Nat} {src : TrapSrc} {c : Nat} {d : Word} : Runs s (s.trapSeq t src c d) := runs_trap fun _ => rfl

theorem runs_trapQ {t c : Nat} : Runs s (s.trapQ t c) := .after (Calm.refl s).tick runs_trapSeq

/-! ### Words that go on (R369) -/

theorem add_four_aligned {pc : BitVec 57} (h : pc.toNat % 4 = 0) : (pc + 4).toNat % 4 = 0 := by
  bv_omega

theorem branchPc_aligned {pc : BitVec 57} (h : pc.toNat % 4 = 0) (off : Int) : (branchPc pc off).toNat % 4 = 0 := by
  rw [branchPc_eq_ofInt, BitVec.toNat_ofInt]
  omega

theorem setReg_core (q : Seq) (d : BitVec 5) (v : Word) : (q.setReg d v).core = { q.core with regs := (q.setReg d v).regs } := by
  obtain ⟨x, l, ls, h⟩ := setReg_rest q d v
  rw [h]
  rfl

end Sys2Proof.Machine
end

section
/-! SUPPORT. What a sequencer's word may do to what the sequencers run on and to memory's form. -/

namespace Sys2Proof.Machine

open Sys2Proof Sys2Proof.Safety

variable {s : State}

/-- A row that answers a next state answers one that a step runs to. -/
def RunsOut (s : State) (o : Out) : Prop := ∀ s', o = .next s' → Runs s s'

theorem RunsOut.next {s' : State} (h : Runs s s') : RunsOut s (.next s') := by
  intro s1 hs
  obtain rfl := Host.Outcome.next.inj hs
  exact h

theorem RunsOut.fault {r : Fault} : RunsOut s (.fault r) := fun _ h => absurd h nofun

theorem CalmOut.runs {o : Out} (h : CalmOut s o) : RunsOut s o := fun s' hs => (h s' hs).runs

theorem RunsOut.after {s1 : State} {o : Out} (h : Calm s s1) (ho : RunsOut s1 o) : RunsOut s o := fun s' hs =>
  .after h (ho s' hs)

theorem runsOut_withSeq {g : Nat → Seq → State} (h : ∀ t q, s.seq? t = some q → Runs s (g t q)) :
    RunsOut s (withSeq s g) := by
  unfold withSeq
  split
  · split
    next hq => exact .next (h _ _ hq)
    next => exact .fault
  · exact .fault

/-! ### Words that go on (R369) -/

theorem goes_next {q y : Seq} (ht : y.tile = q.tile) (hst : y.status = q.status) (htv : y.tvec = q.tvec)
    (hpc : y.pc = q.pc + 4) : q.core.goes y.core :=
  ⟨ht, congrArg (bitAt · 0) hst, fun h =>
    ⟨(congrArg (fun v => v.toNat % 4) hpc).trans (add_four_aligned h.1), (congrArg (fun v => v.toNat % 4) htv).trans h.2⟩⟩

theorem setReg_status (q : Seq) (d : BitVec 5) (v : Word) : (q.setReg d v).status = q.status :=
  congrArg Core.status (setReg_core q d v)

theorem setReg_tvec (q : Seq) (d : BitVec 5) (v : Word) : (q.setReg d v).tvec = q.tvec := congrArg Core.tvec (setReg_core q d v)

/-- A word that writes gd and goes to the next one. -/
theorem goes_setReg_next {q y : Seq} {d : BitVec 5} {v : Word} (h : y.core = (q.setReg d v).next.core) : q.core.goes y.core :=
  goes_next ((congrArg Core.tile h).trans (setReg_tile q d v)) ((congrArg Core.status h).trans (setReg_status q d v))
    ((congrArg Core.tvec h).trans (setReg_tvec q d v))
    ((congrArg Core.pc h).trans (congrArg (· + 4) (setReg_pc q d v)))

theorem runs_seqDone {t : Nat} {d : BitVec 5} {v : Word} {lat : Nat} : Runs s (s.seqDone t d v lat) :=
  runs_goes fun _ => goes_setReg_next rfl

theorem runs_seqLate {t : Nat} {d : BitVec 5} {v : Word} {lat : Nat} : Runs s (s.seqLate t d v lat) :=
  runs_goes fun _ => goes_setReg_next rfl

/-- A word that writes no register. -/
theorem runs_next {t : Nat} {f : Seq → Seq} (hf : ∀ q, (f q).core = q.next.core) : Runs s (s.modSeq t f) :=
  runs_goes fun q => hf q ▸ goes_next rfl rfl rfl rfl

theorem runsOut_aluR {lat : Nat} {g : Word → Word → Word} {d a b : BitVec 5} : RunsOut s (aluR lat g d a b s) :=
  runsOut_withSeq fun _ _ _ => runs_seqLate

theorem runsOut_aluI {g : Word → Word} {d a : BitVec 5} : RunsOut s (aluI g d a s) :=
  runsOut_withSeq fun _ _ _ => runs_seqDone

theorem runsOut_branch {test : Word → Word → Bool} {d a : BitVec 5} {i : BitVec 16} : RunsOut s (branch test d a i s) := by
  refine runsOut_withSeq fun t q _ => runs_goes fun x => ⟨rfl, rfl, fun h => ⟨?_, h.2⟩⟩
  show BitVec.toNat (if test (q.reg d) (q.reg a) = true then branchPc x.pc i.toInt else x.pc + 4) % 4 = 0
  split
  · exact branchPc_aligned h.1 _
  · exact add_four_aligned h.1

theorem runsOut_jal {d : BitVec 5} {o : BitVec 21} : RunsOut s (execJal d o s) :=
  runsOut_withSeq fun _ q hq => runs_becomes hq
    ⟨setReg_tile q _ _, congrArg (bitAt · 0) (setReg_status q _ _), fun h =>
      ⟨branchPc_aligned h.1 _, (congrArg (fun v => v.toNat % 4) (setReg_tvec q _ _)).trans h.2⟩⟩

theorem runsOut_jalr {d a : BitVec 5} {i : BitVec 16} : RunsOut s (execJalr d a i s) := by
  refine runsOut_withSeq fun t q hq => ?_
  dsimp only
  split
  next => exact runs_trapQ
  next hal =>
    exact runs_becomes hq
      ⟨setReg_tile q _ _, congrArg (bitAt · 0) (setReg_status q _ _), fun h =>
        ⟨truncate_toNat_mod_four (not_not.mp hal), (congrArg (fun v => v.toNat % 4) (setReg_tvec q _ _)).trans h.2⟩⟩

/-! ### Control registers (R366, R370) -/

theorem mixBits_and_of_disjoint {m k : Word} (h : m &&& k = 0) (v w : Word) : mixBits m v w &&& k = w &&& k := by
  ext i hi
  have hm : (m &&& k).getLsbD i = (0 : Word).getLsbD i := congrArg (·.getLsbD i) h
  rw [BitVec.getLsbD_and, BitVec.getLsbD_eq_getElem hi, BitVec.getLsbD_eq_getElem hi] at hm
  simp only [mixBits, BitVec.getElem_and, BitVec.getElem_or, BitVec.getElem_not]
  cases hk : k[i] <;> simp_all

theorem toNat_mod_four (v : Word) : v.toNat % 4 = (v &&& 3).toNat := by
  rw [BitVec.toNat_and]
  exact (Nat.and_two_pow_sub_one_eq_mod v.toNat 2).symm

theorem mixBits_tvec_aligned (v was : Word) (h : was.toNat % 4 = 0) : (mixBits 0xFFFFFFFFFFFFFFFC v was).toNat % 4 = 0 := by
  rw [toNat_mod_four, mixBits_and_of_disjoint (by decide), ← toNat_mod_four, h]

theorem mixBits_status_priv (v was : Word) : bitAt (mixBits 0xE v was) 0 = bitAt was 0 := by
  have hb (x : Word) : bitAt x 0 = bitAt (x &&& 1) 0 := by simp [bitAt]
  rw [hb, mixBits_and_of_disjoint (by decide), ← hb]

theorem goes_scrWrite (q : Seq) (n : Nat) (v : Word) :
    (q.scrWrite n v).tile = q.tile ∧ bitAt (q.scrWrite n v).status 0 = bitAt q.status 0 ∧ (q.scrWrite n v).pc = q.pc ∧
      (q.tvec.toNat % 4 = 0 → (q.scrWrite n v).tvec.toNat % 4 = 0) := by
  rw [scrWrite_eq_controlled]
  refine ⟨rfl, ?_, rfl, fun h => ?_⟩
  · show bitAt (if n = 0 then mixBits 0xE v q.status else q.status) 0 = bitAt q.status 0
    split
    · exact mixBits_status_priv v q.status
    · rfl
  · show (if n = 4 then mixBits 0xFFFFFFFFFFFFFFFC v q.tvec else q.tvec).toNat % 4 = 0
    split
    · exact mixBits_tvec_aligned v q.tvec h
    · exact h

theorem runsOut_scr {f : Option (Word → Word → Word)} {d a : BitVec 5} {n : BitVec 14} : RunsOut s (scr f d a n s) := by
  refine runsOut_withSeq fun t q hq => ?_
  split
  next => exact runs_trapQ
  next old _ =>
    split
    next => exact runs_trapQ
    next =>
      refine runs_becomes hq ?_
      dsimp only
      split
      next g =>
        split
        next =>
          obtain ⟨htile, hst, hpc, htv⟩ := goes_scrWrite q n.toNat (g old (q.reg a))
          refine ⟨(setReg_tile _ _ _).trans htile, (congrArg (bitAt · 0) (setReg_status _ _ _)).trans hst, fun h => ⟨?_, ?_⟩⟩
          · exact (congrArg (fun v : BitVec 57 => (v + 4).toNat % 4) ((setReg_pc _ _ _).trans hpc)).trans (add_four_aligned h.1)
          · exact (congrArg (fun v => v.toNat % 4) (setReg_tvec _ _ _)).trans (htv h.2)
        next => exact goes_setReg_next rfl
      next => exact goes_setReg_next rfl

/-! ### Loads and stores (R369) -/

theorem runsOut_seqLoad {n : Nat} {d a : BitVec 5} {i : BitVec 16} : RunsOut s (seqLoad n d a i s) := by
  refine runsOut_withSeq fun t q _ => ?_
  dsimp only
  split
  · exact .after (Calm.refl s).xlated.logRead runs_trapQ
  · split
    · exact .after (Calm.refl s).xlated.logRead runs_trapQ
    · exact .after (Calm.refl s).xlated.issueSeq (runs_next fun _ => rfl)

theorem runsOut_seqStore {n : Nat} {d a : BitVec 5} {i : BitVec 16} : RunsOut s (seqStore n d a i s) := by
  refine runsOut_withSeq fun t q _ => ?_
  dsimp only
  split
  · exact .after (Calm.refl s).xlated.logRead runs_trapQ
  split
  · exact (Calm.refl s).xlated.runs
  split
  · exact .after (Calm.refl s).xlated runs_trapQ
  split
  · exact .after (Calm.refl s).xlated.logRead runs_trapQ
  split
  · exact .after (Calm.refl s).xlated.storeN (runs_next fun _ => rfl)
  · exact .after (Calm.refl s).xlated.issueSeq (runs_next fun _ => rfl)

/-! ### Events, system requests and fences (R371, R372, R381, R382) -/

theorem runsOut_wev {d a : BitVec 5} : RunsOut s (execWev d a s) := by
  refine runsOut_withSeq fun t q _ => ?_
  dsimp only
  split
  · exact ((Calm.refl s).modSeq (f := fun q => { q with wev := some (d, a) }) fun _ => rfl).runs
  · exact runs_goes fun _ => goes_setReg_next rfl

theorem runsOut_sysr {d a : BitVec 5} {f : BitVec 11} : RunsOut s (execSysr d a f s) := by
  refine runsOut_withSeq fun t q _ => ?_
  split
  · exact runs_seqDone
  · exact runs_seqDone
  · exact runs_seqDone
  · split
    · exact runs_seqDone
    · exact runs_trapSeq

theorem runsOut_seqFence {sc : BitVec 4} : RunsOut s (execSeqFence sc s) := by
  refine runsOut_withSeq fun t q _ => ?_
  split
  · exact runs_next fun _ => rfl
  · exact (Calm.refl s).runs

/-! ### Traps and the return from one (R368, R383) -/

theorem runsOut_illegal : RunsOut s (execIllegal s) := runsOut_withSeq fun _ _ _ => runs_trapQ

theorem runsOut_trapEntry : RunsOut s (execTrapEntry s) := by
  refine runsOut_withSeq fun t q _ => ?_
  split
  next => exact (Calm.refl s).runs
  next p ps _ =>
    split
    next => exact (Calm.refl s).runs
    next => exact runs_trap (p := p) (f := fun q => { q.enter p with pend := ps }) fun _ => rfl

theorem leave_aligned (q : Seq) (h : q.core.aligned) : q.leave.core.aligned := by
  refine ⟨?_, h.2⟩
  show (BitVec.ofNat 57 (q.epc.toNat / 4 * 4)).toNat % 4 = 0
  rw [BitVec.toNat_ofNat]
  omega

/-- An update of a sequencer that is in privileged mode. -/
theorem runs_privileged {t : Nat} {q : Seq} {f : Seq → Seq} (hq : s.seq? t = some q) (hp : q.priv = true)
    (htile : ∀ q, (f q).tile = q.tile) (hal : ∀ q, q.core.aligned → (f q).core.aligned) : Runs s (s.modSeq t f) :=
  runs_modSeq (fun q ht => (htile q).trans ht) (fun h q hq _ => hal q (h _ (core_mem hq))) fun q' hq' hu _ => by
    obtain rfl := Option.some.inj (hq.symm.trans hq')
    exact absurd (hu.symm.trans hp) (by decide)

theorem modSeq_modSeq (s : State) (t : Nat) (f g : Seq → Seq) (hf : ∀ q, (f q).tile = q.tile) :
    (s.modSeq t f).modSeq t g = s.modSeq t fun q => g (f q) := by
  have hseq (q : Seq) : (if (if q.tile = t then f q else q).tile = t then g (if q.tile = t then f q else q)
      else if q.tile = t then f q else q) = if q.tile = t then g (f q) else q := by
    split <;> simp_all
  simp only [State.modSeq, List.map_map, Function.comp_def, hseq]

theorem runsOut_tret : RunsOut s (execTret s) := by
  refine runsOut_withSeq fun t q hq => ?_
  dsimp only
  split
  next => exact runs_trapQ
  next hp =>
    have hleave : Runs s (s.modSeq t fun q => { q.leave with busy := s.clock + 1 }) :=
      runs_privileged hq (not_not.mp hp) (fun _ => rfl) leave_aligned
    split
    next => exact hleave
    next p _ =>
      split
      next => exact hleave
      next gd _ =>
        rw [modSeq_modSeq s t (fun q => { q.leave with busy := s.clock + 1 }) _ fun _ => rfl]
        refine runs_privileged hq (not_not.mp hp) (fun q => setReg_tile _ _ _) fun q h => ⟨?_, ?_⟩
        · exact add_four_aligned (leave_aligned q h).1
        · exact (congrArg (fun v => v.toNat % 4) (setReg_tvec { q.leave with busy := s.clock + 1 } _ _)).trans h.2
      next => exact hleave.before (Calm.refl _).disposeLoad
      next => exact hleave.before (Calm.refl _).disposeLoad
      next => exact hleave.before (Calm.refl _).disposeElem
      next => exact hleave.before (Calm.refl _).disposeElem

/-! ### Elements (R378 to R380) -/

theorem runsOut_erd {d a : BitVec 5} {f : BitVec 11} : RunsOut s (execErd d a f s) := by
  refine runsOut_withSeq fun t q _ => ?_
  split
  · exact runs_seqDone
  · exact runs_trapQ

theorem Calm.setSiteItem {x : Site} {fn : Nat} {v : Word} {s1 : State} (h : s.setSiteItem x fn v = some s1) : Calm s s1 := by
  unfold State.setSiteItem at h
  split at h
  · obtain ⟨_, _, rfl⟩ := Option.map_eq_some_iff.mp h
    exact (Calm.refl s).putBox
  · obtain ⟨_, _, rfl⟩ := Option.map_eq_some_iff.mp h
    exact (Calm.refl s).putElem

theorem runsOut_ewr {a b : BitVec 5} {f : BitVec 11} : RunsOut s (execEwr a b f s) := by
  refine runsOut_withSeq fun t q _ => ?_
  dsimp only
  split
  next => exact runs_trapQ
  next =>
    split
    next => exact runs_trapQ
    next =>
      split
      next => exact runs_trapQ
      next s1 hs1 =>
        split
        · exact runs_trapQ
        · exact .after (.setSiteItem hs1) (runs_next fun _ => rfl)

theorem runsOut_occr {d a : BitVec 5} : RunsOut s (execOccr d a s) := by
  refine runsOut_withSeq fun t q _ => ?_
  split
  · exact runs_seqDone
  · exact runs_trapQ

theorem runsOut_savec {d a b : BitVec 5} : RunsOut s (execSavec d a b s) := by
  refine runsOut_withSeq fun t q _ => ?_
  dsimp only
  split
  · exact runs_trapQ
  split
  · exact runs_trapQ
  split
  · exact runs_trapQ
  split
  · exact runs_trapQ
  split
  · exact runs_trapQ
  split
  · exact .after (Calm.refl s).seqWrites runs_trapQ
  · exact .after (Calm.refl s).seqWrites runs_seqDone

/-! ### Translation, installs and retirement (R261, R373 to R376) -/

theorem runsOut_tinv {a b : BitVec 5} : RunsOut s (execTinv a b s) := by
  refine runsOut_withSeq fun t q _ => ?_
  dsimp only
  split
  · exact runs_trapQ
  split
  · exact (Calm.refl s).runs
  generalize tinvRange (q.reg a) (q.reg b) = range
  have hword : Runs s (s.modSeq t fun x =>
      { x.next with
        tinvseq := BitVec.ofNat 40 (q.tinvseq + 1).toNat
        tinvs := x.tinvs ++ [((q.tinvseq + 1).toNat, (s.drainPorts range.1 range.2).length)]
        busy := s.clock + 1 }) := runs_next fun _ => rfl
  split
  · exact hword.before (((Calm.refl _).invalidate.dropOrphans.foldl fun _ _ h => h.placeDrain).tinvComplete)
  · exact hword.before ((Calm.refl _).invalidate.dropOrphans.foldl fun _ _ h => h.placeDrain)

theorem runsOut_instWord {a b : BitVec 5} : RunsOut s (execInstWord a b s) := by
  refine runsOut_withSeq fun t q _ => ?_
  dsimp only
  split
  · exact runs_trapQ
  split
  · exact runs_trapQ
  have hword : Runs s (s.modSeq t fun x => { x.next with busy := s.clock + 1 }) := runs_next fun _ => rfl
  split
  · exact hword
  split
  · exact hword.before (Calm.refl _).setInstst.setEvent
  · exact hword.before (Calm.refl _).setInstst.modDie

theorem runsOut_abnd {d a : BitVec 5} : RunsOut s (execAbnd d a s) := by
  refine runsOut_withSeq fun t q _ => ?_
  dsimp only
  split
  · exact runs_trapQ
  split
  · split
    · exact .after (Calm.refl s).retireFor runs_seqDone
    · split
      · exact .after (Calm.refl s).beginRetire.retireFor runs_seqDone
      · exact runs_seqDone
  · split
    · exact .after (Calm.refl s).abandonInstall.tick runs_seqDone
    · exact runs_seqDone

end Sys2Proof.Machine
end

section
/-! SUPPORT. What every step does to what the sequencers run on and to memory's form, and the obligations about every step
(R365, R366, R368, R383, R461, R465). -/

namespace Sys2Proof.Machine

open Sys2Proof Sys2Proof.Safety

variable {s : State}

/-- What a step of an actor comes to: the machine runs on, the sequencers are released, or they are reset. -/
inductive Steps (x : Actor) (s s' : State) : Prop
  | runs (h : Runs s s')
  | released (a : Nat) (hact : ∃ t n v, x = .reg t n v) (hwas : s.released = false) (his : s'.released = true)
      (hseqs : s'.seqs = s.seqs.map fun q => q.boot a)
      (hmem : s'.mem = s.mem) (hal : a % 4 = 0)
  | reset (hseqs : s'.seqs = State.reset.seqs) (hform : Memory.wf s.mem = true → Memory.wf s'.mem = true)

/-- A row that answers a next state answers one that a step comes to. -/
def StepsOut (s : State) (o : Out) : Prop := ∀ s', o = .next s' → Steps s.actor s s'

theorem StepsOut.next {s' : State} (h : Steps s.actor s s') : StepsOut s (.next s') := by
  intro s1 hs
  obtain rfl := Host.Outcome.next.inj hs
  exact h

theorem RunsOut.steps {o : Out} (h : RunsOut s o) : StepsOut s o := fun s' hs => .runs (h s' hs)

theorem CalmOut.steps {o : Out} (h : CalmOut s o) : StepsOut s o := h.runs.steps

/-! ### Accesses at home, and a PWR -/

theorem loaded_goes (q : Seq) (reg id ready : Nat) (v : Word) : q.core.goes (q.loaded reg id ready v).core := by
  unfold Seq.loaded
  split
  · exact ⟨setReg_tile _ _ _, congrArg (bitAt · 0) (setReg_status q _ _), fun h =>
      ⟨(congrArg (fun v : BitVec 57 => v.toNat % 4) (setReg_pc q _ _)).trans h.1,
        (congrArg (fun v : Word => v.toNat % 4) (setReg_tvec q _ _)).trans h.2⟩⟩
  · exact ⟨rfl, rfl, fun h => h⟩

theorem runs_performSeq {w : Access} : Runs s (s.performSeq w) := by
  unfold State.performSeq
  split
  · exact .after ((Calm.refl s).dropAcc (id := w.id)) (runs_goes fun q => loaded_goes q _ _ _ _)
  · exact (Calm.refl s).dropAcc.storeN.runs
  · exact (Calm.refl s).runs

theorem runs_perform {w : Access} : Runs s (s.perform w) := by
  rw [State.perform]
  split
  · exact (Calm.refl s).runs
  split
  · split
    · exact (Calm.refl s).runs
    · exact runs_performSeq
  split
  · exact (Calm.refl s).runs
  split
  · exact (Calm.refl s).runs
  cases w.op with
  | read => exact (Calm.refl s).performRead.runs
  | write v => exact (Calm.refl s).performWrite.runs
  | clear => exact (Calm.refl s).homeClear.writeDone.runs
  | write32 v => exact (Calm.refl s).performHalf.runs
  | atomic | arbor | drain | seqRead | seqWrite => exact (Calm.refl s).runs

theorem runsOut_memoryEdgeAccess : RunsOut s (execMemoryEdgeAccess s) := by
  unfold execMemoryEdgeAccess
  split
  · split
    · exact .next runs_perform
    · exact .next (Calm.refl s).runs
  · split
    · exact .fault
    · split
      · exact .next (Calm.refl s).runs
      · split
        · exact .next (Calm.refl s).performRow.runs
        · exact .next (Calm.refl s).runs
  · exact .fault

theorem calmOut_pwr {f : SlotF} : CalmOut s (execPwr f s) := by
  have hfire : CalmOut s (fireSlot s f bodyPwr) := CalmOut.fireSlot (Calm.refl s)
  unfold execPwr
  split
  next s' hs =>
    have h := hfire s' hs
    split
    · split
      · split
        · exact .next h.serveWord
        · exact .next h
      · exact .next h
    · exact .next h
  next => exact hfire

/-! ### The release of the sequencers, and resets (R461, R464, R465) -/

theorem stepsOut_bootva : StepsOut s (execBootva s) := by
  unfold execBootva
  split
  next t n v hact =>
    refine .next ?_
    split
    next h => exact .released (fld v 2 55 * 4) ⟨t, n, v, hact⟩ (by simpa using h.2) rfl rfl rfl (Nat.mul_mod_left _ 4)
    next => exact .runs (Calm.refl s).update.runs
  next => exact RunsOut.fault.steps

theorem stepsOut_reset : StepsOut s (execReset s) :=
  .next (.reset rfl fun h => filter_wf _ _ _ ((Calm.refl s).cachesGone.form h))

theorem stepsOut_boardPowerUp : StepsOut s (execBoardPowerUp s) := .next (.reset rfl fun _ => reset_wf)

theorem stepsOut_wake : StepsOut s (execWake s) := by
  refine .next ?_
  split
  · exact .reset rfl fun _ => reset_wf
  · exact .runs (Calm.refl s).update.runs

/-! ### Every instruction, and every step -/

theorem stepsOut_fireSlot (f : SlotF) (body : Ctx → Except ETrap Fired) : StepsOut s (fireSlot s f body) :=
  (CalmOut.fireSlot (Calm.refl s)).steps

theorem stepsOut_aluR {d a b : BitVec 5} (lat : Nat) (g : Word → Word → Word) : StepsOut s (aluR lat g d a b s) := runsOut_aluR.steps

theorem stepsOut_aluI {d a : BitVec 5} (g : Word → Word) : StepsOut s (aluI g d a s) := runsOut_aluI.steps

theorem stepsOut_scr {d : BitVec 5} (a : BitVec 5) (f : Option (Word → Word → Word)) (n : BitVec 14) : StepsOut s (scr f d a n s) := runsOut_scr.steps

theorem stepsOut_branch {d a : BitVec 5} {i : BitVec 16} (test : Word → Word → Bool) : StepsOut s (branch test d a i s) :=
  runsOut_branch.steps

theorem stepsOut_exec (i : Instr) (s : State) : StepsOut s (exec i s) := by
  cases i with
  | nop f => exact stepsOut_fireSlot f bodyNop
  | mov f => exact stepsOut_fireSlot f bodyMov
  | emit f => exact stepsOut_fireSlot f bodyEmit
  | plog f => exact stepsOut_fireSlot f bodyPlog
  | tagrd f => exact stepsOut_fireSlot f bodyTagrd
  | join f => exact stepsOut_fireSlot f bodyJoin
  | joinc f => exact stepsOut_fireSlot f bodyJoinc
  | trap f => exact stepsOut_fireSlot f bodyTrap
  | perf f => exact stepsOut_fireSlot f bodyPerf
  | sel f => exact stepsOut_fireSlot f bodySel
  | add f => exact stepsOut_fireSlot f bodyAdd
  | sub f => exact stepsOut_fireSlot f bodySub
  | adds f => exact stepsOut_fireSlot f bodyAdds
  | subs f => exact stepsOut_fireSlot f bodySubs
  | mul f => exact stepsOut_fireSlot f bodyMul
  | mulh f => exact stepsOut_fireSlot f bodyMulh
  | mulhu f => exact stepsOut_fireSlot f bodyMulhu
  | mac f => exact stepsOut_fireSlot f bodyMac
  | min f => exact stepsOut_fireSlot f bodyMin
  | minu f => exact stepsOut_fireSlot f bodyMinu
  | max f => exact stepsOut_fireSlot f bodyMax
  | maxu f => exact stepsOut_fireSlot f bodyMaxu
  | abs f => exact stepsOut_fireSlot f bodyAbs
  | neg f => exact stepsOut_fireSlot f bodyNeg
  | cmpeq f => exact stepsOut_fireSlot f bodyCmpeq
  | cmplt f => exact stepsOut_fireSlot f bodyCmplt
  | cmpltu f => exact stepsOut_fireSlot f bodyCmpltu
  | cmple f => exact stepsOut_fireSlot f bodyCmple
  | and f => exact stepsOut_fireSlot f bodyAnd
  | or f => exact stepsOut_fireSlot f bodyOr
  | xor f => exact stepsOut_fireSlot f bodyXor
  | andn f => exact stepsOut_fireSlot f bodyAndn
  | shl f => exact stepsOut_fireSlot f bodyShl
  | shr f => exact stepsOut_fireSlot f bodyShr
  | sar f => exact stepsOut_fireSlot f bodySar
  | rotl f => exact stepsOut_fireSlot f bodyRotl
  | rshr f => exact stepsOut_fireSlot f bodyRshr
  | satn f => exact stepsOut_fireSlot f bodySatn
  | clz f => exact stepsOut_fireSlot f bodyClz
  | popc f => exact stepsOut_fireSlot f bodyPopc
  | ppopc f => exact stepsOut_fireSlot f bodyPpopc
  | dot4 f => exact stepsOut_fireSlot f bodyDot4
  | pack f => exact stepsOut_fireSlot f bodyPack
  | unpkl f => exact stepsOut_fireSlot f bodyUnpkl
  | unpkh f => exact stepsOut_fireSlot f bodyUnpkh
  | shuf f => exact stepsOut_fireSlot f bodyShuf
  | bcast f => exact stepsOut_fireSlot f bodyBcast
  | lanesum f => exact stepsOut_fireSlot f bodyLanesum
  | ins f => exact stepsOut_fireSlot f bodyIns
  | extr f => exact stepsOut_fireSlot f bodyExtr
  | fadd f => exact stepsOut_fireSlot f bodyFadd
  | fsub f => exact stepsOut_fireSlot f bodyFsub
  | fmul f => exact stepsOut_fireSlot f bodyFmul
  | fma f => exact stepsOut_fireSlot f bodyFma
  | fmin f => exact stepsOut_fireSlot f bodyFmin
  | fmax f => exact stepsOut_fireSlot f bodyFmax
  | fcmplt f => exact stepsOut_fireSlot f bodyFcmplt
  | fcmpeq f => exact stepsOut_fireSlot f bodyFcmpeq
  | fabs f => exact stepsOut_fireSlot f bodyFabs
  | fneg f => exact stepsOut_fireSlot f bodyFneg
  | frcp f => exact stepsOut_fireSlot f bodyFrcp
  | frsq f => exact stepsOut_fireSlot f bodyFrsq
  | fexp2 f => exact stepsOut_fireSlot f bodyFexp2
  | flog2 f => exact stepsOut_fireSlot f bodyFlog2
  | cvt f => exact stepsOut_fireSlot f bodyCvt
  | cvts f => exact stepsOut_fireSlot f bodyCvts
  | bxenc f => exact stepsOut_fireSlot f bodyBxenc
  | bxencFlush f => exact stepsOut_fireSlot f bodyBxencFlush
  | bxdec f => exact stepsOut_fireSlot f bodyBxdec
  | fopen f => exact stepsOut_fireSlot f bodyFopen
  | fadv f => exact stepsOut_fireSlot f bodyFadv
  | fend f => exact stepsOut_fireSlot f bodyFend
  | fclose f => exact stepsOut_fireSlot f bodyFclose
  | fpos f => exact stepsOut_fireSlot f bodyFpos
  | cpair f => exact stepsOut_fireSlot f bodyCpair
  | csplitC f => exact stepsOut_fireSlot f bodyCsplitC
  | csplitV f => exact stepsOut_fireSlot f bodyCsplitV
  | bmexp f => exact stepsOut_fireSlot f bodyBmexp
  | bmand f => exact stepsOut_fireSlot f bodyBmand
  | cmerge f => exact stepsOut_fireSlot f bodyCmerge
  | topk f => exact stepsOut_fireSlot f bodyTopk
  | topkrd f => exact stepsOut_fireSlot f bodyTopkrd
  | srd f => exact stepsOut_fireSlot f bodySrd
  | swr f => exact stepsOut_fireSlot f bodySwr
  | sadd f => exact stepsOut_fireSlot f bodySadd
  | smax f => exact stepsOut_fireSlot f bodySmax
  | smin f => exact stepsOut_fireSlot f bodySmin
  | sxch f => exact stepsOut_fireSlot f bodySxch
  | cbrd f => exact stepsOut_fireSlot f bodyCbrd
  | cbrdPop f => exact stepsOut_fireSlot f bodyCbrdPop
  | cbwr f => exact stepsOut_fireSlot f bodyCbwr
  | cbadvr f => exact stepsOut_fireSlot f bodyCbadvr
  | cbadvw f => exact stepsOut_fireSlot f bodyCbadvw
  | cbset f => exact stepsOut_fireSlot f bodyCbset
  | pwr _ => exact calmOut_pwr.steps
  | prd f => exact stepsOut_fireSlot f bodyPrd
  | pclr f => exact stepsOut_fireSlot f bodyPclr
  | mpgo f => exact stepsOut_fireSlot f bodyMpgo
  | mpst f => exact stepsOut_fireSlot f bodyMpst
  | mpstSusp f => exact stepsOut_fireSlot f bodyMpstSusp
  | mpstRes f => exact stepsOut_fireSlot f bodyMpstRes
  | xrd f => exact stepsOut_fireSlot f bodyXrd
  | xrdP f => exact stepsOut_fireSlot f bodyXrdP
  | xwr f => exact stepsOut_fireSlot f bodyXwr
  | xwrP f => exact stepsOut_fireSlot f bodyXwrP
  | tcfg f => exact stepsOut_fireSlot f bodyTcfg
  | tfill f => exact stepsOut_fireSlot f bodyTfill
  | tzero f => exact stepsOut_fireSlot f bodyTzero
  | tmma f => exact stepsOut_fireSlot f bodyTmma
  | tdrain f => exact stepsOut_fireSlot f bodyTdrain
  | trel f => exact stepsOut_fireSlot f bodyTrel
  | tstat f => exact stepsOut_fireSlot f bodyTstat
  | tscale f => exact stepsOut_fireSlot f bodyTscale
  | tacc f => exact stepsOut_fireSlot f bodyTacc
  | ld f => exact stepsOut_fireSlot f bodyLd
  | ldf f => exact stepsOut_fireSlot f bodyLdf
  | st f => exact stepsOut_fireSlot f bodySt
  | stClr f => exact stepsOut_fireSlot f bodyStClr
  | sto f => exact stepsOut_fireSlot f bodySto
  | stoClr f => exact stepsOut_fireSlot f bodyStoClr
  | pld f => exact stepsOut_fireSlot f bodyPld
  | wld f => exact stepsOut_fireSlot f bodyWld
  | gld f => exact stepsOut_fireSlot f bodyGld
  | sst f => exact stepsOut_fireSlot f bodySst
  | astrm f => exact stepsOut_fireSlot f bodyAstrm
  | astwr f => exact stepsOut_fireSlot f bodyAstwr
  | agcfg f => exact stepsOut_fireSlot f bodyAgcfg
  | fence f => exact stepsOut_fireSlot f bodyFence
  | aadd f => exact stepsOut_fireSlot f bodyAadd
  | amin f => exact stepsOut_fireSlot f bodyAmin
  | amax f => exact stepsOut_fireSlot f bodyAmax
  | aand f => exact stepsOut_fireSlot f bodyAand
  | aor f => exact stepsOut_fireSlot f bodyAor
  | axch f => exact stepsOut_fireSlot f bodyAxch
  | acas f => exact stepsOut_fireSlot f bodyAcas
  | afadd f => exact stepsOut_fireSlot f bodyAfadd
  | tken f => exact stepsOut_fireSlot f bodyTken
  | tkdec f => exact stepsOut_fireSlot f bodyTkdec
  | tkdecRet f => exact stepsOut_fireSlot f bodyTkdecRet
  | qput f => exact stepsOut_fireSlot f bodyQput
  | tkst f => exact stepsOut_fireSlot f bodyTkst
  | tkstClr f => exact stepsOut_fireSlot f bodyTkstClr
  | tkstAbn f => exact stepsOut_fireSlot f bodyTkstAbn
  | ald f => exact stepsOut_fireSlot f bodyAld
  | ast f => exact stepsOut_fireSlot f bodyAst
  | aaddc f => exact stepsOut_fireSlot f bodyAaddc
  | aiter f => exact stepsOut_fireSlot f bodyAiter
  | acnt f => exact stepsOut_fireSlot f bodyAcnt
  | acntH f => exact stepsOut_fireSlot f bodyAcntH
  | cpy f => exact stepsOut_fireSlot f bodyCpy
  | cve f => exact stepsOut_fireSlot f bodyCve
  | densQ f => exact stepsOut_fireSlot f bodyDensQ
  | densS f => exact stepsOut_fireSlot f bodyDensS
  | rld f => exact stepsOut_fireSlot f bodyRld
  | rst f => exact stepsOut_fireSlot f bodyRst
  | rstAck f => exact stepsOut_fireSlot f bodyRstAck
  | dred f => exact stepsOut_fireSlot f bodyDred
  | drrecvR f => exact stepsOut_fireSlot f bodyDrrecvR
  | drrecvW f => exact stepsOut_fireSlot f bodyDrrecvW
  | drclose f => exact stepsOut_fireSlot f bodyDrclose
  | drcloseW f => exact stepsOut_fireSlot f bodyDrcloseW
  | seqAdd _ _ _ => exact stepsOut_aluR 1 (fun x y => x + y)
  | seqSub _ _ _ => exact stepsOut_aluR 1 (fun x y => x - y)
  | seqAnd _ _ _ => exact stepsOut_aluR 1 (fun x y => x &&& y)
  | seqOr _ _ _ => exact stepsOut_aluR 1 (fun x y => x ||| y)
  | seqXor _ _ _ => exact stepsOut_aluR 1 (fun x y => x ^^^ y)
  | sll _ _ _ => exact stepsOut_aluR 1 (fun x y => x <<< shamt y)
  | srl _ _ _ => exact stepsOut_aluR 1 (fun x y => x >>> shamt y)
  | sra _ _ _ => exact stepsOut_aluR 1 (fun x y => x.sshiftRight (shamt y))
  | slt _ _ _ => exact stepsOut_aluR 1 (fun x y => boolW (x.slt y))
  | sltu _ _ _ => exact stepsOut_aluR 1 (fun x y => boolW (x.ult y))
  | seqMul _ _ _ => exact stepsOut_aluR 3 (fun x y => x * y)
  | seqMulh _ _ _ => exact stepsOut_aluR 3 mulh
  | divu _ _ _ => exact stepsOut_aluR 66 quot
  | remu _ _ _ => exact stepsOut_aluR 66 rmdr
  | addi _ _ imm => exact stepsOut_aluI (fun x => x + sext16 imm)
  | andi _ _ imm => exact stepsOut_aluI (fun x => x &&& zext16 imm)
  | ori _ _ imm => exact stepsOut_aluI (fun x => x ||| zext16 imm)
  | xori _ _ imm => exact stepsOut_aluI (fun x => x ^^^ zext16 imm)
  | slli _ _ k => exact stepsOut_aluI (fun x => x <<< k.toNat)
  | srli _ _ k => exact stepsOut_aluI (fun x => x >>> k.toNat)
  | srai _ _ k => exact stepsOut_aluI (fun x => x.sshiftRight k.toNat)
  | slti _ _ imm => exact stepsOut_aluI (fun x => boolW (x.slt (sext16 imm)))
  | lui _ imm => exact stepsOut_aluI (a := 0) (fun _ => sext16 imm <<< 16)
  | ldb _ _ _ => exact runsOut_seqLoad.steps
  | ldh _ _ _ => exact runsOut_seqLoad.steps
  | ldw _ _ _ => exact runsOut_seqLoad.steps
  | ldd _ _ _ => exact runsOut_seqLoad.steps
  | stb _ _ _ => exact runsOut_seqStore.steps
  | sth _ _ _ => exact runsOut_seqStore.steps
  | stw _ _ _ => exact runsOut_seqStore.steps
  | std _ _ _ => exact runsOut_seqStore.steps
  | beq _ _ _ => exact stepsOut_branch (fun x y => x == y)
  | bne _ _ _ => exact stepsOut_branch (fun x y => x != y)
  | blt _ _ _ => exact stepsOut_branch (fun x y => x.slt y)
  | bge _ _ _ => exact stepsOut_branch (fun x y => !x.slt y)
  | bltu _ _ _ => exact stepsOut_branch (fun x y => x.ult y)
  | bgeu _ _ _ => exact stepsOut_branch (fun x y => !x.ult y)
  | jal _ _ => exact runsOut_jal.steps
  | jalr _ _ _ => exact runsOut_jalr.steps
  | scrr _ a n => exact stepsOut_scr a none n
  | scrw _ a n => exact stepsOut_scr a (some fun _ x => x) n
  | scrs _ a n => exact stepsOut_scr a (some fun t x => if n.toNat = 0x012 then x else t ||| x) n
  | scrc _ a n => exact stepsOut_scr a (some fun t x => if n.toNat = 0x012 then x else t &&& ~~~x) n
  | instWord _ _ => exact runsOut_instWord.steps
  | abnd _ _ => exact runsOut_abnd.steps
  | erd _ _ _ => exact runsOut_erd.steps
  | ewr _ _ _ => exact runsOut_ewr.steps
  | occr _ _ => exact runsOut_occr.steps
  | tinv _ _ => exact runsOut_tinv.steps
  | savec _ _ _ => exact runsOut_savec.steps
  | tret => exact runsOut_tret.steps
  | wev _ _ => exact runsOut_wev.steps
  | sysr _ a _ => exact (runsOut_sysr (a := a)).steps
  | seqFence _ => exact runsOut_seqFence.steps
  | escapement => exact (CalmOut.escapement (Calm.refl s)).steps
  | balanceReweight => exact (CalmOut.balanceReweight (Calm.refl s)).steps
  | stageAdvance => exact (CalmOut.stageAdvance (Calm.refl s)).steps
  | deferredReply => exact (CalmOut.deferredReply (Calm.refl s)).steps
  | microprogramStep => exact (CalmOut.microprogramStep (Calm.refl s)).steps
  | microprogramCompletion => exact (CalmOut.microprogramCompletion (Calm.refl s)).steps
  | microprogramSuspend => exact (CalmOut.microprogramSuspend (Calm.refl s)).steps
  | bankClock => exact (CalmOut.bankClock (Calm.refl s)).steps
  | yieldClock => exact (CalmOut.yieldClock (Calm.refl s)).steps
  | crossReservation => exact (CalmOut.crossReservation (Calm.refl s)).steps
  | crossRequest => exact (CalmOut.crossRequest (Calm.refl s)).steps
  | crossReply => exact (CalmOut.crossReply (Calm.refl s)).steps
  | arrayStart => exact (CalmOut.arrayStart (Calm.refl s)).steps
  | arrayComplete => exact (CalmOut.arrayComplete (Calm.refl s)).steps
  | drainPortToken => exact (CalmOut.drainPortToken (Calm.refl s)).steps
  | addressGeneratorIssue => exact (CalmOut.addressGeneratorIssue (Calm.refl s)).steps
  | accessIssue => exact (CalmOut.accessIssue (Calm.refl s)).steps
  | memoryEdgeAccess => exact runsOut_memoryEdgeAccess.steps
  | weightRefreshWindow => exact (CalmOut.weightRefreshWindow (Calm.refl s)).steps
  | memoryReply => exact (CalmOut.memoryReply (Calm.refl s)).steps
  | gdeDelivery => exact (CalmOut.gdeDelivery (Calm.refl s)).steps
  | atomicPerform => exact (CalmOut.atomicPerform (Calm.refl s)).steps
  | admissionRequest => exact (CalmOut.admissionRequest (Calm.refl s)).steps
  | depDecrement => exact (CalmOut.depDecrement (Calm.refl s)).steps
  | taskCompletion => exact (CalmOut.taskCompletion (Calm.refl s)).steps
  | dispatch => exact (CalmOut.dispatch (Calm.refl s)).steps
  | threadTokenWrite => exact (CalmOut.threadTokenWrite (Calm.refl s)).steps
  | configurationChoice => exact (CalmOut.configurationChoice (Calm.refl s)).steps
  | refillRequest => exact (CalmOut.refillRequest (Calm.refl s)).steps
  | refillReturn => exact (CalmOut.refillReturn (Calm.refl s)).steps
  | entryEmit => exact (CalmOut.entryEmit (Calm.refl s)).steps
  | arborPoint => exact (CalmOut.arborPoint (Calm.refl s)).steps
  | traversalStep => exact (CalmOut.traversalStep (Calm.refl s)).steps
  | commandBlockCheck => exact (CalmOut.commandBlockCheck (Calm.refl s)).steps
  | commandAcceptance => exact (CalmOut.commandAcceptance (Calm.refl s)).steps
  | copyChunk => exact (CalmOut.copyChunk (Calm.refl s)).steps
  | conversionPhase => exact (CalmOut.conversionPhase (Calm.refl s)).steps
  | densChunk => exact (CalmOut.densChunk (Calm.refl s)).steps
  | commandEnd => exact (CalmOut.commandEnd (Calm.refl s)).steps
  | remoteRequest => exact (CalmOut.remoteRequest (Calm.refl s)).steps
  | remoteReply => exact (CalmOut.remoteReply (Calm.refl s)).steps
  | remoteTimeout => exact (CalmOut.remoteTimeout (Calm.refl s)).steps
  | reductionAcceptance => exact (CalmOut.reductionAcceptance (Calm.refl s)).steps
  | contributionSent => exact (CalmOut.contributionSent (Calm.refl s)).steps
  | reductionPacket => exact (CalmOut.reductionPacket (Calm.refl s)).steps
  | deadlineExpiry => exact (CalmOut.deadlineExpiry (Calm.refl s)).steps
  | closeDeadlineExpiry => exact (CalmOut.closeDeadlineExpiry (Calm.refl s)).steps
  | receivePacket => exact (CalmOut.receivePacket (Calm.refl s)).steps
  | portDown => exact (CalmOut.portDown (Calm.refl s)).steps
  | illegal => exact runsOut_illegal.steps
  | trapEntry => exact runsOut_trapEntry.steps
  | installPlacement => exact (CalmOut.installPlacement (Calm.refl s)).steps
  | installWake => exact (CalmOut.installWake (Calm.refl s)).steps
  | installStream => exact (CalmOut.installStream (Calm.refl s)).steps
  | installDepthGrant => exact (CalmOut.installDepthGrant (Calm.refl s)).steps
  | installCommit => exact (CalmOut.installCommit (Calm.refl s)).steps
  | installAbandon => exact (CalmOut.installAbandon (Calm.refl s)).steps
  | reconfigurationTokenPass => exact (CalmOut.reconfigurationTokenPass (Calm.refl s)).steps
  | drainArrival => exact (CalmOut.drainArrival (Calm.refl s)).steps
  | preempt => exact (CalmOut.preempt (Calm.refl s)).steps
  | preemptDrainEnd => exact (CalmOut.preemptDrainEnd (Calm.refl s)).steps
  | preemptCommit => exact (CalmOut.preemptCommit (Calm.refl s)).steps
  | pageRequestPost => exact (CalmOut.pageRequestPost (Calm.refl s)).steps
  | restoreCompletion => exact (CalmOut.restoreCompletion (Calm.refl s)).steps
  | voteClose => exact (CalmOut.voteClose (Calm.refl s)).steps
  | quarantine => exact (CalmOut.quarantine (Calm.refl s)).steps
  | hostRd => exact (CalmOut.hostRd (Calm.refl s)).steps
  | hostWr => exact (CalmOut.hostWr (Calm.refl s)).steps
  | hostCas => exact (CalmOut.hostCas (Calm.refl s)).steps
  | hostTken => exact (CalmOut.hostTken (Calm.refl s)).steps
  | attest => exact (CalmOut.attest (Calm.refl s)).steps
  | registerWrite => exact (CalmOut.registerWrite (Calm.refl s)).steps
  | pgreqRead => exact (CalmOut.pgreqRead (Calm.refl s)).steps
  | pgdone => exact (CalmOut.pgdone (Calm.refl s)).steps
  | selogRead => exact (CalmOut.selogRead (Calm.refl s)).steps
  | syestatClear => exact (CalmOut.syestatClear (Calm.refl s)).steps
  | bootva => exact stepsOut_bootva
  | reset => exact stepsOut_reset
  | powerStateEntry => exact (CalmOut.powerStateEntry (Calm.refl s)).steps
  | wake => exact stepsOut_wake
  | ownerLoss => exact (CalmOut.ownerLoss (Calm.refl s)).steps
  | portUp => exact (CalmOut.portUp (Calm.refl s)).steps
  | groupTableWrite => exact (CalmOut.groupTableWrite (Calm.refl s)).steps
  | boardPowerUp => exact stepsOut_boardPowerUp
  | hardwareTrip => exact (CalmOut.hardwareTrip (Calm.refl s)).steps

/-- What the turn of a sequencer comes to: it runs on with no instruction, or the machine is ready to run one for it. -/
def Act.seqTurn (s : State) (t : Nat) : Act → Prop
  | .quiet s' => Runs s s'
  | .run _ s1 => Calm s s1 ∧ s1.actor = .seq t

/-- The translation cache after a turn's fetch. -/
theorem Calm.turnXlat {a : State} (h : Calm a s) {t : Nat} {x : Option Xlat} :
    Calm a (match x with | some x => s.xlated t x | none => s) := by
  cases x with
  | none => exact h
  | some x => exact h.xlated

theorem seqAct_turn {t : Nat} : (s.seqAct t).seqTurn s t := by
  unfold State.seqAct
  split
  next => exact (Calm.refl s).runs
  next q _ =>
    dsimp only
    split
    next => exact (Calm.refl s).turnXlat.runs
    next => exact .after (Calm.refl s).turnXlat.logRead runs_trapQ
    next => exact ⟨(Calm.refl s).turnXlat.update, rfl⟩

/-- An instruction that runs for a sequencer releases none. -/
theorem Steps.of_seq {s1 s' : State} {t : Nat} {x : Actor} (hcalm : Calm s s1) (hact : x = .seq t) (h : Steps x s1 s') :
    Steps x s s' := by
  cases h with
  | runs h => exact .runs (.after hcalm h)
  | released a hreg =>
    obtain ⟨t', n, v, hreg⟩ := hreg
    rw [hact] at hreg
    exact absurd hreg nofun
  | reset hseqs hform => exact .reset hseqs fun h => hform (hcalm.form h)

/-- An instruction of a state that differs in its agenda and actor. -/
theorem Steps.of_turn {s' : State} {rest : List Turn} {x y : Actor} (h : Steps x { s with agenda := rest, actor := y } s') :
    Steps x s s' := by
  cases h with
  | runs h => exact .runs (.after (Calm.refl s).update h)
  | released a hact hwas his hseqs hmem hal => exact .released a hact hwas his hseqs hmem hal
  | reset hseqs hform => exact .reset hseqs hform

theorem fireAct_turn {s1 : State} {i : Instr} {r : ElemRef} {n stall starve : Nat} (h : s.fireAct r n stall starve = .run i s1) :
    s1 = { s with actor := .slot r n stall starve } := by
  unfold State.fireAct at h
  split at h
  · exact absurd h nofun
  · split at h
    · exact (Act.run.inj h).2.symm
    · exact absurd h nofun

theorem fireAct_quiet {s1 : State} {r : ElemRef} {n stall starve : Nat} (h : s.fireAct r n stall starve = .quiet s1) : s1 = s := by
  unfold State.fireAct at h
  split at h
  · exact (Act.quiet.inj h).symm
  · split at h
    · exact absurd h nofun
    · exact (Act.quiet.inj h).symm

/-- Every step: the machine runs on, the sequencers are released, or they are reset. -/
theorem step_steps {s' : State} (h : step s = .next s') : ∃ x, Steps x s s' := by
  unfold step State.act at h
  cases hag : s.agenda with
  | nil =>
    rw [hag] at h
    obtain rfl := Host.Outcome.next.inj h
    exact ⟨.none, .runs (Calm.refl s).clockEdge.runs⟩
  | cons turn rest =>
    rw [hag] at h
    have hrest : Calm s { s with agenda := rest } := (Calm.refl s).update
    cases turn with
    | phase k =>
      obtain rfl := Host.Outcome.next.inj h
      exact ⟨.none, .runs hrest.beginPhase.runs⟩
    | seq t =>
      have hturn : (State.seqAct { s with agenda := rest } t).seqTurn { s with agenda := rest } t := seqAct_turn
      dsimp only at h
      cases hact : State.seqAct { s with agenda := rest } t with
      | quiet s1 =>
        rw [hact] at h hturn
        obtain rfl := Host.Outcome.next.inj h
        exact ⟨.none, .runs (.after hrest hturn)⟩
      | run i s1 =>
        rw [hact] at h hturn
        obtain ⟨hcalm, hseq⟩ := hturn
        exact ⟨s1.actor, .of_seq (hrest.trans hcalm) hseq (stepsOut_exec i s1 s' h)⟩
    | fire r n a b =>
      dsimp only at h
      cases hact : State.fireAct { s with agenda := rest } r n a b with
      | quiet s1 =>
        rw [hact] at h
        obtain rfl := Host.Outcome.next.inj h
        obtain rfl := fireAct_quiet hact
        exact ⟨.none, .runs hrest.runs⟩
      | run i s1 =>
        rw [hact] at h
        obtain rfl := fireAct_turn hact
        exact ⟨_, .of_turn (stepsOut_exec i _ s' h)⟩
    | event i x => exact ⟨x, .of_turn (stepsOut_exec i _ s' h)⟩

/-! ### The obligations -/

theorem boot_aligned (q : Seq) {a : Nat} (h : a % 4 = 0) : (q.boot a).core.aligned := by
  refine ⟨?_, ?_⟩
  · show (BitVec.ofNat 57 a).toNat % 4 = 0
    rw [BitVec.toNat_ofNat]
    omega
  · show (BitVec.ofNat 64 a).toNat % 4 = 0
    rw [BitVec.toNat_ofNat]
    omega

/-- Settles O58: by cases on what a step comes to, which every instruction and every turn has its lemma for. -/
theorem stepKeepsForm : Obligations.StepKeepsForm := by
  intro s s' hs hform hal
  obtain ⟨x, h⟩ := step_steps hs
  cases h with
  | runs h =>
    have hcores : ∀ c ∈ s.cores, c.aligned := fun c hc => by
      obtain ⟨q, hq, rfl⟩ := List.mem_map.mp hc
      exact hal q hq
    exact ⟨h.form hform, fun q hq => h.aligned hcores _ (core_mem hq)⟩
  | released a hact hwas his hseqs hmem ha =>
    refine ⟨hmem ▸ hform, fun q hq => ?_⟩
    rw [hseqs] at hq
    obtain ⟨q0, -, rfl⟩ := List.mem_map.mp hq
    exact boot_aligned q0 ha
  | reset hseqs hkeep =>
    refine ⟨hkeep hform, fun q hq => ?_⟩
    rw [hseqs] at hq
    obtain ⟨t, -, rfl⟩ := List.mem_map.mp hq
    exact ⟨rfl, rfl⟩

/-- Settles O59: by cases on what a step comes to; a step on which the machine runs on leaves user mode by a trap alone. -/
theorem userModeLeft : Obligations.UserModeLeft := by
  intro s s' t q q' hs hq hq' huser hpriv
  obtain ⟨x, h⟩ := step_steps hs
  cases h with
  | runs h =>
    have hcore : s.core? t = some q.core := by rw [core?_eq, hq, Option.map_some]
    have hcore' : s'.core? t = some q'.core := by rw [core?_eq, hq', Option.map_some]
    obtain ⟨htrap, hsaved, hnest, hpc, hepc, hregs⟩ := h.modes t q.core q'.core hcore hcore' huser hpriv
    exact .inl ⟨htrap, hsaved, hnest, hpc, hepc, hregs⟩
  | released a hact hwas his hseqs hmem ha =>
    refine .inr (.inl ⟨hwas, his, a, ?_⟩)
    rw [State.seq?, hseqs, List.find?_map] at hq'
    have hfind : s.seqs.find? ((fun q => decide (q.tile = t)) ∘ fun q => q.boot a) = some q := hq
    rw [hfind] at hq'
    exact (Option.some.inj hq').symm
  | reset hseqs hkeep =>
    refine .inr (.inr ?_)
    have hmem := seq_mem hq'
    rw [hseqs] at hmem
    obtain ⟨u, -, hu⟩ := List.mem_map.mp hmem
    obtain rfl : u = t := (congrArg Seq.tile hu).trans (seq_tile hq')
    exact hu.symm

end Sys2Proof.Machine
end

section
/-! SUPPORT. Task records as the SYE keeps them (R336, R339 to R343): what each write of a field leaves of a record, what a final
state and an admission leave, and who owns the record. -/

namespace Sys2Proof.Machine

open Sys2Proof Sys2Proof.Safety

/-! ### What stands in a record -/

/-- The fields of a record that the SYE reads or writes at its points. -/
structure RecView where
  st : Nat
  err : Nat
  dep : Nat
  pend : Nat
  count : Nat
  prio : Nat
  succ : List Nat

def State.view (s : State) (h : Nat) : RecView :=
  ⟨s.trState h, s.trErr h, s.trDep h, s.trPend h, s.trCount h, s.trPrio h,
    [s.trSucc h 0, s.trSucc h 1, s.trSucc h 2, s.trSucc h 3]⟩

/-- A record stands at an address, in memory of canonical form, with these fields. -/
structure RecAt (s : State) (h a : Nat) (r : RecView) : Prop where
  addr : s.recAddr h = some a
  wf : Memory.wf s.mem = true
  view : s.view h = r

variable {s : State} {h a : Nat} {r : RecView}

theorem recField_of_mem {s' : State} (hmem : s'.mem = s.mem) (hdv : s'.dv = s.dv) (off lo n : Nat) :
    s'.recField h off lo n = s.recField h off lo n := by
  simp only [State.recField, recAddr_of_dv hdv, word_of_mem hmem]

theorem RecAt.same {s' : State} (hr : RecAt s h a r) (hmem : s'.mem = s.mem) (hdv : s'.dv = s.dv) : RecAt s' h a r := by
  refine ⟨(recAddr_of_dv hdv h).trans hr.addr, hmem ▸ hr.wf, Eq.trans ?_ hr.view⟩
  simp only [State.view, State.trState, State.trErr, State.trDep, State.trPend, State.trCount, State.trPrio, State.trSucc,
    recField_of_mem hmem hdv]

/-- A write of a field of the record. -/
theorem RecAt.write (hr : RecAt s h a r) {off lo n v : Nat} {r' : RecView}
    (hview : (s.setRecField h off lo n v).view h = r') : RecAt (s.setRecField h off lo n v) h a r' :=
  ⟨(recAddr_setRecField s h off lo n v h).trans hr.addr, setRecField_wf s h off lo n v hr.wf, hview⟩

theorem RecAt.setTrState (hr : RecAt s h a r) (v : Nat) : RecAt (s.setTrState h v) h a { r with st := v % 16 } := by
  refine hr.write (hr.view ▸ ?_)
  simp (disch := omega) only [State.view, State.trState, State.trErr, State.trDep, State.trPend, State.trCount, State.trPrio,
    State.trSucc, recField_setRecField hr.addr hr.wf, recField_setRecField_other hr.addr hr.wf]
  norm_num

theorem RecAt.setErr (hr : RecAt s h a r) (v : Nat) : RecAt (s.setErr h v) h a { r with err := v % 2 ^ 16 } := by
  refine hr.write (hr.view ▸ ?_)
  simp (disch := omega) only [State.view, State.trState, State.trErr, State.trDep, State.trPend, State.trCount, State.trPrio,
    State.trSucc, recField_setRecField hr.addr hr.wf, recField_setRecField_other hr.addr hr.wf]

theorem RecAt.setDep (hr : RecAt s h a r) (v : Nat) : RecAt (s.setDep h v) h a { r with dep := v % 2 ^ 32 } := by
  refine hr.write (hr.view ▸ ?_)
  simp (disch := omega) only [State.view, State.trState, State.trErr, State.trDep, State.trPend, State.trCount, State.trPrio,
    State.trSucc, recField_setRecField hr.addr hr.wf, recField_setRecField_other hr.addr hr.wf]

theorem RecAt.setPend (hr : RecAt s h a r) (v : Nat) : RecAt (s.setPend h v) h a { r with pend := v % 2 ^ 32 } := by
  refine hr.write (hr.view ▸ ?_)
  simp (disch := omega) only [State.view, State.trState, State.trErr, State.trDep, State.trPend, State.trCount, State.trPrio,
    State.trSucc, recField_setRecField hr.addr hr.wf, recField_setRecField_other hr.addr hr.wf]

theorem RecAt.setLink (hr : RecAt s h a r) (v : Word) : RecAt (s.setLink h v) h a r := by
  refine hr.write (hr.view ▸ ?_)
  simp (disch := omega) only [State.view, State.trState, State.trErr, State.trDep, State.trPend, State.trCount, State.trPrio,
    State.trSucc, recField_setRecField_other hr.addr hr.wf]

theorem RecAt.addErr (hr : RecAt s h a r) (c : Nat) :
    RecAt (s.addErr h c) h a { r with err := if r.err = 0 then c % 2 ^ 16 else r.err } := by
  have herr : s.trErr h = r.err := congrArg RecView.err hr.view
  unfold State.addErr
  rw [herr]
  split
  next => exact hr.setErr c
  next => exact hr

/-! ### Dies and the owner of a record (R339) -/

theorem ownsH_eq (s : State) (h : Nat) : s.ownsH h = ((s.die? (handleDie h)).map fun x => setHas x.owned (handleIdx h)).getD false := by
  rw [State.ownsH, State.owns]
  cases s.die? (handleDie h) <;> rfl

theorem ownsH_of_die {x : Die} (hx : s.die? (handleDie h) = some x) : s.ownsH h = setHas x.owned (handleIdx h) := by
  rw [State.ownsH, State.owns, hx]

theorem ownsH_of_dies {s' : State} (hd : s'.dies = s.dies) (h : Nat) : s'.ownsH h = s.ownsH h := by
  rw [State.ownsH, State.ownsH, State.owns, State.owns, State.die?, State.die?, hd]

theorem ownsH_modDie {n : Nat} {f : Die → Die} (hn : ∀ x, (f x).n = x.n) (hf : ∀ x, (f x).owned = x.owned) (h : Nat) :
    (s.modDie n f).ownsH h = s.ownsH h := by
  rw [ownsH_eq, ownsH_eq, modDie_die s n _ f fun x hx => (hn x).trans hx]
  split
  · cases s.die? (handleDie h) with
    | none => rfl
    | some x => exact congrArg (setHas · _) (hf x)
  · rfl

theorem recState_of_same {s' : State} (hmem : s'.mem = s.mem) (hdv : s'.dv = s.dv) (hown : s'.ownsH h = s.ownsH h) :
    s'.recState h = s.recState h := by
  have hst : s'.trState h = s.trState h := recField_of_mem hmem hdv 0x00 44 4
  rw [State.recState, State.recState, hst, hown]

/-! ### Decrements sent, and final states (R341, R343) -/

theorem sendDecs_rest (s : State) (h err : Nat) :
    ∃ ds n c, s.sendDecs h err = { s with decs := ds, nextId := n, freeCount := c } := by
  unfold State.sendDecs
  dsimp only
  refine List.foldlRecOn (motive := fun (x : State) => ∃ ds n c, x = { s with decs := ds, nextId := n, freeCount := c })
    (List.range 4) _ ⟨_, _, _, rfl⟩ fun x hx k _ => ?_
  obtain ⟨ds, n, c, rfl⟩ := hx
  split
  · exact ⟨_, _, _, rfl⟩
  · exact ⟨_, _, _, rfl⟩

/-- A record without successors decrements none. -/
theorem sendDecs_none (hsucc : ∀ k, k < 4 → handleIdx (s.trSucc h k) = 0) (err : Nat) : s.sendDecs h err = s := by
  unfold State.sendDecs
  dsimp only
  refine List.foldlRecOn (motive := fun (x : State) => x = s) (List.range 4) _ rfl fun x hx k hk => ?_
  subst hx
  exact if_pos (hsucc k (List.mem_range.mp hk))

/-- The home die of a record that reaches its final state: it owns it no longer, and neither queues nor votes on it. -/
def Die.lets (h : Nat) (d : Die) : Die :=
  { d with
    owned := setDel d.owned (handleIdx h)
    ready := d.ready.filter fun r => decide (r.handle ≠ h)
    votes := d.votes.filter fun v => decide (v.handle ≠ h) }

theorem modDie_modDie (s : State) (n : Nat) (f g : Die → Die) (hf : ∀ x, (f x).n = x.n) :
    (s.modDie n f).modDie n g = s.modDie n fun x => g (f x) := by
  have hdie (x : Die) : (if (if x.n = n then f x else x).n = n then g (if x.n = n then f x else x)
      else if x.n = n then f x else x) = if x.n = n then g (f x) else x := by
    by_cases hx : x.n = n
    · rw [if_pos hx, if_pos ((hf x).trans hx), if_pos hx]
    · rw [if_neg hx, if_neg hx, if_neg hx]
  simp only [State.modDie, List.map_map, Function.comp_def, hdie]

/-- The record's fields in its final state. -/
theorem RecAt.finishing (hr : RecAt s h a r) (ab : Bool) :
    RecAt (((s.setTrState h (if ab then 7 else 5)).setPend h 0).setLink h 0) h a
      { r with st := if ab then 7 else 5, pend := 0 } := by
  have hst : (if ab then 7 else 5) % 16 = if ab then 7 else 5 := by cases ab <;> rfl
  have h1 := ((hr.setTrState (if ab then 7 else 5)).setPend 0).setLink 0
  rw [hst] at h1
  exact h1

theorem finishing_rest (s : State) (h : Nat) (ab : Bool) :
    ∃ m, ((s.setTrState h (if ab then 7 else 5)).setPend h 0).setLink h 0 = { s with mem := m } := by
  obtain ⟨m, hm⟩ := setRecField_rest s h 0x00 44 4 (if ab then 7 else 5)
  obtain ⟨m1, hm1⟩ := setRecField_rest (s.setTrState h (if ab then 7 else 5)) h 0x08 0 32 0
  obtain ⟨m2, hm2⟩ := setRecField_rest ((s.setTrState h (if ab then 7 else 5)).setPend h 0) h 0x70 0 64 (0 : Word).toNat
  exact ⟨m2, by rw [State.setLink, hm2, State.setPend, hm1, State.setTrState, hm]⟩

theorem finishRec_eq (s : State) (h : Nat) (ab : Bool) : s.finishRec h ab =
    (if s.succBad h then ((((s.setTrState h (if ab then 7 else 5)).setPend h 0).setLink h 0).modDie (handleDie h) (Die.lets h))
    else ((((s.setTrState h (if ab then 7 else 5)).setPend h 0).setLink h 0).modDie (handleDie h) (Die.lets h)).sendDecs h
      (if ab then Cause.predAbandoned else 0)) := by
  have hlets (x : State) : (x.setOwned h false).modDie (handleDie h) (fun d => { d with
      ready := d.ready.filter fun r => decide (r.handle ≠ h), votes := d.votes.filter fun v => decide (v.handle ≠ h) }) =
      x.modDie (handleDie h) (Die.lets h) :=
    modDie_modDie x (handleDie h) (fun d => { d with owned := setDel d.owned (handleIdx h) }) _ fun _ => rfl
  rw [State.finishRec, hlets]

/-- What a final state leaves besides the record: the die lets go of it, and decrements may leave. -/
theorem finishRec_rest (s : State) (h : Nat) (ab : Bool) : ∃ m ds n c,
    s.finishRec h ab = { s.modDie (handleDie h) (Die.lets h) with mem := m, decs := ds, nextId := n, freeCount := c } := by
  obtain ⟨m, hlink⟩ := finishing_rest s h ab
  rw [finishRec_eq, hlink]
  split
  · exact ⟨_, _, _, _, rfl⟩
  · obtain ⟨ds, n, c, hdecs⟩ := sendDecs_rest (State.modDie { s with mem := m } (handleDie h) (Die.lets h)) h
      (if ab then Cause.predAbandoned else 0)
    exact ⟨_, _, _, _, hdecs⟩

theorem RecAt.finishRec (hr : RecAt s h a r) (ab : Bool) :
    RecAt (s.finishRec h ab) h a { r with st := if ab then 7 else 5, pend := 0 } := by
  rw [finishRec_eq]
  have hfin := (hr.finishing ab).same (s' := State.modDie _ (handleDie h) (Die.lets h)) rfl rfl
  split
  next => exact hfin
  next =>
    obtain ⟨ds, n, c, hdecs⟩ := sendDecs_rest _ h (if ab then Cause.predAbandoned else 0)
    exact hfin.same (by rw [hdecs]) (by rw [hdecs])

theorem RecAt.succ {s' : State} {r' : RecView} (hr : RecAt s h a r) (hr' : RecAt s' h a r') (hsame : r'.succ = r.succ) {k : Nat}
    (hk : k < 4) : s'.trSucc h k = s.trSucc h k := by
  have hlist : [s'.trSucc h 0, s'.trSucc h 1, s'.trSucc h 2, s'.trSucc h 3] =
      [s.trSucc h 0, s.trSucc h 1, s.trSucc h 2, s.trSucc h 3] :=
    (congrArg RecView.succ hr'.view).trans (hsame.trans (congrArg RecView.succ hr.view).symm)
  simp only [List.cons.injEq, and_true] at hlist
  obtain ⟨h0, h1, h2, h3⟩ := hlist
  match k, hk with
  | 0, _ => exact h0
  | 1, _ => exact h1
  | 2, _ => exact h2
  | 3, _ => exact h3

/-- A record without successors sends none when it ends. -/
theorem finishRec_decs (hr : RecAt s h a r) (hsucc : ∀ k, k < 4 → handleIdx (s.trSucc h k) = 0) (ab : Bool) :
    (s.finishRec h ab).decs = s.decs := by
  have hend := (hr.finishing ab).same (s' := State.modDie _ (handleDie h) (Die.lets h)) rfl rfl
  obtain ⟨m, hm⟩ := finishing_rest s h ab
  rw [finishRec_eq, sendDecs_none fun k hk => (congrArg handleIdx (hr.succ hend rfl hk)).trans (hsucc k hk), ite_self, hm]
  rfl

theorem finishRec_ownsH (howned : ∀ x ∈ s.dies, setWf x.owned = true) (ab : Bool) : (s.finishRec h ab).ownsH h = false := by
  obtain ⟨m, ds, n, c, hfin⟩ := finishRec_rest s h ab
  rw [hfin]
  refine (ownsH_of_dies (s := s.modDie (handleDie h) (Die.lets h)) rfl h).trans ?_
  rw [ownsH_eq, modDie_die s _ _ (Die.lets h) fun _ hx => hx, if_pos rfl]
  cases hx : s.die? (handleDie h) with
  | none => rfl
  | some x =>
    show setHas (setDel x.owned (handleIdx h)) (handleIdx h) = false
    rw [setHas_setDel (howned x (List.mem_of_find?_eq_some hx))]
    simp

theorem RecAt.abandonRec (hr : RecAt s h a r) (c : Nat) : RecAt (s.abandonRec h c) h a
    { r with st := 7, err := if r.err = 0 then c % 2 ^ 16 else r.err, pend := 0 } := (hr.addErr c).finishRec true

/-! ### Records that become READY (R340, R344) -/

theorem becomeReady_queues (hcount : s.trCount h ≠ 0) : s.becomeReady h =
    (((s.setTrState h 2).setLink h (Config.link s.freeCount)).tick).enqueue (s.readyEnt h) := if_neg hcount

theorem becomeReady_done (hcount : s.trCount h = 0) : s.becomeReady h = s.finishRec h false := if_pos hcount

/-- The home die of a record that enters its ready queue. -/
def Die.queues (r : ReadyEnt) (d : Die) : Die := { d with ready := d.ready ++ [r] }

theorem becomeReady_rest (hcount : s.trCount h ≠ 0) : ∃ m c, s.becomeReady h =
    { s.modDie (handleDie h) (Die.queues (s.readyEnt h)) with mem := m, freeCount := c } := by
  obtain ⟨m, hm⟩ := setRecField_rest s h 0x00 44 4 2
  obtain ⟨m1, hm1⟩ := setRecField_rest (s.setTrState h 2) h 0x70 0 64 (Config.link s.freeCount).toNat
  have hlink : (s.setTrState h 2).setLink h (Config.link s.freeCount) = { s with mem := m1 } := by
    rw [State.setLink, hm1, State.setTrState, hm]
  rw [becomeReady_queues hcount, hlink]
  exact ⟨_, _, rfl⟩

theorem RecAt.becomeReady (hr : RecAt s h a r) (hcount : s.trCount h ≠ 0) : RecAt (s.becomeReady h) h a { r with st := 2 } := by
  rw [becomeReady_queues hcount]
  exact ((hr.setTrState 2).setLink _).same rfl rfl

theorem becomeReady_ownsH (hcount : s.trCount h ≠ 0) : (s.becomeReady h).ownsH h = s.ownsH h := by
  obtain ⟨m, c, hready⟩ := becomeReady_rest hcount
  rw [hready]
  exact (ownsH_of_dies (s := s.modDie (handleDie h) (Die.queues (s.readyEnt h))) rfl h).trans
    (ownsH_modDie (f := Die.queues (s.readyEnt h)) (fun _ => rfl) (fun _ => rfl) h)

theorem setOwned_ownsH (hx : (s.die? (handleDie h)).isSome = true) : (s.setOwned h true).ownsH h = true := by
  obtain ⟨x, hx⟩ := Option.isSome_iff_exists.mp hx
  rw [State.setOwned, ownsH_of_die (modDie_there hx (fun d => { d with
    owned := if true then setAdd d.owned (handleIdx h) else setDel d.owned (handleIdx h) }) fun _ hn => hn)]
  show setHas (setAdd x.owned (handleIdx h)) (handleIdx h) = true
  rw [setHas_setAdd]
  simp

end Sys2Proof.Machine
end

section
/-! SUPPORT. Task records at their home engine (R336, R339 to R342, R349, R356 to R360): decrements, the requests of the admission
queue at their point, the completion of a task, and the obligation about them. -/

namespace Sys2Proof.Machine

open Sys2Proof Sys2Proof.Safety

variable {s : State} {h a : Nat} {r : RecView}

theorem setRecField_onlyBytes (ha : s.recAddr h = some a) (hm : Memory.wf s.mem = true) (off lo n v : Nat) :
    onlyBytes s (s.setRecField h off lo n v) (a + off) 8 := by
  rw [setRecField_eq ha]
  exact writeN_onlyBytes s (a + off) 8 _ hm

theorem onlyBytes_of_mem {s0 s1 s' : State} {x n : Nat} (hmem : s0.mem = s.mem) (hmem' : s'.mem = s1.mem)
    (honly : onlyBytes s0 s1 x n) : onlyBytes s s' x n := fun b hb =>
  (byte_of_mem hmem' b).trans ((honly b hb).trans (byte_of_mem hmem b))

/-! ### Decrements (R342, R343) -/

theorem vote?_modDie {n : Nat} {f : Die → Die} (hn : ∀ x, (f x).n = x.n) (hf : ∀ x, (f x).votes = x.votes) (t : Nat) :
    (s.modDie n f).vote? t = s.vote? t := by
  rw [State.vote?, State.vote?, modDie_die s n _ f fun x hx => (hn x).trans hx]
  split
  · cases s.die? (handleDie t) with
    | none => rfl
    | some x => exact congrArg (fun vs : List Vote => vs.find? fun v => decide (v.handle = t)) (hf x)
  · rfl

theorem readyEnt_of_same {s' : State} (hsaved : s'.saved = s.saved) (hclock : s'.clock = s.clock)
    (hvote : ∀ t, s'.vote? t = s.vote? t) (hprio : s'.trPrio h = s.trPrio h) : s'.readyEnt h = s.readyEnt h := by
  simp only [State.readyEnt, hsaved, hclock, hvote, hprio]

/-- The SYE takes a decrement. -/
def State.decTaken (s : State) (n h : Nat) : State :=
  { s.useOp (handleDie h) with decs := s.decs.filter fun x => decide (x.id ≠ n) }

theorem exec_depDecrement {n : Nat} {d : DecMsg} (ha : s.actor = .id n) (hd : (s.decs.find? fun d => decide (d.id = n)) = some d)
    (hbad : s.recBad d.handle = false) (herr : d.err = 0) (hbusy : s.opBusy (handleDie d.handle) = false) :
    exec .depDecrement s = .next ((s.decTaken n d.handle).decrement d.handle) := by
  have hbad' : (s.decTaken n d.handle).recBad d.handle = false := hbad
  show execDepDecrement s = _
  simp only [execDepDecrement, ha, hd, hbusy, herr]
  rw [if_neg Bool.false_ne_true, if_neg fun hx => Bool.false_ne_true (hbad'.symm.trans hx.1), if_neg fun hx => hx.2 rfl]
  rfl

theorem decTaken_ownsH (n x : Nat) : (s.decTaken n h).ownsH x = s.ownsH x :=
  (ownsH_of_dies (s := s.useOp (handleDie h)) rfl x).trans
    (ownsH_modDie (f := fun x => { x with opFree := s.clock + 1 }) (fun _ => rfl) (fun _ => rfl) x)

theorem decTaken_recState (n : Nat) : (s.decTaken n h).recState h = s.recState h :=
  recState_of_same rfl rfl (decTaken_ownsH n h)

theorem decrement_lowers (hst : s.recState h = 1 ∨ s.recState h = 6) (hdep : 1 < s.trDep h) :
    s.decrement h = s.setDep h (s.trDep h - 1) := by
  unfold State.decrement
  rcases hst with hst | hst
  · rw [hst]
    exact if_neg (by omega)
  · rw [hst]
    exact if_neg (by omega)

theorem decrement_zero (hst : s.recState h = 1) (hdep : s.trDep h = 1) : s.decrement h = (s.setDep h 0).depZero h := by
  unfold State.decrement
  rw [hst, hdep]
  rfl

theorem decrement_drops (h1 : s.recState h ≠ 1) (h6 : s.recState h ≠ 6) : s.decrement h = s.dropDec h := by
  unfold State.decrement
  split
  · exact absurd ‹_› h1
  · exact absurd ‹_› h6
  · rfl

/-- What a dropped decrement leaves in dv.SYESTAT (R457). -/
theorem dropDec_syestat (s : State) (h : Nat) : bitAt (s.dropDec h).dv.syestat 0 = true ∧
    fld (s.dropDec h).dv.syestat 32 32 = h % 2 ^ 32 ∧
    fld (s.dropDec h).dv.syestat 16 16 = min 0xFFFF (fld s.dv.syestat 16 16 + 1) := by
  have hn : min 0xFFFF (fld s.dv.syestat 16 16 + 1) < 2 ^ 16 := by omega
  have hh : h % 2 ^ 32 < 2 ^ 32 := Nat.mod_lt _ (by norm_num)
  have hval : (s.dropDec h).dv.syestat.toNat = h % 2 ^ 32 * 2 ^ 32 + min 0xFFFF (fld s.dv.syestat 16 16 + 1) * 2 ^ 16 + 1 := by
    show (BitVec.ofNat 64 _).toNat = _
    rw [BitVec.toNat_ofNat, Nat.mod_eq_of_lt (by omega)]
  generalize min 0xFFFF (fld s.dv.syestat 16 16 + 1) = n at hn hval ⊢
  generalize h % 2 ^ 32 = x at hh hval ⊢
  refine ⟨?_, ?_, ?_⟩
  · rw [bitAt, ← BitVec.testBit_toNat, Nat.testBit_eq_decide_div_mod_eq, hval, decide_eq_true]
    omega
  · rw [fld, fldN, hval]
    omega
  · rw [fld, fldN, hval]
    omega

theorem depZero_ready (herr : s.trErr h = 0) : s.depZero h = s.becomeReady h := if_pos herr

theorem depZero_abandoned (herr : s.trErr h ≠ 0) : s.depZero h = s.finishRec h true := if_neg herr

theorem setRecField_dies (s : State) (h off lo n v : Nat) : (s.setRecField h off lo n v).dies = s.dies := by
  obtain ⟨m, hm⟩ := setRecField_rest s h off lo n v
  rw [hm]

theorem setRecField_decs (s : State) (h off lo n v : Nat) : (s.setRecField h off lo n v).decs = s.decs := by
  obtain ⟨m, hm⟩ := setRecField_rest s h off lo n v
  rw [hm]

theorem setRecField_vote (s : State) (h off lo n v t : Nat) : (s.setRecField h off lo n v).vote? t = s.vote? t := by
  obtain ⟨m, hm⟩ := setRecField_rest s h off lo n v
  rw [hm]
  rfl

/-- A record that becomes READY stands in the ready queue of its die, with its entry as it was before its fields were written. -/
theorem becomeReady_die {s0 : State} {x : Die} (hcount : s.trCount h ≠ 0) (hx : s.die? (handleDie h) = some x)
    (hent : s.readyEnt h = s0.readyEnt h) :
    (s.becomeReady h).die? (handleDie h) = some { x with ready := x.ready ++ [s0.readyEnt h] } := by
  obtain ⟨m, c, hready⟩ := becomeReady_rest hcount
  rw [hready, ← hent]
  exact modDie_there (s := s) hx (Die.queues (s.readyEnt h)) fun _ hn => hn

theorem becomeReady_decs (hcount : s.trCount h ≠ 0) : (s.becomeReady h).decs = s.decs := by
  obtain ⟨m, c, hready⟩ := becomeReady_rest hcount
  rw [hready]
  rfl

section
variable {n : Nat} (hr : RecAt s h a r)
include hr

theorem RecAt.decTaken : RecAt (s.decTaken n h) h a r := hr.same rfl rfl

/-- A decrement that leaves others to come (R342). -/
theorem decTaken_lowers (hst : s.recState h = 1 ∨ s.recState h = 6) (hdep : 1 < s.trDep h) :
    let s' := (s.decTaken n h).decrement h
    s'.trDep h = s.trDep h - 1 ∧ s'.recState h = s.recState h ∧ onlyBytes s s' (a + 8) 8 ∧
      s'.decs = s.decs.filter fun x => decide (x.id ≠ n) := by
  intro s'
  have hlow : s' = (s.decTaken n h).setDep h (s.trDep h - 1) :=
    decrement_lowers (s := s.decTaken n h) ((decTaken_recState n).symm ▸ hst) hdep
  have hview := ((hr.decTaken (n := n)).setDep (s.trDep h - 1)).view
  have hlt : s.trDep h < 2 ^ 32 := recField_lt s h 0x08 32 32
  have hst' : s'.trState h = s.trState h := by
    rw [hlow]
    exact (congrArg RecView.st hview).trans (congrArg RecView.st hr.view).symm
  have hown : s'.ownsH h = s.ownsH h := by
    rw [hlow]
    exact (ownsH_of_dies (setRecField_dies _ _ _ _ _ _) h).trans (decTaken_ownsH n h)
  rw [State.recState, State.recState, hst', hown, hlow]
  refine ⟨(congrArg RecView.dep hview).trans (Nat.mod_eq_of_lt (by omega)), rfl, ?_, setRecField_decs _ _ _ _ _ _⟩
  exact onlyBytes_of_mem rfl rfl (setRecField_onlyBytes (hr.decTaken (n := n)).addr hr.wf 0x08 32 32 (s.trDep h - 1))

/-- The last decrement of a record with payloads (R343, R344). -/
theorem decTaken_ready {x : Die} (hx : s.die? (handleDie h) = some x) (hst : s.recState h = 1) (hdep : s.trDep h = 1)
    (herr : s.trErr h = 0) (hcount : s.trCount h ≠ 0) :
    let s' := (s.decTaken n h).decrement h
    RecAt s' h a { r with dep := 0, st := 2 } ∧ (∃ y, s'.die? (handleDie h) = some y ∧ y.ready = x.ready ++ [s.readyEnt h]) ∧
      s'.decs = s.decs.filter fun x => decide (x.id ≠ n) := by
  intro s'
  have hzero := (hr.decTaken (n := n)).setDep 0
  have hcount' : ((s.decTaken n h).setDep h 0).trCount h ≠ 0 := fun hc =>
    hcount ((congrArg RecView.count hr.view).trans ((congrArg RecView.count hzero.view).symm.trans hc))
  have hready : s' = ((s.decTaken n h).setDep h 0).becomeReady h := by
    refine (decrement_zero (s := s.decTaken n h) ((decTaken_recState n).trans hst) hdep).trans (depZero_ready ?_)
    exact (congrArg RecView.err hzero.view).trans ((congrArg RecView.err hr.view).symm.trans herr)
  have hdie : ((s.decTaken n h).setDep h 0).die? (handleDie h) = some { x with opFree := s.clock + 1 } := by
    rw [State.die?, State.setDep, setRecField_dies]
    exact modDie_there hx (fun x => { x with opFree := s.clock + 1 }) fun _ hn => hn
  have hent : ((s.decTaken n h).setDep h 0).readyEnt h = s.readyEnt h := by
    obtain ⟨m, hm⟩ := setRecField_rest (s.decTaken n h) h 0x08 32 32 0
    refine readyEnt_of_same ?_ ?_ (fun t => ?_) ((congrArg RecView.prio hzero.view).trans (congrArg RecView.prio hr.view).symm)
    · rw [State.setDep, hm]
      rfl
    · rw [State.setDep, hm]
      rfl
    · exact (setRecField_vote _ _ _ _ _ _ t).trans
        (vote?_modDie (f := fun x => { x with opFree := s.clock + 1 }) (fun _ => rfl) (fun _ => rfl) t)
  rw [hready]
  exact ⟨hzero.becomeReady hcount', ⟨_, becomeReady_die hcount' hdie hent, rfl⟩,
    (becomeReady_decs hcount').trans (setRecField_decs _ _ _ _ _ _)⟩

/-- The last decrement of a record without payloads and without successors (R340, R341). -/
theorem decTaken_done (howned : ∀ x ∈ s.dies, setWf x.owned = true) (hst : s.recState h = 1) (hdep : s.trDep h = 1)
    (herr : s.trErr h = 0) (hcount : s.trCount h = 0) (hsucc : ∀ k, k < 4 → handleIdx (s.trSucc h k) = 0) :
    let s' := (s.decTaken n h).decrement h
    RecAt s' h a { r with dep := 0, st := 5, pend := 0 } ∧ s'.ownsH h = false ∧
      s'.decs = s.decs.filter fun x => decide (x.id ≠ n) := by
  intro s'
  have hzero := (hr.decTaken (n := n)).setDep 0
  have hdone : s' = ((s.decTaken n h).setDep h 0).finishRec h false := by
    refine (decrement_zero (s := s.decTaken n h) ((decTaken_recState n).trans hst) hdep).trans
      ((depZero_ready ?_).trans (becomeReady_done ?_))
    · exact (congrArg RecView.err hzero.view).trans ((congrArg RecView.err hr.view).symm.trans herr)
    · exact (congrArg RecView.count hzero.view).trans ((congrArg RecView.count hr.view).symm.trans hcount)
  have howned' : ∀ x ∈ ((s.decTaken n h).setDep h 0).dies, setWf x.owned = true := by
    rw [State.setDep, setRecField_dies]
    intro x hx
    obtain ⟨y, hy, rfl⟩ := List.mem_map.mp hx
    split
    · exact howned y hy
    · exact howned y hy
  rw [hdone]
  exact ⟨hzero.finishRec false, finishRec_ownsH howned' false,
    (finishRec_decs hzero (fun k hk => (congrArg handleIdx (hr.succ hzero rfl hk)).trans (hsucc k hk)) false).trans
      (setRecField_decs _ _ _ _ _ _)⟩

end

/-! ### The admission queue (R360, R361) -/

/-- The SYE takes a request from the admission queue. -/
def State.admTaken (s : State) (d : Nat) (q : AdmReq) : State :=
  s.modDie d fun x => { x with adm := x.adm.filter fun (y : AdmReq) => decide (y.id ≠ q.id), admFree := s.clock + 2 }

section
variable {d : Nat} {x : Die} {q : AdmReq}

theorem exec_admissionRequest (ha : s.actor = .die d) (hx : s.die? d = some x) (hq : (x.adm.find? fun q => q.queued) = some q)
    (hfree : x.admFree ≤ s.clock) : exec .admissionRequest s = .next ((s.admTaken d q).admAct q) := by
  show execAdmissionRequest s = _
  simp only [execAdmissionRequest, ha, hx, hq]
  rw [if_neg (Nat.not_lt.mpr hfree)]
  rfl

theorem admTaken_die (hx : s.die? d = some x) : (s.admTaken d q).die? d =
    some { x with adm := x.adm.filter fun y => decide (y.id ≠ q.id), admFree := s.clock + 2 } :=
  modDie_there hx (fun x => { x with adm := x.adm.filter fun (y : AdmReq) => decide (y.id ≠ q.id), admFree := s.clock + 2 })
    fun _ hn => hn

theorem admTaken_ownsH (t : Nat) : (s.admTaken d q).ownsH t = s.ownsH t :=
  ownsH_modDie (f := fun x => { x with adm := x.adm.filter fun (y : AdmReq) => decide (y.id ≠ q.id), admFree := s.clock + 2 })
    (fun _ => rfl) (fun _ => rfl) t

theorem admTaken_recState (t : Nat) : (s.admTaken d q).recState t = s.recState t :=
  recState_of_same rfl rfl (admTaken_ownsH t)

theorem RecAt.admTaken (hr : RecAt s h a r) : RecAt (s.admTaken d q) h a r := hr.same rfl rfl

theorem admTaken_isSome (hx : (s.die? (handleDie h)).isSome = true) : ((s.admTaken d q).die? (handleDie h)).isSome = true := by
  obtain ⟨y, hy⟩ := Option.isSome_iff_exists.mp hx
  rw [State.admTaken, modDie_die s d _ (fun x =>
    { x with adm := x.adm.filter fun (y : AdmReq) => decide (y.id ≠ q.id), admFree := s.clock + 2 }) fun _ hn => hn, hy]
  split <;> rfl

/-- A request arrives with room in the queue (R361). -/
theorem admArrive_queues (hroom : (x.adm.filter fun y => y.queued).length < 256) : s.admArrive d x q =
    s.modDie d fun x => { x with adm := x.adm.filter (fun y => decide (y.id ≠ q.id)) ++ [{ q with queued := true }] } :=
  if_neg (Nat.not_le.mpr hroom)

theorem admArrive_full (hfull : 256 ≤ (x.adm.filter fun y => y.queued).length) : s.admArrive d x q =
    (s.modDie d fun x => { x with adm := x.adm.filter fun y => decide (y.id ≠ q.id) }).admAnswer q 1 256 := if_pos hfull

theorem exec_admissionArrival {n : Nat} (ha : s.actor = .dieN d n) (hx : s.die? d = some x)
    (hq : (x.adm.find? fun q => decide (q.id = n)) = some q) (hqueued : q.queued = false) (hdue : q.due ≤ s.clock) :
    exec .admissionRequest s = .next (s.admArrive d x q) := by
  show execAdmissionRequest s = _
  simp only [execAdmissionRequest, ha, hx, hq]
  rw [if_neg]
  rintro (hqd | hlt)
  · exact Bool.false_ne_true (hqueued.symm.trans hqd)
  · omega

end

/-! ### TKEN at its point (R356) -/

theorem tkenAt_noRec (ha : s.recAddr h = none) : s.tkenAt h = (s, 3, h) := if_pos (by rw [ha]; rfl)

section
variable (ha : s.recAddr h = some a)
include ha

theorem tkenAt_owned (hown : s.ownsH h = true) : s.tkenAt h = (s, 2, s.trState h) := by
  rw [State.tkenAt, if_neg (by rw [ha]; exact Bool.false_ne_true), if_pos hown]

variable (hown : s.ownsH h = false) (hbad : s.recBad h = false)
include hown hbad

theorem tkenAt_breach {o : Nat} (hb : s.recBreach h = some o) : s.tkenAt h = (s, 4, o) := by
  rw [State.tkenAt, if_neg (by rw [ha]; exact Bool.false_ne_true), if_neg (by rw [hown]; exact Bool.false_ne_true),
    if_neg (by rw [hbad]; exact Bool.false_ne_true), hb]

/-- A record without a breach is admitted: its ERR is cleared and the SYE owns it (R339, R356). -/
theorem tkenAt_admits (hb : s.recBreach h = none) : s.tkenAt h =
    if s.trDep h = 0 then (((s.setErr h 0).setOwned h true).becomeReady h, 0, if s.trCount h = 0 then 5 else 2)
    else (((((s.setErr h 0).setOwned h true).setTrState h 1).setLink h
      (Config.link ((s.setErr h 0).setOwned h true).freeCount)).tick, 0, 1) := by
  rw [State.tkenAt, if_neg (by rw [ha]; exact Bool.false_ne_true), if_neg (by rw [hown]; exact Bool.false_ne_true),
    if_neg (by rw [hbad]; exact Bool.false_ne_true), hb]
  obtain ⟨m, hm⟩ := setRecField_rest s h 0x00 48 16 0
  rw [State.setErr, hm]
  rfl

end

theorem admitted_ownsH (hdie : (s.die? (handleDie h)).isSome = true) : ((s.setErr h 0).setOwned h true).ownsH h = true :=
  setOwned_ownsH (by rw [State.die?, State.setErr, setRecField_dies]; exact hdie)

section
variable (hr : RecAt s h a r) (hown : s.ownsH h = false) (hbad : s.recBad h = false) (hb : s.recBreach h = none)
  (hdie : (s.die? (handleDie h)).isSome = true)
include hr hown hbad hb hdie

/-- A record admitted with predecessors waits for them. -/
theorem tkenAt_waits (hdep : s.trDep h ≠ 0) : ∃ s1, s.tkenAt h = (s1, 0, 1) ∧ RecAt s1 h a { r with err := 0, st := 1 } ∧
    s1.ownsH h = true := by
  have hadm : RecAt ((s.setErr h 0).setOwned h true) h a { r with err := 0 } := (hr.setErr 0).same rfl rfl
  refine ⟨_, (tkenAt_admits hr.addr hown hbad hb).trans (if_neg hdep), ((hadm.setTrState 1).setLink _).same rfl rfl, ?_⟩
  refine (ownsH_of_dies ?_ h).trans (admitted_ownsH hdie)
  rw [tick_dies, State.setLink, setRecField_dies, State.setTrState, setRecField_dies]

/-- One admitted with none, and with payloads, is READY. -/
theorem tkenAt_ready (hdep : s.trDep h = 0) (hcount : s.trCount h ≠ 0) : ∃ s1, s.tkenAt h = (s1, 0, 2) ∧
    RecAt s1 h a { r with err := 0, st := 2 } ∧ s1.ownsH h = true := by
  have hadm : RecAt ((s.setErr h 0).setOwned h true) h a { r with err := 0 } := (hr.setErr 0).same rfl rfl
  have hcount' : ((s.setErr h 0).setOwned h true).trCount h ≠ 0 := fun hc =>
    hcount ((congrArg RecView.count hr.view).trans ((congrArg RecView.count hadm.view).symm.trans hc))
  refine ⟨_, (tkenAt_admits hr.addr hown hbad hb).trans ((if_pos hdep).trans ?_), hadm.becomeReady hcount',
    (becomeReady_ownsH hcount').trans (admitted_ownsH hdie)⟩
  rw [if_neg hcount]

end

/-! ### TKDEC at its point (R357) -/

theorem tkdecAt_noRec (ha : s.recAddr h = none) (k : Nat) : s.tkdecAt h k = (s, 3, h) := if_pos (by rw [ha]; rfl)

theorem tkdecAt_drops (ha : s.recAddr h = some a) (hst : ¬(s.recState h = 1 ∨ s.recState h = 6)) (k : Nat) :
    s.tkdecAt h k = (s.dropDec h, 2, s.trState h) := by
  rw [State.tkdecAt, if_neg (by rw [ha]; exact Bool.false_ne_true)]
  exact if_pos (not_or.mp hst)

section
variable (hr : RecAt s h a r) (hst : s.recState h = 1 ∨ s.recState h = 6) (hbad : s.recBad h = false) {k : Nat}
include hr hst hbad

theorem tkdecAt_live : s.tkdecAt h k = if s.trDep h < k then (s.addErr h Cause.depUnderflow, 4, 0x0C)
    else (if s.recState h = 1 ∧ s.trDep h - k = 0 then (s.setDep h (s.trDep h - k)).depZero h else s.setDep h (s.trDep h - k), 0,
      s.trDep h - k) := by
  rw [State.tkdecAt, if_neg (by rw [hr.addr]; exact Bool.false_ne_true)]
  dsimp only
  rw [if_neg (by omega), if_neg (by rw [hbad]; exact Bool.false_ne_true)]

theorem tkdecAt_underflows (hk : s.trDep h < k) : s.tkdecAt h k = (s.addErr h Cause.depUnderflow, 4, 0x0C) :=
  (tkdecAt_live hr hst hbad).trans (if_pos hk)

theorem tkdecAt_lowers (hk : k ≤ s.trDep h) (hmore : s.recState h = 6 ∨ k ≠ s.trDep h) :
    s.tkdecAt h k = (s.setDep h (s.trDep h - k), 0, s.trDep h - k) := by
  rw [tkdecAt_live hr hst hbad, if_neg (by omega), if_neg (by omega)]

end

theorem tkdecAt_zero (hr : RecAt s h a r) (hst : s.recState h = 1) (hbad : s.recBad h = false) {k : Nat} (hk : k = s.trDep h) :
    s.tkdecAt h k = ((s.setDep h 0).depZero h, 0, 0) := by
  have hdep : s.trDep h - k = 0 := by omega
  rw [tkdecAt_live hr (.inl hst) hbad, if_neg (by omega), hdep, if_pos ⟨hst, rfl⟩]

theorem RecAt.depZero_ready (hr : RecAt s h a r) (herr : r.err = 0) (hcount : r.count ≠ 0) :
    RecAt (s.depZero h) h a { r with st := 2 } := by
  rw [Machine.depZero_ready ((congrArg RecView.err hr.view).trans herr)]
  exact hr.becomeReady fun hc => hcount ((congrArg RecView.count hr.view).symm.trans hc)

theorem RecAt.depZero_done (hr : RecAt s h a r) (herr : r.err = 0) (hcount : r.count = 0) :
    RecAt (s.depZero h) h a { r with st := 5, pend := 0 } := by
  rw [Machine.depZero_ready ((congrArg RecView.err hr.view).trans herr),
    becomeReady_done ((congrArg RecView.count hr.view).trans hcount)]
  exact hr.finishRec false

theorem RecAt.depZero_abandoned (hr : RecAt s h a r) (herr : r.err ≠ 0) : RecAt (s.depZero h) h a { r with st := 7, pend := 0 } := by
  rw [Machine.depZero_abandoned fun he => herr ((congrArg RecView.err hr.view).symm.trans he)]
  exact hr.finishRec true

/-! ### TKST at its point (R359) -/

theorem tkstAt_noRec (ha : s.recAddr h = none) (op : MOp) : s.tkstAt op h = (s, 3, h) := if_pos (by rw [ha]; rfl)

section
variable (ha : s.recAddr h = some a)
include ha

theorem tkstAt_reads : s.tkstAt .tkst h = (s, 0, s.trState h * 2 ^ 44 + s.trDep h) := if_neg (by rw [ha]; exact Bool.false_ne_true)

theorem tkstClr_notSaved (hst : s.recState h ≠ 6) : s.tkstAt .tkstClr h = (s, 2, s.trState h) := by
  rw [State.tkstAt, if_neg (by rw [ha]; exact Bool.false_ne_true)]
  exact if_pos hst

theorem tkstAbn_notLive (hst : ¬(s.recState h = 1 ∨ s.recState h = 6)) : s.tkstAt .tkstAbn h = (s, 2, s.trState h) := by
  rw [State.tkstAt, if_neg (by rw [ha]; exact Bool.false_ne_true)]
  exact if_pos (not_or.mp hst)

theorem tkstAbn_live (hst : s.recState h = 1 ∨ s.recState h = 6) :
    s.tkstAt .tkstAbn h = (s.abandonRec h Cause.abandoned, 0, 7) := by
  rw [State.tkstAt, if_neg (by rw [ha]; exact Bool.false_ne_true)]
  exact if_neg (by omega)

theorem tkstClr_held (hst : s.recState h = 6) (hbad : s.recBad h = false) : s.tkstAt .tkstClr h =
    if 0 < s.trDep h then ((s.setErr h 0).setTrState h 1, 0, 1)
    else ((s.setErr h 0).becomeReady h, 0, if s.trCount h = 0 then 5 else 2) := by
  rw [State.tkstAt, if_neg (by rw [ha]; exact Bool.false_ne_true)]
  dsimp only
  rw [if_neg (not_not.mpr hst), if_neg (by rw [hbad]; exact Bool.false_ne_true)]

theorem tkstClr_ready (hst : s.recState h = 6) (hbad : s.recBad h = false) (hdep : s.trDep h = 0) (hcount : s.trCount h ≠ 0) :
    s.tkstAt .tkstClr h = ((s.setErr h 0).becomeReady h, 0, 2) := by
  rw [tkstClr_held ha hst hbad, if_neg (by omega), if_neg hcount]

end

theorem tkstClr_done (hr : RecAt s h a r) (hst : s.recState h = 6) (hbad : s.recBad h = false) (hdep : s.trDep h = 0)
    (hcount : s.trCount h = 0) : s.tkstAt .tkstClr h = ((s.setErr h 0).finishRec h false, 0, 5) := by
  have hcount' : (s.setErr h 0).trCount h = 0 :=
    (congrArg RecView.count (hr.setErr 0).view).trans ((congrArg RecView.count hr.view).symm.trans hcount)
  rw [tkstClr_held hr.addr hst hbad, if_neg (by omega), if_pos hcount, becomeReady_done hcount']

/-! ### tkdec.ret and QPUT at their point (R357, R358) -/

theorem retireAt_underflows {k : Nat} (hk : s.trPend h < k) :
    s.retireAt h k = ((s.setErr h Cause.retireUnderflow).setPend h 0, 4, 8) := if_pos hk

theorem retireAt_bound {k : Nat} (hk : k ≤ s.trPend h) (hb : s.trPend h < k + s.bound h) : s.retireAt h k = (s, 4, 8) :=
  (if_neg (Nat.not_lt.mpr hk)).trans (if_pos hb)

theorem retireAt_retires {k : Nat} (hk : k + s.bound h ≤ s.trPend h) :
    s.retireAt h k = (s.setPend h (s.trPend h - k), 0, s.trPend h - k) :=
  (if_neg (by omega)).trans (if_neg (by omega))

section
variable {l : LoadRef} {n : Nat} {y : Load} {z : EntryQ} (hy : s.load? l = some y) (hz : y.entries[n]? = some z) (v : Word)
include hy hz

theorem qputAt_full (hfull : 512 ≤ z.count) : s.qputAt l n h v = (s, 1, 512) := by
  simp only [State.qputAt, hy, hz]
  exact if_pos hfull

theorem qputAt_puts (hroom : z.count < 512) :
    s.qputAt l n h v = ((s.ringPut l n v).setPend h (s.trPend h + 1), 0, z.count + 1) := by
  simp only [State.qputAt, hy, hz]
  exact if_neg (Nat.not_le.mpr hroom)

end

/-- A payload written to a ring elsewhere leaves the record. -/
theorem RecAt.ringPut {l : LoadRef} {n : Nat} {y : Load} {z : EntryQ} (hr : RecAt s h a r) (hy : s.load? l = some y)
    (hz : y.entries[n]? = some z)
    (hfar : ringAddr l.die l.fab n (z.head + z.count) + 8 ≤ a ∨ a + 128 ≤ ringAddr l.die l.fab n (z.head + z.count)) (v : Word) :
    RecAt (s.ringPut l n v) h a r := by
  rw [ringPut_eq hy hz]
  generalize ringAddr l.die l.fab n (z.head + z.count) = b at hfar
  have hput : onlyBytes s (s.putWord b v) b 8 := putWord_onlyBytes s b v hr.wf
  have hfld {off lo n : Nat} (hoff : off + 8 ≤ 128) : (s.putWord b v).recField h off lo n = s.recField h off lo n := by
    rw [recField_eq hr.addr, recField_eq (s := s.putWord b v) (a := a) hr.addr, word_of_onlyBytes hput (by omega)]
  refine RecAt.same (s := s.putWord b v) ⟨hr.addr, putWord_wf s b v hr.wf, Eq.trans ?_ hr.view⟩ rfl rfl
  simp (disch := norm_num) only [State.view, State.trState, State.trErr, State.trDep, State.trPend, State.trCount, State.trPrio,
    State.trSucc, hfld]

/-- QPUT appends its payload to the ring of an entry and counts it in PEND (R358). -/
theorem qputAt_appends {l : LoadRef} {n : Nat} {y : Load} {z : EntryQ} (hr : RecAt s h a r) (hy : s.load? l = some y)
    (hz : y.entries[n]? = some z)
    (hfar : ringAddr l.die l.fab n (z.head + z.count) + 8 ≤ a ∨ a + 128 ≤ ringAddr l.die l.fab n (z.head + z.count))
    (hroom : z.count < 512) (v : Word) : ∃ s1, s.qputAt l n h v = (s1, 0, z.count + 1) ∧
      s1.trPend h = (s.trPend h + 1) % 2 ^ 32 ∧ s1.word (ringAddr l.die l.fab n (z.head + z.count)) = v ∧
      ∃ y', s1.load? l = some y' ∧ y' = { y with entries := y'.entries } ∧
        y'.entries[n]? = some { z with count := z.count + 1 } := by
  have hput := hr.ringPut hy hz hfar v
  have honly : onlyBytes (s.ringPut l n v) ((s.ringPut l n v).setPend h (s.trPend h + 1)) (a + 8) 8 :=
    setRecField_onlyBytes hput.addr hput.wf 0x08 0 32 (s.trPend h + 1)
  have hword : (s.ringPut l n v).word (ringAddr l.die l.fab n (z.head + z.count)) = v := by
    rw [ringPut_eq hy hz]
    exact (word_of_mem rfl _).trans (word_putWord s _ v hr.wf)
  refine ⟨_, qputAt_puts hy hz v hroom, congrArg RecView.pend (hput.setPend (s.trPend h + 1)).view, ?_, ?_⟩
  · rw [word_of_onlyBytes honly (by omega), hword]
  · refine ⟨{ y with entries := y.entries.modify n fun q => { q with count := q.count + 1 } }, ?_, rfl, ?_⟩
    · obtain ⟨m, hm⟩ := setRecField_rest (s.ringPut l n v) h 0x08 0 32 (s.trPend h + 1)
      rw [State.setPend, hm, ringPut_eq hy hz]
      exact modEntry_there (s := s.putWord (ringAddr l.die l.fab n (z.head + z.count)) v) hy n fun q =>
        { q with count := q.count + 1 }
    · rw [List.getElem?_modify_eq, hz]
      rfl

/-! ### What a request does at its point -/

section
variable {q : AdmReq} {s1 : State} {code info : Nat}

theorem admAct_tken (hop : q.op = .tken) (ht : s.tkenAt q.handle = (s1, code, info)) : s.admAct q = s1.admAnswer q code info := by
  simp only [State.admAct, hop, ht]

theorem admAct_tkdec (hop : q.op = .tkdec) (ht : s.tkdecAt q.handle q.k = (s1, code, info)) :
    s.admAct q = s1.admAnswer q code info := by
  simp only [State.admAct, hop, ht]

theorem admAct_tkst {op : MOp} (hop : q.op = op) (hone : op = .tkst ∨ op = .tkstClr ∨ op = .tkstAbn)
    (ht : s.tkstAt op q.handle = (s1, code, info)) : s.admAct q = s1.admAnswer q code info := by
  rcases hone with rfl | rfl | rfl
  · simp only [State.admAct, hop, ht]
  · simp only [State.admAct, hop, ht]
  · simp only [State.admAct, hop, ht]

/-- A handle that names no record. -/
theorem admAct_noRec (hret : q.op ≠ .tkdecRet) (hqput : q.op ≠ .qput) (ha : s.recAddr q.handle = none) :
    s.admAct q = s.admAnswer q 3 q.handle := by
  unfold State.admAct
  dsimp only
  split
  next => rw [tkenAt_noRec ha]
  next => rw [tkdecAt_noRec ha]
  next hop => exact absurd hop hret
  next hop => exact absurd hop hqput
  next => rw [tkstAt_noRec ha]

variable {p : ElemRef} {gid cell : Nat} (hwho : q.who = .mpe p gid cell)
include hwho

theorem admAct_noSlot (hop : q.op = .tkdecRet ∨ q.op = .qput) (hslot : s.slotTask p.load (opSlot q.payload) = none) :
    s.admAct q = s.admFault q Cause.noslot := by
  rcases hop with hop | hop
  · simp only [State.admAct, hop, hwho, hslot]
  · simp only [State.admAct, hop, hwho, hslot]

variable {t : SlotX} (hslot : s.slotTask p.load (opSlot q.payload) = some t)
include hslot

theorem admAct_tkdecRet (hop : q.op = .tkdecRet) (ht : s.retireAt t.handle q.k = (s1, code, info)) :
    s.admAct q = s1.admAnswer q code info := by
  simp only [State.admAct, hop, hwho, hslot, ht]

theorem admAct_qput (hop : q.op = .qput) (ht : s.qputAt p.load q.k t.handle q.payload = (s1, code, info)) :
    s.admAct q = s1.admAnswer q code info := by
  simp only [State.admAct, hop, hwho, hslot, ht]

end

/-! ### Completion (R341) -/

theorem exec_taskCompletion {l : LoadRef} {k : Nat} {x : Load} {t : SlotX} (ha : s.actor = .loadN l k)
    (hx : s.load? l = some x) (hphase : x.phase = .resident ∨ x.phase = .draining) (ht : x.slots.getD k none = some t)
    (hpend : s.trPend t.handle = 0) (hdrained : s.slotDrained l k = true) (hdisp : s.undisposed l t.dispAt = false)
    (hvote : s.vote? t.handle = none) (hbad : s.recBad t.handle = false) :
    exec .taskCompletion s = .next ((s.freeSlot l k).finishRec t.handle (s.trErr t.handle != 0)) := by
  have hcomp : x.completes = true := by rcases hphase with hp | hp <;> simp [Load.completes, hp]
  have hrec : (s.freeSlot l k).completeRec t.handle = (s.freeSlot l k).finishRec t.handle (s.trErr t.handle != 0) :=
    if_neg (by rw [show (s.freeSlot l k).recBad t.handle = s.recBad t.handle from rfl, hbad]; exact Bool.false_ne_true)
  show execTaskCompletion s = _
  simp only [execTaskCompletion, ha, hx, ht]
  rw [if_neg (by simp [hcomp, hpend, hdrained, hdisp]), hvote]
  exact congrArg _ hrec

/-! ### The obligation -/

theorem addErr_onlyBytes (ha : s.recAddr h = some a) (hm : Memory.wf s.mem = true) (c : Nat) : onlyBytes s (s.addErr h c) a 8 := by
  unfold State.addErr
  split
  · exact setRecField_onlyBytes ha hm 0x00 48 16 c
  · exact fun _ _ => rfl

section
variable {d : Nat} {x : Die} {q : AdmReq}

/-- The record that a request finds. -/
theorem RecAt.found (hm : Memory.wf s.mem = true) (ha : s.recAddr h = some a) : RecAt (s.admTaken d q) h a (s.view h) :=
  RecAt.admTaken ⟨ha, hm, rfl⟩

theorem exec_admission_of (ha : s.actor = .die d) (hx : s.die? d = some x) (hq : (x.adm.find? fun q => q.queued) = some q)
    (hfree : x.admFree ≤ s.clock) {s' : State} (hact : (s.admTaken d q).admAct q = s') :
    exec .admissionRequest s = .next s' := (exec_admissionRequest ha hx hq hfree).trans (congrArg _ hact)

end

/-- The SYE answers a request at its point: the machine as it finds it and as it leaves it. -/
def State.answersAt (s : State) (d : Nat) (x : Die) (q : AdmReq) (code info : Nat) (g : State → State → Prop) : Prop :=
  ∃ s0 s1 : State, exec .admissionRequest s = .next (s1.admAnswer q code info) ∧
    (s0 = { s with dies := s0.dies } ∧
      s0.die? d = some { x with adm := x.adm.filter fun y => decide (y.id ≠ q.id), admFree := s.clock + 2 }) ∧ g s0 s1

section
variable {d : Nat} {x : Die} {q : AdmReq} (hm : Memory.wf s.mem = true) (ha : s.actor = .die d) (hx : s.die? d = some x)
  (hq : (x.adm.find? fun q => q.queued) = some q) (hfree : x.admFree ≤ s.clock)
include ha hx hq hfree

theorem answersAt_of {code info : Nat} {g : State → State → Prop} {s1 : State}
    (hact : (s.admTaken d q).admAct q = s1.admAnswer q code info) (hg : g (s.admTaken d q) s1) :
    s.answersAt d x q code info g :=
  ⟨_, s1, exec_admission_of ha hx hq hfree hact, ⟨rfl, admTaken_die hx⟩, hg⟩

include hm

theorem tkdec_answers (hop : q.op = .tkdec) (hrec : s.recAddr q.handle = some a) :
    let h := q.handle
    let k := q.k
    let live : Prop := s.recState h = 1 ∨ s.recState h = 6
    (¬ live → s.answersAt d x q 2 (s.trState h) fun s0 s1 => s1 = { s0 with dv := s1.dv } ∧ bitAt s1.dv.syestat 0 = true ∧
      fld s1.dv.syestat 32 32 = h % 2 ^ 32 ∧
      fld s1.dv.syestat 16 16 = min 0xFFFF (fld s.dv.syestat 16 16 + 1)) ∧
    (live → s.recBad h = false →
      (s.trDep h < k → s.answersAt d x q 4 0x0C fun s0 s1 => s1.trDep h = s.trDep h ∧ s1.trState h = s.trState h ∧
        s1.trErr h = (if s.trErr h = 0 then Cause.depUnderflow else s.trErr h) ∧ onlyBytes s0 s1 a 8) ∧
      (k ≤ s.trDep h → s.recState h = 6 ∨ k ≠ s.trDep h → s.answersAt d x q 0 (s.trDep h - k) fun s0 s1 =>
        s1.trDep h = s.trDep h - k ∧ onlyBytes s0 s1 (a + 8) 8) ∧
      (s.recState h = 1 → k = s.trDep h → (s.die? (handleDie h)).isSome = true →
        (s.trErr h = 0 → s.trCount h ≠ 0 → s.answersAt d x q 0 0 fun _ s1 => s1.trDep h = 0 ∧ s1.trState h = 2) ∧
        (s.trErr h = 0 → s.trCount h = 0 → s.answersAt d x q 0 0 fun _ s1 => s1.trDep h = 0 ∧ s1.trState h = 5) ∧
        (s.trErr h ≠ 0 → s.answersAt d x q 0 0 fun _ s1 =>
          s1.trDep h = 0 ∧ s1.trState h = 7 ∧ s1.trErr h = s.trErr h))) := by
  intro h k live
  have hfound : RecAt (s.admTaken d q) h a (s.view h) := .found hm hrec
  have hst : (s.admTaken d q).recState h = s.recState h := admTaken_recState h
  have hlives : (s.admTaken d q).recState h = 1 ∨ (s.admTaken d q).recState h = 6 ↔ live := by rw [hst]
  have answer {code info : Nat} {g : State → State → Prop} {s1 : State} :=
    answersAt_of (code := code) (info := info) (g := g) (s1 := s1) ha hx hq hfree
  refine ⟨fun hdead => ?_, fun hlive hbad => ⟨fun hk => ?_, fun hk hmore => ?_,
    fun h1 hk hsome => ⟨fun herr hcount => ?_, fun herr hcount => ?_, fun herr => ?_⟩⟩⟩
  · exact answer (admAct_tkdec hop (tkdecAt_drops (s := s.admTaken d q) hrec (hlives.not.mpr hdead) k)) ⟨rfl, dropDec_syestat (s.admTaken d q) h⟩
  · have hr := hfound.addErr Cause.depUnderflow
    exact answer (admAct_tkdec hop (tkdecAt_underflows (.found hm hrec) (hlives.mpr hlive) hbad hk))
      ⟨congrArg RecView.dep hr.view, congrArg RecView.st hr.view, congrArg RecView.err hr.view, addErr_onlyBytes (s := s.admTaken d q) hrec hm _⟩
  · have hr := hfound.setDep (s.trDep h - k)
    exact answer (admAct_tkdec hop (tkdecAt_lowers (.found hm hrec) (hlives.mpr hlive) hbad hk (hst ▸ hmore)))
      ⟨(congrArg RecView.dep hr.view).trans (Nat.mod_eq_of_lt (Nat.lt_of_le_of_lt (Nat.sub_le _ _) (recField_lt s h 0x08 32 32))),
        setRecField_onlyBytes (s := s.admTaken d q) hrec hm 0x08 32 32 _⟩
  · have hr := (hfound.setDep 0).depZero_ready herr hcount
    exact answer (admAct_tkdec hop (tkdecAt_zero (.found hm hrec) (hst.trans h1) hbad hk))
      ⟨congrArg RecView.dep hr.view, congrArg RecView.st hr.view⟩
  · have hr := (hfound.setDep 0).depZero_done herr hcount
    exact answer (admAct_tkdec hop (tkdecAt_zero (.found hm hrec) (hst.trans h1) hbad hk))
      ⟨congrArg RecView.dep hr.view, congrArg RecView.st hr.view⟩
  · have hr := (hfound.setDep 0).depZero_abandoned herr
    exact answer (admAct_tkdec hop (tkdecAt_zero (.found hm hrec) (hst.trans h1) hbad hk))
      ⟨congrArg RecView.dep hr.view, congrArg RecView.st hr.view, congrArg RecView.err hr.view⟩

theorem tkst_answers (hrec : s.recAddr q.handle = some a) :
    let h := q.handle
    let live : Prop := s.recState h = 1 ∨ s.recState h = 6
    (q.op = .tkst → s.answersAt d x q 0 (s.trState h * 2 ^ 44 + s.trDep h) fun s0 s1 => s1 = s0) ∧
    (q.op = .tkstClr → (s.recState h ≠ 6 → s.answersAt d x q 2 (s.trState h) fun s0 s1 => s1 = s0) ∧
      (s.recState h = 6 → s.recBad h = false → (s.die? (handleDie h)).isSome = true →
        (s.trDep h ≠ 0 → s.answersAt d x q 0 1 fun _ s1 => s1.trErr h = 0 ∧ s1.trState h = 1) ∧
        (s.trDep h = 0 → s.trCount h ≠ 0 → s.answersAt d x q 0 2 fun _ s1 => s1.trErr h = 0 ∧ s1.trState h = 2) ∧
        (s.trDep h = 0 → s.trCount h = 0 → s.answersAt d x q 0 5 fun _ s1 => s1.trErr h = 0 ∧ s1.trState h = 5))) ∧
    (q.op = .tkstAbn → (¬ live → s.answersAt d x q 2 (s.trState h) fun s0 s1 => s1 = s0) ∧
      (live → s.answersAt d x q 0 7 fun _ s1 =>
        s1.trState h = 7 ∧ s1.trErr h = (if s.trErr h = 0 then Cause.abandoned else s.trErr h))) := by
  intro h live
  have hfound : RecAt (s.admTaken d q) h a (s.view h) := .found hm hrec
  have hst : (s.admTaken d q).recState h = s.recState h := admTaken_recState h
  have hlives : (s.admTaken d q).recState h = 1 ∨ (s.admTaken d q).recState h = 6 ↔ live := by rw [hst]
  have answer {code info : Nat} {g : State → State → Prop} {s1 : State} :=
    answersAt_of (code := code) (info := info) (g := g) (s1 := s1) ha hx hq hfree
  refine ⟨fun hop => answer (admAct_tkst hop (.inl rfl) (tkstAt_reads hrec)) rfl, fun hop => ⟨fun hnot => ?_,
    fun h6 hbad hsome => ⟨fun hdep => ?_, fun hdep hcount => ?_, fun hdep hcount => ?_⟩⟩, fun hop => ⟨fun hdead => ?_,
    fun hlive => ?_⟩⟩
  · exact answer (admAct_tkst hop (.inr (.inl rfl)) (tkstClr_notSaved (s := s.admTaken d q) hrec (hst ▸ hnot))) rfl
  · have hr := (hfound.setErr 0).setTrState 1
    exact answer (admAct_tkst hop (.inr (.inl rfl)) ((tkstClr_held (s := s.admTaken d q) hrec (hst.trans h6) hbad).trans
      (if_pos (Nat.pos_of_ne_zero hdep)))) ⟨congrArg RecView.err hr.view, congrArg RecView.st hr.view⟩
  · have hr := hfound.setErr 0
    have hready := hr.becomeReady fun hc => hcount ((congrArg RecView.count hr.view).symm.trans hc)
    exact answer (admAct_tkst hop (.inr (.inl rfl)) (tkstClr_ready (s := s.admTaken d q) hrec (hst.trans h6) hbad hdep hcount))
      ⟨congrArg RecView.err hready.view, congrArg RecView.st hready.view⟩
  · have hr := hfound.setErr 0
    have hdone := hr.finishRec false
    exact answer (admAct_tkst hop (.inr (.inl rfl)) (tkstClr_done (s := s.admTaken d q) hfound (hst.trans h6) hbad hdep hcount))
      ⟨congrArg RecView.err hdone.view, congrArg RecView.st hdone.view⟩
  · exact answer (admAct_tkst hop (.inr (.inr rfl)) (tkstAbn_notLive (s := s.admTaken d q) hrec (hlives.not.mpr hdead))) rfl
  · have hr := hfound.abandonRec Cause.abandoned
    exact answer (admAct_tkst hop (.inr (.inr rfl)) (tkstAbn_live (s := s.admTaken d q) hrec (hlives.mpr hlive)))
      ⟨congrArg RecView.st hr.view, congrArg RecView.err hr.view⟩

theorem slot_answers {r : ElemRef} {gid cell : Nat} {t : SlotX} (hwho : q.who = .mpe r gid cell)
    (hslot : s.slotTask r.load (opSlot q.payload) = some t) (hrec : s.recAddr t.handle = some a) :
    let k := q.k
    let p := s.trPend t.handle
    (q.op = .tkdecRet →
      (p < k → s.answersAt d x q 4 8 fun _ s1 => s1.trErr t.handle = Cause.retireUnderflow ∧ s1.trPend t.handle = 0) ∧
      (k ≤ p → p < k + s.bound t.handle → s.answersAt d x q 4 8 fun s0 s1 => s1 = s0) ∧
      (k + s.bound t.handle ≤ p → s.answersAt d x q 0 (p - k) fun s0 s1 =>
        s1.trPend t.handle = p - k ∧ onlyBytes s0 s1 (a + 8) 8)) ∧
    (∀ y z, q.op = .qput → s.load? r.load = some y → y.entries[k]? = some z →
      let b := ringAddr r.load.die r.load.fab k (z.head + z.count)
      (512 ≤ z.count → s.answersAt d x q 1 512 fun s0 s1 => s1 = s0) ∧
      (z.count < 512 → b + 8 ≤ a ∨ a + 128 ≤ b → s.answersAt d x q 0 (z.count + 1) fun _ s1 =>
        s1.trPend t.handle = (p + 1) % 2 ^ 32 ∧ s1.word b = q.payload ∧ ∃ y', s1.load? r.load = some y' ∧
          y' = { y with entries := y'.entries } ∧ y'.entries[k]? = some { z with count := z.count + 1 })) := by
  intro k p
  have hfound : RecAt (s.admTaken d q) t.handle a (s.view t.handle) := .found hm hrec
  have answer {code info : Nat} {g : State → State → Prop} {s1 : State} :=
    answersAt_of (code := code) (info := info) (g := g) (s1 := s1) ha hx hq hfree
  refine ⟨fun hop => ⟨fun hk => ?_, fun hk hb => ?_, fun hk => ?_⟩, fun y z hop hy hz => ⟨fun hfull => ?_, fun hroom hfar => ?_⟩⟩
  · have hr := (hfound.setErr Cause.retireUnderflow).setPend 0
    exact answer (admAct_tkdecRet hwho hslot hop (retireAt_underflows (s := s.admTaken d q) hk))
      ⟨congrArg RecView.err hr.view, congrArg RecView.pend hr.view⟩
  · exact answer (admAct_tkdecRet hwho hslot hop (retireAt_bound (s := s.admTaken d q) hk hb)) rfl
  · have hr := hfound.setPend (s.trPend t.handle - k)
    exact answer (admAct_tkdecRet hwho hslot hop (retireAt_retires (s := s.admTaken d q) hk))
      ⟨(congrArg RecView.pend hr.view).trans (Nat.mod_eq_of_lt (Nat.lt_of_le_of_lt (Nat.sub_le _ _)
        (recField_lt s t.handle 0x08 0 32))), setRecField_onlyBytes (s := s.admTaken d q) hrec hm 0x08 0 32 _⟩
  · exact answer (admAct_qput hwho hslot hop (qputAt_full (s := s.admTaken d q) hy hz _ hfull)) rfl
  · obtain ⟨s1, hput, hpend, hword, hload⟩ :=
      qputAt_appends hfound hy hz hfar hroom q.payload
    exact answer (admAct_qput hwho hslot hop hput) ⟨hpend, hword, hload⟩

end

/-- Settles O38: a decrement and a request by the state of its record and its fields, each through what its point answers; a
completion by the error of its record. -/
theorem taskRecords : Obligations.TaskRecords := by
  intro s hm howned
  refine ⟨fun n d a x ha hd hrec hx hbad herr hbusy => ?_, fun d n x q ha hx hq hqueued hdue => ⟨fun hroom => ?_, fun hfull => ?_⟩,
    fun d x q ha hx hq hfree hop => ?_, fun d x q ha hx hq hfree => ?_,
    fun l k x t a ha hx hphase ht hpend hdrained hdisp hvote hrec hbad => ?_⟩
  · intro h decs
    have hr : RecAt s h a (s.view h) := ⟨hrec, hm, rfl⟩
    have hexec := exec_depDecrement ha hd hbad herr hbusy
    refine ⟨fun hst hdep => ⟨_, hexec, decTaken_lowers hr hst hdep⟩, fun hst hdep herr0 hcount => ?_,
      fun hst hdep herr0 hcount hsucc => ?_, fun h1 h6 => ?_⟩
    · obtain ⟨hrec', ⟨y, hy, hready⟩, hdecs⟩ := decTaken_ready hr hx hst hdep herr0 hcount
      exact ⟨_, y, hexec, congrArg RecView.dep hrec'.view, congrArg RecView.st hrec'.view, hy, hready, rfl, rfl, rfl, hdecs⟩
    · obtain ⟨hrec', hown, hdecs⟩ := decTaken_done hr howned hst hdep herr0 hcount hsucc
      exact ⟨_, hexec, congrArg RecView.st hrec'.view, congrArg RecView.pend hrec'.view, hown, hdecs⟩
    · have hdrop := decrement_drops (s := s.decTaken n h) ((decTaken_recState n).symm ▸ h1) ((decTaken_recState n).symm ▸ h6)
      obtain ⟨hbit, hwho, hcount⟩ := dropDec_syestat (s.decTaken n h) h
      exact ⟨_, hexec.trans (congrArg _ hdrop), rfl, rfl, hbit, hwho, hcount⟩
  · obtain rfl : q.id = n := by simpa using List.find?_some hq
    exact ⟨_, (exec_admissionArrival ha hx hq hqueued hdue).trans (congrArg _ (admArrive_queues hroom)),
      modDie_there hx (fun x => { x with adm := x.adm.filter (fun y => decide (y.id ≠ q.id)) ++ [{ q with queued := true }] })
        fun _ hn => hn, rfl⟩
  · obtain rfl : q.id = n := by simpa using List.find?_some hq
    exact ⟨_, (exec_admissionArrival ha hx hq hqueued hdue).trans (congrArg _ (admArrive_full hfull)),
      modDie_there hx (fun x => { x with adm := x.adm.filter fun y => decide (y.id ≠ q.id) }) fun _ hn => hn, rfl⟩
  · intro h rest answers
    have hdie : (s.admTaken d q).die? d = some { x with adm := rest, admFree := s.clock + 2 } := admTaken_die hx
    have answer {code info : Nat} {g : State → State → Prop} {s1 : State} (ht : (s.admTaken d q).tkenAt h = (s1, code, info))
        (hg : g (s.admTaken d q) s1) : answers code info g :=
      ⟨_, s1, exec_admission_of ha hx hq hfree (admAct_tken hop ht), hg, rfl, hdie⟩
    refine ⟨fun hnone => answer (tkenAt_noRec hnone) rfl, fun a hrec => ⟨fun hown => ?_, fun hown hbad => ⟨fun o hb => ?_,
      fun hb hdep hsome => ?_, fun hb hdep hcount hsome => ?_⟩⟩⟩
    · exact answer (tkenAt_owned hrec ((admTaken_ownsH h).trans hown)) rfl
    · exact answer (tkenAt_breach (s := s.admTaken d q) hrec ((admTaken_ownsH h).trans hown) hbad hb) rfl
    · obtain ⟨s1, ht, hr, hown1⟩ := tkenAt_waits (RecAt.found (d := d) (q := q) hm hrec) ((admTaken_ownsH h).trans hown) hbad hb
        (admTaken_isSome hsome) hdep
      exact answer ht ⟨congrArg RecView.st hr.view, congrArg RecView.err hr.view, hown1⟩
    · obtain ⟨s1, ht, hr, hown1⟩ := tkenAt_ready (RecAt.found (d := d) (q := q) hm hrec) ((admTaken_ownsH h).trans hown) hbad hb
        (admTaken_isSome hsome) hdep hcount
      exact answer ht ⟨congrArg RecView.st hr.view, congrArg RecView.err hr.view, hown1⟩
  · intro h k at_ answers same only live
    have hat : at_ (s.admTaken d q) := ⟨rfl, admTaken_die hx⟩
    have answer {code info : Nat} {g : State → State → Prop} {s1 : State}
        (hact : (s.admTaken d q).admAct q = s1.admAnswer q code info) (hg : g (s.admTaken d q) s1) : answers code info g :=
      ⟨_, s1, exec_admission_of ha hx hq hfree hact, hat, hg⟩
    refine ⟨fun hret hqput hnone => answer (admAct_noRec hret hqput hnone) rfl, fun a hop hrec => ?_, fun a hrec => ?_,
      fun r gid cell hop hwho hslot => ⟨_, exec_admission_of ha hx hq hfree (admAct_noSlot hwho hop hslot), hat⟩,
      fun r gid cell t a hwho hslot hrec => ?_⟩
    · exact tkdec_answers hm ha hx hq hfree hop hrec
    · exact tkst_answers hm ha hx hq hfree hrec
    · exact slot_answers hm ha hx hq hfree hwho hslot hrec
  · have hr : RecAt (s.freeSlot l k) t.handle a (s.view t.handle) := RecAt.same ⟨hrec, hm, rfl⟩ rfl rfl
    have hfin := hr.finishRec (s.trErr t.handle != 0)
    refine ⟨_, { x with slots := x.slots.set k none },
      exec_taskCompletion ha hx hphase ht hpend hdrained hdisp hvote hbad, ?_, rfl, finishRec_ownsH (s := s.freeSlot l k) howned _,
      (congrArg RecView.st hfin.view).trans ?_⟩
    · rw [State.load?, (finishRec_leavesLoads _ _ _).2]
      exact modLoad_there hx (fun x => { x with slots := x.slots.set k none }) fun _ hn => hn
    · by_cases herr : s.trErr t.handle = 0
      · simp [herr]
      · simp [herr]

end Sys2Proof.Machine
end

section
/-! SUPPORT. A restore whose tile's parameter buffer holds the record of the task it restores: the window written there is
the record's ERR before the walker meets the uncorrectable word. -/
namespace Sys2Proof.Machine
open Sys2Proof Sys2Proof.Safety
namespace Overlap

/-- The first overflow record of dv.SYEOVF, which the base 0x200003F0000 puts at the parameter buffer of tile 0. -/
def handle : Nat := 40960 + 384

def task : SlotX :=
  { handle, runs := [], wins := [], entry := 0, count := 0, written := 0, gone := [], sig := 0, dispAt := 0, frame := 0x8000,
    steps := [] }

def saved : Saved := ⟨0, handle, 7, 0x8000, [some task], false, [], []⟩

def load : Load :=
  { ref := ⟨0, 0⟩, cfgid := 7, tiles := [⟨0, 0, 1⟩], entries := [], slots := List.replicate 8 none, since := 0,
    lastDisp := 0, phase := .restoring, reason := 0, disp := none, returned := [0], retireFor := [],
    restoreOf := some handle, heldReq := none, probes := [], phaseAt := 0 }

/-- The tables of the frame: two pointers, a leaf with read access in this package, the value of the window, and the
window's word in the record. -/
def words : List (Nat × Word) :=
  [(0, 0x8000C00000000004), (0x40000, 0x8000C00000000005), (0x50000, 0xD00001FFF0000006), (0x60000, 0x0009000000000000),
    (0x200003FC048, 0x8000000000000000)]

/-- The word 0x1B000 of the save image is uncorrectable. -/
def start : State :=
  words.foldl (fun s w => s.setWord w.1 w.2)
    { State.reset with
      dv := { Dv.atReset 0 with syeovf := [0x1200003F0000, 0, 0, 0] }
      dies := [Die.atReset 0], seqs := [], loads := [load], saved := [saved], bad := [0x1B000], actor := .load ⟨0, 0⟩ }

def renewed : State × List (Option SlotX) × Nat := start.renewSlots load 0 saved.tasks

/-- The task's ERR after the restore. -/
def errAfter : Nat := match exec .restoreCompletion start with
  | .next s => s.trErr handle
  | _ => 0

theorem renewed_cause : renewed.2.2 = 0 := by decide +kernel
theorem renewed_imageBad : renewed.1.imageBad load saved.frame = true := by decide +kernel
theorem start_wf : Memory.wf start.mem = true := by decide +kernel
theorem recAddr_handle : start.recAddr handle ≠ none := by decide +kernel
theorem trErr_before : start.trErr handle = 0 := by decide +kernel
theorem errAfter_ne : errAfter ≠ Cause.uncorrectable := by decide +kernel

theorem errAfter_of_next {s : State} (h : exec .restoreCompletion start = .next s) : errAfter = s.trErr handle := by
  simp [errAfter, h]

end Overlap

/-- Refutes O47: the restored task's window is written into its own record, over ERR, before the walker meets the
uncorrectable word, so its ERR was 0 before and is not UNCORRECTABLE after. -/
theorem not_restoresAndVotes : ¬ Obligations.RestoresAndVotes := by
  intro h
  obtain ⟨restores, -⟩ := h
  obtain ⟨-, -, -, uncorrectable⟩ := restores Overlap.start ⟨0, 0⟩ Overlap.load rfl rfl rfl (by simp [Overlap.load])
  have hrenew : Overlap.start.renewSlots Overlap.load 0 Overlap.saved.tasks
      = (Overlap.renewed.1, Overlap.renewed.2.1, 0) := by
    rw [← Overlap.renewed_cause]; rfl
  obtain ⟨s', -, hexec, -, -, -, -, htasks⟩ :=
    uncorrectable Overlap.saved _ _ rfl hrenew Overlap.renewed_imageBad Overlap.start_wf
  obtain ⟨-, herr⟩ := htasks (by simp [Overlap.saved]) Overlap.task (by simp [Overlap.saved])
    Overlap.recAddr_handle rfl
  exact Overlap.errAfter_ne ((Overlap.errAfter_of_next hexec).trans (herr Overlap.trErr_before))

end Sys2Proof.Machine
end

section
/-! SUPPORT. Nodes of a deadline reduction (R414 to R419): the words of a packet, ports, instances, and what a packet, a
deadline and a write of the group table do. -/
namespace Sys2Proof.Machine
open Sys2Proof Sys2Proof.Safety

/-! ### The words of a packet -/

/-- The words of a map, one after the other, are its low bits. -/
theorem packLanes_mapWords (n : Nat) : ∀ b : Nat,
    packLanes 64 ((List.range n).map fun k => (BitVec.ofNat 64 (b / 2 ^ (64 * k))).toNat) = b % 2 ^ (64 * n) := by
  induction n with
  | zero => intro b; simp [packLanes, Nat.mod_one]
  | succ n ih =>
    intro b
    have hshift : ∀ k, b / 2 ^ (64 * (k + 1)) = b / 2 ^ 64 / 2 ^ (64 * k) := fun k => by
      rw [Nat.div_div_eq_div_mul, ← Nat.pow_add, Nat.mul_add, Nat.mul_one, Nat.add_comm]
    rw [List.range_succ_eq_map, List.map_cons, List.map_map, packLanes]
    have htail : (List.range n).map ((fun k => (BitVec.ofNat 64 (b / 2 ^ (64 * k))).toNat) ∘ Nat.succ)
        = (List.range n).map fun k => (BitVec.ofNat 64 (b / 2 ^ 64 / 2 ^ (64 * k))).toNat :=
      List.map_congr_left fun k _ => congrArg (fun m => (BitVec.ofNat 64 m).toNat) (hshift k)
    rw [htail, ih, Nat.mul_add, Nat.mul_one, Nat.add_comm (64 * n), Nat.pow_add, Nat.mod_mul]
    simp

theorem withResidues_words (ws : List Word) : (withResidues ws).map (fun x => x.1.toNat) = ws.map (·.toNat) := by
  simp [withResidues]

theorem length_withResidues (ws : List Word) : (withResidues ws).length = ws.length := by simp [withResidues]

theorem length_mapWords (n b : Nat) : (mapWords n b).length = ceilDiv n 64 := by simp [mapWords]

/-- A map is no wider than its words. -/
theorem two_pow_le_mapWords (n : Nat) : 2 ^ n ≤ 2 ^ (64 * ceilDiv n 64) :=
  Nat.pow_le_pow_right (by norm_num) (by unfold ceilDiv; omega)

theorem packLanes_mapWords_of_lt {n b : Nat} (h : b < 2 ^ n) :
    packLanes 64 ((withResidues (mapWords n b)).map fun x => x.1.toNat) = b := by
  rw [withResidues_words, mapWords, List.map_map]
  exact (packLanes_mapWords _ b).trans (Nat.mod_eq_of_lt (lt_of_lt_of_le h (two_pow_le_mapWords n)))

/-- Payload words that follow the header: none of a CLOSE or WITHDRAW. -/
def Packet.size (kind lenm1 : Nat) : Nat := if kind = 4 ∨ kind = 5 then 0 else lenm1 + 1

/-- What ofWords reads of words that begin with a header: the fields of the header. -/
theorem ofWords_append (h0 h1 : Word) (payload map rest : List (Word × BitVec 4))
    (hp : payload.length = Packet.size (fld h0 60 4) (fld h0 45 8)) (hm : map.length = ceilDiv (fld h1 30 13) 64) :
    Packet.ofWords (withResidues [h0, h1] ++ payload ++ map ++ rest) =
      { kind := fld h0 60 4, dir := fld h0 59 1, op := fld h0 57 2, fmt := fld h0 53 4, lenm1 := fld h0 45 8,
        seq := fld h0 29 16, group := fld h0 17 12, node := fld h0 3 14, ver := fld h1 56 8,
        mbase := fld h1 43 13, mspan := fld h1 30 13, count := fld h1 17 13, payload := payload,
        bitmap := packLanes 64 (map.map fun x => x.1.toNat) } := by
  have hlist : withResidues [h0, h1] ++ payload ++ map ++ rest
      = (h0, residue h0) :: (h1, residue h1) :: (payload ++ (map ++ rest)) := by simp [withResidues]
  have hn : (if fld h0 60 4 = 4 ∨ fld h0 60 4 = 5 then 0 else fld h0 45 8 + 1) = payload.length := hp.symm
  rw [hlist]
  simp [Packet.ofWords, hn, ← hm, Nat.add_comm 2 payload.length]

theorem fld_ofNat_of_lt {n : Nat} (h : n < 2 ^ 64) (lo k : Nat) : fld (BitVec.ofNat 64 n) lo k = n / 2 ^ lo % 2 ^ k := by
  rw [fld, fldN, BitVec.toNat_ofNat, Nat.mod_eq_of_lt h]

/-- The fields of the first header word. -/
theorem fld_head0 {kind dir op fmt lenm1 seq group node : Nat} (hkind : kind < 16) (hdir : dir < 2) (hop : op < 4)
    (hfmt : fmt < 16) (hlen : lenm1 < 256) (hseq : seq < 2 ^ 16) (hgroup : group < 2 ^ 12) (hnode : node < 2 ^ 14) :
    let w := BitVec.ofNat 64 (kind % 2 ^ 4 * 2 ^ 60 + dir % 2 * 2 ^ 59 + op % 4 * 2 ^ 57 + fmt % 2 ^ 4 * 2 ^ 53 +
      lenm1 % 2 ^ 8 * 2 ^ 45 + seq % 2 ^ 16 * 2 ^ 29 + group % 2 ^ 12 * 2 ^ 17 + node % 2 ^ 14 * 2 ^ 3)
    fld w 60 4 = kind ∧ fld w 59 1 = dir ∧ fld w 57 2 = op ∧ fld w 53 4 = fmt ∧ fld w 45 8 = lenm1 ∧
      fld w 29 16 = seq ∧ fld w 17 12 = group ∧ fld w 3 14 = node := by
  intro w
  have hw : kind % 2 ^ 4 * 2 ^ 60 + dir % 2 * 2 ^ 59 + op % 4 * 2 ^ 57 + fmt % 2 ^ 4 * 2 ^ 53 + lenm1 % 2 ^ 8 * 2 ^ 45 +
      seq % 2 ^ 16 * 2 ^ 29 + group % 2 ^ 12 * 2 ^ 17 + node % 2 ^ 14 * 2 ^ 3 < 2 ^ 64 := by omega
  simp only [w, fld_ofNat_of_lt hw]
  omega

/-- The fields of the second header word. -/
theorem fld_head1 {ver mbase mspan count : Nat} (hver : ver < 256) (hbase : mbase < 2 ^ 13) (hspan : mspan < 2 ^ 13)
    (hcount : count < 2 ^ 13) :
    let w := BitVec.ofNat 64 (ver % 2 ^ 8 * 2 ^ 56 + mbase % 2 ^ 13 * 2 ^ 43 + mspan % 2 ^ 13 * 2 ^ 30 + count % 2 ^ 13 * 2 ^ 17)
    fld w 56 8 = ver ∧ fld w 43 13 = mbase ∧ fld w 30 13 = mspan ∧ fld w 17 13 = count := by
  intro w
  have hw : ver % 2 ^ 8 * 2 ^ 56 + mbase % 2 ^ 13 * 2 ^ 43 + mspan % 2 ^ 13 * 2 ^ 30 + count % 2 ^ 13 * 2 ^ 17 < 2 ^ 64 := by
    omega
  simp only [w, fld_ofNat_of_lt hw]
  omega

/-- The words of a packet hold it whole. -/
theorem ofWords_words {p : Packet} (hkind : p.kind < 16) (hdir : p.dir < 2) (hop : p.op < 4) (hfmt : p.fmt < 16)
    (hlen : p.lenm1 < 256) (hseq : p.seq < 2 ^ 16) (hgroup : p.group < 2 ^ 12) (hnode : p.node < 2 ^ 14)
    (hver : p.ver < 256) (hbase : p.mbase < 2 ^ 13) (hspan : p.mspan < 2 ^ 13) (hcount : p.count < 2 ^ 13)
    (hmap : p.bitmap < 2 ^ p.mspan) (hp : p.payload.length = Packet.size p.kind p.lenm1) :
    Packet.ofWords p.words = p := by
  obtain ⟨kind, dir, op, fmt, len, seq, group, node⟩ := fld_head0 hkind hdir hop hfmt hlen hseq hgroup hnode
  obtain ⟨ver, mbase, mspan, count⟩ := fld_head1 hver hbase hspan hcount
  refine (ofWords_append _ _ _ _ _ (by rw [kind, len, hp]) (by rw [mspan, length_withResidues, length_mapWords])).trans ?_
  rw [packLanes_mapWords_of_lt hmap, kind, dir, op, fmt, len, seq, group, node, ver, mbase, mspan, count]

/-- A packet fills whole flits of eight words. -/
theorem length_words (p : Packet) :
    p.words.length = 8 * ceilDiv (2 + p.payload.length + ceilDiv p.mspan 64) 8 := by
  have hlen : (withResidues p.header ++ p.payload ++ withResidues (mapWords p.mspan p.bitmap)).length
      = 2 + p.payload.length + ceilDiv p.mspan 64 := by
    simp [length_withResidues, length_mapWords, Packet.header, Nat.add_assoc]
  have hfill (n : Nat) : n + (ceilDiv n 8 * 8 - n) = 8 * ceilDiv n 8 := by unfold ceilDiv; omega
  rw [Packet.words, List.length_append, length_withResidues, List.length_replicate, hlen, hfill]

/-! ### Ports and the actor -/

theorem setHas_of_mem {l : List Nat} {a : Nat} (hw : setWf l = true) (h : a ∈ l) : setHas l a = true := by
  induction l with
  | nil => exact absurd h List.not_mem_nil
  | cons k r ih =>
    simp only [setWf, Bool.and_eq_true, List.all_eq_true, decide_eq_true_eq] at hw
    obtain ⟨habove, hr⟩ := hw
    rcases List.mem_cons.mp h with rfl | hmem
    · simp [setHas]
    · have hlt := habove a hmem
      rw [setHas, if_neg (by omega), if_neg (by omega), ih hr hmem]

/-- The state with another object of the step. -/
def State.actAs (s : State) (a : Actor) : State := { s with actor := a }

theorem sendPacket_up {s : State} {port : Nat} (p : Packet) (h : setHas s.ports port = true) :
    s.sendPacket port p = { s with out := s.out ++ [.packet port p.words] } := if_pos h

theorem ite_actAs {c : Prop} {_ : Decidable c} {a : Actor} {x y x' y' : State} (hx : x = x'.actAs a) (hy : y = y'.actAs a) :
    (if c then x else y) = (if c then x' else y').actAs a := by
  rw [hx, hy, ← apply_ite (State.actAs · a)]

theorem sendPacket_actAs (s : State) (a : Actor) (port : Nat) (p : Packet) :
    (s.actAs a).sendPacket port p = (s.sendPacket port p).actAs a  :=
  ite_actAs (c := setHas s.ports port = true) rfl rfl

theorem push_actAs (s : State) (a : Actor) (ts : List Turn) : (s.actAs a).push ts = (s.push ts).actAs a := rfl

theorem emitPacket_actAs (s : State) (a : Actor) (g : GroupEnt) (p : Packet) :
    (s.actAs a).emitPacket g p = (s.emitPacket g p).actAs a := by
  refine ite_actAs (sendPacket_actAs s a _ _) (ite_actAs ?_ (ite_actAs (c := g.dest = s.ownPkg) rfl rfl))
  exact List.foldl_hom (State.actAs · a) fun t k =>
    ite_actAs (c := k.node = t.ownPkg) rfl (sendPacket_actAs t a _ _)

theorem sendValue_actAs (s : State) (a : Actor) (g : GroupEnt) (x : Inst) :
    (s.actAs a).sendValue g x = (s.sendValue g x).actAs a := by
  unfold State.sendValue
  cases x.sent <;> exact congrArg (fun t : State => t.modInst x.group x.seq _) (emitPacket_actAs s a g _)

theorem sendClose_actAs (s : State) (a : Actor) (g : GroupEnt) (x : Inst) (bits : Nat) :
    (s.actAs a).sendClose g x bits = (s.sendClose g x bits).actAs a := emitPacket_actAs s a g _

theorem settle_actAs (s : State) (a : Actor) (g : GroupEnt) (group seq : Nat) (value : Bool) :
    (s.actAs a).settle g group seq value = (s.settle g group seq value).actAs a := by
  unfold State.settle
  have hinst : (s.actAs a).inst? group seq = s.inst? group seq := rfl
  rw [hinst]
  cases s.inst? group seq with
  | none => rfl
  | some x =>
    have hsend : ∀ c : Bool, (if c then (s.actAs a).sendValue g x else s.actAs a)
        = (if c then s.sendValue g x else s).actAs a := fun c => ite_actAs (sendValue_actAs s a g x) rfl
    simp only [hsend]
    generalize (value && x.sent.isSome || x.sent.isNone && !x.vals.isEmpty && (x.expired || x.accounted g)) = c
    generalize (if c = true then s.sendValue g x else s) = s1
    have hinst1 : (s1.actAs a).inst? group seq = s1.inst? group seq := rfl
    rw [hinst1]
    cases s1.inst? group seq with
    | none => rfl
    | some y =>
      exact ite_actAs (congrArg (State.releaseInst · y)
        (ite_actAs (c := y.union g (·.miss) = 0) rfl (sendClose_actAs s1 a g y _))) rfl

theorem upPacket_actAs (s : State) (a : Actor) (g : GroupEnt) (p : Packet) (k : Nat) :
    (s.actAs a).upPacket g p k = (s.upPacket g p k).actAs a := by
  unfold State.upPacket
  have hinst : (s.actAs a).inst? p.group p.seq = s.inst? p.group p.seq := rfl
  rw [hinst]
  cases s.inst? p.group p.seq with
  | none => rfl
  | some x =>
    exact ite_actAs (ite_actAs rfl (settle_actAs (s.modInst p.group p.seq _) a g _ _ _))
      (ite_actAs rfl (settle_actAs (s.modInst p.group p.seq _) a g _ _ _))

/-- A packet from the root goes on to a child of another package. -/
def Packet.onward (p : Packet) (s : State) (k : Child) : State :=
  if k.node = s.ownPkg then s else s.sendPacket k.port p

theorem onward_actAs (p : Packet) (s : State) (a : Actor) (k : Child) :
    p.onward (s.actAs a) k = (p.onward s k).actAs a :=
  ite_actAs (c := k.node = s.ownPkg) rfl (sendPacket_actAs s a _ _)

theorem downPacket_actAs (s : State) (a : Actor) (g : GroupEnt) (p : Packet) (routed : Bool) :
    (s.actAs a).downPacket g p routed = (s.downPacket g p routed).actAs a := by
  have htree : (if (g.role == 1 && !routed) = true then g.kids.foldl p.onward (s.actAs a) else s.actAs a)
      = (if (g.role == 1 && !routed) = true then g.kids.foldl p.onward s else s).actAs a :=
    ite_actAs (List.foldl_hom (State.actAs · a) fun t k => onward_actAs p t a k) rfl
  exact ite_actAs htree (congrArg (State.push · [.event .receivePacket (.packet p)]) htree)

theorem openInst_actAs (s : State) (a : Actor) (g : GroupEnt) (p : Packet) :
    (s.actAs a).openInst g p = (s.openInst g p).map (State.actAs · a) := by
  by_cases h : (s.insts.filter fun y => y.group == p.group && !y.released).length < g.win
  · exact (if_pos h).trans (congrArg (Option.map (State.actAs · a)) (show s.openInst g p = _ from if_pos h)).symm
  · exact (if_neg h).trans (congrArg (Option.map (State.actAs · a)) (show s.openInst g p = _ from if_neg h)).symm

/-- What a packet does does not depend on the object of the step. -/
theorem takePacket_actAs (s : State) (a : Actor) (p : Packet) (routed : Bool) :
    (s.actAs a).takePacket p routed = (s.takePacket p routed).actAs a := by
  unfold State.takePacket
  refine ite_actAs rfl (ite_actAs rfl ?_)
  have hgroup : (s.actAs a).groupEnt p.group = s.groupEnt p.group := rfl
  rw [hgroup]
  cases s.groupEnt p.group with
  | none => rfl
  | some g =>
    refine ite_actAs (downPacket_actAs s a g p routed) (ite_actAs rfl ?_)
    have hkid : (s.actAs a).kidOf g p = s.kidOf g p := rfl
    have hinst : (s.actAs a).inst? p.group p.seq = s.inst? p.group p.seq := rfl
    rw [hkid, hinst]
    cases s.kidOf g p with
    | none => rfl
    | some k =>
      cases s.inst? p.group p.seq with
      | some x => exact ite_actAs rfl (ite_actAs rfl (upPacket_actAs s a g p k))
      | none =>
        simp only [openInst_actAs]
        cases s.openInst g p with
        | none => rfl
        | some s1 => exact upPacket_actAs s1 a g p k

/-! ### Instances -/

theorem inst?_name {s : State} {group seq : Nat} {x : Inst} (hx : s.inst? group seq = some x) :
    x.group = group ∧ x.seq = seq := by
  simpa using List.find?_some (p := fun y : Inst => decide (y.group = group ∧ y.seq = seq)) hx

/-- A reduction in progress after a change that keeps its name. -/
theorem inst?_modInst {s : State} {group seq : Nat} {x : Inst} {f : Inst → Inst} (hx : s.inst? group seq = some x)
    (hf : ∀ y, (f y).group = y.group ∧ (f y).seq = y.seq) : (s.modInst group seq f).inst? group seq = some (f x) := by
  have hkeep : ((fun y : Inst => decide (y.group = group ∧ y.seq = seq)) ∘
      fun y => if y.group = group ∧ y.seq = seq then f y else y) = fun y => decide (y.group = group ∧ y.seq = seq) := by
    funext y
    simp only [Function.comp_apply]
    split
    · rw [(hf y).1, (hf y).2]
    · rfl
  refine (List.find?_map ..).trans ?_
  rw [hkeep]
  exact (congrArg _ hx).trans (congrArg some (if_pos (inst?_name hx)))

/-- An interior node's packet leaves by the port to its parent. -/
theorem emitPacket_interior {s : State} {g : GroupEnt} (p : Packet) (hrole : g.role = 1) (hup : setHas s.ports g.pport = true) :
    s.emitPacket g p = { s with out := s.out ++ [.packet g.pport p.words] } :=
  (if_pos (by rw [hrole]; decide)).trans (sendPacket_up p hup)

/-- FINAL where every member of the span has contributed, PARTIAL otherwise. -/
def Inst.firstKind (x : Inst) (g : GroupEnt) : Nat := if x.union g (·.bits) = 2 ^ g.span - 1 then 1 else 2

/-- The packet with the first value of a reduction. -/
def State.firstPacket (s : State) (g : GroupEnt) (x : Inst) : Packet :=
  s.nodePacket g x (x.firstKind g) 0 (redResult x.op x.fmt s.ownPkg x.seq (x.lenm1 + 1) x.vals) (x.union g (·.bits))

/-- The first value of a reduction goes up as version 0. -/
theorem sendValue_first {s : State} {g : GroupEnt} {x : Inst} (hrole : g.role = 1) (hup : setHas s.ports g.pport = true)
    (hsent : x.sent = none) :
    s.sendValue g x = ({ s with out := s.out ++ [.packet g.pport (s.firstPacket g x).words] } : State).modInst x.group x.seq
      fun x => { x with sent := some 0 } := by
  simp only [State.sendValue, hsent, emitPacket_interior _ hrole hup]
  rfl

/-! ### A contribution, and the deadlines -/

/-- A reduction in progress with what a child has sent. -/
def Inst.takes (x : Inst) (k : Nat) (v : KidVal) : Inst := { x with kids := x.kids.set k v }

/-- A contribution is put into its reduction, which is then looked at again. -/
theorem upPacket_contribution {s : State} {g : GroupEnt} {p : Packet} {k : Nat} {x : Inst} {v : KidVal}
    (hx : s.inst? p.group p.seq = some x) (hkind : p.kind = 0) (hv : x.kids.getD k ⟨none, 0, 0⟩ = v)
    (hmiss : v.miss &&& p.bitmap = 0) :
    s.upPacket g p k = (s.modInst p.group p.seq (·.takes k { v with val := some (p.payload.map (·.1)), bits := p.bitmap })).settle
      g p.group p.seq true := by
  subst hv
  simp only [State.upPacket, hx, hkind]
  rw [if_neg (by decide), if_neg fun h => h.2 hmiss]
  rfl

theorem settle_waits {s : State} {g : GroupEnt} {group seq : Nat} {value : Bool} {x : Inst}
    (hx : s.inst? group seq = some x) (hsent : x.sent = none) (hexp : x.expired = false) (hwait : x.accounted g = false) :
    s.settle g group seq value = s := by
  simp [State.settle, hx, hsent, hexp, hwait]

/-- With the last child the value goes up and the reduction is released. -/
theorem settle_last {s : State} {g : GroupEnt} {group seq : Nat} {value : Bool} {x : Inst} (hrole : g.role = 1)
    (hup : setHas s.ports g.pport = true) (hx : s.inst? group seq = some x) (hsent : x.sent = none)
    (hall : x.accounted g = true) (hvals : x.vals ≠ []) (hmiss : x.union g (·.miss) = 0) :
    ∃ s', s.settle g group seq value = s' ∧ s'.inst? group seq = some { x with sent := some 0, released := true } ∧
      s'.out = s.out ++ [.packet g.pport (s.firstPacket g x).words] := by
  obtain ⟨rfl, rfl⟩ := inst?_name hx
  have hx1 := inst?_modInst (s := { s with out := s.out ++ [.packet g.pport (s.firstPacket g x).words] })
    (f := fun x => { x with sent := some 0 }) hx fun _ => ⟨rfl, rfl⟩
  have hsend := sendValue_first hrole hup hsent
  have hvals' : x.vals.isEmpty = false := by simpa using hvals
  have hx2 := inst?_modInst (f := fun x => { x with released := true }) hx1 fun _ => ⟨rfl, rfl⟩
  refine ⟨_, ?_, hx2, rfl⟩
  have hmiss' : Inst.union { x with sent := some 0 } g (·.miss) = 0 := hmiss
  simp [State.settle, hx, hsent, hall, hvals', hsend, hx1, hmiss', State.releaseInst]

section
variable {s : State} {g : GroupEnt} {x : Inst} {group seq : Nat} (hactor : s.actor = .inst group seq)
  (hgroup : s.groupEnt group = some g) (hx : s.inst? group seq = some x) (hlive : x.released = false)
include hactor hgroup hx hlive

theorem exec_deadlineExpiry_sends (hrole : g.role = 1) (hup : setHas s.ports g.pport = true) (hexp : x.expired = false)
    (hdue : g.d ≤ s.instAge g x) (hsent : x.sent = none) (hvals : x.vals ≠ []) :
    ∃ s', exec .deadlineExpiry s = .next s' ∧ s'.inst? group seq = some { x with expired := true, sent := some 0 } ∧
      s'.out = s.out ++ [.packet g.pport (s.firstPacket g x).words] := by
  obtain ⟨hname, hname'⟩ := inst?_name hx
  have hsend := sendValue_first (s := s.modInst group seq fun x => { x with expired := true }) hrole hup hsent
  rw [hname, hname'] at hsend
  have hx1 := inst?_modInst (f := fun x => { x with expired := true }) hx fun _ => ⟨rfl, rfl⟩
  have hx2 := inst?_modInst (s := { s.modInst group seq fun x => { x with expired := true } with
    out := s.out ++ [.packet g.pport (s.firstPacket g x).words] }) (f := fun x => { x with sent := some 0 }) hx1
    fun _ => ⟨rfl, rfl⟩
  have hvals' : x.vals.isEmpty = false := by simpa using hvals
  refine ⟨_, ?_, hx2, rfl⟩
  show execDeadlineExpiry s = _
  simp only [execDeadlineExpiry, hactor, hx, hgroup, hlive, hexp, hsent, hvals']
  rw [if_neg (by simp; omega), if_pos (by simp), hsend]
  rfl

theorem exec_deadlineExpiry_nothing (hexp : x.expired = false) (hdue : g.d ≤ s.instAge g x) (hvals : x.vals = []) :
    exec .deadlineExpiry s = .next (s.modInst group seq fun x => { x with expired := true }) := by
  show execDeadlineExpiry s = _
  simp only [execDeadlineExpiry, hactor, hx, hgroup, hlive, hexp, hvals]
  rw [if_neg (by simp; omega), if_neg (by simp)]

theorem exec_closeDeadlineExpiry (hrole : g.role = 1) (hup : setHas s.ports g.pport = true)
    (hdue : g.dc ≤ s.instAge g x) :
    exec .closeDeadlineExpiry s = .next (({ s with out := s.out ++ [.packet g.pport (s.nodePacket g x 4 (x.sent.getD 0) []
      (2 ^ g.span - 1 - if x.sent.isSome then x.union g (·.bits) else 0)).words] } : State).modInst group seq
        fun x => { x with released := true }) := by
  obtain ⟨hname, hname'⟩ := inst?_name hx
  show execCloseDeadlineExpiry s = _
  simp only [execCloseDeadlineExpiry, hactor, hx, hgroup, hlive, State.sendClose, emitPacket_interior _ hrole hup]
  rw [if_neg (by simp; omega)]
  simp only [State.releaseInst, hname, hname']
  rfl

end

/-! ### A packet at the link router -/

theorem exec_reductionPacket {s : State} {p : Packet} (hactor : s.actor = .packet p) :
    exec .reductionPacket s = .next (s.takePacket p false) := by
  show execReductionPacket s = _
  simp only [execReductionPacket, hactor]

theorem exec_reductionPacket_flits {s : State} {routed : Bool} {ws : List (Word × BitVec 4)}
    (hactor : s.actor = .flits routed ws) :
    exec .reductionPacket s = .next (if s.dv.pstate = 3 then s else s.takePacket (Packet.ofWords ws) routed) := by
  show execReductionPacket s = _
  simp only [execReductionPacket, hactor]

theorem takePacket_unknown {s : State} {p : Packet} {routed : Bool} (h : 5 < p.kind ∨ 1 < p.op) : s.takePacket p routed = s :=
  if_pos (decide_eq_true h)

theorem residues_good {p : Packet} (hres : ∀ w ∈ p.payload, residue w.1 = w.2) :
    ¬ (p.payload.any fun w => residue w.1 != w.2) = true := by
  simpa using fun a b h => hres (a, b) h

section
variable {s : State} {p : Packet} {routed : Bool} (hkind : p.kind ≤ 5) (hop : p.op ≤ 1)
include hkind hop

theorem not_unknown : ¬ p.unknown = true := by
  simp only [Packet.unknown, decide_eq_true_eq]
  omega

theorem takePacket_badResidue (h : ∃ w ∈ p.payload, residue w.1 ≠ w.2) : s.takePacket p routed = s.drBad := by
  refine (if_neg (not_unknown hkind hop)).trans (if_pos ?_)
  obtain ⟨w, hw, hne⟩ := h
  exact List.any_eq_true.mpr ⟨w, hw, bne_iff_ne.mpr hne⟩

variable (hres : ∀ w ∈ p.payload, residue w.1 = w.2)
include hres

theorem takePacket_noGroup (h : s.groupEnt p.group = none) : s.takePacket p routed = s.drBad := by
  refine (if_neg (not_unknown hkind hop)).trans ((if_neg (residues_good hres)).trans ?_)
  simp only [h]

variable {g : GroupEnt} (hg : s.groupEnt p.group = some g)
include hg

theorem takePacket_down (hdir : p.dir = 1) : s.takePacket p routed = s.downPacket g p routed := by
  refine (if_neg (not_unknown hkind hop)).trans ((if_neg (residues_good hres)).trans ?_)
  simp only [hg]
  exact if_pos hdir

theorem takePacket_up {k : Nat} {x : Inst} (hdir : p.dir ≠ 1) (hrole : g.role = 1) (hk : s.kidOf g p = some k)
    (hx : s.inst? p.group p.seq = some x) (hlive : x.released = false) (hxop : x.op = p.op) (hxfmt : x.fmt = p.fmt)
    (hxlen : x.lenm1 = p.lenm1) : s.takePacket p routed = s.upPacket g p k := by
  refine (if_neg (not_unknown hkind hop)).trans ((if_neg (residues_good hres)).trans ?_)
  simp only [hg, hk, hx]
  rw [if_neg hdir, if_neg (by omega), if_neg (by simp [hlive]), if_neg (by simp [hxop, hxfmt, hxlen])]

end

/-- A packet for the own member alone is only taken in. -/
theorem downPacket_member {s : State} {g : GroupEnt} (p : Packet) {routed : Bool} (h : routed = true ∨ g.role ≠ 1) :
    s.downPacket g p routed = s.push [.event .receivePacket (.packet p)] := by
  have htree : (g.role == 1 && !routed) = false := by rcases h with h | h <;> simp [h]
  simp [State.downPacket, htree]

/-- Packets that leave for the children of other packages whose ports are up. -/
def Packet.sentOn (p : Packet) (s : State) (kids : List Child) : List OutItem :=
  (kids.filter fun k => decide (k.node ≠ s.ownPkg) && setHas s.ports k.port).map fun k => .packet k.port p.words

theorem foldl_onward (p : Packet) (kids : List Child) : ∀ s : State,
    kids.foldl p.onward s = { s with out := s.out ++ p.sentOn s kids } := by
  induction kids with
  | nil => intro s; simp [Packet.sentOn]
  | cons k kids ih =>
    intro s
    rw [List.foldl_cons]
    by_cases hown : k.node = s.ownPkg
    · rw [show p.onward s k = s from if_pos hown, ih]
      simp [Packet.sentOn, hown]
    · rw [show p.onward s k = s.sendPacket k.port p from if_neg hown]
      by_cases hup : setHas s.ports k.port = true
      · rw [sendPacket_up p hup, ih]
        have hother : ¬ k.node = s.dv.pkgnum := hown
        simp [Packet.sentOn, hother, hup, State.ownPkg] <;> rfl
      · rw [show s.sendPacket k.port p = s from if_neg hup, ih]
        simp [Packet.sentOn, hup]

theorem downPacket_tree {s : State} {g : GroupEnt} (p : Packet) (hrole : g.role = 1) :
    s.downPacket g p false = { s with
      out := s.out ++ p.sentOn s g.kids
      agenda := (if g.self = 0x1FFF then [] else [.event .receivePacket (.packet p)]) ++ s.agenda } := by
  have hsent : s.downPacket g p false = if g.self = 0x1FFF then g.kids.foldl p.onward s
      else (g.kids.foldl p.onward s).push [.event .receivePacket (.packet p)] := by
    simp [State.downPacket, hrole]
    rfl
  rw [hsent, foldl_onward]
  split <;> rfl

/-- The group-table entry that words stand for. -/
def GroupEnt.ofWords (group : Nat) (ws : List Word) : GroupEnt :=
  ⟨group, ws.getD 0 0 &&& 0xFFFFFFFFC00FFFFF, ws.getD 1 0 &&& 0xFFFFFFFFFFFFFF00,
    ((ws.drop 2).take (fld (ws.getD 0 0 &&& 0xFFFFFFFFC00FFFFF) 56 5 + 1)).map childOf⟩

theorem exec_groupTableWrite {s : State} {group : Nat} {ws : List Word} (hactor : s.actor = .table group ws) :
    exec .groupTableWrite s = .next { s with
      groups := (s.groups.filter fun y => decide (y.group ≠ group)) ++ [GroupEnt.ofWords group ws]
      insts := s.insts.filter fun y => decide (y.group ≠ group) } := by
  show execGroupTableWrite s = _
  simp only [execGroupTableWrite, hactor]
  rfl

/-! ### Reduction nodes -/

/-- Settles O43, clause by clause: a packet at its node, the words of a packet, words that arrive at a port, the deadlines of
a reduction, and a write of the group table. -/
theorem reductionNodes : Obligations.ReductionNodes := by
  refine ⟨fun s p hactor => ?_, ?_, ?_, ?_, ?_⟩
  · have hexec := exec_reductionPacket hactor
    refine ⟨fun h => ?_, fun hkind hop hres => ?_, fun hkind hop hres => ⟨fun hg => ?_, ?_⟩⟩
    · rw [hexec, takePacket_unknown h]
    · exact ⟨_, hexec.trans (congrArg _ (takePacket_badResidue hkind hop hres)), rfl⟩
    · exact ⟨_, hexec.trans (congrArg _ (takePacket_noGroup hkind hop hres hg)), rfl⟩
    · intro g x k v hg hdir hrole hk hx hlive hxop hxfmt hxlen hcontr hv hmiss hsent hexp v' x'
      have htake := hexec.trans (congrArg _ ((takePacket_up hkind hop hres hg hdir hrole hk hx hlive hxop hxfmt hxlen).trans
        (upPacket_contribution hx hcontr hv hmiss)))
      have hx' : (s.modInst p.group p.seq (·.takes k v')).inst? p.group p.seq = some x' :=
        inst?_modInst (f := (·.takes k v')) hx fun _ => ⟨rfl, rfl⟩
      refine ⟨fun hwait => ?_, fun hall hvals hnone hport hports => ?_⟩
      · exact ⟨_, htake.trans (congrArg _ (settle_waits hx' hsent hexp hwait)), hx', rfl⟩
      · obtain ⟨s', hs', hinst, hout⟩ := settle_last (s := s.modInst p.group p.seq (·.takes k v')) (value := true) (x := x') hrole
          (setHas_of_mem hports hport) hx' hsent hall hvals hnone
        exact ⟨s', htake.trans (congrArg _ hs'), hinst, hout⟩
  · intro p hkind hdir hop hfmt hlen hseq hgroup hnode hver hbase hspan hcount hmap hpay
    refine ⟨ofWords_words hkind hdir hop hfmt hlen hseq hgroup hnode hver hbase hspan hcount hmap hpay, ?_, length_words p⟩
    rw [length_words, Nat.mul_mod_right]
  · intro s s' routed ws hactor p
    have hexec := exec_reductionPacket_flits hactor
    refine ⟨fun hoff => ?_, fun hon hrouted htaken => ?_, fun g hon hkind hop hres hg hdir => ?_⟩
    · rw [hexec, if_pos hoff]
    · have hnext := (exec_reductionPacket (s := { s with actor := .packet p }) rfl).symm.trans htaken
      have hs' : s' = (s.takePacket p false).actAs (.packet p) :=
        (Host.Outcome.next.inj hnext).symm.trans (takePacket_actAs s (.packet p) p false)
      have hself : s.takePacket p false = (s.takePacket p false).actAs s.actor := takePacket_actAs s s.actor p false
      show exec .reductionPacket s = .next (s'.actAs s.actor)
      rw [hexec, if_neg hon, hrouted, hs', hself]
      rfl
    · rw [hexec, if_neg hon, takePacket_down hkind hop hres hg hdir]
      refine ⟨fun h => congrArg _ (downPacket_member p h), fun hrouted hrole => ?_⟩
      rw [hrouted, downPacket_tree p hrole]
      rfl
  · intro s g x group seq hactor hgroup hx hlive hrole hport hports
    have hup := setHas_of_mem hports hport
    refine ⟨exec_deadlineExpiry_sends hactor hgroup hx hlive hrole hup, fun hexp hdue hvals => ?_, fun hdue => ?_⟩
    · exact ⟨_, exec_deadlineExpiry_nothing hactor hgroup hx hlive hexp hdue hvals,
        inst?_modInst (f := fun x => { x with expired := true }) hx fun _ => ⟨rfl, rfl⟩, rfl⟩
    · exact ⟨_, exec_closeDeadlineExpiry hactor hgroup hx hlive hrole hup hdue,
        inst?_modInst (f := fun x => { x with released := true }) hx fun _ => ⟨rfl, rfl⟩, rfl⟩
  · intro s group ws hactor
    exact ⟨_, _, exec_groupTableWrite hactor, rfl, rfl, rfl, rfl, fun x hx => of_decide_eq_true (List.mem_filter.mp hx).2, rfl⟩

end Sys2Proof.Machine
end

section
/-! SUPPORT. Reset, power states and the loss of the owner (R404, R459 to R461, R464, R465). -/
namespace Sys2Proof.Machine
open Sys2Proof Sys2Proof.Safety

/-! ### Memory after a reset -/

theorem sget_filter_cleared {α : Type} (d : α) (keep : Nat → Bool) {a : Nat} (h : keep a = false) (m : List (Nat × α)) :
    sget d (m.filter fun c => keep c.1) a = d := by
  induction m with
  | nil => rfl
  | cons c r ih =>
    by_cases hc : keep c.1 = true
    · rw [List.filter_cons_of_pos (p := fun c : ℕ × α => keep c.1) hc, sget, ih, if_neg (fun e => by simp [e, hc] at h), ite_self]
    · rw [List.filter_cons_of_neg (p := fun c : ℕ × α => keep c.1) hc, ih]

theorem sget_filter_kept {α : Type} [DecidableEq α] (d : α) (keep : Nat → Bool) {a : Nat} (h : keep a = true)
    {m : List (Nat × α)} (hm : swf d m = true) : sget d (m.filter fun c => keep c.1) a = sget d m a := by
  induction m with
  | nil => rfl
  | cons c r ih =>
    simp only [swf, Bool.and_eq_true] at hm
    obtain ⟨⟨-, habove⟩, hr⟩ := hm
    by_cases hc : keep c.1 = true
    · rw [List.filter_cons_of_pos (p := fun c : ℕ × α => keep c.1) hc, sget, sget, ih hr]
    · rw [List.filter_cons_of_neg (p := fun c : ℕ × α => keep c.1) hc, ih hr, sget, if_neg (fun e : a = c.1 => hc (e ▸ h))]
      split
      · exact sget_above d r (sabove_mono (by omega) r habove)
      · rfl

theorem putWords_onlyBytes (ws : List Word) (s : State) (a : Nat) (hm : Memory.wf s.mem = true) :
    onlyBytes s (s.putWords a ws) a (8 * ws.length) := by
  induction ws generalizing s a with
  | nil => exact fun _ _ => rfl
  | cons w ws ih =>
    intro b hb
    rw [List.length_cons] at hb
    exact (ih (s.putWord a w) (a + 8) (putWord_wf s a w hm) b (by omega)).trans
      (putWord_onlyBytes s a w hm b (by omega))

/-- Nodes written back in turn. -/
def State.writeBackNodes (s : State) (ps : List DirtyNode) : State := ps.foldl (fun s p => s.putWords p.pa p.words) s

theorem writeBack_byte {b : Nat} (ps : List DirtyNode) : ∀ s : State, Memory.wf s.mem = true →
    Memory.wf (s.writeBackNodes ps).mem = true ∧
      ((s.writeBackNodes ps).byte b = s.byte b ∨ ∃ p ∈ ps, p.pa ≤ b ∧ b < p.pa + 8 * p.words.length) := by
  induction ps with
  | nil => exact fun s hm => ⟨hm, .inl rfl⟩
  | cons p ps ih =>
    intro s hm
    obtain ⟨hwf, hbyte⟩ := ih (s.putWords p.pa p.words) (putWords_wf _ _ _ hm)
    refine ⟨hwf, ?_⟩
    by_cases hin : p.pa ≤ b ∧ b < p.pa + 8 * p.words.length
    · exact .inr ⟨p, List.mem_cons_self, hin⟩
    · rcases hbyte with hsame | ⟨q, hq, hin'⟩
      · exact .inl (hsame.trans (putWords_onlyBytes p.words s p.pa hm b (by omega)))
      · exact .inr ⟨q, List.mem_cons_of_mem p hq, hin'⟩

theorem writeBackSome_unwritten (s : State) : ∀ p ∈ s.writeBackSome.unwritten, p ∈ s.unwritten := by
  intro p hp
  obtain ⟨q, hq, rfl⟩ := List.mem_map.mp hp
  exact (List.of_mem_zip (List.mem_filter.mp hq).1).1

/-- Memory apart from the nodes that were not written back is as it was. -/
theorem cachesGone_byte (s : State) (hm : Memory.wf s.mem = true) (b : Nat) : Memory.wf s.cachesGone.mem = true ∧
    (s.cachesGone.byte b = s.byte b ∨ ∃ p ∈ s.unwritten, p.pa ≤ b ∧ b < p.pa + 8 * p.words.length) := by
  obtain ⟨hwf, hbyte⟩ := writeBack_byte (b := b) s.writeBackSome.unwritten s.writeBackSome hm
  refine ⟨hwf, hbyte.imp_right ?_⟩
  rintro ⟨p, hp, hin⟩
  exact ⟨p, writeBackSome_unwritten s p hp, hin⟩

/-- What a reset leaves of memory. -/
theorem execReset_eq (s : State) : ∃ s', exec .reset s = .next s' ∧
    s'.mem = s.cachesGone.mem.filter (fun c => !s.clearedByReset c.1) ∧
    s' = { s.cachesGone.restart (s.dv.incarn + 1) with mem := s'.mem, presence := s'.presence, bad := s'.bad } :=
  ⟨_, rfl, rfl, rfl⟩

theorem reset_cleared (s : State) {a : Nat} (h : 0x30000000000 ≤ a ∨ (s.recAt a).isSome = true) : s.clearedByReset a = true := by
  simpa [State.clearedByReset] using h

theorem reset_kept (s : State) {a : Nat} (hlow : a < 0x30000000000) (hrec : s.recAt a = none) : s.clearedByReset a = false := by
  simpa [State.clearedByReset, hrec] using hlow

/-! ### Power states -/

theorem deepest_of_working {s : State} (h : s.working = true) : s.deepest = 0 := by
  simp [State.deepest, h]

theorem deepest_of_limit {s : State} (h : fld s.dv.ltol 0 32 < 1600) : s.deepest = 0 := by
  have hlimit : decide (1600 ≤ fld s.dv.ltol 0 32) = false := decide_eq_false (by omega)
  simp [State.deepest, hlimit]

/-- The package enters a power state: memory is lost on entry to state 3. -/
theorem exec_powerStateEntry (s : State) : exec .powerStateEntry s = .next (if s.dv.bootfail = true then s else
    { (if max s.dv.pstate s.deepest = 3 ∧ s.dv.pstate ≠ 3 then s.memoryLost else s) with
      dv := { s.dv with pstate := max s.dv.pstate s.deepest } }) := rfl

/-! ### The loss of the owner -/

/-- dv.CLAIM once the owner is lost. -/
def claimLost (c : Word) : Word := claimAfter c (BitVec.ofNat 64 (opkg c * 2 ^ 49 + npkg c * 2 ^ 34))

/-- The fields of a claim that keeps OPKG and NPKG and has no owner. -/
theorem fld_unowned {o n : Nat} (ho : o < 2 ^ 13) (hn : n < 2 ^ 13) :
    fld (BitVec.ofNat 64 (o * 2 ^ 49 + n * 2 ^ 34)) 34 30 = o * 2 ^ 15 + n ∧
    fld (BitVec.ofNat 64 (o * 2 ^ 49 + n * 2 ^ 34)) 62 2 = 0 := by
  have hw : o * 2 ^ 49 + n * 2 ^ 34 < 2 ^ 64 := by omega
  rw [fld_ofNat_of_lt hw, fld_ofNat_of_lt hw]
  omega

/-- The fields of a word of owner, next owner and epoch. -/
theorem fld_claim {o n e : Nat} (ho : o < 2 ^ 13) (hn : n < 2 ^ 13) :
    let w := BitVec.ofNat 64 ((o * 2 ^ 15 + n) * 2 ^ 34 + e % 2 ^ 32)
    fld w 62 2 = 0 ∧ fld w 47 2 = 0 ∧ fld w 0 32 = e % 2 ^ 32 := by
  intro w
  have hw : (o * 2 ^ 15 + n) * 2 ^ 34 + e % 2 ^ 32 < 2 ^ 64 := by omega
  simp only [w, fld_ofNat_of_lt hw]
  omega

theorem claimLost_fields (c : Word) : okind (claimLost c) = 0 ∧ nkind (claimLost c) = 0 ∧
    (okind c ≠ 0 → fld (claimLost c) 0 32 = (fld c 0 32 + 1) % 2 ^ 32) := by
  have ho : opkg c < 2 ^ 13 := Nat.mod_lt _ (by norm_num)
  have hn : npkg c < 2 ^ 13 := Nat.mod_lt _ (by norm_num)
  obtain ⟨hfields, hunowned⟩ := fld_unowned ho hn
  simp only [claimLost, claimAfter, hfields]
  obtain ⟨hok, hnk, hepoch⟩ := fld_claim (e := fld c 0 32 + boolN (decide (okind c ≠ okind (BitVec.ofNat 64
    (opkg c * 2 ^ 49 + npkg c * 2 ^ 34)) ∨ opkg c ≠ opkg (BitVec.ofNat 64 (opkg c * 2 ^ 49 + npkg c * 2 ^ 34))))) ho hn
  refine ⟨hok, hnk, fun howned => hepoch.trans ?_⟩
  rw [show okind (BitVec.ofNat 64 (opkg c * 2 ^ 49 + npkg c * 2 ^ 34)) = 0 from hunowned, decide_eq_true (.inl howned)]
  rfl

/-- The answers to requests of masters that waited. -/
def State.answerLost (s : State) (q : AdmReq) : State :=
  match q.who with
  | .host m tag => s.respond m tag stNotOwner []
  | .mpe _ _ _ => s

/-- Answers reach neither the device's registers nor memory. -/
def answersOnly (s s' : State) : Prop := s'.dv = s.dv ∧ s'.mem = s.mem

theorem answerLost_answersOnly (s : State) (q : AdmReq) : answersOnly s (s.answerLost q) := by
  unfold State.answerLost
  split <;> exact ⟨rfl, rfl⟩

theorem foldl_answerLost (qs : List AdmReq) (s : State) : answersOnly s (qs.foldl State.answerLost s) :=
  foldl_keeps (fun _ => ⟨rfl, rfl⟩) (fun h1 h2 => ⟨h2.1.trans h1.1, h2.2.trans h1.2⟩) _ answerLost_answersOnly qs s

theorem exec_ownerLoss (s : State) : ∃ s', exec .ownerLoss s = .next s' ∧ s'.dv = { s.dv with claim := claimLost s.dv.claim } ∧
    s'.mem = s.mem := by
  refine ⟨_, rfl, ?_⟩
  exact foldl_answerLost _ _

/-! ### Reset and power -/

/-- Settles O51: a reset by what is left of memory, the power states by the branches of their steps, the loss of the owner by
the fields of dv.CLAIM. -/
theorem resetAndPower : Obligations.ResetAndPower := by
  intro s fresh
  refine ⟨?_, ⟨_, _, rfl, ⟨rfl, rfl, rfl, rfl, rfl, rfl, rfl, rfl, rfl, rfl, rfl, rfl, rfl⟩, rfl⟩, fun hboot => ?_,
    ?_, deepest_of_working, deepest_of_limit,
    fun hp => ?_, fun hp => ?_, ?_, fun d x hactor hx => ?_⟩
  · obtain ⟨s', hexec, hmem, hrest⟩ := execReset_eq s
    refine ⟨s', hexec, ?_, fun a ha => ?_, fun hm a hlow hrec => ?_⟩
    · rw [hrest]
      exact ⟨rfl, rfl, rfl, rfl, rfl, rfl, rfl, rfl, rfl, rfl, rfl, rfl, rfl⟩
    · rw [State.byte, hmem]
      exact sget_filter_cleared 0 (fun a => !s.clearedByReset a) (by rw [reset_cleared s ha]; rfl) _
    · obtain ⟨hwf, hbyte⟩ := cachesGone_byte s hm a
      have hkept : s'.byte a = s.cachesGone.byte a := by
        rw [State.byte, hmem]
        exact sget_filter_kept 0 (fun a => !s.clearedByReset a) (by rw [reset_kept s hlow hrec]; rfl) hwf
      rwa [hkept]
  · rw [exec_powerStateEntry, if_pos hboot]
  · intro p entered hboot
    rw [exec_powerStateEntry, if_neg (by simp [hboot])]
    exact ⟨fun h => by rw [if_neg (fun e => h.elim (· e.1) e.2)], fun h hnew => by rw [if_pos ⟨h, hnew⟩]; rfl⟩
  · exact congrArg _ (if_neg hp)
  · exact ⟨_, congrArg Host.Outcome.next (if_pos hp), rfl, rfl, rfl, rfl, rfl, rfl⟩
  · obtain ⟨s', hexec, hdv, hmem⟩ := exec_ownerLoss s
    obtain ⟨hok, hnk, hepoch⟩ := claimLost_fields s.dv.claim
    refine ⟨s', hexec, ?_⟩
    rw [hdv]
    exact ⟨hok, hnk, rfl, hmem, hepoch⟩
  · refine ⟨s.modDie d fun x => { x with trip := true }, ?_, ?_, rfl, fun u hu => ?_⟩
    · show execHardwareTrip s = _
      simp only [execHardwareTrip, hactor]
    · exact modDie_there hx (fun x => { x with trip := true }) fun _ h => h
    · exact (modDie_die s d u (fun x => { x with trip := true }) fun _ h => h).trans (if_neg hu)

end Sys2Proof.Machine
end

section
/-! SUPPORT. Messages of the host link (R454 to R465): what comes before the meaning of a message, and what each type does. -/
namespace Sys2Proof.Machine
open Sys2Proof Sys2Proof.Safety

/-! ### What comes before the meaning of a message -/

/-- The state in which a message is served: its tag is outstanding. -/
def State.taken (s : State) (m : Msg) : State := { s with tags := s.tags ++ [(m.master, m.tag)] }

section
variable {s : State} {m : Msg} (hactor : s.actor = .msg m) {i : Instr} {type : Nat} {bad : Msg → Bool} {serve : State → Msg → State}
include hactor

/-- A failed boot takes only reads and attestation. -/
theorem receive_bootfail (hboot : s.dv.bootfail = true) (h1 : type ≠ 1) (h5 : type ≠ 5) : s.receive i type bad serve = .next s := by
  simp only [State.receive, hactor]
  exact if_pos (.inr (.inr ⟨hboot, h1, h5⟩))

/-- A message with a wrong CRC is discarded. -/
theorem receive_broken (h : m.intact = false) : s.receive i type bad serve = .next s := by
  simp only [State.receive, hactor]
  exact if_pos (.inl (by simp [h]))

section
variable (hintact : m.intact = true) (htype : m.type = type) (hboot : s.dv.bootfail = false)
include hintact htype hboot

theorem receive_open : s.receive i type bad serve =
    if s.dv.pstate ≠ 0 then .next (s.push [.event .wake .none, .event i (.msg m)])
    else if s.tags.contains (m.master, m.tag) then .next (s.sendResp m.master m.tag stBadMsg [])
    else if bad m then .next ((s.taken m).respond m.master m.tag stBadMsg []) else .next (serve (s.taken m) m) := by
  unfold State.receive
  split
  · rename_i m' hm'
    obtain rfl : m = m' := Actor.msg.inj (hactor.symm.trans hm')
    refine if_neg ?_
    simp [hintact, htype, hboot]
  · rename_i hnone
    exact absurd hactor (hnone m)

theorem receive_wakes (hp : s.dv.pstate ≠ 0) :
    s.receive i type bad serve = .next { s with agenda := .event .wake .none :: .event i (.msg m) :: s.agenda } :=
  (receive_open hactor hintact htype hboot).trans (if_pos hp)

variable (hp : s.dv.pstate = 0)
include hp

theorem receive_outstanding (htag : s.tags.contains (m.master, m.tag) = true) :
    s.receive i type bad serve = .next (s.sendResp m.master m.tag stBadMsg []) :=
  (receive_open hactor hintact htype hboot).trans ((if_neg (not_not.mpr hp)).trans (if_pos htag))

variable (htag : s.tags.contains (m.master, m.tag) = false)
include htag

theorem receive_bad (hbad : bad m = true) :
    s.receive i type bad serve = .next ((s.taken m).respond m.master m.tag stBadMsg []) :=
  (receive_open hactor hintact htype hboot).trans
    ((if_neg (not_not.mpr hp)).trans ((if_neg (Bool.eq_false_iff.mp htag)).trans (if_pos hbad)))

theorem receive_serves (hbad : bad m = false) : s.receive i type bad serve = .next (serve (s.taken m) m) :=
  (receive_open hactor hintact htype hboot).trans
    ((if_neg (not_not.mpr hp)).trans ((if_neg (Bool.eq_false_iff.mp htag)).trans (if_neg (Bool.eq_false_iff.mp hbad))))

end
end

/-! ### Reads -/

/-- What a message reads at an address that is not uncorrectable. -/
def State.messageRead (s : State) (a : Nat) : Word :=
  match dvNum a with
  | some n => s.dvRead n
  | none => s.hbmWord a

theorem hostRead_good {s : State} {a : Nat} (h : dvNum a = none → s.isBad a = false) : s.hostRead a = (s, s.messageRead a) := by
  unfold State.hostRead State.messageRead
  cases ha : dvNum a with
  | some n => rfl
  | none => simp [h ha]

theorem hostReads_good {s : State} : ∀ as : List Nat, (∀ a ∈ as, dvNum a = none → s.isBad a = false) →
    s.hostReads as = (s, as.map s.messageRead)
  | [], _ => rfl
  | a :: as, h => by
    rw [State.hostReads, hostRead_good (h a List.mem_cons_self)]
    simp only [hostReads_good as fun b hb => h b (List.mem_cons_of_mem a hb), List.map_cons]

/-! ### Writes -/

/-- A message's write is performed, and the reads deferred on its word leave. -/
theorem hostWrite_performed {s : State} {a : Nat} (hm : Memory.wf s.mem = true) (v : Word) (hq : s.storeCause a ≠ Cause.eqarea) :
    (s.hostWrite a v).word a = v ∧ onlyBytes s (s.hostWrite a v) a 8 ∧ (s.hostWrite a v).present a = true ∧
      (s.hostWrite a v).agenda = s.agenda := by
  have hwrite : s.hostWrite a v = ((s.putWord a v).setPresent a).serve a v := if_neg hq
  obtain ⟨hmem, hpres, -⟩ := serve_leavesStore ((s.putWord a v).setPresent a) a v
  rw [hwrite]
  refine ⟨?_, fun b hb => ?_, ?_, ?_⟩
  · exact (word_of_mem (s := s.putWord a v) hmem a).trans (word_putWord s a v hm)
  · exact (byte_of_mem (s := s.putWord a v) hmem b).trans (putWord_onlyBytes s a v hm b hb)
  · rw [State.present, hpres]
    exact (setHas_setAdd s.presence a a).trans (by simp)
  · exact (foldl_keeps (R := fun s s' : State => s'.agenda = s.agenda) (fun _ => rfl) (fun h1 h2 => h2.trans h1)
      (fun s w => s.accReply w (.tok (dataTok (BitVec.ofNat 4 w.fmt) v))) (fun _ _ => rfl) _ ((s.putWord a v).setPresent a))

/-! ### Attestation -/

/-- The words of the messages in a list of outputs. -/
def respWords (ps : List OutItem) : List Word := ps.flatMap fun p => match p with
  | .msg _ _ ws _ => ws
  | _ => []

/-- One part of an answer of 31 words or less. -/
def partOf (m : Master) (p : OutItem) : Prop := ∃ header ws crc, p = .msg m header ws crc ∧ ws.length ≤ 31

/-- The parts of a report together are the report. -/
theorem sendReport_parts (m : Msg) : ∀ (n : Nat) (ws : List Word) (s : State), ws.length ≤ 31 * n + 31 →
    ∃ ps, (s.sendReport m n ws).mem = s.mem ∧ (s.sendReport m n ws).dv = s.dv ∧ (s.sendReport m n ws).out = s.out ++ ps ∧
      (∀ p ∈ ps, partOf m.master p) ∧ respWords ps = ws := by
  intro n
  induction n with
  | zero =>
    intro ws s hlen
    have htake : ws.take 31 = ws := List.take_of_length_le (by omega)
    refine ⟨_, rfl, rfl, rfl, ?_, ?_⟩
    · simp only [List.mem_singleton, forall_eq]
      exact ⟨_, _, _, rfl, by simp⟩
    · simp [respWords, htake]
  | succ n ih =>
    intro ws s hlen
    by_cases hshort : ws.length ≤ 31
    · rw [State.sendReport, if_pos hshort]
      refine ⟨_, rfl, rfl, rfl, ?_, by simp [respWords]⟩
      simp only [List.mem_singleton, forall_eq]
      exact ⟨_, _, _, rfl, hshort⟩
    · rw [State.sendReport, if_neg hshort]
      obtain ⟨ps, hmem, hdv, hout, hparts, hwords⟩ := ih (ws.drop 31)
        (s.sendResp m.master m.tag (Config.respStatus s.freeCount) (ws.take 31)).tick (by rw [List.length_drop]; omega)
      refine ⟨_ :: ps, hmem, hdv, hout.trans (List.append_assoc ..), ?_, ?_⟩
      · rw [List.forall_mem_cons]
        exact ⟨⟨_, _, _, rfl, by simp⟩, hparts⟩
      · rw [respWords, List.flatMap_cons]
        exact (congrArg (ws.take 31 ++ ·) hwords).trans (List.take_append_drop 31 ws)

/-! ### The rows of the link -/

/-- What RD does once it is taken. -/
def serveRd (s : State) (m : Msg) : State :=
  let as := m.words (fld (m.word 0) 0 5)
  let broken := as.any fun a => (dvNum a).isNone && s.isBad a
  let (s1, ws) := s.hostReads as
  let s2 := s1.respond m.master m.tag (if broken then Config.respStatus s.freeCount else 0) ws
  s2.push (readTurns (s.ownedBy m.master) as)

/-- What WR does once it is taken. -/
def serveWr (s : State) (m : Msg) : State :=
  let ws := m.writes
  let regs := ws.filterMap fun x => (dvNum x.1).map fun n => (n, x.2)
  let mems := ws.filter fun x => (dvNum x.1).isNone
  if !s.ownedBy m.master then s.respond m.master m.tag stNotOwner []
  else if regs.any fun x => dvReadonly x.1 then s.respond m.master m.tag stReadOnly []
  else
    let s1 := mems.foldl (fun s x => s.hostWrite x.1 x.2) s
    if mems.any fun x => s.storeCause x.1 = Cause.eqarea then
      (s1.respond m.master m.tag (Config.respStatus s.freeCount) []).tick
    else s1.push (regs.filterMap (fun x => writeTurn x.1 x.2) ++ [.event .hostWr (.done m.master m.tag)] ++
      if regs.any fun x => x.1 = 25 ∧ bitAt x.2 31 then [Turn.event .reset .none] else [])

/-- What CAS does once it is taken. -/
def serveCas (s : State) (m : Msg) : State :=
  if m.addr ≠ dvBase then s.respond m.master m.tag (if s.ownedBy m.master then stBadMsg else stNotOwner) []
  else (if claimAllows m.master s.dv.claim (m.word 0) (m.word 1) then
      { s with dv := { s.dv with claim := claimAfter s.dv.claim (m.word 1) } }
    else s).respond m.master m.tag 0 [s.dv.claim]

/-- What TKEN does once it is taken. -/
def serveTken (s : State) (m : Msg) : State :=
  if !s.ownedBy m.master then s.respond m.master m.tag stNotOwner []
  else s.sendAdm
    { id := 0, op := .tken, who := .host m.master m.tag, handle := fld m.header 0 32, k := 0, payload := 0, va := 0, due := 0,
      back := 0, queued := false } (handleDie (fld m.header 0 32)) (handleDie (fld m.header 0 32))

/-- The request of a TKEN message as it enters its queue. -/
def State.tkenRequest (s : State) (m : Msg) : AdmReq :=
  { id := s.nextId, op := .tken, who := .host m.master m.tag, handle := fld m.header 0 32, k := 0, payload := 0, va := 0,
    due := s.clock + 20 + s.waitNow, back := 0, queued := false }

/-- What ATTEST does once it is taken. -/
def serveAttest (s : State) (m : Msg) : State := s.sendReport m ((s.report m.data).length / 31) (s.report m.data)

theorem exec_hostRd (s : State) : exec .hostRd s = s.receive .hostRd 1 rdBad serveRd := rfl
theorem exec_hostCas (s : State) : exec .hostCas s = s.receive .hostCas 3 casBad serveCas := rfl
theorem exec_hostTken (s : State) : exec .hostTken s = s.receive .hostTken 4 (fun m => m.len != 0) serveTken := rfl
theorem exec_attest (s : State) :
    exec .attest s = s.receive .attest 5 (fun m => m.len != 4 || !addrsOk [m.addr]) serveAttest := rfl

theorem exec_hostWr {s : State} {m : Msg} (hactor : s.actor = .msg m) :
    exec .hostWr s = s.receive .hostWr 2 wrBad serveWr := by
  show execHostWr s = _
  simp only [execHostWr, hactor]
  rfl

/-- The write of a message of one word. -/
theorem writes_one {m : Msg} {v : Word} (hlen : m.len = 1) (hdata : m.data = [v]) : m.writes = [(m.addr, v)] := by
  simp [Msg.writes, Msg.words, hlen, hdata]

section
variable {s : State} {m : Msg} (hactor : s.actor = .msg m) (hintact : m.intact = true) (hboot : s.dv.bootfail = false)
  (hp : s.dv.pstate = 0) (htag : s.tags.contains (m.master, m.tag) = false)
include hactor hintact hboot hp htag

theorem exec_hostRd_good (htype : m.type = 1) (hok : rdBad m = false)
    (hgood : ∀ a ∈ m.words (fld (m.word 0) 0 5), dvNum a = none → s.isBad a = false) :
    exec .hostRd s = .next ((((s.taken m).respond m.master m.tag 0
      ((m.words (fld (m.word 0) 0 5)).map (s.taken m).messageRead)).push
        (readTurns (s.ownedBy m.master) (m.words (fld (m.word 0) 0 5))))) := by
  have hbroken : ((m.words (fld (m.word 0) 0 5)).any fun a => (dvNum a).isNone && (s.taken m).isBad a) = false := by
    simp only [List.any_eq_false, Bool.and_eq_true, Option.isNone_iff_eq_none, not_and]
    exact fun a ha hn => by rw [show (s.taken m).isBad a = s.isBad a from rfl, hgood a ha hn]; simp
  refine (exec_hostRd s).trans ((receive_serves hactor hintact htype hboot hp htag hok).trans ?_)
  simp only [serveRd, hostReads_good (s := s.taken m) _ hgood, hbroken]
  rfl

section
variable (htype : m.type = 2) (hok : wrBad m = false)
include htype hok

theorem exec_hostWr_notOwner (hown : s.ownedBy m.master = false) :
    exec .hostWr s = .next ((s.taken m).respond m.master m.tag stNotOwner []) := by
  refine (exec_hostWr hactor).trans ((receive_serves hactor hintact htype hboot hp htag hok).trans (congrArg _ (if_pos ?_)))
  rw [show (s.taken m).ownedBy m.master = s.ownedBy m.master from rfl, hown]
  rfl

variable (hown : s.ownedBy m.master = true) {v : Word} (hlen : m.len = 1) (hdata : m.data = [v])
include hown hlen hdata

/-- A message of the owner that writes one word. -/
theorem exec_hostWr_one : exec .hostWr s = .next (
    match dvNum m.addr with
    | some n => if dvReadonly n = true then (s.taken m).respond m.master m.tag stReadOnly []
      else (s.taken m).push ((writeTurn n v).toList ++ [.event .hostWr (.done m.master m.tag)] ++
        if n = 25 ∧ bitAt v 31 then [Turn.event .reset .none] else [])
    | none => if s.storeCause m.addr = Cause.eqarea then
        (((s.taken m).hostWrite m.addr v).respond m.master m.tag (Config.respStatus s.freeCount) []).tick
      else ((s.taken m).hostWrite m.addr v).push [.event .hostWr (.done m.master m.tag)]) := by
  refine (exec_hostWr hactor).trans ((receive_serves hactor hintact htype hboot hp htag hok).trans (congrArg _ ?_))
  have hown' : (s.taken m).ownedBy m.master = true := hown
  have hcause : (s.taken m).storeCause m.addr = s.storeCause m.addr := rfl
  rw [serveWr, writes_one hlen hdata, hown']
  cases hn : dvNum m.addr with
  | some n =>
    cases hw : writeTurn n v <;> simp [hn, hw]
  | none =>
    simp [hn, hcause]
    rfl

end

section
variable (htype : m.type = 3)
include htype

theorem exec_hostCas_elsewhere (hok : casBad m = false) (haddr : m.addr ≠ dvBase) : exec .hostCas s =
    .next ((s.taken m).respond m.master m.tag (if s.ownedBy m.master then stBadMsg else stNotOwner) []) :=
  (exec_hostCas s).trans ((receive_serves hactor hintact htype hboot hp htag hok).trans (congrArg _ (if_pos haddr)))

theorem exec_hostCas_claim (hok : casBad m = false) (haddr : m.addr = dvBase) : exec .hostCas s =
    .next ((if claimAllows m.master s.dv.claim (m.word 0) (m.word 1) = true then
      { s.taken m with dv := { s.dv with claim := claimAfter s.dv.claim (m.word 1) } } else s.taken m).respond
        m.master m.tag 0 [s.dv.claim]) :=
  (exec_hostCas s).trans ((receive_serves hactor hintact htype hboot hp htag hok).trans (congrArg _ (if_neg (not_not.mpr haddr))))

end

section
variable (htype : m.type = 4) (hlen : m.len = 0)
include htype hlen

theorem exec_hostTken_notOwner (hown : s.ownedBy m.master = false) :
    exec .hostTken s = .next ((s.taken m).respond m.master m.tag stNotOwner []) := by
  refine (exec_hostTken s).trans ((receive_serves (bad := fun m => m.len != 0) hactor hintact htype hboot hp htag
    (bne_eq_false_iff_eq.mpr hlen)).trans
    (congrArg _ (if_pos ?_)))
  rw [show (s.taken m).ownedBy m.master = s.ownedBy m.master from rfl, hown]
  rfl

/-- A request of the owner enters the admission queue of the record's home die. -/
theorem exec_hostTken_queued (hown : s.ownedBy m.master = true) {x : Die}
    (hx : s.die? (handleDie (fld m.header 0 32)) = some x) : ∃ s' q, exec .hostTken s = .next s' ∧
      s'.die? (handleDie (fld m.header 0 32)) = some { x with adm := x.adm ++ [q] } ∧ q.op = .tken ∧
      q.handle = fld m.header 0 32 ∧ q.who = .host m.master m.tag ∧ s'.mem = s.mem := by
  have hown' : ¬ (!(s.taken m).ownedBy m.master) = true := by
    rw [show (s.taken m).ownedBy m.master = s.ownedBy m.master from rfl, hown]
    simp
  refine ⟨_, s.tkenRequest m, (exec_hostTken s).trans ((receive_serves (bad := fun m => m.len != 0) hactor hintact htype hboot hp htag
    (bne_eq_false_iff_eq.mpr hlen)).trans (congrArg _ (if_neg hown'))), modDie_there (s := s.taken m) hx (fun d => { d with adm := d.adm ++ [s.tkenRequest m] })
    fun _ h => h, rfl, rfl, rfl, rfl⟩

end

section
variable (htype : m.type = 5)
include htype

theorem exec_attest_bad (h : m.len ≠ 4 ∨ addrsOk [m.addr] = false) :
    exec .attest s = .next ((s.taken m).respond m.master m.tag stBadMsg []) := by
  refine (exec_attest s).trans (receive_bad hactor hintact htype hboot hp htag ?_)
  simpa using h

theorem exec_attest_report (hlen : m.len = 4) (haddr : addrsOk [m.addr] = true) :
    exec .attest s = .next ((s.taken m).sendReport m ((s.report m.data).length / 31) (s.report m.data)) :=
  (exec_attest s).trans (receive_serves hactor hintact htype hboot hp htag (by simp [hlen, haddr]))

end

end

/-! ### Messages of the host link -/

/-- The fields of the claim after a compare and swap. -/
theorem claimAfter_fields (c v : Word) : fld (claimAfter c v) 34 30 = fld v 34 30 ∧
    fld (claimAfter c v) 0 32 = (fld c 0 32 + if okind c ≠ okind v ∨ opkg c ≠ opkg v then 1 else 0) % 2 ^ 32 := by
  have hhigh : fld v 34 30 < 2 ^ 30 := Nat.mod_lt _ (by norm_num)
  have hmoved : boolN (decide (okind c ≠ okind v ∨ opkg c ≠ opkg v)) = if okind c ≠ okind v ∨ opkg c ≠ opkg v then 1 else 0 := by
    split <;> simp_all [boolN]
  simp only [claimAfter, hmoved]
  generalize (if okind c ≠ okind v ∨ opkg c ≠ opkg v then 1 else 0) = e
  generalize fld v 34 30 = h at hhigh
  have hw : h * 2 ^ 34 + (fld c 0 32 + e) % 2 ^ 32 < 2 ^ 64 := by omega
  simp only [fld_ofNat_of_lt hw]
  omega

/-- Settles O48, message by message: what comes before the meaning of a message, then RD, WR, CAS, TKEN and ATTEST. -/
theorem hostMessages : Obligations.HostMessages := by
  intro s m hactor hm
  have hrd := exec_hostRd s
  have hwr := exec_hostWr hactor
  have hcas := exec_hostCas s
  have htken := exec_hostTken s
  have hattest := exec_attest s
  refine ⟨fun hboot => ?_, fun hboot hp hintact => ?_, fun hboot hp => ?_⟩
  · rw [hwr, hcas, htken]
    exact ⟨receive_bootfail hactor hboot (by decide) (by decide), receive_bootfail hactor hboot (by decide) (by decide),
      receive_bootfail hactor hboot (by decide) (by decide)⟩
  · simp only [hrd, hwr, hcas, htken, hattest]
    exact ⟨fun ht => receive_wakes hactor hintact ht hboot hp, fun ht => receive_wakes hactor hintact ht hboot hp,
      fun ht => receive_wakes hactor hintact ht hboot hp, fun ht => receive_wakes hactor hintact ht hboot hp,
      fun ht => receive_wakes hactor hintact ht hboot hp⟩
  intro taken fresh
  refine ⟨fun hb => ?_, fun hintact htag => ?_, ?_, ?_, ?_, ?_, ?_, ?_, ?_, ?_⟩
  · rw [hrd, hwr, hcas, htken, hattest]
    exact ⟨receive_broken hactor hb, receive_broken hactor hb, receive_broken hactor hb, receive_broken hactor hb,
      receive_broken hactor hb⟩
  · rw [hrd, hwr, hcas, htken, hattest]
    exact ⟨fun ht => receive_outstanding hactor hintact ht hboot hp htag,
      fun ht => receive_outstanding hactor hintact ht hboot hp htag,
      fun ht => receive_outstanding hactor hintact ht hboot hp htag,
      fun ht => receive_outstanding hactor hintact ht hboot hp htag,
      fun ht => receive_outstanding hactor hintact ht hboot hp htag⟩
  · rintro ⟨hintact, htag⟩ ht hok hgood
    exact ⟨_, exec_hostRd_good hactor hintact hboot hp htag ht hok hgood, rfl⟩
  · rintro ⟨hintact, htag⟩ ht hok
    refine ⟨exec_hostWr_notOwner hactor hintact hboot hp htag ht hok, fun v hown hlen hdata hmem hq => ?_,
      fun v n hown hlen hdata hreg hro => ?_, fun v hown hlen hdata hreg => ?_⟩
    · have hexec := exec_hostWr_one hactor hintact hboot hp htag ht hok hown hlen hdata
      obtain ⟨hword, honly, hpres, hagenda⟩ := hostWrite_performed (s := s.taken m) hm v hq
      simp only [hmem, if_neg hq] at hexec
      exact ⟨_, hexec, hword, honly, hpres, congrArg (_ :: ·) hagenda⟩
    · have hexec := exec_hostWr_one hactor hintact hboot hp htag ht hok hown hlen hdata
      simp only [hreg, if_pos hro] at hexec
      exact hexec
    · have hexec := exec_hostWr_one hactor hintact hboot hp htag ht hok hown hlen hdata
      simp only [hreg] at hexec
      exact hexec
  · rintro ⟨hintact, htag⟩ ht hok haddr
    exact exec_hostCas_elsewhere hactor hintact hboot hp htag ht hok haddr
  · rintro ⟨hintact, htag⟩ ht hbad
    exact hcas.trans (receive_bad hactor hintact ht hboot hp htag hbad)
  · rintro ⟨hintact, htag⟩ ht hok haddr
    refine ⟨_, exec_hostCas_claim hactor hintact hboot hp htag ht hok haddr, ?_⟩
    by_cases hallow : claimAllows m.master s.dv.claim (m.word 0) (m.word 1) = true
    · rw [if_pos hallow]
      exact ⟨rfl, rfl, fun h => absurd hallow (by simp [h]), fun _ => claimAfter_fields s.dv.claim (m.word 1)⟩
    · rw [if_neg hallow]
      exact ⟨rfl, rfl, fun _ => rfl, fun h => absurd h hallow⟩
  · rintro ⟨hintact, htag⟩ ht hlen
    exact ⟨exec_hostTken_notOwner hactor hintact hboot hp htag ht hlen,
      fun _ hown hx => exec_hostTken_queued hactor hintact hboot hp htag ht hlen hown hx⟩
  · rintro ⟨hintact, htag⟩ ht hlen haddr
    obtain ⟨ps, hmem, hdv, hout, hparts, hwords⟩ := sendReport_parts m ((s.report m.data).length / 31) (s.report m.data)
      (s.taken m) (by omega)
    exact ⟨_, ps, exec_attest_report hactor hintact hboot hp htag ht hlen haddr, hmem, hdv, hout, hparts, hwords⟩
  · rintro ⟨hintact, htag⟩ ht hbad
    exact exec_attest_bad hactor hintact hboot hp htag ht hbad

end Sys2Proof.Machine
end

section
/-! SUPPORT. Pre-emption of a fabric load and quarantine (R340, R427, R431 to R435, R440, R443, R450): records apart from one
another, tasks that end or are saved, and the obligation about them. -/
namespace Sys2Proof.Machine
open Sys2Proof Sys2Proof.Safety

/-! ### Records apart from one another -/

/-- Records stand at multiples of 128 bytes. -/
theorem recAddr_aligned {s : State} {h a : Nat} (ha : s.recAddr h = some a) : a % 128 = 0 := by
  unfold State.recAddr at ha
  dsimp only at ha
  split at ha
  · exact absurd ha nofun
  split at ha
  · obtain rfl := Option.some.inj ha
    unfold syeBase
    omega
  split at ha
  · obtain rfl := Option.some.inj ha
    unfold State.ovfBase
    omega
  · exact absurd ha nofun

section
variable {s s' : State} {h a b : Nat} {r : RecView}

/-- A record is as it was when only the bytes of another change. -/
theorem RecAt.elsewhere (hr : RecAt s h b r) (honly : onlyBytes s s' a 128) (hdv : s'.dv = s.dv)
    (hwf : Memory.wf s'.mem = true) (ha : a % 128 = 0) (hne : b ≠ a) : RecAt s' h b r := by
  have hb := recAddr_aligned hr.addr
  have haddr : s'.recAddr h = some b := (recAddr_of_dv hdv h).trans hr.addr
  have hfield : ∀ off lo n, off + 8 ≤ 128 → s'.recField h off lo n = s.recField h off lo n := fun off lo n hoff => by
    rw [recField_eq haddr, recField_eq hr.addr, word_of_onlyBytes honly (by omega)]
  refine ⟨haddr, hwf, Eq.trans ?_ hr.view⟩
  simp (disch := decide) only [State.view, State.trState, State.trErr, State.trDep, State.trPend, State.trCount, State.trPrio,
    State.trSucc, hfield]

theorem onlyBytes_wider {n m k : Nat} (h : onlyBytes s s' (a + k) n) (hk : k + n ≤ m) : onlyBytes s s' a m :=
  fun b hb => h b (by omega)

theorem onlyBytes_trans {s'' : State} {n : Nat} (h1 : onlyBytes s s' a n) (h2 : onlyBytes s' s'' a n) : onlyBytes s s'' a n :=
  fun b hb => (h2 b hb).trans (h1 b hb)

theorem setRecField_inRecord (ha : s.recAddr h = some a) (hm : Memory.wf s.mem = true) {off : Nat} (hoff : off + 8 ≤ 128)
    (lo n v : Nat) : onlyBytes s (s.setRecField h off lo n v) a 128 :=
  onlyBytes_wider (setRecField_onlyBytes ha hm off lo n v) hoff

theorem addErr_dv (c : Nat) : (s.addErr h c).dv = s.dv ∧ (s.addErr h c).dies = s.dies := by
  unfold State.addErr
  split
  · obtain ⟨m, hm⟩ := setRecField_rest s h 0x00 48 16 c
    rw [State.setErr, hm]
    exact ⟨rfl, rfl⟩
  · exact ⟨rfl, rfl⟩

theorem finishRec_inRecord (hr : RecAt s h a r) (ab : Bool) : onlyBytes s (s.finishRec h ab) a 128 := by
  have h1 := hr.setTrState (if ab then 7 else 5)
  have h2 := h1.setPend 0
  have honly := onlyBytes_trans (setRecField_inRecord hr.addr hr.wf (off := 0x00) (by decide) 44 4 (if ab then 7 else 5))
    (onlyBytes_trans (setRecField_inRecord h1.addr h1.wf (off := 0x08) (by decide) 0 32 0)
      (setRecField_inRecord h2.addr h2.wf (off := 0x70) (by decide) 0 64 (0 : Word).toNat))
  refine onlyBytes_of_mem rfl ?_ honly
  rw [finishRec_eq]
  split
  · rfl
  · obtain ⟨ds, n, c, hdecs⟩ := sendDecs_rest _ h (if ab then Cause.predAbandoned else 0)
    rw [hdecs]
    rfl

/-- A task that is abandoned changes no other record. -/
theorem abandonRec_elsewhere {t : Nat} {r' : RecView} (hr : RecAt s t a r') (hu : RecAt s h b r) (hne : b ≠ a) (c : Nat) :
    RecAt (s.abandonRec t c) h b r := by
  have herr := hr.addErr c
  have honly := onlyBytes_trans (onlyBytes_wider (k := 0) (addErr_onlyBytes hr.addr hr.wf c) (by decide))
    (finishRec_inRecord herr true)
  obtain ⟨m, ds, n, x, hrest⟩ := finishRec_rest (s.addErr t c) t true
  refine hu.elsewhere honly ?_ (herr.finishRec true).wf (recAddr_aligned hr.addr) hne
  rw [State.abandonRec, hrest]
  exact (addErr_dv c).1

theorem setTrState_elsewhere {t : Nat} {r' : RecView} (hr : RecAt s t a r') (hu : RecAt s h b r) (hne : b ≠ a) (v : Nat) :
    RecAt (s.setTrState t v) h b r := by
  obtain ⟨m, hm⟩ := setRecField_rest s t 0x00 44 4 v
  refine hu.elsewhere (setRecField_inRecord hr.addr hr.wf (by decide) 44 4 v) ?_ (hr.setTrState v).wf
    (recAddr_aligned hr.addr) hne
  rw [State.setTrState, hm]

/-- No vote opens when a task is abandoned. -/
theorem abandonRec_vote {t u : Nat} (hv : s.vote? u = none) (c : Nat) : (s.abandonRec t c).vote? u = none := by
  obtain ⟨m, ds, n, x, hrest⟩ := finishRec_rest (s.addErr t c) t true
  have hvote : (s.abandonRec t c).vote? u = ((s.addErr t c).modDie (handleDie t) (Die.lets t)).vote? u := by
    rw [State.abandonRec, hrest]
    rfl
  have hdie : (s.addErr t c).die? (handleDie u) = s.die? (handleDie u) := by rw [State.die?, (addErr_dv c).2, State.die?]
  rw [hvote, State.vote?, modDie_die _ _ _ (Die.lets t) fun _ hx => hx, hdie]
  rw [State.vote?] at hv
  cases hx : s.die? (handleDie u) with
  | none => split <;> rfl
  | some d =>
    have hnone : (d.votes.find? fun v => decide (v.handle = u)) = none := by simpa [hx] using hv
    split
    · refine List.find?_eq_none.mpr fun v hmem => ?_
      exact List.find?_eq_none.mp hnone v (List.mem_filter.mp hmem).1
    · exact hnone

end

/-! ### A step at each of several records -/

/-- What a step at a task's record does: it changes the view of that record, and no other record. -/
structure RecStep (P : State → Nat → Prop) (op : State → Nat → State) (g : RecView → RecView) : Prop where
  here : ∀ {s h a r}, P s h → RecAt s h a r → RecAt (op s h) h a (g r)
  other : ∀ {s h a r t b r'}, P s t → RecAt s t b r' → RecAt s h a r → a ≠ b → RecAt (op s t) h a r
  keeps : ∀ {s t u}, P s t → P s u → P (op s t) u

/-- Steps at records that are apart change each once, and no other record. -/
theorem RecStep.foldl {P : State → Nat → Prop} {op : State → Nat → State} {g : RecView → RecView} (hop : RecStep P op g)
    (adr : Nat → Nat) (vw : Nat → RecView) : ∀ (hs : List Nat) (s : State), (∀ h ∈ hs, P s h) →
      (∀ h ∈ hs, RecAt s h (adr h) (vw h)) → hs.Pairwise (fun h k => adr h ≠ adr k) →
      (∀ h ∈ hs, RecAt (hs.foldl op s) h (adr h) (g (vw h))) ∧
        ∀ h a r, RecAt s h a r → (∀ k ∈ hs, a ≠ adr k) → RecAt (hs.foldl op s) h a r
  | [], _, _, _, _ => ⟨fun _ h => absurd h List.not_mem_nil, fun _ _ _ h _ => h⟩
  | t :: hs, s, hP, hrec, hpair => by
    obtain ⟨hapart, hpairs⟩ := List.pairwise_cons.mp hpair
    have hPt := hP t List.mem_cons_self
    have hrt := hrec t List.mem_cons_self
    obtain ⟨hall, hrest⟩ := hop.foldl adr vw hs (op s t) (fun h hh => hop.keeps hPt (hP h (List.mem_cons_of_mem t hh)))
      (fun h hh => hop.other hPt hrt (hrec h (List.mem_cons_of_mem t hh)) (hapart h hh).symm) hpairs
    refine ⟨fun h hh => ?_, fun h a r hr hne => ?_⟩
    · rcases List.mem_cons.mp hh with rfl | hmem
      · exact hrest h _ _ (hop.here hPt hrt) hapart
      · exact hall h hmem
    · exact hrest h a r (hop.other hPt hrt hr (hne t List.mem_cons_self)) fun k hk => hne k (List.mem_cons_of_mem t hk)

/-- The records of a list of tasks stand, apart from one another. -/
def State.recordsApart (s : State) (ts : List SlotX) : Prop :=
  ts.Pairwise (fun t u => ∀ a b, s.recAddr t.handle = some a → s.recAddr u.handle = some b → a ≠ b) ∧
    ∀ t ∈ ts, s.recAddr t.handle ≠ none

/-- Where a record stands. -/
def State.place (s : State) (h : Nat) : Nat := (s.recAddr h).getD 0

section
variable {s : State} {ts : List SlotX} (hapart : s.recordsApart ts) (hm : Memory.wf s.mem = true)
include hapart

theorem recordsApart_addr {t : SlotX} (ht : t ∈ ts) : s.recAddr t.handle = some (s.place t.handle) := by
  cases ha : s.recAddr t.handle with
  | none => exact absurd ha (hapart.2 t ht)
  | some a => rw [State.place, ha]; rfl

theorem recordsApart_places : (ts.map (·.handle)).Pairwise fun h k => s.place h ≠ s.place k :=
  List.pairwise_map.mpr (hapart.1.imp_of_mem fun ht hu h =>
    h _ _ (recordsApart_addr hapart ht) (recordsApart_addr hapart hu))

/-- Tasks with different handles have different records. -/
theorem recordsApart_ne {t u : SlotX} (ht : t ∈ ts) (hu : u ∈ ts) (hne : t.handle ≠ u.handle) :
    s.place t.handle ≠ s.place u.handle :=
  have : Std.Symm fun h k => s.place h ≠ s.place k := ⟨fun _ _ h => h.symm⟩
  (recordsApart_places hapart).forall (List.mem_map_of_mem ht) (List.mem_map_of_mem hu) hne

include hm

/-- Steps at the records of tasks that are apart change each once, and no other record. -/
theorem RecStep.tasks {P : State → Nat → Prop} {op : State → Nat → State} {g : RecView → RecView} (hop : RecStep P op g)
    (hP : ∀ t ∈ ts, P s t.handle) :
    (∀ t ∈ ts, RecAt (ts.foldl (fun s t => op s t.handle) s) t.handle (s.place t.handle) (g (s.view t.handle))) ∧
      ∀ h a r, RecAt s h a r → (∀ t ∈ ts, a ≠ s.place t.handle) → RecAt (ts.foldl (fun s t => op s t.handle) s) h a r := by
  have hfold : (ts.map (·.handle)).foldl op s = ts.foldl (fun s t => op s t.handle) s := List.foldl_map
  obtain ⟨hall, hrest⟩ := hop.foldl s.place s.view (ts.map (·.handle)) s (List.forall_mem_map.mpr hP)
    (List.forall_mem_map.mpr fun t ht => ⟨recordsApart_addr hapart ht, hm, rfl⟩) (recordsApart_places hapart)
  rw [hfold] at hall hrest
  exact ⟨fun t ht => hall _ (List.mem_map_of_mem ht), fun h a r hr hne => hrest h a r hr (List.forall_mem_map.mpr hne)⟩

end

/-! ### Tasks that are killed, and tasks that are saved -/

/-- The view of a record that is abandoned. -/
def RecView.abandoned (c : Nat) (r : RecView) : RecView :=
  { r with st := 7, err := if r.err = 0 then c % 2 ^ 16 else r.err, pend := 0 }

theorem abandon_recStep (c : Nat) :
    RecStep (fun s h => s.vote? h = none) (fun s h => s.abandonRec h c) (RecView.abandoned c) where
  here _ hr := hr.abandonRec c
  other _ hr hu hne := abandonRec_elsewhere hr hu hne c
  keeps _ hu := abandonRec_vote hu c

theorem save_recStep : RecStep (fun _ _ => True) (fun s h => s.setTrState h 4) (fun r => { r with st := 4 }) where
  here _ hr := hr.setTrState 4
  other _ hr hu hne := setTrState_elsewhere hr hu hne 4
  keeps _ _ := trivial

/-- A killed task without a vote is abandoned, and votes stay absent. -/
theorem foldl_killTask (c : Nat) : ∀ (ts : List SlotX) (s : State), (∀ t ∈ ts, s.vote? t.handle = none) →
    ts.foldl (fun s t => s.killTask c t) s = ts.foldl (fun s t => s.abandonRec t.handle c) s
  | [], _, _ => rfl
  | t :: ts, s, hv => by
    have hkill : s.killTask c t = s.abandonRec t.handle c := by
      simp only [State.killTask, hv t List.mem_cons_self]
    rw [List.foldl_cons, List.foldl_cons, hkill]
    exact foldl_killTask c ts _ fun u hu => abandonRec_vote (hv u (List.mem_cons_of_mem t hu)) c

/-- The tasks of a fabric load that is killed end ABANDONED with the cause. -/
theorem killLoad_tasks {s : State} {l : LoadRef} {x : Load} (hx : s.load? l = some x) (hm : Memory.wf s.mem = true) {c : Nat}
    (hapart : s.recordsApart (x.slots.filterMap id)) (hv : ∀ t ∈ x.slots.filterMap id, s.vote? t.handle = none)
    (hc : c < 2 ^ 16) {t : SlotX} (ht : t ∈ x.slots.filterMap id) : (s.killLoad l c).trState t.handle = 7 ∧
      (s.killLoad l c).trErr t.handle = if s.trErr t.handle = 0 then c else s.trErr t.handle := by
  obtain ⟨hall, -⟩ := RecStep.tasks hapart hm (abandon_recStep c) hv
  have hend : RecAt (s.killLoad l c) t.handle (s.place t.handle) ((s.view t.handle).abandoned c) := by
    refine (hall t ht).same ?_ ?_ <;> simp only [State.killLoad, hx, foldl_killTask c _ s hv] <;> rfl
  have herr := congrArg RecView.err hend.view
  refine ⟨congrArg RecView.st hend.view, herr.trans ?_⟩
  show (if s.trErr t.handle = 0 then c % 2 ^ 16 else s.trErr t.handle) = _
  rw [Nat.mod_eq_of_lt hc]

/-! ### A request to stop -/

/-- Every element of a fabric load stops, and no other. -/
theorem beginDrain_elem {s : State} {l : LoadRef} {d : Disp} {reason : Nat} :
    (∀ e ∈ (s.beginDrain l d reason).elems, e.ref.load = l → e.stopped = true) ∧
      ∀ r : ElemRef, r.load ≠ l → (s.beginDrain l d reason).elem? r = s.elem? r := by
  refine ⟨fun e he hl => ?_, fun r hr => ?_⟩
  · obtain ⟨e', -, rfl⟩ := List.mem_map.mp he
    by_cases h : e'.ref.load = l
    · rw [if_pos h]
    · rw [if_neg h] at hl
      exact absurd hl h
  · have hkeep : ((fun e : Elem => decide (e.ref = r)) ∘ fun e : Elem => if e.ref.load = l then { e with stopped := true } else e)
        = fun e : Elem => decide (e.ref = r) := by
      funext e
      simp only [Function.comp_apply]
      split <;> rfl
    refine (List.find?_map ..).trans ?_
    rw [hkeep]
    show (s.elem? r).map _ = s.elem? r
    cases he : s.elem? r with
    | none => rfl
    | some e =>
      have href : e.ref = r := by simpa using List.find?_some (p := fun e : Elem => decide (e.ref = r)) he
      exact congrArg some (if_neg (href ▸ hr))

/-- A request for a resident fabric load with a frame owner begins its drain. -/
theorem requestStop_begins {s : State} {l : LoadRef} {x : Load} {o : SlotX} (hx : s.load? l = some x)
    (howner : x.owner = some o) (hphase : x.phase = .resident) (d : Disp) (reason : Nat) :
    s.requestStop l d reason = s.beginDrain l d reason := by
  simp only [State.requestStop, hx, hphase, howner]
  exact if_neg fun h => by simp at h

/-! ### The end of a drain -/

section
variable {s : State} {l : LoadRef} {x : Load} {d : Disp} (hactor : s.actor = .load l) (hx : s.load? l = some x)
  (hphase : x.phase = .draining) (hdisp : x.disp = some d) (hnone : s.cancelDeferred l = s) (hdrained : s.loadDrained l = true)
  (hcomp : s.completing x = false) (helems : ∀ e ∈ s.elems, e.ref.load = l → e.drained = true)
include hactor hx hphase hdisp hnone hdrained hcomp helems

/-- What the end of a drain does when nothing is outstanding. -/
theorem exec_preemptDrainEnd : exec .preemptDrainEnd s = .next (
    match x.owner with
    | some o => if d.level = 3 then s.killLoad l d.cause
      else (((s.markStanding l).modLoad l fun x => { x with phase := .saving, phaseAt := s.clock }).writeImage x o.frame).trapLoad
        l (.preempt l) Cause.preempt x.reason o.frame
    | none => if d.level = 3 then s.killLoad l d.cause else s.saveNoframe x) := by
  have hall : (s.elems.all fun e => e.ref.load != l || e.drained) = true := by
    refine List.all_eq_true.mpr fun e he => ?_
    by_cases hl : e.ref.load = l
    · rw [helems e he hl, Bool.or_true]
    · rw [bne_iff_ne.mpr hl, Bool.true_or]
  show execPreemptDrainEnd s = _
  simp only [execPreemptDrainEnd, hactor, hx, hphase, hnone, hdrained, hcomp, hall, hdisp]
  cases x.owner with
  | none => simp
  | some o => simp [apply_ite Host.Outcome.next]

end

/-- Memory and its errors may change, and nothing else. -/
theorem writeImage_writesMem (s : State) (x : Load) (frame : Nat) : writesMem s (s.writeImage x frame) := by
  refine writesMem.trans (b := s.writeHeader x) ?_ (foldl_keeps writesMem.refl writesMem.trans _
    (fun s n => putWords_writesMem _ s _) _ _)
  unfold State.writeHeader
  split
  · exact putWords_writesMem _ s _
  · exact .refl s

/-- A trap stands in the list that it is added to, with those that stood there. -/
theorem mem_addPend (p : PTrap) : ∀ qs : List PTrap, p ∈ addPend p qs ∧ ∀ q ∈ qs, q ∈ addPend p qs
  | [] => ⟨List.mem_cons_self, fun _ h => absurd h List.not_mem_nil⟩
  | q :: qs => by
    obtain ⟨hp, hqs⟩ := mem_addPend p qs
    unfold addPend
    split
    · exact ⟨List.mem_cons_self, fun y hy => List.mem_cons_of_mem p hy⟩
    · refine ⟨List.mem_cons_of_mem q hp, fun y hy => ?_⟩
      rcases List.mem_cons.mp hy with rfl | hmem
      · exact List.mem_cons_self
      · exact List.mem_cons_of_mem q (hqs y hmem)

/-- The trap of one tile of a fabric load. -/
def State.trapTile (l : LoadRef) (src : TrapSrc) (cause reason frame : Nat) (s : State) (t : TilePlace) : State :=
  s.modSeq (pkgTile l.die t.pt) fun q =>
    { q with pend := addPend ⟨src, cause, loadDetail t.lt reason frame, s.clock, 256⟩ q.pend }

section
variable {l : LoadRef} {src : TrapSrc} {cause reason frame : Nat}

/-- Every tile's sequencer has the trap pending, beside what was. -/
theorem trapTiles_seq : ∀ (ts : List TilePlace) (s : State) (u : Nat) (q : Seq), s.seq? u = some q →
    ∃ q', (ts.foldl (State.trapTile l src cause reason frame) s).seq? u = some q' ∧ (∀ y ∈ q.pend, y ∈ q'.pend) ∧
      ∀ t ∈ ts, pkgTile l.die t.pt = u → ∃ p ∈ q'.pend, p.src = src ∧ p.cause = cause
  | [], _, _, q, hq => ⟨q, hq, fun _ h => h, fun _ h => absurd h List.not_mem_nil⟩
  | t :: ts, s, u, q, hq => by
    have hstep := modSeq_seq s (pkgTile l.die t.pt) u (fun q => { q with
      pend := addPend ⟨src, cause, loadDetail t.lt reason frame, s.clock, 256⟩ q.pend }) fun _ h => h
    by_cases hu : u = pkgTile l.die t.pt
    · rw [if_pos hu, hq] at hstep
      obtain ⟨q', hq', hkeep, hall⟩ := trapTiles_seq ts (s.trapTile l src cause reason frame t) u _ hstep
      obtain ⟨hin, hstay⟩ := mem_addPend ⟨src, cause, loadDetail t.lt reason frame, s.clock, 256⟩ q.pend
      refine ⟨q', hq', fun y hy => hkeep y (hstay y hy), fun t' ht' hpt => ?_⟩
      rcases List.mem_cons.mp ht' with rfl | hmem
      · exact ⟨_, hkeep _ hin, rfl, rfl⟩
      · exact hall t' hmem hpt
    · rw [if_neg hu, hq] at hstep
      obtain ⟨q', hq', hkeep, hall⟩ := trapTiles_seq ts (s.trapTile l src cause reason frame t) u q hstep
      refine ⟨q', hq', hkeep, fun t' ht' hpt => ?_⟩
      rcases List.mem_cons.mp ht' with rfl | hmem
      · exact absurd hpt.symm hu
      · exact hall t' hmem hpt

/-- Traps of a fabric load change sequencers only. -/
theorem trapTiles_rest (ts : List TilePlace) (s : State) :
    ∃ qs, ts.foldl (State.trapTile l src cause reason frame) s = { s with seqs := qs } := by
  refine foldl_keeps (R := fun s s' : State => ∃ qs, s' = { s with seqs := qs }) (fun s => ⟨s.seqs, rfl⟩) ?_
    (State.trapTile l src cause reason frame) (fun s t => ⟨_, rfl⟩) ts s
  rintro a b c ⟨qs, rfl⟩ ⟨qs', rfl⟩
  exact ⟨qs', rfl⟩

theorem trapLoad_eq {s : State} {x : Load} (hx : s.load? l = some x) : s.trapLoad l src cause reason frame =
    x.tiles.foldl (State.trapTile l src cause reason frame) s := by
  simp only [State.trapLoad, hx]
  rfl

end

/-- Nothing is reissued by an element that owes no reissue. -/
theorem reissueAll_none {s : State} {l : LoadRef} (hnone : ∀ e ∈ s.elems, e.ref.load = l → e.mpe.reissue = []) {e : Elem}
    (he : e ∈ s.elems) (hl : e.ref.load = l) : s.reissueAll e = s := by
  have hsame : (s.elems.map fun y => if y.ref = e.ref then y.setMpe { y.mpe with reissue := [] } else y) = s.elems := by
    refine (List.map_congr_left fun y hy => ?_).trans (List.map_id s.elems)
    split
    next href =>
      have hempty := hnone y hy ((congrArg ElemRef.load href).trans hl)
      show { y with mpe := { y.mpe with reissue := [] } } = y
      rw [← hempty]
    next => rfl
  rw [State.reissueAll, hnone e he hl]
  show { s with elems := _ } = s
  rw [hsame]

/-- A fabric load that owes no reissue goes on as it was. -/
theorem resumeLoad_eq {s : State} {l : LoadRef} (hnone : ∀ e ∈ s.elems, e.ref.load = l → e.mpe.reissue = []) :
    s.resumeLoad l = { s.modLoad l (fun x => { x with phase := .resident, disp := none, reason := 0, phaseAt := s.clock }) with
      elems := s.elems.map fun (e : Elem) => if e.ref.load = l then { e with stopped := false } else e } := by
  have hfold : ∀ es : List Elem, (∀ e ∈ es, e ∈ s.elems ∧ e.ref.load = l) → es.foldl (fun s e => s.reissueAll e) s = s := by
    intro es
    induction es with
    | nil => exact fun _ => rfl
    | cons e es ih =>
      intro hes
      obtain ⟨he, hl⟩ := hes e List.mem_cons_self
      rw [List.foldl_cons, reissueAll_none hnone he hl]
      exact ih fun y hy => hes y (List.mem_cons_of_mem e hy)
  have hmine := hfold (s.elems.filter fun e => e.ref.load == l) fun e he =>
    ⟨(List.mem_filter.mp he).1, beq_iff_eq.mp (List.mem_filter.mp he).2⟩
  rw [State.resumeLoad, hmine]

/-! ### The commit of a save -/

/-- Whether a save posts a page request. -/
def Load.pages (x : Load) : Bool := match x.disp with
  | some d => d.level == 2
  | none => false

/-- What a save keeps of a fabric load. -/
def State.savedOf (s : State) (l : LoadRef) (x : Load) (o : SlotX) : Saved :=
  ⟨l.die, o.handle, x.cfgid, o.frame, x.slots, x.pages, s.keptOf l, s.heldOf l⟩

/-- The tasks of a fabric load are SAVED. -/
def State.saveTasks (s : State) (x : Load) : State := (x.slots.filterMap id).foldl (fun s t => s.setTrState t.handle 4) s

/-- A fabric load whose tasks are SAVED retires. -/
def State.retireSaved (s : State) (l : LoadRef) (x : Load) (o : SlotX) : State :=
  { ((s.saveTasks x).modLoad l fun x => { x with
      slots := List.replicate 8 none
      entries := x.entries.map fun (q : EntryQ) => { q with count := 0, reqs := [], buf := [] } }) with
    saved := (s.saveTasks x).saved ++ [s.savedOf l x o] }.beginRetire l

section
variable {s : State} {l : LoadRef} {x : Load} {o : SlotX} (hactor : s.actor = .load l) (hx : s.load? l = some x)
  (hphase : x.phase = .saving) (hdue : x.phaseAt < s.clock) (hret : ∀ t ∈ x.tiles, t.lt ∈ x.returned)
  (howner : x.owner = some o)

include hactor hx hphase hdue hret howner in
theorem exec_preemptCommit : exec .preemptCommit s = .next (
    if x.pages = true then
      { s.retireSaved l x o with pgpend := (s.retireSaved l x o).pgpend ++ [o.handle] }.push [.event .pageRequestPost .none]
    else ((s.retireSaved l x o).setTrState o.handle 2).enqueue ((s.retireSaved l x o).readyEnt o.handle)) := by
  have hall : (x.tiles.all fun t => x.returned.contains t.lt) = true :=
    List.all_eq_true.mpr fun t ht => List.contains_iff_mem.mpr (hret t ht)
  show execPreemptCommit s = _
  simp only [execPreemptCommit, hactor, hx, hphase, hall, howner]
  rw [if_neg (by simp; omega), ← apply_ite Host.Outcome.next]
  rfl

/-- What saving tasks leaves besides memory. -/
theorem saveTasks_rest (s : State) (x : Load) : ∃ m, s.saveTasks x = { s with mem := m } := by
  refine foldl_keeps (R := fun s s' : State => ∃ m, s' = { s with mem := m }) (fun s => ⟨s.mem, rfl⟩) ?_
    (fun (s : State) (t : SlotX) => s.setTrState t.handle 4) (fun s t => setRecField_rest s _ _ _ _ _) _ s
  rintro a b c ⟨m, rfl⟩ ⟨m', rfl⟩
  exact ⟨m', rfl⟩

theorem saveTasks_wf (hm : Memory.wf s.mem = true) : Memory.wf (s.saveTasks x).mem = true :=
  List.foldlRecOn (motive := fun s : State => Memory.wf s.mem = true) (x.slots.filterMap id) (fun (s : State) (t : SlotX) => s.setTrState t.handle 4) hm
    fun s h _ _ => setRecField_wf s _ _ _ _ _ h

include hx in
theorem retireSaved_load : ∃ y, (s.retireSaved l x o).load? l = some y ∧ y.phase = .retiring ∧
    y.slots = List.replicate 8 none ∧ (s.retireSaved l x o).saved = s.saved ++ [s.savedOf l x o] ∧
    (s.retireSaved l x o).pgpend = s.pgpend ∧ (s.retireSaved l x o).mem = (s.saveTasks x).mem ∧
    (s.retireSaved l x o).dv = s.dv := by
  obtain ⟨m, hrest⟩ := saveTasks_rest s x
  have hload : (s.saveTasks x).load? l = some x := by rw [hrest]; exact hx
  have hempty := modLoad_there hload (fun x => { x with
    slots := List.replicate 8 none
    entries := x.entries.map fun (q : EntryQ) => { q with count := 0, reqs := [], buf := [] } }) fun _ h => h
  refine ⟨_, beginRetire_there (s := State.mk ..) hempty, rfl, rfl, ?_, ?_, rfl, ?_⟩
  · show (s.saveTasks x).saved ++ _ = _
    rw [hrest]
  · show (s.saveTasks x).pgpend = _
    rw [hrest]
  · show (s.saveTasks x).dv = _
    rw [hrest]

/-- The tasks that were saved read SAVED. -/
theorem saveTasks_state (hm : Memory.wf s.mem = true) (hapart : s.recordsApart (x.slots.filterMap id)) {t : SlotX}
    (ht : t ∈ x.slots.filterMap id) :
    RecAt (s.saveTasks x) t.handle (s.place t.handle) { s.view t.handle with st := 4 } :=
  (RecStep.tasks hapart hm save_recStep fun _ _ => trivial).1 _ ht

end

theorem owner_mem {x : Load} {o : SlotX} (h : x.owner = some o) : o ∈ x.slots.filterMap id := by
  obtain ⟨t, ht, hfilter⟩ := List.exists_of_findSome?_eq_some h
  refine List.mem_filterMap.mpr ⟨t, ht, ?_⟩
  exact (Option.filter_eq_some_iff.mp hfilter).1

/-! ### Pre-emption -/

/-- A request to stop a resident fabric load with a frame owner. -/
theorem preempt_drains {s : State} {l : LoadRef} {n : Nat} {x : Load} {o : SlotX} (hactor : s.actor = .loadN l n)
    (hx : s.load? l = some x) (howner : x.owner = some o) (hphase : x.phase = .resident)
    (hfree : n < 16 ∨ ∀ y, s.die? l.die = some y → y.inst = none) :
    exec .preempt s = .next (s.beginDrain l ⟨1, 0, 0⟩ (n % 16)) := by
  have hgoes : n < 16 ∨ ¬ ((s.die? l.die).bind (·.inst)).isSome = true := by
    refine hfree.imp_right fun h => ?_
    cases hy : s.die? l.die with
    | none => simp
    | some y => simp [h y hy]
  show execPreempt s = _
  simp only [execPreempt, hactor]
  rw [if_pos hgoes, requestStop_begins hx howner hphase]

/-- A request that needs tiles of the install in progress abandons it and is held. -/
theorem preempt_abandons {s : State} {l : LoadRef} {n : Nat} {x : Die} {i : Install} (hactor : s.actor = .loadN l n)
    (hx : s.die? l.die = some x) (hi : x.inst = some i) (hlive : i.abandon = none) (hn : 16 ≤ n) :
    ∃ s', exec .preempt s = .next s' ∧
      s'.die? l.die = some { x with inst := some { i with abandon := some (s.clock + 64) } } ∧
      s' = { s with dies := s'.dies, inputs := s.inputs ++ [(s.clock + 64, .preempt, .loadN l (n % 16))] } := by
  have hheld : ¬ (n < 16 ∨ ¬ ((s.die? l.die).bind (·.inst)).isSome = true) := by
    rw [hx]
    simp [hi, hn]
  refine ⟨{ s.abandonInstall l.die 64 with inputs := s.inputs ++ [(s.clock + 64, .preempt, .loadN l (n % 16))] }, ?_, ?_, rfl⟩
  · show execPreempt s = _
    simp only [execPreempt, hactor]
    rw [if_neg hheld]
    rfl
  · refine (modDie_there hx (fun x => { x with inst := x.inst.map fun (i : Install) => { i with abandon := some (match i.abandon with
      | some a => a
      | none => s.clock + 64) } }) fun _ h => h).trans ?_
    simp [hi, hlive]

/-- A fabric load of which a save begins. -/
def State.saves (s : State) (l : LoadRef) : State :=
  (s.markStanding l).modLoad l fun x => { x with phase := .saving, phaseAt := s.clock }

/-- Two lists of elements differ in replays alone. -/
def sameButReplay (es es' : List Elem) : Prop :=
  es'.map (fun (e : Elem) => { e with mpe := { e.mpe with replay := [] } }) =
    es.map (fun (e : Elem) => { e with mpe := { e.mpe with replay := [] } })

theorem markStanding_sameButReplay (s : State) (l : LoadRef) : sameButReplay s.elems (s.markStanding l).elems := by
  rw [sameButReplay, State.markStanding, List.map_map]
  refine List.map_congr_left fun e _ => ?_
  simp only [Function.comp_apply]
  split <;> rfl

/-- A save begins: every tile's sequencer has PREEMPT pending. -/
theorem saveBegins {s : State} {l : LoadRef} {x : Load} {o : SlotX} (hx : s.load? l = some x) :
    ∃ s' y, ((s.saves l).writeImage x o.frame).trapLoad l (.preempt l) Cause.preempt x.reason o.frame = s' ∧
      s'.load? l = some y ∧ y.phase = .saving ∧ y.slots = x.slots ∧ sameButReplay s.elems s'.elems ∧
      ∀ t ∈ x.tiles, ∀ q, s.seq? (pkgTile l.die t.pt) = some q →
        ∃ q' p, s'.seq? (pkgTile l.die t.pt) = some q' ∧ p ∈ q'.pend ∧ p.src = .preempt l ∧ p.cause = Cause.preempt := by
  have hsaves : (s.saves l).load? l = some { x with phase := .saving, phaseAt := s.clock } :=
    modLoad_there (s := s.markStanding l) hx (fun x => { x with phase := .saving, phaseAt := s.clock }) fun _ h => h
  obtain ⟨⟨m, b, himage⟩, -⟩ := writeImage_writesMem (s.saves l) x o.frame
  generalize (s.saves l).writeImage x o.frame = s2 at himage
  have hload : s2.load? l = some { x with phase := .saving, phaseAt := s.clock } := by rw [himage]; exact hsaves
  have helems : s2.elems = (s.markStanding l).elems := by rw [himage]; rfl
  have hseq : ∀ u, s2.seq? u = s.seq? u := fun u => by rw [himage]; rfl
  rw [trapLoad_eq hload]
  obtain ⟨qs, hrest⟩ := trapTiles_rest (l := l) (src := .preempt l) (cause := Cause.preempt) (reason := x.reason)
    (frame := o.frame) x.tiles s2
  refine ⟨_, { x with phase := .saving, phaseAt := s.clock }, rfl, ?_, rfl, rfl, ?_, fun t ht q hq => ?_⟩
  · rw [hrest]
    exact hload
  · rw [hrest]
    show sameButReplay s.elems s2.elems
    rw [helems]
    exact markStanding_sameButReplay s l
  · obtain ⟨q', hq', -, hall⟩ := trapTiles_seq x.tiles s2 (pkgTile l.die t.pt) q ((hseq _).trans hq)
    obtain ⟨p, hp, hsrc, hcause⟩ := hall t ht rfl
    exact ⟨q', p, hq', hp, hsrc, hcause⟩

/-- Settles O46, clause by clause: a request, the end of a drain, the commit of a save, a page request, and a quarantine. -/
theorem preemptionSteps : Obligations.PreemptionSteps := by
  refine ⟨fun s l n x o hactor hx howner hphase hfree => ?_, fun s l n x i hactor hx hi hlive hn => ?_,
    fun s l x hactor hx hm => ?_, fun s => ⟨fun h rest hpend hroom => ?_, fun hfull => ?_⟩, fun s t n v q hactor hq hn hlen => ?_⟩
  · obtain ⟨hstop, hother⟩ := beginDrain_elem (s := s) (l := l) (d := ⟨1, 0, 0⟩) (reason := n % 16)
    exact ⟨_, preempt_drains hactor hx howner hphase hfree, rfl, modLoad_there hx (fun x => { x with
      phase := .draining, disp := some ⟨1, 0, 0⟩, reason := n % 16, returned := [], phaseAt := s.clock }) fun _ h => h,
      hstop, hother⟩
  · exact preempt_abandons hactor hx hi hlive hn
  · intro clear
    refine ⟨fun dsp hphase hdisp hnone hdrained hcomp helems => ?_, fun o hphase hdue hret howner => ?_⟩
    · intro killed
      have hexec := exec_preemptDrainEnd hactor hx hphase hdisp hnone hdrained hcomp helems
      have hkilled : ∀ c, exec .preemptDrainEnd s = .next (s.killLoad l c) → killed c := fun c hc => by
        obtain ⟨-, y, hy, hyphase, hyslots⟩ := killLoad_retires hx c
        exact ⟨_, y, hc, hy, hyphase, hyslots, fun hclear hv hlt t ht => killLoad_tasks hx hm hclear hv hlt ht⟩
      refine ⟨fun o howner hlevel => ?_, fun hlevel => hkilled _ ?_, fun howner hlevel hreason => hkilled _ ?_,
        fun howner hlevel hreason hreissue => ?_⟩
      · obtain ⟨s', y, hs', hrest⟩ := saveBegins (o := o) hx
        simp only [howner, if_neg hlevel] at hexec
        exact ⟨s', y, hexec.trans (congrArg _ hs'), hrest⟩
      · rw [hexec]
        cases x.owner <;> simp [hlevel]
      · rw [hexec, howner]
        simp [hlevel, State.saveNoframe, hreason, load_ref hx]
      · have hexec' : exec .preemptDrainEnd s = .next (s.resumeLoad l) := by
          rw [hexec, howner]
          simp [hlevel, State.saveNoframe, hreason, load_ref hx]
        refine ⟨_, hexec'.trans (congrArg _ (resumeLoad_eq hreissue)), ?_, rfl⟩
        exact modLoad_there hx (fun x => { x with phase := .resident, disp := none, reason := 0, phaseAt := s.clock })
          fun _ h => h
    · have hexec := exec_preemptCommit hactor hx hphase hdue hret howner
      obtain ⟨y, hy, hyphase, hyslots, hsaved, hpend, hmem, hdv⟩ := retireSaved_load (o := o) hx
      have hwf := saveTasks_wf (x := x) hm
      have howner' := owner_mem howner
      have htasks := fun hclear : s.recordsApart (x.slots.filterMap id) => fun t ht =>
        (saveTasks_state hm hclear (t := t) ht).same hmem (by
          obtain ⟨m, hm⟩ := saveTasks_rest s x
          rw [hdv, hm])
      by_cases hpage : x.pages = true
      · rw [if_pos hpage] at hexec
        refine ⟨_, y, s.savedOf l x o, hexec, hy, hyphase, hyslots, hsaved, rfl, rfl, rfl, rfl, rfl,
          fun hclear t ht _ => congrArg RecView.st (htasks hclear t ht).view, fun dsp _ _ => ⟨hpage, ?_⟩,
          fun dsp a hdisp hlevel ha => ?_⟩
        · show (s.retireSaved l x o).pgpend ++ _ = _
          rw [hpend]
        · simp [Load.pages, hdisp, hlevel] at hpage
      · rw [if_neg hpage] at hexec
        have ho := setRecField_rest (s.retireSaved l x o) o.handle 0x00 44 4 2
        refine ⟨_, y, s.savedOf l x o, hexec, ?_, hyphase, hyslots, ?_, rfl, rfl, rfl, rfl, rfl, fun hclear t ht hor => ?_,
          fun dsp hdisp hlevel => ?_, fun dsp a hdisp hlevel ha => ⟨eq_false_of_ne_true hpage, ?_⟩⟩
        · obtain ⟨m, ho⟩ := ho
          rw [State.setTrState, ho]
          exact hy
        · obtain ⟨m, ho⟩ := ho
          rw [State.setTrState, ho]
          exact hsaved
        · have hne := recordsApart_ne hclear ht howner' (hor.resolve_right hpage)
          have hsaved' := (htasks hclear t ht)
          exact congrArg RecView.st ((setTrState_elsewhere (htasks hclear o howner') hsaved' hne 2).same (s' := State.enqueue _ _)
            rfl rfl).view
        · simp [Load.pages, hdisp, hlevel] at hpage
        · have hro : RecAt (s.retireSaved l x o) o.handle a ((s.retireSaved l x o).view o.handle) :=
            ⟨(recAddr_of_dv hdv o.handle).trans ha, by rw [hmem]; exact hwf, rfl⟩
          exact congrArg RecView.st ((hro.setTrState 2).same (s' := State.enqueue _ _) rfl rfl).view
  · show execPageRequestPost s = _
    simp only [execPageRequestPost, hpend]
    rw [if_pos hroom]
  · show execPageRequestPost s = _
    unfold execPageRequestPost
    cases s.pgpend with
    | nil => rfl
    | cons h rest => exact congrArg _ (if_neg (by omega))
  · obtain ⟨hthere, honly⟩ := modSeq_spec s t q (fun q => { q with fmap := putAt 0 q.fmap n (if n = 3 then v &&& 1 else v) }) hq
      fun _ h => h
    refine ⟨_, _, ?_, hthere, rfl, honly, fun k hk => ?_⟩
    · show execQuarantine s = _
      simp only [execQuarantine, hactor, hq]
    · exact putAt_getD 0 q.fmap n k _

end Sys2Proof.Machine
end

section
/-! SUPPORT. The arbor walker's checks (R312 to R315): headers and nodes, what a node that is read keeps, and searches in an
arbor of which one leaf has changed. -/
namespace Sys2Proof.Machine
open Sys2Proof Sys2Proof.Safety

/-! ### Headers -/

/-- The limits of a header's first two words, with those of the words behind the first four. -/
def headerGood (w0 w1 : Word) (rest : Bool) (size : Nat) : Bool :=
  let nd := fld w0 56 2 + 1
  let ws := [fld w0 32 6, fld w0 38 6, fld w0 44 6, fld w0 50 6]
  let used := ws.take nd
  let nn := fld w0 0 24
  fld w0 62 2 == 3 && (fld w0 58 4 == 1 || fld w0 58 4 == 4) && used.all (fun w => decide (1 ≤ w)) &&
    (ws.drop nd).all (fun w => w == 0) && decide (used.foldl (· + ·) 0 ≤ 32) && decide (2 ≤ nn) &&
    decide (1 ≤ fld w0 24 8) && decide (1 ≤ fld w1 32 32 ∧ fld w1 32 32 < nn) && decide (fld w1 0 32 < nn) &&
    rest && decide (256 * nn ≤ size)

/-- The words of a header behind the first four. -/
def headerRest (s : State) (hdr : Nat) : Bool := (List.range 28).all fun k => arborWord s hdr 0 (k + 4) == 0

/-- An uncorrectable word of a node. -/
def nodeBad (s : State) (a : Nat) : Bool := (List.range 32).any fun w => s.isBad (a + 8 * w)

/-- The arbor that a header describes. -/
def arborOf (s : State) (hdr : Nat) : Arb :=
  let w0 := arborWord s hdr 0 0
  let w1 := arborWord s hdr 0 1
  let w2 := arborWord s hdr 0 2
  { s := s, hdr := hdr, vfmt := fld w0 58 4, ndim := fld w0 56 2 + 1,
    ws := [fld w0 32 6, fld w0 38 6, fld w0 44 6, fld w0 50 6], nn := fld w0 0 24, height := fld w0 24 8,
    root := fld w1 32 32, free := fld w1 0 32, nfree := fld w2 32 32, nent := fld w2 0 32,
    version := (arborWord s hdr 0 3).toNat, nodes := [], struct := false }

theorem readArb_eq (s : State) (hdr size : Nat) : readArb s hdr size =
    if nodeBad s hdr = true then .error ⟨Cause.uncorrectable, 0⟩
    else if headerGood (arborWord s hdr 0 0) (arborWord s hdr 0 1) (headerRest s hdr) size = true then .ok (arborOf s hdr)
    else .error ⟨Cause.arborHdr, 0⟩ := by
  by_cases hbad : nodeBad s hdr = true
  · rw [if_pos hbad]
    exact if_pos hbad
  · rw [if_neg hbad]
    refine (if_neg hbad).trans ?_
    by_cases hgood : headerGood (arborWord s hdr 0 0) (arborWord s hdr 0 1) (headerRest s hdr) size = true
    · rw [if_pos hgood]
      refine if_neg (c := (!headerGood (arborWord s hdr 0 0) (arborWord s hdr 0 1) (headerRest s hdr) size) = true) ?_
      rw [hgood]
      exact Bool.false_ne_true
    · rw [if_neg hgood]
      refine if_pos (c := (!headerGood (arborWord s hdr 0 0) (arborWord s hdr 0 1) (headerRest s hdr) size) = true) ?_
      rw [eq_false_of_ne_true hgood]
      rfl

theorem nodeBad_iff (s : State) (a : Nat) : nodeBad s a = true ↔ ∃ k, k < 32 ∧ s.isBad (a + 8 * k) = true := by
  simp [nodeBad]

theorem nodeBad_false (s : State) (a : Nat) : nodeBad s a = false ↔ ∀ k, k < 32 → s.isBad (a + 8 * k) = false := by
  simp [nodeBad]

/-- What a header that is accepted keeps. -/
theorem headerGood_limits {w0 w1 : Word} {rest : Bool} {size : Nat} (h : headerGood w0 w1 rest size = true) :
    fld w0 62 2 = 3 ∧ (fld w0 58 4 = 1 ∨ fld w0 58 4 = 4) ∧ 2 ≤ fld w0 0 24 ∧ 1 ≤ fld w0 24 8 ∧ 1 ≤ fld w1 32 32 ∧
      fld w1 32 32 < fld w0 0 24 ∧ fld w1 0 32 < fld w0 0 24 ∧ rest = true ∧ 256 * fld w0 0 24 ≤ size := by
  simp only [headerGood, Bool.and_eq_true, Bool.or_eq_true, beq_iff_eq, decide_eq_true_eq] at h
  obtain ⟨⟨⟨⟨⟨⟨⟨⟨⟨⟨hkind, hfmt⟩, -⟩, -⟩, -⟩, hnn⟩, hheight⟩, hroot⟩, hfree⟩, hrest⟩, hsize⟩ := h
  exact ⟨hkind, hfmt, hnn, hheight, hroot.1, hroot.2, hfree, hrest, hsize⟩

/-- A header is accepted again while its fields stay. -/
theorem headerGood_congr {w0 w1 v0 v1 : Word} {rest : Bool} {size : Nat} (h62 : fld v0 62 2 = fld w0 62 2)
    (h58 : fld v0 58 4 = fld w0 58 4) (h56 : fld v0 56 2 = fld w0 56 2) (h50 : fld v0 50 6 = fld w0 50 6)
    (h44 : fld v0 44 6 = fld w0 44 6) (h38 : fld v0 38 6 = fld w0 38 6) (h32 : fld v0 32 6 = fld w0 32 6)
    (h24 : fld v0 24 8 = fld w0 24 8) (h0 : fld v0 0 24 = fld w0 0 24) (hroot : fld v1 32 32 = fld w1 32 32)
    (hfree : fld v1 0 32 = fld w1 0 32) : headerGood v0 v1 rest size = headerGood w0 w1 rest size := by
  simp only [headerGood, h62, h58, h56, h50, h44, h38, h32, h24, h0, hroot, hfree]

/-! ### Nodes -/

/-- A node as its words say. -/
def Arb.reads (t : Arb) (i level : Nat) : ANode :=
  let at_ := arborWord t.s t.hdr i
  ⟨fld (at_ 0) 62 2, level, if level = 0 then (at_ 1).toNat else 0,
    (List.range (fld (at_ 0) 48 8)).map fun k => pairOf (at_ ((if level = 0 then 2 else 1) + k))⟩

/-- The limits of a node at a level with keys in [lo, hi). -/
def Arb.fits (t : Arb) (i level lo hi : Nat) : Bool :=
  let at_ := arborWord t.s t.hdr i
  let w0 := at_ 0
  let n := fld w0 48 8
  let first := if level = 0 then 2 else 1
  let ents := (List.range n).map fun k => pairOf (at_ (first + k))
  let rest := (List.range 32).drop (first + n)
  let keys := ents.map (·.1)
  fld w0 62 2 == (if level = 0 then 1 else 2) && fld w0 40 8 == level && fld w0 56 6 == 0 &&
    fld w0 0 40 == 0 && rest.all (fun w => at_ w == 0) && rising keys && keys.all (fun k => decide (k < hi)) &&
    (if level = 0 then
      decide (n ≤ 30) && decide ((at_ 1).toNat < t.nn) && keys.all (fun k => decide (lo ≤ k))
    else
      decide (2 ≤ n ∧ n ≤ 31) && keys.headD 1 == 0 && (keys.drop 1).all (fun k => decide (lo < k)) &&
      ents.all (fun p => decide (1 ≤ p.2 ∧ p.2 < t.nn)))

/-- The operation has written a node. -/
def Arb.written (t : Arb) (i : Nat) : Prop := ∃ m, (i, m) ∈ t.nodes

theorem find_written {t : Arb} {i : Nat} : (t.nodes.find? fun p => p.1 == i) = none ↔ ¬ t.written i := by
  simp only [List.find?_eq_none, beq_iff_eq, Arb.written, not_exists]
  exact ⟨fun h m hm => h (i, m) hm rfl, fun h p hp he => h p.2 (he ▸ hp)⟩

theorem node_breach {t : Arb} {i : Nat} (level lo hi : Nat) (h : t.written i ∨ i = 0 ∨ t.nn ≤ i) :
    t.node i level lo hi = .error ⟨Cause.arborOrder, i⟩ := by
  unfold Arb.node
  cases hfind : t.nodes.find? fun p => p.1 == i with
  | some p => rfl
  | none => exact if_pos (h.resolve_left (find_written.mp hfind))

/-- A node in its place, read and checked. -/
theorem node_eq {t : Arb} {i : Nat} (hw : ¬ t.written i) (hpos : 0 < i) (hnn : i < t.nn) (level lo hi : Nat) :
    t.node i level lo hi =
      if nodeBad t.s (t.hdr + 256 * i) = true then .error ⟨Cause.uncorrectable, i⟩
      else if t.fits i level lo hi = true then .ok (t.reads i level) else .error ⟨Cause.arborOrder, i⟩ := by
  unfold Arb.node
  rw [find_written.mpr hw]
  refine (if_neg (by omega)).trans ?_
  by_cases hbad : nodeBad t.s (t.hdr + 256 * i) = true
  · rw [if_pos hbad]
    exact if_pos hbad
  · rw [if_neg hbad]
    exact if_neg hbad

theorem node_good {t : Arb} {i level lo hi : Nat} (hw : ¬ t.written i) (hpos : 0 < i) (hnn : i < t.nn)
    (hbad : nodeBad t.s (t.hdr + 256 * i) = false) (hfits : t.fits i level lo hi = true) :
    t.node i level lo hi = .ok (t.reads i level) := by
  rw [node_eq hw hpos hnn, if_neg (by rw [hbad]; exact Bool.false_ne_true), if_pos hfits]

/-- A node that is read stands in its place and keeps its limits. -/
theorem node_ok {t : Arb} {i level lo hi : Nat} {n : ANode} (h : t.node i level lo hi = .ok n) :
    ¬ t.written i ∧ 0 < i ∧ i < t.nn ∧ nodeBad t.s (t.hdr + 256 * i) = false ∧ t.fits i level lo hi = true ∧
      n = t.reads i level := by
  by_cases hplace : t.written i ∨ i = 0 ∨ t.nn ≤ i
  · rw [node_breach level lo hi hplace] at h
    exact absurd h nofun
  · obtain ⟨hw, hpos, hnn⟩ : ¬ t.written i ∧ 0 < i ∧ i < t.nn := ⟨fun h => hplace (.inl h), by omega, by omega⟩
    rw [node_eq hw hpos hnn] at h
    split at h
    · exact absurd h nofun
    next hbad =>
      split at h
      next hfits => exact ⟨hw, hpos, hnn, eq_false_of_ne_true hbad, hfits, (Except.ok.inj h).symm⟩
      · exact absurd h nofun

theorem node_order {t : Arb} {i level lo hi : Nat} (hw : ¬ t.written i) (hpos : 0 < i) (hnn : i < t.nn)
    (hbad : nodeBad t.s (t.hdr + 256 * i) = false) (hfits : ¬ t.fits i level lo hi = true) :
    t.node i level lo hi = .error ⟨Cause.arborOrder, i⟩ := by
  rw [node_eq hw hpos hnn, if_neg (by rw [hbad]; exact Bool.false_ne_true), if_neg hfits]

theorem rising_iff : ∀ l : List Nat, rising l = true ↔ l.Pairwise (· < ·)
  | [] => by simp [rising]
  | [_] => by simp [rising]
  | a :: b :: r => by
    rw [rising, Bool.and_eq_true, rising_iff (b :: r), decide_eq_true_eq]
    constructor
    · rintro ⟨hab, hr⟩
      refine List.pairwise_cons.mpr ⟨fun c hc => ?_, hr⟩
      rcases List.mem_cons.mp hc with rfl | hmem
      · exact hab
      · exact hab.trans ((List.pairwise_cons.mp hr).1 c hmem)
    · intro h
      obtain ⟨hall, hr⟩ := List.pairwise_cons.mp h
      exact ⟨hall b List.mem_cons_self, hr⟩

/-- The limits that a node's fields keep, with its keys in [lo, hi). -/
structure ANode.Fits (n : ANode) (nn level lo hi : Nat) : Prop where
  kind : n.kind = if level = 0 then 1 else 2
  place : n.level = level
  rising : (n.ents.map (·.1)).Pairwise (· < ·)
  below : ∀ p ∈ n.ents, p.1 < hi
  leaf : level = 0 → n.ents.length ≤ 30 ∧ n.next < nn ∧ ∀ p ∈ n.ents, lo ≤ p.1
  inner : level ≠ 0 → 2 ≤ n.ents.length ∧ n.ents.length ≤ 31 ∧ (n.ents.map (·.1)).headD 1 = 0 ∧
    (∀ p ∈ n.ents.drop 1, lo < p.1) ∧ ∀ p ∈ n.ents, 1 ≤ p.2 ∧ p.2 < nn

/-- The bits of a node's first word, and the words behind its entries. -/
structure Arb.Plain (t : Arb) (i level : Nat) : Prop where
  place : fld (arborWord t.s t.hdr i 0) 40 8 = level
  high : fld (arborWord t.s t.hdr i 0) 56 6 = 0
  low : fld (arborWord t.s t.hdr i 0) 0 40 = 0
  rest : ∀ w, (if level = 0 then 2 else 1) + fld (arborWord t.s t.hdr i 0) 48 8 ≤ w → w < 32 → arborWord t.s t.hdr i w = 0

theorem fits_iff {t : Arb} {i level lo hi : Nat} :
    t.fits i level lo hi = true ↔ (t.reads i level).Fits t.nn level lo hi ∧ t.Plain i level := by
  have hlen : (t.reads i level).ents.length = fld (arborWord t.s t.hdr i 0) 48 8 := by simp [Arb.reads]
  have hrest : ((List.range 32).drop ((if level = 0 then 2 else 1) + fld (arborWord t.s t.hdr i 0) 48 8)).all
      (fun w => arborWord t.s t.hdr i w == 0) = true ↔ ∀ w, (if level = 0 then 2 else 1) +
        fld (arborWord t.s t.hdr i 0) 48 8 ≤ w → w < 32 → arborWord t.s t.hdr i w = 0 := by
    rw [List.all_eq_true, List.range_eq_range', List.drop_range']
    simp only [List.mem_range'_1, beq_iff_eq]
    exact ⟨fun h w h1 h2 => h w ⟨by omega, by omega⟩, fun h w ⟨h1, h2⟩ => h w (by omega) (by omega)⟩
  have hents : (List.range (fld (arborWord t.s t.hdr i 0) 48 8)).map (fun k =>
      pairOf (arborWord t.s t.hdr i ((if level = 0 then 2 else 1) + k))) = (t.reads i level).ents := rfl
  simp only [Arb.fits, Bool.and_eq_true, hrest, hents, rising_iff, beq_iff_eq, List.all_eq_true, decide_eq_true_eq]
  by_cases hl : level = 0
  · subst hl
    simp only [if_true, decide_eq_true_eq, Bool.and_eq_true, List.all_eq_true, List.forall_mem_map]
    constructor
    · rintro ⟨⟨⟨⟨⟨⟨⟨hkind, hlevel⟩, hhigh⟩, hlow⟩, hzero⟩, hrise⟩, hbelow⟩, ⟨hn, hnext⟩, hlo⟩
      exact ⟨⟨hkind, rfl, hrise, hbelow, fun _ => ⟨hlen ▸ hn, hnext, hlo⟩, fun h => absurd rfl h⟩, ⟨hlevel, hhigh, hlow, hzero⟩⟩
    · rintro ⟨⟨hkind, -, hrise, hbelow, hleaf, -⟩, ⟨hlevel, hhigh, hlow, hzero⟩⟩
      obtain ⟨hn, hnext, hlo⟩ := hleaf rfl
      exact ⟨⟨⟨⟨⟨⟨⟨hkind, hlevel⟩, hhigh⟩, hlow⟩, hzero⟩, hrise⟩, hbelow⟩, ⟨hlen ▸ hn, hnext⟩, hlo⟩
  · simp only [if_neg hl, decide_eq_true_eq, Bool.and_eq_true, List.all_eq_true, List.forall_mem_map, beq_iff_eq,
      ← List.map_drop]
    constructor
    · rintro ⟨⟨⟨⟨⟨⟨⟨hkind, hlevel⟩, hhigh⟩, hlow⟩, hzero⟩, hrise⟩, hbelow⟩, ⟨⟨hn, hhead⟩, hlo⟩, hkids⟩
      exact ⟨⟨by rw [if_neg hl]; exact hkind, rfl, hrise, hbelow, fun h => absurd h hl,
        fun _ => ⟨hlen ▸ hn.1, hlen ▸ hn.2, hhead, hlo, hkids⟩⟩, ⟨hlevel, hhigh, hlow, by rw [if_neg hl]; exact hzero⟩⟩
    · rintro ⟨⟨hkind, -, hrise, hbelow, -, hinner⟩, ⟨hlevel, hhigh, hlow, hzero⟩⟩
      rw [if_neg hl] at hkind hzero
      obtain ⟨hmin, hmax, hhead, hlo, hkids⟩ := hinner hl
      exact ⟨⟨⟨⟨⟨⟨⟨hkind, hlevel⟩, hhigh⟩, hlow⟩, hzero⟩, hrise⟩, hbelow⟩, ⟨⟨⟨hlen ▸ hmin, hlen ▸ hmax⟩, hhead⟩, hlo⟩, hkids⟩

end Sys2Proof.Machine
end

section
/-! SUPPORT. Stores into an arbor that take and free no node (R323, R331, R333): what becomes of the leaf, and what else an
operation does when it does take or free one. -/
namespace Sys2Proof.Machine
open Sys2Proof Sys2Proof.Safety

/-! ### Operations that take, free or rebalance a node -/

/-- A step of an operation answers, if it answers, an arbor of which a node was taken, freed or rebalanced. -/
def Restructures (x : Except AErr Arb) : Prop := ∀ t1, x = .ok t1 → t1.struct = true

theorem Restructures.ok {u : Arb} (h : u.struct = true) : Restructures (.ok u) := fun _ ht => Except.ok.inj ht ▸ h

theorem Restructures.error {x : AErr} : Restructures (.error x) := fun _ h => absurd h nofun

theorem Restructures.bind {α : Type} {x : Except AErr α} {f : α → Except AErr Arb}
    (hf : ∀ y, x = .ok y → Restructures (f y)) : Restructures (x >>= f) := by
  cases x with
  | error e => exact .error
  | ok y => exact hf y rfl

theorem alloc_struct {t u : Arb} {i : Nat} (h : t.alloc = .ok (u, i)) : u.struct = true := by
  unfold Arb.alloc at h
  dsimp only at h
  obtain ⟨-, h⟩ := except_guard_ok h
  obtain ⟨-, h⟩ := except_guard_ok h
  obtain ⟨-, h⟩ := except_guard_ok h
  exact congrArg (fun p => p.1.struct) (Except.ok.inj h).symm

theorem Restructures.alloc {t : Arb} {f : Arb × Nat → Except AErr Arb} (hf : ∀ u i, u.struct = true → Restructures (f (u, i))) :
    Restructures (t.alloc >>= f) := .bind fun y hy => hf y.1 y.2 (alloc_struct hy)

theorem addChild_struct {t : Arb} {sep child old level : Nat} {path : List AStep} (ht : t.struct = true) :
    Restructures (t.addChild sep child old level path) := by
  induction path generalizing t sep child old level with
  | nil => exact .alloc fun u i hu => .ok hu
  | cons st up ih =>
    unfold Arb.addChild
    dsimp only
    split
    · exact .ok ht
    · exact .alloc fun u i hu => ih hu

theorem rebalance_struct {t : Arb} {es : List (Nat × Nat)} {path : List AStep} (ht : t.struct = true) :
    Restructures (t.rebalance es path) := by
  induction path generalizing t es with
  | nil => exact .ok ht
  | cons st path ih =>
    cases path with
    | nil =>
      unfold Arb.rebalance
      split
      · exact .ok rfl
      · exact .ok ht
    | cons up rest =>
      unfold Arb.rebalance
      dsimp only
      split
      · exact .ok ht
      · refine .bind fun sib _ => ?_
        split
        · exact ih rfl
        · split
          · exact ih rfl
          · exact ih rfl

theorem unlink_struct {t : Arb} {i next : Nat} {st : AStep} {up : List AStep} {ch : List (Nat × Nat)} :
    Restructures (t.unlink i next st up ch) := by
  unfold Arb.unlink
  split
  next h =>
    obtain ⟨hup, hch⟩ := h
    obtain rfl := List.isEmpty_iff.mp hup
    unfold Arb.rebalance
    rw [if_pos hch]
    exact .ok rfl
  · refine .bind fun prev _ => ?_
    cases prev with
    | none => exact rebalance_struct rfl
    | some p => exact rebalance_struct rfl

theorem merge_struct {t : Arb} {ei li p : Nat} {e l : ANode} {st : AStep} {up : List AStep} :
    Restructures (t.merge ei e li l p st up) := by
  unfold Arb.merge
  dsimp only
  split
  · exact unlink_struct
  · exact rebalance_struct rfl

/-! ### Entries of a leaf -/

/-- The value of a key among entries; zero when it is absent (R311). -/
def valueIn (es : List (Nat × Nat)) (k : Nat) : Nat :=
  match es.find? fun p => p.1 == k with
  | some p => p.2
  | none => 0

theorem value_eq (f : AFound) (k : Nat) : f.value k = valueIn f.leaf.ents k := rfl

theorem valueIn_nil (k : Nat) : valueIn [] k = 0 := rfl

theorem valueIn_cons (p : Nat × Nat) (es : List (Nat × Nat)) (k : Nat) :
    valueIn (p :: es) k = if p.1 = k then p.2 else valueIn es k := by
  by_cases h : p.1 = k
  · simp [valueIn, h]
  · have hb : (p.1 == k) = false := beq_eq_false_iff_ne.mpr h
    simp [valueIn, h, hb]

/-- An absent key has the value zero. -/
theorem valueIn_absent {es : List (Nat × Nat)} {k : Nat} (h : ∀ p ∈ es, p.1 ≠ k) : valueIn es k = 0 := by
  induction es with
  | nil => rfl
  | cons p es ih =>
    rw [valueIn_cons, if_neg (h p List.mem_cons_self)]
    exact ih fun q hq => h q (List.mem_cons_of_mem p hq)

/-- An entry among entries of rising keys is the value of its key. -/
theorem valueIn_mem {es : List (Nat × Nat)} (hr : (es.map (·.1)).Pairwise (· < ·)) {p : Nat × Nat} (hp : p ∈ es) :
    valueIn es p.1 = p.2 := by
  induction es with
  | nil => exact absurd hp List.not_mem_nil
  | cons q es ih =>
    obtain ⟨hlt, hr'⟩ := List.pairwise_cons.mp hr
    rw [valueIn_cons]
    rcases List.mem_cons.mp hp with rfl | hmem
    · exact if_pos rfl
    · have hne : q.1 < p.1 := hlt p.1 (List.mem_map_of_mem hmem)
      rw [if_neg (by omega)]
      exact ih hr' hmem

/-- The entries of a leaf after a store of a value under a key: rising as they were, in the leaf's limits, with the value
under the key and every other key as it was. -/
structure LeafEdit (ents es : List (Nat × Nat)) (k v : Nat) : Prop where
  rising : (es.map (·.1)).Pairwise (· < ·)
  short : es.length ≤ 30
  from_ : ∀ p ∈ es, p ∈ ents ∨ p = (k, v)
  value : valueIn es k = v
  others : ∀ j, j ≠ k → valueIn es j = valueIn ents j

/-- Entries with the value of a key replaced. -/
def setValue (k v : Nat) (es : List (Nat × Nat)) : List (Nat × Nat) := es.map fun p => if p.1 = k then (k, v) else p

theorem setValue_keys (k v : Nat) (es : List (Nat × Nat)) : (setValue k v es).map (·.1) = es.map (·.1) := by
  rw [setValue, List.map_map]
  refine List.map_congr_left fun p _ => ?_
  simp only [Function.comp_apply]
  split
  next h => exact h.symm
  next => rfl

theorem valueIn_setValue (k v : Nat) (es : List (Nat × Nat)) (j : Nat) :
    valueIn (setValue k v es) j = if j = k ∧ ∃ p ∈ es, p.1 = k then v else valueIn es j := by
  induction es with
  | nil => simp [setValue, valueIn_nil]
  | cons p es ih =>
    rw [show setValue k v (p :: es) = (if p.1 = k then (k, v) else p) :: setValue k v es from rfl, valueIn_cons, valueIn_cons, ih]
    by_cases hp : p.1 = k
    · by_cases hj : j = k
      · simp [hp, hj]
      · simp [hp, hj, Ne.symm hj]
    · by_cases hj : p.1 = j
      · have hjk : j ≠ k := fun h => hp (hj.trans h)
        simp [hj, hjk]
      · have hex : (∃ q ∈ p :: es, q.1 = k) ↔ ∃ q ∈ es, q.1 = k :=
          ⟨fun ⟨q, hq, he⟩ => ⟨q, (List.mem_cons.mp hq).resolve_left fun h => hp (h ▸ he), he⟩,
            fun ⟨q, hq, he⟩ => ⟨q, List.mem_cons_of_mem p hq, he⟩⟩
        simp only [hex, if_neg hp, if_neg hj]

theorem setValue_edit {ents : List (Nat × Nat)} {k v : Nat} (hr : (ents.map (·.1)).Pairwise (· < ·)) (hn : ents.length ≤ 30)
    (hk : ∃ p ∈ ents, p.1 = k) : LeafEdit ents (setValue k v ents) k v where
  rising := by rw [setValue_keys]; exact hr
  short := by rw [setValue, List.length_map]; exact hn
  from_ p hp := by
    obtain ⟨q, hq, rfl⟩ := List.mem_map.mp hp
    split
    · exact .inr rfl
    · exact .inl hq
  value := by rw [valueIn_setValue, if_pos ⟨rfl, hk⟩]
  others j hj := by rw [valueIn_setValue, if_neg fun h => hj h.1]

theorem mem_insertKey {k v : Nat} {p : Nat × Nat} : ∀ {es : List (Nat × Nat)}, p ∈ insertKey k v es ↔ p = (k, v) ∨ p ∈ es
  | [] => by simp [insertKey]
  | q :: es => by
    unfold insertKey
    split
    · simp
    · simp only [List.mem_cons, mem_insertKey (es := es)]
      exact or_left_comm

theorem insertKey_rising {k v : Nat} : ∀ {es : List (Nat × Nat)}, (es.map (·.1)).Pairwise (· < ·) → (∀ p ∈ es, p.1 ≠ k) →
    ((insertKey k v es).map (·.1)).Pairwise (· < ·)
  | [], _, _ => by simp [insertKey]
  | q :: es, hr, hk => by
    obtain ⟨hlt, hr'⟩ := List.pairwise_cons.mp hr
    rw [List.forall_mem_map] at hlt
    unfold insertKey
    split
    next hlow =>
      refine List.pairwise_cons.mpr ⟨List.forall_mem_map.mpr fun p hp => ?_, hr⟩
      rcases List.mem_cons.mp hp with rfl | hmem
      · exact hlow
      · exact hlow.trans (hlt p hmem)
    next hhigh =>
      have hq := hk q List.mem_cons_self
      refine List.pairwise_cons.mpr ⟨List.forall_mem_map.mpr fun p hp => ?_,
        insertKey_rising hr' fun p hp => hk p (List.mem_cons_of_mem q hp)⟩
      rcases mem_insertKey.mp hp with rfl | hmem
      · show q.1 < k
        omega
      · exact hlt p hmem

theorem valueIn_insertKey {k v : Nat} (j : Nat) : ∀ {es : List (Nat × Nat)}, (∀ p ∈ es, p.1 ≠ k) →
    valueIn (insertKey k v es) j = if j = k then v else valueIn es j
  | [], _ => by simp [insertKey, valueIn_cons, eq_comm]
  | q :: es, hk => by
    have hq := hk q List.mem_cons_self
    unfold insertKey
    split
    · rw [valueIn_cons]
      simp only [eq_comm]
    · rw [valueIn_cons, valueIn_cons, valueIn_insertKey j fun p hp => hk p (List.mem_cons_of_mem q hp)]
      by_cases hj : q.1 = j
      · rw [if_pos hj, if_neg (by omega), if_pos hj]
      · rw [if_neg hj, if_neg hj]

theorem insertKey_edit {ents : List (Nat × Nat)} {k v : Nat} (hr : (ents.map (·.1)).Pairwise (· < ·))
    (hn : (insertKey k v ents).length ≤ 30) (hk : ∀ p ∈ ents, p.1 ≠ k) : LeafEdit ents (insertKey k v ents) k v where
  rising := insertKey_rising hr hk
  short := hn
  from_ _ hp := (mem_insertKey.mp hp).symm
  value := by rw [valueIn_insertKey k hk, if_pos rfl]
  others j hj := by rw [valueIn_insertKey j hk, if_neg hj]

theorem valueIn_filter (k j : Nat) (es : List (Nat × Nat)) :
    valueIn (es.filter fun p => p.1 != k) j = if j = k then 0 else valueIn es j := by
  induction es with
  | nil => simp [valueIn_nil]
  | cons p es ih =>
    rw [valueIn_cons]
    by_cases hp : p.1 = k
    · rw [List.filter_cons_of_neg (by simp [hp]), ih]
      by_cases hj : j = k
      · rw [if_pos hj, if_pos hj]
      · rw [if_neg hj, if_neg hj, if_neg (by omega)]
    · rw [List.filter_cons_of_pos (by simp [hp]), valueIn_cons, ih]
      by_cases hj : p.1 = j
      · rw [if_pos hj, if_neg (by omega), if_pos hj]
      · rw [if_neg hj, if_neg hj]

theorem filter_edit {ents : List (Nat × Nat)} {k : Nat} (hr : (ents.map (·.1)).Pairwise (· < ·)) (hn : ents.length ≤ 30) :
    LeafEdit ents (ents.filter fun p => p.1 != k) k 0 where
  rising := hr.sublist (List.filter_sublist.map _)
  short := (List.length_filter_le _ _).trans hn
  from_ _ hp := .inl (List.mem_filter.mp hp).1
  value := by rw [valueIn_filter, if_pos rfl]
  others j hj := by rw [valueIn_filter, if_neg hj]

/-! ### A store that takes and frees no node -/

/-- An arbor with the entries of one leaf changed, and its count of entries. -/
def Arb.edited (t : Arb) (f : AFound) (es : List (Nat × Nat)) (nent : Nat) : Arb :=
  { t.put f.i { f.leaf with ents := es } with nent }

theorem not_struct {x : Except AErr Arb} (h : Restructures x) {t1 : Arb} (hx : x = .ok t1) (hflat : t1.struct = false) : False :=
  Bool.false_ne_true (hflat.symm.trans (h t1 hx))

theorem insert_flat {t t1 : Arb} {f : AFound} {k v : Nat} (h : t.insert f k v = .ok t1) (hflat : t1.struct = false) :
    (insertKey k v f.leaf.ents).length ≤ 30 ∧ t1 = t.edited f (insertKey k v f.leaf.ents) (t.nent + 1) := by
  unfold Arb.insert at h
  dsimp only at h
  split at h
  next hshort => exact ⟨hshort, (Except.ok.inj h).symm⟩
  next =>
    split at h
    · exact absurd h nofun
    · exact (not_struct (.alloc fun u i hu => by refine addChild_struct ?_; exact hu) h hflat).elim

theorem delete_flat {t t1 : Arb} {f : AFound} {k : Nat} (h : t.delete f k = .ok t1) (hflat : t1.struct = false) :
    t1 = t.edited f (f.leaf.ents.filter fun p => p.1 != k) (t.nent - 1) := by
  unfold Arb.delete at h
  dsimp only at h
  split at h
  · exact (Except.ok.inj h).symm
  · obtain ⟨sib, -, h⟩ := except_bind_ok h
    split at h
    · split at h
      · exact (not_struct merge_struct h hflat).elim
      · exact (not_struct merge_struct h hflat).elim
    · split at h
      · exact (not_struct unlink_struct h hflat).elim
      · exact (Except.ok.inj h).symm

/-- The limits of a leaf that a search has found. -/
def AFound.Leaf (f : AFound) : Prop := (f.leaf.ents.map (·.1)).Pairwise (· < ·) ∧ f.leaf.ents.length ≤ 30

/-- What a store that takes and frees no node changes: nothing, or the entries of the leaf of its key. -/
theorem store_flat {t t1 : Arb} {k v : Nat} (h : t.store k v = .ok t1) (hflat : t1.struct = false) :
    ∃ f, t.find k = .ok f ∧ (f.Leaf → (t1 = t ∧ f.value k = if t.isZero v then 0 else v) ∨
      ∃ es n, LeafEdit f.leaf.ents es k (if t.isZero v then 0 else v) ∧ t1 = t.edited f es n) := by
  unfold Arb.store at h
  obtain ⟨f, hf, h⟩ := except_bind_ok h
  refine ⟨f, hf, fun ⟨hrise, hlen⟩ => ?_⟩
  have hhas : f.has k = true ↔ ∃ p ∈ f.leaf.ents, p.1 = k := by simp [AFound.has]
  by_cases hz : t.isZero v = true
  · rw [if_pos hz] at h ⊢
    by_cases hk : f.has k = true
    · rw [if_pos hk] at h
      exact .inr ⟨_, _, filter_edit hrise hlen, delete_flat h hflat⟩
    · rw [if_neg hk] at h
      refine .inl ⟨(Except.ok.inj h).symm, valueIn_absent fun p hp he => hk (hhas.mpr ⟨p, hp, he⟩)⟩
  · rw [if_neg hz] at h ⊢
    by_cases hk : f.has k = true
    · rw [if_pos hk] at h
      exact .inr ⟨_, t.nent, setValue_edit hrise hlen (hhas.mp hk), (Except.ok.inj h).symm⟩
    · rw [if_neg hk] at h
      obtain ⟨hshort, ht1⟩ := insert_flat h hflat
      exact .inr ⟨_, _, insertKey_edit hrise hshort fun p hp he => hk (hhas.mpr ⟨p, hp, he⟩), ht1⟩

end Sys2Proof.Machine
end

section
/-! SUPPORT. Searches in an arbor of which one leaf has changed (R313, R323): the bounds of a search, nodes beside the leaf, the
words of the leaf and of the header after a store, and the value of each key. -/
namespace Sys2Proof.Machine
open Sys2Proof Sys2Proof.Safety

/-! ### The bounds of a search -/

theorem takeWhile_stop {α : Type} (P : α → Bool) {p : α} : ∀ {l : List α}, l[(l.takeWhile P).length]? = some p → P p = false
  | [], h => absurd h nofun
  | x :: l, h => by
    by_cases hx : P x = true
    · rw [List.takeWhile_cons_of_pos hx, List.length_cons, List.getElem?_cons_succ] at h
      exact takeWhile_stop P h
    · rw [List.takeWhile_cons_of_neg hx] at h
      obtain rfl := Option.some.inj h
      exact eq_false_of_ne_true hx

theorem takeWhile_holds {α : Type} (P : α → Bool) {l : List α} {k : Nat} (h : k < (l.takeWhile P).length) (d : α) :
    P (l.getD k d) = true := by
  have hpre := List.takeWhile_prefix P (l := l)
  have hlt : k < l.length := lt_of_lt_of_le h hpre.length_le
  rw [List.getD_eq_getElem _ _ hlt, ← hpre.getElem h]
  exact List.mem_takeWhile_imp (List.getElem_mem h)

theorem getD_drop_one {α : Type} (l : List α) (k : Nat) (d : α) : (l.drop 1).getD k d = l.getD (k + 1) d := by
  cases l <;> rfl

/-- The child that a key belongs to has bounds around the key. -/
theorem child_bounds {n : ANode} {i lo hi k : Nat} (hlo : lo ≤ k) (hhi : k < hi) :
    childLo ⟨i, n, childPos n.ents k, lo, hi⟩ (childPos n.ents k) ≤ k ∧ k < childHi ⟨i, n, childPos n.ents k, lo, hi⟩ (childPos n.ents k) := by
  constructor
  · unfold childLo
    split
    · exact hlo
    next hpos =>
      have hin : childPos n.ents k - 1 < childPos n.ents k := by omega
      have hsep := takeWhile_holds (fun p : Nat × Nat => decide (p.1 ≤ k)) hin (0, 0)
      rw [getD_drop_one, Nat.sub_add_cancel (by omega)] at hsep
      exact of_decide_eq_true hsep
  · unfold childHi
    split
    next p hp =>
      have hstop := takeWhile_stop (fun p : Nat × Nat => decide (p.1 ≤ k)) (l := n.ents.drop 1) (p := p)
        (by rw [List.getElem?_drop, Nat.add_comm]; exact hp)
      have := of_decide_eq_false hstop
      omega
    · exact hhi

theorem descend_zero {t : Arb} {k i lo hi : Nat} {path : List AStep} {f : AFound} (h : t.descend k 0 i lo hi path = .ok f) :
    ∃ n, t.node i 0 lo hi = .ok n ∧ f = ⟨path, i, n, lo, hi⟩ := by
  obtain ⟨n, hn, h⟩ := except_bind_ok h
  exact ⟨n, hn, (Except.ok.inj h).symm⟩

theorem descend_succ {t : Arb} {k level i lo hi : Nat} {path : List AStep} {f : AFound}
    (h : t.descend k (level + 1) i lo hi path = .ok f) : ∃ n, t.node i (level + 1) lo hi = .ok n ∧
      t.descend k level (n.ents.getD (childPos n.ents k) (0, 0)).2 (childLo ⟨i, n, childPos n.ents k, lo, hi⟩ (childPos n.ents k))
        (childHi ⟨i, n, childPos n.ents k, lo, hi⟩ (childPos n.ents k)) (⟨i, n, childPos n.ents k, lo, hi⟩ :: path) = .ok f :=
  except_bind_ok h

theorem descend_of_node {t : Arb} {k level i lo hi : Nat} {path : List AStep} {n : ANode}
    (h : t.node i (level + 1) lo hi = .ok n) : t.descend k (level + 1) i lo hi path =
      t.descend k level (n.ents.getD (childPos n.ents k) (0, 0)).2 (childLo ⟨i, n, childPos n.ents k, lo, hi⟩ (childPos n.ents k))
        (childHi ⟨i, n, childPos n.ents k, lo, hi⟩ (childPos n.ents k)) (⟨i, n, childPos n.ents k, lo, hi⟩ :: path) := by
  rw [Arb.descend, h]
  rfl

theorem descend_of_leaf {t : Arb} {k i lo hi : Nat} {path : List AStep} {n : ANode} (h : t.node i 0 lo hi = .ok n) :
    t.descend k 0 i lo hi path = .ok ⟨path, i, n, lo, hi⟩ := by
  rw [Arb.descend, h]
  rfl

/-- A search ends at a leaf that was read. -/
theorem descend_leaf {t : Arb} {k : Nat} {f : AFound} : ∀ {level i lo hi : Nat} {path : List AStep},
    t.descend k level i lo hi path = .ok f → t.node f.i 0 f.lo f.hi = .ok f.leaf
  | 0, _, _, _, _, h => by
    obtain ⟨n, hn, rfl⟩ := descend_zero h
    exact hn
  | _ + 1, _, _, _, _, h => by
    obtain ⟨n, -, h⟩ := descend_succ h
    exact descend_leaf h

/-- A search ends at a leaf with bounds around its key. -/
theorem descend_bounds {t : Arb} {k : Nat} {f : AFound} : ∀ {level i lo hi : Nat} {path : List AStep},
    t.descend k level i lo hi path = .ok f → lo ≤ k → k < hi → f.lo ≤ k ∧ k < f.hi
  | 0, _, _, _, _, h, hlo, hhi => by
    obtain ⟨n, -, rfl⟩ := descend_zero h
    exact ⟨hlo, hhi⟩
  | _ + 1, _, _, _, _, h, hlo, hhi => by
    obtain ⟨n, -, h⟩ := descend_succ h
    obtain ⟨hlo', hhi'⟩ := child_bounds hlo hhi
    exact descend_bounds h hlo' hhi'

/-! ### Nodes beside a leaf -/

/-- Two arbors whose nodes differ at most in one. -/
structure Arb.Beside (t t2 : Arb) (i0 : Nat) : Prop where
  hdr : t2.hdr = t.hdr
  nn : t2.nn = t.nn
  bad : t2.s.bad = t.s.bad
  unwritten : ∀ i, ¬ t2.written i
  words : ∀ i k, i ≠ i0 → 0 < i → k < 32 → arborWord t2.s t2.hdr i k = arborWord t.s t.hdr i k

/-- The places of an arbor's words that hold a node's entries. -/
theorem fits_count {t : Arb} {i level lo hi : Nat} (h : t.fits i level lo hi = true) :
    (if level = 0 then 2 else 1) + fld (arborWord t.s t.hdr i 0) 48 8 ≤ 32 := by
  obtain ⟨hfits, -⟩ := fits_iff.mp h
  have hlen : (t.reads i level).ents.length = fld (arborWord t.s t.hdr i 0) 48 8 := by simp [Arb.reads]
  rw [← hlen]
  split
  next hl =>
    have := (hfits.leaf hl).1
    omega
  next hl =>
    have := (hfits.inner hl).2.1
    omega

theorem nodeBad_congr {s s' : State} (h : s'.bad = s.bad) (a : Nat) : nodeBad s' a = nodeBad s a := by
  simp only [nodeBad, State.isBad, h]

/-- Another node reads the same. -/
theorem node_beside {t t2 : Arb} {i0 i level lo hi : Nat} {n : ANode} (h : t.Beside t2 i0) (hne : i ≠ i0)
    (hn : t.node i level lo hi = .ok n) : t2.node i level lo hi = .ok n := by
  obtain ⟨-, hpos, hnn, hbad, hfits, rfl⟩ := node_ok hn
  have hcount := fits_count hfits
  have hw : ∀ k, k < 32 → arborWord t2.s t2.hdr i k = arborWord t.s t.hdr i k := fun k hk => h.words i k hne hpos hk
  have hreads : t2.reads i level = t.reads i level := by
    have hents : (List.range (fld (arborWord t.s t.hdr i 0) 48 8)).map (fun k =>
        pairOf (arborWord t2.s t2.hdr i ((if level = 0 then 2 else 1) + k))) = (t.reads i level).ents :=
      List.map_congr_left fun k hk => by
        have := List.mem_range.mp hk
        rw [hw _ (by omega)]
    simp only [Arb.reads, hw 0 (by decide), hw 1 (by decide)]
    rw [hents]
    rfl
  obtain ⟨hnode, hplain⟩ := fits_iff.mp hfits
  have hfits2 : t2.fits i level lo hi = true := by
    refine fits_iff.mpr ⟨?_, ?_⟩
    · rw [hreads, h.nn]
      exact hnode
    · refine ⟨?_, ?_, ?_, fun w h1 h2 => ?_⟩
      · rw [hw 0 (by decide)]; exact hplain.place
      · rw [hw 0 (by decide)]; exact hplain.high
      · rw [hw 0 (by decide)]; exact hplain.low
      · rw [hw 0 (by decide)] at h1
        rw [hw w h2]
        exact hplain.rest w h1 h2
  rw [← hreads]
  refine node_good (h.unwritten i) hpos (by rw [h.nn]; exact hnn) ?_ hfits2
  rw [nodeBad_congr h.bad, h.hdr]
  exact hbad

/-- A node that reads as a leaf is no interior node. -/
theorem leaf_not_inner {t : Arb} {i lo hi level lo' hi' : Nat} {n n' : ANode} (h : t.node i 0 lo hi = .ok n)
    (h' : t.node i (level + 1) lo' hi' = .ok n') : False := by
  obtain ⟨-, -, -, -, hfits, rfl⟩ := node_ok h
  obtain ⟨-, -, -, -, hfits', rfl⟩ := node_ok h'
  have hkind : fld (arborWord t.s t.hdr i 0) 62 2 = 1 := (fits_iff.mp hfits).1.kind
  have hkind' : fld (arborWord t.s t.hdr i 0) 62 2 = 2 := (fits_iff.mp hfits').1.kind
  omega

section
variable {t t2 : Arb} {i0 lo0 hi0 : Nat} {n0 : ANode} (hb : t.Beside t2 i0) (h0 : t.node i0 0 lo0 hi0 = .ok n0)
include hb h0

/-- A search for a key of the changed leaf ends there. -/
theorem descend_changed {k : Nat} {f : AFound} {leaf : ANode} : ∀ {level i lo hi : Nat} {path : List AStep},
    t.descend k level i lo hi path = .ok f → f.i = i0 → t2.node i0 0 f.lo f.hi = .ok leaf →
      t2.descend k level i lo hi path = .ok { f with leaf }
  | 0, _, _, _, _, h, hi, hleaf => by
    obtain ⟨n, -, rfl⟩ := descend_zero h
    obtain rfl := hi
    exact descend_of_leaf hleaf
  | _ + 1, i, _, _, _, h, hi, hleaf => by
    obtain ⟨n, hn, h⟩ := descend_succ h
    have hne : i ≠ i0 := fun he => leaf_not_inner h0 (he ▸ hn)
    rw [descend_of_node (node_beside hb hne hn)]
    exact descend_changed h hi hleaf

/-- A search ends at the same place in both arbors, and at the same leaf but for the changed one. -/
theorem descend_others {j : Nat} {f f' : AFound} : ∀ {level i lo hi : Nat} {path : List AStep},
    t.descend j level i lo hi path = .ok f → t2.descend j level i lo hi path = .ok f' →
      f'.i = f.i ∧ (f.i ≠ i0 → f'.leaf = f.leaf)
  | 0, i, _, _, _, h, h' => by
    obtain ⟨n, hn, rfl⟩ := descend_zero h
    obtain ⟨n', hn', rfl⟩ := descend_zero h'
    refine ⟨rfl, fun hne => ?_⟩
    exact Except.ok.inj (hn'.symm.trans (node_beside hb hne hn))
  | _ + 1, i, _, _, _, h, h' => by
    obtain ⟨n, hn, h⟩ := descend_succ h
    obtain ⟨n', hn', h'⟩ := descend_succ h'
    have hne : i ≠ i0 := fun he => leaf_not_inner h0 (he ▸ hn)
    obtain rfl := Except.ok.inj (hn'.symm.trans (node_beside hb hne hn))
    exact descend_others h h'

end

end Sys2Proof.Machine
end

section
/-! SUPPORT. What an arbor's operation that took and freed no node writes (R317, R323): the words of a leaf, those of the
header, and the arbor that is read again. -/
namespace Sys2Proof.Machine
open Sys2Proof Sys2Proof.Safety

/-! ### Words written one after another -/

theorem setDel_absent {a : Nat} : ∀ {l : List Nat}, setHas l a = false → setDel l a = l
  | [], _ => rfl
  | k :: r, h => by
    rw [setHas] at h
    rw [setDel]
    split at h
    · exact absurd h.symm Bool.false_ne_true
    next hne =>
      split at h
      next hlt => rw [if_pos hlt]
      next hge => rw [if_neg hge, if_neg hne, setDel_absent h]

section
variable {s : State} {a : Nat}

/-- Words that had no error leave the errors as they are. -/
theorem putWords_bad : ∀ (ws : List Word) (s : State) (a : Nat), (∀ k, k < ws.length → s.isBad (a + 8 * k) = false) →
    (s.putWords a ws).bad = s.bad
  | [], _, _, _ => rfl
  | w :: ws, s, a, h => by
    have hbad : (s.putWord a w).bad = s.bad := setDel_absent (h 0 (Nat.succ_pos _))
    refine (putWords_bad ws (s.putWord a w) (a + 8) fun k hk => ?_).trans hbad
    rw [State.isBad, hbad, show a + 8 + 8 * k = a + 8 * (k + 1) by omega]
    exact h (k + 1) (Nat.succ_lt_succ hk)

/-- A word elsewhere is as it was. -/
theorem putWords_word_other (hm : Memory.wf s.mem = true) (ws : List Word) {b : Nat} (hb : b + 8 ≤ a ∨ a + 8 * ws.length ≤ b) :
    (s.putWords a ws).word b = s.word b := word_of_onlyBytes (putWords_onlyBytes ws s a hm) hb

/-- Words that were written read back. -/
theorem putWords_word : ∀ (ws : List Word) (s : State) (a k : Nat), Memory.wf s.mem = true → k < ws.length →
    (s.putWords a ws).word (a + 8 * k) = ws.getD k 0
  | [], _, _, _, _, h => absurd h (Nat.not_lt_zero _)
  | w :: ws, s, a, 0, hm, _ => by
    have hother := putWords_word_other (s := s.putWord a w) (a := a + 8) (b := a) (putWord_wf s a w hm) ws (.inl (le_refl _))
    exact hother.trans (word_putWord s a w hm)
  | w :: ws, s, a, k + 1, hm, hk => by
    have hrest := putWords_word ws (s.putWord a w) (a + 8) k (putWord_wf s a w hm) (Nat.lt_of_succ_lt_succ hk)
    rw [show a + 8 * (k + 1) = a + 8 + 8 * k by omega]
    exact hrest

end

/-! ### The words of a leaf -/

theorem fld_lt (w : Word) (lo n : Nat) : fld w lo n < 2 ^ n := Nat.mod_lt _ (by positivity)

/-- A word of two numbers of 32 bits. -/
theorem pairOf_ofNat {x y : Nat} (hx : x < 2 ^ 32) (hy : y < 2 ^ 32) : pairOf (BitVec.ofNat 64 (x * 2 ^ 32 + y)) = (x, y) := by
  have hw : x * 2 ^ 32 + y < 2 ^ 64 := by omega
  rw [pairOf, fld_ofNat_of_lt hw, fld_ofNat_of_lt hw]
  exact Prod.ext (by omega) (by omega)

/-- The entries of a leaf as words. -/
def entWords (es : List (Nat × Nat)) : List Word := es.map fun p => BitVec.ofNat 64 (p.1 * 2 ^ 32 + p.2)

section
variable {n : ANode} (hkind : n.kind = 1) (hlevel : n.level = 0)
include hkind hlevel

/-- The words of a leaf. -/
theorem leaf_words_eq : n.words =
    (BitVec.ofNat 64 (1 * 2 ^ 62 + n.ents.length * 2 ^ 48 + 0 * 2 ^ 40) :: BitVec.ofNat 64 n.next :: entWords n.ents ++ List.replicate 32 0).take 32 := by
  simp only [ANode.words, hkind, hlevel, entWords]
  rw [if_neg (by decide), if_neg (by decide)]

theorem length_leaf_words : n.words.length = 32 := by
  rw [leaf_words_eq hkind hlevel, List.length_take, List.length_append, List.length_replicate]
  omega

theorem leaf_word_entry {k : Nat} (hlen : n.ents.length ≤ 30) (hk : k < n.ents.length) :
    n.words.getD (2 + k) 0 = BitVec.ofNat 64 ((n.ents.getD k (0, 0)).1 * 2 ^ 32 + (n.ents.getD k (0, 0)).2) := by
  rw [leaf_words_eq hkind hlevel, List.getD_eq_getElem?_getD, List.getElem?_take_of_lt (by omega), Nat.add_comm 2 k]
  have hin : k < (entWords n.ents).length := by simpa [entWords] using hk
  simp only [List.cons_append, List.getElem?_cons_succ]
  rw [List.getElem?_append_left hin, List.getD_eq_getElem?_getD, entWords, List.getElem?_map, List.getElem?_eq_getElem hk]
  rfl

theorem leaf_word_rest {k : Nat} (hk : 2 + n.ents.length ≤ k) : n.words.getD k 0 = 0 := by
  obtain ⟨j, rfl⟩ : ∃ j, k = 2 + (n.ents.length + j) := ⟨k - 2 - n.ents.length, by omega⟩
  rw [leaf_words_eq hkind hlevel, List.getD_eq_getElem?_getD, List.getElem?_take]
  split
  · rw [Nat.add_comm 2]
    simp only [List.cons_append, List.getElem?_cons_succ]
    rw [List.getElem?_append_right (by simp [entWords])]
    rw [List.getElem?_replicate]
    split <;> rfl
  · rfl

end

/-- What a leaf's words hold. -/
theorem leaf_head {w0 w1 : Word} {n : ANode} (hkind : n.kind = 1) (hlevel : n.level = 0) (hlen : n.ents.length ≤ 30)
    (h0 : w0 = n.words.getD 0 0) (h1 : w1 = n.words.getD 1 0) (hnext : n.next < 2 ^ 64) :
    fld w0 62 2 = 1 ∧ fld w0 40 8 = 0 ∧ fld w0 56 6 = 0 ∧ fld w0 0 40 = 0 ∧ fld w0 48 8 = n.ents.length ∧ w1.toNat = n.next := by
  have hw0 : w0 = BitVec.ofNat 64 (1 * 2 ^ 62 + n.ents.length * 2 ^ 48 + 0 * 2 ^ 40) := h0.trans (by rw [leaf_words_eq hkind hlevel]; rfl)
  have hw1 : w1 = BitVec.ofNat 64 n.next := h1.trans (by rw [leaf_words_eq hkind hlevel]; rfl)
  have hlt : 1 * 2 ^ 62 + n.ents.length * 2 ^ 48 + 0 * 2 ^ 40 < 2 ^ 64 := by omega
  rw [hw0, hw1, BitVec.toNat_ofNat, Nat.mod_eq_of_lt hnext]
  simp only [fld_ofNat_of_lt hlt]
  exact ⟨by omega, by omega, by omega, by omega, by omega, trivial⟩

/-- A leaf that was written in its place reads back. -/
theorem node_written {t : Arb} {i lo hi : Nat} {n : ANode} (hw : ¬ t.written i) (hpos : 0 < i) (hnn : i < t.nn)
    (hbad : nodeBad t.s (t.hdr + 256 * i) = false) (hwords : ∀ k, k < 32 → arborWord t.s t.hdr i k = n.words.getD k 0)
    (hfits : n.Fits t.nn 0 lo hi) (hnext : n.next < 2 ^ 64) (h32 : ∀ p ∈ n.ents, p.1 < 2 ^ 32 ∧ p.2 < 2 ^ 32) :
    t.node i 0 lo hi = .ok n := by
  have hkind : n.kind = 1 := hfits.kind
  obtain ⟨hlen, -, -⟩ := hfits.leaf rfl
  obtain ⟨h62, h40, h56, h0, h48, hnextw⟩ := leaf_head hkind hfits.place hlen (hwords 0 (by decide)) (hwords 1 (by decide)) hnext
  have hents : (t.reads i 0).ents = n.ents := by
    refine List.ext_getElem (by simp [Arb.reads, h48]) fun k hk hk' => ?_
    simp only [Arb.reads, if_true, List.getElem_map, List.getElem_range]
    obtain ⟨hp1, hp2⟩ := h32 n.ents[k] (List.getElem_mem hk')
    rw [hwords _ (by omega), leaf_word_entry hkind hfits.place hlen hk', List.getD_eq_getElem _ _ hk', pairOf_ofNat hp1 hp2]
  have hreads : t.reads i 0 = n := by
    have hnext' : (t.reads i 0).next = n.next := hnextw
    have hkind' : (t.reads i 0).kind = n.kind := h62.trans hkind.symm
    have hlevel' : (t.reads i 0).level = n.level := hfits.place.symm
    cases n
    exact congr (congr (congr (congrArg ANode.mk hkind') hlevel') hnext') hents
  have hfit : t.fits i 0 lo hi = true := by
    refine fits_iff.mpr ⟨by rw [hreads]; exact hfits, h40, h56, h0, fun w h1 h2 => ?_⟩
    rw [hwords w h2]
    rw [h48] at h1
    exact leaf_word_rest hkind hfits.place h1
  rw [node_good hw hpos hnn hbad hfit, hreads]

end Sys2Proof.Machine
end

section
/-! SUPPORT. An arbor that is read again after a store that took and freed no node (R317, R323). -/
namespace Sys2Proof.Machine
open Sys2Proof Sys2Proof.Safety

/-! ### The header again -/

theorem readArb_ok {s : State} {hdr size : Nat} {t : Arb} (h : readArb s hdr size = .ok t) : nodeBad s hdr = false ∧
    headerGood (arborWord s hdr 0 0) (arborWord s hdr 0 1) (headerRest s hdr) size = true ∧ t = arborOf s hdr := by
  rw [readArb_eq] at h
  split at h
  · exact absurd h nofun
  next hbad =>
    split at h
    next hgood => exact ⟨eq_false_of_ne_true hbad, hgood, (Except.ok.inj h).symm⟩
    · exact absurd h nofun

/-- The header words of an operation that keeps the root and the height. -/
def headAgain (s : State) (hdr : Nat) (h2 h3 : Word) : List Word :=
  [setFld (arborWord s hdr 0 0) 24 8 (arborOf s hdr).height,
    BitVec.ofNat 64 ((arborOf s hdr).root * 2 ^ 32 + (arborOf s hdr).free), h2, h3]

/-- Two arbors have the same place, size, root and height, and no node of theirs is written. -/
structure Arb.SameShape (t t2 : Arb) : Prop where
  hdr : t2.hdr = t.hdr
  nn : t2.nn = t.nn
  root : t2.root = t.root
  height : t2.height = t.height
  unwritten : ∀ i, ¬ t2.written i

section
variable {s s1 : State} {hdr size : Nat} {t : Arb} (ht : readArb s hdr size = .ok t) (hm : Memory.wf s1.mem = true)
  (hbad : s1.bad = s.bad) (hsame : ∀ k, k < 32 → arborWord s1 hdr 0 k = arborWord s hdr 0 k) (h2 h3 : Word)
include ht hm hbad hsame

theorem header_again {s' : State} (hmem' : s'.mem = (s1.putWords hdr (headAgain s hdr h2 h3)).mem)
    (hbad' : s'.bad = (s1.putWords hdr (headAgain s hdr h2 h3)).bad) :
    s'.bad = s.bad ∧ (∀ i k, 0 < i → arborWord s' hdr i k = arborWord s1 hdr i k) ∧
      readArb s' hdr size = .ok (arborOf s' hdr) ∧ t.SameShape (arborOf s' hdr) := by
  obtain ⟨hgoodbits, hgood, rfl⟩ := readArb_ok ht
  have hbits := (nodeBad_false s hdr).mp hgoodbits
  have hkeep : s'.bad = s.bad := by
    rw [hbad', putWords_bad _ s1 hdr fun k hk => ?_, hbad]
    rw [State.isBad, hbad]
    exact hbits k (lt_of_lt_of_le hk (by simp [headAgain]))
  have hword (b : Nat) : s'.word b = (s1.putWords hdr (headAgain s hdr h2 h3)).word b := word_of_mem hmem' b
  have hother : ∀ b, hdr + 32 ≤ b → s'.word b = s1.word b := fun b hb =>
    (hword b).trans (putWords_word_other hm _ (.inr hb))
  have hfirst : ∀ k, k < 4 → arborWord s' hdr 0 k = (headAgain s hdr h2 h3).getD k 0 := fun k hk =>
    (hword _).trans (putWords_word _ s1 hdr k hm hk)
  have hbehind : ∀ i k, 0 < i → arborWord s' hdr i k = arborWord s1 hdr i k := fun i k hi => hother _ (by omega)
  have hrest : headerRest s' hdr = headerRest s hdr := by
    unfold headerRest
    rw [Bool.eq_iff_iff, List.all_eq_true, List.all_eq_true]
    refine forall₂_congr fun k hk => ?_
    have hk' := List.mem_range.mp hk
    rw [← hsame (k + 4) (by omega), show arborWord s' hdr 0 (k + 4) = arborWord s1 hdr 0 (k + 4) from hother _ (by omega)]
  have hw0 : arborWord s' hdr 0 0 = setFld (arborWord s hdr 0 0) 24 8 (arborOf s hdr).height := hfirst 0 (by decide)
  have hw1 : arborWord s' hdr 0 1 = BitVec.ofNat 64 ((arborOf s hdr).root * 2 ^ 32 + (arborOf s hdr).free) :=
    hfirst 1 (by decide)
  have hroot : (arborOf s hdr).root < 2 ^ 32 := fld_lt _ _ _
  have hfree : (arborOf s hdr).free < 2 ^ 32 := fld_lt _ _ _
  have hpair := pairOf_ofNat hroot hfree
  rw [← hw1] at hpair
  have hroot' : fld (arborWord s' hdr 0 1) 32 32 = fld (arborWord s hdr 0 1) 32 32 := congrArg Prod.fst hpair
  have hfree' : fld (arborWord s' hdr 0 1) 0 32 = fld (arborWord s hdr 0 1) 0 32 := congrArg Prod.snd hpair
  have hheight : fld (arborWord s' hdr 0 0) 24 8 = fld (arborWord s hdr 0 0) 24 8 := by
    rw [hw0, fld_setFld (by decide)]
    exact Nat.mod_eq_of_lt (fld_lt _ _ _)
  have hfields : ∀ lo n, 24 + 8 ≤ lo ∨ lo + n ≤ 24 → fld (arborWord s' hdr 0 0) lo n = fld (arborWord s hdr 0 0) lo n :=
    fun lo n h => by rw [hw0, fld_setFld_other (by decide) _ _ h]
  have hgood' := (headerGood_congr (rest := headerRest s hdr) (size := size) (hfields 62 2 (by decide)) (hfields 58 4 (by decide))
    (hfields 56 2 (by decide)) (hfields 50 6 (by decide)) (hfields 44 6 (by decide)) (hfields 38 6 (by decide))
    (hfields 32 6 (by decide)) hheight (hfields 0 24 (by decide)) hroot' hfree').trans hgood
  refine ⟨hkeep, hbehind, ?_, rfl, hfields 0 24 (by decide), hroot', hheight, fun i h => ?_⟩
  · rw [readArb_eq, nodeBad_congr hkeep, hgoodbits, hrest, hgood']
    rfl
  · obtain ⟨m, hm⟩ := h
    exact absurd hm List.not_mem_nil

end

/-! ### A store that takes and frees no node -/

theorem writeBackSome_mem (s : State) (us : List DirtyNode) : ({ s with unwritten := us } : State).writeBackSome.mem = s.mem ∧
    ({ s with unwritten := us } : State).writeBackSome.bad = s.bad := ⟨rfl, rfl⟩

/-- What a commit leaves in memory. -/
theorem commit_write (t : Arb) : t.commit.mem = t.write.mem ∧ t.commit.bad = t.write.bad := writeBackSome_mem t.write _

/-- The last two header words of an operation. -/
def countWords (s : State) (hdr nent : Nat) : Word × Word :=
  (BitVec.ofNat 64 ((arborOf s hdr).nfree * 2 ^ 32 + nent), BitVec.ofNat 64 (arborOf s hdr).version)

theorem write_same (s : State) (hdr : Nat) : (arborOf s hdr).write = s.putWords hdr
    (headAgain s hdr (countWords s hdr (arborOf s hdr).nent).1 (countWords s hdr (arborOf s hdr).nent).2) := by
  unfold Arb.write Arb.header headAgain countWords
  rfl

theorem write_edited (s : State) (hdr : Nat) (f : AFound) (es : List (Nat × Nat)) (nent : Nat) :
    ((arborOf s hdr).edited f es nent).write =
      (s.putWords (hdr + 256 * f.i) ({ f.leaf with ents := es } : ANode).words).putWords hdr
        (headAgain s hdr (countWords s hdr nent).1 (countWords s hdr nent).2) := by
  unfold Arb.write Arb.header headAgain countWords
  rfl

theorem beside_of {s s' : State} {hdr i0 : Nat} (hshape : (arborOf s hdr).SameShape (arborOf s' hdr)) (hbad : s'.bad = s.bad)
    (hwords : ∀ i k, i ≠ i0 → 0 < i → k < 32 → arborWord s' hdr i k = arborWord s hdr i k) :
    (arborOf s hdr).Beside (arborOf s' hdr) i0 := ⟨hshape.hdr, hshape.nn, hbad, hshape.unwritten, hwords⟩

section
variable {s : State} {hdr size : Nat} {t : Arb} (ht : readArb s hdr size = .ok t) (hm : Memory.wf s.mem = true)
include ht hm

/-- An operation that changed nothing leaves every search as it was. -/
theorem commit_same : ∃ t2, readArb t.commit hdr size = .ok t2 ∧ t.SameShape t2 ∧ ∀ i, t.Beside t2 i := by
  obtain ⟨-, -, rfl⟩ := readArb_ok ht
  obtain ⟨hmem, hbad⟩ := commit_write (arborOf s hdr)
  rw [write_same] at hmem hbad
  obtain ⟨hkeep, hwords, hread, hshape⟩ := header_again ht hm rfl (fun _ _ => rfl) _ _ hmem hbad
  exact ⟨_, hread, hshape, fun i => beside_of hshape hkeep fun j k _ hj _ => hwords j k hj⟩

/-- A store into one leaf leaves the other nodes as they were and the leaf with its new entries. -/
theorem commit_edited {f : AFound} {es : List (Nat × Nat)} {nent : Nat} (hpos : 0 < f.i) (hnn : f.i < t.nn)
    (hgoodleaf : nodeBad s (hdr + 256 * f.i) = false) (hkind : f.leaf.kind = 1) (hlevel : f.leaf.level = 0) :
    ∃ t2, readArb (t.edited f es nent).commit hdr size = .ok t2 ∧ t.SameShape t2 ∧ t.Beside t2 f.i ∧
      (∀ k, k < 32 → arborWord t2.s t2.hdr f.i k = ({ f.leaf with ents := es } : ANode).words.getD k 0) := by
  obtain ⟨-, -, rfl⟩ := readArb_ok ht
  have hlen : ({ f.leaf with ents := es } : ANode).words.length = 32 := length_leaf_words hkind hlevel
  have hbits := (nodeBad_false s (hdr + 256 * f.i)).mp hgoodleaf
  have hm1 := putWords_wf ({ f.leaf with ents := es } : ANode).words s (hdr + 256 * f.i) hm
  have hbad1 : (s.putWords (hdr + 256 * f.i) ({ f.leaf with ents := es } : ANode).words).bad = s.bad :=
    putWords_bad _ s _ fun k hk => hbits k (by omega)
  have hother : ∀ j k, j ≠ f.i → k < 32 → arborWord (s.putWords (hdr + 256 * f.i) ({ f.leaf with ents := es } : ANode).words) hdr j k
      = arborWord s hdr j k := fun j k hj hk => by
    refine putWords_word_other hm _ ?_
    rw [hlen]
    omega
  obtain ⟨hmem, hbad⟩ := commit_write ((arborOf s hdr).edited f es nent)
  rw [write_edited] at hmem hbad
  obtain ⟨hkeep, hwords, hread, hshape⟩ := header_again ht hm1 hbad1 (fun k hk => hother 0 k (by omega) hk) _ _ hmem hbad
  refine ⟨_, hread, hshape, beside_of hshape hkeep fun j k hj hjpos hk => ?_, fun k hk => ?_⟩
  · exact (hwords j k hjpos).trans (hother j k hj hk)
  · exact (hwords f.i k hpos).trans (putWords_word _ s _ k hm (by omega))

end

/-! ### Searches after the store -/

/-- Where nothing differs a search finds what it found: node 0 is never read. -/
theorem descend_kept {t t2 : Arb} {k : Nat} {f : AFound} (hb : t.Beside t2 0) : ∀ {level i lo hi : Nat} {path : List AStep},
    t.descend k level i lo hi path = .ok f → t2.descend k level i lo hi path = .ok f
  | 0, _, _, _, _, h => by
    obtain ⟨n, hn, rfl⟩ := descend_zero h
    exact descend_of_leaf (node_beside hb (node_ok hn).2.1.ne' hn)
  | _ + 1, _, _, _, _, h => by
    obtain ⟨n, hn, h⟩ := descend_succ h
    rw [descend_of_node (node_beside hb (node_ok hn).2.1.ne' hn)]
    exact descend_kept hb h

/-- A search in an arbor of the same shape starts in the same place. -/
theorem find_of_shape {t t2 : Arb} (h : t.SameShape t2) (k : Nat) :
    t2.find k = t2.descend k (t.height - 1) t.root 0 (2 ^ 32) [] := by
  rw [Arb.find, h.height, h.root]

/-- Entries that are read are numbers of 32 bits. -/
theorem reads_small (t : Arb) (i level : Nat) : ∀ p ∈ (t.reads i level).ents, p.1 < 2 ^ 32 ∧ p.2 < 2 ^ 32 := by
  intro p hp
  obtain ⟨k, -, rfl⟩ := List.mem_map.mp hp
  exact ⟨fld_lt _ _ _, fld_lt _ _ _⟩

/-- A leaf with edited entries keeps the limits of its place. -/
theorem LeafEdit.fits {n : ANode} {nn lo hi k v : Nat} {es : List (Nat × Nat)} (h : LeafEdit n.ents es k v)
    (hn : n.Fits nn 0 lo hi) (hlo : lo ≤ k) (hhi : k < hi) : ({ n with ents := es } : ANode).Fits nn 0 lo hi where
  kind := hn.kind
  place := hn.place
  rising := h.rising
  below p hp := by
    rcases h.from_ p hp with hold | rfl
    · exact hn.below p hold
    · exact hhi
  leaf _ := by
    obtain ⟨-, hnext, hlow⟩ := hn.leaf rfl
    refine ⟨h.short, hnext, fun p hp => ?_⟩
    rcases h.from_ p hp with hold | rfl
    · exact hlow p hold
    · exact hlo
  inner h0 := absurd rfl h0

theorem LeafEdit.small {ents es : List (Nat × Nat)} {k v : Nat} (h : LeafEdit ents es k v) (hk : k < 2 ^ 32) (hv : v < 2 ^ 32)
    (hold : ∀ p ∈ ents, p.1 < 2 ^ 32 ∧ p.2 < 2 ^ 32) : ∀ p ∈ es, p.1 < 2 ^ 32 ∧ p.2 < 2 ^ 32 := by
  intro p hp
  rcases h.from_ p hp with hmem | rfl
  · exact hold p hmem
  · exact ⟨hk, hv⟩

/-- A search finds the leaf of its key with the entries that a store has left there. -/
theorem edited_reads_back {s : State} {hdr size k v nent : Nat} {t : Arb} {f : AFound} {es : List (Nat × Nat)}
    (hm : Memory.wf s.mem = true) (hk : k < 2 ^ 32) (hv : v < 2 ^ 32) (ht : readArb s hdr size = .ok t) (hf : t.find k = .ok f)
    (hes : LeafEdit f.leaf.ents es k v) : ∃ t2, readArb (t.edited f es nent).commit hdr size = .ok t2 ∧
      (∃ f, t2.find k = .ok f ∧ f.value k = v) ∧
      ∀ j f f', j ≠ k → t.find j = .ok f → t2.find j = .ok f' → f'.value j = f.value j := by
  have hleaf := descend_leaf hf
  obtain ⟨-, hpos, hnn, hbad, hfits, hreads⟩ := node_ok hleaf
  obtain ⟨hnode, -⟩ := fits_iff.mp hfits
  rw [← hreads] at hnode
  obtain ⟨hlo, hhi⟩ := descend_bounds hf (Nat.zero_le k) hk
  have hnnlt : t.nn < 2 ^ 24 := by
    obtain ⟨-, -, rfl⟩ := readArb_ok ht
    exact fld_lt _ _ _
  have hgood : nodeBad s (hdr + 256 * f.i) = false := by
    obtain ⟨-, -, rfl⟩ := readArb_ok ht
    exact hbad
  obtain ⟨t2, hread, hshape, hbeside, hwords⟩ := commit_edited (nent := nent) (es := es) ht hm hpos hnn hgood hnode.kind hnode.place
  have hwritten : t2.node f.i 0 f.lo f.hi = .ok { f.leaf with ents := es } := by
    refine node_written (hbeside.unwritten f.i) hpos (by rw [hbeside.nn]; exact hnn) ?_ hwords
      (by rw [hbeside.nn]; exact hes.fits hnode hlo hhi) ?_ (hes.small hk hv fun p hp => ?_)
    · rw [nodeBad_congr hbeside.bad, hbeside.hdr]
      exact hbad
    · have hnext := (hnode.leaf rfl).2.1
      show f.leaf.next < 2 ^ 64
      omega
    · rw [hreads] at hp
      exact reads_small t _ _ p hp
  refine ⟨t2, hread, ⟨{ f with leaf := { f.leaf with ents := es } }, ?_, ?_⟩, fun j g g' hne hg hg' => ?_⟩
  · rw [find_of_shape hshape]
    exact descend_changed hbeside hleaf hf rfl hwritten
  · exact hes.value
  · rw [find_of_shape hshape] at hg'
    obtain ⟨hplace, hsame⟩ := descend_others hbeside hleaf hg hg'
    rw [value_eq, value_eq]
    by_cases hi : g.i = f.i
    · have hgleaf : g.leaf = f.leaf := by
        rw [(node_ok (descend_leaf hg)).2.2.2.2.2, hi, hreads]
      have hgleaf' : g'.leaf = { f.leaf with ents := es } := by
        rw [(node_ok (descend_leaf hg')).2.2.2.2.2, hplace, hi, (node_ok hwritten).2.2.2.2.2]
      rw [hgleaf, hgleaf']
      exact hes.others j hne
    · rw [hsame hi]

/-- After a store that takes and frees no node a search finds the new value, and of every other key the old one. -/
theorem store_reads_back {s : State} {hdr size k v : Nat} {t t1 : Arb} (hm : Memory.wf s.mem = true) (hk : k < 2 ^ 32)
    (hv : v < 2 ^ 32) (ht : readArb s hdr size = .ok t) (hstore : t.store k v = .ok t1) (hflat : t1.struct = false) :
    ∃ t2, readArb t1.commit hdr size = .ok t2 ∧ (∃ f, t2.find k = .ok f ∧ f.value k = if t.isZero v then 0 else v) ∧
      ∀ j f f', j ≠ k → t.find j = .ok f → t2.find j = .ok f' → f'.value j = f.value j := by
  obtain ⟨f, hf, hedit⟩ := store_flat hstore hflat
  have hfits := (node_ok (descend_leaf hf)).2.2.2.2
  obtain ⟨hnode, -⟩ := fits_iff.mp hfits.1
  rw [← hfits.2] at hnode
  rcases hedit ⟨hnode.rising, (hnode.leaf rfl).1⟩ with ⟨rfl, hvalue⟩ | ⟨es, nent, hes, rfl⟩
  · obtain ⟨t2, hread, hshape, hbeside⟩ := commit_same ht hm
    have hfind : ∀ {j f}, t1.find j = .ok f → t2.find j = .ok f := fun h =>
      (find_of_shape hshape _).trans (descend_kept (hbeside 0) h)
    refine ⟨t2, hread, ⟨f, hfind hf, hvalue⟩, fun j g g' _ hg hg' => ?_⟩
    rw [Except.ok.inj (hg'.symm.trans (hfind hg))]
  · refine edited_reads_back hm hk ?_ ht hf hes
    split
    · decide
    · exact hv

end Sys2Proof.Machine
end

section
/-! SUPPORT. Breaches of an arbor (R312 to R315), and the steps of a traversal (R326, R327): the leaf that a step stands at is
the one that a search for each of its keys finds. -/
namespace Sys2Proof.Machine
open Sys2Proof Sys2Proof.Safety

/-! ### Breaches -/

theorem header_uncorrectable {s : State} {hdr size k : Nat} (hk : k < 32) (hbad : s.isBad (hdr + 8 * k) = true) :
    readArb s hdr size = .error ⟨Cause.uncorrectable, 0⟩ := by
  rw [readArb_eq, if_pos ((nodeBad_iff s hdr).mpr ⟨k, hk, hbad⟩)]

theorem headerRest_word {s : State} {hdr k : Nat} (h : headerRest s hdr = true) (h4 : 4 ≤ k) (hk : k < 32) :
    arborWord s hdr 0 k = 0 := by
  have := List.all_eq_true.mp h (k - 4) (List.mem_range.mpr (by omega))
  rw [Nat.sub_add_cancel h4] at this
  exact eq_of_beq this

/-- A header whose fields break their limits is refused. -/
theorem header_breach {s : State} {hdr size : Nat} (hbad : ∀ k, k < 32 → s.isBad (hdr + 8 * k) = false)
    (hbreach : headerGood (arborWord s hdr 0 0) (arborWord s hdr 0 1) (headerRest s hdr) size = true → False) :
    readArb s hdr size = .error ⟨Cause.arborHdr, 0⟩ := by
  rw [readArb_eq, if_neg (by rw [(nodeBad_false s hdr).mpr hbad]; exact Bool.false_ne_true), if_neg hbreach]

/-- The rising keys of a node that is read, by the words they stand in. -/
theorem reads_keys_rise {t : Arb} {i level : Nat} (h : ((t.reads i level).ents.map (·.1)).Pairwise (· < ·)) {k : Nat}
    (hk : k + 1 < fld (arborWord t.s t.hdr i 0) 48 8) :
    fld (arborWord t.s t.hdr i ((if level = 0 then 2 else 1) + k)) 32 32 <
      fld (arborWord t.s t.hdr i ((if level = 0 then 2 else 1) + (k + 1))) 32 32 := by
  have hlen : ((t.reads i level).ents.map (·.1)).length = fld (arborWord t.s t.hdr i 0) 48 8 := by simp [Arb.reads]
  have hlt := List.pairwise_iff_getElem.mp h k (k + 1) (by omega) (by omega) (Nat.lt_succ_self k)
  simpa [Arb.reads, pairOf] using hlt

theorem reads_mem {t : Arb} {i level k : Nat} (hk : k < fld (arborWord t.s t.hdr i 0) 48 8) :
    pairOf (arborWord t.s t.hdr i ((if level = 0 then 2 else 1) + k)) ∈ (t.reads i level).ents :=
  List.mem_map.mpr ⟨k, List.mem_range.mpr hk, rfl⟩

/-! ### Children of a node -/

theorem length_takeWhile_eq {α : Type} {P : α → Bool} {l : List α} {p : Nat} (d : α) (hp : p ≤ l.length)
    (hhold : ∀ k, k < p → P (l.getD k d) = true) (hstop : ∀ x, l[p]? = some x → P x = false) : (l.takeWhile P).length = p := by
  rcases lt_trichotomy (l.takeWhile P).length p with hlt | heq | hgt
  · have hin : (l.takeWhile P).length < l.length := by omega
    have hfail := takeWhile_stop P (List.getElem?_eq_getElem hin)
    have hholds := hhold _ hlt
    rw [List.getD_eq_getElem _ _ hin, hfail] at hholds
    exact absurd hholds Bool.false_ne_true
  · exact heq
  · have hin : p < l.length := lt_of_lt_of_le hgt (List.takeWhile_prefix P).length_le
    have hholds := takeWhile_holds P hgt d
    rw [List.getD_eq_getElem _ _ hin, hstop _ (List.getElem?_eq_getElem hin)] at hholds
    exact absurd hholds Bool.false_ne_true

/-- Keys within the bounds of a child belong to it. -/
theorem childPos_of_bounds {n : ANode} {i pos lo hi p q : Nat} (hr : (n.ents.map (·.1)).Pairwise (· < ·)) (hp : p < n.ents.length)
    (hlo : childLo ⟨i, n, pos, lo, hi⟩ p ≤ q) (hhi : q < childHi ⟨i, n, pos, lo, hi⟩ p) : childPos n.ents q = p := by
  refine length_takeWhile_eq (0, 0) (by rw [List.length_drop]; omega) (fun k hk => ?_) (fun x hx => ?_)
  · rw [getD_drop_one]
    unfold childLo at hlo
    rw [if_neg (by omega), List.getD_eq_getElem _ _ hp] at hlo
    rw [List.getD_eq_getElem _ _ (show k + 1 < n.ents.length by omega)]
    refine decide_eq_true (le_trans ?_ hlo)
    rcases Nat.lt_or_eq_of_le (show k + 1 ≤ p by omega) with hlt | heq
    · have := List.pairwise_iff_getElem.mp hr (k + 1) p (by simpa using by omega) (by simpa using hp) hlt
      simp only [List.getElem_map] at this
      omega
    · simp only [heq, le_refl]
  · rw [List.getElem?_drop, Nat.add_comm] at hx
    unfold childHi at hhi
    rw [hx] at hhi
    exact decide_eq_false (Nat.not_le_of_lt hhi)

/-- The bounds of a child stand within those of its node. -/
theorem child_within {t : Arb} {i level pos lo hi p : Nat} {n : ANode} (h : t.node i (level + 1) lo hi = .ok n)
    (hp : p < n.ents.length) : lo ≤ childLo ⟨i, n, pos, lo, hi⟩ p ∧ childHi ⟨i, n, pos, lo, hi⟩ p ≤ hi := by
  obtain ⟨-, -, -, -, hfits, rfl⟩ := node_ok h
  obtain ⟨hnode, -⟩ := fits_iff.mp hfits
  obtain ⟨-, -, -, hlow, -⟩ := hnode.inner (Nat.succ_ne_zero level)
  constructor
  · unfold childLo
    split
    · exact le_refl _
    next hpos =>
      rw [List.getD_eq_getElem _ _ hp]
      refine le_of_lt (hlow _ (List.mem_drop_iff_getElem.mpr ⟨p - 1, by omega, ?_⟩))
      simp only [show 1 + (p - 1) = p by omega]
  · unfold childHi
    split
    next x hx => exact le_of_lt (hnode.below x (List.mem_of_getElem? hx))
    next => exact le_refl _

theorem node_level {t : Arb} {i level lo hi : Nat} {n : ANode} (h : t.node i level lo hi = .ok n) : n.level = level := by
  obtain ⟨-, -, -, -, -, rfl⟩ := node_ok h
  rfl

theorem childPos_lt {t : Arb} {i level lo hi : Nat} {n : ANode} (h : t.node i (level + 1) lo hi = .ok n) (k : Nat) :
    childPos n.ents k < n.ents.length := by
  obtain ⟨-, -, -, -, hfits, rfl⟩ := node_ok h
  have htwo := ((fits_iff.mp hfits).1.inner (Nat.succ_ne_zero level)).1
  have hle := (List.takeWhile_prefix (fun p : Nat × Nat => decide (p.1 ≤ k)) (l := (t.reads i (level + 1)).ents.drop 1)).length_le
  rw [List.length_drop] at hle
  exact lt_of_le_of_lt hle (by omega)

/-! ### Places of the tree -/

/-- A place of the tree: a search for a key within its bounds passes it. -/
def Arb.Leads (t : Arb) (level i lo hi : Nat) : Prop :=
  ∀ q, lo ≤ q → q < hi → ∃ path, t.find q = t.descend q level i lo hi path

theorem leads_root (t : Arb) : t.Leads (t.height - 1) t.root 0 (2 ^ 32) := fun _ _ _ => ⟨[], rfl⟩

theorem leads_child {t : Arb} {level i lo hi pos p : Nat} {n : ANode} (hl : t.Leads (level + 1) i lo hi)
    (h : t.node i (level + 1) lo hi = .ok n) (hp : p < n.ents.length) :
    t.Leads level (n.ents.getD p (0, 0)).2 (childLo ⟨i, n, pos, lo, hi⟩ p) (childHi ⟨i, n, pos, lo, hi⟩ p) := by
  intro q hlo hhi
  obtain ⟨hlow, hhigh⟩ := child_within (pos := pos) h hp
  obtain ⟨path, hfind⟩ := hl q (hlow.trans hlo) (lt_of_lt_of_le hhi hhigh)
  have hrise : (n.ents.map (·.1)).Pairwise (· < ·) := by
    obtain ⟨-, -, -, -, hfits, rfl⟩ := node_ok h
    exact (fits_iff.mp hfits).1.rising
  have hpos := childPos_of_bounds hrise hp hlo hhi
  rw [descend_of_node h, hpos] at hfind
  exact ⟨_, hfind⟩

/-- A step of a descent that stands at a place of the tree. -/
structure AStep.Stands (t : Arb) (st : AStep) : Prop where
  inner : st.n.level ≠ 0
  node : t.node st.i st.n.level st.lo st.hi = .ok st.n
  leads : t.Leads st.n.level st.i st.lo st.hi

/-- A search that has ended at a place of the tree. -/
structure AFound.Stands (t : Arb) (f : AFound) : Prop where
  path : ∀ st ∈ f.path, st.Stands t
  node : t.node f.i 0 f.lo f.hi = .ok f.leaf
  leads : t.Leads 0 f.i f.lo f.hi

theorem descend_stands {t : Arb} {k : Nat} {f : AFound} : ∀ {level i lo hi : Nat} {path : List AStep},
    t.descend k level i lo hi path = .ok f → t.Leads level i lo hi → (∀ st ∈ path, st.Stands t) → f.Stands t
  | 0, _, _, _, _, h, hl, hpath => by
    obtain ⟨n, hn, rfl⟩ := descend_zero h
    exact ⟨hpath, hn, hl⟩
  | level + 1, _, _, _, _, h, hl, hpath => by
    obtain ⟨n, hn, h⟩ := descend_succ h
    have hlevel := node_level hn
    refine descend_stands h (leads_child hl hn (childPos_lt hn k)) fun st hst => ?_
    rcases List.mem_cons.mp hst with rfl | hmem
    · exact ⟨by simp [hlevel], by simpa [hlevel] using hn, by simpa [hlevel] using hl⟩
    · exact hpath st hmem

theorem find_stands {t : Arb} {k : Nat} {f : AFound} (h : t.find k = .ok f) : f.Stands t :=
  descend_stands h (leads_root t) fun _ hst => absurd hst List.not_mem_nil

theorem nextPlace_stands {t : Arb} {g : AFound} : ∀ {path : List AStep}, t.nextPlace path = .ok (some g) →
    (∀ st ∈ path, st.Stands t) → g.Stands t
  | [], h, _ => absurd (Except.ok.inj h) nofun
  | st :: up, h, hpath => by
    have hst := hpath st List.mem_cons_self
    have hup : ∀ st ∈ up, st.Stands t := fun x hx => hpath x (List.mem_cons_of_mem _ hx)
    unfold Arb.nextPlace at h
    split at h
    next hmore =>
      obtain ⟨x, hx, h⟩ := except_bind_ok h
      obtain rfl : x = g := Option.some.inj (Except.ok.inj h)
      obtain ⟨level, hlevel⟩ : ∃ level, st.n.level = level + 1 := Nat.exists_eq_succ_of_ne_zero hst.inner
      have hnode := hst.node
      have hleads := hst.leads
      rw [hlevel] at hnode hleads hx
      refine descend_stands hx (leads_child hleads hnode hmore) fun y hy => ?_
      rcases List.mem_cons.mp hy with rfl | hmem
      · exact ⟨hst.inner, hst.node, hst.leads⟩
      · exact hup y hmem
    next => exact nextPlace_stands h hup

/-- The leaf that a traversal's step goes to stands at a place of the tree. -/
theorem seek_stands {t : Arb} {k : Nat} {n : ANode} : ∀ {fuel : Nat} {f : AFound}, t.seek k fuel f = .ok (some n) →
    f.Stands t → ∃ g : AFound, g.Stands t ∧ g.leaf = n
  | 0, _, h, _ => absurd (Except.ok.inj h) nofun
  | fuel + 1, f, h, hf => by
    unfold Arb.seek at h
    split at h
    · exact ⟨f, hf, Option.some.inj (Except.ok.inj h)⟩
    · split at h
      · exact absurd (Except.ok.inj h) nofun
      · obtain ⟨x, hx, h⟩ := except_bind_ok h
        cases x with
        | none => exact absurd h nofun
        | some g =>
          dsimp only at h
          split at h
          · exact seek_stands h (nextPlace_stands hx hf.path)
          · exact absurd h nofun

/-- An entry of a leaf that stands in the tree is what a search for its key finds. -/
theorem stands_value {t : Arb} {g : AFound} (h : g.Stands t) {p : Nat × Nat} (hp : p ∈ g.leaf.ents) :
    ∃ f, t.find p.1 = .ok f ∧ f.value p.1 = p.2 := by
  obtain ⟨-, -, -, -, hfits, hreads⟩ := node_ok h.node
  obtain ⟨hnode, -⟩ := fits_iff.mp hfits
  rw [← hreads] at hnode
  obtain ⟨path, hfind⟩ := h.leads p.1 ((hnode.leaf rfl).2.2 p hp) (hnode.below p hp)
  exact ⟨_, hfind.trans (descend_of_leaf h.node), valueIn_mem hnode.rising hp⟩

/-! ### A step of a traversal -/

/-- The entries that a step takes from a leaf. -/
def ANode.window (n : ANode) (k hi : Nat) : List (Nat × Nat) :=
  ((n.ents.filter fun p => decide (k ≤ p.1)).filter fun p => decide (p.1 ≤ hi)).take 8

theorem window_sublist (n : ANode) (k hi : Nat) : (n.window k hi).Sublist n.ents :=
  (List.take_sublist _ _).trans (List.filter_sublist.trans List.filter_sublist)

theorem window_bounds {n : ANode} {k hi : Nat} {p : Nat × Nat} (hp : p ∈ n.window k hi) : k ≤ p.1 ∧ p.1 ≤ hi := by
  obtain ⟨hlow, hhigh⟩ := List.mem_filter.mp (List.mem_of_mem_take hp)
  exact ⟨of_decide_eq_true (List.mem_filter.mp hlow).2, of_decide_eq_true hhigh⟩

/-- A step gives the end of its traversal alone, or entries of a leaf that stands in the tree. -/
theorem step_gives {t : Arb} {k hi : Nat} {es : List (Nat × Nat)} {ends : Bool} (h : t.step k hi = .ok (es, ends)) :
    (es = [] ∧ ends = true) ∨ (es ≠ [] ∧ ∃ g : AFound, g.Stands t ∧ es = g.leaf.window k hi) := by
  unfold Arb.step at h
  by_cases hout : 2 ^ 32 ≤ k ∨ hi < k
  · rw [if_pos hout] at h
    obtain ⟨rfl, rfl⟩ := Prod.mk.inj (Except.ok.inj h)
    exact .inl ⟨rfl, rfl⟩
  · rw [if_neg hout] at h
    obtain ⟨f, hf, h⟩ := except_bind_ok h
    obtain ⟨x, hx, h⟩ := except_bind_ok h
    cases x with
    | none =>
      obtain ⟨rfl, rfl⟩ := Prod.mk.inj (Except.ok.inj h)
      exact .inl ⟨rfl, rfl⟩
    | some n =>
      obtain ⟨g, hg, rfl⟩ := seek_stands hx (find_stands hf)
      dsimp only at h
      split at h
      · obtain ⟨rfl, rfl⟩ := Prod.mk.inj (Except.ok.inj h)
        exact .inl ⟨rfl, rfl⟩
      next hsome =>
        obtain ⟨rfl, -⟩ := Prod.mk.inj (Except.ok.inj h)
        exact .inr ⟨fun he => hsome (List.isEmpty_iff.mpr he), g, hg, rfl⟩

theorem window_rising {t : Arb} {g : AFound} (h : g.Stands t) (k hi : Nat) :
    (g.leaf.window k hi).Pairwise (fun x y => x.1 < y.1) := by
  obtain ⟨-, -, -, -, hfits, hreads⟩ := node_ok h.node
  have hrise := (fits_iff.mp hfits).1.rising
  rw [← hreads] at hrise
  exact (List.pairwise_map.mp hrise).sublist (window_sublist _ _ _)

end Sys2Proof.Machine
end

section
/-! SUPPORT. The walker at the point of an operation (R321 to R323, R325): when it accepts one, what it answers, and what of the
machine it leaves as it was. -/
namespace Sys2Proof.Machine
open Sys2Proof Sys2Proof.Safety

/-! ### An operation that the walker takes up or performs -/

/-- What an operation that fails answers, from a machine that has logged it (R320). -/
def State.arborAnswersFail (s : State) (w : Access) (op : MOp) (x : AErr) (due : Nat) : State :=
  let rep := s.arborFail w.ref w.gid x
  if op = .aaddc then ((s.dropAcc w.id).atomicReply w.ref w.gid w.cell (.error rep) false 3 due 0).giveCredit w.ref 3 1
  else if op = .ast then (s.accReply w rep).giveCredit w.ref 3 1
  else s.accReply w rep

/-- The machine after an operation that fails. -/
def State.arborFailed (s : State) (w : Access) (op : MOp) (x : AErr) : State :=
  (if x.cause = Cause.uncorrectable then s.logRef w.ref else s).arborAnswersFail w op x (s.clock + w.back)

/-- The machine after an operation that answers (R323). -/
def State.arborDone (s : State) (w : Access) (op : MOp) (k v : Nat) (d : ADone) : State :=
  let due := s.clock + w.back + d.cost
  let s1 := if op = .ast ∨ op = .aaddc then d.s.addSig w.ref.load w.slot w.va (BitVec.ofNat 64 (k * 2 ^ 32 + v)) else d.s
  if op = .aaddc then ((s1.dropAcc w.id).atomicReply w.ref w.gid w.cell (.ok d.tok) true 3 due 0).giveCredit w.ref 3 1
  else if op = .ast then
    ((s1.dropAcc w.id).reply w.ref w.gid w.cell (if s1.groupDst w.ref w.gid = 15 then .silent else .tok d.tok) due).giveCredit w.ref 3 1
  else (s1.dropAcc w.id).reply w.ref w.gid w.cell (.tok d.tok) due

section
variable {s : State} {n : Nat} {w : Access} {op : MOp} {k v size : Nat} (ha : s.actor = .id n) (hw : s.acc? n = some w)
  (hop : w.op = .arbor op k v size) (hdue : w.due ≤ s.clock)
include ha hw hop hdue

theorem exec_arborPoint : exec .arborPoint s =
    if ¬ w.taken then .next (s.acceptArbor w op)
    else if s.arborBusy w.pa (writesArbor op) then .next s
    else .next (match arborDo s op w.pa size k v with
      | .error x => s.arborFailed w op x
      | .ok d => s.arborDone w op k v d) := by
  have hid := acc_id hw
  show execArborPoint s = _
  simp only [execArborPoint, ha, hw, hop]
  rw [if_neg (Nat.not_lt_of_le hdue)]
  split
  · rfl
  · split
    · rfl
    · cases arborDo s op w.pa size k v with
      | error x =>
        by_cases hadd : op = .aaddc
        · subst hadd; simp only [State.arborFailed, State.arborAnswersFail, hid, if_true]
        · by_cases hast : op = .ast
          · subst hast; simp only [State.arborFailed, State.arborAnswersFail, if_true, if_neg hadd]
          · simp only [State.arborFailed, State.arborAnswersFail, if_neg hast, if_neg hadd]
      | ok d =>
        by_cases hadd : op = .aaddc
        · subst hadd; simp only [State.arborDone, hid, if_true, or_true]
        · by_cases hast : op = .ast
          · subst hast; simp only [State.arborDone, hid, if_true, if_neg hadd, true_or]
          · have hread : ¬ (op = .ast ∨ op = .aaddc) := fun h => h.elim hast hadd
            simp only [State.arborDone, hid, if_neg hast, if_neg hadd, if_neg hread]

end

/-! ### Acceptance -/

section
variable {s : State} {w : Access} {op : MOp}

theorem acceptArbor_waits (h : s.arborHeld w.pa op = true ∨ s.arborBusy w.pa (writesArbor op) = true ∨
    s.walkerFree (homeDie w.pa) = false) : s.acceptArbor w op = s := by
  refine if_pos ?_
  rcases h with h | h | h
  · exact .inl h
  · exact .inr (.inl h)
  · exact .inr (.inr (by rw [h]; exact Bool.false_ne_true))

/-- An operation that the walker has accepted. -/
def Access.accepted (w : Access) (due back : Nat) : Access := { w with taken := true, due, back }

theorem acceptArbor_takes (hheld : s.arborHeld w.pa op = false) (hbusy : s.arborBusy w.pa (writesArbor op) = false)
    (hfree : s.walkerFree (homeDie w.pa) = true) : s.acceptArbor w op = ((s.useWalker (homeDie w.pa)).modAcc w.id fun a =>
      a.accepted (s.clock + arborLat s w.ref.die op w.pa / 2 + s.waitNow)
        (arborLat s w.ref.die op w.pa - arborLat s w.ref.die op w.pa / 2)).tick := by
  refine if_neg ?_
  rw [hheld, hbusy, hfree]
  simp

theorem acceptArbor_access {n : Nat} (hw : s.acc? n = some w) (hheld : s.arborHeld w.pa op = false)
    (hbusy : s.arborBusy w.pa (writesArbor op) = false) (hfree : s.walkerFree (homeDie w.pa) = true) :
    (s.acceptArbor w op).mem = s.mem ∧ (s.acceptArbor w op).elems = s.elems ∧ (s.acceptArbor w op).acc? n =
      some (w.accepted (s.clock + arborLat s w.ref.die op w.pa / 2 + s.waitNow)
        (arborLat s w.ref.die op w.pa - arborLat s w.ref.die op w.pa / 2)) := by
  have hid := acc_id hw
  rw [acceptArbor_takes hheld hbusy hfree, hid]
  refine ⟨rfl, rfl, ?_⟩
  exact modAcc_acc (s := s.useWalker (homeDie w.pa)) hw fun a h => h

end

/-! ### Performance -/

section
variable {s : State} {w : Access} {op : MOp}

theorem giveCredit_leavesStore (s : State) (r : ElemRef) (kind n : Nat) : leavesStore s (s.giveCredit r kind n) :=
  modMpe_leavesStore s r _

theorem reply_leavesStore (s : State) (r : ElemRef) (gid cell : Nat) (rep : Reply) (due : Nat) :
    leavesStore s (s.reply r gid cell rep due) := ⟨rfl, rfl, List.Subset.refl _⟩

theorem arborAnswersFail_dropped (x : AErr) (due : Nat) : leavesStore (s.dropAcc w.id) (s.arborAnswersFail w op x due) := by
  have hreply : leavesStore (s.dropAcc w.id) (s.accReply w (s.arborFail w.ref w.gid x)) := reply_leavesStore _ _ _ _ _ _
  unfold State.arborAnswersFail
  dsimp only
  by_cases hadd : op = .aaddc
  · rw [if_pos hadd]
    exact (atomicReply_leavesStore _ _ _ _ _ _ _ _ _).trans (giveCredit_leavesStore _ _ _ _)
  · rw [if_neg hadd]
    by_cases hast : op = .ast
    · rw [if_pos hast]
      exact hreply.trans (giveCredit_leavesStore _ _ _ _)
    · rw [if_neg hast]
      exact hreply

/-- An operation that fails leaves memory, and its access is over. -/
theorem arborFailed_rest (x : AErr) : (s.arborFailed w op x).mem = s.mem ∧ (s.arborFailed w op x).acc? w.id = none := by
  have hlog : (if x.cause = Cause.uncorrectable then s.logRef w.ref else s).mem = s.mem := by
    split
    · exact (logRef_leavesStore s w.ref).mem
    · rfl
  have hleaves := arborAnswersFail_dropped (s := if x.cause = Cause.uncorrectable then s.logRef w.ref else s) (w := w)
    (op := op) x (s.clock + w.back)
  exact ⟨hleaves.mem.trans hlog, hleaves.acc (dropAcc_acc _ _)⟩

theorem arborFailed_replies {x : AErr} (hop : op = .ald ∨ op = .acntH) (hx : x.cause ≠ Cause.uncorrectable) :
    s.arborFailed w op x = (s.dropAcc w.id).reply w.ref w.gid w.cell (s.arborFail w.ref w.gid x) (s.clock + w.back) := by
  unfold State.arborFailed State.arborAnswersFail
  rw [if_neg hx, if_neg (by rcases hop with rfl | rfl <;> decide), if_neg (by rcases hop with rfl | rfl <;> decide)]
  rfl

/-- An operation that writes its arbor leaves memory as the walker left it. -/
theorem arborDone_writes {k v : Nat} (d : ADone) (hop : op = .ast ∨ op = .aaddc) :
    (s.arborDone w op k v d).mem = d.s.mem ∧ (s.arborDone w op k v d).acc? w.id = none := by
  have hsig := addSig_leavesStore d.s w.ref.load w.slot w.va (BitVec.ofNat 64 (k * 2 ^ 32 + v))
  unfold State.arborDone
  rw [if_pos hop]
  generalize d.s.addSig w.ref.load w.slot w.va (BitVec.ofNat 64 (k * 2 ^ 32 + v)) = s1 at hsig ⊢
  have hleaves : ∀ s2, leavesStore (s1.dropAcc w.id) s2 → s2.mem = d.s.mem ∧ s2.acc? w.id = none := fun s2 h =>
    ⟨h.mem.trans hsig.mem, h.acc (dropAcc_acc _ _)⟩
  dsimp only
  rcases hop with rfl | rfl
  · rw [if_neg (by decide), if_pos rfl]
    exact hleaves _ ((reply_leavesStore _ _ _ _ _ _).trans (giveCredit_leavesStore _ _ _ _))
  · rw [if_pos rfl]
    exact hleaves _ ((atomicReply_leavesStore _ _ _ _ _ _ _ _ _).trans (giveCredit_leavesStore _ _ _ _))

/-- An operation that only reads its arbor answers its token. -/
theorem arborDone_reads {k v : Nat} {t : Tok} (hop : op = .ald ∨ op = .acntH) :
    s.arborDone w op k v ⟨s, t, 0⟩ = (s.dropAcc w.id).reply w.ref w.gid w.cell (.tok t) (s.clock + w.back) := by
  unfold State.arborDone
  rcases hop with rfl | rfl <;> rfl

end

end Sys2Proof.Machine
end

section
/-! SUPPORT. Steps of a traversal at its element (R326 to R328): an arbor is read alike while memory and its errors stay, and
what a step leaves of the traversal and its group. -/
namespace Sys2Proof.Machine
open Sys2Proof Sys2Proof.Safety

/-! ### The same arbor in another state -/

section
variable {s : State} {ds : List Die}

/-- An arbor in the machine with other dies. -/
def Arb.withDies (t : Arb) (ds : List Die) : Arb := { t with s := { t.s with dies := ds } }

theorem readArb_withDies {hdr size : Nat} {t : Arb} (h : readArb s hdr size = .ok t) :
    readArb { s with dies := ds } hdr size = .ok (t.withDies ds) := by
  obtain ⟨hbad, hgood, rfl⟩ := readArb_ok h
  refine (readArb_eq _ _ _).trans ((if_neg fun hb => ?_).trans (if_pos hgood))
  exact Bool.false_ne_true (hbad.symm.trans hb)

theorem descend_withDies {t : Arb} {k : Nat} : ∀ (level i lo hi : Nat) (path : List AStep),
    (t.withDies ds).descend k level i lo hi path = t.descend k level i lo hi path
  | 0, _, _, _, _ => rfl
  | level + 1, i, lo, hi, path => by
    show (do
      let n ← t.node i (level + 1) lo hi
      (t.withDies ds).descend k level (n.ents.getD (childPos n.ents k) (0, 0)).2
        (childLo ⟨i, n, childPos n.ents k, lo, hi⟩ (childPos n.ents k))
        (childHi ⟨i, n, childPos n.ents k, lo, hi⟩ (childPos n.ents k)) (⟨i, n, childPos n.ents k, lo, hi⟩ :: path)) = _
    simp only [descend_withDies level]
    rfl

theorem nextPlace_withDies {t : Arb} : ∀ path : List AStep, (t.withDies ds).nextPlace path = t.nextPlace path
  | [] => rfl
  | st :: up => by
    unfold Arb.nextPlace
    simp only [descend_withDies, nextPlace_withDies up]

theorem seek_withDies {t : Arb} {k : Nat} : ∀ (fuel : Nat) (f : AFound), (t.withDies ds).seek k fuel f = t.seek k fuel f
  | 0, _ => rfl
  | fuel + 1, f => by
    unfold Arb.seek
    simp only [nextPlace_withDies, seek_withDies fuel]

theorem step_withDies {t : Arb} (k hi : Nat) : (t.withDies ds).step k hi = t.step k hi := by
  unfold Arb.step Arb.find
  simp only [descend_withDies, seek_withDies]
  rfl

end

/-! ### Cells of a group -/

section
variable {r : ElemRef} {gid : Nat}

theorem modGroup_there {s : State} {e : Elem} {g : RGroup} (he : s.elem? r = some e) (hg : e.mpe.group? gid = some g)
    (f : RGroup → RGroup) (hf : ∀ g, (f g).gid = g.gid) : ∃ e', (s.modGroup r gid f).elem? r = some e' ∧
      e'.mpe.group? gid = some (f g) ∧ e'.mpe.travs = e.mpe.travs :=
  ⟨_, modMpe_there he fun m => m.modGroup gid f, group_modGroup hg fun g h => (hf g).trans h, rfl⟩

theorem addCell_there {s : State} {e : Elem} {g : RGroup} (he : s.elem? r = some e) (hg : e.mpe.group? gid = some g)
    (rep : Reply) (credit due : Nat) : ∃ e', (s.addCell r gid rep credit due).elem? r = some e' ∧
      e'.mpe.group? gid = some { g with cells := g.cells ++ [⟨s.nextId, rep, credit, due⟩] } ∧ e'.mpe.travs = e.mpe.travs :=
  modGroup_there he hg (fun g => { g with cells := g.cells ++ [⟨s.nextId, rep, credit, due⟩] }) fun _ => rfl

theorem closeGroup_there {s : State} {e : Elem} {g : RGroup} (he : s.elem? r = some e) (hg : e.mpe.group? gid = some g) :
    ∃ e', (s.closeGroup r gid).elem? r = some e' ∧ e'.mpe.group? gid = some { g with opened := false } ∧
      e'.mpe.travs = e.mpe.travs :=
  modGroup_there he hg (fun g => { g with opened := false }) fun _ => rfl

/-- Tokens appended to a group. -/
def State.addToks (s : State) (r : ElemRef) (gid : Nat) (ts : List Tok) : State :=
  ts.foldl (fun s t => s.addCell r gid (.tok t) 0 s.clock) s

theorem addToks_there : ∀ (ts : List Tok) {s : State} {e : Elem} {g : RGroup}, s.elem? r = some e → e.mpe.group? gid = some g →
    ∃ e' g', (s.addToks r gid ts).elem? r = some e' ∧ e'.mpe.group? gid = some g' ∧
      g'.cells.map (·.r) = g.cells.map (·.r) ++ ts.map .tok ∧ e'.mpe.travs = e.mpe.travs ∧
      (s.addToks r gid ts).mem = s.mem
  | [], s, e, g, he, hg => ⟨e, g, he, hg, by simp, rfl, rfl⟩
  | t :: ts, s, e, g, he, hg => by
    obtain ⟨e1, he1, hg1, ht1⟩ := addCell_there he hg (.tok t) 0 s.clock
    obtain ⟨e2, g2, he2, hg2, hcells, ht2, hm⟩ := addToks_there ts he1 hg1
    refine ⟨e2, g2, he2, hg2, ?_, ht2.trans ht1, hm⟩
    rw [hcells]
    simp

/-- A traversal with a name is there as it was changed. -/
theorem trav_replaced {m : MpeState} {x : Trav} (h : m.trav? gid = some x) (y : Trav) (hy : y.gid = gid) :
    (m.travs.map fun z => if z.gid = gid then y else z).find? (fun z => decide (z.gid = gid)) = some y := by
  rw [find_map Trav.gid gid (fun _ => y) fun _ _ => hy, if_pos rfl]
  exact congrArg (Option.map fun _ => y) h

theorem trav_changed {m : MpeState} {x : Trav} (h : m.trav? gid = some x) {f : Trav → Trav} (hf : ∀ z, (f z).gid = z.gid) :
    (m.travs.map fun z => if z.gid = gid then f z else z).find? (fun z => decide (z.gid = gid)) = some (f x) := by
  rw [find_map Trav.gid gid f fun z hz => (hf z).trans hz, if_pos rfl]
  exact congrArg (Option.map f) h

theorem modTrav_there {s : State} {e : Elem} {x : Trav} (he : s.elem? r = some e) (hx : e.mpe.trav? gid = some x)
    {f : Trav → Trav} (hf : ∀ z, (f z).gid = z.gid) :
    ∃ e', (s.modTrav r gid f).elem? r = some e' ∧ e'.mpe.trav? gid = some (f x) :=
  ⟨_, modMpe_there he fun m => { m with travs := m.travs.map fun z => if z.gid = gid then f z else z }, trav_changed hx hf⟩

end

/-! ### A traversal that is accepted -/

theorem arborLat_le (s : State) (die pa : Nat) : 14 ≤ arborLat s die .aiter pa := by
  unfold arborLat
  dsimp only
  omega

/-- A traversal's step waits until its group is empty, unless it only counts. -/
theorem room_iff {x : Trav} {g : RGroup} : (x.form == 2 || g.cells.isEmpty) = true ↔ x.form = 2 ∨ g.cells = [] := by simp

section
variable {s : State} {r : ElemRef} {gid : Nat} {e : Elem} {x : Trav} (h : elemActN s r gid e) (hx : e.mpe.trav? gid = some x)
include h hx

theorem exec_traversalStep_waits (hfree : s.walkerFree (homeDie x.hdr) = false) (htaken : x.taken = false) :
    exec .traversalStep s = .next s := by
  show execTraversalStep s = _
  rw [execTraversalStep, withElemN_there h]
  simp only [hx]
  exact congrArg _ (if_pos (.inr (.inr (.inr ⟨.inr (by rw [htaken]; exact Bool.false_ne_true),
    by rw [hfree]; exact Bool.false_ne_true⟩))))

/-- A traversal that the walker has accepted. -/
def Trav.accepted (x : Trav) (due : Nat) : Trav := { x with taken := true, due }

theorem exec_traversalStep_takes (hdue : x.due ≤ s.clock) {g : RGroup} (hg : e.mpe.group? gid = some g) (hroom : x.form = 2 ∨ g.cells = [])
    (hbusy : s.arborBusy x.hdr false = false) (hfree : s.walkerFree (homeDie x.hdr) = true) (htaken : x.taken = false) :
    exec .traversalStep s = .next ((s.useWalker (homeDie x.hdr)).modTrav r gid fun z =>
      z.accepted (s.clock + arborLat s r.die .aiter x.hdr - 1 + s.waitNow)).tick := by
  show execTraversalStep s = _
  rw [execTraversalStep, withElemN_there h]
  simp only [hx, hg]
  rw [if_neg ?_, if_pos (by rw [htaken]; exact Bool.false_ne_true)]
  · rfl
  · rw [room_iff.mpr hroom, hbusy, hfree]
    simp only [Bool.not_true, Bool.false_eq_true, not_true, and_false, or_false]
    omega

/-- A traversal after a step that gave entries. -/
def Trav.stepped (x : Trav) (clock : Nat) (es : List (Nat × Nat)) : Trav :=
  { x with
    last := match es.getLast? with
      | some p => some p.1
      | none => x.last
    started := true, count := x.count + es.length, due := clock + 1 }

/-- The key that a step starts from. -/
def Trav.from_ (x : Trav) : Nat :=
  match x.last with
  | some l => l + 1
  | none => x.lo

/-- The machine in which a step reads its arbor: a later step is an operation of its own (R321). -/
def State.stepping (s : State) (x : Trav) : State := if x.started then s.useWalker (homeDie x.hdr) else s

/-- The machine after a step of a traversal that gave entries. -/
def State.traversed (s : State) (r : ElemRef) (gid : Nat) (x : Trav) (t : Arb) (es : List (Nat × Nat)) (stop : Bool) : State :=
  let s2 := (s.modTrav r gid fun _ => x.stepped s.clock es).addToks r gid
    (if x.form = 2 then [] else t.tokens (x.form == 1) x.last es)
  if stop then
    s2.endTrav r (x.stepped s.clock es) (.tok (if x.form = 2 then dataTok 0 (BitVec.ofNat 64 (x.stepped s.clock es).count)
      else if x.form = 1 then endTok (t.ndim - 1) else endTok 0))
  else s2

theorem exec_traversalStep_goes (hdue : x.due ≤ s.clock) {g : RGroup} (hg : e.mpe.group? gid = some g) (hroom : x.form = 2 ∨ g.cells = [])
    (hbusy : s.arborBusy x.hdr false = false) (htaken : x.taken = true)
    (hfree : x.started = false ∨ s.walkerFree (homeDie x.hdr) = true) {t : Arb} {es : List (Nat × Nat)} {stop : Bool}
    (ht : readArb (s.stepping x) x.hdr x.size = .ok t) (hstep : t.step x.from_ x.hi = .ok (es, stop)) :
    exec .traversalStep s = .next ((s.stepping x).traversed r gid x t es stop) := by
  show execTraversalStep s = _
  rw [execTraversalStep, withElemN_there h]
  simp only [hx, hg]
  rw [if_neg ?_, if_neg (not_not.mpr htaken)]
  · change Host.Outcome.next (match (do
      let t ← readArb (s.stepping x) x.hdr x.size
      let (es, stop) ← t.step x.from_ x.hi
      return (t, es, stop)) with
      | .error err => _
      | .ok (t, es, stop) => _) = _
    rw [ht]
    change Host.Outcome.next (match (do
      let (es, stop) ← t.step x.from_ x.hi
      return (t, es, stop)) with
      | .error err => _
      | .ok (t, es, stop) => _) = _
    rw [hstep]
    rfl
  · rw [room_iff.mpr hroom, hbusy]
    simp only [Bool.not_true, Bool.false_eq_true, htaken, not_true, or_false, false_or]
    rintro (hlate | ⟨hstarted, hnot⟩)
    · omega
    · exact hfree.elim (fun hf => Bool.false_ne_true (hf.symm.trans hstarted)) hnot

end

section
variable {s : State} {r : ElemRef} {gid : Nat} {e : Elem} {x : Trav}

/-- The arbor that a step reads, and what it finds there, are those of the machine before. -/
theorem readArb_stepping {t : Arb} {es : List (Nat × Nat)} {stop : Bool} (ht : readArb s x.hdr x.size = .ok t)
    (hstep : t.step x.from_ x.hi = .ok (es, stop)) : ∃ t1, readArb (s.stepping x) x.hdr x.size = .ok t1 ∧
      t1.step x.from_ x.hi = .ok (es, stop) := by
  unfold State.stepping
  by_cases hs : x.started = true
  · rw [if_pos hs]
    exact ⟨_, readArb_withDies ht, (step_withDies _ _).trans hstep⟩
  · rw [if_neg hs]
    exact ⟨t, ht, hstep⟩

theorem stepping_rest : (s.stepping x).mem = s.mem ∧ (s.stepping x).elems = s.elems := by
  unfold State.stepping
  split
  · exact ⟨rfl, rfl⟩
  · exact ⟨rfl, rfl⟩

/-- The tokens of a plain traversal (R327). -/
theorem tokens_plain (t : Arb) : ∀ (last : Option Nat) (es : List (Nat × Nat)), t.tokens false last es =
    es.map fun p => coordTok p.1 p.2
  | _, [] => rfl
  | last, (k, v) :: es => by
    unfold Arb.tokens
    rw [tokens_plain t (some k) es]
    exact if_neg fun hf => Bool.false_ne_true hf.1

/-- A traversal that ends gives its last token and leaves its element. -/
theorem endTrav_ends {g : RGroup} (he : s.elem? r = some e) (hg : e.mpe.group? gid = some g) (hgid : x.gid = gid)
    (hform : x.form = 0) (rep : Reply) : ∃ e' g', (s.endTrav r x rep).elem? r = some e' ∧ e'.mpe.group? gid = some g' ∧
      g'.cells.map (·.r) = g.cells.map (·.r) ++ [rep] ∧ e'.mpe.trav? gid = none ∧ (s.endTrav r x rep).mem = s.mem := by
  subst hgid
  have he0 := modMpe_there he fun m => { m with travs := m.travs.filter fun y => decide (y.gid ≠ x.gid) }
  obtain ⟨e1, he1, hg1, ht1⟩ := addCell_there he0 hg rep 1 s.clock
  obtain ⟨e2, he2, hg2, ht2⟩ := closeGroup_there he1 hg1
  have hnone : (e.mpe.travs.filter fun y => decide (y.gid ≠ x.gid)).find? (fun z => decide (z.gid = x.gid)) = none := by
    refine List.find?_eq_none.mpr fun z hz => ?_
    simpa using (List.mem_filter.mp hz).2
  unfold State.endTrav
  rw [hform]
  refine ⟨e2, _, he2, hg2, by simp, ?_, rfl⟩
  rw [MpeState.trav?, ht2, ht1]
  exact hnone

/-- A traversal that gives its entries as tokens, and END0 at its end. -/
theorem traversed_gives {g : RGroup} (he : s.elem? r = some e) (hx : e.mpe.trav? gid = some x)
    (hgid : x.gid = gid) (hg : e.mpe.group? gid = some g) (hcells : g.cells = []) (hform : x.form = 0) (t : Arb) (es : List (Nat × Nat)) (stop : Bool) :
    ∃ e' g', (s.traversed r gid x t es stop).mem = s.mem ∧ (s.traversed r gid x t es stop).elem? r = some e' ∧
      e'.mpe.group? gid = some g' ∧
      g'.cells.map (·.r) = (es.map fun p => Reply.tok (coordTok p.1 p.2)) ++ (if stop then [.tok (endTok 0)] else []) ∧
      (e'.mpe.trav? gid).isSome = !stop := by
  have htoks : (if x.form = 2 then [] else t.tokens (x.form == 1) x.last es) = es.map fun p => coordTok p.1 p.2 := by
    rw [hform, if_neg (by decide)]
    exact tokens_plain t x.last es
  have he0 := modMpe_there he fun m => { m with travs := m.travs.map fun z => if z.gid = gid then x.stepped s.clock es else z }
  have htrav := trav_replaced hx (x.stepped s.clock es) hgid
  obtain ⟨e1, g1, he1, hg1, hcells1, ht1, hm1⟩ := addToks_there (gid := gid) (es.map fun p => coordTok p.1 p.2) he0 hg
  rw [hcells] at hcells1
  unfold State.traversed
  rw [htoks]
  cases stop with
  | false =>
    refine ⟨e1, g1, hm1, he1, hg1, ?_, ?_⟩
    · rw [hcells1]
      simp
    · show (e1.mpe.travs.find? fun z => decide (z.gid = gid)).isSome = true
      rw [ht1]
      exact congrArg Option.isSome htrav
  | true =>
    obtain ⟨e2, g2, he2, hg2, hcells2, ht2, hm2⟩ := endTrav_ends he1 hg1 (x := x.stepped s.clock es) hgid (by rw [← hform]; rfl)
      (.tok (endTok 0))
    rw [hform]
    refine ⟨e2, g2, hm2.trans hm1, he2, hg2, ?_, ?_⟩
    · rw [hcells2, hcells1]
      simp
    · rw [ht2]
      rfl

/-- A traversal that only counts gives no token before its end (R328). -/
theorem traversed_counts (he : s.elem? r = some e) (hx : e.mpe.trav? gid = some x) (hgid : x.gid = gid) (hform : x.form = 2)
    (t : Arb) (es : List (Nat × Nat)) : ∃ e' x', (s.traversed r gid x t es false).mem = s.mem ∧
      (s.traversed r gid x t es false).elem? r = some e' ∧ e'.mpe.trav? gid = some x' ∧ x'.count = x.count + es.length ∧
      e'.mpe.groups = e.mpe.groups := by
  have he0 := modMpe_there he fun m => { m with travs := m.travs.map fun z => if z.gid = gid then x.stepped s.clock es else z }
  have htrav := trav_replaced hx (x.stepped s.clock es) hgid
  unfold State.traversed
  rw [hform]
  exact ⟨_, _, rfl, he0, htrav, rfl, rfl⟩

end

/-! ### The obligation -/

section
variable {s : State} {hdr size : Nat}

/-- Fields of a header that break their limits. -/
theorem header_limits_breach (hbad : ∀ k, k < 32 → s.isBad (hdr + 8 * k) = false)
    (hbreach : fld (s.word (hdr + 8 * 0)) 62 2 ≠ 3 ∨ (fld (s.word (hdr + 8 * 0)) 58 4 ≠ 1 ∧ fld (s.word (hdr + 8 * 0)) 58 4 ≠ 4) ∨
      fld (s.word (hdr + 8 * 0)) 0 24 < 2 ∨ fld (s.word (hdr + 8 * 0)) 24 8 = 0 ∨ fld (s.word (hdr + 8 * 1)) 32 32 = 0 ∨
      fld (s.word (hdr + 8 * 0)) 0 24 ≤ fld (s.word (hdr + 8 * 1)) 32 32 ∨
      fld (s.word (hdr + 8 * 0)) 0 24 ≤ fld (s.word (hdr + 8 * 1)) 0 32 ∨ size < 256 * fld (s.word (hdr + 8 * 0)) 0 24 ∨
      ∃ k, 4 ≤ k ∧ k < 32 ∧ s.word (hdr + 8 * k) ≠ 0) : readArb s hdr size = .error ⟨Cause.arborHdr, 0⟩ := by
  refine header_breach hbad fun hgood => ?_
  obtain ⟨hkind, hfmt, hnn, hheight, hroot, hin, hfree, hrest, hsize⟩ := headerGood_limits hgood
  change fld (s.word (hdr + 8 * 0)) 62 2 = 3 at hkind
  change fld (s.word (hdr + 8 * 0)) 58 4 = 1 ∨ fld (s.word (hdr + 8 * 0)) 58 4 = 4 at hfmt
  change 2 ≤ fld (s.word (hdr + 8 * 0)) 0 24 at hnn
  change 1 ≤ fld (s.word (hdr + 8 * 0)) 24 8 at hheight
  change 1 ≤ fld (s.word (hdr + 8 * 1)) 32 32 at hroot
  change fld (s.word (hdr + 8 * 1)) 32 32 < fld (s.word (hdr + 8 * 0)) 0 24 at hin
  change fld (s.word (hdr + 8 * 1)) 0 32 < fld (s.word (hdr + 8 * 0)) 0 24 at hfree
  change 256 * fld (s.word (hdr + 8 * 0)) 0 24 ≤ size at hsize
  rcases hbreach with h | h | h | h | h | h | h | h | ⟨k, h4, h32, h⟩
  · exact h hkind
  · exact hfmt.elim h.1 h.2
  · omega
  · omega
  · omega
  · omega
  · omega
  · omega
  · exact h (headerRest_word hrest h4 h32)

end

section
variable {t : Arb} {i level lo hi : Nat}

/-- Fields of a node that break their limits. -/
theorem node_limits_breach (hw : ∀ m, (i, m) ∉ t.nodes) (hpos : 0 < i) (hnn : i < t.nn)
    (hbad : ∀ k, k < 32 → t.s.isBad (t.hdr + 256 * i + 8 * k) = false)
    (hbreach : fld (arborWord t.s t.hdr i 0) 62 2 ≠ (if level = 0 then 1 else 2) ∨ fld (arborWord t.s t.hdr i 0) 40 8 ≠ level ∨
      (level = 0 ∧ 30 < fld (arborWord t.s t.hdr i 0) 48 8) ∨
      (level ≠ 0 ∧ (fld (arborWord t.s t.hdr i 0) 48 8 < 2 ∨ 31 < fld (arborWord t.s t.hdr i 0) 48 8)) ∨
      (∃ k, k + 1 < fld (arborWord t.s t.hdr i 0) 48 8 ∧
        fld (arborWord t.s t.hdr i ((if level = 0 then 2 else 1) + (k + 1))) 32 32 ≤
          fld (arborWord t.s t.hdr i ((if level = 0 then 2 else 1) + k)) 32 32) ∨
      (∃ k, k < fld (arborWord t.s t.hdr i 0) 48 8 ∧ hi ≤ fld (arborWord t.s t.hdr i ((if level = 0 then 2 else 1) + k)) 32 32) ∨
      (level = 0 ∧ ∃ k, k < fld (arborWord t.s t.hdr i 0) 48 8 ∧
        fld (arborWord t.s t.hdr i ((if level = 0 then 2 else 1) + k)) 32 32 < lo)) :
    t.node i level lo hi = .error ⟨Cause.arborOrder, i⟩ := by
  refine node_order (fun ⟨m, hm⟩ => hw m hm) hpos hnn ((nodeBad_false _ _).mpr hbad) fun hfits => ?_
  obtain ⟨hnode, hplain⟩ := fits_iff.mp hfits
  have hlen : (t.reads i level).ents.length = fld (arborWord t.s t.hdr i 0) 48 8 := by simp [Arb.reads]
  rcases hbreach with h | h | ⟨hl, h⟩ | ⟨hl, h⟩ | ⟨k, hk, h⟩ | ⟨k, hk, h⟩ | ⟨hl, k, hk, h⟩
  · exact h hnode.kind
  · exact h hplain.place
  · have := (hnode.leaf hl).1
    omega
  · obtain ⟨hmin, hmax, -⟩ := hnode.inner hl
    omega
  · have := reads_keys_rise hnode.rising hk
    omega
  · exact Nat.not_lt_of_le h (hnode.below _ (reads_mem hk))
  · exact Nat.not_le_of_lt h ((hnode.leaf hl).2.2 _ (reads_mem hk))

end

section
variable {s : State} {n : Nat} {w : Access} {op : MOp} {k v size : Nat} (ha : s.actor = .id n) (hw : s.acc? n = some w)
  (hop : w.op = .arbor op k v size) (hdue : w.due ≤ s.clock) (htaken : w.taken = true)
  (hbusy : s.arborBusy w.pa (writesArbor op) = false)
include ha hw hop hdue htaken hbusy

/-- An accepted operation does what `arborDo` answers. -/
theorem arborPoint_does : exec .arborPoint s = .next (match arborDo s op w.pa size k v with
    | .error x => s.arborFailed w op x
    | .ok d => s.arborDone w op k v d) :=
  (exec_arborPoint ha hw hop hdue).trans ((if_neg (not_not.mpr htaken)).trans
    (if_neg fun hb => Bool.false_ne_true (hbusy.symm.trans hb)))

theorem arborPoint_fails {x : AErr} (hx : arborDo s op w.pa size k v = .error x) :
    (∃ s', exec .arborPoint s = .next s' ∧ s'.mem = s.mem ∧ s'.acc? n = none) ∧
      (op = .ald ∨ op = .acntH → x.cause ≠ Cause.uncorrectable → exec .arborPoint s =
        .next ((s.dropAcc n).reply w.ref w.gid w.cell (s.arborFail w.ref w.gid x) (s.clock + w.back))) := by
  have hdoes := arborPoint_does ha hw hop hdue htaken hbusy
  rw [hx] at hdoes
  obtain rfl := acc_id hw
  obtain ⟨hmem, hacc⟩ := arborFailed_rest (s := s) (w := w) (op := op) x
  exact ⟨⟨_, hdoes, hmem, hacc⟩, fun hread hcause => hdoes.trans (congrArg _ (arborFailed_replies hread hcause))⟩

theorem arborPoint_reads {t : Tok} (hread : op = .ald ∨ op = .acntH) (hx : arborDo s op w.pa size k v = .ok ⟨s, t, 0⟩) :
    exec .arborPoint s = .next ((s.dropAcc n).reply w.ref w.gid w.cell (.tok t) (s.clock + w.back)) := by
  have hdoes := arborPoint_does ha hw hop hdue htaken hbusy
  rw [hx] at hdoes
  obtain rfl := acc_id hw
  exact hdoes.trans (congrArg _ (arborDone_reads hread))

theorem arborPoint_writes {d : ADone} (hwrite : op = .ast ∨ op = .aaddc) (hx : arborDo s op w.pa size k v = .ok d) :
    ∃ s', exec .arborPoint s = .next s' ∧ s'.mem = d.s.mem ∧ s'.acc? n = none := by
  have hdoes := arborPoint_does ha hw hop hdue htaken hbusy
  rw [hx] at hdoes
  obtain rfl := acc_id hw
  obtain ⟨hmem, hacc⟩ := arborDone_writes (s := s) (w := w) (k := k) (v := v) d hwrite
  exact ⟨_, hdoes, hmem, hacc⟩

end

section
variable {s : State} {hdr size k v : Nat} {t : Arb}

theorem arborDo_error {x : AErr} (h : readArb s hdr size = .error x) (op : MOp) : arborDo s op hdr size k v = .error x := by
  unfold arborDo
  rw [h]
  rfl

theorem arborDo_count (h : readArb s hdr size = .ok t) : arborDo s .acntH hdr size k v =
    .ok ⟨s, dataTok 0 (BitVec.ofNat 64 (t.nfree * 2 ^ 32 + t.nent)), 0⟩ := by
  unfold arborDo
  rw [h]
  rfl

theorem arborDo_lookup (h : readArb s hdr size = .ok t) : arborDo s .ald hdr size k v = (t.find k).bind fun f =>
    .ok ⟨s, coordTok k (f.value k), 0⟩ := by
  unfold arborDo
  rw [h]
  rfl

theorem arborDo_store (h : readArb s hdr size = .ok t) : arborDo s .ast hdr size k v = (t.store k v).bind fun t1 =>
    .ok ⟨t1.commit, orderTok 3, t1.cost⟩ := by
  unfold arborDo
  rw [h]
  rfl

theorem arborDo_add (h : readArb s hdr size = .ok t) {f : AFound} (hf : t.find k = .ok f) : arborDo s .aaddc hdr size k v =
    (t.store k (t.add (f.value k) v)).bind fun t1 => .ok ⟨t1.commit, coordTok k (f.value k), t1.cost⟩ := by
  unfold arborDo
  rw [h]
  change (t.find k).bind _ = _
  rw [hf]
  rfl

end

/-- Settles O41: the walker's checks are those of `headerGood` and `Arb.fits`; a store that takes and frees no node rewrites
one leaf in place, so that a search passes the same nodes; a traversal's step stands at a leaf whose bounds are those of the
search for each of its keys; and the walker's steps answer what `arborDo` does. -/
theorem arborSteps : Obligations.ArborSteps := by
  unfold Obligations.ArborSteps
  refine ⟨fun s hdr size => ⟨fun ⟨k, hk, hbad⟩ => header_uncorrectable hk hbad, header_limits_breach⟩,
    fun t i level lo hi => ⟨node_breach level lo hi, node_limits_breach⟩, fun s hdr size k v t t1 hm hk hv ht hstore hflat => ?_,
    fun t k hi es ends hstep => ?_, fun s n w op k v size ha hw hop hdue => ?_,
    fun s r gid e x h hx hgid hdue htaken hroom hgroup hbusy => ⟨fun hfree => exec_traversalStep_waits h hx hfree htaken, fun hfree => ?_⟩,
    fun s r gid e x g t es stop h hx hgid hg hdue hbusy htaken hfree ht hstep => ?_⟩
  · obtain ⟨t2, hread, hfound, hothers⟩ := store_reads_back hm hk hv ht hstore hflat
    exact ⟨t2, hread, hfound, fun j f f' hne _ => hothers j f f' hne⟩
  · rcases step_gives hstep with ⟨rfl, rfl⟩ | ⟨hne, g, hg, rfl⟩
    · exact ⟨by decide, fun _ => rfl, .nil, fun p hp => absurd hp List.not_mem_nil⟩
    · refine ⟨List.length_take_le _ _, fun he => absurd he hne, window_rising hg k hi, fun p hp => ?_⟩
      obtain ⟨hlow, hhigh⟩ := window_bounds hp
      exact ⟨hlow, hhigh, stands_value hg ((window_sublist _ _ _).subset hp)⟩
  · have haccept : w.taken = false → exec .arborPoint s = .next (s.acceptArbor w op) := fun htaken => by
      rw [exec_arborPoint ha hw hop hdue, if_pos (by rw [htaken]; exact Bool.false_ne_true)]
    refine ⟨fun htaken hwait => ?_, fun htaken hheld hbusy hfree => ?_, fun htaken hbusy => ?_, fun htaken hbusy =>
      ⟨fun x hx => arborPoint_fails ha hw hop hdue htaken hbusy (arborDo_error hx op), fun t ht => ⟨?_, fun f hf => ⟨?_, ?_⟩, ?_, ?_, ?_⟩⟩⟩
    · rw [haccept htaken, acceptArbor_waits hwait]
    · obtain ⟨hmem, helems, hacc⟩ := acceptArbor_access hw hheld hbusy hfree
      exact ⟨_, _, haccept htaken, hmem, helems, hacc, rfl, Nat.le_add_right _ _⟩
    · rw [exec_arborPoint ha hw hop hdue, if_neg (not_not.mpr htaken)]
      exact if_pos hbusy
    · rintro rfl
      exact arborPoint_reads ha hw hop hdue htaken hbusy (.inr rfl) (arborDo_count ht)
    · rintro rfl
      exact arborPoint_reads ha hw hop hdue htaken hbusy (.inl rfl) ((arborDo_lookup ht).trans (by rw [hf]; rfl))
    · rintro t1 rfl hstore
      exact arborPoint_writes ha hw hop hdue htaken hbusy (d := ⟨_, _, _⟩) (.inr rfl)
        ((arborDo_add ht hf).trans (by rw [hstore]; rfl))
    · rintro x rfl hf
      exact arborPoint_fails ha hw hop hdue htaken hbusy ((arborDo_lookup ht).trans (by rw [hf]; rfl))
    · rintro x rfl hstore
      exact arborPoint_fails ha hw hop hdue htaken hbusy ((arborDo_store ht).trans (by rw [hstore]; rfl))
    · rintro t1 rfl hstore
      exact arborPoint_writes ha hw hop hdue htaken hbusy (d := ⟨_, _, _⟩) (.inl rfl)
        ((arborDo_store ht).trans (by rw [hstore]; rfl))
  · obtain ⟨g, hg⟩ := Option.isSome_iff_exists.mp hgroup
    have hspace : x.form = 2 ∨ g.cells = [] := hroom.imp_right fun ⟨g', hg', hcells⟩ => by
      rw [Option.some.inj (hg.symm.trans hg')]
      exact hcells
    have hlat := arborLat_le s r.die x.hdr
    have hexec := exec_traversalStep_takes h hx hdue hg hspace hbusy hfree htaken
    obtain ⟨e', he', hx'⟩ := modTrav_there (s := s.useWalker (homeDie x.hdr)) h.2 hx
      (f := fun z => z.accepted (s.clock + arborLat s r.die .aiter x.hdr - 1 + s.waitNow)) fun _ => rfl
    exact ⟨_, e', _, hexec, rfl, he', hx', rfl, by simp only [Trav.accepted]; omega⟩
  · obtain ⟨t1, ht1, hstep1⟩ := readArb_stepping ht hstep
    obtain ⟨hmem, helems⟩ := stepping_rest (s := s) (x := x)
    have he : (s.stepping x).elem? r = some e := by rw [State.elem?, helems]; exact h.2
    refine ⟨fun hform hcells => ?_, fun hform hstop => ?_⟩
    · have hexec := exec_traversalStep_goes h hx hdue hg (.inr hcells) hbusy htaken hfree ht1 hstep1
      obtain ⟨e', g', hm, he', hg', htoks, htrav⟩ := traversed_gives he hx hgid hg hcells hform t1 es stop
      exact ⟨_, e', g', hexec, hm.trans hmem, he', hg', htoks, htrav⟩
    · subst hstop
      have hexec := exec_traversalStep_goes h hx hdue hg (.inl hform) hbusy htaken hfree ht1 hstep1
      obtain ⟨e', x', hm, he', hx', hcount, hgroups⟩ := traversed_counts he hx hgid hform t1 es
      exact ⟨_, e', x', hexec, hm.trans hmem, he', hx', hcount, hgroups⟩

end Sys2Proof.Machine
end

section
/-! SUPPORT. Command blocks (R286, R386): the words of a block are read, and a block that is read is checked. -/
namespace Sys2Proof.Machine
open Sys2Proof Sys2Proof.Safety

/-! ### Steps that leave the queue of issues -/

/-- A step leaves memory and the queue of issues of a port. -/
def keepsQueue (r : ElemRef) (s s' : State) : Prop :=
  s'.mem = s.mem ∧ ∀ e, s.elem? r = some e → ∃ e', s'.elem? r = some e' ∧ e'.mpe.issueQ = e.mpe.issueQ

section
variable {r : ElemRef}

theorem keepsQueue.refl (s : State) : keepsQueue r s s := ⟨rfl, fun e he => ⟨e, he, rfl⟩⟩

theorem keepsQueue.trans {a b c : State} (h1 : keepsQueue r a b) (h2 : keepsQueue r b c) : keepsQueue r a c := by
  refine ⟨h2.1.trans h1.1, fun e he => ?_⟩
  obtain ⟨e1, he1, hq1⟩ := h1.2 e he
  obtain ⟨e2, he2, hq2⟩ := h2.2 e1 he1
  exact ⟨e2, he2, hq2.trans hq1⟩

theorem keepsQueue.of_elems {s s' : State} (hmem : s'.mem = s.mem) (helems : s'.elems = s.elems) : keepsQueue r s s' :=
  ⟨hmem, fun e he => ⟨e, by rw [State.elem?, helems]; exact he, rfl⟩⟩

theorem modGroup_keepsQueue (s : State) (gid : Nat) (f : RGroup → RGroup) : keepsQueue r s (s.modGroup r gid f) :=
  ⟨rfl, fun _ he => ⟨_, modMpe_there he fun m => m.modGroup gid f, rfl⟩⟩

theorem addCell_keepsQueue (s : State) (gid : Nat) (rep : Reply) (credit due : Nat) : keepsQueue r s (s.addCell r gid rep credit due) :=
  modGroup_keepsQueue s gid fun g => { g with cells := g.cells ++ [⟨s.nextId, rep, credit, due⟩] }

theorem reply_keepsQueue (s : State) (gid cell : Nat) (rep : Reply) (due : Nat) : keepsQueue r s (s.reply r gid cell rep due) :=
  modGroup_keepsQueue s gid fun g =>
    if g.op = .rld ∧ rep.fails then
      { g with cells := g.cells.mapIdx fun k c => { c with r := if k = 0 then rep else .silent, due := due } }
    else
      { g with cells := g.cells.map fun c => if c.id = cell ∧ c.r = .wait then { c with r := rep, due := due } else c }

theorem cmdStatus_keepsQueue (s : State) (gid cell code info due : Nat) :
    keepsQueue r s (s.cmdStatus r gid cell code info due) :=
  (modGroup_keepsQueue s gid fun g => { g with outc := code == 0 }).trans (reply_keepsQueue _ gid cell _ due)

theorem onlyLogs.keepsQueue {s s' : State} (h : onlyLogs s s') : keepsQueue r s s' := by
  rw [onlyLogs] at h
  rw [h]
  exact .refl _

end

theorem statusTok_data (code info : Nat) : (statusTok code info).isFault = false := rfl

theorem cmdStatus_rest (s : State) (r : ElemRef) (gid cell code info due : Nat) :
    (s.cmdStatus r gid cell code info due).cmds = s.cmds ∧ (s.cmdStatus r gid cell code info due).mem = s.mem := ⟨rfl, rfl⟩

/-- A status reaches the last cell of its group. -/
theorem cmdStatus_last {s : State} {r : ElemRef} {gid cell credit due0 : Nat} {e : Elem} {g : RGroup} {cs : List Cell}
    (he : s.elem? r = some e) (hg : e.mpe.group? gid = some g) (hcells : g.cells = cs ++ [⟨cell, .wait, credit, due0⟩])
    (code info due : Nat) : ∃ g', (s.cmdStatus r gid cell code info due).group? r gid = some g' ∧ g'.outc = (code == 0) ∧
      g'.opened = g.opened ∧ g'.cells.getLast? = some ⟨cell, .tok (statusTok code info), credit, due⟩ := by
  obtain ⟨e1, he1, hg1, -⟩ := modGroup_there he hg (fun g => { g with outc := code == 0 }) fun _ => rfl
  obtain ⟨e2, he2, hg2, -⟩ := modGroup_there he1 hg1 (fun g =>
    if g.op = .rld ∧ (Reply.tok (statusTok code info)).fails then
      { g with cells := g.cells.mapIdx fun k c => { c with r := if k = 0 then .tok (statusTok code info) else .silent, due := due } }
    else
      { g with cells := g.cells.map fun c =>
          if c.id = cell ∧ c.r = .wait then { c with r := .tok (statusTok code info), due := due } else c }) fun g => by
    split <;> rfl
  rw [if_neg fun hf => Bool.false_ne_true ((statusTok_data code info).symm.trans hf.2)] at hg2
  refine ⟨_, (state_group he2 gid).trans hg2, rfl, rfl, ?_⟩
  simp [hcells]

theorem enqueueCmd_queueOf (x : Die) (op : MOp) (id : Nat) : (x.enqueueCmd op id).queueOf op = x.queueOf op ++ [id] := by
  unfold Die.enqueueCmd Die.queueOf
  by_cases hcve : op = .cve
  · simp only [if_pos hcve]
  · by_cases hred : isReduction op = true
    · simp only [if_neg hcve, if_pos hred]
    · simp only [if_neg hcve, if_neg hred]

/-! ### A block that is read -/

/-- The machine with the issue of a block taken out of its queue, and its cell in its group. -/
def State.blockTaken (s : State) (r : ElemRef) (gid : Nat) : State :=
  ((s.modMpe r fun m => { m with issueQ := m.issueQ.filter fun x => decide (x.gid ≠ gid) }).addCell r gid .wait 3 0).closeGroup r gid

/-- The command that a block makes. -/
def State.blockCmd (s : State) (e : Elem) (i : Issue) (pa : Nat) (b : List Word) (ss ds : List Range) (id : Nat) : Cmd :=
  { id := id, die := e.ref.die, op := i.op, ref := e.ref, gid := i.gid, cell := s.nextId, slot := opSlot i.a,
    task := s.taskOf e.ref.load i.a, handle := fld i.b 0 32, blk := b, blkVa := i.a, blkPa := pa, st := 0,
    srcs := ss, dsts := ds, len := cmdLen i.op b, done := 0, cause := 0, due := s.clock + s.waitNow,
    hdr := (s.arbOf e.ref.load i.op i.a b).1, size := (s.arbOf e.ref.load i.op i.a b).2, words := [], next := 0, fail := none,
    snap := [], ents := [], key := some (fld (blk b 2) 0 32), planned := false, spots := [], phases := [] }

/-- Words of the block that a step reads. -/
def State.blockWordsNow (s : State) (e : Elem) (i : Issue) : List (Nat × Nat × Word) :=
  (s.actNow i.blockTodo.length).filterMap fun j =>
    let a := (s.check e.ref.load i.a (needBlock i.op)).pa + 8 * i.blockTodo.getD j 0
    if s.blockHeld e a then none
    else some (i.blockTodo.getD j 0, if s.isBad a then Cause.uncorrectable else 0, s.word a)

/-- A word that a step reads is one of the block that no command or write in flight holds. -/
theorem blockWordsNow_mem {s : State} {e : Elem} {i : Issue} {w : Nat × Nat × Word} (hw : w ∈ s.blockWordsNow e i) : w.1 < blockWords i.op ∧
    s.blockHeld e ((s.check e.ref.load i.a (needBlock i.op)).pa + 8 * w.1) = false ∧
    w.2 = (if s.isBad ((s.check e.ref.load i.a (needBlock i.op)).pa + 8 * w.1) then Cause.uncorrectable else 0,
      s.word ((s.check e.ref.load i.a (needBlock i.op)).pa + 8 * w.1)) := by
  obtain ⟨j, hj, hw⟩ := List.mem_filterMap.mp hw
  have hlt := State.actNow_mem hj
  dsimp only at hw
  split at hw
  · exact absurd hw nofun
  next hheld =>
    obtain rfl := Option.some.inj hw
    have hmem : i.blockTodo.getD j 0 ∈ i.blockTodo := by
      rw [List.getD_eq_getElem _ _ hlt]
      exact List.getElem_mem hlt
    exact ⟨List.mem_range.mp (List.mem_filter.mp hmem).1, eq_false_of_ne_true hheld, rfl⟩

section
variable {s : State} {r : ElemRef} {gid : Nat} {e : Elem} {i : Issue} (he : s.elem? r = some e) (hi : i.gid = gid)
include he

theorem blockTaken_queue : ∃ e1, (s.blockTaken r gid).elem? r = some e1 ∧
    e1.mpe.issueQ.find? (fun i => decide (i.gid = gid)) = none := by
  have he0 := modMpe_there he fun m => { m with issueQ := m.issueQ.filter fun x => decide (x.gid ≠ gid) }
  obtain ⟨e1, he1, hq1⟩ := ((addCell_keepsQueue _ gid .wait 3 0).trans (modGroup_keepsQueue _ gid fun g =>
    { g with opened := false })).2 _ he0
  refine ⟨e1, he1, ?_⟩
  rw [hq1]
  exact List.find?_eq_none.mpr fun x hx => by simpa using (List.mem_filter.mp hx).2

include hi

theorem blockChecked_keeps : keepsQueue r (s.blockTaken r gid) (s.blockChecked e i) := by
  obtain rfl := elem_ref he
  obtain rfl := hi
  unfold State.blockChecked
  dsimp only
  split
  · refine .trans ?_ (reply_keepsQueue _ _ _ _ _)
    split
    · exact (logElem_onlyLogs _ e).keepsQueue
    · exact .refl _
  · exact cmdStatus_keepsQueue _ _ _ _ _ _
  · exact .of_elems rfl rfl

/-- A block that is checked has left its queue. -/
theorem blockChecked_leaves : (s.blockChecked e i).mem = s.mem ∧ ∀ e', (s.blockChecked e i).elem? r = some e' →
    e'.mpe.issueQ.find? (fun i => decide (i.gid = gid)) = none := by
  have hkeeps := blockChecked_keeps he hi
  obtain ⟨e1, he1, hq1⟩ := blockTaken_queue (gid := gid) he
  refine ⟨hkeeps.1, fun e' he' => ?_⟩
  obtain ⟨e2, he2, hq2⟩ := hkeeps.2 e1 he1
  obtain rfl := Option.some.inj (he2.symm.trans he')
  rw [hq2]
  exact hq1

omit hi in
/-- A block that passes its checks enters its queue as a command. -/
theorem blockChecked_queue {pa : Nat} {b : List Word} {ss ds : List Range} (hq : s.checkBlock e i = .queue pa b ss ds) :
    (s.blockChecked e i).cmds = s.cmds ++ [s.blockCmd e i pa b ss ds (s.nextId + 1)] ∧ (s.blockChecked e i).mem = s.mem ∧
      ∀ x, s.die? r.die = some x → (s.blockChecked e i).die? r.die = some (x.enqueueCmd i.op (s.nextId + 1)) := by
  obtain rfl := elem_ref he
  unfold State.blockChecked
  dsimp only
  rw [hq]
  refine ⟨rfl, rfl, fun x hx => ?_⟩
  exact modDie_there (s := s.blockTaken e.ref i.gid) hx (fun d => d.enqueueCmd i.op (s.nextId + 1)) fun d => by
    unfold Die.enqueueCmd
    split
    · exact id
    · split
      · exact id
      · exact id

/-- A block whose check answers a status has it in its group. -/
theorem blockChecked_status {code info : Nat} {g : RGroup} (hq : s.checkBlock e i = .status code info)
    (hg : s.group? r gid = some g) : (s.blockChecked e i).cmds = s.cmds ∧ (s.blockChecked e i).mem = s.mem ∧
      ∃ g', (s.blockChecked e i).group? r gid = some g' ∧ g'.outc = (code == 0) ∧ g'.opened = false ∧
        g'.cells.getLast? = some ⟨s.nextId, .tok (statusTok code info), 3, s.clock + 3⟩ := by
  obtain rfl := elem_ref he
  obtain rfl := hi
  rw [state_group he] at hg
  have hstatus : s.blockChecked e i =
      (s.blockTaken e.ref i.gid).cmdStatus e.ref i.gid s.nextId code info (s.clock + 3) := by
    unfold State.blockChecked
    rw [hq]
    rfl
  rw [hstatus]
  have he0 := modMpe_there he fun m => { m with issueQ := m.issueQ.filter fun x => decide (x.gid ≠ i.gid) }
  obtain ⟨e1, he1, hg1, -⟩ := addCell_there (gid := i.gid) he0 hg .wait 3 0
  obtain ⟨e2, he2, hg2, -⟩ := closeGroup_there he1 hg1
  obtain ⟨hcmds, hmem⟩ := cmdStatus_rest (s.blockTaken e.ref i.gid) e.ref i.gid s.nextId code info (s.clock + 3)
  exact ⟨hcmds, hmem, cmdStatus_last (s := s.blockTaken e.ref i.gid) (cs := g.cells) he2 hg2 rfl code info (s.clock + 3)⟩

theorem readBlock_there (hf : (e.mpe.issueQ.find? fun i => decide (i.gid = gid)) = some i) :
    ∃ e1, (s.readBlock e i).elem? r = some e1 ∧
      (e1.mpe.issueQ.find? fun i => decide (i.gid = gid)) = some { i with got := i.got ++ s.blockWordsNow e i } := by
  obtain rfl := elem_ref he
  obtain rfl := hi
  refine ⟨_, modMpe_there he fun m => { m with issueQ := m.issueQ.map fun x =>
    if x.gid = i.gid then { x with got := x.got ++ s.blockWordsNow e i } else x }, ?_⟩
  show (e.mpe.issueQ.map fun x => if x.gid = i.gid then { x with got := x.got ++ s.blockWordsNow e i } else x).find?
    (fun x => decide (x.gid = i.gid)) = _
  rw [find_map Issue.gid i.gid (fun x => { x with got := x.got ++ s.blockWordsNow e i }) fun _ h => h, if_pos rfl, hf]
  rfl

end

section
variable {s : State} {r : ElemRef} {gid : Nat} {e : Elem} {i : Issue} (h : elemActN s r gid e)
  (hf : (e.mpe.issueQ.find? fun i => decide (i.gid = gid)) = some i) (hop : isCommand i.op = true)
include h hf hop

theorem exec_commandBlockCheck_checks (hread : s.blockRead e i = true) : exec .commandBlockCheck s = .next (s.blockChecked e i) := by
  show execCommandBlockCheck s = _
  rw [execCommandBlockCheck, withElemN_there h]
  simp only [hf]
  rw [if_neg (not_not.mpr hop), if_pos hread]

theorem exec_commandBlockCheck_reads (hread : s.blockRead e i = false) : ∃ s', exec .commandBlockCheck s = .next s' ∧
    s'.mem = s.mem ∧ ∀ e' i', s'.elem? r = some e' → (e'.mpe.issueQ.find? fun i => decide (i.gid = gid)) = some i' →
      i' = { i with got := i.got ++ s.blockWordsNow e i } := by
  have hi : i.gid = gid := by simpa using List.find?_some hf
  obtain ⟨e1, he1, hf1⟩ := readBlock_there h.2 hi hf
  have hexec : exec .commandBlockCheck s = .next (
      if (s.readBlock e i).blockRead e1 { i with got := i.got ++ s.blockWordsNow e i }
      then (s.readBlock e i).blockChecked e1 { i with got := i.got ++ s.blockWordsNow e i } else s.readBlock e i) := by
    show execCommandBlockCheck s = _
    rw [execCommandBlockCheck, withElemN_there h]
    simp only [hf]
    rw [if_neg (not_not.mpr hop), if_neg (by rw [hread]; exact Bool.false_ne_true)]
    simp only [he1, hf1]
  refine ⟨_, hexec, ?_⟩
  split
  · obtain ⟨hmem, hleft⟩ := blockChecked_leaves (i := { i with got := i.got ++ s.blockWordsNow e i }) he1 hi
    exact ⟨hmem, fun e' i' he' hi' => absurd ((hleft e' he').symm.trans hi') nofun⟩
  · refine ⟨rfl, fun e' i' he' hi' => ?_⟩
    obtain rfl := Option.some.inj (he1.symm.trans he')
    exact Option.some.inj (hi'.symm.trans hf1)

end

end Sys2Proof.Machine
end

section
/-! SUPPORT. Engine commands at their acceptance and at their end (R360, R387, R389, R391). -/
namespace Sys2Proof.Machine
open Sys2Proof Sys2Proof.Safety

/-! ### Commands in flight -/

section
variable {s : State} {n : Nat} {c : Cmd}

theorem cmd_id (h : s.cmd? n = some c) : c.id = n := by
  simpa using List.find?_some h

theorem modCmd_there (h : s.cmd? n = some c) {f : Cmd → Cmd} (hf : ∀ x, x.id = n → (f x).id = n) :
    (s.modCmd n f).cmd? n = some (f c) := by
  show (s.cmds.map fun x => if x.id = n then f x else x).find? (fun x => decide (x.id = n)) = _
  rw [find_map Cmd.id n f hf, if_pos rfl]
  exact congrArg (Option.map f) h

theorem cmd_of_cmds {s' : State} (h : s'.cmds = s.cmds) (n : Nat) : s'.cmd? n = s.cmd? n := by
  rw [State.cmd?, h, State.cmd?]

theorem setPend_cmds (s : State) (h v : Nat) : (s.setPend h v).cmds = s.cmds := by
  unfold State.setPend
  obtain ⟨m, hm⟩ := setRecField_rest s h 0x08 0 32 v
  rw [hm]

end

/-! ### Acceptance -/

/-- A command that is accepted, or fails with WEIGHT_BUSY. -/
def Cmd.accepted (c : Cmd) (busy : Bool) (due : Nat) : Cmd :=
  { c with st := if busy then 2 else 1, cause := if busy then Cause.weightBusy else 0, due }

/-- The machine with a command taken out of its queue. -/
def State.cmdTaken (s : State) (c : Cmd) : State :=
  (s.modDie c.die fun d => d.dequeueCmd c.id).modCmd c.id fun x => x.accepted (s.weightBusy c) (s.clock + 1)

section
variable {s : State} {n : Nat} {c : Cmd} (ha : s.actor = .id n) (hc : s.cmd? n = some c)
include ha hc

theorem exec_commandAcceptance (hst : c.st = 0) (hdue : c.due ≤ s.clock) (hfree : s.sbFree c = true)
    (hconf : s.sbConflict c = false) (hland : s.landing c = false) (hwalk : s.walkerWrites c = false) :
    exec .commandAcceptance s =
      .next (((s.cmdTaken c).setPend c.task (s.trPend c.task + 1)).cmdStatus c.ref c.gid c.cell 0 0 s.clock) := by
  obtain rfl := cmd_id hc
  show execCommandAcceptance s = _
  simp only [execCommandAcceptance, ha, hc]
  refine if_neg ?_
  rw [hfree, hconf, hland, hwalk]
  simp [hst, hdue]

/-- A command that is accepted counts in PEND of its task (R387). -/
theorem acceptance_counts {a : Nat} (hm : Memory.wf s.mem = true) (hst : c.st = 0) (hdue : c.due ≤ s.clock)
    (hfree : s.sbFree c = true) (hconf : s.sbConflict c = false) (hland : s.landing c = false) (hwalk : s.walkerWrites c = false)
    (hrec : s.recAddr c.task = some a) (hpend : s.trPend c.task < 2 ^ 32 - 1) : ∃ s', exec .commandAcceptance s = .next s' ∧
      s'.trPend c.task = s.trPend c.task + 1 ∧ onlyBytes s s' (a + 8) 8 ∧
      s'.cmd? n = some (c.accepted (s.weightBusy c) (s.clock + 1)) := by
  have hexec := exec_commandAcceptance ha hc hst hdue hfree hconf hland hwalk
  obtain rfl := cmd_id hc
  have htaken : RecAt (s.cmdTaken c) c.task a (s.view c.task) := RecAt.same ⟨hrec, hm, rfl⟩ rfl rfl
  obtain ⟨hcmds, hmem⟩ := cmdStatus_rest ((s.cmdTaken c).setPend c.task (s.trPend c.task + 1)) c.ref c.gid c.cell 0 0 s.clock
  refine ⟨_, hexec, ?_, ?_, ?_⟩
  · have hview := (RecAt.same (htaken.setPend (s.trPend c.task + 1)) hmem rfl).view
    exact (congrArg RecView.pend hview).trans (Nat.mod_eq_of_lt (by omega))
  · exact onlyBytes_of_mem (s0 := s.cmdTaken c) rfl hmem (setRecField_onlyBytes htaken.addr htaken.wf 0x08 0 32 _)
  · rw [cmd_of_cmds hcmds, cmd_of_cmds (setPend_cmds (s.cmdTaken c) c.task _)]
    exact modCmd_there (s := s.modDie c.die fun d => d.dequeueCmd c.id) hc fun _ h => h

end

/-! ### The end of a command -/

section
variable {s : State}

/-- A word that a command writes where its run lies. -/
theorem cmdWrite_one {c : Cmd} {va a : Nat} (hpa : s.cmdPa c va = .ok a) (hs : s.storeCause a = 0) (v : Word) :
    s.cmdWrite c [(va, v)] = .ok ((s.putWord a v).addSig c.ref.load c.slot va v) := by
  simp [State.cmdWrite, hpa, hs, bind, Except.bind, pure, Except.pure]

/-- A word written at an address, which counts in the signature of a task. -/
theorem putSig_rest (hm : Memory.wf s.mem = true) (l : LoadRef) (slot va a : Nat) (v : Word) :
    onlyBytes s ((s.putWord a v).addSig l slot va v) a 8 ∧ ((s.putWord a v).addSig l slot va v).word a = v ∧
      Memory.wf ((s.putWord a v).addSig l slot va v).mem = true ∧ ((s.putWord a v).addSig l slot va v).dv = s.dv ∧
      ((s.putWord a v).addSig l slot va v).cmds = s.cmds :=
  ⟨putWord_onlyBytes s a v hm, word_putWord s a v hm, putWord_wf s a v hm, rfl, rfl⟩

end

section
variable {s : State} {n : Nat} {c : Cmd} (ha : s.actor = .id n) (hc : s.cmd? n = some c)
include ha hc

/-- The machine that has written the RESULT of a command. -/
def State.resultWritten (s : State) (c : Cmd) (a : Nat) : State :=
  (((s.useOp (handleDie c.task)).putWord a (engineResult c)).addSig c.ref.load c.slot (opVa c.blkVa + 8 * (blockWords c.op - 1))
    (engineResult c))

theorem exec_commandEnd (hst : c.st = 2) (hred : isReduction c.op = false) (hbusy : s.opBusy (handleDie c.task) = false)
    (hhandle : handleIdx c.handle = 0) (hcause : c.cause = 0) {a : Nat}
    (hpa : s.cmdPa c (opVa c.blkVa + 8 * (blockWords c.op - 1)) = .ok a) (hs : s.storeCause a = 0) :
    exec .commandEnd s = .next { (s.resultWritten c a).lowerPend c.task 1 with
      cmds := ((s.resultWritten c a).lowerPend c.task 1).cmds.filter fun x => decide (x.id ≠ c.id) } := by
  have hone := cmdWrite_one (s := s.useOp (handleDie c.task)) hpa (by rw [storeCause_useOp]; exact hs) (engineResult c)
  have hend : s.useEnd c = s.useOp (handleDie c.task) := by
    rw [State.useEnd, Cmd.homes, if_pos hhandle]
    rfl
  show execCommandEnd s = _
  simp only [execCommandEnd, ha, hc]
  rw [if_neg (by simp [hst, hred, State.endBusy, Cmd.homes, hhandle, hbusy]), hend]
  unfold State.endCmd
  rw [hone]
  simp only [hcause, if_true, State.succeedInto, hhandle]
  rfl

/-- A command that ends without a failure writes its RESULT and lowers PEND of its task (R390, R391). -/
theorem end_completes (hm : Memory.wf s.mem = true) (hst : c.st = 2) (hred : isReduction c.op = false)
    (hbusy : s.opBusy (handleDie c.task) = false) (hhandle : handleIdx c.handle = 0) (hcause : c.cause = 0) {a t : Nat}
    (hpa : s.cmdPa c (opVa c.blkVa + 8 * (blockWords c.op - 1)) = .ok a) (hs : s.storeCause a = 0)
    (hrec : s.recAddr c.task = some t) (happart : a + 8 ≤ t ∨ t + 128 ≤ a) : ∃ s', exec .commandEnd s = .next s' ∧
      s'.cmd? n = none ∧ s'.word a = engineResult c ∧ s'.trPend c.task = s.trPend c.task - 1 ∧
      ∀ b, (b < a ∨ a + 8 ≤ b) → (b < t + 8 ∨ t + 16 ≤ b) → s'.byte b = s.byte b := by
  have hexec := exec_commandEnd ha hc hst hred hbusy hhandle hcause hpa hs
  obtain rfl := cmd_id hc
  obtain ⟨hwrite, hword, hwf, hdv, -⟩ := putSig_rest (s := s.useOp (handleDie c.task)) hm c.ref.load c.slot
    (opVa c.blkVa + 8 * (blockWords c.op - 1)) a (engineResult c)
  rw [show ((s.useOp (handleDie c.task)).putWord a (engineResult c)).addSig c.ref.load c.slot
    (opVa c.blkVa + 8 * (blockWords c.op - 1)) (engineResult c) = s.resultWritten c a from rfl] at hwrite hword hwf hdv
  have haddr : (s.resultWritten c a).recAddr c.task = some t := (recAddr_of_dv hdv c.task).trans hrec
  generalize s.resultWritten c a = s1 at *
  have hpend : s1.trPend c.task = s.trPend c.task := by
    unfold State.trPend State.recField
    rw [haddr, hrec]
    exact congrArg (fld · 0 32) (word_of_onlyBytes hwrite (by omega))
  have hrecord : RecAt s1 c.task t (s1.view c.task) := ⟨haddr, hwf, rfl⟩
  have hlower : onlyBytes s1 (s1.lowerPend c.task 1) (t + 8) 8 := setRecField_onlyBytes haddr hwf 0x08 0 32 _
  refine ⟨_, hexec, ?_, ?_, ?_, fun b hb hb' => ?_⟩
  · simp [State.cmd?, List.find?_eq_none]
  · exact (word_of_onlyBytes hlower (by omega)).trans hword
  · have hview := (hrecord.setPend (s1.trPend c.task - 1)).view
    have hlt : s.trPend c.task < 2 ^ 32 := recField_lt s c.task 0x08 0 32
    exact (congrArg RecView.pend hview).trans ((Nat.mod_eq_of_lt (by omega)).trans (congrArg (· - 1) hpend))
  · exact (hlower b hb').trans (hwrite b hb)

end

end Sys2Proof.Machine
end

section
/-! SUPPORT. Words that an engine writes (R286, R390, R392): where the words of a chunk go, which of them a step writes, and what
it leaves of the others and of memory. -/
namespace Sys2Proof.Machine
open Sys2Proof Sys2Proof.Safety

/-! ### Words written where their runs lie -/

/-- A word to write: the virtual address that counts in the signature, the place and the value. -/
structure SigWord where
  va : Nat
  at_ : Nat
  val : Word

/-- Words written one after another, each counted in the signature of a task (R447). -/
def State.putSigs (s : State) (l : LoadRef) (slot : Nat) (ps : List SigWord) : State :=
  ps.foldl (fun s p => (s.putWord p.at_ p.val).addSig l slot p.va p.val) s

/-- Two words do not overlap. -/
def SigWord.apart (p q : SigWord) : Prop := p.at_ + 8 ≤ q.at_ ∨ q.at_ + 8 ≤ p.at_

section
variable {s : State} {l : LoadRef} {slot : Nat}

theorem putSigs_append (ps : List SigWord) (p : SigWord) : s.putSigs l slot (ps ++ [p]) =
    ((s.putSigs l slot ps).putWord p.at_ p.val).addSig l slot p.va p.val := by
  rw [State.putSigs, List.foldl_append]
  rfl

theorem putSig_fields (s : State) (l : LoadRef) (slot va a : Nat) (v : Word) :
    ((s.putWord a v).addSig l slot va v).cmds = s.cmds ∧ ((s.putWord a v).addSig l slot va v).clock = s.clock ∧
    ((s.putWord a v).addSig l slot va v).freeCount = s.freeCount := ⟨rfl, rfl, rfl⟩

theorem putSigs_rest (ps : List SigWord) : (s.putSigs l slot ps).cmds = s.cmds ∧ (s.putSigs l slot ps).clock = s.clock ∧
    (s.putSigs l slot ps).freeCount = s.freeCount := by
  induction ps using List.reverseRecOn with
  | nil => exact ⟨rfl, rfl, rfl⟩
  | append_singleton ps p ih =>
    rw [putSigs_append]
    obtain ⟨hcmds, hclock, hfree⟩ := putSig_fields (s.putSigs l slot ps) l slot p.va p.at_ p.val
    exact ⟨hcmds.trans ih.1, hclock.trans ih.2.1, hfree.trans ih.2.2⟩

variable (hm : Memory.wf s.mem = true)
include hm

theorem putSigs_wf (ps : List SigWord) : Memory.wf (s.putSigs l slot ps).mem = true := by
  induction ps using List.reverseRecOn with
  | nil => exact hm
  | append_singleton ps p ih =>
    rw [putSigs_append]
    exact (putSig_rest ih l slot p.va p.at_ p.val).2.2.1

/-- A byte that no written word holds stays. -/
theorem putSigs_byte {ps : List SigWord} {b : Nat} (hb : ∀ p ∈ ps, b < p.at_ ∨ p.at_ + 8 ≤ b) :
    (s.putSigs l slot ps).byte b = s.byte b := by
  induction ps using List.reverseRecOn with
  | nil => rfl
  | append_singleton ps p ih =>
    rw [putSigs_append]
    obtain ⟨honly, -⟩ := putSig_rest (putSigs_wf (l := l) (slot := slot) hm ps) l slot p.va p.at_ p.val
    exact (honly b (hb p (by simp))).trans
      (ih fun q hq => hb q (List.mem_append_left _ hq))

/-- A written word reads back where the others are the same word or lie apart from it. -/
theorem putSigs_word {ps : List SigWord} {p : SigWord} (hp : p ∈ ps)
    (hapart : ∀ q ∈ ps, (q.at_ = p.at_ ∧ q.val = p.val) ∨ q.apart p) : (s.putSigs l slot ps).word p.at_ = p.val := by
  induction ps using List.reverseRecOn with
  | nil => exact absurd hp List.not_mem_nil
  | append_singleton ps q ih =>
    rw [putSigs_append]
    obtain ⟨honly, hword, -⟩ := putSig_rest (putSigs_wf (l := l) (slot := slot) hm ps) l slot q.va q.at_ q.val
    rcases hapart q (by simp) with ⟨hat, hval⟩ | hq
    · rw [← hat, ← hval]
      exact hword
    · refine (word_of_onlyBytes honly (Or.symm hq)).trans (ih ?_ fun x hx =>
        hapart x (List.mem_append_left _ hx))
      rcases List.mem_append.mp hp with hmem | hmem
      · exact hmem
      · obtain rfl := List.mem_singleton.mp hmem
        rcases hq with h | h <;> omega

/-- A word apart from every written one stays. -/
theorem putSigs_word_apart {ps : List SigWord} {a : Nat} (ha : ∀ p ∈ ps, p.at_ + 8 ≤ a ∨ a + 8 ≤ p.at_) :
    (s.putSigs l slot ps).word a = s.word a := by
  induction ps using List.reverseRecOn with
  | nil => rfl
  | append_singleton ps p ih =>
    rw [putSigs_append]
    obtain ⟨honly, -⟩ := putSig_rest (putSigs_wf (l := l) (slot := slot) hm ps) l slot p.va p.at_ p.val
    exact (word_of_onlyBytes honly (Or.symm (ha p (by simp)))).trans
      (ih fun q hq => ha q (List.mem_append_left _ hq))

end

/-! ### A chunk whose places are known -/

/-- Where a word of a chunk lies. -/
def Cmd.spot (c : Cmd) (w : Nat × Word) : Nat :=
  match c.spots.find? fun p => p.1 == w.1 with
  | some p => p.2
  | none => 0

theorem spot_eq (c : Cmd) (w : Nat × Word) : c.spot w = ((c.spots.find? fun p => p.1 == w.1).map (·.2)).getD 0 := by
  unfold Cmd.spot
  cases c.spots.find? fun p => p.1 == w.1 <;> rfl

/-- The word of a chunk with a number, at its place. -/
def Cmd.placed (c : Cmd) (ws : List (Nat × Word)) (k : Nat) : SigWord :=
  ⟨(ws.getD k (0, 0)).1, c.spot (ws.getD k (0, 0)), (ws.getD k (0, 0)).2⟩

/-- The numbers of the words that a step writes: all of a chunk in which a write can fail. -/
def State.chunkNow (s : State) (c : Cmd) (ws : List (Nat × Word)) (ks : List Nat) : List Nat :=
  if s.risky c.spots then List.range ws.length else ks

/-- The words of a chunk that a step leaves. -/
def chunkLeft (ws : List (Nat × Word)) (now : List Nat) : List (Nat × Word) :=
  (ws.mapIdx fun k w => (k, w)).filterMap fun p => if now.contains p.1 then none else some p.2

theorem mem_chunkLeft {ws : List (Nat × Word)} {now : List Nat} {w : Nat × Word} :
    w ∈ chunkLeft ws now ↔ ∃ k, ws[k]? = some w ∧ k ∉ now := by
  simp only [chunkLeft, List.mem_filterMap, List.mem_mapIdx, List.contains_iff_mem]
  constructor
  · rintro ⟨_, ⟨i, hi, rfl⟩, hw⟩
    split at hw
    · exact absurd hw nofun
    next hnot =>
      obtain rfl := Option.some.inj hw
      exact ⟨i, List.getElem?_eq_getElem hi, hnot⟩
  · rintro ⟨k, hk, hnot⟩
    obtain ⟨hlt, rfl⟩ := List.getElem?_eq_some_iff.mp hk
    exact ⟨(k, ws[k]), ⟨k, hlt, rfl⟩, if_neg hnot⟩

section
variable {s : State} {c : Cmd} {ws : List (Nat × Word)} {ks : List Nat}

theorem putChunk_eq (s : State) (c : Cmd) (ws : List (Nat × Word)) (ks : List Nat) : s.putChunk c ws ks =
    match if s.risky c.spots then ws.find? fun w => s.storeCause (c.spot w) != 0 else none with
    | some w => .error (s.storeCause (c.spot w))
    | none => .ok (s.putSigs c.ref.load c.slot ((s.chunkNow c ws ks).map (c.placed ws)), chunkLeft ws (s.chunkNow c ws ks)) := by
  unfold State.putSigs
  rw [List.foldl_map]
  rfl

theorem putChunk_error {x : Nat} (h : s.putChunk c ws ks = .error x) :
    s.risky c.spots = true ∧ x ≠ 0 ∧ ∃ w ∈ ws, s.storeCause (c.spot w) = x := by
  rw [putChunk_eq] at h
  split at h
  next w hw =>
    split at hw
    next hrisky =>
      have hcause := List.find?_some hw
      obtain rfl := Except.error.inj h
      exact ⟨hrisky, by simpa using hcause, w, List.mem_of_find?_eq_some hw, rfl⟩
    · exact absurd hw nofun
  · exact absurd h nofun

theorem putChunk_fails (hr : s.risky c.spots = true) (hw : ∃ w ∈ ws, s.storeCause (c.spot w) ≠ 0) :
    ∃ x, s.putChunk c ws ks = .error x := by
  rw [putChunk_eq, if_pos hr]
  cases hf : ws.find? fun w => s.storeCause (c.spot w) != 0 with
  | some w => exact ⟨_, rfl⟩
  | none =>
    obtain ⟨w, hmem, hcause⟩ := hw
    exact absurd (List.find?_eq_none.mp hf w hmem) (by simpa using hcause)

theorem putChunk_ok {s1 : State} {left : List (Nat × Word)} (h : s.putChunk c ws ks = .ok (s1, left)) :
    s1 = s.putSigs c.ref.load c.slot ((s.chunkNow c ws ks).map (c.placed ws)) ∧ left = chunkLeft ws (s.chunkNow c ws ks) := by
  rw [putChunk_eq] at h
  split at h
  · exact absurd h nofun
  · obtain ⟨rfl, rfl⟩ := Prod.mk.inj (Except.ok.inj h)
    exact ⟨rfl, rfl⟩

theorem chunkNow_lt (hks : ∀ k ∈ ks, k < ws.length) {k : Nat} (hk : k ∈ s.chunkNow c ws ks) : k < ws.length := by
  unfold State.chunkNow at hk
  split at hk
  · exact List.mem_range.mp hk
  · exact hks k hk

theorem mem_chunkNow {k : Nat} (hk : k < ws.length) : k ∈ s.chunkNow c ws ks ↔ s.risky c.spots = true ∨ k ∈ ks := by
  unfold State.chunkNow
  split
  next hr => exact ⟨fun _ => .inl hr, fun _ => List.mem_range.mpr hk⟩
  next hr => exact ⟨.inr, fun h => h.resolve_left hr⟩

theorem placed_of {k : Nat} {w : Nat × Word} (hw : ws[k]? = some w) : c.placed ws k = ⟨w.1, c.spot w, w.2⟩ := by
  rw [Cmd.placed, List.getD_eq_getElem?_getD, hw]
  rfl

end

/-- What a step leaves of the words of a chunk and of memory. -/
structure ChunkWritten (s : State) (c : Cmd) (ws : List (Nat × Word)) (ks : List Nat) (s1 : State) (left : List (Nat × Word)) :
    Prop where
  kept : ∀ k w, ws[k]? = some w → s.risky c.spots = false → k ∉ ks → w ∈ left
  whole : s.risky c.spots = true → left = []
  from_ : ∀ w ∈ left, w ∈ ws
  bytes : ∀ b, (∀ w ∈ ws, b < c.spot w ∨ c.spot w + 8 ≤ b) → s1.byte b = s.byte b
  words : ws.Pairwise (fun v w => c.spot v + 8 ≤ c.spot w ∨ c.spot w + 8 ≤ c.spot v) → ∀ k w, ws[k]? = some w →
    s1.word (c.spot w) = if s.risky c.spots = true ∨ k ∈ ks then w.2 else s.word (c.spot w)

/-- Two words of a chunk with different numbers lie apart. -/
theorem apart_of_pairwise {c : Cmd} {ws : List (Nat × Word)} {j k : Nat} {v w : Nat × Word}
    (h : ws.Pairwise (fun v w => c.spot v + 8 ≤ c.spot w ∨ c.spot w + 8 ≤ c.spot v)) (hv : ws[j]? = some v)
    (hw : ws[k]? = some w) (hne : j ≠ k) : c.spot v + 8 ≤ c.spot w ∨ c.spot w + 8 ≤ c.spot v := by
  obtain ⟨hj, rfl⟩ := List.getElem?_eq_some_iff.mp hv
  obtain ⟨hk, rfl⟩ := List.getElem?_eq_some_iff.mp hw
  rcases lt_or_gt_of_ne hne with hlt | hgt
  · exact List.pairwise_iff_getElem.mp h j k hj hk hlt
  · exact (List.pairwise_iff_getElem.mp h k j hk hj hgt).symm

theorem putChunk_written {s : State} {c : Cmd} {ws : List (Nat × Word)} {ks : List Nat} {s1 : State} {left : List (Nat × Word)}
    (hm : Memory.wf s.mem = true) (hks : ∀ k ∈ ks, k < ws.length) (h : s.putChunk c ws ks = .ok (s1, left)) :
    ChunkWritten s c ws ks s1 left := by
  obtain ⟨rfl, rfl⟩ := putChunk_ok h
  have hplaced : ∀ p ∈ (s.chunkNow c ws ks).map (c.placed ws), ∃ k w, ws[k]? = some w ∧ k ∈ s.chunkNow c ws ks ∧
      p = ⟨w.1, c.spot w, w.2⟩ := fun p hp => by
    obtain ⟨k, hk, rfl⟩ := List.mem_map.mp hp
    have hlt := chunkNow_lt hks hk
    exact ⟨k, ws[k], List.getElem?_eq_getElem hlt, hk, placed_of (List.getElem?_eq_getElem hlt)⟩
  refine ⟨fun k w hw hr hk => ?_, fun hr => ?_, fun w hw => ?_, fun b hb => ?_, fun hpair k w hw => ?_⟩
  · obtain ⟨hlt, -⟩ := List.getElem?_eq_some_iff.mp hw
    refine mem_chunkLeft.mpr ⟨k, hw, fun hnow => ?_⟩
    rcases (mem_chunkNow hlt).mp hnow with h | h
    · exact Bool.false_ne_true (hr.symm.trans h)
    · exact hk h
  · refine List.eq_nil_iff_forall_not_mem.mpr fun w hw => ?_
    obtain ⟨k, hk, hnot⟩ := mem_chunkLeft.mp hw
    exact hnot ((mem_chunkNow (List.getElem?_eq_some_iff.mp hk).1).mpr (.inl hr))
  · obtain ⟨k, hk, -⟩ := mem_chunkLeft.mp hw
    exact List.mem_of_getElem? hk
  · refine putSigs_byte hm fun p hp => ?_
    obtain ⟨k, w, hw, -, rfl⟩ := hplaced p hp
    exact hb w (List.mem_of_getElem? hw)
  · obtain ⟨hlt, -⟩ := List.getElem?_eq_some_iff.mp hw
    by_cases hnow : k ∈ s.chunkNow c ws ks
    · rw [if_pos ((mem_chunkNow hlt).mp hnow)]
      refine putSigs_word (p := ⟨w.1, c.spot w, w.2⟩) hm (List.mem_map.mpr ⟨k, hnow, placed_of hw⟩) fun q hq => ?_
      obtain ⟨j, v, hv, -, rfl⟩ := hplaced q hq
      by_cases hjk : j = k
      · obtain rfl : v = w := Option.some.inj (hv.symm.trans (hjk ▸ hw))
        exact .inl ⟨rfl, rfl⟩
      · exact .inr (apart_of_pairwise hpair hv hw hjk)
    · rw [if_neg fun h => hnow ((mem_chunkNow hlt).mpr h)]
      refine putSigs_word_apart hm fun p hp => ?_
      obtain ⟨j, v, hv, hj, rfl⟩ := hplaced p hp
      exact apart_of_pairwise hpair hv hw fun h => hnow (h ▸ hj)

end Sys2Proof.Machine
end

section
/-! SUPPORT. Copies (R286, R390, R392): a step starts a chunk, reads words of the chunks started and writes words of the oldest. -/
namespace Sys2Proof.Machine
open Sys2Proof Sys2Proof.Safety

/-! ### Some of a list -/

/-- Words that an engine acts on now. -/
def State.someOf {α : Type} (s : State) (xs : List α) : List α := (s.actNow xs.length).filterMap fun k => xs[k]?

theorem filterMap_range_getElem {α : Type} : ∀ xs : List α, ((List.range xs.length).filterMap fun k => xs[k]?) = xs
  | [] => rfl
  | x :: xs => by
    rw [List.length_cons, List.range_succ_eq_map, List.filterMap_cons, List.filterMap_map]
    exact congrArg (x :: ·) (filterMap_range_getElem xs)

theorem actNow_sublist (s : State) (n : Nat) : (s.actNow n).Sublist (List.range n) := by
  unfold State.actNow
  dsimp only
  split
  · exact List.range_sublist.mpr (Nat.min_le_right 1 n)
  · exact (List.take_sublist _ _).trans List.filter_sublist

theorem someOf_sublist {α : Type} (s : State) (xs : List α) : (s.someOf xs).Sublist xs := by
  have h := (actNow_sublist s xs.length).filterMap fun k => xs[k]?
  rw [filterMap_range_getElem] at h
  exact h

theorem someOf_ne_nil {α : Type} (s : State) {xs : List α} (h : xs ≠ []) : s.someOf xs ≠ [] := by
  obtain ⟨k, ks, hk⟩ := List.exists_cons_of_ne_nil (State.actNow_ne_nil (s := s) (List.length_pos_iff.mpr h))
  have hlt : k < xs.length := State.actNow_mem (s := s) (by rw [hk]; exact List.mem_cons_self)
  refine List.ne_nil_of_mem (a := xs[k]) (List.mem_filterMap.mpr ⟨k, by rw [hk]; exact List.mem_cons_self, ?_⟩)
  exact List.getElem?_eq_getElem hlt

/-! ### The start of a chunk -/

theorem mapM_ok {ε α β : Type} {f : α → Except ε β} {g : α → β} : ∀ {xs : List α}, (∀ x ∈ xs, f x = .ok (g x)) →
    xs.mapM f = .ok (xs.map g)
  | [], _ => rfl
  | x :: xs, h => by
    rw [List.mapM_cons, h x List.mem_cons_self, mapM_ok fun y hy => h y (List.mem_cons_of_mem x hy)]
    rfl

section
variable {s : State} {c : Cmd} (hfail : c.fail = none) (hmore : 256 * c.next < c.len) (hahead : c.next ≤ c.done / 256 + 8)
include hfail hmore hahead

theorem copyStart_eq : s.copyStart c = match s.copyWords c with
    | .ok ws => { c with words := c.words ++ ws, next := c.next + 1 }
    | .error x => { c with fail := some (c.next, x) } := by
  refine if_neg ?_
  rw [hfail]
  simp only [Option.isSome_none, Bool.false_eq_true, false_or, not_or]
  omega

theorem copyStart_fails {x : Nat} (h : s.copyWords c = .error x) : s.copyStart c = { c with fail := some (c.next, x) } := by
  rw [copyStart_eq hfail hmore hahead, h]

/-- A chunk that starts holds its words at the places of their addresses. -/
theorem copyStart_starts {sa da : Nat → Nat} (h : ∀ i, i < min 32 ((c.len - 256 * c.next) / 8) →
    s.cmdPa c (fld (blk c.blk 1) 0 57 + (256 * c.next + 8 * i)) = .ok (sa i) ∧
      s.cmdPa c (fld (blk c.blk 0) 0 57 + (256 * c.next + 8 * i)) = .ok (da i)) :
    s.copyStart c = { c with next := c.next + 1, words := c.words ++
      (List.range (min 32 ((c.len - 256 * c.next) / 8))).map fun i => ⟨c.next, fld (blk c.blk 1) 0 57 + (256 * c.next + 8 * i), sa i,
        fld (blk c.blk 0) 0 57 + (256 * c.next + 8 * i), da i, none, false⟩ } := by
  have hwords : s.copyWords c = .ok ((List.range (min 32 ((c.len - 256 * c.next) / 8))).map fun i =>
      ⟨c.next, fld (blk c.blk 1) 0 57 + (256 * c.next + 8 * i), sa i, fld (blk c.blk 0) 0 57 + (256 * c.next + 8 * i), da i,
        none, false⟩) := by
    unfold State.copyWords
    refine mapM_ok fun i hi => ?_
    obtain ⟨hsrc, hdst⟩ := h i (List.mem_range.mp hi)
    simp only [hsrc, hdst]
    rfl
  rw [copyStart_eq hfail hmore hahead, hwords]

end

theorem copyStart_rest (s : State) (c : Cmd) : (s.copyStart c).id = c.id ∧ (s.copyStart c).len = c.len ∧
    (s.copyStart c).die = c.die ∧ (s.copyStart c).done = c.done := by
  unfold State.copyStart
  split
  · exact ⟨rfl, rfl, rfl, rfl⟩
  · split <;> exact ⟨rfl, rfl, rfl, rfl⟩

/-! ### Reads -/

/-- A word with its value. -/
def CopyWord.filled (s : State) (die : Nat) (w : CopyWord) : CopyWord := { w with val := some (s.valueFor (dieObs die) w.src) }

/-- A word after the reads of others, and of itself. -/
def CopyWord.readBy (s : State) (die : Nat) (ws : List CopyWord) (x : CopyWord) : CopyWord :=
  ws.foldl (fun x w => if x.srcVa = w.srcVa then { x with val := some (s.valueFor (dieObs die) w.src) } else x) x

theorem readBy_eq {s : State} {die : Nat} : ∀ {ws : List CopyWord} {x : CopyWord}, (∀ w ∈ ws, w.srcVa = x.srcVa → w.src = x.src) →
    x.readBy s die ws = if ∃ w ∈ ws, w.srcVa = x.srcVa then x.filled s die else x
  | [], x, _ => by simp [CopyWord.readBy]
  | w :: ws, x, h => by
    have hrest := fun y hy => h y (List.mem_cons_of_mem w hy)
    by_cases hw : x.srcVa = w.srcVa
    · have hsrc := h w List.mem_cons_self hw.symm
      have hstep : x.readBy s die (w :: ws) = (x.filled s die).readBy s die ws := by
        rw [CopyWord.readBy, List.foldl_cons, if_pos hw, hsrc]
        rfl
      rw [hstep, readBy_eq (x := x.filled s die) hrest]
      refine Eq.trans ?_ (if_pos ⟨w, List.mem_cons_self, hw.symm⟩).symm
      split <;> rfl
    · have hstep : x.readBy s die (w :: ws) = x.readBy s die ws := by
        rw [CopyWord.readBy, List.foldl_cons, if_neg hw]
        rfl
      rw [hstep, readBy_eq hrest]
      refine if_congr ⟨fun ⟨y, hy, he⟩ => ⟨y, List.mem_cons_of_mem w hy, he⟩, fun ⟨y, hy, he⟩ => ?_⟩ rfl rfl
      rcases List.mem_cons.mp hy with rfl | hmem
      · exact absurd he.symm hw
      · exact ⟨y, hmem, he⟩

/-- The words of a copy that are still to be read. -/
def Cmd.unread (c : Cmd) : List CopyWord := c.words.filter fun w => w.val.isNone

/-- One step of the reads of a copy. -/
def State.copyRead (s : State) (c : Cmd) (w : CopyWord) : Cmd :=
  if s.sourceHeld c.die w.src then c
  else if s.isBad w.src then c.chunkFails w.chunk Cause.uncorrectable
  else
    { c with words := c.words.map fun x =>
        if x.srcVa = w.srcVa then { x with val := some (s.valueFor (dieObs c.die) w.src) } else x }

theorem copyReads_eq (s : State) (c : Cmd) : s.copyReads c = (s.someOf c.unread).foldl s.copyRead c := rfl

theorem copyRead_rest (s : State) (c : Cmd) (w : CopyWord) : (s.copyRead c w).id = c.id ∧ (s.copyRead c w).len = c.len ∧
    (s.copyRead c w).die = c.die ∧ (s.copyRead c w).done = c.done := by
  unfold State.copyRead Cmd.chunkFails
  split
  · exact ⟨rfl, rfl, rfl, rfl⟩
  · split
    · split <;> exact ⟨rfl, rfl, rfl, rfl⟩
    · exact ⟨rfl, rfl, rfl, rfl⟩

theorem copyReads_rest (s : State) (c : Cmd) : (s.copyReads c).id = c.id ∧ (s.copyReads c).len = c.len ∧
    (s.copyReads c).die = c.die ∧ (s.copyReads c).done = c.done := by
  rw [copyReads_eq]
  generalize s.someOf c.unread = ws
  induction ws generalizing c with
  | nil => exact ⟨rfl, rfl, rfl, rfl⟩
  | cons w ws ih =>
    obtain ⟨hid, hlen, hdie, hdone⟩ := copyRead_rest s c w
    obtain ⟨hid', hlen', hdie', hdone'⟩ := ih (s.copyRead c w)
    exact ⟨hid'.trans hid, hlen'.trans hlen, hdie'.trans hdie, hdone'.trans hdone⟩

theorem foldl_copyRead_words {s : State} : ∀ {ws : List CopyWord} {c : Cmd}, (∀ w ∈ ws, s.sourceHeld c.die w.src = false ∧
    s.isBad w.src = false) → (ws.foldl s.copyRead c).words = c.words.map (CopyWord.readBy s c.die ws)
  | [], c, _ => by
    show c.words = _
    exact (List.map_id c.words).symm
  | w :: ws, c, h => by
    obtain ⟨hheld, hbad⟩ := h w List.mem_cons_self
    have hstep : s.copyRead c w = { c with words := c.words.map fun x =>
        if x.srcVa = w.srcVa then { x with val := some (s.valueFor (dieObs c.die) w.src) } else x } := by
      rw [State.copyRead, hheld, hbad]
      rfl
    obtain ⟨-, -, hdie, -⟩ := copyRead_rest s c w
    have hrest := foldl_copyRead_words (s := s) (ws := ws) (c := s.copyRead c w) fun x hx => by
      rw [hdie]
      exact h x (List.mem_cons_of_mem w hx)
    rw [List.foldl_cons, hrest, hdie, hstep, List.map_map]
    rfl

/-- Words that nothing holds are read, some of them in a step: each has its value or is as it was. -/
theorem copyReads_reads {s : State} {c : Cmd} (hnd : (c.words.map (·.srcVa)).Nodup) (hfree : ∀ w ∈ c.words, w.val = none →
    s.sourceHeld c.die w.src = false ∧ s.isBad w.src = false) :
    (∀ v ∈ (s.copyReads c).words, ∃ w ∈ c.words, v = { w with val := v.val } ∧
      (v.val = w.val ∨ (w.val = none ∧ v.val = some (s.valueFor (dieObs c.die) w.src)))) ∧
    ((∃ w ∈ c.words, w.val = none) → ∃ v ∈ (s.copyReads c).words, ∃ w ∈ c.words,
      v = { w with val := some (s.valueFor (dieObs c.die) w.src) } ∧ w.val = none) := by
  have hunread : ∀ w ∈ s.someOf c.unread, w ∈ c.words ∧ w.val = none := fun w hw => by
    obtain ⟨hmem, hval⟩ := List.mem_filter.mp ((someOf_sublist s c.unread).subset hw)
    exact ⟨hmem, Option.isNone_iff_eq_none.mp hval⟩
  have hwords : (s.copyReads c).words = c.words.map (CopyWord.readBy s c.die (s.someOf c.unread)) := by
    rw [copyReads_eq]
    exact foldl_copyRead_words fun w hw => hfree w (hunread w hw).1 (hunread w hw).2
  have hsame : ∀ x ∈ c.words, ∀ w ∈ s.someOf c.unread, w.srcVa = x.srcVa → w = x := fun x hx w hw he =>
    List.inj_on_of_nodup_map hnd (hunread w hw).1 hx he
  have hread : ∀ x ∈ c.words, x.readBy s c.die (s.someOf c.unread) =
      if ∃ w ∈ s.someOf c.unread, w.srcVa = x.srcVa then x.filled s c.die else x := fun x hx =>
    readBy_eq fun w hw he => congrArg CopyWord.src (hsame x hx w hw he)
  rw [hwords]
  refine ⟨fun v hv => ?_, fun ⟨w, hw, hval⟩ => ?_⟩
  · obtain ⟨x, hx, rfl⟩ := List.mem_map.mp hv
    rw [hread x hx]
    split
    next hsome =>
      obtain ⟨w, hw, he⟩ := hsome
      obtain rfl := hsame x hx w hw he
      exact ⟨w, hx, rfl, .inr ⟨(hunread w hw).2, rfl⟩⟩
    next => exact ⟨x, hx, rfl, .inl rfl⟩
  · have hne : c.unread ≠ [] := List.ne_nil_of_mem (List.mem_filter.mpr ⟨hw, Option.isNone_iff_eq_none.mpr hval⟩)
    obtain ⟨x, xs, hx⟩ := List.exists_cons_of_ne_nil (someOf_ne_nil s hne)
    have hmem : x ∈ s.someOf c.unread := by rw [hx]; exact List.mem_cons_self
    obtain ⟨hxw, hxv⟩ := hunread x hmem
    refine ⟨_, List.mem_map.mpr ⟨x, hxw, rfl⟩, x, hxw, ?_, hxv⟩
    rw [hread x hxw, if_pos ⟨x, hmem, rfl⟩]
    rfl

/-! ### Writes -/

/-- The words of the chunk whose turn it is. -/
def Cmd.turn (c : Cmd) : List CopyWord := c.words.filter fun w => decide (w.chunk = c.done / 256)

/-- Those of them that are not written. -/
def Cmd.unwritten (c : Cmd) : List CopyWord := c.turn.filter fun w => !w.done

/-- A word of a copy, to be written at its destination. -/
def CopyWord.placed (w : CopyWord) : SigWord := ⟨w.dstVa, w.dst, w.val.getD 0⟩

/-- The copy after the writes of some words of its chunk. -/
def Cmd.wrote (c : Cmd) (now : List CopyWord) : Cmd :=
  if now.length = c.unwritten.length then
    { c with words := c.words.filter fun w => decide (w.chunk ≠ c.done / 256), done := c.done + 8 * c.turn.length }
  else
    { c with words := c.words.map fun x =>
        if now.any (fun w => w.dstVa == x.dstVa) then { x with done := true } else x }

theorem wrote_rest (c : Cmd) (now : List CopyWord) : (c.wrote now).id = c.id ∧ (c.wrote now).len = c.len := by
  unfold Cmd.wrote
  split <;> exact ⟨rfl, rfl⟩

/-- The words that a step writes: all of a chunk in which a write can fail. -/
def State.copyNow (s : State) (c : Cmd) : List CopyWord :=
  if c.turn.any fun w => s.mayFail w.dst then c.unwritten else s.someOf c.unwritten

theorem copyWrites_eq (s : State) (c : Cmd) : s.copyWrites c =
    if c.turn.isEmpty ∨ c.turn.any fun w => w.val.isNone then (s, c)
    else match if c.turn.any fun w => s.mayFail w.dst then c.turn.find? fun w => s.storeCause w.dst != 0 else none with
      | some w => (s, c.chunkFails w.chunk (s.storeCause w.dst))
      | none => (s.putSigs c.ref.load c.slot ((s.copyNow c).map CopyWord.placed), c.wrote (s.copyNow c)) := by
  unfold State.copyWrites State.putSigs
  rw [List.foldl_map]
  refine if_congr Iff.rfl rfl ?_
  change (match if c.turn.any fun w => s.mayFail w.dst then c.turn.find? fun w => s.storeCause w.dst != 0 else none with
    | some w => _
    | none => if (s.copyNow c).length = c.unwritten.length then _ else _) = _
  cases if c.turn.any fun w => s.mayFail w.dst then c.turn.find? fun w => s.storeCause w.dst != 0 else none with
  | some w => rfl
  | none =>
    unfold Cmd.wrote
    by_cases hall : (s.copyNow c).length = c.unwritten.length
    · simp only [if_pos hall]
      rfl
    · simp only [if_neg hall]
      rfl

/-- What a step of writes leaves of the machine and of the copy. -/
structure CopyRest (s : State) (c : Cmd) (s1 : State) (c1 : Cmd) : Prop where
  id : c1.id = c.id
  len : c1.len = c.len
  cmds : s1.cmds = s.cmds
  clock : s1.clock = s.clock
  freeCount : s1.freeCount = s.freeCount

theorem copyWrites_rest (s : State) (c : Cmd) : CopyRest s c (s.copyWrites c).1 (s.copyWrites c).2 := by
  rw [copyWrites_eq]
  split
  · exact ⟨rfl, rfl, rfl, rfl, rfl⟩
  · split
    · unfold Cmd.chunkFails
      dsimp only
      split <;> exact ⟨rfl, rfl, rfl, rfl, rfl⟩
    · obtain ⟨hcmds, hclock, hfree⟩ := putSigs_rest (s := s) (l := c.ref.load) (slot := c.slot) ((s.copyNow c).map CopyWord.placed)
      obtain ⟨hid, hlen⟩ := wrote_rest c (s.copyNow c)
      exact ⟨hid, hlen, hcmds, hclock, hfree⟩

/-- A chunk that is read, and no write of which can fail, is written word by word, each where its run lies. -/
theorem copyWrites_writes {s : State} {c : Cmd} (hm : Memory.wf s.mem = true) (hne : c.turn ≠ [])
    (hready : ∀ w ∈ c.turn, w.val ≠ none ∧ s.mayFail w.dst = false)
    (hpair : c.turn.Pairwise (fun v w => v.dst + 8 ≤ w.dst ∨ w.dst + 8 ≤ v.dst)) : ∃ now : List CopyWord,
      (∀ w ∈ now, w ∈ c.turn ∧ w.done = false) ∧ ((∃ w ∈ c.turn, w.done = false) → now ≠ []) ∧
      (∀ w ∈ now, some ((s.copyWrites c).1.word w.dst) = w.val) ∧
      (∀ b, (∀ w ∈ now, b < w.dst ∨ w.dst + 8 ≤ b) → (s.copyWrites c).1.byte b = s.byte b) ∧
      ((∀ w ∈ c.turn, w.done = false → w ∈ now) → (s.copyWrites c).2.done = c.done + 8 * c.turn.length) := by
  have hval : ¬ (c.turn.isEmpty = true ∨ (c.turn.any fun w => w.val.isNone) = true) := by
    simp only [List.isEmpty_iff, List.any_eq_true, Option.isNone_iff_eq_none, not_or, not_exists, not_and]
    exact ⟨hne, fun w hw => (hready w hw).1⟩
  have hsafe : (c.turn.any fun w => s.mayFail w.dst) = false := by
    simp only [List.any_eq_false, Bool.not_eq_true]
    exact fun w hw => (hready w hw).2
  have hnow : s.copyNow c = s.someOf c.unwritten := by
    rw [State.copyNow, hsafe]
    rfl
  have hwrites : s.copyWrites c = (s.putSigs c.ref.load c.slot ((s.someOf c.unwritten).map CopyWord.placed),
      c.wrote (s.someOf c.unwritten)) := by
    rw [copyWrites_eq, if_neg hval, hsafe, hnow]
    rfl
  have hsub := someOf_sublist s c.unwritten
  have hsymm : Std.Symm fun v w : CopyWord => v.dst + 8 ≤ w.dst ∨ w.dst + 8 ≤ v.dst := ⟨fun _ _ h => h.symm⟩
  have hmem : ∀ w ∈ s.someOf c.unwritten, w ∈ c.turn ∧ w.done = false := fun w hw => by
    obtain ⟨hturn, hdone⟩ := List.mem_filter.mp (hsub.subset hw)
    exact ⟨hturn, by simpa using hdone⟩
  rw [hwrites]
  refine ⟨s.someOf c.unwritten, hmem, fun ⟨w, hw, hdone⟩ => someOf_ne_nil s (List.ne_nil_of_mem (a := w)
    (List.mem_filter.mpr ⟨hw, by simp [hdone]⟩)), fun w hw => ?_, fun b hb => ?_, fun hall => ?_⟩
  · obtain ⟨v, hv⟩ := Option.ne_none_iff_exists'.mp (hready w (hmem w hw).1).1
    have hword := putSigs_word (l := c.ref.load) (slot := c.slot) hm (List.mem_map_of_mem (f := CopyWord.placed) hw) fun q hq => by
      obtain ⟨x, hx, rfl⟩ := List.mem_map.mp hq
      by_cases hxw : x = w
      · exact .inl ⟨by rw [hxw], by rw [hxw]⟩
      · exact .inr (hpair.forall (hmem x hx).1 (hmem w hw).1 hxw)
    rw [hv]
    refine congrArg some (hword.trans ?_)
    rw [CopyWord.placed, hv]
    rfl
  · refine putSigs_byte hm fun p hp => ?_
    obtain ⟨w, hw, rfl⟩ := List.mem_map.mp hp
    exact hb w hw
  · have hnd : c.unwritten.Nodup := (List.Pairwise.filter _ hpair).imp fun h he => by
      subst he
      omega
    have hlen : (s.someOf c.unwritten).length = c.unwritten.length := by
      refine le_antisymm hsub.length_le (List.Subperm.length_le (hnd.subperm fun w hw => ?_))
      obtain ⟨hturn, hdone⟩ := List.mem_filter.mp hw
      exact hall w hturn (by simpa using hdone)
    simp only [Cmd.wrote, if_pos hlen]

/-! ### COPY_CHUNK -/

/-- A command that is over, with a cause. -/
def Cmd.over (c : Cmd) (cause : Nat) : Cmd :=
  { c with st := 2, cause, words := [], snap := [], ents := [], spots := [], phases := [] }

theorem cmdOver_plain {s : State} {c : Cmd} {x : Nat} (hx : x ≠ Cause.uncorrectable) :
    s.cmdOver c x = s.modCmd c.id fun c => c.over x := if_neg hx

/-- A command fails with a cause that is not logged. -/
theorem cmdOver_there {s : State} {c c1 : Cmd} {n x : Nat} (hx : x ≠ Cause.uncorrectable) (hid : c1.id = n)
    (hc : s.cmd? n = some c) : (s.cmdOver c1 x).mem = s.mem ∧ (s.cmdOver c1 x).cmd? n = some (c.over x) := by
  rw [cmdOver_plain hx, hid]
  exact ⟨rfl, modCmd_there hc fun _ h => h⟩

/-- The machine after a step of a copy. -/
def State.copied (s : State) (n : Nat) (p : State × Cmd) : State :=
  let s2 := (p.1.modCmd n fun _ => { p.2 with due := s.clock + 1 + s.waitNow }).tick
  if p.2.len ≤ p.2.done then s2.modCmd n fun c => { c with st := 2 }
  else
    match p.2.fail with
    | some (k, x) => if p.2.done = 256 * k then s2.cmdOver p.2 x else s2
    | none => s2

/-- A command acts in a step. -/
structure Acts (s : State) (n : Nat) (c : Cmd) : Prop where
  actor : s.actor = .id n
  there : s.cmd? n = some c
  st : c.st = 1
  due : c.due ≤ s.clock
  served : s.served c = true

section
variable {s : State} {n : Nat} {c : Cmd} (h : Acts s n c)
include h

theorem Acts.free {b : Prop} (hb : ¬ b) : ¬ (c.st ≠ 1 ∨ b ∨ s.clock < c.due ∨ ¬ s.served c = true) := by
  simp [h.st, h.due, h.served, hb]

theorem exec_copyChunk (hop : c.op = .cpy) :
    exec .copyChunk s = .next (s.copied n (s.copyWrites (s.copyReads (s.copyStart c)))) := by
  show execCopyChunk s = _
  simp only [execCopyChunk, h.actor, h.there]
  rw [if_neg (h.free (not_not.mpr hop))]
  generalize s.copyWrites (s.copyReads (s.copyStart c)) = p
  unfold State.copied
  dsimp only
  by_cases hend : p.2.len ≤ p.2.done
  · rw [if_pos hend, if_pos hend]
  · rw [if_neg hend, if_neg hend]
    cases p.2.fail with
    | none => rfl
    | some f => rfl

end

section
variable {s : State} {n : Nat} {c : Cmd} {p : State × Cmd} (hc : p.1.cmd? n = some c) (hid : p.2.id = n)
include hc hid

theorem copied_goes (hfail : p.2.fail = none) : ∃ c', (s.copied n p).cmd? n = some c' ∧ (s.copied n p).mem = p.1.mem ∧
    s.clock < c'.due ∧ c' = { p.2 with due := c'.due, st := if p.2.len ≤ p.2.done then 2 else p.2.st } := by
  have hstep := modCmd_there hc (f := fun _ => { p.2 with due := s.clock + 1 + s.waitNow }) fun _ _ => hid
  unfold State.copied
  dsimp only
  split
  next hend =>
    exact ⟨_, modCmd_there (s := (p.1.modCmd n fun _ => { p.2 with due := s.clock + 1 + s.waitNow }).tick) hstep fun _ h => h, rfl,
      by dsimp only; omega, rfl⟩
  next hend =>
    split
    next k x hf => exact absurd (hfail.symm.trans hf) nofun
    next => exact ⟨_, hstep, rfl, by dsimp only; omega, rfl⟩

theorem copied_fails {k x : Nat} (hfail : p.2.fail = some (k, x)) (hturn : p.2.done = 256 * k) (hmore : p.2.done < p.2.len)
    (hx : x ≠ Cause.uncorrectable) : ∃ c', (s.copied n p).cmd? n = some c' ∧ (s.copied n p).mem = p.1.mem ∧ c'.st = 2 ∧
      c'.cause = x ∧ c'.done = p.2.done := by
  have hstep := modCmd_there hc (f := fun _ => { p.2 with due := s.clock + 1 + s.waitNow }) fun _ _ => hid
  obtain ⟨hmem, hover⟩ := cmdOver_there (s := (p.1.modCmd n fun _ => { p.2 with due := s.clock + 1 + s.waitNow }).tick) hx hid hstep
  unfold State.copied
  dsimp only
  rw [if_neg (by omega)]
  split
  next k' x' hf =>
    obtain ⟨rfl, rfl⟩ := Prod.mk.inj (Option.some.inj (hfail.symm.trans hf))
    rw [if_pos hturn]
    exact ⟨_, hover, hmem, rfl, rfl, rfl⟩
  next hf => exact absurd (hfail.symm.trans hf) nofun

end

end Sys2Proof.Machine
end

section
/-! SUPPORT. Densifying copies (R286, R334, R392, R397): the places of a chunk, the steps of its traversal, the words of its keys
and their writes. -/
namespace Sys2Proof.Machine
open Sys2Proof Sys2Proof.Safety

/-! ### Places of words -/

section
variable {s : State} {c : Cmd}

theorem spotsOf_ok : ∀ {vas xs : List Nat}, vas.mapM (s.cmdPa c) = .ok xs → s.spotsOf c vas = .ok (vas.zip xs)
  | [], xs, h => by
    obtain rfl := Except.ok.inj h
    rfl
  | va :: vas, xs, h => by
    rw [List.mapM_cons] at h
    obtain ⟨a, ha, h⟩ := except_bind_ok h
    obtain ⟨as, has, h⟩ := except_bind_ok h
    obtain rfl := Except.ok.inj h
    have hrest := spotsOf_ok has
    unfold State.spotsOf at hrest ⊢
    rw [List.mapM_cons, ha, hrest]
    rfl

theorem except_bind_error {ε α β : Type} {x : Except ε α} {f : α → Except ε β} {e : ε} (h : (x >>= f) = .error e) :
    x = .error e ∨ ∃ a, x = .ok a ∧ f a = .error e := by
  cases x with
  | error e' => exact .inl (congrArg Except.error (Except.error.inj (h : (Except.error e' : Except ε β) = .error e)))
  | ok a => exact .inr ⟨a, rfl, h⟩

theorem spotsOf_error : ∀ {vas : List Nat} {x : Nat}, vas.mapM (s.cmdPa c) = .error x → s.spotsOf c vas = .error x
  | [], x, h => absurd h nofun
  | va :: vas, x, h => by
    rw [List.mapM_cons] at h
    unfold State.spotsOf
    rw [List.mapM_cons]
    rcases except_bind_error h with ha | ⟨a, ha, h⟩
    · rw [ha]
      rfl
    · rw [ha]
      rcases except_bind_error h with hx | ⟨as, -, h⟩
      · have hrest := spotsOf_error hx
        unfold State.spotsOf at hrest
        rw [hrest]
        rfl
      · exact absurd h nofun

end

/-! ### The words of a chunk -/

/-- The value of a key of a chunk; 0 for an absent one. -/
def Cmd.densVal (c : Cmd) (k : Nat) : Nat :=
  match c.ents.find? fun p => decide (p.1 = k) with
  | some p => if k ≤ c.densEnd then p.2 else 0
  | none => 0

theorem densVal_eq (c : Cmd) (k : Nat) : c.densVal k = if k ≤ c.densEnd then
    (match c.ents.find? fun p => decide (p.1 = k) with
     | some p => p.2
     | none => 0) else 0 := by
  unfold Cmd.densVal
  cases c.ents.find? fun p => decide (p.1 = k) with
  | some p => rfl
  | none => simp

theorem densVal_lt {c : Cmd} (h : ∀ p ∈ c.ents, p.2 < 2 ^ 32) (k : Nat) : c.densVal k < 2 ^ 32 := by
  unfold Cmd.densVal
  cases hf : c.ents.find? fun p => decide (p.1 = k) with
  | some p =>
    dsimp only
    split
    · exact h p (List.mem_of_find?_eq_some hf)
    · exact Nat.two_pow_pos 32
  | none => exact Nat.two_pow_pos 32

/-- The word of two keys of a chunk. -/
def Cmd.densWord (c : Cmd) (i : Nat) : Word :=
  BitVec.ofNat 64 (c.densVal (c.densLo + c.done / 4 + 2 * i + 1) * 2 ^ 32 + c.densVal (c.densLo + c.done / 4 + 2 * i))

theorem densVals_getElem {c : Cmd} {i : Nat} (hi : i < c.densVas.length) :
    c.densVals[i]? = some (fld (c.blk.getD 1 0) 0 57 + c.done + 8 * i, c.densWord i) := by
  have hva : c.densVas[i]? = some (fld (c.blk.getD 1 0) 0 57 + c.done + 8 * i) := by
    rw [Cmd.densVas, List.getElem?_map, List.getElem?_range (by simpa [Cmd.densVas] using hi)]
    rfl
  show (c.densVas.mapIdx fun i va => (va, c.densWord i))[i]? = _
  rw [List.getElem?_mapIdx, hva]
  rfl

theorem densWord_lane {c : Cmd} (h : ∀ p ∈ c.ents, p.2 < 2 ^ 32) (i : Nat) {j : Nat} (hj : j < 2) :
    laneN 32 j (c.densWord i) = c.densVal (c.densLo + c.done / 4 + (2 * i + j)) := by
  have h0 := densVal_lt h (c.densLo + c.done / 4 + 2 * i)
  have h1 := densVal_lt h (c.densLo + c.done / 4 + 2 * i + 1)
  unfold Cmd.densWord laneN
  rw [BitVec.toNat_ofNat, Nat.mod_eq_of_lt (by omega)]
  have hcases : j = 0 ∨ j = 1 := by omega
  rcases hcases with rfl | rfl
  · show fldN _ _ _ = c.densVal (c.densLo + c.done / 4 + 2 * i)
    rw [fldN]
    omega
  · rw [← Nat.add_assoc, fldN]
    omega

/-! ### The half that a chunk keeps -/

section
variable {s : State} {c : Cmd} {ws : List (Nat × Word)}

theorem densWords_whole (h : c.densHalf = none) : s.densWords c ws = ws := by
  rw [State.densWords, h]

theorem densWords_half {p : Nat × Nat} (h : c.densHalf = some p) (halign : p.2 % 8 = 0) :
    (s.densWords c ws).map (·.1) = ws.map (·.1) ∧ ∀ (i : Nat) (w v : Nat × Word), ws[i]? = some w →
      (s.densWords c ws)[i]? = some v → fld v.2 0 32 = fld w.2 0 32 ∧
        fld v.2 32 32 = if w.1 = p.1 then fld (s.word p.2) 32 32 else fld w.2 32 32 := by
  have hwords : s.densWords c ws = ws.map fun w => if w.1 = p.1 then (w.1, setPart (s.word p.2) p.2 4 (fld w.2 0 32)) else w := by
    rw [State.densWords, h]
  rw [hwords]
  refine ⟨?_, fun i w v hw hv => ?_⟩
  · rw [List.map_map]
    refine List.map_congr_left fun w _ => ?_
    simp only [Function.comp_apply]
    split <;> rfl
  · rw [List.getElem?_map, hw] at hv
    obtain rfl := Option.some.inj hv
    by_cases hp : w.1 = p.1
    · simp only [if_pos hp, setPart, halign]
      refine ⟨?_, ?_⟩
      · exact (fld_setFld (by decide) _ _).trans (Nat.mod_eq_of_lt (fld_lt _ _ _))
      · exact fld_setFld_other (by decide) _ _ (.inl (by decide))
    · simp only [if_neg hp]
      exact ⟨trivial, trivial⟩

end

/-! ### DENS_CHUNK -/

theorem zip_cons_drop {α β : Type} (a : α) (as : List α) : ∀ bs : List β, ((a :: as).zip bs).drop 1 = as.zip (bs.drop 1)
  | [] => by simp
  | _ :: _ => rfl

/-- A densifying copy whose chunk is written but for some words. -/
def Cmd.densGoes (c : Cmd) (left : List (Nat × Word)) (due : Nat) : Cmd :=
  if left.isEmpty then
    { c with phases := [], spots := [], planned := false, done := 4 * (c.densEnd + 1 - c.densLo), due
             ents := c.ents.filter fun p => decide (c.densLo + (c.densEnd + 1 - c.densLo) ≤ p.1)
             st := if c.len ≤ 4 * (c.densEnd + 1 - c.densLo) then 2 else 1 }
  else { c with phases := [left], due }

/-- The numbers of the words that a step writes: all of a chunk that ends in half a word. -/
def State.densNow (s : State) (c : Cmd) (ws : List (Nat × Word)) : List Nat :=
  if c.densHalf.isSome then List.range ws.length else s.actNow ws.length

theorem densGoes_left {c : Cmd} {left : List (Nat × Word)} {due : Nat} (h : left ≠ []) :
    c.densGoes left due = { c with phases := [left], due := (c.densGoes left due).due } := by
  rw [Cmd.densGoes, if_neg (by simpa using h)]

/-- The chunk of a densifying copy is over. -/
theorem densGoes_done {c : Cmd} {left : List (Nat × Word)} {due : Nat} (h : left = []) :
    (c.densGoes left due).phases = [] ∧ (c.densGoes left due).planned = false ∧
      (c.densGoes left due).done = 4 * (c.densEnd + 1 - c.densLo) ∧
      (c.densGoes left due).st = if c.len ≤ (c.densGoes left due).done then 2 else 1 := by
  rw [Cmd.densGoes, if_pos (List.isEmpty_iff.mpr h)]
  exact ⟨rfl, rfl, rfl, rfl⟩

theorem densNow_some (s : State) (c : Cmd) (ws : List (Nat × Word)) : (∀ k ∈ s.densNow c ws, k < ws.length) ∧
    (ws ≠ [] → s.densNow c ws ≠ []) ∧ (c.densHalf.isSome = true → s.densNow c ws = List.range ws.length) := by
  unfold State.densNow
  split
  next hhalf => exact ⟨fun k hk => List.mem_range.mp hk, fun hne => by simpa using hne, fun _ => rfl⟩
  next hwhole =>
    exact ⟨fun k hk => State.actNow_mem hk, fun hne => State.actNow_ne_nil (List.length_pos_iff.mpr hne), fun h => absurd h hwhole⟩

section
variable {s : State} {n : Nat} {c : Cmd} (h : Acts s n c) (hd : c.isDens = true)
include h hd

theorem exec_densChunk_places (hp : c.planned = false) : exec .densChunk s = .next
    (match s.spotsOf c (fld (c.blk.getD 0 0) 0 57 :: c.densVas) with
     | .error x => s.cmdOver c x
     | .ok ps => s.modCmd n fun c => { c with planned := true, spots := ps.drop 1 }) := by
  show execDensChunk s = _
  simp only [execDensChunk, h.actor, h.there]
  rw [if_neg (h.free (not_not.mpr hd)), if_pos (by rw [hp]; exact Bool.false_ne_true)]
  cases s.spotsOf c (fld (c.blk.getD 0 0) 0 57 :: c.densVas) <;> rfl

theorem exec_densChunk_placed (hp : c.planned = false) {xs : List Nat}
    (hxs : (fld (c.blk.getD 0 0) 0 57 :: c.densVas).mapM (s.cmdPa c) = .ok xs) :
    exec .densChunk s = .next (s.modCmd n fun x => { x with planned := true, spots := c.densVas.zip (xs.drop 1) }) := by
  rw [exec_densChunk_places h hd hp, spotsOf_ok hxs, ← zip_cons_drop]

theorem exec_densChunk_writes {ws : List (Nat × Word)} {rest : List (List (Nat × Word))} (hp : c.planned = true)
    (hphase : c.phases = ws :: rest) : exec .densChunk s = .next (s.densWrite c ws) := by
  show execDensChunk s = _
  simp only [execDensChunk, h.actor, h.there]
  rw [if_neg (h.free (not_not.mpr hd)), if_neg (not_not.mpr hp)]
  simp only [hphase]

theorem exec_densChunk_passed (hp : c.planned = true) (hphase : c.phases = [])
    (hkey : c.key = none ∨ ∃ k, c.key = some k ∧ c.densEnd < k) :
    exec .densChunk s = .next (s.modCmd n fun c => { c with phases := [c.densVals] }) := by
  have hnone : (c.key.filter fun k => decide (k ≤ c.densEnd)) = none := by
    rcases hkey with hk | ⟨k, hk, hlt⟩
    · rw [hk]
      rfl
    · rw [hk]
      exact if_neg (by simpa using hlt)
  show execDensChunk s = _
  simp only [execDensChunk, h.actor, h.there]
  rw [if_neg (h.free (not_not.mpr hd)), if_neg (not_not.mpr hp)]
  simp only [hphase, hnone]

section
variable {k : Nat} (hp : c.planned = true) (hphase : c.phases = []) (hkey : c.key = some k) (hk : k ≤ c.densEnd)
include hp hphase hkey hk

theorem exec_densChunk_waits (hfree : s.walkerFree (homeDie c.hdr) = false) : exec .densChunk s = .next s := by
  have hsome : (c.key.filter fun k => decide (k ≤ c.densEnd)) = some k := by
    rw [hkey]
    exact if_pos (decide_eq_true hk)
  show execDensChunk s = _
  simp only [execDensChunk, h.actor, h.there]
  rw [if_neg (h.free (not_not.mpr hd)), if_neg (not_not.mpr hp)]
  simp only [hphase, hsome]
  exact if_pos (by rw [hfree]; exact Bool.false_ne_true)

/-- A step of the traversal of a densifying copy. -/
theorem exec_densChunk_steps (hfree : s.walkerFree (homeDie c.hdr) = true) {t : Arb} {es : List (Nat × Nat)} {ends : Bool}
    (ht : readArb s c.hdr c.size = .ok t) (hstep : t.step k (fld (c.blk.getD 2 0) 32 32) = .ok (es, ends)) :
    exec .densChunk s = .next ((s.useWalker (homeDie c.hdr)).modCmd n fun c => { c with
      ents := c.ents ++ es, due := s.clock + 1, key := if ends then none else es.getLast?.map fun p => p.1 + 1 }) := by
  have hsome : (c.key.filter fun k => decide (k ≤ c.densEnd)) = some k := by
    rw [hkey]
    exact if_pos (decide_eq_true hk)
  show execDensChunk s = _
  simp only [execDensChunk, h.actor, h.there]
  rw [if_neg (h.free (not_not.mpr hd)), if_neg (not_not.mpr hp)]
  simp only [hphase, hsome]
  have hgot : (readArb (s.useWalker (homeDie c.hdr)) c.hdr c.size >>= fun t => t.step k (fld (c.blk.getD 2 0) 32 32)) =
      .ok (es, ends) := by
    rw [State.useWalker, State.modDie, readArb_withDies ht]
    exact (step_withDies _ _).trans hstep
  rw [if_neg (not_not.mpr hfree), hgot]
  rfl

end

end

section
variable {s : State} {n : Nat} {c : Cmd} (hc : s.cmd? n = some c) {ws : List (Nat × Word)}
  (hbad : ∀ p, c.densHalf = some p → s.isBad p.2 = false)
include hbad

theorem densWrite_eq : s.densWrite c ws = match s.putChunk c (s.densWords c ws) (s.densNow c ws) with
    | .error x => s.cmdOver c x
    | .ok (s1, left) => (s1.modCmd c.id fun x => if left.isEmpty then
        { x with phases := [], spots := [], planned := false, done := 4 * (c.densEnd + 1 - c.densLo), due := s.clock + 1 + s.waitNow,
                 ents := x.ents.filter fun p => decide (x.densLo + (c.densEnd + 1 - c.densLo) ≤ p.1),
                 st := if x.len ≤ 4 * (c.densEnd + 1 - c.densLo) then 2 else 1 }
      else { x with phases := [left], due := s.clock + 1 + s.waitNow }).tick := by
  refine if_neg ?_
  rw [Bool.not_eq_true]
  cases hh : c.densHalf with
  | none => rfl
  | some p => exact hbad p hh

include hc

theorem densWrite_fails {x : Nat} (hput : s.putChunk c (s.densWords c ws) (s.densNow c ws) = .error x)
    (hx : x ≠ Cause.uncorrectable) : (s.densWrite c ws).mem = s.mem ∧ (s.densWrite c ws).cmd? n = some (c.over x) := by
  rw [densWrite_eq hbad, hput]
  exact cmdOver_there hx (cmd_id hc) hc

theorem densWrite_goes {s1 : State} {left : List (Nat × Word)}
    (hput : s.putChunk c (s.densWords c ws) (s.densNow c ws) = .ok (s1, left)) :
    (s.densWrite c ws).mem = s1.mem ∧ (s.densWrite c ws).cmd? n = some (c.densGoes left (s.clock + 1 + s.waitNow)) := by
  rw [densWrite_eq hbad, hput]
  obtain rfl := cmd_id hc
  have hs1 : s1.cmd? c.id = some c := by
    obtain ⟨rfl, -⟩ := putChunk_ok hput
    rw [cmd_of_cmds (putSigs_rest _).1]
    exact hc
  refine ⟨rfl, (modCmd_there hs1 fun x hx => ?_).trans rfl⟩
  split
  · exact hx
  · exact hx

end

end Sys2Proof.Machine
end

section
/-! SUPPORT. Format conversions (R286, R390, R392, R394 to R396): the words of the source, the plan, and the chunks of each phase. -/
namespace Sys2Proof.Machine
open Sys2Proof Sys2Proof.Safety

/-- The source words of a conversion that are still to be read. -/
def Cmd.unreadSources (c : Cmd) : List Nat := (c.sources (cveF c.blk)).filter fun va => !c.snap.any fun w => w.va == va

/-- The numbers of the words that a step writes: of a CSR or arbor output the first ones. -/
def State.cveNow (s : State) (c : Cmd) (here : List (Nat × Word)) : List Nat :=
  if (cveF c.blk).toArbor || (cveF c.blk).toCsr then List.range (s.actNow here.length).length else s.actNow here.length

section
variable {s : State} {n : Nat} {c : Cmd} (h : Acts s n c) (hop : c.op = .cve)
include h hop

section
variable (hp : c.planned = false)
include hp

theorem exec_conversionPhase_reads (htodo : c.unreadSources ≠ []) :
    exec .conversionPhase s = .next (s.cmdSnap c c.unreadSources) := by
  show execConversionPhase s = _
  simp only [execConversionPhase, h.actor, h.there]
  rw [if_neg (h.free (not_not.mpr hop)), if_pos (by rw [hp]; exact Bool.false_ne_true)]
  change (match c.unreadSources with
    | [] => _
    | todo => Host.Outcome.next (s.cmdSnap c todo)) = _
  obtain ⟨va, vas, hcons⟩ := List.exists_cons_of_ne_nil htodo
  rw [hcons]

theorem exec_conversionPhase_plans (htodo : c.unreadSources = []) : exec .conversionPhase s =
    .next ((s.dropRegion c).modCmd n fun x => { x with planned := true, phases := c.cvePlan.1, cause := c.cvePlan.2 }) := by
  show execConversionPhase s = _
  simp only [execConversionPhase, h.actor, h.there]
  rw [if_neg (h.free (not_not.mpr hop)), if_pos (by rw [hp]; exact Bool.false_ne_true)]
  change (match c.unreadSources with
    | [] => Host.Outcome.next ((s.dropRegion c).modCmd n fun x => { x with planned := true, phases := c.cvePlan.1, cause := c.cvePlan.2 })
    | todo => _) = _
  rw [htodo]

end

section
variable (hp : c.planned = true)
include hp

theorem exec_conversionPhase_ends (hphase : c.phases = []) : exec .conversionPhase s = .next (s.cmdOver c c.cause) := by
  show execConversionPhase s = _
  simp only [execConversionPhase, h.actor, h.there]
  rw [if_neg (h.free (not_not.mpr hop)), if_neg (not_not.mpr hp)]
  simp only [hphase]

theorem exec_conversionPhase_chunk {p : List (Nat × Word)} {rest : List (List (Nat × Word))} (hphase : c.phases = p :: rest) :
    exec .conversionPhase s = .next (if c.spots.isEmpty ∧ ¬ p.isEmpty then s.cveChunk c p else s.cveWrite c p rest) := by
  show execConversionPhase s = _
  simp only [execConversionPhase, h.actor, h.there]
  rw [if_neg (h.free (not_not.mpr hop)), if_neg (not_not.mpr hp)]
  simp only [hphase]

end

end

theorem dropRegion_rest (s : State) (c : Cmd) : (s.dropRegion c).mem = s.mem ∧ (s.dropRegion c).cmds = s.cmds := by
  unfold State.dropRegion
  dsimp only
  split
  · split <;> exact ⟨rfl, rfl⟩
  · exact ⟨rfl, rfl⟩

section
variable {s : State} {n : Nat} {c : Cmd} (hc : s.cmd? n = some c)
include hc

theorem cmdSnap_there (todo : List Nat) : ∃ c', (s.cmdSnap c todo).cmd? n = some c' ∧ (s.cmdSnap c todo).mem = s.mem ∧
    c' = { c with snap := c'.snap, due := c'.due } ∧ s.clock < c'.due := by
  obtain rfl := cmd_id hc
  exact ⟨_, modCmd_there hc fun _ h => h, rfl, rfl, by dsimp only; omega⟩

variable {p : List (Nat × Word)} {rest : List (List (Nat × Word))}

theorem cveChunk_fails {x : Nat} (hx : x ≠ Cause.uncorrectable) (hvas : ((p.take 32).map (·.1)).mapM (s.cmdPa c) = .error x) :
    (s.cveChunk c p).mem = s.mem ∧ (s.cveChunk c p).cmd? n = some (c.over x) := by
  rw [State.cveChunk, spotsOf_error hvas]
  exact cmdOver_there hx (cmd_id hc) hc

theorem cveChunk_places {xs : List Nat} (hvas : ((p.take 32).map (·.1)).mapM (s.cmdPa c) = .ok xs) :
    (s.cveChunk c p).mem = s.mem ∧ (s.cveChunk c p).cmd? n = some { c with spots := ((p.take 32).map (·.1)).zip xs } := by
  obtain rfl := cmd_id hc
  rw [State.cveChunk, spotsOf_ok hvas]
  exact ⟨rfl, modCmd_there hc fun _ h => h⟩

theorem cveWrite_fails {x : Nat} (hx : x ≠ Cause.uncorrectable)
    (hput : s.putChunk c (p.take c.spots.length) (s.cveNow c (p.take c.spots.length)) = .error x) :
    (s.cveWrite c p rest).mem = s.mem ∧ (s.cveWrite c p rest).cmd? n = some (c.over x) := by
  have hwrite : s.cveWrite c p rest = s.cmdOver c x := by
    unfold State.cveWrite
    dsimp only
    change (match s.putChunk c (p.take c.spots.length) (s.cveNow c (p.take c.spots.length)) with
      | .error x => s.cmdOver c x
      | .ok (s1, left) => _) = _
    rw [hput]
  rw [hwrite]
  exact cmdOver_there hx (cmd_id hc) hc

/-- A conversion that has written some of k words of a chunk, with the words that its phase has left. -/
def Cmd.cveGoes (c : Cmd) (k : Nat) (todo left : List (Nat × Word)) (rest : List (List (Nat × Word))) (due : Nat) : Cmd :=
  { c with
    phases := if todo.isEmpty then rest else todo :: rest
    spots := c.spots.filter fun x => left.any fun w => w.1 == x.1
    done := c.done + 8 * (k - left.length), due }

theorem cveWrite_goes {s1 : State} {left : List (Nat × Word)}
    (hput : s.putChunk c (p.take c.spots.length) (s.cveNow c (p.take c.spots.length)) = .ok (s1, left)) :
    (s.cveWrite c p rest).mem = s1.mem ∧ (s.cveWrite c p rest).cmd? n = some (c.cveGoes (p.take c.spots.length).length
      (left ++ p.drop (p.take c.spots.length).length) left rest (s.clock + 1 + s.waitNow)) := by
  obtain rfl := cmd_id hc
  have hs1 : s1.cmd? c.id = some c := by
    obtain ⟨rfl, -⟩ := putChunk_ok hput
    rw [cmd_of_cmds (putSigs_rest _).1]
    exact hc
  have hwrite : s.cveWrite c p rest = (s1.modCmd c.id fun x => x.cveGoes (p.take c.spots.length).length
      (left ++ p.drop (p.take c.spots.length).length) left rest (s.clock + 1 + s.waitNow)).tick := by
    unfold State.cveWrite
    dsimp only
    change (match s.putChunk c (p.take c.spots.length) (s.cveNow c (p.take c.spots.length)) with
      | .error x => s.cmdOver c x
      | .ok (s1, left) => _) = _
    rw [hput]
    rfl
  rw [hwrite]
  exact ⟨rfl, modCmd_there hs1 fun _ h => h⟩

end

/-- The words of a chunk that a step writes are some of them, and the first ones of a CSR or arbor output. -/
theorem cveNow_some (s : State) (c : Cmd) (here : List (Nat × Word)) : (∀ k ∈ s.cveNow c here, k < here.length) ∧
    (here ≠ [] → s.cveNow c here ≠ []) ∧
    ((cveF c.blk).toArbor = true ∨ (cveF c.blk).toCsr = true → ∃ m, s.cveNow c here = List.range m) := by
  have hlen : (s.actNow here.length).length ≤ here.length := by
    simpa using (actNow_sublist s here.length).length_le
  have hne : here ≠ [] → s.actNow here.length ≠ [] := fun h => State.actNow_ne_nil (List.length_pos_iff.mpr h)
  unfold State.cveNow
  split
  next hordered =>
    refine ⟨fun k hk => lt_of_lt_of_le (List.mem_range.mp hk) hlen, fun h => ?_, fun _ => ⟨_, rfl⟩⟩
    simpa using hne h
  next hfree =>
    refine ⟨fun k hk => State.actNow_mem hk, hne, fun h => absurd ?_ hfree⟩
    simpa using h

end Sys2Proof.Machine
end

section
/-! SUPPORT. Engine commands (R286, R360, R384 to R397): the obligation. -/
namespace Sys2Proof.Machine
open Sys2Proof Sys2Proof.Safety

/-- Settles O40: a block's check, acceptance and end change the queue, the record and the command that they name; the chunks of
copies, densifying copies and conversions are written by `putChunk` and `copyWrites`, word by word at the places that the check
of their runs gave. -/
theorem engines : Obligations.Engines := by
  unfold Obligations.Engines
  refine ⟨⟨fun s r gid e i h hf hop => ⟨fun hread => ?_, fun hread => ⟨fun pa b ss ds hq => ?_, fun code info g hq hg => ?_⟩⟩,
    fun s n c ha hc hm => ⟨fun a hst hdue hfree hconf hland hwalk hrec hpend => ?_,
      fun a t hst hred hbusy hhandle hcause hpa hs hrec happart => ?_⟩⟩,
    fun s n c ha hc hm hst hdue hserved => ⟨fun hop => ?_, fun hd => ?_, fun hop => ?_, fun ws ks hks => ?_⟩⟩
  · obtain ⟨s', hexec, hmem, hissue⟩ := exec_commandBlockCheck_reads h hf hop hread
    refine ⟨s', hexec, hmem, fun e' i' he' hi' => ?_⟩
    obtain rfl := hissue e' i' he' hi'
    refine ⟨rfl, fun w hw => (List.mem_append.mp hw).imp_right fun hnow => ?_⟩
    exact blockWordsNow_mem hnow
  · obtain ⟨hcmds, hmem, hdie⟩ := blockChecked_queue h.2 hq
    have href := elem_ref h.2
    refine ⟨_, _, exec_commandBlockCheck_checks h hf hop hread, hcmds, rfl, rfl, rfl, rfl, rfl, rfl, href, rfl,
      by rw [← href]; rfl, hmem, fun x hx => ⟨_, hdie x hx, ?_⟩⟩
    exact enqueueCmd_queueOf x i.op _
  · obtain ⟨hcmds, hmem, g', hg', houtc, hopened, hlast⟩ := blockChecked_status h.2 (by simpa using List.find?_some hf) hq hg
    exact ⟨_, g', exec_commandBlockCheck_checks h hf hop hread, hcmds, hmem, hg', houtc, hopened, hlast⟩
  · exact acceptance_counts ha hc hm hst hdue hfree hconf hland hwalk hrec hpend
  · obtain ⟨s', hexec, hgone, hword, hpend, hbytes⟩ := end_completes ha hc hm hst hred hbusy hhandle hcause hpa hs hrec happart
    refine ⟨s', hexec, hgone, hword.trans ?_, hpend, hbytes⟩
    rw [engineResult, hcause, Nat.zero_mul, Nat.zero_add]
  · have hacts : Acts s n c := ⟨ha, hc, hst, hdue, hserved⟩
    have hexec := exec_copyChunk hacts hop
    obtain ⟨hid1, hlen1, hdie1, hdone1⟩ := copyStart_rest s c
    obtain ⟨hid2, hlen2, hdie2, hdone2⟩ := copyReads_rest s (s.copyStart c)
    have hrest := copyWrites_rest s (s.copyReads (s.copyStart c))
    have hid : (s.copyWrites (s.copyReads (s.copyStart c))).2.id = n := by rw [hrest.id, hid2, hid1, cmd_id hc]
    have hlen : (s.copyWrites (s.copyReads (s.copyStart c))).2.len = c.len := by rw [hrest.len, hlen2, hlen1]
    have hthere : (s.copyWrites (s.copyReads (s.copyStart c))).1.cmd? n = some c := (cmd_of_cmds hrest.cmds n).trans hc
    refine ⟨fun hfail => ?_, fun k x hfail hturn hmore hx => ?_, fun sa da hfail hmore hahead hplaces => ?_,
      fun x hfail hmore hahead hwords => copyStart_fails hfail hmore hahead hwords, fun hnd hfree => ?_, fun a hseen halign => ?_,
      fun hne hready hpair => ?_⟩
    · obtain ⟨c', hc', hmem, hlate, heq⟩ := copied_goes (s := s) hthere hid hfail
      rw [hlen] at heq
      exact ⟨_, c', ⟨hexec, hc'⟩, hmem, hlate, heq⟩
    · obtain ⟨c', hc', hmem, hover⟩ := copied_fails (s := s) hthere hid hfail hturn (by rw [hlen]; exact hmore) hx
      exact ⟨_, c', ⟨hexec, hc'⟩, hmem, hover⟩
    · exact copyStart_starts hfail hmore hahead hplaces
    · have hreads := copyReads_reads hnd (by rw [hdie1]; exact hfree)
      rw [hdie1] at hreads
      exact hreads
    · have hword : wordOf a = a := by
        have := wordOf_add a
        omega
      rw [valueFor_home hseen, hword]
    · exact copyWrites_writes hm hne hready hpair
  · have hacts : Acts s n c := ⟨ha, hc, hst, hdue, hserved⟩
    refine ⟨fun hp => ⟨fun x hx hplain => ?_, fun xs hxs => ?_⟩, fun hp hphase => ⟨fun k hkey hk hfree => ?_,
      fun k t es ends hkey hk hfree ht hstep => ?_, fun hkey => ?_⟩, fun hents i hi => ?_, fun ws hhalf => densWords_whole hhalf,
      fun ws p hhalf halign => densWords_half hhalf halign, fun ws rest hp hphase hbad => ?_⟩
    · have hexec := exec_densChunk_places hacts hd hp
      rw [spotsOf_error hx] at hexec
      obtain ⟨hmem, hover⟩ := cmdOver_there hplain (cmd_id hc) hc
      exact ⟨_, _, ⟨hexec, hover⟩, hmem, rfl, rfl, rfl⟩
    · exact ⟨_, ⟨exec_densChunk_placed hacts hd hp hxs,
        modCmd_there hc (f := fun x => { x with planned := true, spots := c.densVas.zip (xs.drop 1) }) fun _ h => h⟩, rfl⟩
    · exact exec_densChunk_waits hacts hd hp hphase hkey hk hfree
    · exact ⟨_, ⟨exec_densChunk_steps hacts hd hp hphase hkey hk hfree ht hstep,
        modCmd_there (s := s.useWalker (homeDie c.hdr)) hc (f := fun c => { c with
          ents := c.ents ++ es, due := s.clock + 1, key := if ends then none else es.getLast?.map fun p => p.1 + 1 })
          fun _ h => h⟩, rfl⟩
    · exact ⟨_, ⟨exec_densChunk_passed hacts hd hp hphase hkey,
        modCmd_there hc (f := fun c => { c with phases := [c.densVals] }) fun _ h => h⟩, rfl⟩
    · exact ⟨_, densVals_getElem hi, fun j hj => (densWord_lane hents i hj).trans (densVal_eq c _)⟩
    · have hexec := exec_densChunk_writes hacts hd hp hphase
      obtain ⟨hlt, hne, hall⟩ := densNow_some s c ws
      refine ⟨s.densNow c ws, hlt, hne, hall, fun x hput hx => ?_, fun s1 left hput => ?_⟩
      · obtain ⟨hmem, hover⟩ := densWrite_fails hc hbad hput hx
        exact ⟨_, _, ⟨hexec, hover⟩, hmem, rfl, rfl, rfl⟩
      · obtain ⟨hmem, hgoes⟩ := densWrite_goes hc hbad hput
        exact ⟨_, _, ⟨hexec, hgoes⟩, hmem, fun hleft => densGoes_left hleft, fun hleft => densGoes_done hleft⟩
  · have hacts : Acts s n c := ⟨ha, hc, hst, hdue, hserved⟩
    refine ⟨fun hp htodo => ?_, fun hp htodo => ?_, fun hp hphase hcause => ?_, fun p rest hp hphase hne hspots =>
      ⟨fun x hvas hx => ?_, fun xs hvas => ?_⟩, fun p rest hp hphase hready => ?_⟩
    · obtain ⟨c', hc', hmem, heq, hlate⟩ := cmdSnap_there hc c.unreadSources
      exact ⟨_, c', ⟨exec_conversionPhase_reads hacts hop hp htodo, hc'⟩, hmem, heq, hlate⟩
    · obtain ⟨hmem, hcmds⟩ := dropRegion_rest s c
      exact ⟨_, ⟨exec_conversionPhase_plans hacts hop hp htodo, modCmd_there ((cmd_of_cmds hcmds n).trans hc)
        (f := fun x => { x with planned := true, phases := c.cvePlan.1, cause := c.cvePlan.2 }) fun _ h => h⟩, hmem⟩
    · obtain ⟨hmem, hover⟩ := cmdOver_there hcause (cmd_id hc) hc
      exact ⟨_, _, ⟨exec_conversionPhase_ends hacts hop hp hphase, hover⟩, hmem, rfl, rfl, rfl⟩
    · have hexec := exec_conversionPhase_chunk hacts hop hp hphase
      rw [if_pos ⟨by rw [hspots]; rfl, by simpa using hne⟩] at hexec
      obtain ⟨hmem, hover⟩ := cveChunk_fails hc hx hvas
      exact ⟨_, _, ⟨hexec, hover⟩, hmem, rfl, rfl, rfl⟩
    · have hexec := exec_conversionPhase_chunk hacts hop hp hphase
      rw [if_pos ⟨by rw [hspots]; rfl, by simpa using hne⟩] at hexec
      obtain ⟨hmem, hplaced⟩ := cveChunk_places hc hvas
      exact ⟨_, ⟨hexec, hplaced⟩, hmem⟩
    · have hexec := exec_conversionPhase_chunk hacts hop hp hphase
      rw [if_neg (by simpa [or_iff_not_imp_right] using hready)] at hexec
      obtain ⟨hlt, hne, hordered⟩ := cveNow_some s c (p.take c.spots.length)
      refine ⟨s.cveNow c (p.take c.spots.length), hlt, hne, hordered, fun x hput hx => ?_, fun s1 left hput => ?_⟩
      · obtain ⟨hmem, hover⟩ := cveWrite_fails (rest := rest) hc hx hput
        exact ⟨_, _, ⟨hexec, hover⟩, hmem, rfl, rfl, rfl⟩
      · obtain ⟨hmem, hgoes⟩ := cveWrite_goes (rest := rest) hc hput
        refine ⟨_, _, ⟨hexec, hgoes⟩, hmem, ?_, fun x => ?_⟩
        · simp only [Cmd.cveGoes, List.isEmpty_iff]
        · simp [Cmd.cveGoes]
  · refine ⟨fun x hput => ?_, fun hr hw => ?_, fun s1 left hput => ?_⟩
    · obtain ⟨hr, hx, w, hw, hcause⟩ := putChunk_error hput
      exact ⟨hr, hx, w, hw, (congrArg s.storeCause (spot_eq c w)).symm.trans hcause⟩
    · obtain ⟨w, hw, hcause⟩ := hw
      exact putChunk_fails hr ⟨w, hw, fun h => hcause ((congrArg s.storeCause (spot_eq c w)).symm.trans h)⟩
    · obtain ⟨hkept, hwhole, hfrom, hbytes, hwords⟩ := putChunk_written hm hks hput
      simp only [spot_eq] at hbytes hwords
      exact ⟨hkept, hwhole, hfrom, hbytes, hwords⟩

end Sys2Proof.Machine
end
